-- ==== Sys2Proof/Word.lean ====
section
/-! DEFINITION. The word types of the TF9: what the manual treats as bits. -/

namespace Sys2Proof

/-- A 32-bit instruction word, scalar register or vector lane (R166, R279). -/
abbrev Word := BitVec 32

/-- One byte of memory (R3: multi-byte values are little-endian). -/
abbrev Byte := BitVec 8

/-- A 64-bit value: an address register pair, a counter, a signal (R56, R90). -/
abbrev DWord := BitVec 64

/-- A lane mask or a per-lane predicate: bit l stands for lane l (R166). -/
abbrev Mask := BitVec 32

/-- Sign-extend a bit vector to 64 bits. -/
def sext64 {n : Nat} (x : BitVec n) : DWord := x.signExtend 64

end Sys2Proof
end

