-- ==== Sys2Proof/Syntax.lean ====
section
/-! DEFINITION. The syntax of the model: the first-word and extension-word formats (R279-R282), the messages and names
the device events carry, and `Instr`, the one inductive with a constructor for every row of the table of operations and
events: the instructions of the seven classes, then the device events. -/

namespace Sys2Proof

/-- REG first word (R279, R280): [24:18] d, [17:11] a, [10:4] b, [3:2] guard, [1] fa, [0] fb. -/
structure Reg where
  d : BitVec 7
  a : BitVec 7
  b : BitVec 7
  g : BitVec 2
  fa : Bool
  fb : Bool
  deriving DecidableEq, Repr, Inhabited

/-- RI first word (R280): d, a and a signed 11-bit immediate. -/
structure Ri where
  d : BitVec 7
  a : BitVec 7
  imm : BitVec 11
  deriving DecidableEq, Repr, Inhabited

/-- BR first word (R280): the condition field and a signed 18-bit word offset. -/
structure Br where
  c : BitVec 7
  off : BitVec 18
  deriving DecidableEq, Repr, Inhabited

/-- MEM first word (R280): data register, offset register, scalar base pair, pair bit, guard, fa, fb. -/
structure Mm where
  d : BitVec 7
  a : BitVec 7
  base : BitVec 6
  pair : Bool
  g : BitVec 2
  fa : Bool
  fb : Bool
  deriving DecidableEq, Repr, Inhabited

/-- XR extension word (R281). -/
structure Xr where
  minor : BitVec 8
  c : BitVec 7
  g : BitVec 3
  neg : Bool
  fc : Bool
  bs : Bool
  mode : BitVec 3
  amt : BitVec 5
  clamp : Bool
  rnd : BitVec 2
  deriving DecidableEq, Repr, Inhabited

/-- XM extension word (R282); `low` is [14:0], whose form the instruction chooses. -/
structure Xm where
  minor : BitVec 8
  scope : BitVec 3
  order : BitVec 2
  g : BitVec 3
  neg : Bool
  low : BitVec 15
  deriving DecidableEq, Repr, Inhabited

/-- An endpoint (R15): package, die code, core position and unit. -/
structure Endpoint where
  pkg : Nat
  die : Nat
  pos : Nat
  unit : Nat
  deriving DecidableEq, Repr, Inhabited

/-- A core: package, shader die, physical position (R6, R7). -/
structure CoreId where
  pkg : Nat
  die : Nat
  pos : Nat
  deriving DecidableEq, Repr, Inhabited

/-- A shader die of a package (R6). -/
structure DieId where
  pkg : Nat
  die : Nat
  deriving DecidableEq, Repr, Inhabited

/-- A warp slot of a core (R165). -/
structure WarpId where
  core : CoreId
  slot : Nat
  deriving DecidableEq, Repr, Inhabited

/-- A block, named by its launch table index (R255), its gang and its core j within the gang (R134). -/
structure BlockId where
  grid : Nat
  gang : Nat
  j : Nat
  deriving DecidableEq, Repr, Inhabited

/-- A gang of a launch (R134). -/
structure GangRef where
  grid : Nat
  gang : Nat
  deriving DecidableEq, Repr, Inhabited

/-- A Broker of the tree (R130). -/
inductive BrokerId where
  | rack
  | tray (t : Nat)
  | pkg (p : Nat)
  | die (p d : Nat)
  deriving DecidableEq, Repr, Inhabited

/-- A die-to-die link of a package (R6, R12), between die codes a and b. -/
structure LinkId where
  pkg : Nat
  a : Nat
  b : Nat
  deriving DecidableEq, Repr, Inhabited

/-- Where a LAUNCH packet comes from: the command queue (R82), an entry of the time-triggered table (R99), or a LAUNCH
instruction on a die (R101). -/
inductive LaunchSrc where
  | queue
  | table (entry : Nat)
  | child (die : DieId)
  deriving DecidableEq, Repr, Inhabited

/-- A request or reply of one slot (R40, R41), with the header fields that route it (R14).
Tags 0-255 are the architectural ones (R44); a larger tag is the model's number for a request that stays in its package. -/
structure Packet where
  opcode : Nat
  dst : Endpoint
  src : Endpoint
  issuer : Endpoint
  warp : Nat
  lane : Nat
  tag : Nat
  round : Nat
  scope : Nat
  order : Nat
  size : Nat
  atom : Nat
  sym : Bool
  addr : Nat
  data0 : BitVec 128
  data1 : BitVec 64
  version : BitVec 16
  forwarded : Bool
  deriving DecidableEq, Repr, Inhabited

/-- A 128-byte line with its header and trailer (R17, R43). -/
structure LinePkt where
  opcode : Nat
  dst : Endpoint
  src : Endpoint
  issuer : Endpoint
  warp : Nat
  tag : Nat
  round : Nat
  scope : Nat
  order : Nat
  addr : Nat
  group : Nat
  seq : Nat
  index : Nat
  operator : Nat
  folded : Nat
  data : List Byte
  mask : BitVec 128
  poison : Bool
  lcrcOk : Bool
  version : BitVec 16
  forwarded : Bool
  deriving DecidableEq, Repr, Inhabited

/-- A Broker message (R131, R132): its parties, grid, gang range, Data 1 and sequence number; `copyOf` names the thief or the new
holder when it is a copy for a Broker above (R139, R150). -/
structure BrokerMsg where
  src : BrokerId
  dst : BrokerId
  grid : Nat
  first : Nat
  count : Nat
  data1 : DWord
  seq : Nat
  copyOf : Option BrokerId := none
  deriving DecidableEq, Repr, Inhabited

/-- The instruction class of a clause header (R276). -/
inductive Cls where
  | ctrl
  | vec
  | mem
  | mtx
  | cpy
  | sync
  | sys
  deriving DecidableEq, Repr, Inhabited

/-- A clause header (R276): N, class, yield hint, hold bits (bit k - 1 is Hk). -/
structure Header where
  n : Nat
  cls : Cls
  yield : Bool
  hold : BitVec 15
  deriving DecidableEq, Repr, Inhabited

/-- Why a word is not an instruction (R298). All of these raise Illegal-instruction. -/
inductive DecodeError where
  | noMajor
  | badForm
  | badField
  | missingWord
  deriving DecidableEq, Repr, Inhabited

/-- The operands of a device event: which unit it acts at and what it carries. Each event reads the fields its docstring
or meaning names; the others stand at their defaults. -/
structure Arg where
  p : Nat := 0
  port : Nat := 0
  i : Nat := 0
  n : Nat := 0
  d : DieId := default
  c : CoreId := default
  w : WarpId := default
  b : BlockId := default
  g : GangRef := default
  k : BrokerId := default
  link : LinkId := default
  q : Packet := default
  l : LinePkt := default
  m : BrokerMsg := default
  src : LaunchSrc := default
  flag : Bool := false
  word : Word := 0
  rx : BitVec 16 := 0
  tx : BitVec 16 := 0
  ppm : Int := 0
  bytes : List Byte := []
  deriving DecidableEq, Repr, Inhabited

/-- The operations and events of the part, one constructor for each row of the table: the instructions, which carry the
fields of their words, then the device events, whose operands stand in the state (`State.arg`). -/
inductive Instr where
  /-- NOP (R306). Does nothing. -/
  | nop (r : Reg)
  /-- SMOV (R304). Copies a scalar register. -/
  | smov (r : Reg)
  /-- SMOVI (R304). Loads an 11-bit immediate into a scalar register. -/
  | smovi (r : Ri)
  /-- SMOVI_XI (R304). Loads a 32-bit immediate into a scalar register. -/
  | smoviXi (r : Ri) (x : Word)
  /-- SADD (R304). Adds two scalar registers. -/
  | sadd (r : Reg)
  /-- SSUB (R304). Subtracts two scalar registers. -/
  | ssub (r : Reg)
  /-- SMUL (R304). Gives the low 32 bits of a scalar product. -/
  | smul (r : Reg)
  /-- SMULHI (R304). Gives the high 32 bits of a signed scalar product. -/
  | smulhi (r : Reg)
  /-- SAND (R304). Scalar AND. -/
  | sand (r : Reg)
  /-- SOR (R304). Scalar OR. -/
  | sor (r : Reg)
  /-- SXOR (R304). Scalar XOR. -/
  | sxor (r : Reg)
  /-- SSHL (R304). Scalar shift left. -/
  | sshl (r : Reg)
  /-- SSHR (R304). Scalar logical shift right. -/
  | sshr (r : Reg)
  /-- SSAR (R304). Scalar arithmetic shift right. -/
  | ssar (r : Reg)
  /-- SADDI (R304). Adds an 11-bit immediate to a scalar register. -/
  | saddi (r : Ri)
  /-- SADDI_XI (R304). Adds a 32-bit immediate to a scalar register. -/
  | saddiXi (r : Ri) (x : Word)
  /-- SANDI (R304). ANDs a scalar register with an 11-bit immediate. -/
  | sandi (r : Ri)
  /-- SANDI_XI (R304). ANDs a scalar register with a 32-bit immediate. -/
  | sandiXi (r : Ri) (x : Word)
  /-- SMIN (R304). Signed scalar minimum. -/
  | smin (r : Reg)
  /-- SMAX (R304). Signed scalar maximum. -/
  | smax (r : Reg)
  /-- SMINN (R304). Natural scalar minimum. -/
  | sminn (r : Reg)
  /-- SMAXN (R304). Natural scalar maximum. -/
  | smaxn (r : Reg)
  /-- SCMP (R305). Scalar equality compare, writing 1 or 0. -/
  | scmp (r : Reg)
  /-- SCMP_XR (R305). Scalar compare with the condition chosen by the minor. -/
  | scmpXr (r : Reg) (x : Xr)
  /-- SREAD (R307). Reads a special register into a scalar register or pair. -/
  | sread (r : Reg)
  /-- SWRITE (R308). Writes a special register, including binding or unbinding a walker. -/
  | swrite (r : Reg)
  /-- BRA (R312). Unconditional branch. -/
  | bra (r : Br)
  /-- BZ (R312). Branches when a scalar is zero. -/
  | bz (r : Br)
  /-- BNZ (R312). Branches when a scalar is nonzero. -/
  | bnz (r : Br)
  /-- BLTZ (R312). Branches when a scalar is negative. -/
  | bltz (r : Br)
  /-- BGEZ (R312). Branches when a scalar is not negative. -/
  | bgez (r : Br)
  /-- BRU (R313). Uniform predicate branch that faults when the predicate varies across lanes. -/
  | bru (r : Br)
  /-- BRD (R314). Divergent branch that splits the slot and pushes the divergence stack. -/
  | brd (r : Br) (x : Word)
  /-- BRW (R315). Branches on a walker end flag. -/
  | brw (r : Br)
  /-- CALL (R316). Branches and writes the link pair. -/
  | call (r : Br)
  /-- CALLR (R316). Calls a uniform register target. -/
  | callr (r : Reg)
  /-- RET (R316). Returns to the link pair. -/
  | ret (r : Reg)
  /-- JMPR (R316). Jumps to a uniform register target. -/
  | jmpr (r : Reg)
  /-- EXIT (R318). Removes the guarded active lanes, possibly ending the warp. -/
  | exit (r : Reg)
  /-- TAKE (R319). Asks the Broker for an unstarted gang of the block's own grid. -/
  | take (r : Reg)
  /-- VMOV (R325). Vector move, with an optional cross-lane source. -/
  | vmov (r : Reg)
  /-- VMOV_XR (R325). Long-form vector move. -/
  | vmovXr (r : Reg) (x : Xr)
  /-- VMOVI (R325). Loads an 11-bit immediate into every active lane. -/
  | vmovi (r : Ri)
  /-- VMOVI_XI (R325). Loads a 32-bit immediate into every active lane. -/
  | vmoviXi (r : Ri) (x : Word)
  /-- VMOVS (R325). Broadcasts a scalar into a vector register. -/
  | vmovs (r : Reg)
  /-- VMOVS_XR (R325). Long-form scalar broadcast. -/
  | vmovsXr (r : Reg) (x : Xr)
  /-- IADD (R326). Integer add. -/
  | iadd (r : Reg)
  /-- IADD_XR (R326). Long-form integer add. -/
  | iaddXr (r : Reg) (x : Xr)
  /-- ISUB (R326). Integer subtract. -/
  | isub (r : Reg)
  /-- ISUB_XR (R326). Long-form integer subtract. -/
  | isubXr (r : Reg) (x : Xr)
  /-- IMUL (R326). Low 32 bits of an integer product. -/
  | imul (r : Reg)
  /-- IMUL_XR (R326). Long-form integer multiply. -/
  | imulXr (r : Reg) (x : Xr)
  /-- IMULHI (R326). High 32 bits of a signed product. -/
  | imulhi (r : Reg)
  /-- IMULHI_XR (R326). High product, signed or natural by the minor. -/
  | imulhiXr (r : Reg) (x : Xr)
  /-- IMAD (R326). Integer multiply-add. -/
  | imad (r : Reg) (x : Xr)
  /-- IMIN (R326). Signed integer minimum. -/
  | imin (r : Reg)
  /-- IMIN_XR (R326). Integer minimum, signed or natural by the minor. -/
  | iminXr (r : Reg) (x : Xr)
  /-- IMAX (R326). Signed integer maximum. -/
  | imax (r : Reg)
  /-- IMAX_XR (R326). Integer maximum, signed or natural by the minor. -/
  | imaxXr (r : Reg) (x : Xr)
  /-- AND (R326). Vector AND. -/
  | vand (r : Reg)
  /-- AND_XR (R326). Long-form vector AND. -/
  | vandXr (r : Reg) (x : Xr)
  /-- OR (R326). Vector OR. -/
  | vor (r : Reg)
  /-- OR_XR (R326). Long-form vector OR. -/
  | vorXr (r : Reg) (x : Xr)
  /-- XOR (R326). Vector XOR. -/
  | vxor (r : Reg)
  /-- XOR_XR (R326). Long-form vector XOR. -/
  | vxorXr (r : Reg) (x : Xr)
  /-- SHL (R326). Vector shift left. -/
  | shl (r : Reg)
  /-- SHL_XR (R326). Long-form vector shift left. -/
  | shlXr (r : Reg) (x : Xr)
  /-- SHR (R326). Vector logical shift right. -/
  | shr (r : Reg)
  /-- SHR_XR (R326). Long-form vector logical shift right. -/
  | shrXr (r : Reg) (x : Xr)
  /-- SAR (R326). Vector arithmetic shift right. -/
  | sar (r : Reg)
  /-- SAR_XR (R326). Long-form vector arithmetic shift right. -/
  | sarXr (r : Reg) (x : Xr)
  /-- BFE (R327). Bit-field extract with zero extension. -/
  | bfe (r : Reg)
  /-- BFE_XR (R327). Bit-field extract, natural or signed by the minor. -/
  | bfeXr (r : Reg) (x : Xr)
  /-- BFI (R327). Bit-field insert. -/
  | bfi (r : Reg) (x : Xr)
  /-- POPC (R326). Population count. -/
  | popc (r : Reg)
  /-- POPC_XR (R326). Long-form population count. -/
  | popcXr (r : Reg) (x : Xr)
  /-- CLZ (R326). Count of leading zeros. -/
  | clz (r : Reg)
  /-- CLZ_XR (R326). Long-form leading-zero count. -/
  | clzXr (r : Reg) (x : Xr)
  /-- BREV (R326). Bit reverse. -/
  | brev (r : Reg)
  /-- BREV_XR (R326). Long-form bit reverse. -/
  | brevXr (r : Reg) (x : Xr)
  /-- ADDI (R328). Adds an 11-bit immediate to a vector. -/
  | addi (r : Ri)
  /-- ADDI_XI (R328). Adds a 32-bit immediate to a vector. -/
  | addiXi (r : Ri) (x : Word)
  /-- ANDI (R328). ANDs a vector with an 11-bit immediate. -/
  | andi (r : Ri)
  /-- ANDI_XI (R328). ANDs a vector with a 32-bit immediate. -/
  | andiXi (r : Ri) (x : Word)
  /-- SHLI (R328). Vector shift left by an immediate. -/
  | shli (r : Ri)
  /-- SHLI_XI (R328). Long-form immediate shift left. -/
  | shliXi (r : Ri) (x : Word)
  /-- SHRI (R328). Vector logical shift right by an immediate. -/
  | shri (r : Ri)
  /-- SHRI_XI (R328). Long-form immediate shift right. -/
  | shriXi (r : Ri) (x : Word)
  /-- FADD (R329). FP32 add under RNE. -/
  | fadd (r : Reg)
  /-- FADD_XR (R329). FP32 add with a selected rounding mode. -/
  | faddXr (r : Reg) (x : Xr)
  /-- FSUB (R329). FP32 subtract under RNE. -/
  | fsub (r : Reg)
  /-- FSUB_XR (R329). FP32 subtract with a selected rounding mode. -/
  | fsubXr (r : Reg) (x : Xr)
  /-- FMUL (R329). FP32 multiply under RNE. -/
  | fmul (r : Reg)
  /-- FMUL_XR (R329). FP32 multiply with a selected rounding mode. -/
  | fmulXr (r : Reg) (x : Xr)
  /-- FFMA (R329). FP32 fused multiply-add. -/
  | ffma (r : Reg) (x : Xr)
  /-- FMIN (R330). FP32 minimum. -/
  | fmin (r : Reg)
  /-- FMIN_XR (R330). Long-form FP32 minimum. -/
  | fminXr (r : Reg) (x : Xr)
  /-- FMAX (R330). FP32 maximum. -/
  | fmax (r : Reg)
  /-- FMAX_XR (R330). Long-form FP32 maximum. -/
  | fmaxXr (r : Reg) (x : Xr)
  /-- FRCP (R331). Correctly rounded reciprocal, long-latency. -/
  | frcp (r : Reg)
  /-- FRCP_XR (R331). Reciprocal with a selected rounding mode. -/
  | frcpXr (r : Reg) (x : Xr)
  /-- FRSQ (R331). Correctly rounded reciprocal square root. -/
  | frsq (r : Reg)
  /-- FRSQ_XR (R331). Reciprocal square root with a selected rounding mode. -/
  | frsqXr (r : Reg) (x : Xr)
  /-- FSQRT (R331). Correctly rounded square root. -/
  | fsqrt (r : Reg)
  /-- FSQRT_XR (R331). Square root with a selected rounding mode. -/
  | fsqrtXr (r : Reg) (x : Xr)
  /-- FEX2 (R331). Correctly rounded 2 to the power a. -/
  | fex2 (r : Reg)
  /-- FEX2_XR (R331). 2 to the power a with a selected rounding mode. -/
  | fex2Xr (r : Reg) (x : Xr)
  /-- FLG2 (R331). Correctly rounded base-2 logarithm. -/
  | flg2 (r : Reg)
  /-- FLG2_XR (R331). Base-2 logarithm with a selected rounding mode. -/
  | flg2Xr (r : Reg) (x : Xr)
  /-- ICMP (R332). Integer equality compare into a predicate. -/
  | icmp (r : Reg)
  /-- ICMP_XR (R332). Integer compare with the condition chosen by the minor. -/
  | icmpXr (r : Reg) (x : Xr)
  /-- FCMP (R332). FP32 equality compare into a predicate. -/
  | fcmp (r : Reg)
  /-- FCMP_XR (R332). FP32 compare with the condition chosen by the minor. -/
  | fcmpXr (r : Reg) (x : Xr)
  /-- PSET (R333). Sets a predicate from a nonzero register. -/
  | pset (r : Reg)
  /-- PSET_XR (R333). Long-form predicate set. -/
  | psetXr (r : Reg) (x : Xr)
  /-- SEL (R333). Selects between two registers by a predicate. -/
  | sel (r : Reg) (x : Xr)
  /-- CVT (R334). Converts one value per lane between types. -/
  | cvt (r : Reg) (x : Xr)
  /-- PACK4 (R337). Packs four-bit codes of 32 lanes into C4 block words. -/
  | pack4 (r : Reg)
  /-- PACK4_XR (R337). Long-form code packing. -/
  | pack4Xr (r : Reg) (x : Xr)
  /-- UNPACK4 (R338). Unpacks one C4 code per lane into its linear value. -/
  | unpack4 (r : Reg)
  /-- UNPACK4_XR (R338). Long-form code unpacking. -/
  | unpack4Xr (r : Reg) (x : Xr)
  /-- BALLOT (R339). Collects a predicate over the active lanes into a scalar. -/
  | ballot (r : Reg)
  /-- BALLOT_XR (R339). Long-form ballot. -/
  | ballotXr (r : Reg) (x : Xr)
  /-- VOTE (R340). ORs a predicate over the active lanes. -/
  | vote (r : Reg)
  /-- VOTE_XR (R340). Vote, any or all by the minor. -/
  | voteXr (r : Reg) (x : Xr)
  /-- RFL (R341). Broadcasts the value of the first active lane. -/
  | rfl (r : Reg)
  /-- RFL_XR (R341). Long-form first-lane broadcast. -/
  | rflXr (r : Reg) (x : Xr)
  /-- LANEID (R342). Writes the physical lane number. -/
  | laneid (r : Reg)
  /-- LANEID_XR (R342). Writes the physical lane or the logical thread index. -/
  | laneidXr (r : Reg) (x : Xr)
  /-- LD (R349). Relaxed core-scope 32-bit pool load. -/
  | ld (r : Mm)
  /-- LD_XM (R349). Pool load with a type, scope, order and displacement. -/
  | ldXm (r : Mm) (x : Xm)
  /-- ST (R349). Relaxed core-scope 32-bit pool store. -/
  | st (r : Mm)
  /-- ST_XM (R349). Pool store with a type, scope, order and displacement. -/
  | stXm (r : Mm) (x : Xm)
  /-- LDL (R350). Scratchpad load. -/
  | ldl (r : Mm)
  /-- LDL_XM (R350). Long-form scratchpad load. -/
  | ldlXm (r : Mm) (x : Xm)
  /-- STL (R350). Scratchpad store. -/
  | stl (r : Mm)
  /-- STL_XM (R350). Long-form scratchpad store. -/
  | stlXm (r : Mm) (x : Xm)
  /-- ATOM (R351). Pool atomic add of .n32 that returns the old value. -/
  | atom (r : Mm)
  /-- ATOM_XM (R351). Pool atomic with its operation, type, scope and order. -/
  | atomXm (r : Mm) (x : Xm)
  /-- ATOML (R351). Scratchpad atomic. -/
  | atoml (r : Mm)
  /-- ATOML_XM (R351). Long-form scratchpad atomic. -/
  | atomlXm (r : Mm) (x : Xm)
  /-- CAS (R352). 32-bit compare-and-swap on the pool. -/
  | cas (r : Mm)
  /-- CAS_XM (R352). Compare-and-swap with its type, scope and order. -/
  | casXm (r : Mm) (x : Xm)
  /-- PREF (R353). Prefetch hint that changes no state. -/
  | pref (r : Mm)
  /-- PREF_XM (R353). Prefetch with a scope. -/
  | prefXm (r : Mm) (x : Xm)
  /-- RLD (R356). Remote load from a peer's symmetric region. -/
  | rld (r : Mm) (x : Xm)
  /-- RST (R356). Posted remote store to a peer. -/
  | rst (r : Mm) (x : Xm)
  /-- RATOM (R356). Remote atomic on a peer. -/
  | ratom (r : Mm) (x : Xm)
  /-- MCAST (R359). Posted multicast of a line to a combining group. -/
  | mcast (r : Mm) (x : Xm)
  /-- COMBINE (R360). Contributes a line to an in-switch combining sequence. -/
  | combine (r : Mm) (x : Xm)
  /-- MLOOP (R365). Runs K matrix steps into an accumulator tile. -/
  | mloop (r : Reg) (x : Xr)
  /-- MZERO (R376). Clears a tile. -/
  | mzero (r : Reg)
  /-- MRD (R376). Reads a tile into 32 registers. -/
  | mrd (r : Reg)
  /-- MRD_XR (R376). Long-form tile read. -/
  | mrdXr (r : Reg) (x : Xr)
  /-- MWR (R376). Writes a tile from 32 registers. -/
  | mwr (r : Reg)
  /-- MWR_XR (R376). Long-form tile write. -/
  | mwrXr (r : Reg) (x : Xr)
  /-- MST (R378). Converts a tile to FP32 and stores it. -/
  | mst (r : Mm)
  /-- MST_XM (R378). Tile store with a type, scope and order. -/
  | mstXm (r : Mm) (x : Xm)
  /-- MLD (R378). Loads a tile from FP32 memory. -/
  | mld (r : Mm)
  /-- MLD_XM (R378). Tile load with a type, scope and order. -/
  | mldXm (r : Mm) (x : Xm)
  /-- MWAIT (R381). Waits for earlier matrix commands on a tile. -/
  | mwait (r : Reg)
  /-- MSTAT (R382). Reads and clears the matrix flags. -/
  | mstat (r : Reg)
  /-- TCOPY (R389). Queues a tile copy on the Porter. -/
  | tcopy (r : Reg)
  /-- TCOPY_XM (R389). Tile copy with barrier accounting, scope and order. -/
  | tcopyXm (r : Reg) (x : Xm)
  /-- CCLOSE (R392). Closes the open batch and returns its number. -/
  | cclose (r : Reg)
  /-- CBLOAD (R391). Loads the block's codebook. -/
  | cbload (r : Reg)
  /-- CBLOAD_XM (R391). Codebook load with a scope and acquire. -/
  | cbloadXm (r : Reg) (x : Xm)
  /-- CBFREE (R391). Drops the block's codebook. -/
  | cbfree (r : Reg)
  /-- CCHAIN (R394). Starts a chain channel at a head record. -/
  | cchain (r : Reg)
  /-- CCHAIN_XM (R394). Chain start with a scope and order. -/
  | cchainXm (r : Reg) (x : Xm)
  /-- CFILL (R389). Queues a tile fill on the Porter. -/
  | cfill (r : Reg)
  /-- CFILL_XM (R389). Tile fill with barrier accounting, scope and order. -/
  | cfillXm (r : Reg) (x : Xm)
  /-- CSTAT (R396). Reads the state of a chain channel. -/
  | cstat (r : Reg)
  /-- BAR (R399). Arrives at a barrier and waits for the phase. -/
  | bar (r : Reg)
  /-- BAR_XM (R399). Barrier with a scope and order. -/
  | barXm (r : Reg) (x : Xm)
  /-- BARA (R399). Arrives at a barrier, adding expected bytes, without waiting. -/
  | bara (r : Reg)
  /-- BARA_XM (R399). Barrier arrival with a scope and order. -/
  | baraXm (r : Reg) (x : Xm)
  /-- BARW (R399). Waits for the barrier phase after an arrival. -/
  | barw (r : Reg)
  /-- BARW_XM (R399). Barrier wait with a scope and order. -/
  | barwXm (r : Reg) (x : Xm)
  /-- BARINIT (R399). Initialises a barrier object. -/
  | barinit (r : Reg)
  /-- FENCE (R401). Core-scope relaxed fence with no effect. -/
  | fence (r : Reg)
  /-- FENCE_XM (R401). Memory fence with a scope and order. -/
  | fenceXm (r : Reg) (x : Xm)
  /-- WAITB (R393). Waits for batches up to a number to complete. -/
  | waitb (r : Reg)
  /-- WAITC (R402). Waits until a 64-bit counter reaches a target. -/
  | waitc (r : Reg)
  /-- WAITC_XM (R402). Counter wait with a scope and order. -/
  | waitcXm (r : Reg) (x : Xm)
  /-- EVBIND (R403). Binds an event slot to a kind, source and handler. -/
  | evbind (r : Reg) (x : Word)
  /-- EVMASK (R404). Sets the event mask. -/
  | evmask (r : Ri)
  /-- EVCLR (R404). Clears and unbinds event slots. -/
  | evclr (r : Ri)
  /-- WAITANY (R187). Parks until an admitted event is pending, then dispatches the lowest one. -/
  | waitany (r : Reg)
  /-- MBXSEND (R405). Sends 16 bytes to a core mailbox. -/
  | mbxsend (r : Reg)
  /-- MBXRECV (R406). Takes the oldest message from a mailbox. -/
  | mbxrecv (r : Reg)
  /-- REGROUP (R181). Block barrier that repacks lanes by a predicate. -/
  | regroup (r : Reg)
  /-- UNGROUP (R181). Block barrier that restores the identity lane map. -/
  | ungroup (r : Reg)
  /-- YIELD (R407). Gives up the clause claim and takes a yield pass. -/
  | yield (r : Reg)
  /-- TRAP (R409). Raises a software trap with a short code. -/
  | trap (r : Ri)
  /-- TRAP_XI (R409). Raises a software trap with a 16-bit code. -/
  | trapXi (r : Ri) (x : Word)
  /-- RTT (R253). Returns from a trap handler, re-injecting the replay entries. -/
  | rtt (r : Reg)
  /-- LAUNCH (R410). Starts a die-local child grid. -/
  | launch (r : Reg)
  /-- CSRR (R411). Reads a control register. -/
  | csrr (r : Ri)
  /-- CSRW (R411). Writes a control register. -/
  | csrw (r : Ri)
  /-- TLBINV (R412). Core-scope TLB invalidation of a page. -/
  | tlbinv (r : Reg)
  /-- TLBINV_XM (R412). TLB invalidation with a reach scope. -/
  | tlbinvXm (r : Reg) (x : Xm)
  /-- BKPT (R409). Raises a breakpoint trap. -/
  | bkpt (r : Reg)
  /-- PACKAGE_BOOT (R111). On power-up or package reset the enclave verifies the configuration record and the firmware, releases the shader dies with their harvest masks, and verifies the resident kernel before releasing the host die. -/
  | packageBoot
  /-- SOFT_ERROR (R11). A detected memory error is either corrected in place and logged, or leaves the line poisoned. -/
  | softError
  /-- MODULE_RETRAIN (R13). A UCIe module whose error rate exceeds its threshold starts retraining and resends its retry buffer in order. -/
  | moduleRetrain
  /-- MODULE_RETRAIN_END (R13). A module retrain completes, or it fails and the module is disabled, which may reroute the link or cause a fatal die error. -/
  | moduleRetrainEnd
  /-- FLIT_RECEIVE (R18). A die receiver or router takes in a flit, checks HCRC and the header fields, and discards and logs a bad flit. -/
  | flitReceive
  /-- FLIT_TRANSMIT (R32). The output arbiter sends one flit for which it holds a credit, or an idle flit, with the management slot given first priority. -/
  | flitTransmit
  /-- THERMAL_THROTTLE_STEP (R20). An over-temperature or over-power condition moves the core clock down 50 MHz, or a cleared condition moves it back up. -/
  | thermalThrottleStep
  /-- EMERGENCY_SHUTDOWN (R20). A die reaching 105 °C shuts the package down as a fatal error on every shader die. -/
  | emergencyShutdown
  /-- VIN_LOSS (R21). Loss of VIN while VAUX holds stops the shader dies as in a fatal error, and the recorder copies to flash. -/
  | vinLoss
  /-- PORT_RETRAIN (R37). A lane losing lock, or exceeding its error threshold, starts a retrain of both directions of a fabric port. -/
  | portRetrain
  /-- PORT_RETRAIN_END (R37). Recalibration ends, working-lane masks are exchanged, L is set and the retry buffer is resent. -/
  | portRetrainEnd
  /-- READ_REQUEST (R41). A home receives a READ of 1–16 bytes and answers READ-DATA, RETRY or ERROR. -/
  | readRequest
  /-- WRITE_REQUEST (R41). A home performs a WRITE of 1–16 bytes, pushes to holders, and answers WRITE-ACK, RETRY or ERROR. -/
  | writeRequest
  /-- ATOMIC_REQUEST (R41). A home performs a read-modify-write of 4 or 8 bytes and returns the old value. -/
  | atomicRequest
  /-- CAS_REQUEST (R41). A home performs a compare-and-swap and returns the old value. -/
  | casRequest
  /-- MAILBOX_REQUEST (R405). A MAILBOX request delivers 16 bytes to a core mailbox, or receives RETRY when the mailbox is full or ERROR when the target is bad. -/
  | mailboxRequest
  /-- LINE_READ (R428). A home answers a 128-byte exclusive, plain or visitor read with LINE-DATA and records the holder, or answers RETRY while the line is pinned. -/
  | lineRead
  /-- LINE_DATA (R17). A requester receives a 128-byte line, checks LCRC and installs it, or treats it as poisoned. -/
  | lineData
  /-- LINE_WRITE (R43). A home writes a whole or partial line, which clears poison when all 128 bytes are enabled, and answers WRITE-ACK. -/
  | lineWrite
  /-- LINE_PUSH (R210). A holder die updates or drops its visitor copy and acknowledges the push. -/
  | linePush
  /-- READ_DATA (R41). A READ-DATA reply is accepted on a matching tag and round, and it fills the destination lanes. -/
  | readData
  /-- WRITE_ACK (R41). A WRITE-ACK frees its tag and completes a write, pin write-back, push or mailbox delivery. -/
  | writeAck
  /-- ATOMIC_DATA (R41). An ATOMIC-DATA reply writes the old value into the destination. -/
  | atomicData
  /-- CAS_DATA (R41). A CAS-DATA reply writes the old value into the compare register. -/
  | casData
  /-- RETRY (R41). A RETRY reply restarts the tag timer and schedules a resend after 1 µs. -/
  | retryReply
  /-- RETRY_RESEND (R41). After 1 µs the issuer resends the request with the same tag and round. -/
  | retryResend
  /-- ERROR (R42). An ERROR reply ends the request as a remote fault, poisoning the destination or recording a posted-store fault. -/
  | errorReply
  /-- TAG_TIMEOUT (R45). A tag timer expires, the warp receives a remote fault, and the tag is freed into quarantine. -/
  | tagTimeout
  /-- TAG_QUARANTINE_END (R45). One further timeout period after a timeout, the tag becomes allocatable again. -/
  | tagQuarantineEnd
  /-- COMBINE_UP (R52). A router receives a folded subtree contribution, and folds it once all the group's inputs have arrived. -/
  | combineUp
  /-- COMBINE_DOWN (R52). A router forwards the result to its children and returns it to its local contributor. -/
  | combineDown
  /-- COMBINE_SEQUENCE_ADMIT (R53). A contribution for a third sequence, held in its input buffer, is admitted once a sequence slot frees. -/
  | combineSequenceAdmit
  /-- COMBINE_SEQUENCE_ABANDON (R53). A sequence incomplete one requester timeout after its first contribution is abandoned. -/
  | combineSequenceAbandon
  /-- MCAST_LINE (R55). A router replicates, relays or writes an MCAST line and merges the acknowledgements of its replicas. -/
  | mcastLine
  /-- WALK_COMPLETE (R67). A table walk completes and fills every attached miss in the same cycle, or reports its fault. -/
  | walkComplete
  /-- MISS_SLOT_FILL (R66). Once every miss slot of a pass is filled, the pass performs its translated lanes or takes the fault. -/
  | missSlotFill
  /-- REGION_SWITCH (R73). A die makes its pending region table current and handles cached lines whose home changed. -/
  | regionSwitch
  /-- REGION_DRAIN_COMPLETE (R70). When no die has a request outstanding under the old version, the old table is retired and the commit ends. -/
  | regionDrainComplete
  /-- MIGRATION_START (R74). A waiting migration descriptor starts at the old home die once one of its four slots is free. -/
  | migrationStart
  /-- COPY_PASS_END (R75). A copy pass ends and the migration starts another pass, waits, aborts, or freezes, switches and releases. -/
  | copyPassEnd
  /-- MIGRATION_PIN_WAIT_END (R77). 10 µs after an uncounted pass, the migration starts another copy pass. -/
  | migrationPinWaitEnd
  /-- MIGRATION_WINDOW_END (R75). 1 ms after release the forwarding window closes. -/
  | migrationWindowEnd
  /-- QUEUE_POLL (R82). On the write-index watch, or the 10 µs read, the rack Broker reads the next packet with an acquire. -/
  | queuePoll
  /-- MIRROR_ACK (R82). The standby acknowledges a mirrored packet, and the packet may then start. -/
  | mirrorAck
  /-- LAUNCH_PACKET (R87). The rack Broker checks a LAUNCH and starts or rejects it, writing the registry entry and splitting or scanning the grid. -/
  | launchPacket
  /-- SIGNAL_PACKET (R90). A SIGNAL packet sets, adds to or subtracts from a signal as one tagged atomic. -/
  | signalPacket
  /-- WAIT_PACKET (R92). A WAIT packet starts evaluating its condition on a signal. -/
  | waitPacket
  /-- WAIT_CONDITION_TRUE (R92). The WAIT condition is observed true with an acquire, the WAIT completes and the read index advances. -/
  | waitConditionTrue
  /-- WAIT_TIMEOUT (R92). A WAIT times out and halts the queue with status 2. -/
  | waitTimeout
  /-- FENCE_PACKET (R93). A FENCE packet completes once earlier packets have completed and their memory operations are performed at its scope. -/
  | fencePacket
  /-- TABLE_PACKET (R98). A TABLE packet replaces the time-triggered table in the lead and standby FE dies. -/
  | tablePacket
  /-- COMBINE_CONFIG (R95). A COMBINE-CONFIG packet tree-checks a member array and loads the group on every member router. -/
  | combineConfig
  /-- NOP_PACKET (R93). A NOP packet completes at start. -/
  | nopPacket
  /-- QUEUE_RESTART (R83). A store of 0 to the halted status field makes the Broker re-read the failing packet. -/
  | queueRestart
  /-- TT_SLOT (R99). At a time-triggered slot the lead FE die starts, queues, skips or pre-empts an instance of the entry. -/
  | ttSlot
  /-- DOMAIN_TIME_SYNC (R96). PTP messages and lead-package Broker time messages discipline the domain time count by slewing. -/
  | domainTimeSync
  /-- GRANDMASTER_LOST (R97). Loss of the grandmaster leaves every count free-running on REFCLK and writes an event record. -/
  | grandmasterLost
  /-- STANDBY_TAKEOVER (R102). On loss of the lead package the standby rack Broker resumes the queue without repeating or skipping a packet. -/
  | standbyTakeover
  /-- PACKAGE_LOSS (R105). A package leaves the domain, its dies are declared lost and its roles move to other packages. -/
  | packageLoss
  /-- HEARTBEAT_MISS (R104). After three missed 1 ms heartbeats the standby firmware complex becomes active. -/
  | heartbeatMiss
  /-- UPDATE_TAKEOVER (R106). At the next quiescent packet boundary the updated standby complex takes over and the other complex boots the new image. -/
  | updateTakeover
  /-- CONFIGURE_DOMAIN (R116). Firmware request 01h checks and installs the initial tables and fixes every domain configuration value. -/
  | configureDomain
  /-- REGION_COMMIT (R70). Firmware request 02h validates and distributes a new region table and orders the switch. -/
  | regionCommit
  /-- MIGRATE_PAGE (R74). Firmware request 03h queues a page migration descriptor. -/
  | migratePage
  /-- RELAY_SIGNAL (R115). Firmware request 04h arms a watch that posts an interrupt to a host core. -/
  | relaySignal
  /-- RELEASE_FROZEN_MASTER (R123). Firmware request 05h passes a frozen master's held requests on in order. -/
  | releaseFrozenMaster
  /-- KILL_FROZEN_MASTER (R123). Firmware request 06h discards a frozen master's held requests and kills it. -/
  | killFrozenMaster
  /-- READ_EVENTS (R115). Firmware request 07h copies event records into a buffer. -/
  | readEvents
  /-- FIRMWARE_UPDATE (R106). Firmware request 08h loads, verifies and imports a new image in the standby complex, or rejects the update. -/
  | firmwareUpdate
  /-- THAW_CONTEXTS (R126). Firmware request 09h checks the registry against the frozen launches and resumes everything together. -/
  | thawContexts
  /-- SET_POWER_CAP (R115). Firmware request 0Ah sets the package power cap. -/
  | setPowerCap
  /-- SPDM_MESSAGE (R113). An SPDM request, from request 0Bh or PCIe DOE, is answered as a responder. -/
  | spdmMessage
  /-- SET_SECONDARY_HOST_DIE (R115). Firmware request 0Ch names the secondary host-die package. -/
  | setSecondaryHostDie
  /-- SET_DETOUR_BIAS (R35). Firmware request 0Dh sets the detour bias on every member router. -/
  | setDetourBias
  /-- UNKNOWN_FIRMWARE_REQUEST (R115). A request with an unlisted code ends with status 3. -/
  | unknownFirmwareRequest
  /-- MGMT_READ (R118). A management UDP read message returns a run of management registers. -/
  | mgmtRead
  /-- MGMT_WRITE (R118). A management UDP write message writes a run of registers in ascending order. -/
  | mgmtWrite
  /-- MGMT_REGISTER_WRITE (R117). A write to a management register with no behaviour of its own stores the value, or is ignored. -/
  | mgmtRegisterWrite
  /-- POWERCAP_WRITE (R117). A write to POWERCAP sets the cap when the value is valid, and is otherwise ignored. -/
  | powercapWrite
  /-- KBOOT (R127). A write of 1 verifies the KIMAGE kernel image and boots it cold or as a warm reboot. -/
  | kboot
  /-- BAR1_ACCESS (R117). A PCIe BAR1 access reads or writes a boot address in SD0 HBM. -/
  | bar1Access
  /-- HOST_WATCHDOG_EXPIRE (R124). Expiry of the host-die watchdog marks the kernel failed and freezes every accelerator context. -/
  | hostWatchdogExpire
  /-- HOST_MACHINE_CHECK (R124). An unrecoverable host machine check marks the kernel failed and freezes the contexts. -/
  | hostMachineCheck
  /-- KERNEL_PANIC_REPORT (R124). A kernel panic reported through the management port freezes the contexts. -/
  | kernelPanicReport
  /-- WARM_REBOOT (R127). Firmware verifies the kernel image and reboots it warm, or keeps the host cores in reset. -/
  | warmReboot
  /-- RANGE (R136). A Broker receives a range of gangs and splits it among its children by weight, or queues them at a die. -/
  | brokerRange
  /-- DONE (R137). A parent adds a child's exit and loss counts and passes them up. -/
  | brokerDone
  /-- DONE_TIMER (R137). 1 µs after the last DONE, a Broker sends the counts that have changed meanwhile. -/
  | doneTimer
  /-- STEAL (R149). A victim Broker grants the upper half of its unstarted gangs, relays the request, or answers NONE. -/
  | brokerSteal
  /-- GRANT (R150). A thief receives stolen gangs and splits or queues them, or hands one to a TAKE. -/
  | brokerGrant
  /-- NONE (R148). A NONE answer moves the thief on to its next sibling or level, or makes a TAKE return FFFFFFFFh. -/
  | brokerNone
  /-- SCAN (R139). A package Broker evaluates the placement hash of its owned gangs and sends RANGEs to their homes. -/
  | brokerScan
  /-- RESERVE (R145). A die Broker reserves one half of a straddled gang. -/
  | brokerReserve
  /-- COMMIT (R146). A die Broker starts its half of a straddled gang. -/
  | brokerCommit
  /-- ROLLBACK (R147). A die Broker releases its reserved half of a straddled gang. -/
  | brokerRollback
  /-- VACATE (R154). A die vacates the named cores and starts saving the gangs on them. -/
  | brokerVacate
  /-- REMAP (R156). A package Broker re-splits the returned unstarted gangs with a reduced weight for the vacating die. -/
  | brokerRemap
  /-- SAVED (R155). A package Broker adds a fully saved gang to its restore queue. -/
  | brokerSaved
  /-- CORE_RESERVE (R146). A core of the chosen rectangle that has gained room is reserved for the gang. -/
  | coreReserve
  /-- PREPARATION_COMPLETE (R414). Boundary-move write-backs are acknowledged and the granules are zeroed or loaded, so the core counts as reserved. -/
  | preparationComplete
  /-- GANG_COMMIT (R146). Once every core is reserved and heap slots are allocated, the gang's blocks all start within 16 cycles. -/
  | gangCommit
  /-- PRIORITY_PREEMPT (R153). A gang that has waited 20 µs vacates lower-priority work from the lowest-origin eligible rectangle. -/
  | priorityPreempt
  /-- GANG_SAVE_COMPLETE (R155). The last block of a vacated gang finishes saving, and the die reports SAVED. -/
  | gangSaveComplete
  /-- SERVICE_WORD_CHANGE (R157). The kernel's store to a service word ends the wait, making the gang eligible for restore or resuming a CONT warp. -/
  | serviceWordChange
  /-- GANG_RESTORE (R160). A die with a free legal rectangle takes the first eligible gang from the restore queue and reserves it whole. -/
  | gangRestore
  /-- FATAL_DIE_ERROR (R262). A shader die is lost, its blocks are declared lost, and requests homed on it answer ERROR 04h. -/
  | fatalDieError
  /-- IFETCH_FILL (R299). An instruction-cache line fill arrives and is delivered to every attached core. -/
  | ifetchFill
  /-- REGISTER_FILL (R173). A long-latency result is written, possibly poisoned, and its destination becomes full. -/
  | registerFill
  /-- WALKER_FETCH (R184). A walker prefetch read returns a vector ahead of the walker's position. -/
  | walkerFetch
  /-- EVENT_TIMER_FIRE (R186). The warp timer reaching a TIMER slot's target fires the slot. -/
  | eventTimerFire
  /-- REGROUP_COMPLETE (R181). Once every warp has arrived and the registers are full, the block's positions are repacked or restored. -/
  | regroupComplete
  /-- BLOCK_RETIRE (R191). After a block's last warp exits and its engines, copies, stores and tags drain, the block releases its resources and counts toward DONE. -/
  | blockRetire
  /-- TRAP_TAKE (R244). Once the warp's issued instructions are performed or queued for replay, the frame is written and the trap delivered. -/
  | trapTake
  /-- PORTER_COMMAND_COMPLETE (R390). A TCOPY or CFILL completes its writes, decrements and counter addition, possibly completing a batch. -/
  | porterCommandComplete
  /-- CHAIN_RECORD (R395). A chain channel reads a record, performs its copy and hands ownership back. -/
  | chainRecord
  /-- CHAIN_POLL (R395). Every 1 µs a waiting channel re-reads a record whose owner is 0. -/
  | chainPoll
  /-- MATRIX_COMMAND_COMPLETE (R363). The matrix engine finishes a queued command on a tile. -/
  | matrixCommandComplete
  /-- BROADCAST_STREAM_EVENT (R374). Once every participant reaches its n-th broadcast MLOOP, the MLOOPs issue together on core 0's B. -/
  | broadcastStreamEvent
  /-- WARM_RESET (R119). A warm reset of the package, across which the event recorder, its sequence numbers and the tagged-update lists of the homes are kept. -/
  | warmReset
  /-- PORT_REENABLE (R39). Firmware re-enables a fabric port that was dead or killed, and receivers take its depth as 1023 until a fresh report arrives. -/
  | portReenable
  /-- PPS_IN_PULSE (R19). A pulse on the optional PPS_IN line gives the 1588 servo a phase reference. -/
  | ppsInPulse
  deriving DecidableEq, Repr, Inhabited

end Sys2Proof
end

