-- ==== Sys2Proof/Config.lean ====
section
/-! DEFINITION. What one implementation fixes, and the free values: opaque functions without a body, of which nothing can
be proved but what holds of every function of their type. -/

namespace Sys2Proof.Config

/-- The free choice among n acts at the k-th choice: which quadrant, event or clock tick comes next (R2, R36, R168, R421). -/
opaque pick : Nat → Nat → Nat

/-- What the world outside the package does at the k-th step: a host or management request, a sensor, a pin, a packet of a
host initiator, or nothing. `Machine/Turn.lean` lets only the events of R113-R129 and of the package's pins come this way. -/
opaque outside : Nat → Option (Instr × Arg)

/-- A free value, the k-th of a run: used where the spec states no value. -/
opaque freeWord : Nat → BitVec 64

/-- What a byte reads as that lost its contents and has not been written since: by which loss it was, and its physical byte number (R69). -/
opaque lostByte : Nat → Nat → BitVec 8

/-- SHA-384 (R108, R109). The spec names the algorithm and does not give its arithmetic, so the model takes any function. -/
opaque sha384 : List (BitVec 8) → List (BitVec 8)

/-- Whether an RSASSA-PSS signature verifies over a digest against the keys in the enclave's ROM (R109), which the spec does not give. -/
opaque rsaOk : List (BitVec 8) → List (BitVec 8) → Bool

/-- Whether an SLH-DSA signature verifies over a digest against the keys in the enclave's ROM (R109). -/
opaque slhOk : List (BitVec 8) → List (BitVec 8) → Bool

/-- Whether a format version of an object kind is known to the enclave (R108); the spec lists none. -/
opaque formatOk : Nat → Nat → Bool

/-- What a package's flash was made with (R110, R111, R112): 0 and 1 the images of firmware complexes A and B, 2 the configuration
record, 3 the resident kernel's image, 4 the identity certificates. -/
opaque flash : Nat → Nat → List (BitVec 8)

/-- The lines of a package, as ranges of line numbers, that its firmware keeps to itself, with the flash window of the record (R122);
the spec does not say where they lie. -/
opaque firmwareMemory : Nat → List (Nat × Nat)

/-- The format version of the state table of a firmware image, and whether an image imports a table of a version (R106 step 3). -/
opaque tableFormat : List (BitVec 8) → Nat
opaque importOk : List (BitVec 8) → Nat → Bool

/-- A package's physical unclonable function, and HKDF-SHA384 of a secret for a purpose (R112). -/
opaque puf : Nat → List (BitVec 8)
opaque hkdf : List (BitVec 8) → Nat → List (BitVec 8)

/-- Signatures with a device identity key over a transcript (R112, R113). -/
opaque rsaSign : List (BitVec 8) → List (BitVec 8) → List (BitVec 8)
opaque slhSign : List (BitVec 8) → List (BitVec 8) → List (BitVec 8)

/-- The bytes of the enclave's ROM, which it measures (R113). -/
opaque rom : List (BitVec 8)

/-- What the spec does not state of an SPDM response, by its code and its request: nonces, capability flags and the like (R113). -/
opaque spdmBody : Nat → List (BitVec 8) → List (BitVec 8)

/-- The number of bytes that a resident-kernel or firmware image at a boot address has beyond its header is its body
length field (R108); an implementation reads no more than this many. -/
def maxImage : Nat := 2 ^ 32

/-- The event recorder's capacity (R119). -/
def recorderSize : Nat := 8192

/-- Message credits a sender holds at first for each virtual channel: the receiver's flit buffers (R30: at least 32). -/
def firstCredits : Nat := 32

end Sys2Proof.Config
end

