-- ==== Sys2Proof/Machine/State.lean ====
section
/-! DEFINITION. The state of the domain as plain data, its value at reset, and the reasons a step can stop.
Units (packages, dies, cores, warp slots) stand in sparse tables keyed by number; a unit that a table does not list holds
that unit's reset value. -/

namespace Sys2Proof.Machine

/-- A sparse table: the first entry of a key is its value. -/
abbrev Tab (κ α : Type) := List (κ × α)

/-- Memory: the bytes of every home (HBM channels and near-store slices, R60, R69) and of every unified array's
scratchpad (R193), keyed by the physical byte numbers of `Machine/Space.lean`; canonical form `Memory.wf`. `wiped` lists the ranges
that have lost their contents, the latest first, with the number of the loss (R69); without one, the range was cleared since. -/
structure Memory where
  cells : List Host.Cell
  wiped : List (Nat × Nat × Option Nat)
  deriving DecidableEq, Repr, Inhabited

/-- The 32 lanes of a vector register, lane 0 first. -/
abbrev Lanes := List Word

/-- What a poisoned register remembers (R174, R221): the instruction that produced the poison, in instruction form (R250),
and the auxiliary word of the frame (R249, R357). -/
structure Poison where
  origin : DWord
  aux : DWord
  deriving DecidableEq, Repr, Inhabited

/-- A vector register (R166, R173, R174). -/
structure VReg where
  lanes : Lanes
  full : Bool
  poison : Option Poison
  deriving DecidableEq, Repr, Inhabited

/-- One of the two PC slots of a warp (R175). -/
inductive PcSel where
  | a
  | b
  deriving DecidableEq, Repr, Inhabited

/-- A held result of a fixed-latency word, with the lanes it writes (R171, R416); `special` is an SWRITE (R308), `walk`
one that binds or unbinds a walker, with the descriptor it read (R309). -/
inductive Held where
  | s (r : Nat) (v : Word)
  | v (r : Nat) (act : Mask) (lanes : Lanes)
  | p (r : Nat) (act : Mask) (bits : Mask)
  | special (n : Nat) (v : DWord)
  | walk (k : Nat) (bound : DWord) (desc : List Byte)
  deriving DecidableEq, Repr

/-- A fetched clause: its header and its words (R276, R299). -/
structure Clause where
  hdr : Header
  words : List Word
  deriving DecidableEq, Repr, Inhabited

/-- A WAITC that waits at its counter's home (R402): the counter's pool address, the value it waits for, whether the read that finds the
condition true is SC, and whether the home has found it true. -/
structure Await where
  pa : Nat
  target : DWord
  sc : Bool
  hit : Bool
  deriving DecidableEq, Repr, Inhabited

/-- A PC slot: mask, clause header address, next word (0: no word of the clause issued), the fetched clause, the held
results, the parked states, the scalar register that a TAKE will write (R170, R319), the stamps of R168, when the answer to the
last SC access came and whether its home was in another package (R216), the number of the first instruction in flight that this clause could have issued, and the
transfer that led to the clause, if one did (R311), and the counter of a WAITC that waits. -/
structure PcSlot where
  mask : Mask
  pc : DWord
  k : Nat
  clause : Option Clause
  held : List Held
  parkedJoin : Bool
  parkedWait : Bool
  blocked : Option Nat
  started : Option Nat
  issued : Nat
  claimed : Bool
  scLast : Option (Nat × Bool)
  first : Nat
  via : Option DWord
  await : Option Await
  deriving DecidableEq, Repr, Inhabited

/-- An event slot (R185, R260); `pa` is the counter's pool address, at which its home has it registered (R186). -/
structure EventSlot where
  kind : Nat
  armed : Bool
  fired : Bool
  handler : DWord
  source : DWord
  phase : Bool
  target : DWord
  pa : Nat
  deriving DecidableEq, Repr, Inhabited

/-- A vector a walker has read ahead: its lanes, those whose fetch faulted, and the address of lane 0 (R184). -/
structure Fetched where
  lanes : Lanes
  bad : Mask
  base : DWord
  deriving DecidableEq, Repr, Inhabited

/-- A walker: the binding address (0: unbound), the 32-byte descriptor, the position, the vectors read ahead (R182-R184). -/
structure Walker where
  bound : DWord
  desc : List Byte
  i0 : Nat
  i1 : Nat
  i2 : Nat
  pre : List Fetched
  deriving DecidableEq, Repr, Inhabited

/-- A trap that is due: cause (R242), slot, faulting address and lanes, instruction form address, auxiliary word, whether
it is deferred or a completion fault (R241), and for a transfer to a bad header the resume point it leaves (R311). -/
structure TrapRec where
  cause : Nat
  slot : PcSel
  addr : DWord
  lanes : Mask
  instr : DWord
  aux : DWord
  deriving DecidableEq, Repr, Inhabited

/-- A translation held by a TLB (R65): page address, log2 of the page size, pool address, entry bits [7:2]. -/
structure TlbEnt where
  va : Nat
  log : Nat
  pa : Nat
  flags : BitVec 6
  deriving DecidableEq, Repr, Inhabited

/-- An issued instruction that is not yet performed: the threads whose program order has it (R211), slots A and B and the slots on
the divergence stack by entry; what it captured at issue (R252), the lanes still to be translated
(R66), translated and waiting, and sent; the results gathered, the registers it fills, the numbers of the accesses it
must wait for (R212, R348), the pages of its miss slots and the translations that the filled ones hold, its fault, and the remote tags
that it has taken and no lane uses yet (R44). -/
structure Flight where
  id : Nat
  instr : Instr
  w0 : Word
  ext : Option Word
  addr : DWord
  by_ : PcSel
  inA : Bool
  inB : Bool
  stk : List Nat
  scope : Nat
  order : Nat
  active : Mask
  remaining : Mask
  waiting : Mask
  sent : Mask
  x : List DWord
  y : List DWord
  z : List DWord
  peers : List Word
  sbase : DWord
  pas : Tab Nat (Nat × Nat)
  got : Tab Nat DWord
  bad : Option Poison
  dest : List Nat
  deps : List Nat
  slots : List Nat
  found : List TlbEnt
  faults : Tab Nat Nat
  fault : Option TrapRec
  counted : Bool
  done : Bool
  tags : List Nat
  deriving DecidableEq, Repr, Inhabited

/-- A batch of Porter commands (R392): its number and the commands not yet completed. -/
structure Batch where
  num : Word
  cmds : List Nat
  deriving DecidableEq, Repr, Inhabited

/-- A queued matrix command (R363) with the values it read at issue (R366, R372): `stream` holds the B steps and the B metadata of a broadcast
MLOOP, as the gang's core 0 read them (R374), `left` the runs of bytes of a tile move that are still to be performed, each by row, offset and
length (R219), `bad` the lowest row of one whose translation faulted, with the cause (R379), `regs` the registers of A that the engine has
yet to read (R366). -/
structure MtxCmd where
  id : Nat
  w : WarpId
  instr : Instr
  addr : DWord
  fid : Nat
  mask : Mask
  rows : List Lanes
  sg : List Word
  fg : List Word
  stream : Option (List Byte × List Byte)
  left : List (Nat × Nat × Nat)
  bad : Option (Nat × Nat)
  regs : List Nat
  deriving DecidableEq, Repr, Inhabited

/-- What a participant of a stream event may issue its broadcast MLOOP with (R374): the B and format groups of the gang's core 0, and the B
steps and B metadata that its engine reads. -/
structure Grant where
  sg : List Word
  fg : List Word
  steps : List Byte
  metas : List Byte
  deriving DecidableEq, Repr, Inhabited

/-- The state a warp owns (R166, R260). `parked` holds the values of the matrix commands and
the vectors of the group and mailbox instructions that stand in its replay queue. `rffMore` counts the posted-store faults beyond the FFh of RFF (R191).
`serving` says that its gang was saved for its fault and that the fault is not served yet: it issues nothing (R158).
`narrow` lists lines, with their home dies, that the warp wrote at a scope below
tray while the home's pushes were outstanding: a release at tray or rack scope waits for them (R205, R212). `scStack` holds of the
entries of the divergence stack what their slots knew of their last SC access (R216); `mstLines` lists the pool lines that MSTs of the warp
wrote and that may not be performed at every scope yet (R383); `granted` is the stream event whose MLOOP the warp may issue (R374). -/
structure Warp where
  block : BlockId
  num : Nat
  units : Nat
  tiles : Nat
  v : List VReg
  s : List Word
  p : List Mask
  z : List (List Word)
  a : PcSlot
  b : PcSlot
  j : Option DWord
  dsp : Nat
  scStack : Tab Nat (Nat × Bool)
  events : List EventSlot
  evp : BitVec 8
  evm : BitVec 8
  walkers : List Walker
  wef : Word
  rff : Word
  rffMore : Nat
  rffol : Word
  rffoh : Word
  tvec : DWord
  handler : Bool
  timer : DWord
  mxs : Word
  lastBatch : Word
  openCmds : List Nat
  batches : List Batch
  bcast : Word
  arrA : BitVec 16
  arrF : BitVec 16
  flights : List Flight
  narrow : List (DieId × Nat)
  nextId : Nat
  trap : Option TrapRec
  engine : Option TrapRec
  parked : List MtxCmd
  yieldPass : Bool
  exited : Bool
  regrouping : Option (Bool × Nat)
  serving : Bool
  mstLines : List Nat
  granted : Option Grant
  deriving DecidableEq, Repr, Inhabited

/-- A chain channel of a block (R394-R396); `doing` is the record in progress, as it was read, `left` the runs of its bytes that are
still to be performed (R219), `bad` the lowest row of it whose translation faulted, with the cause (R395), and `after` the posted stores of
the CCHAIN's thread that came before it (R390). -/
structure Chan where
  state : Nat
  head : DWord
  records : Nat
  warp : Nat
  origin : DWord
  scope : Nat
  order : Nat
  doing : Option (List Byte)
  left : List (Nat × Nat × Nat)
  bad : Option (Nat × Nat)
  after : List Nat
  deriving DecidableEq, Repr, Inhabited

/-- What a saved warp's record has no field for: the values of the queued commands of its replay queue, its receives that wait for a
message, with their mailboxes, an Engine fault that it has not taken, its posted-store faults beyond FFh (R191), whether its gang was
saved for its fault (R158), its lines with pushes outstanding (R205), what its slots and its stack's entries know of their last SC
access (R216), the lines of its MSTs (R383), and its stream event (R374). -/
structure Kept where
  parked : List MtxCmd
  recv : List (Nat × Flight)
  engine : Option TrapRec
  rffMore : Nat
  serving : Bool
  narrow : List (DieId × Nat)
  scA : Option (Nat × Bool)
  scB : Option (Nat × Bool)
  scStack : Tab Nat (Nat × Bool)
  mstLines : List Nat
  granted : Option Grant
  deriving DecidableEq, Repr, Inhabited

/-- A block resident on a core, or saved (R259). States: 0 resident, 1 saved, 2 saved and waiting for service, 3 lost,
4 retiring, 5 saving. While it is saved, `gone` lists the warps that had exited, and `kept` by warp what their
records have no field for. -/
structure Block where
  core : CoreId
  state : Nat
  x : Nat
  y : Nat
  z : Nat
  warps : Nat
  units : Nat
  tiles : Nat
  bars : Nat
  stack : Nat
  grans : List Nat
  scratchKiB : Nat
  heap : Nat
  slots : List Nat
  laneMap : List Nat
  cbAddr : DWord
  cbLen : Word
  cbData : Option (List Byte)
  cbUse : Nat
  chans : List Chan
  straddle : Word
  prio : Nat
  cont : DWord
  contMode : Bool
  priv : Bool
  pfCount : Nat
  pfAddr : DWord
  pfCause : Nat
  gone : List Nat
  kept : Tab Nat Kept
  deriving DecidableEq, Repr, Inhabited

/-- Whether a first-level line is pinned (R206, R207). -/
inductive Pin where
  | no
  | held
  | ending
  deriving DecidableEq, Repr, Inhabited

/-- A line of the first-level cache (R196, R413), in granule `gran`, or in the write-back buffer (20) once another line has its
way (log 121). `blocks` holds the blocks that share its pin, `past` those whose shares have ended while the pin goes on (R207).
`use` is 1 when the line is dropped at the acknowledgement of its write-back (R73). -/
structure CacheLine where
  pa : Nat
  gran : Nat
  data : List Byte
  dirty : Bool
  pin : Pin
  blocks : List BlockId
  past : List BlockId
  use : Nat
  deriving DecidableEq, Repr, Inhabited

/-- What the answer to a tag is for (R44): a lane, a posted lane, a line for the first level or a visitor copy, a pin, a write-back,
a line for the instruction caches of the die (R299), an engine's or a walker's access to a line of a package that cannot be reached, a multicast, a contribution, a message of a mailbox or of a Broker (R131). -/
inductive TagUse where
  | idle
  | lane (w : WarpId) (id lane : Nat)
  | post (w : WarpId) (id lane : Nat)
  | fill (w : WarpId) (lane : Nat)
  | pin (w : WarpId) (id lane : Nat)
  | writeback (pa : Nat)
  | ifetch (line : Nat)
  | row (pa : Nat)
  | mcast (w : WarpId) (id : Nat)
  | combine (w : WarpId) (id : Nat)
  | mail (w : WarpId) (id : Nat)
  | broker (i : Instr) (m : BrokerMsg)
  deriving DecidableEq, Repr, Inhabited

/-- A remote tag (R44-R46): held, in quarantine after a timeout, what was sent, what for, whether the line it asked for is
not to be kept (R210, R212, R214), and its deadline in domain time (R45). -/
structure Tag where
  held : Bool
  quarantine : Bool
  round : Nat
  req : Packet
  line : Option LinePkt
  use : TagUse
  stale : Bool
  deadline : Nat
  deriving DecidableEq, Repr, Inhabited

/-- An A latch of a quadrant (R373). -/
structure Latch where
  slot : Nat
  a : Nat
  k : Nat
  rows : List Lanes
  deriving DecidableEq, Repr, Inhabited

/-- A queued Porter command (R387): TCOPY, CFILL or CBLOAD with the registers it read at issue; `left` lists the runs of bytes that are still
to be performed, each by row, offset and length (R219), `bad` the lowest row whose translation faulted, with the cause (R242), and `owed` the
rows whose decrement of a barrier waits for the command's notices (R218, R242). -/
structure PorterCmd where
  id : Nat
  w : WarpId
  instr : Instr
  addr : DWord
  fid : Nat
  by_ : PcSel
  scope : Nat
  order : Nat
  bar : Option Nat
  dg : List Word
  src : DWord
  sg : List Word
  deps : List Nat
  left : List (Nat × Nat × Nat)
  bad : Option (Nat × Nat)
  owed : Nat
  deriving DecidableEq, Repr, Inhabited

/-- A line of an instruction cache (R299), with the pages, as address and log2 of the size, through which it was fetched: a TLBINV that
covers one of them drops it (R301). -/
structure CodeLine where
  data : List Byte
  pages : List (Nat × Nat)
  deriving DecidableEq, Repr, Inhabited

/-- A core (R165, R169, R193, R196, R299, R44, R405, R363, R387, R123); `frozen` and `porterFrozen` say that it or its Porter is frozen, and
`passes` lists the lines at which one held access may now be performed (R123); `scFence` is the place of its last SC FENCE in the SC order (R212,
R217); `served` names the quadrant that each unit shared by the core served last; `recv` lists the receives that wait for a message, in issue
order (R406): mailbox, warp, number. -/
structure Core where
  lines : List CacheLine
  tlb : List TlbEnt
  icache : Tab Nat CodeLine
  tags : Tab Nat Tag
  nextTag : Nat
  mbox : Tab Nat (List (BitVec 128))
  recv : List (Nat × WarpId × Nat)
  mtx : List MtxCmd
  latch : Tab Nat Latch
  porter : List PorterCmd
  lastStart : Tab Nat Nat
  served : Tab Nat Nat
  frozen : Bool
  porterFrozen : Bool
  passes : List Nat
  reserved : Option GangRef
  reservedGrans : List Nat
  nextCmd : Nat
  scFence : Option (Nat × Nat)
  stamp : Nat
  busy : Bool
  deriving DecidableEq, Repr, Inhabited

/-- A region-table entry (R58). -/
structure Region where
  mode : Nat
  member : Nat
  pkg : Nat
  die : Nat
  base : Nat
  size : Nat
  homeBase : Nat
  deriving DecidableEq, Repr, Inhabited

/-- A region table and member-set table under one version (R57, R59, R70). -/
structure Tables where
  version : BitVec 16
  regions : List Region
  members : List (List Nat)
  deriving DecidableEq, Repr, Inhabited

/-- A page migration (R74-R78). Phases: 0 waiting, 1 copying, 2 pin wait, 3 window. -/
structure Migration where
  va : Nat
  leaf : Nat
  oldPa : Nat
  newPa : Nat
  log : Nat
  desc : Nat
  phase : Nat
  passes : Nat
  dirty : List Nat
  deriving DecidableEq, Repr, Inhabited

/-- A push that a holder has not acknowledged; `again` says what the next one is (R209, R210): 0 none, 1 the line after a later
write, 2 an invalidating push. -/
structure Push where
  line : Nat
  holder : DieId
  again : Nat
  deriving DecidableEq, Repr, Inhabited

/-- A reply that waits for pushes (R205): how many acknowledgements of each holder are due. -/
structure Ack where
  line : Nat
  due : Tab DieId Nat
  reply : Instr
  arg : Arg
  deriving DecidableEq, Repr, Inhabited

/-- A shader die (R6, R7, R57, R65-R67, R72, R91, R206, R209, R299, R411, R262). `walkCache` keys the table that a level 1 to 3 entry
leads to by level and address prefix, the most recently used first; `scStamp` holds of a line the last pair of timestamp and
issuer number (R216, R217). -/
structure Die where
  working : BitVec 64
  released : Bool
  lost : Bool
  cur : Tables
  prev : Option Tables
  pend : Option Tables
  tlb : List TlbEnt
  walks : Tab Nat (List (WarpId × Nat))
  walkCache : Tab (Nat × Nat) Nat
  visitors : Tab Nat (List Byte)
  holders : Tab Nat (List DieId)
  pushes : List Push
  acks : List Ack
  pins : Tab Nat CoreId
  scStamp : Tab Nat (Nat × Nat)
  icache : Tab Nat CodeLine
  attached : Tab Nat (List (CoreId × Nat × Nat))
  tagged : List DWord
  dscr : List Word
  clk : Nat
  phase : Nat
  migr : List Migration
  waitq : List Migration
  deriving DecidableEq, Repr, Inhabited

/-- An event record (R120). -/
structure EventRec where
  seq : Nat
  source : Endpoint
  time : DWord
  code : Nat
  severity : Nat
  tag : Nat
  data : DWord
  deriving DecidableEq, Repr, Inhabited

/-- A fabric port (R25-R39): 0 dark, 1 up, 2 retraining, 3 dead. Queues and the retry buffer hold whole flits. -/
structure Port where
  state : Nat
  rxLanes : BitVec 16
  txLanes : BitVec 16
  queue : List (List Byte)
  seqOut : Nat
  seqIn : Nat
  ackIn : Nat
  retry : List (List Byte)
  credits : Tab Nat Nat
  owed : Tab Nat Nat
  lastVc : Tab Nat Nat
  reports : Tab Nat Nat
  sweep : Nat
  slots : Nat
  deriving DecidableEq, Repr, Inhabited

/-- A combining-table entry (R49). -/
structure Group where
  valid : Bool
  operator : Nat
  lines : Nat
  local_ : Bool
  children : BitVec 46
  root : Bool
  parent : Nat
  members : List Nat
  deriving DecidableEq, Repr, Inhabited

/-- The router's state of one line of one sequence (R52, R53). -/
structure CombSeq where
  group : Nat
  seq : Nat
  index : Nat
  inputs : Tab Nat LinePkt
  sentUp : Bool
  abandoned : Bool
  deriving DecidableEq, Repr, Inhabited

/-- An MCAST whose replicas' acknowledgements are being merged at a router (R55). -/
structure Merge where
  line : LinePkt
  from_ : Nat
  waiting : Nat
  silent : Bool
  deriving DecidableEq, Repr, Inhabited

/-- A watch armed by firmware (R94). Kind 0: wait-on-address; 1: interrupt with a condition and a vector. -/
structure Watch where
  addr : Nat
  kind : Nat
  cond : Nat
  value : DWord
  host : Nat
  vector : Nat
  deriving DecidableEq, Repr, Inhabited

/-- The host die as the spec lets it be seen (R111, R124-R129): `since` is when its kernel began to run, `told` lists the host initiators
whose reset the kernel has been told of (R123), and `services` holds the service words that firmware has told its resident
kernel of and that no one has answered yet (R157). -/
structure HostDie where
  running : Bool
  failed : Bool
  imageOk : Bool
  since : Nat
  told : List Endpoint
  interrupts : List (Nat × Nat)
  services : List Nat
  deriving DecidableEq, Repr, Inhabited

/-- The configuration record (R110), with the security version of its object (R108). -/
structure ConfigRecord where
  version : Nat
  serial : DWord
  working : List (BitVec 64)
  minFw : Nat
  minKernel : Nat
  minCert : Nat
  minRecord : Nat
  laneThreshold : DWord
  repair : List Byte
  deriving DecidableEq, Repr, Inhabited

/-- A frozen master at the boundary that detected its violation (R122, R123): the requests held there, and the lines of
accesses that wait there. -/
structure FrozenMaster where
  who : Endpoint
  violation : Nat
  held : List (Instr × Arg)
  lines : List Nat
  deriving DecidableEq, Repr, Inhabited

/-- The state table that the active complex mirrors to the standby (R103, R106): its format version, and how many requests of
the ring it has served. -/
structure FwTable where
  format : Nat
  served : Nat
  deriving DecidableEq, Repr, Inhabited

/-- A live update that waits for its boundary (R106): the new image's security version, digest and table format, and the request. -/
structure Update where
  version : Nat
  digest : List Byte
  format : Nat
  idx : Nat
  addr : Nat
  request : List Byte
  deriving DecidableEq, Repr, Inhabited

/-- The enclave (R111-R113): the seeds of the device identity keys, which never leave it, the measurements by their SPDM
index, and the messages that the next signature covers. -/
structure Enclave where
  rsaKey : List Byte
  slhKey : List Byte
  measures : Tab Nat (List Byte)
  transcript : List Byte
  deriving DecidableEq, Repr, Inhabited

/-- A package's FE and HD dies and registers (R103-R129, R25-R55, R94-R98). `fwVersion` and `standbyVersion` are the security
versions of the complexes' images, `missed` counts the heartbeats missed in a row; `written` holds the objects that have replaced those with
which the flash was made (0 and 1 the firmware images, 2 the record, 3 the kernel, 4 the certificates); `guarded` lists the lines
that only firmware may access (R122); `feTlb` is the translation cache of the FE die (R138). -/
structure Package where
  bootState : Nat
  bootFail : Nat
  record : ConfigRecord
  ringL : Word
  ringH : Word
  ringK : Word
  powerCap : Word
  evNext : Nat
  evSel : Word
  events : List EventRec
  flash : List (List EventRec)
  activeB : Bool
  standbyOk : Bool
  fwVersion : Nat
  standbyVersion : Nat
  missed : Nat
  mirror : FwTable
  enclave : Enclave
  written : Tab Nat (List Byte)
  guarded : List (Nat × Nat)
  kimageL : Word
  kimageH : Word
  updating : Option Update
  time : DWord
  timeFrac : Nat
  ppm : Int
  gmLost : Bool
  ports : Tab Nat Port
  bias : Nat
  groups : Tab Nat Group
  seqs : List CombSeq
  queued : List (Nat × LinePkt)
  merges : List Merge
  symCache : Tab Nat Nat
  feTlb : List TlbEnt
  watches : List Watch
  detour : Nat
  host : HostDie
  frozen : List FrozenMaster
  modules : Tab LinkId (List Nat)
  vin : Bool
  deriving DecidableEq, Repr, Inhabited

/-- The values configure-domain fixes (R116). -/
structure Domain where
  configured : Bool
  root : Nat
  queueBase : DWord
  queueK : Nat
  nrow : Nat
  ncol : Nat
  ptp : Nat
  carve : Nat
  primary : Nat
  secondary : Option Nat
  timeout : Nat
  symSize : Nat
  symMap : Nat
  registry : Nat
  release : List Nat
  ringBase : DWord
  ringK : Nat
  deriving DecidableEq, Repr, Inhabited

/-- A launch in flight (R85, R86, R88, R256), keyed by its launch table index (R255), with the weights of the four dies of
each member as they were at its start (R135), and the homes of gangs that one package has evaluated for another (R140). When its record has been written, `record` is 0 and `recorded` names the line that
holds it, at its home. -/
structure Launch where
  src : LaunchSrc
  serial : DWord
  index : DWord
  tag : Word
  prio : Nat
  relScope : Nat
  record : DWord
  signal : DWord
  gx : Nat
  gy : Nat
  gz : Nat
  args : DWord
  placeBase : DWord
  placeStride : Nat
  entry : DWord
  cont : DWord
  contMode : Bool
  placement : Bool
  straddle : Bool
  shape : Nat
  warps : Nat
  units : Nat
  tiles : Nat
  bars : Nat
  stack : Nat
  scratch : Nat
  priv : Bool
  start : DWord
  exited : Nat
  lost : Nat
  preempts : Nat
  pfCount : Nat
  pfAddr : DWord
  pfCause : Nat
  pfBlock : Nat
  failed : Bool
  recorded : Option (DieId × Nat)
  weights : Tab Nat (List Nat)
  homes : Tab Nat BrokerId
  deriving DecidableEq, Repr, Inhabited

/-- What a Broker holds of one grid (R136-R137, R149): unstarted gangs as ascending runs (first, count), counts in all and
since the last DONE, the time of that DONE, the children refused (R148), and by the gang, how often it was rolled back
(R147) and, for the first gang of a run, since when the run waits (R153). A tray's Broker keeps of each package how many blocks it was
given, and how many it was relieved of or reported (R150, R163); a die's how many cores it vacated last (R156). -/
structure Share where
  runs : List (Nat × Nat)
  exited : Nat
  lost : Nat
  dExited : Nat
  dLost : Nat
  lastDone : Nat
  refused : List BrokerId
  takers : List (WarpId × PcSel)
  rollbacks : Tab Nat Nat
  waitSince : Tab Nat Nat
  given : Tab Nat Nat
  gone : Tab Nat Nat
  vacated : Nat
  deriving DecidableEq, Repr, Inhabited

/-- A search for work (R148-R152): for which grid, who gets the GRANT, whether for a TAKE, whose STEAL it relays (none: its
own), whom it still has to ask, and whom it asks now. -/
structure Hunt where
  grid : Nat
  thief : BrokerId
  take : Bool
  asker : Option BrokerId
  todo : List BrokerId
  now : BrokerId
  deriving DecidableEq, Repr, Inhabited

/-- A reservation in progress at a die Broker (R144-R147): the gang, its cores with their core numbers j, those whose
preparation has begun, those that count as reserved, whether it restores a saved gang, and the die whose Broker held the
gang. For a straddled gang the two dies hold its halves, and the package Broker holds all of it. `slots` are the heap slots
allocated for its blocks (R257), once it commits. -/
structure Reservation where
  gang : GangRef
  cores : List (CoreId × Nat)
  begun : List CoreId
  got : List CoreId
  restoring : Bool
  straddled : Bool
  owner : DieId
  slots : List Nat
  deriving DecidableEq, Repr, Inhabited

/-- A Broker (R130-R163): its shares, the sequence numbers of its pairs and the messages that came early (R133), its tags and the
messages that wait for one (R131), what it has sent under its tags' latest rounds, its reservations and searches, and a package's
restore queue (R160). -/
structure Broker where
  shares : Tab Nat Share
  seqOut : Tab BrokerId Nat
  seqIn : Tab BrokerId Nat
  early : List (Instr × BrokerMsg × Packet)
  tags : Tab Nat Tag
  sent : Tab (Nat × Nat) (Packet × BrokerMsg)
  sendq : List (Instr × BrokerMsg)
  reservations : List Reservation
  hunts : List Hunt
  restore : List GangRef
  deriving DecidableEq, Repr, Inhabited

/-- An entry of the time-triggered table (R98, R99); `packet` is the LAUNCH packet of the instance that is pending. -/
structure TtEntry where
  va : DWord
  period : Nat
  offset : Nat
  launch : DWord
  rule : Nat
  enable : Bool
  skipped : Nat
  preempted : Nat
  running : Option Nat
  pending : Bool
  packet : List Byte
  slot : Nat
  deriving DecidableEq, Repr, Inhabited

/-- The rack Broker's view of the command queue (R82-R84): the packet read and mirrored, whether the standby acknowledged
it, whether it started, the packets not yet completed, a WAIT's start, and a halt; `again` says that a takeover found the packet
mirrored (R102). -/
structure Queue where
  cur : Option (Nat × List Byte)
  serial : DWord
  acked : Bool
  again : Bool
  waiting : Option (Nat × List Byte × Nat)
  confirmed : Nat
  grids : List Nat
  status : Nat
  tt : List TtEntry
  watch : Option Nat
  deriving DecidableEq, Repr, Inhabited

/-- A region commit under way (R70): the ring entry that asked for it and the dies still to switch. -/
structure Commit where
  pkg : Nat
  idx : Nat
  next : Tables
  deriving DecidableEq, Repr, Inhabited

/-- What moves: the issue of a quadrant of a core (R168), a device event, the eviction of a visitor copy, which may come at
any time (R421), or the passing of one core clock of 1 ns. -/
inductive Act where
  | issue (c : CoreId) (q : Nat)
  | event (i : Instr) (arg : Arg)
  | evict (d : DieId) (line : Nat)
  | tick
  deriving DecidableEq, Repr, Inhabited

/-- The state of the domain. `turn` may name the act that moves next; where it names none, `Config.pick` chooses.
`site` names the PC slot that issues and `arg` the operands of the event that comes about, for `exec`; `stalled` says that
the instruction given to `exec` could not issue yet (R167); `freezeCause` is why contexts are frozen (R124). -/
structure State where
  mem : Memory
  poisoned : List Nat
  warps : Tab WarpId Warp
  blocks : Tab BlockId Block
  cores : Tab CoreId Core
  dies : Tab DieId Die
  pkgs : Tab Nat Package
  dom : Domain
  lost : List Nat
  launches : Tab Nat Launch
  brokers : Tab BrokerId Broker
  queue : Queue
  commit : Option Commit
  serial : DWord
  frozen : Bool
  freezeCause : Nat
  inflight : List (Instr × Arg)
  timers : List (Nat × Instr × Arg)
  outbox : List (Nat × List Byte)
  now : Nat
  turn : Option Act
  stalled : Bool
  site : Option (WarpId × PcSel)
  arg : Arg
  picks : Nat
  free : Nat
  deriving DecidableEq, Repr, Inhabited

/-- Why a step stops with a fault. -/
inductive Fault where
  /-- An instruction was to be executed and no PC slot of a warp issues it (`site` names none). Raised by every meaning
  of an instruction; no step of the machine reaches it, because a step sets the site before it executes (safe). -/
  | noIssuer
  deriving DecidableEq, Repr

/-- Why an instruction has no meaning. -/
inductive Refusal where
  /-- The instruction is not modelled yet. Raised by an arm of exec only (safe). -/
  | notModelled (mnemonic : String)
  deriving DecidableEq, Repr

/-- A PC slot that is empty (R175). -/
def PcSlot.empty : PcSlot :=
  { mask := 0, pc := 0, k := 0, clause := none, held := [], parkedJoin := false, parkedWait := false, blocked := none
    started := none, issued := 0, claimed := false, scLast := none, first := 0, via := none, await := none }

/-- A working-position mask with all 64 positions (R7). -/
def allPositions : BitVec 64 := BitVec.allOnes 64

/-- A saved warp of which its record says all. -/
def Kept.none : Kept :=
  { parked := [], recv := [], engine := Option.none, rffMore := 0, serving := false, narrow := [], scA := Option.none, scB := Option.none
    scStack := [], mstLines := [], granted := Option.none }

/-- No valid region and no member (R57). -/
def Tables.empty : Tables := { version := 0, regions := [], members := [] }

/-- A core at package reset: every line invalid (R413), nothing held. -/
def Core.reset : Core :=
  { lines := [], tlb := [], icache := [], tags := [], nextTag := 256, mbox := [], recv := [], mtx := [], latch := []
    porter := [], lastStart := [], served := [], frozen := false, porterFrozen := false, passes := [], reserved := none, reservedGrans := [], nextCmd := 0, scFence := none
    stamp := 1, busy := false }

/-- A shader die at package reset: not released (R111), 1.0 GHz (R19), DSCR0-DSCR3 zero (R411), no update tag (R91). -/
def Die.reset : Die :=
  { working := allPositions, released := false, lost := false, cur := Tables.empty, prev := none, pend := none, tlb := []
    walks := [], walkCache := [], visitors := [], holders := [], pushes := [], acks := [], pins := [], scStamp := [], icache := [], attached := []
    tagged := [], dscr := [0, 0, 0, 0], clk := 1000, phase := 0, migr := [], waitq := [] }

/-- The configuration record a package is made with (R110): the log names it a design choice, every position working. -/
def ConfigRecord.made : ConfigRecord :=
  { version := 0, serial := 0, working := [allPositions, allPositions, allPositions, allPositions], minFw := 0, minKernel := 0
    minCert := 0, minRecord := 0, laneThreshold := 0, repair := [] }

/-- An enclave before boot. -/
def Enclave.reset : Enclave := { rsaKey := [], slhKey := [], measures := [], transcript := [] }

/-- The host die held in reset (R111). -/
def HostDie.reset : HostDie := { running := false, failed := false, imageOk := false, since := 0, told := [], interrupts := [], services := [] }

/-- A package at package reset (R111, R117, R119, R120, R35). -/
def Package.reset : Package :=
  { bootState := 0, bootFail := 0, record := ConfigRecord.made, ringL := 0, ringH := 0, ringK := 6
    powerCap := 2800, evNext := 0, evSel := 0, events := [], flash := [], activeB := false, standbyOk := true
    fwVersion := 0, standbyVersion := 0, missed := 0, mirror := { format := 0, served := 0 }, enclave := Enclave.reset, written := [], guarded := []
    kimageL := 0, kimageH := 0, updating := none, time := 0
    timeFrac := 0, ppm := 0, gmLost := false, ports := [], bias := 32, groups := [], seqs := [], queued := []
    merges := [], symCache := [], feTlb := [], watches := [], detour := 0, host := HostDie.reset, frozen := [], modules := [], vin := true }

/-- The domain before configure-domain: nothing configured, the requester timeout at its default of 100 us (R45). -/
def Domain.reset : Domain :=
  { configured := false, root := 0, queueBase := 0, queueK := 6, nrow := 1, ncol := 1, ptp := 0, carve := 0, primary := 0
    secondary := none, timeout := 10, symSize := 1, symMap := 0, registry := 0, release := [], ringBase := 0, ringK := 6 }

/-- The command queue before any packet (R79). -/
def Queue.reset : Queue :=
  { cur := none, serial := 0, acked := false, again := false, waiting := none, confirmed := 0, grids := [], status := 0, tt := [], watch := none }

/-- The machine right after reset: one package powered and about to boot (R111), nothing configured, nothing loaded. -/
def State.reset : State :=
  { mem := { cells := [], wiped := [] }, poisoned := [], warps := [], blocks := [], cores := [], dies := [], pkgs := []
    dom := Domain.reset, lost := [], launches := [], brokers := [], queue := Queue.reset, commit := none, serial := 1
    frozen := false, freezeCause := 0, inflight := [(.packageBoot, {})], timers := [], outbox := [], now := 0, turn := none, stalled := false, site := none
    arg := {}, picks := 0, free := 0 }

end Sys2Proof.Machine
end

