-- ==== Sys2Proof/Machine/Bytes.lean ====
section
/-! DEFINITION. Tables, lanes, little-endian bytes and memory: the plain data operations the machine is written over. -/

namespace Sys2Proof.Machine

/-- The value a table lists for a key. -/
def tget? {κ α : Type} [DecidableEq κ] : Tab κ α → κ → Option α
  | [], _ => none
  | (k', v) :: t, k => if k' = k then some v else tget? t k

/-- The value of a key, or a default for a key the table does not list. -/
def tget {κ α : Type} [DecidableEq κ] (t : Tab κ α) (k : κ) (d : α) : α := (tget? t k).getD d

/-- Replace a key's value in place, or list it at the end. -/
def tset {κ α : Type} [DecidableEq κ] : Tab κ α → κ → α → Tab κ α
  | [], k, v => [(k, v)]
  | (k', v') :: t, k, v => if k' = k then (k, v) :: t else (k', v') :: tset t k v

/-- List a key no more. -/
def tdel {κ α : Type} [DecidableEq κ] : Tab κ α → κ → Tab κ α
  | [], _ => []
  | (k', v') :: t, k => if k' = k then tdel t k else (k', v') :: tdel t k

/-- Put a key's value into a set-associative store, the most recently used first: the key's set is its number modulo `sets`, and
the least recently used entry of a full set goes. -/
def waysPut {α : Type} (sets ways : Nat) (t : Tab Nat α) (k : Nat) (v : α) : Tab Nat α :=
  let rest := tdel t k
  let kept := ((rest.filter fun x => x.1 % sets == k % sets).take (ways - 1)).map (·.1)
  (k, v) :: rest.filter fun x => x.1 % sets != k % sets || kept.contains x.1

/-- Replace the i-th element of a list; a list too short stays as it is. -/
def lset {α : Type} : List α → Nat → α → List α
  | [], _, _ => []
  | _ :: t, 0, v => v :: t
  | x :: t, i + 1, v => x :: lset t i v

/-- Write the i-th element of a register file; elements that the list does not hold yet are at their default d. -/
def lput {α : Type} : List α → Nat → α → α → List α
  | [], 0, v, _ => [v]
  | [], i + 1, v, d => d :: lput [] i v d
  | _ :: t, 0, v, _ => v :: t
  | x :: t, i + 1, v, d => x :: lput t i v d

/-- The numbers 0 to 31 in ascending order: the lanes (R4). -/
def laneNums : List Nat :=
  [0, 1, 2, 3, 4, 5, 6, 7, 8, 9, 10, 11, 12, 13, 14, 15, 16, 17, 18, 19, 20, 21, 22, 23, 24, 25, 26, 27, 28, 29, 30, 31]

/-- The lanes with f l in lane l. -/
def lanesOf (f : Nat → Word) : Lanes := laneNums.map f

/-- Lane l of a register. -/
def lane (v : Lanes) (l : Nat) : Word := v.getD l 0

/-- Every lane zero. -/
def zeroLanes : Lanes := lanesOf fun _ => 0

/-- A full register with every lane zero (R166, R173). -/
def zeroReg : VReg := { lanes := zeroLanes, full := true, poison := none }

/-- The lanes of a mask, ascending (R4). -/
def activeLanes (m : Mask) : List Nat := laneNums.filter fun l => m.getLsbD l

/-- The lowest lane of a mask. -/
def lowestLane (m : Mask) : Option Nat := laneNums.find? fun l => m.getLsbD l

/-- The mask of the lanes for which f holds. -/
def maskOf (f : Nat → Bool) : Mask :=
  laneNums.foldl (fun m l => if f l then m ||| ((1 : Word) <<< l) else m) 0

/-- Keep the lanes of `old` outside `act` and take those of `new` within it (R322, R416). -/
def mergeLanes (act : Mask) (old new : Lanes) : Lanes :=
  lanesOf fun l => if act.getLsbD l then lane new l else lane old l

/-- Merge predicate or mask bits in the active lanes (R322). -/
def mergeMask (act old new : Mask) : Mask := (old &&& ~~~act) ||| (new &&& act)

/-- The value of bytes, lowest address first (R3). -/
def leVal : List Byte → Nat
  | [] => 0
  | b :: bs => b.toNat + 256 * leVal bs

/-- The n low bytes of a value, lowest address first (R3). -/
def leBytes : Nat → Nat → List Byte
  | 0, _ => []
  | n + 1, v => BitVec.ofNat 8 v :: leBytes n (v / 256)

/-- Bits [hi:lo] of a value (R3). -/
def bits (v hi lo : Nat) : Nat := (v / 2 ^ lo) % 2 ^ (hi + 1 - lo)

/-- A signed value of n bits. -/
def toSigned (n v : Nat) : Int := if v % 2 ^ n < 2 ^ (n - 1) then (v % 2 ^ n : Nat) else (v % 2 ^ n : Nat) - (2 ^ n : Nat)

/-- The value of n bytes at an offset of a run of bytes; bytes past its end count as 0. -/
def field (bs : List Byte) (off n : Nat) : Nat := leVal ((bs.drop off).take n)

/-- Write n bytes of a value at an offset of a run of bytes. -/
def putField (bs : List Byte) (off n v : Nat) : List Byte :=
  bs.take off ++ leBytes n v ++ bs.drop (off + n)

/-- A run of n zero bytes. -/
def zeros (n : Nat) : List Byte := List.replicate n 0

/-- Two scalar words as one 64-bit value, low half first (R222). -/
def pairVal (lo hi : Word) : DWord := hi ++ lo

def loWord (d : DWord) : Word := d.extractLsb' 0 32

def hiWord (d : DWord) : Word := d.extractLsb' 32 32

/-- What an address that memory does not list reads as: the spec gives HBM and SRAM no reset contents (the log names
this a design choice). -/
def unlisted : Byte := 0

namespace Memory

/-- What an address that memory does not list reads as: `unlisted`, or, where it has lost its contents, a free value (R69). -/
def base (m : Memory) (a : Nat) : Byte :=
  match m.wiped.find? fun r => decide (r.1 ≤ a) && decide (a < r.2.1) with
  | some (_, _, some e) => Config.lostByte e a
  | _ => unlisted

/-- Addresses strictly rise and no entry equals what its address reads as when it is not listed. -/
def wfCells (u : Nat → Byte) : List Host.Cell → Bool
  | [] => true
  | (a, v) :: [] => v != u a
  | (a, v) :: (a', v') :: t => v != u a && decide (a < a') && wfCells u ((a', v') :: t)

/-- The canonical form of memory. -/
def wf (m : Memory) : Bool := wfCells m.base m.cells

def readCells (u : Nat → Byte) : List Host.Cell → Nat → Byte
  | [], a => u a
  | (a', v) :: t, a => if a' = a then v else if a < a' then u a else readCells u t a

/-- One byte. -/
def read (m : Memory) (a : Nat) : Byte := readCells m.base m.cells a

def writeCells (u : Nat → Byte) : List Host.Cell → Nat → Byte → List Host.Cell
  | [], a, v => if v = u a then [] else [(a, v)]
  | (a', v') :: t, a, v =>
    if a < a' then (if v = u a then (a', v') :: t else (a, v) :: (a', v') :: t)
    else if a = a' then (if v = u a then t else (a, v) :: t)
    else (a', v') :: writeCells u t a v

/-- Write one byte; writing what an unlisted address reads as removes the entry. -/
def write (m : Memory) (a : Nat) (v : Byte) : Memory := { m with cells := writeCells m.base m.cells a v }

/-- Every byte from lo up to hi reads as an unlisted one. -/
def clear (m : Memory) (lo hi : Nat) : Memory :=
  { cells := m.cells.filter fun c => decide (c.1 < lo) || decide (hi ≤ c.1)
    wiped := if m.wiped.any fun r => decide (r.1 < hi) && decide (lo < r.2.1) then (lo, hi, none) :: m.wiped else m.wiped }

/-- The bytes from lo up to hi lose their contents, which is the e-th loss (R69): each reads as a free value until it is written. -/
def wipe (m : Memory) (lo hi e : Nat) : Memory :=
  { cells := m.cells.filter fun c => decide (c.1 < lo) || decide (hi ≤ c.1), wiped := (lo, hi, some e) :: m.wiped }

end Memory

end Sys2Proof.Machine
end

