-- ==== Sys2Proof/Machine/Fp.lean ====
section
/-! DEFINITION. Exact binary values, rounding once (R4, R223, R240), FP32 arithmetic (R329, R330) and the correctly rounded
functions of R331. -/

namespace Sys2Proof.Machine

/-- The rounding modes of XR [1:0] (R281). -/
inductive Rm where
  | rne
  | rz
  | rd
  | ru
  deriving DecidableEq, Repr

def Rm.ofBits (b : BitVec 2) : Rm :=
  match b.toNat with
  | 0 => .rne
  | 1 => .rz
  | 2 => .rd
  | _ => .ru

/-- A finite magnitude mant * 2^exp; with `sticky` the value lies strictly between it and (mant + 1) * 2^exp. -/
structure Mag where
  mant : Nat
  exp : Int
  sticky : Bool
  deriving DecidableEq, Repr

/-- A value of a linear format: NaN, an infinity, or a signed dyadic number (mant = 0 is a signed zero). -/
inductive Num where
  | nan
  | inf (neg : Bool)
  | fin (neg : Bool) (mant : Nat) (exp : Int)
  deriving DecidableEq, Repr

/-- A linear format: significand bits, the exponent of its least subnormal, the width, the largest finite magnitude. -/
structure Fmt where
  prec : Nat
  lsb : Int
  width : Nat
  maxMant : Nat
  maxExp : Int
  deriving DecidableEq, Repr

def fp32 : Fmt := { prec := 24, lsb := -149, width := 32, maxMant := 2 ^ 24 - 1, maxExp := 104 }
def bf16 : Fmt := { prec := 8, lsb := -133, width := 16, maxMant := 255, maxExp := 120 }
def e5m2 : Fmt := { prec := 3, lsb := -16, width := 8, maxMant := 7, maxExp := 13 }
def e4m3 : Fmt := { prec := 4, lsb := -9, width := 8, maxMant := 14, maxExp := 5 }

/-- m * 2^e ≤ m' * 2^e', exactly. -/
def leDyadic (m : Nat) (e : Int) (m' : Nat) (e' : Int) : Bool :=
  if e ≤ e' then decide (m ≤ m' * 2 ^ (e' - e).toNat) else decide (m * 2 ^ (e - e').toNat ≤ m')

/-- Whether a discarded part (rem out of 2^d, and the sticky part below it) rounds the magnitude up. -/
def roundsUp (rm : Rm) (neg odd : Bool) (rem d : Nat) (sticky : Bool) : Bool :=
  match rm with
  | .rz => false
  | .ru => !neg && (rem != 0 || sticky)
  | .rd => neg && (rem != 0 || sticky)
  | .rne => if d = 0 then false else
      if rem > 2 ^ (d - 1) then true else if rem < 2 ^ (d - 1) then false else sticky || odd

/-- Round a magnitude to multiples of 2^q: the integer multiple, rounded once. -/
def roundAt (rm : Rm) (neg : Bool) (g : Mag) (q : Int) : Nat :=
  if q ≤ g.exp then
    let m := g.mant * 2 ^ (g.exp - q).toNat
    if roundsUp rm neg (m % 2 == 1) 0 0 g.sticky then m + 1 else m
  else
    let d := (q - g.exp).toNat
    let m := g.mant / 2 ^ d
    if roundsUp rm neg (m % 2 == 1) (g.mant % 2 ^ d) d g.sticky then m + 1 else m

/-- The canonical NaN of a format (R223, R224). -/
def Fmt.nanBits (f : Fmt) : Nat :=
  if f = e4m3 then 0x7F else if f = e5m2 then 0x7E else if f = bf16 then 0x7FC0 else 0x7FC00000

/-- The bits of the largest finite value. -/
def Fmt.maxBits (f : Fmt) : Nat := (f.maxExp - f.lsb).toNat * 2 ^ (f.prec - 1) + f.maxMant

/-- The bits of +infinity; FP8E4M3 has none and saturates (R238). -/
def Fmt.infBits (f : Fmt) : Nat := if f = e4m3 then f.maxBits else f.maxBits + 1

def Fmt.sign (f : Fmt) (neg : Bool) : Nat := if neg then 2 ^ (f.width - 1) else 0

/-- What an overflow becomes in each mode (R238, R329); FP8E4M3 saturates in every mode. -/
def Fmt.overflow (f : Fmt) (rm : Rm) (neg : Bool) : Nat :=
  if f = e4m3 then f.maxBits else
    match rm with
    | .rne => f.infBits
    | .rz => f.maxBits
    | .ru => if neg then f.maxBits else f.infBits
    | .rd => if neg then f.infBits else f.maxBits

/-- Round a magnitude into a format, once. The flag says that the result overflowed. -/
def Fmt.round (f : Fmt) (rm : Rm) (neg : Bool) (g : Mag) : Nat × Bool :=
  let bl : Int := (Nat.log2 g.mant : Nat) + 1
  let q := max (g.exp + bl - f.prec) f.lsb
  let m := roundAt rm neg g q
  if g.mant = 0 && !g.sticky then (f.sign neg, false)
  else if leDyadic m q f.maxMant f.maxExp then (f.sign neg + (q - f.lsb).toNat * 2 ^ (f.prec - 1) + m, false)
  else (f.sign neg + f.overflow rm neg, true)

/-- Read a code of a format (R223, R224). -/
def Fmt.num (f : Fmt) (code : Nat) : Num :=
  let neg := code / 2 ^ (f.width - 1) % 2 == 1
  let mag := code % 2 ^ (f.width - 1)
  if mag ≤ f.maxBits then
    let e := mag / 2 ^ (f.prec - 1)
    let m := mag % 2 ^ (f.prec - 1)
    if e = 0 then .fin neg m f.lsb else .fin neg (m + 2 ^ (f.prec - 1)) (f.lsb + e - 1)
  else if f != e4m3 && mag == f.maxBits + 1 then .inf neg else .nan

/-- An exact dyadic number as FP32 bits, rounded once; mant = 0 keeps the given sign. -/
def f32Of (rm : Rm) (neg : Bool) (m : Nat) (e : Int) : Word :=
  BitVec.ofNat 32 (fp32.round rm neg { mant := m, exp := e, sticky := false }).1

def f32NaN : Word := 0x7FC00000
def f32Inf (neg : Bool) : Word := if neg then 0xFF800000 else 0x7F800000
def f32Zero (neg : Bool) : Word := if neg then 0x80000000 else 0

def f32Num (w : Word) : Num := fp32.num w.toNat

def f32IsNaN (w : Word) : Bool := f32Num w == .nan

/-- A signed integer multiple of 2^e as FP32; an exact zero takes the sign given (R329). -/
def f32OfInt (rm : Rm) (v : Int) (e : Int) (zeroNeg : Bool) : Word :=
  if v = 0 then f32Zero zeroNeg else f32Of rm (decide (v < 0)) v.natAbs e

/-- The sign of an exact zero sum: the common sign, else + (− under RD) (R329). -/
def zeroSign (rm : Rm) (n1 n2 : Bool) : Bool := if n1 == n2 then n1 else rm == .rd

def signedMant (neg : Bool) (m : Nat) : Int := if neg then -(m : Int) else (m : Int)

/-- The exact sum of two dyadic numbers, as an integer at the lower exponent. -/
def addDyadic (n1 : Bool) (m1 : Nat) (e1 : Int) (n2 : Bool) (m2 : Nat) (e2 : Int) : Int × Int :=
  let e := min e1 e2
  (signedMant n1 (m1 * 2 ^ (e1 - e).toNat) + signedMant n2 (m2 * 2 ^ (e2 - e).toNat), e)

/-- x + y rounded once to FP32 (R329). -/
def numAdd (rm : Rm) (x y : Num) : Word :=
  match x, y with
  | .nan, _ => f32NaN
  | _, .nan => f32NaN
  | .inf n, .inf n' => if n == n' then f32Inf n else f32NaN
  | .inf n, .fin .. => f32Inf n
  | .fin .., .inf n => f32Inf n
  | .fin n1 m1 e1, .fin n2 m2 e2 =>
    let (v, e) := addDyadic n1 m1 e1 n2 m2 e2
    f32OfInt rm v e (zeroSign rm n1 n2)

/-- The exact product; an infinity times zero is invalid. -/
def numMul (x y : Num) : Num :=
  match x, y with
  | .nan, _ => .nan
  | _, .nan => .nan
  | .inf n, .inf n' => .inf (n != n')
  | .inf n, .fin n' m _ => if m = 0 then .nan else .inf (n != n')
  | .fin n m _, .inf n' => if m = 0 then .nan else .inf (n != n')
  | .fin n m e, .fin n' m' e' => .fin (n != n') (m * m') (e + e')

def Num.negate : Num → Num
  | .nan => .nan
  | .inf n => .inf !n
  | .fin n m e => .fin (!n) m e

/-- Round an exact value to FP32. -/
def numF32 (rm : Rm) : Num → Word
  | .nan => f32NaN
  | .inf n => f32Inf n
  | .fin n m e => f32Of rm n m e

def fadd (rm : Rm) (a b : Word) : Word := numAdd rm (f32Num a) (f32Num b)
def fsub (rm : Rm) (a b : Word) : Word := numAdd rm (f32Num a) (f32Num b).negate
def fmul (rm : Rm) (a b : Word) : Word := numF32 rm (numMul (f32Num a) (f32Num b))

/-- a * b + c, the product not rounded; 0 * infinity is invalid whatever c is (R329). -/
def ffma (rm : Rm) (a b c : Word) : Word := numAdd rm (numMul (f32Num a) (f32Num b)) (f32Num c)

/-- x ≤ y on numbers that are not NaN, −0 below +0 (R330). -/
def numLe : Num → Num → Bool
  | .inf true, _ => true
  | _, .inf false => true
  | .inf false, _ => false
  | _, .inf true => false
  | .fin n m e, .fin n' m' e' =>
    if n && !n' then true
    else if !n && n' then false
    else if n then leDyadic m' e' m e else leDyadic m e m' e'
  | _, _ => true

def fmin (a b : Word) : Word :=
  if f32IsNaN a || f32IsNaN b then f32NaN else if numLe (f32Num a) (f32Num b) then a else b

def fmax (a b : Word) : Word :=
  if f32IsNaN a || f32IsNaN b then f32NaN else if numLe (f32Num a) (f32Num b) then b else a

/-- a < b and a = b as values; +0 equals −0; false if either is NaN (R332). -/
def numLt (x y : Num) : Bool :=
  match x, y with
  | .nan, _ => false
  | _, .nan => false
  | .fin _ 0 _, .fin n m _ => !n && m != 0
  | .fin n m _, .fin _ 0 _ => n && m != 0
  | _, _ => !numLe y x

def numEq (x y : Num) : Bool :=
  match x, y with
  | .nan, _ => false
  | _, .nan => false
  | .fin _ 0 _, .fin _ 0 _ => true
  | _, _ => numLe x y && numLe y x

/-- The integer square root, bit by bit from bit i down. -/
def isqrtFrom (n : Nat) : Nat → Nat → Nat
  | 0, r => if (r + 1) * (r + 1) ≤ n then r + 1 else r
  | i + 1, r => isqrtFrom n i (if (r + 2 ^ (i + 1)) * (r + 2 ^ (i + 1)) ≤ n then r + 2 ^ (i + 1) else r)

def isqrt (n : Nat) : Nat := isqrtFrom n (Nat.log2 n / 2 + 1) 0

/-- 1 / (m * 2^e), for m > 0. -/
def magRecip (m : Nat) (e : Int) : Mag :=
  let k := Nat.log2 m + 64
  { mant := 2 ^ k / m, exp := -(k : Int) - e, sticky := 2 ^ k % m != 0 }

/-- A magnitude with an even exponent. -/
def evenExp (m : Nat) (e : Int) : Nat × Int := if e % 2 = 0 then (m, e) else (2 * m, e - 1)

/-- The square root of m * 2^e. -/
def magSqrt (m : Nat) (e : Int) : Mag :=
  let (m, e) := evenExp m e
  let n := m * 2 ^ 128
  let r := isqrt n
  { mant := r, exp := e / 2 - 64, sticky := r * r != n }

/-- The reciprocal of the square root of m * 2^e, for m > 0. -/
def magRsqrt (m : Nat) (e : Int) : Mag :=
  let (m, e) := evenExp m e
  let r := isqrt (2 ^ 256 / m)
  { mant := r, exp := -(e / 2) - 128, sticky := m * r * r != 2 ^ 256 }

/-- Working bits of the two transcendental functions. -/
def workBits : Nat := 300

/-- The integer part of (ln 2) * 2^300. -/
def ln2Scaled : Nat :=
  1411965743695424507508857192728570223734551239724995589061361292466257174357546532574725854

/-- The sum of t^k / k! from k = i, as fixed point with `workBits` fraction bits. -/
def expSum (t : Nat) : Nat → Nat → Nat → Nat
  | 0, _, _ => 0
  | fuel + 1, i, term => term + expSum t fuel (i + 1) (term * t / 2 ^ workBits / (i + 1))

/-- 2 to the power of the signed dyadic number: exact where it is an integer power, otherwise the integer part at 280 or so
correct bits with the sticky part set, which decides every rounding the log entry on these functions names (R331). -/
def magExp2 (neg : Bool) (m : Nat) (e : Int) : Mag :=
  if m = 0 then { mant := 1, exp := 0, sticky := false }
  else if leDyadic 1024 0 m e then { mant := 1, exp := if neg then -2048 else 2048, sticky := true }
  else
    let v := signedMant neg (if e ≥ -(workBits : Int) then m * 2 ^ (e + workBits).toNat else m / 2 ^ (-(e + workBits)).toNat)
    let n := v.fdiv (2 ^ workBits : Nat)
    let f := (v - n * (2 ^ workBits : Nat)).toNat
    if f = 0 && e ≥ -(workBits : Int) then { mant := 1, exp := n, sticky := false }
    else
      let t := f * ln2Scaled / 2 ^ workBits
      { mant := expSum t 90 0 (2 ^ workBits) / 2 ^ 20, exp := n - workBits + 20, sticky := true }

/-- Fraction bits of log2, most significant first: square the number in [1, 2), take the bit, halve. -/
def logBits : Nat → Nat → Nat → Nat
  | 0, _, acc => acc
  | fuel + 1, x, acc =>
    let y := x * x / 2 ^ 400
    if y < 2 ^ 401 then logBits fuel y (2 * acc) else logBits fuel (y / 2) (2 * acc + 1)

/-- log2 of m * 2^e for m > 0, as a sign and a magnitude. -/
def magLog2 (m : Nat) (e : Int) : Bool × Mag :=
  let bl := Nat.log2 m
  let int := e + bl
  if m = 2 ^ bl then (decide (int < 0), { mant := int.natAbs, exp := 0, sticky := false })
  else
    let l := logBits 200 (m * 2 ^ (400 - bl)) 0
    let v : Int := int * (2 ^ 200 : Nat) + l
    if v < 0 then (true, { mant := (v.natAbs - 1) / 2 ^ 40, exp := -160, sticky := true })
    else (false, { mant := v.natAbs / 2 ^ 40, exp := -160, sticky := true })

def magF32 (rm : Rm) (neg : Bool) (g : Mag) : Word := BitVec.ofNat 32 (fp32.round rm neg g).1

/-- FRCP (R331). -/
def frcp (rm : Rm) (a : Word) : Word :=
  match f32Num a with
  | .nan => f32NaN
  | .inf n => f32Zero n
  | .fin n 0 _ => f32Inf n
  | .fin n m e => magF32 rm n (magRecip m e)

/-- FRSQ (R331). -/
def frsq (rm : Rm) (a : Word) : Word :=
  match f32Num a with
  | .nan => f32NaN
  | .inf n => if n then f32NaN else 0
  | .fin n 0 _ => f32Inf n
  | .fin n m e => if n then f32NaN else magF32 rm false (magRsqrt m e)

/-- FSQRT (R331). -/
def fsqrt (rm : Rm) (a : Word) : Word :=
  match f32Num a with
  | .nan => f32NaN
  | .inf n => if n then f32NaN else f32Inf false
  | .fin n 0 _ => f32Zero n
  | .fin n m e => if n then f32NaN else magF32 rm false (magSqrt m e)

/-- FEX2 (R331). -/
def fex2 (rm : Rm) (a : Word) : Word :=
  match f32Num a with
  | .nan => f32NaN
  | .inf n => if n then 0 else f32Inf false
  | .fin n m e => magF32 rm false (magExp2 n m e)

/-- FLG2 (R331). -/
def flg2 (rm : Rm) (a : Word) : Word :=
  match f32Num a with
  | .nan => f32NaN
  | .inf n => if n then f32NaN else f32Inf false
  | .fin _ 0 _ => f32Inf true
  | .fin n m e => if n then f32NaN else
      let (neg, g) := magLog2 m e
      if g.mant = 0 && !g.sticky then 0 else magF32 rm neg g

/-- EX2 of the exact difference x − y of two FP32 values that are not NaN, x ≤ y, rounded to FP32 under RNE (R51). -/
def ex2Diff (x y : Word) : Word :=
  match f32Num x, f32Num y with
  | .inf true, _ => 0
  | _, .inf false => 0
  | .fin n1 m1 e1, .fin n2 m2 e2 =>
    let (v, e) := addDyadic n1 m1 e1 (!n2) m2 e2
    magF32 .rne false (magExp2 (decide (v < 0)) v.natAbs e)
  | _, _ => f32NaN

/-- RNE(a * f + b * g), one rounding (R51). -/
def fdot2 (a f b g : Word) : Word :=
  match numMul (f32Num a) (f32Num f), numMul (f32Num b) (f32Num g) with
  | x, y => numAdd .rne x y

end Sys2Proof.Machine
end

