-- ==== Sys2Proof/Machine/Formats.lean ====
section
/-! DEFINITION. The number formats and their conversions (R222-R229, R236-R240, R334-R338) and the arithmetic of the
matrix step (R230-R235). -/

namespace Sys2Proof.Machine

/-- The exact source value of a conversion: a linear value, or the real code (-1)^neg * 2^(e / 2^f) of a log format. The
log zero code is the linear +0 and NaR is NaN: every row of R335 gives them the same results. -/
inductive Src where
  | lin (n : Num)
  | log (neg : Bool) (e : Int) (f : Nat)
  deriving DecidableEq, Repr

/-- The type codes of R291. -/
def intWidth (t : Nat) : Option (Nat × Bool) :=
  match t with
  | 0 => some (32, true)
  | 1 => some (32, false)
  | 9 => some (8, true)
  | 10 => some (8, false)
  | 11 => some (16, true)
  | 12 => some (16, false)
  | 13 => some (64, true)
  | 14 => some (64, false)
  | _ => none

/-- The linear format of a type code. -/
def linFmt (t : Nat) : Option Fmt :=
  match t with
  | 2 => some fp32
  | 3 => some bf16
  | 4 => some e4m3
  | 5 => some e5m2
  | _ => none

/-- The fraction bits and the width of a log format's type code (R225). -/
def logFmt (t : Nat) : Option (Nat × Nat) :=
  match t with
  | 6 => some (3, 8)
  | 7 => some (8, 16)
  | _ => none

/-- Whether a type is 64 bits wide and lies in a register pair (R334). -/
def wideType (t : Nat) : Bool := t == 13 || t == 14

/-- Read an L8 or L16 code of width w with f fraction bits (R225). -/
def readLog (f w code : Nat) : Src :=
  let field := code % 2 ^ (w - 1)
  let neg := code / 2 ^ (w - 1) % 2 == 1
  if field = 2 ^ (w - 2) then (if neg then .lin .nan else .lin (.fin false 0 0))
  else .log neg (toSigned (w - 1) field) f

/-- Read a source of a type code from the low bits of a register or pair (R334). -/
def readSrc (t : Nat) (v : Nat) : Src :=
  match intWidth t, linFmt t, logFmt t with
  | some (w, s), _, _ =>
    let x : Int := if s then toSigned w v else (v % 2 ^ w : Nat)
    .lin (.fin (decide (x < 0)) x.natAbs 0)
  | _, some f, _ => .lin (f.num (v % 2 ^ f.width))
  | _, _, some (f, w) => readLog f w (v % 2 ^ w)
  | _, _, _ => .lin .nan

/-- floor(2^g * log2(m * 2^e)), exactly, for m > 0. -/
def floorLog (g m : Nat) (e : Int) : Int := (Nat.log2 (m ^ 2 ^ g) : Nat) + e * (2 ^ g : Nat)

/-- RNE(2^g * log2(m * 2^e)), exactly, for m > 0; a tie cannot occur (R231, R236). -/
def nearLog (g m : Nat) (e : Int) : Int := ((Nat.log2 (m ^ 2 ^ (g + 1)) + 1) / 2 : Nat) + e * (2 ^ g : Nat)

/-- Whether a rounding mode takes the higher log field for a value of a sign, the lower one, or the nearest (R236). -/
def logUp (rm : Rm) (neg : Bool) : Bool :=
  match rm with
  | .ru => !neg
  | .rd => neg
  | _ => false

/-- The field of a real value (R236), before the clamp. -/
def logField (g : Nat) (rm : Rm) (neg : Bool) (m : Nat) (e : Int) : Int :=
  if rm = .rne then nearLog g m e
  else if logUp rm neg && m != 2 ^ Nat.log2 m then floorLog g m e + 1 else floorLog g m e

/-- A log field rounded to fewer fraction bits: e / 2^d, ties to the even field (R236). -/
def narrowField (d : Nat) (rm : Rm) (neg : Bool) (e : Int) : Int :=
  let q := e.fdiv (2 ^ d : Nat)
  let r := e - q * (2 ^ d : Nat)
  if r = 0 then q
  else if rm = .rne then
    (if 2 * r > (2 ^ d : Nat) then q + 1 else if 2 * r < (2 ^ d : Nat) then q else if q % 2 = 0 then q else q + 1)
  else if logUp rm neg then q + 1 else q

/-- A log code from its sign and field, clamped to the greatest and least real fields; the flag is LSAT. -/
def putLog (w : Nat) (neg : Bool) (e : Int) : Nat × Bool :=
  let top : Int := (2 ^ (w - 2) : Nat) - 1
  let c := max (-top) (min top e)
  ((if neg then 2 ^ (w - 1) else 0) + (c % (2 ^ (w - 1) : Nat)).toNat, decide (c ≠ e))

/-- Convert into a log format with f fraction bits and width w (R236): the code and LSAT. -/
def toLog (f w : Nat) (rm : Rm) : Src → Nat × Bool
  | .lin (.fin _ 0 _) => (2 ^ (w - 2), false)
  | .lin (.fin neg m e) => putLog w neg (logField f rm neg m e)
  | .lin _ => (2 ^ (w - 1) + 2 ^ (w - 2), false)
  | .log neg e f' =>
    if f' ≤ f then putLog w neg (e * (2 ^ (f - f') : Nat)) else putLog w neg (narrowField (f' - f) rm neg e)

/-- Convert into a linear format (R237, R238): the bits and OVF. -/
def toLin (f : Fmt) (rm : Rm) : Src → Nat × Bool
  | .lin .nan => (f.nanBits, false)
  | .lin (.inf neg) => (f.sign neg + f.infBits, decide (f = e4m3))
  | .lin (.fin neg m e) => f.round rm neg { mant := m, exp := e, sticky := false }
  | .log neg e g => f.round rm neg (magExp2 (decide (e < 0)) e.natAbs (-(g : Int)))

/-- Limit an integer to a width's range. -/
def limitInt (w : Nat) (s : Bool) (v : Int) : Int :=
  if s then max (-(2 ^ (w - 1) : Nat)) (min ((2 ^ (w - 1) : Nat) - 1) v) else max 0 (min ((2 ^ w : Nat) - 1) v)

/-- Convert into an integer type, rounding and then limiting (R335). -/
def toInt (w : Nat) (s : Bool) (rm : Rm) : Src → Int
  | .lin .nan => 0
  | .lin (.inf neg) => if neg then (if s then -(2 ^ (w - 1) : Nat) else 0) else limitInt w s (2 ^ w : Nat)
  | .lin (.fin neg m e) => limitInt w s (signedMant neg (roundAt rm neg { mant := m, exp := e, sticky := false } 0))
  | .log neg e g => limitInt w s (signedMant neg (roundAt rm neg (magExp2 (decide (e < 0)) e.natAbs (-(g : Int))) 0))

/-- Eight times the magnitude of index i of a C4 type's ascending list (R228). -/
def c4Mag8 (t i : Nat) : Nat :=
  match t with
  | 0 => 8 * i
  | 1 => [0, 4, 8, 12, 16, 24, 32, 48].getD i 0
  | 2 => [0, 1, 2, 4, 8, 16, 32, 64].getD i 0
  | _ => [0, 8, 16, 24, 32, 48, 64, 96].getD i 0

/-- The sign and list index of a C4 code (R228). -/
def c4Parts (t c : Nat) : Bool × Nat :=
  if t = 0 then (if c < 8 then (false, c) else (true, 16 - c)) else (decide (8 ≤ c), c % 8)

/-- A C4 code from its sign and index; a magnitude of 0 is 0000b (R239). -/
def c4Code (t : Nat) (neg : Bool) (i : Nat) : Nat :=
  if i = 0 then 0 else if !neg then i else if t = 0 then 16 - i else 8 + i

/-- The greatest index of a sign: 8 is reachable only as -8 (R228). -/
def c4Top (t : Nat) (neg : Bool) : Nat := if t = 0 && neg then 8 else 7

/-- Whether v16 / 16 * (n * 2^k) ≤ |x|, exactly, for a finite nonzero x. -/
def c4Le (v16 n : Nat) (k : Int) : Src → Bool
  | .lin (.fin _ m e) => leDyadic (v16 * n) (k - 4) m e
  | .log _ e f => leDyadic ((v16 * n) ^ 2 ^ f) ((k - 4) * (2 ^ f : Nat)) 1 e
  | .lin _ => false

/-- Whether |x| ≤ v16 / 16 * (n * 2^k), exactly. -/
def c4Ge (v16 n : Nat) (k : Int) : Src → Bool
  | .lin (.fin _ m e) => leDyadic m e (v16 * n) (k - 4)
  | .log _ e f => leDyadic 1 e ((v16 * n) ^ 2 ^ f) ((k - 4) * (2 ^ f : Nat))
  | .lin _ => false

/-- The index that a mode selects for |x| / (n * 2^k), which does not lie beyond the list (R239, R336). -/
def c4Index (t : Nat) (rm : Rm) (neg : Bool) (n : Nat) (k : Int) (x : Src) : Nat :=
  let up := (rm == .ru && !neg) || (rm == .rd && neg)
  ((List.range (c4Top t neg)).filter fun i =>
    if rm = .rne then
      let mid := c4Mag8 t i + c4Mag8 t (i + 1)
      c4Le mid n k x && (!c4Ge mid n k x || i % 2 == 1)
    else if up then !c4Ge (2 * c4Mag8 t i) n k x
    else c4Le (2 * c4Mag8 t (i + 1)) n k x).length

def Src.isNeg : Src → Bool
  | .lin (.fin n _ _) => n
  | .lin (.inf n) => n
  | .lin .nan => false
  | .log n _ _ => n

/-- Convert into a C4 code of type t under a BF16 scale (R239, R336): the code, OVF and NARF. -/
def toC4 (t scale : Nat) (rm : Rm) (x : Src) : Nat × Bool × Bool :=
  match x, bf16.num scale with
  | .lin .nan, _ => (0, false, true)
  | _, .nan => (0, false, false)
  | _, .inf _ => (0, false, false)
  | _, .fin _ 0 _ => (0, false, false)
  | .lin (.inf n), .fin n' _ _ => (c4Code t (n != n') (c4Top t (n != n')), true, false)
  | .lin (.fin _ 0 _), _ => (0, false, false)
  | x, .fin n' m k =>
    let neg := x.isNeg != n'
    let top := c4Top t neg
    if c4Le (2 * c4Mag8 t top) m k x && !c4Ge (2 * c4Mag8 t top) m k x then (c4Code t neg top, true, false)
    else (c4Code t neg (c4Index t rm neg m k x), false, false)

/-- A C4 metadata word's reserved field, type and scale (R227). -/
def c4Reserved (m : Nat) : Bool := m / 2 ^ 18 != 0
def c4Type (m : Nat) : Nat := bits m 17 16
def c4Scale (m : Nat) : Nat := m % 2 ^ 16

/-- What a conversion gives: the low bits, and the flags that MST records (R235). -/
structure Conv where
  val : Nat
  ovf : Bool
  lsat : Bool
  narf : Bool
  fmt : Bool
  deriving DecidableEq, Repr

def Conv.of (v : Nat) : Conv := { val := v, ovf := false, lsat := false, narf := false, fmt := false }

/-- Convert an exact value into the type of a code; `meta_` is the C4 metadata word (R236-R239, R335, R336, R378). -/
def convert (t : Nat) (rm : Rm) (meta_ : Nat) (x : Src) : Conv :=
  match intWidth t, linFmt t, logFmt t with
  | some (w, s), _, _ => Conv.of ((toInt w s rm x) % (2 ^ w : Nat)).toNat
  | _, some f, _ => let (v, o) := toLin f rm x; { Conv.of v with ovf := o }
  | _, _, some (f, w) => let (v, l) := toLog f w rm x; { Conv.of v with lsat := l }
  | _, _, _ =>
    if c4Reserved meta_ then { Conv.of 0 with fmt := true }
    else let (v, o, n) := toC4 (c4Type meta_) (c4Scale meta_) rm x; { Conv.of v with ovf := o, narf := n }

/-- How CVT writes a destination narrower than its register: .i8 and .i16 sign-extended, the others zero-extended (R334). -/
def widen (t v : Nat) : Nat :=
  match intWidth t with
  | some (w, true) => if w < 32 then (toSigned w v % (2 ^ 32 : Nat)).toNat else v
  | _ => v

/-- CVT of one lane (R334-R336): minor = 16 * destination + source. -/
def cvt (minor : Nat) (rm : Rm) (a : Nat) (b : Word) : Nat :=
  widen (minor / 16) (convert (minor / 16) rm b.toNat (readSrc (minor % 16) a)).val

/-- UNPACK4 of one code (R338). -/
def unpack4 (c : Nat) (m : Word) : Word :=
  let m := m.toNat
  let (neg, i) := c4Parts (c4Type m) c
  match c4Reserved m, bf16.num (c4Scale m) with
  | true, _ => f32NaN
  | _, .nan => f32NaN
  | _, sc =>
    let v := c4Mag8 (c4Type m) i
    if v = 0 then (match sc with | .fin .. => 0 | _ => f32NaN)
    else numF32 .rne (numMul (.fin neg v (-3)) sc)

/-- T[0] to T[63] (R230). -/
def linT0 : List Nat :=
  [8388608, 8411352, 8434157, 8457025, 8479954, 8502945, 8525999, 8549116,
   8572295, 8595536, 8618841, 8642209, 8665641, 8689136, 8712694, 8736317,
   8760003, 8783754, 8807569, 8831449, 8855394, 8879403, 8903477, 8927617,
   8951823, 8976093, 9000430, 9024833, 9049301, 9073837, 9098438, 9123107,
   9147842, 9172644, 9197514, 9222451, 9247455, 9272528, 9297668, 9322877,
   9348154, 9373499, 9398913, 9424396, 9449948, 9475570, 9501261, 9527021,
   9552851, 9578752, 9604722, 9630764, 9656875, 9683058, 9709311, 9735636,
   9762032, 9788499, 9815039, 9841650, 9868333, 9895089, 9921917, 9948818]

/-- T[64] to T[127] (R230). -/
def linT1 : List Nat :=
  [9975792, 10002839, 10029960, 10057154, 10084422, 10111763, 10139179, 10166669,
   10194234, 10221873, 10249587, 10277377, 10305242, 10333182, 10361198, 10389290,
   10417458, 10445703, 10474024, 10502422, 10530897, 10559449, 10588079, 10616786,
   10645571, 10674434, 10703375, 10732395, 10761494, 10790671, 10819928, 10849263,
   10878679, 10908174, 10937749, 10967404, 10997140, 11026956, 11056853, 11086831,
   11116891, 11147032, 11177254, 11207559, 11237946, 11268415, 11298967, 11329601,
   11360319, 11391120, 11422004, 11452973, 11484025, 11515161, 11546382, 11577687,
   11609078, 11640553, 11672114, 11703760, 11735492, 11767310, 11799215, 11831206]

/-- T[128] to T[191] (R230). -/
def linT2 : List Nat :=
  [11863283, 11895448, 11927700, 11960039, 11992466, 12024981, 12057584, 12090275,
   12123055, 12155924, 12188882, 12221930, 12255067, 12288294, 12321610, 12355018,
   12388516, 12422104, 12455784, 12489555, 12523418, 12557372, 12591419, 12625557,
   12659789, 12694113, 12728530, 12763041, 12797645, 12832343, 12867135, 12902021,
   12937002, 12972078, 13007249, 13042515, 13077877, 13113335, 13148888, 13184539,
   13220286, 13256129, 13292070, 13328109, 13364245, 13400479, 13436812, 13473242,
   13509772, 13546401, 13583129, 13619956, 13656884, 13693911, 13731039, 13768268,
   13805598, 13843028, 13880561, 13918195, 13955931, 13993769, 14031710, 14069754]

/-- T[192] to T[255] (R230). -/
def linT3 : List Nat :=
  [14107901, 14146151, 14184505, 14222963, 14261526, 14300193, 14338964, 14377841,
   14416824, 14455912, 14495106, 14534406, 14573813, 14613326, 14652947, 14692675,
   14732511, 14772455, 14812507, 14852668, 14892937, 14933316, 14973805, 15014403,
   15055111, 15095929, 15136859, 15177899, 15219050, 15260313, 15301688, 15343175,
   15384775, 15426487, 15468313, 15510252, 15552304, 15594471, 15636752, 15679147,
   15721658, 15764283, 15807025, 15849882, 15892855, 15935945, 15979152, 16022476,
   16065917, 16109476, 16153153, 16196949, 16240863, 16284897, 16329050, 16373322,
   16417715, 16462228, 16506861, 16551616, 16596492, 16641490, 16686609, 16731851]

/-- T (R230): RNE(2^(k/256) * 2^23). Four entries of the printed table (k = 87, 124, 131, 189) are off by one from the
formula, the correctly rounded significand and R237; the formula holds here (DEDUCED, in the log). -/
def linT (k : Nat) : Nat :=
  if k < 64 then linT0.getD k 0 else if k < 128 then linT1.getD (k - 64) 0
  else if k < 192 then linT2.getD (k - 128) 0 else linT3.getD (k - 192) 0

/-- An element at the engine's input (R231): zero, NaR, or a sign and a log with 8 fraction bits. -/
inductive LogIn where
  | zero
  | nar
  | val (neg : Bool) (l : Int)
  deriving DecidableEq, Repr

/-- The log of a C4 code under a type (R229). -/
def c4In (t c : Nat) : LogIn :=
  let (neg, i) := c4Parts t c
  if c4Mag8 t i = 0 then .zero else .val neg (nearLog 8 (c4Mag8 t i) (-3))

/-- The conversion of an element at the engine's input, and LSAT (R231). Formats: 0 C4, 1 L8, 2 L16, 3 BF16, 4 FP8E4M3,
5 FP8E5M2 (R368). -/
def elementIn (fmt meta_ code : Nat) : LogIn × Bool :=
  match fmt with
  | 0 => (c4In (c4Type meta_) code, false)
  | 1 => (match readLog 3 8 code with
    | .log n e _ => .val n (e * 32)
    | .lin .nan => .nar
    | .lin _ => .zero, false)
  | 2 => (match readLog 8 16 code with
    | .log n e _ => .val n e
    | .lin .nan => .nar
    | .lin _ => .zero, false)
  | _ =>
    match (if fmt = 3 then bf16 else if fmt = 4 then e4m3 else e5m2).num code with
    | .fin _ 0 _ => (.zero, false)
    | .fin n m e =>
      let l := nearLog 8 m e
      let c := max (-16383) (min 16383 l)
      (.val n c, decide (c ≠ l))
    | _ => (.nar, false)

/-- The product of two elements (R233). -/
def prodIn : LogIn → LogIn → LogIn
  | .nar, _ => .nar
  | _, .nar => .nar
  | .zero, _ => .zero
  | _, .zero => .zero
  | .val n l, .val n' l' => .val (n != n') (l + l')

/-- The largest exponent of the kept products. -/
def topExp (ps : List LogIn) : Int :=
  ps.foldl (fun m p => match p with | .val _ l => max m (l.fdiv 256) | _ => m) (-32768)

/-- A product's term in the 40-bit window (R233). -/
def windowTerm (top : Int) : LogIn → Int
  | .val n l =>
    let t := linT (l % 256).toNat
    let sh := l.fdiv 256 - top + 16
    signedMant n (if 0 ≤ sh then t * 2 ^ sh.toNat else t / 2 ^ (-sh).toNat)
  | _ => 0

/-- The sum S of a group of products (R233). -/
def groupSum (ps : List LogIn) : Num :=
  if ps.any (· == .nar) then .nan
  else
    let top := topExp ps
    let s := ps.foldl (fun acc p => acc + windowTerm top p) 0
    .fin (decide (s < 0)) s.natAbs (if s = 0 then 0 else top - 39)

/-- The update of an accumulator (R234), with the flags it sets as MXS bits: OVF and NARF. A group whose S is NaR
because of a C4 metadata word with a nonzero reserved field sets FMT and not NARF (R235). -/
def accUpdate (acc : Word) (s sA sB : Num) (fmt : Bool) : Word × Word :=
  let bad := s == .nan || !(match sA with | .fin .. => true | _ => false) || !(match sB with | .fin .. => true | _ => false)
  if fmt then (f32NaN, if bad then 8 ||| 1 else 8)
  else if bad then (f32NaN, 1)
  else
    match f32Num acc with
    | .nan => (acc, 0)
    | .inf _ => (acc, 0)
    | x =>
      let r := numAdd .rne x (numMul (numMul s sA) sB)
      if r = f32Inf false then (0x7F7FFFFF, 2) else if r = f32Inf true then (0xFF7FFFFF, 2) else (r, 0)

end Sys2Proof.Machine
end

