-- ==== Sys2Proof/Machine/Flags.lean ====
section
/-! DEFINITION. Comparisons and flags: the conditions of SCMP, ICMP and FCMP (R305, R332), the matrix flags of MXS (R235),
the walker end flags of WEF (R183), the conditions of branches (R312, R313). -/

namespace Sys2Proof.Machine

/-- An integer comparison by its minor (R305, R332): 0 and 1 equality, 2-5 signed, 6-9 natural. -/
def icmpHolds (minor : Nat) (a b : Word) : Bool :=
  match minor with
  | 0 => a == b
  | 1 => a != b
  | 2 => decide (a.toInt < b.toInt)
  | 3 => decide (a.toInt ≤ b.toInt)
  | 4 => decide (b.toInt < a.toInt)
  | 5 => decide (b.toInt ≤ a.toInt)
  | 6 => decide (a.toNat < b.toNat)
  | 7 => decide (a.toNat ≤ b.toNat)
  | 8 => decide (b.toNat < a.toNat)
  | _ => decide (b.toNat ≤ a.toNat)

/-- An FP32 comparison by its minor (R332): false if either is NaN, but for .ne. -/
def fcmpHolds (minor : Nat) (a b : Word) : Bool :=
  let x := f32Num a
  let y := f32Num b
  match minor with
  | 0 => numEq x y
  | 1 => !numEq x y
  | 2 => numLt x y
  | 3 => numLt x y || numEq x y
  | 4 => numLt y x
  | _ => numLt y x || numEq x y

/-- The MXS bits that a conversion of MST sets (R235): OVF, LSAT, NARF, FMT. -/
def convFlags (c : Conv) : Word :=
  (if c.narf then 1 else 0) ||| (if c.ovf then 2 else 0) ||| (if c.lsat then 4 else 0) ||| (if c.fmt then 8 else 0)

/-- WEF after walker k advanced with end flags (E2, E1, E0) (R183). -/
def putEnds (wef : Word) (k : Nat) (e0 e1 e2 : Bool) : Word :=
  (wef &&& ~~~((7 : Word) <<< (3 * k))) |||
    ((BitVec.ofNat 32 (bit e0 0 + bit e1 1 + bit e2 2)) <<< (3 * k))
where
  bit (b : Bool) (k : Nat) : Nat := if b then 2 ^ k else 0

/-- The end flag of dimension n of walker k (R315). -/
def endFlag (wef : Word) (k n : Nat) : Bool := wef.getLsbD (3 * k + n)

/-- A predicate over the active lanes: true in all, in none, or the lanes that differ from the lowest (R313). -/
def uniform (act pred : Mask) : Except Mask Bool :=
  match lowestLane act with
  | none => .ok true
  | some f =>
    let first := pred.getLsbD f
    let odd := act &&& (if first then ~~~pred else pred)
    if odd = 0 then .ok first else .error odd

end Sys2Proof.Machine
end

