-- ==== Sys2Proof/WellFormed.lean ====
section
/-! DEFINITION. Which terms of the syntax are instructions: the field rules of R283-R288, R291-R296, R302, R321, R343,
R364 and R385 (a breach of one raises Illegal-instruction, R298). -/

namespace Sys2Proof

/-- A field that names a 64-bit pair is even (R284). -/
def even7 (f : BitVec 7) : Bool := f.toNat % 2 == 0

/-- A field that names a group of four is a multiple of 4 (R284). -/
def quad7 (f : BitVec 7) : Bool := f.toNat % 4 == 0

/-- A small number lies in 0..n (R284). -/
def small7 (f : BitVec 7) (n : Nat) : Bool := decide (f.toNat ≤ n)

/-- The special registers of R297 that SREAD may name. -/
def readableSpecial (n : Nat) : Bool :=
  decide (n ≤ 0x0C) || (decide (0x10 ≤ n) && decide (n ≤ 0x17)) || (decide (0x20 ≤ n) && decide (n ≤ 0x2B))

/-- The special registers of R297 that SWRITE may name: EVM, RFF, TVECL, TVECH, WALK0-WALK7. -/
def writableSpecial (n : Nat) : Bool :=
  n == 0x03 || n == 0x05 || n == 0x08 || n == 0x09 || (decide (0x10 ≤ n) && decide (n ≤ 0x17))

/-- The 64-bit special registers of R297: CYCLE, WTIMER, WALK0-WALK7, ARGS. -/
def wideSpecial (n : Nat) : Bool :=
  n == 0x00 || n == 0x01 || (decide (0x10 ≤ n) && decide (n ≤ 0x17)) || n == 0x2B

namespace Reg

/-- No guard and no empty bit: [3:0] zero (R286, R302). -/
def noMod (r : Reg) : Bool := r.g == 0 && !r.fa && !r.fb

/-- No field is used (R288). -/
def isZero (r : Reg) : Bool := r.noMod && r.d == 0 && r.a == 0 && r.b == 0

/-- EVBIND's kind is 1-7 and its source group is shaped as the kind needs (R295, R403). -/
def okBind (r : Reg) : Bool :=
  decide (1 ≤ r.b.toNat) && decide (r.b.toNat ≤ 7) && (r.b.toNat != 3 || quad7 r.a) &&
    (r.b.toNat != 5 || even7 r.a) && (r.b.toNat != 6 || r.a == 0)

end Reg

namespace Xr

def noGuard (x : Xr) : Bool := x.g == 0 && !x.neg

/-- XR [10:2], [1:0] zero (R287, R288). -/
def noCross (x : Xr) : Bool := x.mode == 0 && x.amt == 0 && !x.clamp

def onlyMinor (x : Xr) : Bool := x.c == 0 && x.noGuard && !x.fc && !x.bs && x.noCross && x.rnd == 0

def isZero (x : Xr) : Bool := x.onlyMinor && x.minor == 0

def okMinor (x : Xr) (m : Nat) : Bool := decide (x.minor.toNat ≤ m)

/-- The cross-lane mode needs a vector source a; with mode 0 the amount and the clamp bit are zero (R287). -/
def okCross (x : Xr) (av : Bool) : Bool :=
  if av then decide (x.mode.toNat ≤ 5) && (x.mode != 0 || x.noCross) else x.noCross

/-- Field c: unused (0), a vector source (1), or a predicate with fc zero (2) (R321). -/
def okC (x : Xr) (k : Nat) : Bool :=
  match k with
  | 0 => x.c == 0 && !x.fc
  | 1 => true
  | _ => small7 x.c 7 && !x.fc

/-- XR [11] needs a vector source b, and then fb is zero (R285). -/
def okB (x : Xr) (bv : Bool) (r : Reg) : Bool := if bv then !x.bs || !r.fb else !x.bs

def okRound (x : Xr) (used : Bool) : Bool := used || x.rnd == 0

/-- The type codes of R291 that are integers. -/
def intCode (t : Nat) : Bool := t ≤ 1 || (9 ≤ t && t ≤ 14)

/-- CVT (R291, R334): a legal pair of types, even pairs for 64-bit types, b only for a .c4 destination. -/
def okCvt (x : Xr) (r : Reg) : Bool :=
  let dst := x.minor.toNat / 16
  let src := x.minor.toNat % 16
  dst != src && decide (dst ≤ 14) && decide (src ≤ 14) && src != 8 &&
    (dst < 13 || even7 r.d) && (src < 13 || even7 r.a) &&
    (dst == 8 || (r.b == 0 && !r.fb)) && x.okCross true && x.okC 0 && x.okB (dst == 8) r &&
    x.okRound (!(intCode dst && intCode src))

/-- MLOOP (R293, R364): minor 0-31, c a multiple of 4, XR [11] set, every other XR bit zero. -/
def okMloop (x : Xr) : Bool :=
  x.okMinor 31 && quad7 x.c && x.noGuard && !x.fc && x.bs && x.noCross && x.rnd == 0

end Xr

namespace Mm

/-- The base pair is even, and so is the offset pair (R284, R343). -/
def okBase (m : Mm) : Bool := m.base.toNat % 2 == 0 && (!m.pair || even7 m.a)

/-- MST and MLD (R293, R364): a tile, a group of four in the base field, nothing else. -/
def okTile (m : Mm) : Bool :=
  small7 m.d 7 && m.a == 0 && m.base.toNat % 4 == 0 && !m.pair && m.g == 0 && !m.fa && !m.fb

end Mm

namespace Xm

def noGuard (x : Xm) : Bool := x.g == 0 && !x.neg

/-- Scopes 5-7 are reserved (R203). -/
def okScope (x : Xm) : Bool := decide (x.scope.toNat ≤ 4)

/-- Load types 0-5, a 64-bit datum in an even pair, no release order (R292, R343). -/
def okLoad (x : Xm) (d : BitVec 7) : Bool :=
  decide (x.minor.toNat ≤ 5) && (x.minor != 1 || even7 d) && x.order != 2

/-- Store types 0, 1, 2 and 4, no acquire order (R292, R343). -/
def okStore (x : Xm) (d : BitVec 7) : Bool :=
  decide (x.minor.toNat ≤ 4) && x.minor != 3 && (x.minor != 1 || even7 d) && x.order != 1

/-- Atomic minors 0-28; a 64-bit type needs an even d (R292, R351). -/
def okAtom (x : Xm) (d : BitVec 7) : Bool :=
  decide (x.minor.toNat ≤ 28) && (x.minor.toNat % 4 < 2 || even7 d)

/-- CAS minors 0 and 1; d even, or a multiple of 4 (R292, R352). -/
def okCas (x : Xm) (d : BitVec 7) : Bool :=
  (x.minor == 0 && even7 d) || (x.minor == 1 && quad7 d)

/-- Engine form (R282, R294): minor 0 or 1, the barrier slot only with `.bar`, [10:0] zero. -/
def okEngine (x : Xm) : Bool :=
  x.okScope && x.noGuard && decide (x.minor.toNat ≤ 1) && decide (x.low.toNat % 2048 = 0) &&
    (x.minor == 1 || x.low == 0)

/-- Scope and order only (R385). -/
def okPlain (x : Xm) : Bool := x.okScope && x.noGuard && x.minor == 0 && x.low == 0

end Xm

/-- The checks a term of `Instr` must pass: for an instruction, R298's rules on its own words; a device event has no word to check. Register ranges that depend on the warp (R166) are checked at issue. -/
def wellFormed : Instr → Bool
  | .packageBoot => true
  | .softError => true
  | .moduleRetrain => true
  | .moduleRetrainEnd => true
  | .flitReceive => true
  | .flitTransmit => true
  | .thermalThrottleStep => true
  | .emergencyShutdown => true
  | .vinLoss => true
  | .portRetrain => true
  | .portRetrainEnd => true
  | .readRequest => true
  | .writeRequest => true
  | .atomicRequest => true
  | .casRequest => true
  | .mailboxRequest => true
  | .lineRead => true
  | .lineData => true
  | .lineWrite => true
  | .linePush => true
  | .readData => true
  | .writeAck => true
  | .atomicData => true
  | .casData => true
  | .retryReply => true
  | .retryResend => true
  | .errorReply => true
  | .tagTimeout => true
  | .tagQuarantineEnd => true
  | .combineUp => true
  | .combineDown => true
  | .combineSequenceAdmit => true
  | .combineSequenceAbandon => true
  | .mcastLine => true
  | .walkComplete => true
  | .missSlotFill => true
  | .regionSwitch => true
  | .regionDrainComplete => true
  | .migrationStart => true
  | .copyPassEnd => true
  | .migrationPinWaitEnd => true
  | .migrationWindowEnd => true
  | .queuePoll => true
  | .mirrorAck => true
  | .launchPacket => true
  | .signalPacket => true
  | .waitPacket => true
  | .waitConditionTrue => true
  | .waitTimeout => true
  | .fencePacket => true
  | .tablePacket => true
  | .combineConfig => true
  | .nopPacket => true
  | .queueRestart => true
  | .ttSlot => true
  | .domainTimeSync => true
  | .grandmasterLost => true
  | .standbyTakeover => true
  | .packageLoss => true
  | .heartbeatMiss => true
  | .updateTakeover => true
  | .configureDomain => true
  | .regionCommit => true
  | .migratePage => true
  | .relaySignal => true
  | .releaseFrozenMaster => true
  | .killFrozenMaster => true
  | .readEvents => true
  | .firmwareUpdate => true
  | .thawContexts => true
  | .setPowerCap => true
  | .spdmMessage => true
  | .setSecondaryHostDie => true
  | .setDetourBias => true
  | .unknownFirmwareRequest => true
  | .mgmtRead => true
  | .mgmtWrite => true
  | .mgmtRegisterWrite => true
  | .powercapWrite => true
  | .kboot => true
  | .bar1Access => true
  | .hostWatchdogExpire => true
  | .hostMachineCheck => true
  | .kernelPanicReport => true
  | .warmReboot => true
  | .brokerRange => true
  | .brokerDone => true
  | .doneTimer => true
  | .brokerSteal => true
  | .brokerGrant => true
  | .brokerNone => true
  | .brokerScan => true
  | .brokerReserve => true
  | .brokerCommit => true
  | .brokerRollback => true
  | .brokerVacate => true
  | .brokerRemap => true
  | .brokerSaved => true
  | .coreReserve => true
  | .preparationComplete => true
  | .gangCommit => true
  | .priorityPreempt => true
  | .gangSaveComplete => true
  | .serviceWordChange => true
  | .gangRestore => true
  | .fatalDieError => true
  | .ifetchFill => true
  | .registerFill => true
  | .walkerFetch => true
  | .eventTimerFire => true
  | .regroupComplete => true
  | .blockRetire => true
  | .trapTake => true
  | .porterCommandComplete => true
  | .chainRecord => true
  | .chainPoll => true
  | .matrixCommandComplete => true
  | .broadcastStreamEvent => true
  | .warmReset => true
  | .portReenable => true
  | .ppsInPulse => true
  | .nop r => r.isZero
  | .smov r => r.noMod && r.b == 0
  | .smovi r => r.a == 0
  | .smoviXi r _ => r.a == 0 && r.imm == 0
  | .sadd r => r.noMod
  | .ssub r => r.noMod
  | .smul r => r.noMod
  | .smulhi r => r.noMod
  | .sand r => r.noMod
  | .sor r => r.noMod
  | .sxor r => r.noMod
  | .sshl r => r.noMod
  | .sshr r => r.noMod
  | .ssar r => r.noMod
  | .saddi _ => true
  | .saddiXi r _ => r.imm == 0
  | .sandi _ => true
  | .sandiXi r _ => r.imm == 0
  | .smin r => r.noMod
  | .smax r => r.noMod
  | .sminn r => r.noMod
  | .smaxn r => r.noMod
  | .scmp r => r.noMod
  | .scmpXr r x => r.noMod && x.onlyMinor && decide (x.minor.toNat ≤ 9)
  | .sread r => r.noMod && r.b == 0 && readableSpecial r.a.toNat && (!wideSpecial r.a.toNat || even7 r.d)
  | .swrite r => r.noMod && r.b == 0 && writableSpecial r.d.toNat && (!wideSpecial r.d.toNat || even7 r.a)
  | .bra r => r.c == 0
  | .bz _ => true
  | .bnz _ => true
  | .bltz _ => true
  | .bgez _ => true
  | .bru r => small7 r.c 7
  | .brd r _ => small7 r.c 7
  | .brw r => small7 r.c 63 && decide ((r.c.toNat / 8) % 4 ≠ 3)
  | .call r => r.c == 0
  | .callr r => r.d == 0 && r.b == 0 && r.g == 0 && !r.fb
  | .ret r => r.isZero
  | .jmpr r => r.d == 0 && r.b == 0 && r.g == 0 && !r.fb
  | .exit r => r.d == 0 && r.a == 0 && r.b == 0 && !r.fa && !r.fb
  | .take r => r.noMod && r.a == 0 && r.b == 0
  | .vmov r => r.b == 0 && !r.fb
  | .vmovXr r x => r.b == 0 && !r.fb && r.g == 0 && x.okMinor 0 && x.okCross true && x.okC 0 && x.okB false r && x.okRound false
  | .vmovi r => r.a == 0
  | .vmoviXi r _ => r.a == 0 && r.imm == 0
  | .vmovs r => r.b == 0 && !r.fb && !r.fa
  | .vmovsXr r x => r.b == 0 && !r.fb && !r.fa && r.g == 0 && x.okMinor 0 && x.okCross false && x.okC 0 && x.okB false r && x.okRound false
  | .iadd _ => true
  | .iaddXr r x => r.g == 0 && x.okMinor 0 && x.okCross true && x.okC 0 && x.okB true r && x.okRound false
  | .isub _ => true
  | .isubXr r x => r.g == 0 && x.okMinor 0 && x.okCross true && x.okC 0 && x.okB true r && x.okRound false
  | .imul _ => true
  | .imulXr r x => r.g == 0 && x.okMinor 0 && x.okCross true && x.okC 0 && x.okB true r && x.okRound false
  | .imulhi _ => true
  | .imulhiXr r x => r.g == 0 && x.okMinor 1 && x.okCross true && x.okC 0 && x.okB true r && x.okRound false
  | .imad r x => r.g == 0 && x.okMinor 0 && x.okCross true && x.okC 1 && x.okB true r && x.okRound false
  | .imin _ => true
  | .iminXr r x => r.g == 0 && x.okMinor 1 && x.okCross true && x.okC 0 && x.okB true r && x.okRound false
  | .imax _ => true
  | .imaxXr r x => r.g == 0 && x.okMinor 1 && x.okCross true && x.okC 0 && x.okB true r && x.okRound false
  | .vand _ => true
  | .vandXr r x => r.g == 0 && x.okMinor 0 && x.okCross true && x.okC 0 && x.okB true r && x.okRound false
  | .vor _ => true
  | .vorXr r x => r.g == 0 && x.okMinor 0 && x.okCross true && x.okC 0 && x.okB true r && x.okRound false
  | .vxor _ => true
  | .vxorXr r x => r.g == 0 && x.okMinor 0 && x.okCross true && x.okC 0 && x.okB true r && x.okRound false
  | .shl _ => true
  | .shlXr r x => r.g == 0 && x.okMinor 0 && x.okCross true && x.okC 0 && x.okB true r && x.okRound false
  | .shr _ => true
  | .shrXr r x => r.g == 0 && x.okMinor 0 && x.okCross true && x.okC 0 && x.okB true r && x.okRound false
  | .sar _ => true
  | .sarXr r x => r.g == 0 && x.okMinor 0 && x.okCross true && x.okC 0 && x.okB true r && x.okRound false
  | .bfe _ => true
  | .bfeXr r x => r.g == 0 && x.okMinor 1 && x.okCross true && x.okC 0 && x.okB true r && x.okRound false
  | .bfi r x => r.g == 0 && x.okMinor 0 && x.okCross true && x.okC 1 && x.okB true r && x.okRound false
  | .popc r => r.b == 0 && !r.fb
  | .popcXr r x => r.b == 0 && !r.fb && r.g == 0 && x.okMinor 0 && x.okCross true && x.okC 0 && x.okB false r && x.okRound false
  | .clz r => r.b == 0 && !r.fb
  | .clzXr r x => r.b == 0 && !r.fb && r.g == 0 && x.okMinor 0 && x.okCross true && x.okC 0 && x.okB false r && x.okRound false
  | .brev r => r.b == 0 && !r.fb
  | .brevXr r x => r.b == 0 && !r.fb && r.g == 0 && x.okMinor 0 && x.okCross true && x.okC 0 && x.okB false r && x.okRound false
  | .addi _ => true
  | .addiXi r _ => r.imm == 0
  | .andi _ => true
  | .andiXi r _ => r.imm == 0
  | .shli r => decide (r.imm.toNat < 32)
  | .shliXi r x => r.imm == 0 && decide (x.toNat < 32)
  | .shri r => decide (r.imm.toNat < 32)
  | .shriXi r x => r.imm == 0 && decide (x.toNat < 32)
  | .fadd _ => true
  | .faddXr r x => r.g == 0 && x.okMinor 0 && x.okCross true && x.okC 0 && x.okB true r && x.okRound true
  | .fsub _ => true
  | .fsubXr r x => r.g == 0 && x.okMinor 0 && x.okCross true && x.okC 0 && x.okB true r && x.okRound true
  | .fmul _ => true
  | .fmulXr r x => r.g == 0 && x.okMinor 0 && x.okCross true && x.okC 0 && x.okB true r && x.okRound true
  | .ffma r x => r.g == 0 && x.okMinor 0 && x.okCross true && x.okC 1 && x.okB true r && x.okRound true
  | .fmin _ => true
  | .fminXr r x => r.g == 0 && x.okMinor 0 && x.okCross true && x.okC 0 && x.okB true r && x.okRound false
  | .fmax _ => true
  | .fmaxXr r x => r.g == 0 && x.okMinor 0 && x.okCross true && x.okC 0 && x.okB true r && x.okRound false
  | .frcp r => r.b == 0 && !r.fb
  | .frcpXr r x => r.b == 0 && !r.fb && r.g == 0 && x.okMinor 0 && x.okCross true && x.okC 0 && x.okB false r && x.okRound true
  | .frsq r => r.b == 0 && !r.fb
  | .frsqXr r x => r.b == 0 && !r.fb && r.g == 0 && x.okMinor 0 && x.okCross true && x.okC 0 && x.okB false r && x.okRound true
  | .fsqrt r => r.b == 0 && !r.fb
  | .fsqrtXr r x => r.b == 0 && !r.fb && r.g == 0 && x.okMinor 0 && x.okCross true && x.okC 0 && x.okB false r && x.okRound true
  | .fex2 r => r.b == 0 && !r.fb
  | .fex2Xr r x => r.b == 0 && !r.fb && r.g == 0 && x.okMinor 0 && x.okCross true && x.okC 0 && x.okB false r && x.okRound true
  | .flg2 r => r.b == 0 && !r.fb
  | .flg2Xr r x => r.b == 0 && !r.fb && r.g == 0 && x.okMinor 0 && x.okCross true && x.okC 0 && x.okB false r && x.okRound true
  | .icmp r => small7 r.d 7
  | .icmpXr r x => small7 r.d 7 && r.g == 0 && x.okMinor 9 && x.okCross true && x.okC 0 && x.okB true r && x.okRound false
  | .fcmp r => small7 r.d 7
  | .fcmpXr r x => small7 r.d 7 && r.g == 0 && x.okMinor 5 && x.okCross true && x.okC 0 && x.okB true r && x.okRound false
  | .pset r => r.b == 0 && !r.fb && small7 r.d 7
  | .psetXr r x => r.b == 0 && !r.fb && small7 r.d 7 && r.g == 0 && x.okMinor 0 && x.okCross true && x.okC 0 && x.okB false r && x.okRound false
  | .sel r x => r.g == 0 && x.okMinor 0 && x.okCross true && x.okC 2 && x.okB true r && x.okRound false
  | .cvt r x => r.g == 0 && x.okCvt r
  | .pack4 _ => true
  | .pack4Xr r x => r.g == 0 && x.okMinor 0 && x.okCross true && x.okC 0 && x.okB true r && x.okRound false
  | .unpack4 _ => true
  | .unpack4Xr r x => r.g == 0 && x.okMinor 0 && x.okCross true && x.okC 0 && x.okB true r && x.okRound false
  | .ballot r => r.b == 0 && !r.fb && !r.fa && small7 r.a 7
  | .ballotXr r x => r.b == 0 && !r.fb && !r.fa && small7 r.a 7 && r.g == 0 && x.okMinor 0 && x.okCross false && x.okC 0 && x.okB false r && x.okRound false
  | .vote r => r.b == 0 && !r.fb && !r.fa && small7 r.d 7 && small7 r.a 7
  | .voteXr r x => r.b == 0 && !r.fb && !r.fa && small7 r.d 7 && small7 r.a 7 && r.g == 0 && x.okMinor 1 && x.okCross false && x.okC 0 && x.okB false r && x.okRound false
  | .rfl r => r.b == 0 && !r.fb
  | .rflXr r x => r.b == 0 && !r.fb && r.g == 0 && x.okMinor 0 && x.okCross true && x.okC 0 && x.okB false r && x.okRound false
  | .laneid r => r.a == 0 && r.b == 0 && !r.fa && !r.fb
  | .laneidXr r x => r.a == 0 && r.b == 0 && !r.fa && !r.fb && r.g == 0 && x.okMinor 1 && x.okCross false && x.okC 0 && x.okB false r && x.okRound false
  | .ld r => r.okBase && !r.fb
  | .ldXm r x => r.okBase && r.g == 0 && x.okScope && !r.fb && x.okLoad r.d
  | .st r => r.okBase && true
  | .stXm r x => r.okBase && r.g == 0 && x.okScope && x.okStore r.d
  | .ldl r => r.okBase && !r.fb && !r.pair
  | .ldlXm r x => r.okBase && r.g == 0 && x.okScope && !r.fb && !r.pair && x.okLoad r.d
  | .stl r => r.okBase && !r.pair
  | .stlXm r x => r.okBase && r.g == 0 && x.okScope && !r.pair && x.okStore r.d
  | .atom r => r.okBase && true
  | .atomXm r x => r.okBase && r.g == 0 && x.okScope && x.okAtom r.d
  | .atoml r => r.okBase && !r.pair
  | .atomlXm r x => r.okBase && r.g == 0 && x.okScope && !r.pair && x.okAtom r.d
  | .cas r => r.okBase && even7 r.d
  | .casXm r x => r.okBase && r.g == 0 && x.okScope && x.okCas r.d
  | .pref r => r.okBase && r.d == 0 && !r.fb
  | .prefXm r x => r.okBase && r.g == 0 && x.okScope && r.d == 0 && !r.fb && x.minor == 0 && x.order == 0
  | .rld r x => r.okBase && r.g == 0 && x.okScope && !r.fb && x.okLoad r.d
  | .rst r x => r.okBase && r.g == 0 && x.okScope && x.okStore r.d
  | .ratom r x => r.okBase && r.g == 0 && x.okScope && x.okAtom r.d
  | .mcast r x => r.okBase && r.g == 0 && x.okScope && !r.pair && x.minor == 0 && x.noGuard && !x.order.getLsbD 0
  | .combine r x => r.okBase && r.g == 0 && x.okScope && !r.pair && r.a == 0 && r.base == 0 && !r.fa && decide (x.minor.toNat ≤ 6) && x.noGuard && decide (x.low.toNat % 256 = 0)
  | .mloop r x => small7 r.d 7 && quad7 r.b && r.g == 0 && !r.fb && x.okMloop
  | .mzero r => small7 r.d 7 && r.a == 0 && r.b == 0 && r.noMod
  | .mrd r => small7 r.a 7 && r.b == 0 && r.noMod
  | .mrdXr r x => small7 r.a 7 && r.b == 0 && r.noMod && x.isZero
  | .mwr r => small7 r.d 7 && r.b == 0 && r.g == 0 && !r.fb
  | .mwrXr r x => small7 r.d 7 && r.b == 0 && r.g == 0 && !r.fb && x.isZero
  | .mst r => r.okTile
  | .mstXm r x => r.okTile && x.okScope && x.noGuard && decide (x.minor.toNat ≤ 6)
  | .mld r => r.okTile
  | .mldXm r x => r.okTile && x.okScope && x.noGuard && decide (x.minor.toNat ≤ 1) && decide (x.order.toNat ≤ 1)
  | .mwait r => small7 r.d 7 && r.a == 0 && r.b == 0 && r.noMod
  | .mstat r => r.a == 0 && r.b == 0 && r.noMod
  | .tcopy r => quad7 r.d && even7 r.a && quad7 r.b && r.noMod
  | .tcopyXm r x => quad7 r.d && even7 r.a && quad7 r.b && r.noMod && x.okEngine
  | .cclose r => r.a == 0 && r.b == 0 && r.noMod
  | .cbload r => r.d == 0 && even7 r.a && r.noMod
  | .cbloadXm r x => r.d == 0 && even7 r.a && r.noMod && x.okPlain && decide (x.order.toNat ≤ 1)
  | .cbfree r => r.isZero
  | .cchain r => small7 r.d 3 && even7 r.a && r.b == 0 && r.noMod
  | .cchainXm r x => small7 r.d 3 && even7 r.a && r.b == 0 && r.noMod && x.okPlain
  | .cfill r => quad7 r.d && quad7 r.b && r.noMod
  | .cfillXm r x => quad7 r.d && quad7 r.b && r.noMod && x.okEngine
  | .cstat r => small7 r.a 3 && r.b == 0 && r.noMod
  | .bar r => small7 r.d 15 && r.b == 0 && r.noMod
  | .barXm r x => small7 r.d 15 && r.b == 0 && r.noMod && x.okPlain
  | .bara r => small7 r.d 15 && r.noMod
  | .baraXm r x => small7 r.d 15 && r.noMod && x.okPlain && decide (x.order.toNat ≠ 1)
  | .barw r => small7 r.d 15 && r.b == 0 && r.noMod
  | .barwXm r x => small7 r.d 15 && r.b == 0 && r.noMod && x.okPlain
  | .barinit r => small7 r.d 15 && r.b == 0 && r.noMod
  | .fence r => r.isZero
  | .fenceXm r x => r.isZero && x.okPlain
  | .waitb r => r.d == 0 && r.b == 0 && r.noMod
  | .waitc r => r.d == 0 && even7 r.a && even7 r.b && r.noMod
  | .waitcXm r x => r.d == 0 && even7 r.a && even7 r.b && r.noMod && x.okPlain && decide (x.order.toNat ≠ 2)
  | .evbind r _ => small7 r.d 7 && r.noMod && r.okBind
  | .evmask r => r.d == 0 && r.a == 0 && decide (r.imm.toNat ≤ 255)
  | .evclr r => r.d == 0 && r.a == 0 && decide (r.imm.toNat ≤ 255)
  | .waitany r => r.isZero
  | .mbxsend r => r.d == 0 && r.g == 0 && !r.fb
  | .mbxrecv r => r.a == 0 && small7 r.b 15 && r.noMod
  | .regroup r => r.d == 0 && small7 r.a 7 && r.noMod
  | .ungroup r => r.d == 0 && r.a == 0 && r.noMod
  | .yield r => r.isZero
  | .trap r => r.d == 0 && r.a == 0 && decide (r.imm.toNat ≤ 1023)
  | .trapXi r x => r.d == 0 && r.a == 0 && r.imm == 0 && decide (x.toNat < 65536)
  | .rtt r => r.isZero
  | .launch r => r.d == 0 && even7 r.a && r.b == 0 && r.noMod
  | .csrr r => r.a == 0 && decide (r.imm.toNat ≤ 1023)
  | .csrw r => r.d == 0 && decide (r.imm.toNat ≤ 1023)
  | .tlbinv r => r.d == 0 && even7 r.a && r.b == 0 && r.noMod
  | .tlbinvXm r x => r.d == 0 && even7 r.a && r.b == 0 && r.noMod && x.okPlain && x.order == 0
  | .bkpt r => r.isZero

end Sys2Proof
end

