-- ==== Sys2Proof/Decode.lean ====
section
/-! DEFINITION. Decoding: a clause header, an instruction of a clause (total, refusing by name), a run of bytes; and the
encoder written from the same tables of the spec (R276-R296). -/

namespace Sys2Proof

/-- Class codes 0-6; 7 is reserved (R276). -/
def clsOfCode (n : Nat) : Option Cls :=
  match n with
  | 0 => some .ctrl
  | 1 => some .vec
  | 2 => some .mem
  | 3 => some .mtx
  | 4 => some .cpy
  | 5 => some .sync
  | 6 => some .sys
  | _ => none

def Cls.code : Cls → Nat
  | .ctrl => 0
  | .vec => 1
  | .mem => 2
  | .mtx => 3
  | .cpy => 4
  | .sync => 5
  | .sys => 6

/-- A clause header word, with every check of R277 that the header alone decides. -/
def decodeHeader (w : Word) : Option Header :=
  match clsOfCode ((w.toNat / 16) % 8) with
  | none => none
  | some c =>
    let n := w.toNat % 16
    if n = 0 || (w.toNat / 256) % 512 != 0 || (w.toNat / 2 ^ 17) / 2 ^ n != 0 then none
    else some { n := n, cls := c, yield := w.getLsbD 7, hold := w.extractLsb' 17 15 }

def encodeHeader (h : Header) : Word :=
  h.hold ++ (0 : BitVec 9) ++ BitVec.ofBool h.yield ++ BitVec.ofNat 3 h.cls.code ++ BitVec.ofNat 4 h.n

/-- L, bit 31 of a first word (R279). -/
def longBit (w : Word) : Bool := w.getLsbD 31

/-- The major opcode [30:25] (R279). -/
def majorOf (w : Word) : Nat := (w.toNat / 2 ^ 25) % 64

def parseReg (w : Word) : Reg :=
  { d := w.extractLsb' 18 7, a := w.extractLsb' 11 7, b := w.extractLsb' 4 7, g := w.extractLsb' 2 2
    fa := w.getLsbD 1, fb := w.getLsbD 0 }

def parseRi (w : Word) : Ri :=
  { d := w.extractLsb' 18 7, a := w.extractLsb' 11 7, imm := w.extractLsb' 0 11 }

def parseBr (w : Word) : Br := { c := w.extractLsb' 18 7, off := w.extractLsb' 0 18 }

def parseMm (w : Word) : Mm :=
  { d := w.extractLsb' 18 7, a := w.extractLsb' 11 7, base := w.extractLsb' 5 6, pair := w.getLsbD 4
    g := w.extractLsb' 2 2, fa := w.getLsbD 1, fb := w.getLsbD 0 }

def parseXr (w : Word) : Xr :=
  { minor := w.extractLsb' 24 8, c := w.extractLsb' 17 7, g := w.extractLsb' 14 3, neg := w.getLsbD 13
    fc := w.getLsbD 12, bs := w.getLsbD 11, mode := w.extractLsb' 8 3, amt := w.extractLsb' 3 5
    clamp := w.getLsbD 2, rnd := w.extractLsb' 0 2 }

def parseXm (w : Word) : Xm :=
  { minor := w.extractLsb' 24 8, scope := w.extractLsb' 21 3, order := w.extractLsb' 19 2
    g := w.extractLsb' 16 3, neg := w.getLsbD 15, low := w.extractLsb' 0 15 }

/-- The low 25 bits of a first word, from its fields. -/
def packReg (r : Reg) : BitVec 25 :=
  r.d ++ r.a ++ r.b ++ r.g ++ BitVec.ofBool r.fa ++ BitVec.ofBool r.fb

def packRi (r : Ri) : BitVec 25 := r.d ++ r.a ++ r.imm

def packBr (r : Br) : BitVec 25 := r.c ++ r.off

def packMm (r : Mm) : BitVec 25 :=
  r.d ++ r.a ++ r.base ++ BitVec.ofBool r.pair ++ r.g ++ BitVec.ofBool r.fa ++ BitVec.ofBool r.fb

def packXr (x : Xr) : Word :=
  x.minor ++ x.c ++ x.g ++ BitVec.ofBool x.neg ++ BitVec.ofBool x.fc ++ BitVec.ofBool x.bs ++ x.mode ++ x.amt ++
    BitVec.ofBool x.clamp ++ x.rnd

def packXm (x : Xm) : Word :=
  x.minor ++ x.scope ++ x.order ++ x.g ++ BitVec.ofBool x.neg ++ x.low

/-- A first word: L, the major, the format's 25 bits (R279). -/
def first (l major : Nat) (low : BitVec 25) : Word := BitVec.ofNat 1 l ++ BitVec.ofNat 6 major ++ low

/-- The short form of a class's major (R289-R296), fields read and not yet checked. -/
def shortOf (c : Cls) (major : Nat) (w : Word) : Option Instr :=
  match c, major with
  | .ctrl, 0 => some (.nop (parseReg w))
  | .ctrl, 1 => some (.smov (parseReg w))
  | .ctrl, 2 => some (.smovi (parseRi w))
  | .ctrl, 3 => some (.sadd (parseReg w))
  | .ctrl, 4 => some (.ssub (parseReg w))
  | .ctrl, 5 => some (.smul (parseReg w))
  | .ctrl, 6 => some (.smulhi (parseReg w))
  | .ctrl, 7 => some (.sand (parseReg w))
  | .ctrl, 8 => some (.sor (parseReg w))
  | .ctrl, 9 => some (.sxor (parseReg w))
  | .ctrl, 10 => some (.sshl (parseReg w))
  | .ctrl, 11 => some (.sshr (parseReg w))
  | .ctrl, 12 => some (.ssar (parseReg w))
  | .ctrl, 13 => some (.saddi (parseRi w))
  | .ctrl, 14 => some (.sandi (parseRi w))
  | .ctrl, 15 => some (.smin (parseReg w))
  | .ctrl, 16 => some (.smax (parseReg w))
  | .ctrl, 17 => some (.sminn (parseReg w))
  | .ctrl, 18 => some (.smaxn (parseReg w))
  | .ctrl, 19 => some (.scmp (parseReg w))
  | .ctrl, 20 => some (.sread (parseReg w))
  | .ctrl, 21 => some (.swrite (parseReg w))
  | .ctrl, 22 => some (.bra (parseBr w))
  | .ctrl, 23 => some (.bz (parseBr w))
  | .ctrl, 24 => some (.bnz (parseBr w))
  | .ctrl, 25 => some (.bltz (parseBr w))
  | .ctrl, 26 => some (.bgez (parseBr w))
  | .ctrl, 27 => some (.bru (parseBr w))
  | .ctrl, 29 => some (.brw (parseBr w))
  | .ctrl, 30 => some (.call (parseBr w))
  | .ctrl, 31 => some (.callr (parseReg w))
  | .ctrl, 32 => some (.ret (parseReg w))
  | .ctrl, 33 => some (.jmpr (parseReg w))
  | .ctrl, 34 => some (.exit (parseReg w))
  | .ctrl, 35 => some (.take (parseReg w))
  | .vec, 0 => some (.vmov (parseReg w))
  | .vec, 1 => some (.vmovi (parseRi w))
  | .vec, 2 => some (.vmovs (parseReg w))
  | .vec, 3 => some (.iadd (parseReg w))
  | .vec, 4 => some (.isub (parseReg w))
  | .vec, 5 => some (.imul (parseReg w))
  | .vec, 6 => some (.imulhi (parseReg w))
  | .vec, 8 => some (.imin (parseReg w))
  | .vec, 9 => some (.imax (parseReg w))
  | .vec, 10 => some (.vand (parseReg w))
  | .vec, 11 => some (.vor (parseReg w))
  | .vec, 12 => some (.vxor (parseReg w))
  | .vec, 13 => some (.shl (parseReg w))
  | .vec, 14 => some (.shr (parseReg w))
  | .vec, 15 => some (.sar (parseReg w))
  | .vec, 16 => some (.bfe (parseReg w))
  | .vec, 18 => some (.popc (parseReg w))
  | .vec, 19 => some (.clz (parseReg w))
  | .vec, 20 => some (.brev (parseReg w))
  | .vec, 21 => some (.addi (parseRi w))
  | .vec, 22 => some (.andi (parseRi w))
  | .vec, 23 => some (.shli (parseRi w))
  | .vec, 24 => some (.shri (parseRi w))
  | .vec, 25 => some (.fadd (parseReg w))
  | .vec, 26 => some (.fsub (parseReg w))
  | .vec, 27 => some (.fmul (parseReg w))
  | .vec, 29 => some (.fmin (parseReg w))
  | .vec, 30 => some (.fmax (parseReg w))
  | .vec, 31 => some (.frcp (parseReg w))
  | .vec, 32 => some (.frsq (parseReg w))
  | .vec, 33 => some (.fsqrt (parseReg w))
  | .vec, 34 => some (.fex2 (parseReg w))
  | .vec, 35 => some (.flg2 (parseReg w))
  | .vec, 36 => some (.icmp (parseReg w))
  | .vec, 37 => some (.fcmp (parseReg w))
  | .vec, 38 => some (.pset (parseReg w))
  | .vec, 41 => some (.pack4 (parseReg w))
  | .vec, 42 => some (.unpack4 (parseReg w))
  | .vec, 43 => some (.ballot (parseReg w))
  | .vec, 44 => some (.vote (parseReg w))
  | .vec, 45 => some (.rfl (parseReg w))
  | .vec, 46 => some (.laneid (parseReg w))
  | .mem, 0 => some (.ld (parseMm w))
  | .mem, 1 => some (.st (parseMm w))
  | .mem, 2 => some (.ldl (parseMm w))
  | .mem, 3 => some (.stl (parseMm w))
  | .mem, 4 => some (.atom (parseMm w))
  | .mem, 5 => some (.atoml (parseMm w))
  | .mem, 6 => some (.cas (parseMm w))
  | .mem, 7 => some (.pref (parseMm w))
  | .mtx, 1 => some (.mzero (parseReg w))
  | .mtx, 2 => some (.mrd (parseReg w))
  | .mtx, 3 => some (.mwr (parseReg w))
  | .mtx, 4 => some (.mst (parseMm w))
  | .mtx, 5 => some (.mld (parseMm w))
  | .mtx, 6 => some (.mwait (parseReg w))
  | .mtx, 7 => some (.mstat (parseReg w))
  | .cpy, 0 => some (.tcopy (parseReg w))
  | .cpy, 1 => some (.cclose (parseReg w))
  | .cpy, 2 => some (.cbload (parseReg w))
  | .cpy, 3 => some (.cbfree (parseReg w))
  | .cpy, 4 => some (.cchain (parseReg w))
  | .cpy, 5 => some (.cfill (parseReg w))
  | .cpy, 6 => some (.cstat (parseReg w))
  | .sync, 0 => some (.bar (parseReg w))
  | .sync, 1 => some (.bara (parseReg w))
  | .sync, 2 => some (.barw (parseReg w))
  | .sync, 3 => some (.barinit (parseReg w))
  | .sync, 4 => some (.fence (parseReg w))
  | .sync, 5 => some (.waitb (parseReg w))
  | .sync, 6 => some (.waitc (parseReg w))
  | .sync, 8 => some (.evmask (parseRi w))
  | .sync, 9 => some (.evclr (parseRi w))
  | .sync, 10 => some (.waitany (parseReg w))
  | .sync, 11 => some (.mbxsend (parseReg w))
  | .sync, 12 => some (.mbxrecv (parseReg w))
  | .sync, 13 => some (.regroup (parseReg w))
  | .sync, 14 => some (.ungroup (parseReg w))
  | .sync, 15 => some (.yield (parseReg w))
  | .sys, 0 => some (.trap (parseRi w))
  | .sys, 1 => some (.rtt (parseReg w))
  | .sys, 2 => some (.launch (parseReg w))
  | .sys, 3 => some (.csrr (parseRi w))
  | .sys, 4 => some (.csrw (parseRi w))
  | .sys, 5 => some (.tlbinv (parseReg w))
  | .sys, 6 => some (.bkpt (parseReg w))
  | _, _ => none

/-- The long form of a class's major, with its extension word (R281-R283). -/
def longOf (c : Cls) (major : Nat) (w x : Word) : Option Instr :=
  match c, major with
  | .ctrl, 2 => some (.smoviXi (parseRi w) x)
  | .ctrl, 13 => some (.saddiXi (parseRi w) x)
  | .ctrl, 14 => some (.sandiXi (parseRi w) x)
  | .ctrl, 19 => some (.scmpXr (parseReg w) (parseXr x))
  | .ctrl, 28 => some (.brd (parseBr w) x)
  | .vec, 0 => some (.vmovXr (parseReg w) (parseXr x))
  | .vec, 1 => some (.vmoviXi (parseRi w) x)
  | .vec, 2 => some (.vmovsXr (parseReg w) (parseXr x))
  | .vec, 3 => some (.iaddXr (parseReg w) (parseXr x))
  | .vec, 4 => some (.isubXr (parseReg w) (parseXr x))
  | .vec, 5 => some (.imulXr (parseReg w) (parseXr x))
  | .vec, 6 => some (.imulhiXr (parseReg w) (parseXr x))
  | .vec, 7 => some (.imad (parseReg w) (parseXr x))
  | .vec, 8 => some (.iminXr (parseReg w) (parseXr x))
  | .vec, 9 => some (.imaxXr (parseReg w) (parseXr x))
  | .vec, 10 => some (.vandXr (parseReg w) (parseXr x))
  | .vec, 11 => some (.vorXr (parseReg w) (parseXr x))
  | .vec, 12 => some (.vxorXr (parseReg w) (parseXr x))
  | .vec, 13 => some (.shlXr (parseReg w) (parseXr x))
  | .vec, 14 => some (.shrXr (parseReg w) (parseXr x))
  | .vec, 15 => some (.sarXr (parseReg w) (parseXr x))
  | .vec, 16 => some (.bfeXr (parseReg w) (parseXr x))
  | .vec, 17 => some (.bfi (parseReg w) (parseXr x))
  | .vec, 18 => some (.popcXr (parseReg w) (parseXr x))
  | .vec, 19 => some (.clzXr (parseReg w) (parseXr x))
  | .vec, 20 => some (.brevXr (parseReg w) (parseXr x))
  | .vec, 21 => some (.addiXi (parseRi w) x)
  | .vec, 22 => some (.andiXi (parseRi w) x)
  | .vec, 23 => some (.shliXi (parseRi w) x)
  | .vec, 24 => some (.shriXi (parseRi w) x)
  | .vec, 25 => some (.faddXr (parseReg w) (parseXr x))
  | .vec, 26 => some (.fsubXr (parseReg w) (parseXr x))
  | .vec, 27 => some (.fmulXr (parseReg w) (parseXr x))
  | .vec, 28 => some (.ffma (parseReg w) (parseXr x))
  | .vec, 29 => some (.fminXr (parseReg w) (parseXr x))
  | .vec, 30 => some (.fmaxXr (parseReg w) (parseXr x))
  | .vec, 31 => some (.frcpXr (parseReg w) (parseXr x))
  | .vec, 32 => some (.frsqXr (parseReg w) (parseXr x))
  | .vec, 33 => some (.fsqrtXr (parseReg w) (parseXr x))
  | .vec, 34 => some (.fex2Xr (parseReg w) (parseXr x))
  | .vec, 35 => some (.flg2Xr (parseReg w) (parseXr x))
  | .vec, 36 => some (.icmpXr (parseReg w) (parseXr x))
  | .vec, 37 => some (.fcmpXr (parseReg w) (parseXr x))
  | .vec, 38 => some (.psetXr (parseReg w) (parseXr x))
  | .vec, 39 => some (.sel (parseReg w) (parseXr x))
  | .vec, 40 => some (.cvt (parseReg w) (parseXr x))
  | .vec, 41 => some (.pack4Xr (parseReg w) (parseXr x))
  | .vec, 42 => some (.unpack4Xr (parseReg w) (parseXr x))
  | .vec, 43 => some (.ballotXr (parseReg w) (parseXr x))
  | .vec, 44 => some (.voteXr (parseReg w) (parseXr x))
  | .vec, 45 => some (.rflXr (parseReg w) (parseXr x))
  | .vec, 46 => some (.laneidXr (parseReg w) (parseXr x))
  | .mem, 0 => some (.ldXm (parseMm w) (parseXm x))
  | .mem, 1 => some (.stXm (parseMm w) (parseXm x))
  | .mem, 2 => some (.ldlXm (parseMm w) (parseXm x))
  | .mem, 3 => some (.stlXm (parseMm w) (parseXm x))
  | .mem, 4 => some (.atomXm (parseMm w) (parseXm x))
  | .mem, 5 => some (.atomlXm (parseMm w) (parseXm x))
  | .mem, 6 => some (.casXm (parseMm w) (parseXm x))
  | .mem, 7 => some (.prefXm (parseMm w) (parseXm x))
  | .mem, 8 => some (.rld (parseMm w) (parseXm x))
  | .mem, 9 => some (.rst (parseMm w) (parseXm x))
  | .mem, 10 => some (.ratom (parseMm w) (parseXm x))
  | .mem, 11 => some (.mcast (parseMm w) (parseXm x))
  | .mem, 12 => some (.combine (parseMm w) (parseXm x))
  | .mtx, 0 => some (.mloop (parseReg w) (parseXr x))
  | .mtx, 2 => some (.mrdXr (parseReg w) (parseXr x))
  | .mtx, 3 => some (.mwrXr (parseReg w) (parseXr x))
  | .mtx, 4 => some (.mstXm (parseMm w) (parseXm x))
  | .mtx, 5 => some (.mldXm (parseMm w) (parseXm x))
  | .cpy, 0 => some (.tcopyXm (parseReg w) (parseXm x))
  | .cpy, 2 => some (.cbloadXm (parseReg w) (parseXm x))
  | .cpy, 4 => some (.cchainXm (parseReg w) (parseXm x))
  | .cpy, 5 => some (.cfillXm (parseReg w) (parseXm x))
  | .sync, 0 => some (.barXm (parseReg w) (parseXm x))
  | .sync, 1 => some (.baraXm (parseReg w) (parseXm x))
  | .sync, 2 => some (.barwXm (parseReg w) (parseXm x))
  | .sync, 4 => some (.fenceXm (parseReg w) (parseXm x))
  | .sync, 6 => some (.waitcXm (parseReg w) (parseXm x))
  | .sync, 7 => some (.evbind (parseReg w) x)
  | .sys, 0 => some (.trapXi (parseRi w) x)
  | .sys, 5 => some (.tlbinvXm (parseReg w) (parseXm x))
  | _, _ => none

/-- Decode one instruction of a clause of class c: its first word, and the word after it where there is one (R298). -/
def decode (c : Cls) (w : Word) (ext : Option Word) : Except DecodeError Instr :=
  let m := majorOf w
  let cand : Except DecodeError Instr :=
    if longBit w then
      match ext with
      | none => .error .missingWord
      | some x =>
        match longOf c m w x with
        | some i => .ok i
        | none => .error (if (shortOf c m w).isSome then .badForm else .noMajor)
    else
      match shortOf c m w with
      | some i => .ok i
      | none => .error (if (longOf c m w 0).isSome then .badForm else .noMajor)
  match cand with
  | .ok i => if wellFormed i then .ok i else .error .badField
  | .error e => .error e

/-- A little-endian word from the front of a run of bytes (R3). -/
def takeWord : List Byte → Option (Word × List Byte)
  | b0 :: b1 :: b2 :: b3 :: rest => some (b3 ++ b2 ++ b1 ++ b0, rest)
  | _ => none

/-- Decode an instruction of class c from the front of any run of bytes, with the bytes that follow it. -/
def decodeBytes (c : Cls) (bs : List Byte) : Except DecodeError (Instr × List Byte) :=
  match takeWord bs with
  | none => .error .missingWord
  | some (w, rest) =>
    if longBit w then
      match takeWord rest with
      | none => .error .missingWord
      | some (x, rest') => (decode c w (some x)).map (·, rest')
    else (decode c w none).map (·, rest)

/-- The bytes of a word as memory holds them, lowest address first (R3). -/
def wordBytes (w : Word) : List Byte :=
  [w.extractLsb' 0 8, w.extractLsb' 8 8, w.extractLsb' 16 8, w.extractLsb' 24 8]

/-- The control transfers of R278, which end their clause. -/
def isTransfer : Instr → Bool
  | .bra _ => true
  | .bz _ => true
  | .bnz _ => true
  | .bltz _ => true
  | .bgez _ => true
  | .bru _ => true
  | .brd _ _ => true
  | .brw _ => true
  | .call _ => true
  | .callr _ => true
  | .ret _ => true
  | .jmpr _ => true
  | .exit _ => true
  | .waitany _ => true
  | .regroup _ => true
  | .ungroup _ => true
  | .rtt _ => true
  | _ => false

/-- The class and the words of an instruction (R276-R296); the device events have none. -/
def encode : Instr → Option (Cls × List Word)
  | .nop r => some (.ctrl, [first 0 0 (packReg r)])
  | .smov r => some (.ctrl, [first 0 1 (packReg r)])
  | .smovi r => some (.ctrl, [first 0 2 (packRi r)])
  | .smoviXi r x => some (.ctrl, [first 1 2 (packRi r), x])
  | .sadd r => some (.ctrl, [first 0 3 (packReg r)])
  | .ssub r => some (.ctrl, [first 0 4 (packReg r)])
  | .smul r => some (.ctrl, [first 0 5 (packReg r)])
  | .smulhi r => some (.ctrl, [first 0 6 (packReg r)])
  | .sand r => some (.ctrl, [first 0 7 (packReg r)])
  | .sor r => some (.ctrl, [first 0 8 (packReg r)])
  | .sxor r => some (.ctrl, [first 0 9 (packReg r)])
  | .sshl r => some (.ctrl, [first 0 10 (packReg r)])
  | .sshr r => some (.ctrl, [first 0 11 (packReg r)])
  | .ssar r => some (.ctrl, [first 0 12 (packReg r)])
  | .saddi r => some (.ctrl, [first 0 13 (packRi r)])
  | .saddiXi r x => some (.ctrl, [first 1 13 (packRi r), x])
  | .sandi r => some (.ctrl, [first 0 14 (packRi r)])
  | .sandiXi r x => some (.ctrl, [first 1 14 (packRi r), x])
  | .smin r => some (.ctrl, [first 0 15 (packReg r)])
  | .smax r => some (.ctrl, [first 0 16 (packReg r)])
  | .sminn r => some (.ctrl, [first 0 17 (packReg r)])
  | .smaxn r => some (.ctrl, [first 0 18 (packReg r)])
  | .scmp r => some (.ctrl, [first 0 19 (packReg r)])
  | .scmpXr r x => some (.ctrl, [first 1 19 (packReg r), packXr x])
  | .sread r => some (.ctrl, [first 0 20 (packReg r)])
  | .swrite r => some (.ctrl, [first 0 21 (packReg r)])
  | .bra r => some (.ctrl, [first 0 22 (packBr r)])
  | .bz r => some (.ctrl, [first 0 23 (packBr r)])
  | .bnz r => some (.ctrl, [first 0 24 (packBr r)])
  | .bltz r => some (.ctrl, [first 0 25 (packBr r)])
  | .bgez r => some (.ctrl, [first 0 26 (packBr r)])
  | .bru r => some (.ctrl, [first 0 27 (packBr r)])
  | .brd r x => some (.ctrl, [first 1 28 (packBr r), x])
  | .brw r => some (.ctrl, [first 0 29 (packBr r)])
  | .call r => some (.ctrl, [first 0 30 (packBr r)])
  | .callr r => some (.ctrl, [first 0 31 (packReg r)])
  | .ret r => some (.ctrl, [first 0 32 (packReg r)])
  | .jmpr r => some (.ctrl, [first 0 33 (packReg r)])
  | .exit r => some (.ctrl, [first 0 34 (packReg r)])
  | .take r => some (.ctrl, [first 0 35 (packReg r)])
  | .vmov r => some (.vec, [first 0 0 (packReg r)])
  | .vmovXr r x => some (.vec, [first 1 0 (packReg r), packXr x])
  | .vmovi r => some (.vec, [first 0 1 (packRi r)])
  | .vmoviXi r x => some (.vec, [first 1 1 (packRi r), x])
  | .vmovs r => some (.vec, [first 0 2 (packReg r)])
  | .vmovsXr r x => some (.vec, [first 1 2 (packReg r), packXr x])
  | .iadd r => some (.vec, [first 0 3 (packReg r)])
  | .iaddXr r x => some (.vec, [first 1 3 (packReg r), packXr x])
  | .isub r => some (.vec, [first 0 4 (packReg r)])
  | .isubXr r x => some (.vec, [first 1 4 (packReg r), packXr x])
  | .imul r => some (.vec, [first 0 5 (packReg r)])
  | .imulXr r x => some (.vec, [first 1 5 (packReg r), packXr x])
  | .imulhi r => some (.vec, [first 0 6 (packReg r)])
  | .imulhiXr r x => some (.vec, [first 1 6 (packReg r), packXr x])
  | .imad r x => some (.vec, [first 1 7 (packReg r), packXr x])
  | .imin r => some (.vec, [first 0 8 (packReg r)])
  | .iminXr r x => some (.vec, [first 1 8 (packReg r), packXr x])
  | .imax r => some (.vec, [first 0 9 (packReg r)])
  | .imaxXr r x => some (.vec, [first 1 9 (packReg r), packXr x])
  | .vand r => some (.vec, [first 0 10 (packReg r)])
  | .vandXr r x => some (.vec, [first 1 10 (packReg r), packXr x])
  | .vor r => some (.vec, [first 0 11 (packReg r)])
  | .vorXr r x => some (.vec, [first 1 11 (packReg r), packXr x])
  | .vxor r => some (.vec, [first 0 12 (packReg r)])
  | .vxorXr r x => some (.vec, [first 1 12 (packReg r), packXr x])
  | .shl r => some (.vec, [first 0 13 (packReg r)])
  | .shlXr r x => some (.vec, [first 1 13 (packReg r), packXr x])
  | .shr r => some (.vec, [first 0 14 (packReg r)])
  | .shrXr r x => some (.vec, [first 1 14 (packReg r), packXr x])
  | .sar r => some (.vec, [first 0 15 (packReg r)])
  | .sarXr r x => some (.vec, [first 1 15 (packReg r), packXr x])
  | .bfe r => some (.vec, [first 0 16 (packReg r)])
  | .bfeXr r x => some (.vec, [first 1 16 (packReg r), packXr x])
  | .bfi r x => some (.vec, [first 1 17 (packReg r), packXr x])
  | .popc r => some (.vec, [first 0 18 (packReg r)])
  | .popcXr r x => some (.vec, [first 1 18 (packReg r), packXr x])
  | .clz r => some (.vec, [first 0 19 (packReg r)])
  | .clzXr r x => some (.vec, [first 1 19 (packReg r), packXr x])
  | .brev r => some (.vec, [first 0 20 (packReg r)])
  | .brevXr r x => some (.vec, [first 1 20 (packReg r), packXr x])
  | .addi r => some (.vec, [first 0 21 (packRi r)])
  | .addiXi r x => some (.vec, [first 1 21 (packRi r), x])
  | .andi r => some (.vec, [first 0 22 (packRi r)])
  | .andiXi r x => some (.vec, [first 1 22 (packRi r), x])
  | .shli r => some (.vec, [first 0 23 (packRi r)])
  | .shliXi r x => some (.vec, [first 1 23 (packRi r), x])
  | .shri r => some (.vec, [first 0 24 (packRi r)])
  | .shriXi r x => some (.vec, [first 1 24 (packRi r), x])
  | .fadd r => some (.vec, [first 0 25 (packReg r)])
  | .faddXr r x => some (.vec, [first 1 25 (packReg r), packXr x])
  | .fsub r => some (.vec, [first 0 26 (packReg r)])
  | .fsubXr r x => some (.vec, [first 1 26 (packReg r), packXr x])
  | .fmul r => some (.vec, [first 0 27 (packReg r)])
  | .fmulXr r x => some (.vec, [first 1 27 (packReg r), packXr x])
  | .ffma r x => some (.vec, [first 1 28 (packReg r), packXr x])
  | .fmin r => some (.vec, [first 0 29 (packReg r)])
  | .fminXr r x => some (.vec, [first 1 29 (packReg r), packXr x])
  | .fmax r => some (.vec, [first 0 30 (packReg r)])
  | .fmaxXr r x => some (.vec, [first 1 30 (packReg r), packXr x])
  | .frcp r => some (.vec, [first 0 31 (packReg r)])
  | .frcpXr r x => some (.vec, [first 1 31 (packReg r), packXr x])
  | .frsq r => some (.vec, [first 0 32 (packReg r)])
  | .frsqXr r x => some (.vec, [first 1 32 (packReg r), packXr x])
  | .fsqrt r => some (.vec, [first 0 33 (packReg r)])
  | .fsqrtXr r x => some (.vec, [first 1 33 (packReg r), packXr x])
  | .fex2 r => some (.vec, [first 0 34 (packReg r)])
  | .fex2Xr r x => some (.vec, [first 1 34 (packReg r), packXr x])
  | .flg2 r => some (.vec, [first 0 35 (packReg r)])
  | .flg2Xr r x => some (.vec, [first 1 35 (packReg r), packXr x])
  | .icmp r => some (.vec, [first 0 36 (packReg r)])
  | .icmpXr r x => some (.vec, [first 1 36 (packReg r), packXr x])
  | .fcmp r => some (.vec, [first 0 37 (packReg r)])
  | .fcmpXr r x => some (.vec, [first 1 37 (packReg r), packXr x])
  | .pset r => some (.vec, [first 0 38 (packReg r)])
  | .psetXr r x => some (.vec, [first 1 38 (packReg r), packXr x])
  | .sel r x => some (.vec, [first 1 39 (packReg r), packXr x])
  | .cvt r x => some (.vec, [first 1 40 (packReg r), packXr x])
  | .pack4 r => some (.vec, [first 0 41 (packReg r)])
  | .pack4Xr r x => some (.vec, [first 1 41 (packReg r), packXr x])
  | .unpack4 r => some (.vec, [first 0 42 (packReg r)])
  | .unpack4Xr r x => some (.vec, [first 1 42 (packReg r), packXr x])
  | .ballot r => some (.vec, [first 0 43 (packReg r)])
  | .ballotXr r x => some (.vec, [first 1 43 (packReg r), packXr x])
  | .vote r => some (.vec, [first 0 44 (packReg r)])
  | .voteXr r x => some (.vec, [first 1 44 (packReg r), packXr x])
  | .rfl r => some (.vec, [first 0 45 (packReg r)])
  | .rflXr r x => some (.vec, [first 1 45 (packReg r), packXr x])
  | .laneid r => some (.vec, [first 0 46 (packReg r)])
  | .laneidXr r x => some (.vec, [first 1 46 (packReg r), packXr x])
  | .ld r => some (.mem, [first 0 0 (packMm r)])
  | .ldXm r x => some (.mem, [first 1 0 (packMm r), packXm x])
  | .st r => some (.mem, [first 0 1 (packMm r)])
  | .stXm r x => some (.mem, [first 1 1 (packMm r), packXm x])
  | .ldl r => some (.mem, [first 0 2 (packMm r)])
  | .ldlXm r x => some (.mem, [first 1 2 (packMm r), packXm x])
  | .stl r => some (.mem, [first 0 3 (packMm r)])
  | .stlXm r x => some (.mem, [first 1 3 (packMm r), packXm x])
  | .atom r => some (.mem, [first 0 4 (packMm r)])
  | .atomXm r x => some (.mem, [first 1 4 (packMm r), packXm x])
  | .atoml r => some (.mem, [first 0 5 (packMm r)])
  | .atomlXm r x => some (.mem, [first 1 5 (packMm r), packXm x])
  | .cas r => some (.mem, [first 0 6 (packMm r)])
  | .casXm r x => some (.mem, [first 1 6 (packMm r), packXm x])
  | .pref r => some (.mem, [first 0 7 (packMm r)])
  | .prefXm r x => some (.mem, [first 1 7 (packMm r), packXm x])
  | .rld r x => some (.mem, [first 1 8 (packMm r), packXm x])
  | .rst r x => some (.mem, [first 1 9 (packMm r), packXm x])
  | .ratom r x => some (.mem, [first 1 10 (packMm r), packXm x])
  | .mcast r x => some (.mem, [first 1 11 (packMm r), packXm x])
  | .combine r x => some (.mem, [first 1 12 (packMm r), packXm x])
  | .mloop r x => some (.mtx, [first 1 0 (packReg r), packXr x])
  | .mzero r => some (.mtx, [first 0 1 (packReg r)])
  | .mrd r => some (.mtx, [first 0 2 (packReg r)])
  | .mrdXr r x => some (.mtx, [first 1 2 (packReg r), packXr x])
  | .mwr r => some (.mtx, [first 0 3 (packReg r)])
  | .mwrXr r x => some (.mtx, [first 1 3 (packReg r), packXr x])
  | .mst r => some (.mtx, [first 0 4 (packMm r)])
  | .mstXm r x => some (.mtx, [first 1 4 (packMm r), packXm x])
  | .mld r => some (.mtx, [first 0 5 (packMm r)])
  | .mldXm r x => some (.mtx, [first 1 5 (packMm r), packXm x])
  | .mwait r => some (.mtx, [first 0 6 (packReg r)])
  | .mstat r => some (.mtx, [first 0 7 (packReg r)])
  | .tcopy r => some (.cpy, [first 0 0 (packReg r)])
  | .tcopyXm r x => some (.cpy, [first 1 0 (packReg r), packXm x])
  | .cclose r => some (.cpy, [first 0 1 (packReg r)])
  | .cbload r => some (.cpy, [first 0 2 (packReg r)])
  | .cbloadXm r x => some (.cpy, [first 1 2 (packReg r), packXm x])
  | .cbfree r => some (.cpy, [first 0 3 (packReg r)])
  | .cchain r => some (.cpy, [first 0 4 (packReg r)])
  | .cchainXm r x => some (.cpy, [first 1 4 (packReg r), packXm x])
  | .cfill r => some (.cpy, [first 0 5 (packReg r)])
  | .cfillXm r x => some (.cpy, [first 1 5 (packReg r), packXm x])
  | .cstat r => some (.cpy, [first 0 6 (packReg r)])
  | .bar r => some (.sync, [first 0 0 (packReg r)])
  | .barXm r x => some (.sync, [first 1 0 (packReg r), packXm x])
  | .bara r => some (.sync, [first 0 1 (packReg r)])
  | .baraXm r x => some (.sync, [first 1 1 (packReg r), packXm x])
  | .barw r => some (.sync, [first 0 2 (packReg r)])
  | .barwXm r x => some (.sync, [first 1 2 (packReg r), packXm x])
  | .barinit r => some (.sync, [first 0 3 (packReg r)])
  | .fence r => some (.sync, [first 0 4 (packReg r)])
  | .fenceXm r x => some (.sync, [first 1 4 (packReg r), packXm x])
  | .waitb r => some (.sync, [first 0 5 (packReg r)])
  | .waitc r => some (.sync, [first 0 6 (packReg r)])
  | .waitcXm r x => some (.sync, [first 1 6 (packReg r), packXm x])
  | .evbind r x => some (.sync, [first 1 7 (packReg r), x])
  | .evmask r => some (.sync, [first 0 8 (packRi r)])
  | .evclr r => some (.sync, [first 0 9 (packRi r)])
  | .waitany r => some (.sync, [first 0 10 (packReg r)])
  | .mbxsend r => some (.sync, [first 0 11 (packReg r)])
  | .mbxrecv r => some (.sync, [first 0 12 (packReg r)])
  | .regroup r => some (.sync, [first 0 13 (packReg r)])
  | .ungroup r => some (.sync, [first 0 14 (packReg r)])
  | .yield r => some (.sync, [first 0 15 (packReg r)])
  | .trap r => some (.sys, [first 0 0 (packRi r)])
  | .trapXi r x => some (.sys, [first 1 0 (packRi r), x])
  | .rtt r => some (.sys, [first 0 1 (packReg r)])
  | .launch r => some (.sys, [first 0 2 (packReg r)])
  | .csrr r => some (.sys, [first 0 3 (packRi r)])
  | .csrw r => some (.sys, [first 0 4 (packRi r)])
  | .tlbinv r => some (.sys, [first 0 5 (packReg r)])
  | .tlbinvXm r x => some (.sys, [first 1 5 (packReg r), packXm x])
  | .bkpt r => some (.sys, [first 0 6 (packReg r)])
  | .packageBoot => none
  | .softError => none
  | .moduleRetrain => none
  | .moduleRetrainEnd => none
  | .flitReceive => none
  | .flitTransmit => none
  | .thermalThrottleStep => none
  | .emergencyShutdown => none
  | .vinLoss => none
  | .portRetrain => none
  | .portRetrainEnd => none
  | .readRequest => none
  | .writeRequest => none
  | .atomicRequest => none
  | .casRequest => none
  | .mailboxRequest => none
  | .lineRead => none
  | .lineData => none
  | .lineWrite => none
  | .linePush => none
  | .readData => none
  | .writeAck => none
  | .atomicData => none
  | .casData => none
  | .retryReply => none
  | .retryResend => none
  | .errorReply => none
  | .tagTimeout => none
  | .tagQuarantineEnd => none
  | .combineUp => none
  | .combineDown => none
  | .combineSequenceAdmit => none
  | .combineSequenceAbandon => none
  | .mcastLine => none
  | .walkComplete => none
  | .missSlotFill => none
  | .regionSwitch => none
  | .regionDrainComplete => none
  | .migrationStart => none
  | .copyPassEnd => none
  | .migrationPinWaitEnd => none
  | .migrationWindowEnd => none
  | .queuePoll => none
  | .mirrorAck => none
  | .launchPacket => none
  | .signalPacket => none
  | .waitPacket => none
  | .waitConditionTrue => none
  | .waitTimeout => none
  | .fencePacket => none
  | .tablePacket => none
  | .combineConfig => none
  | .nopPacket => none
  | .queueRestart => none
  | .ttSlot => none
  | .domainTimeSync => none
  | .grandmasterLost => none
  | .standbyTakeover => none
  | .packageLoss => none
  | .heartbeatMiss => none
  | .updateTakeover => none
  | .configureDomain => none
  | .regionCommit => none
  | .migratePage => none
  | .relaySignal => none
  | .releaseFrozenMaster => none
  | .killFrozenMaster => none
  | .readEvents => none
  | .firmwareUpdate => none
  | .thawContexts => none
  | .setPowerCap => none
  | .spdmMessage => none
  | .setSecondaryHostDie => none
  | .setDetourBias => none
  | .unknownFirmwareRequest => none
  | .mgmtRead => none
  | .mgmtWrite => none
  | .mgmtRegisterWrite => none
  | .powercapWrite => none
  | .kboot => none
  | .bar1Access => none
  | .hostWatchdogExpire => none
  | .hostMachineCheck => none
  | .kernelPanicReport => none
  | .warmReboot => none
  | .brokerRange => none
  | .brokerDone => none
  | .doneTimer => none
  | .brokerSteal => none
  | .brokerGrant => none
  | .brokerNone => none
  | .brokerScan => none
  | .brokerReserve => none
  | .brokerCommit => none
  | .brokerRollback => none
  | .brokerVacate => none
  | .brokerRemap => none
  | .brokerSaved => none
  | .coreReserve => none
  | .preparationComplete => none
  | .gangCommit => none
  | .priorityPreempt => none
  | .gangSaveComplete => none
  | .serviceWordChange => none
  | .gangRestore => none
  | .fatalDieError => none
  | .ifetchFill => none
  | .registerFill => none
  | .walkerFetch => none
  | .eventTimerFire => none
  | .regroupComplete => none
  | .blockRetire => none
  | .trapTake => none
  | .porterCommandComplete => none
  | .chainRecord => none
  | .chainPoll => none
  | .matrixCommandComplete => none
  | .broadcastStreamEvent => none
  | .warmReset => none
  | .portReenable => none
  | .ppsInPulse => none

/-- The bytes of an instruction as memory holds them. -/
def encodeBytes (i : Instr) : Option (Cls × List Byte) :=
  (encode i).map fun p => (p.1, p.2.flatMap wordBytes)

/-- The classes that have a major, the one whose short form fixes more bits first. A word by itself does not say its
class: the header of its clause does (R276). -/
def classOrder (major : Nat) : List Cls :=
  match major with
  | 0 => [.ctrl, .sys, .sync, .vec, .cpy, .mem, .mtx]
  | 1 => [.sys, .mtx, .cpy, .ctrl, .vec, .sync, .mem]
  | 2 => [.sys, .mtx, .cpy, .sync, .vec, .ctrl, .mem]
  | 3 => [.cpy, .mtx, .sync, .sys, .ctrl, .mem, .vec]
  | 4 => [.sync, .mtx, .cpy, .sys, .ctrl, .vec, .mem]
  | 5 => [.sync, .sys, .mtx, .ctrl, .cpy, .mem, .vec]
  | 6 => [.sys, .mtx, .cpy, .sync, .ctrl, .vec, .mem]
  | 7 => [.mtx, .mem, .ctrl, .vec, .sync]
  | 8 => [.sync, .ctrl, .vec, .mem]
  | 9 => [.sync, .ctrl, .vec, .mem]
  | 10 => [.sync, .ctrl, .vec, .mem]
  | 11 => [.sync, .ctrl, .vec, .mem]
  | 12 => [.sync, .ctrl, .vec, .mem]
  | 13 => [.sync, .ctrl, .vec]
  | 14 => [.sync, .ctrl, .vec]
  | 15 => [.sync, .ctrl, .vec]
  | 16 => [.ctrl, .vec]
  | 17 => [.ctrl, .vec]
  | 18 => [.vec, .ctrl]
  | 19 => [.vec, .ctrl]
  | 20 => [.ctrl, .vec]
  | 21 => [.ctrl, .vec]
  | 22 => [.ctrl, .vec]
  | 23 => [.ctrl, .vec]
  | 24 => [.ctrl, .vec]
  | 25 => [.ctrl, .vec]
  | 26 => [.ctrl, .vec]
  | 27 => [.ctrl, .vec]
  | 28 => [.ctrl, .vec]
  | 29 => [.ctrl, .vec]
  | 30 => [.ctrl, .vec]
  | 31 => [.ctrl, .vec]
  | 32 => [.ctrl, .vec]
  | 33 => [.ctrl, .vec]
  | 34 => [.ctrl, .vec]
  | 35 => [.ctrl, .vec]
  | 36 => [.vec]
  | 37 => [.vec]
  | 38 => [.vec]
  | 39 => [.vec]
  | 40 => [.vec]
  | 41 => [.vec]
  | 42 => [.vec]
  | 43 => [.vec]
  | 44 => [.vec]
  | 45 => [.vec]
  | 46 => [.vec]
  | _ => []

/-- The first class of the list, with the instruction, under which the bytes decode. -/
def firstDecode (bs : List Byte) : List Cls → Option (Cls × Instr)
  | [] => none
  | c :: cs =>
    match decodeBytes c bs with
    | .ok (i, _) => some (c, i)
    | .error _ => firstDecode bs cs

/-- The bytes of the instruction whose bits are w: its first word at the lowest address, then the word above it. -/
def tableBytes (w : Nat) : List Byte :=
  wordBytes (BitVec.ofNat 32 w) ++ wordBytes (BitVec.ofNat 32 (w / 2 ^ 32))

/-- The class and instruction read from the table's bits: bits above nbits are zero, and the class is the first of
`classOrder` that has the word. -/
def decodeTable (nbits w : Nat) : Option (Cls × Instr) :=
  let v := w % 2 ^ nbits
  firstDecode (tableBytes v) (classOrder (majorOf (BitVec.ofNat 32 v)))

def decodeTableWord (nbits w : Nat) : Option Instr := (decodeTable nbits w).map (·.2)

end Sys2Proof
end

