-- ==== Sys2Proof/Machine/Source.lean ====
section
/-! DEFINITION. The text of the assembly language: tokens, lines (R264), literals and expressions (R265), names, and why a
source is rejected (R272). -/

namespace Sys2Proof.Machine.Bireth

/-- Why bireth rejects a source and emits nothing (R272 and the rules it cites). -/
inductive AsmError where
  /-- A line that R264 does not describe. -/
  | badLine
  /-- A mnemonic that R274 does not list. -/
  | unknownMnemonic
  /-- A modifier that is unknown, repeated, conflicting, or not the instruction's (R275). -/
  | badModifier
  /-- An operand outside R266, or an instruction whose words R298 refuses. -/
  | badOperand
  /-- A name in the form of a register or special register, or a name with no value (R264, R265). -/
  | badName
  /-- A name defined twice. -/
  | duplicateName
  /-- A value that does not fit its field (R265). -/
  | noFit
  /-- A register or tile at or above the kernel's. -/
  | registerRange
  /-- A kernel without `.regs`. -/
  | missingRegs
  /-- A branch target out of range. -/
  | targetRange
  /-- A breach of R270. -/
  | badClause
  /-- A directive that R271 does not describe, or one out of its place. -/
  | badDirective
  /-- Labels whose values never settle. -/
  | unsettled
  deriving DecidableEq, Repr

/-- A token of a line. -/
inductive Tok where
  | name (s : String)
  | num (s : String)
  | sym (c : Char)
  deriving DecidableEq, Repr

def nameStart (c : Char) : Bool := c.isAlpha || c == '_'

def nameChar (c : Char) : Bool := c.isAlphanum || c == '_'

/-- The tokens of a line; a comment runs from a semicolon to its end (R264). The first argument bounds the length. -/
def lex : Nat → List Char → List Tok
  | 0, _ => []
  | _, [] => []
  | n + 1, c :: cs =>
    if c == ';' then []
    else if c.isWhitespace then lex n cs
    else if nameChar c then
      let w := (c :: cs).takeWhile nameChar
      (if nameStart c then Tok.name (String.ofList w) else Tok.num (String.ofList w)) :: lex n ((c :: cs).drop w.length)
    else Tok.sym (if c == '−' then '-' else c) :: lex n cs

def tokens (s : String) : List Tok := lex s.toList.length s.toList

/-- The characters of a token. -/
def Tok.chars : Tok → List Char
  | .name s => s.toList
  | .num s => s.toList
  | .sym c => [c]

/-! ## Literals and expressions (R265) -/

def digitVal (c : Char) : Option Nat :=
  if c.isDigit then some (c.toNat - 48)
  else if 'a' ≤ c && c ≤ 'f' then some (c.toNat - 87)
  else if 'A' ≤ c && c ≤ 'F' then some (c.toNat - 55)
  else none

/-- The value of a run of digits, at least one of them. -/
def digits (base : Nat) : List Char → Option Nat
  | [] => none
  | cs => cs.foldl (fun acc c => do
      let a ← acc
      let d ← digitVal c
      if d < base then some (a * base + d) else none) (some 0)

/-- An integer literal: hexadecimal with a trailing h, binary with a trailing b, else decimal. -/
def literal (w : String) : Option Nat :=
  let cs := w.toList
  match cs.getLast? with
  | some 'h' => digits 16 cs.dropLast
  | some 'b' => digits 2 cs.dropLast
  | _ => digits 10 cs

/-- A name's value, and whether it is the label of a clause. -/
structure Entry where
  name : String
  val : Int
  clause : Bool
  deriving DecidableEq, Repr

/-- The names of a source. In a pass that only lays the source out (`strict = false`), an unknown name counts as 0, and no value is
refused. -/
structure Env where
  names : List Entry
  strict : Bool
  deriving DecidableEq, Repr

def Env.get (e : Env) (n : String) : Except AsmError Int :=
  match e.names.find? (·.name == n) with
  | some x => .ok x.val
  | none => if e.strict then .error .badName else .ok 0

mutual
/-- An operand of level 2 (a literal, a name, a negation, a parenthesis), a product (level 1) or a sum (level 0). -/
def term (e : Env) : Nat → Nat → List Tok → Except AsmError (Int × List Tok)
  | 0, _, _ => .error .badLine
  | n + 1, lvl, ts =>
    if lvl < 2 then do
      let (v, ts) ← term e n (lvl + 1) ts
      more e n lvl v ts
    else
      match ts with
      | .num w :: ts =>
        match literal w with
        | some v => .ok (v, ts)
        | none => .error .badLine
      | .name w :: ts => (e.get w).map (·, ts)
      | .sym '-' :: ts => do
        let (v, ts) ← term e n 2 ts
        .ok (-v, ts)
      | .sym '(' :: ts => do
        let (v, ts) ← term e n 0 ts
        match ts with
        | .sym ')' :: ts => .ok (v, ts)
        | _ => .error .badLine
      | _ => .error .badLine
/-- What follows the first operand of a product or a sum. -/
def more (e : Env) : Nat → Nat → Int → List Tok → Except AsmError (Int × List Tok)
  | 0, _, _, _ => .error .badLine
  | n + 1, lvl, v, ts =>
    match lvl, ts with
    | 1, .sym '*' :: ts => do
      let (w, ts) ← term e n 2 ts
      more e n 1 (v * w) ts
    | 0, .sym '+' :: ts => do
      let (w, ts) ← term e n 1 ts
      more e n 0 (v + w) ts
    | 0, .sym '-' :: ts => do
      let (w, ts) ← term e n 1 ts
      more e n 0 (v - w) ts
    | _, ts => .ok (v, ts)
end

/-- The value of an expression that takes up all of the tokens. -/
def expr (e : Env) (ts : List Tok) : Except AsmError Int :=
  match term e (4 * ts.length + 4) 0 ts with
  | .ok (v, []) => .ok v
  | .ok _ => .error .badLine
  | .error x => .error x

/-- A value between two limits. A pass that only lays the source out does not know every value yet, and takes the nearer limit for one
outside them. -/
def Env.within (e : Env) (lo hi v : Int) : Except AsmError Int :=
  if lo ≤ v && v ≤ hi then .ok v else if e.strict then .error .noFit else .ok (max lo (min hi v))

/-- 10^k times m as FP32, rounded once under RNE (R271). -/
def decimalF32 (neg : Bool) (m : Nat) (k : Int) : Word :=
  if 0 ≤ k then f32Of .rne neg (m * 10 ^ k.toNat) 0
  else
    let d := 10 ^ (-k).toNat
    let s := 32 + Nat.log2 d
    let n := m * 2 ^ s
    BitVec.ofNat 32 (fp32.round .rne neg { mant := n / d, exp := -(s : Int), sticky := n % d != 0 }).1

/-- The digits of a decimal exponent, with its sign. -/
def exponent : List Char → Option Int
  | '-' :: cs => (digits 10 cs).map fun n => -(n : Int)
  | '+' :: cs => (digits 10 cs).map Int.ofNat
  | cs => (digits 10 cs).map Int.ofNat

/-- A `.float` literal (R265): decimal, with a point or an exponent or neither, and a leading minus. -/
def floatLit (ts : List Tok) : Except AsmError Word :=
  let cs := ts.flatMap Tok.chars
  let neg := cs.head? == some '-'
  let cs := if neg then cs.drop 1 else cs
  let whole := cs.takeWhile Char.isDigit
  let rest := cs.drop whole.length
  let frac := if rest.head? == some '.' then (rest.drop 1).takeWhile Char.isDigit else []
  let tail := if rest.head? == some '.' then rest.drop (1 + frac.length) else rest
  let ex : Option Int :=
    match tail with
    | [] => some 0
    | c :: cs => if c == 'e' || c == 'E' then exponent cs else none
  match digits 10 (whole ++ frac), ex with
  | some m, some k => .ok (decimalF32 neg m (k - frac.length))
  | _, _ => .error .badLine

/-! ## Registers and names (R264, R266) -/

/-- The number of a register written as a letter and a decimal number below a limit, without leading zeros. -/
def regNum (kind : Char) (limit : Nat) (s : String) : Option Nat :=
  match s.toList with
  | c :: cs => if c == kind && cs.all Char.isDigit && (cs.head? != some '0' || cs.length == 1) then (digits 10 cs).filter (· < limit) else none
  | [] => none

/-- A vector register: `v0`-`v127`, or a walker `w0`-`w7`, which is v120-v127 (R182). -/
def vecNum (s : String) : Option Nat := (regNum 'v' 128 s).or ((regNum 'w' 8 s).map (· + 120))

/-- The names and numbers of the special registers (R297). -/
def specials : List (String × Nat) :=
  [("CYCLE", 0x00), ("WTIMER", 0x01), ("EVP", 0x02), ("EVM", 0x03), ("MXS", 0x04), ("RFF", 0x05), ("RFFOL", 0x06),
   ("RFFOH", 0x07), ("TVECL", 0x08), ("TVECH", 0x09), ("TFAL", 0x0A), ("TFAH", 0x0B), ("WEF", 0x0C), ("WALK0", 0x10),
   ("WALK1", 0x11), ("WALK2", 0x12), ("WALK3", 0x13), ("WALK4", 0x14), ("WALK5", 0x15), ("WALK6", 0x16),
   ("WALK7", 0x17)] ++
  [("BLKX", 0x20), ("BLKY", 0x21), ("BLKZ", 0x22), ("GRIDX", 0x23), ("GRIDY", 0x24), ("GRIDZ", 0x25), ("GANG", 0x26),
   ("GANGJ", 0x27), ("WARP", 0x28), ("WSLOT", 0x29), ("DCID", 0x2A), ("ARGS", 0x2B)]

/-- Whether a name has the form of a register, walker, barrier or special register (R264). -/
def reserved (s : String) : Bool :=
  specials.any (·.1 == s) ||
    match s.toList with
    | c :: d :: cs => ['v', 's', 'p', 'z', 'w', 'b'].contains c && (d :: cs).all Char.isDigit
    | _ => false

/-! ## Lines (R264) -/

/-- What a line says after its label. -/
inductive Body where
  | none
  /-- An instruction: guard (number, negated), mnemonic, modifiers, operands. -/
  | instr (g : Nat) (neg : Bool) (mn : String) (mods : List String) (ops : List (List Tok))
  | directive (name : String) (rest : List Tok)
  deriving DecidableEq, Repr

structure Line where
  label : Option String
  body : Body
  deriving DecidableEq, Repr

/-- The parts of a list between commas. -/
def commaParts : List Tok → List (List Tok)
  | [] => [[]]
  | t :: ts =>
    if t = .sym ',' then [] :: commaParts ts
    else
      match commaParts ts with
      | p :: ps => (t :: p) :: ps
      | [] => [[t]]

/-- The operands of a line: none, or the parts between the commas, each with something in it. -/
def operands (ts : List Tok) : Except AsmError (List (List Tok)) :=
  if ts.isEmpty then .ok []
  else if (commaParts ts).any (·.isEmpty) then .error .badLine else .ok (commaParts ts)

/-- The modifiers that follow a mnemonic, and the rest of the line. -/
def modifiers : List Tok → List String × List Tok
  | .sym '.' :: .name m :: ts => (m :: (modifiers ts).1, (modifiers ts).2)
  | ts => ([], ts)

def instrBody (g : Nat) (neg : Bool) : List Tok → Except AsmError Body
  | .name mn :: ts => (operands (modifiers ts).2).map (Body.instr g neg mn (modifiers ts).1)
  | _ => .error .badLine

/-- What follows the label: nothing, a directive, or an instruction with its guard. -/
def body : List Tok → Except AsmError Body
  | [] => .ok .none
  | .sym '.' :: .name d :: ts => .ok (.directive d ts)
  | .sym '?' :: .sym '!' :: .name p :: ts =>
    match regNum 'p' 8 p with
    | some g => instrBody g true ts
    | none => .error .badLine
  | .sym '?' :: .name p :: ts =>
    match regNum 'p' 8 p with
    | some g => instrBody g false ts
    | none => .error .badLine
  | ts => instrBody 0 false ts

def parseLine (s : String) : Except AsmError Line :=
  match tokens s with
  | .name l :: .sym ':' :: ts => (body ts).map fun b => { label := some l, body := b }
  | ts => (body ts).map fun b => { label := .none, body := b }

end Sys2Proof.Machine.Bireth
end

