-- ==== Sys2Proof/Machine/AsmTable.lean ====
section
/-! DEFINITION. The instructions as the assembly language writes them: mnemonics (R274), modifiers (R275), operands
(R266), the fields they set, and the words that hold the fields (R267, R279-R283). -/

namespace Sys2Proof.Machine.Bireth

/-- A register field of the words. -/
inductive Fld where
  | d
  | a
  | b
  | c
  deriving DecidableEq, Repr

/-- How many registers an operand takes, by the minor or the special register. -/
inductive Span where
  | n (k : Nat)
  /-- A 64-bit datum of a load or store (minor 1). -/
  | datum
  /-- A 64-bit datum of an atomic. -/
  | atom
  | cas
  | cvtDst
  | cvtSrc
  | mloop
  /-- A pair when the special register of that field is 64 bits wide. -/
  | special (f : Fld)
  deriving DecidableEq, Repr

/-- An operand as written, in the order of R266. `rd` and `wr` say whether the instruction reads or writes it. -/
inductive Opd where
  | vec (f : Fld) (rd wr : Bool) (n : Span)
  /-- The metadata of a conversion into `.c4`. -/
  | c4word
  | scal (f : Fld) (rd wr : Bool) (n : Span)
  | pred (f : Fld) (rd wr : Bool)
  | tile (f : Fld)
  | bar (f : Fld)
  | num (f : Fld) (max : Nat)
  | spec (f : Fld) (rd wr : Bool)
  /-- A memory operand; `unit` is 4 in the remote and group forms (R282). -/
  | mem (pair : Bool) (unit : Nat)
  /-- The peer vector register of a remote form. -/
  | peer
  /-- The scalar register of a group form. -/
  | group
  /-- The scalar group of MST and MLD, with a displacement (R377). -/
  | tileGroup
  | imm
  /-- A target in the word's offset field. -/
  | target
  /-- A target in the XI word. -/
  | join
  /-- The walker of BRW. -/
  | walker
  /-- The barrier slot of `.bar`, written first (R294). -/
  | slot
  deriving DecidableEq, Repr

inductive Format where
  | reg
  | ri
  | br
  | mem
  deriving DecidableEq, Repr

inductive Ext where
  | none
  | xr
  | xi
  | xm
  deriving DecidableEq, Repr

/-- One mnemonic. `minors` lists the modifiers that choose the minor; `minorAt` says that they choose a field of the first
word instead; `fixed` that its results are of fixed latency (R170). -/
structure Row where
  name : String
  cls : Cls
  major : Nat
  fmt : Format := .reg
  ext : Ext := .none
  short : Bool := true
  ops : List Opd
  minors : List (List String × Nat) := [([], 0)]
  minorAt : Option Fld := none
  guarded : Bool := false
  rounds : Bool := false
  fixed : Bool := false
  transfer : Bool := false
  deriving DecidableEq, Repr

/-! ## Modifiers that choose a minor (R275, R289-R295) -/

def cmps : List (List String × Nat) :=
  [(["eq"], 0), (["ne"], 1), (["lt"], 2), (["le"], 3), (["gt"], 4), (["ge"], 5)]

/-- The comparisons of SCMP and ICMP; `.i32` adds nothing (R305, R332). -/
def intCmps : List (List String × Nat) :=
  cmps ++ ((cmps.drop 2).map fun x => (x.1 ++ ["i32"], x.2)) ++ (cmps.drop 2).map fun x => (x.1 ++ ["n32"], x.2 + 4)

def signs : List (List String × Nat) := [([], 0), (["i32"], 0), (["n32"], 1)]

def stores : List (List String × Nat) := [(["n32"], 0), (["n64"], 1), (["n8"], 2), (["n16"], 4)]

def loads : List (List String × Nat) := stores ++ [(["i8"], 3), (["i16"], 5)]

def atomics : List (List String × Nat) :=
  ([("add", 0), ("min", 4), ("max", 8), ("and", 12), ("or", 16), ("xor", 20), ("exch", 24)].flatMap fun o =>
    [("n32", 0), ("i32", 1), ("n64", 2), ("i64", 3)].map fun t => ([o.1, t.1], o.2 + t.2)) ++ [(["add", "f32"], 28)]

def combines : List (List String × Nat) :=
  [(["sum", "f32"], 0), (["sum", "i32"], 1), (["max", "f32"], 2), (["min", "f32"], 3), (["and"], 4), (["or"], 5),
   (["lse3"], 6)]

def tileTypes : List (List String × Nat) :=
  [(["f32"], 0), (["bf16"], 1), (["e4m3"], 2), (["e5m2"], 3), (["l8"], 4), (["l16"], 5), (["c4"], 6)]

def loops : List (List String × Nat) :=
  [([], 0), (["reuse"], 8), (["clr"], 16), (["reuse", "clr"], 24)].flatMap fun x =>
    [("k1", 0), ("k2", 1), ("k3", 2), ("k4", 3), ("k5", 4), ("k6", 5), ("k7", 6), ("k8", 7)].map fun k =>
      (k.1 :: x.1, k.2 + x.2)

/-- The conversions, destination first (R291); a conversion between equal types is no instruction. -/
def conversions : List (List String × Nat) :=
  let types := [("i32", 0), ("n32", 1), ("f32", 2), ("bf16", 3), ("e4m3", 4), ("e5m2", 5), ("l8", 6), ("l16", 7),
    ("c4", 8), ("i8", 9), ("n8", 10), ("i16", 11), ("n16", 12), ("i64", 13), ("n64", 14)]
  types.flatMap fun t => types.map fun u => ([t.1, u.1], 16 * t.2 + u.2)

def ends : List (List String × Nat) :=
  [(["d0"], 0), (["d1"], 8), (["d2"], 16), (["d0", "clr"], 32), (["d1", "clr"], 40), (["d2", "clr"], 48)]

def kinds : List (List String × Nat) :=
  [(["barph"], 1), (["batch"], 2), (["count"], 3), (["mbox"], 4), (["timer"], 5), (["rfault"], 6), (["broken"], 7)]

/-! ## The mnemonics (R274, R289-R296) -/

def sd : Opd := .scal .d false true (.n 1)
def sa : Opd := .scal .a true false (.n 1)
def sb : Opd := .scal .b true false (.n 1)
def vd : Opd := .vec .d false true (.n 1)
def va : Opd := .vec .a true false (.n 1)
def vb : Opd := .vec .b true false (.n 1)
def vc : Opd := .vec .c true false (.n 1)

/-- A scalar instruction of fixed latency. -/
def scalar (name : String) (major : Nat) (ops : List Opd) : Row := { name, cls := .ctrl, major, ops, fixed := true }

def ctrlRows : List Row :=
  [{ name := "NOP", cls := .ctrl, major := 0, ops := [] }, scalar "SMOV" 1 [sd, sa],
   { scalar "SMOVI" 2 [sd, .imm] with fmt := .ri, ext := .xi }] ++
  ([("SADD", 3), ("SSUB", 4), ("SMUL", 5), ("SMULHI", 6), ("SAND", 7), ("SOR", 8), ("SXOR", 9), ("SSHL", 10),
    ("SSHR", 11), ("SSAR", 12), ("SMIN", 15), ("SMAX", 16), ("SMINN", 17), ("SMAXN", 18)].map fun x =>
      scalar x.1 x.2 [sd, sa, sb]) ++
  ([("SADDI", 13), ("SANDI", 14)].map fun x => { scalar x.1 x.2 [sd, sa, .imm] with fmt := .ri, ext := .xi }) ++
  [{ scalar "SCMP" 19 [sd, sa, sb] with ext := .xr, minors := intCmps },
   scalar "SREAD" 20 [.scal .d false true (.special .a), .spec .a true false],
   scalar "SWRITE" 21 [.spec .d false true, .scal .a true false (.special .d)],
   { name := "BRA", cls := .ctrl, major := 22, fmt := .br, ops := [.target], transfer := true }] ++
  ([("BZ", 23), ("BNZ", 24), ("BLTZ", 25), ("BGEZ", 26)].map fun x =>
    { name := x.1, cls := .ctrl, major := x.2, fmt := .br, ops := [.scal .d true false (.n 1), .target]
      transfer := true }) ++
  [{ name := "BRU", cls := .ctrl, major := 27, fmt := .br, ops := [.pred .d true false, .target], transfer := true },
   { name := "BRD", cls := .ctrl, major := 28, fmt := .br, ext := .xi, short := false
     ops := [.pred .d true false, .target, .join], transfer := true },
   { name := "BRW", cls := .ctrl, major := 29, fmt := .br, ops := [.walker, .target], minors := ends
     minorAt := some .d, transfer := true },
   { name := "CALL", cls := .ctrl, major := 30, fmt := .br, ops := [.target], transfer := true },
   { name := "CALLR", cls := .ctrl, major := 31, ops := [va], transfer := true },
   { name := "RET", cls := .ctrl, major := 32, ops := [], transfer := true },
   { name := "JMPR", cls := .ctrl, major := 33, ops := [va], transfer := true },
   { name := "EXIT", cls := .ctrl, major := 34, ops := [], guarded := true, transfer := true },
   { name := "TAKE", cls := .ctrl, major := 35, ops := [sd] }]

/-- A guarded vector instruction of fixed latency, with a long form. -/
def vector (name : String) (major : Nat) (ops : List Opd) : Row :=
  { name, cls := .vec, major, ext := .xr, ops, guarded := true, fixed := true }

def vecRows : List Row :=
  [vector "VMOV" 0 [vd, va], vector "VMOVS" 2 [vd, sa]] ++
  ([("IADD", 3), ("ISUB", 4), ("IMUL", 5), ("AND", 10), ("OR", 11), ("XOR", 12), ("SHL", 13), ("SHR", 14), ("SAR", 15),
    ("FMIN", 29), ("FMAX", 30), ("PACK4", 41), ("UNPACK4", 42)].map fun x => vector x.1 x.2 [vd, va, vb]) ++
  ([("IMULHI", 6), ("IMIN", 8), ("IMAX", 9)].map fun x => { vector x.1 x.2 [vd, va, vb] with minors := signs }) ++
  [{ vector "BFE" 16 [vd, va, vb] with minors := [(["n32"], 0), (["i32"], 1)] }] ++
  ([("IMAD", 7), ("BFI", 17)].map fun x => { vector x.1 x.2 [vd, va, vb, vc] with short := false }) ++
  ([("POPC", 18), ("CLZ", 19), ("BREV", 20), ("RFL", 45)].map fun x => vector x.1 x.2 [vd, va]) ++
  ([("FADD", 25), ("FSUB", 26), ("FMUL", 27)].map fun x => { vector x.1 x.2 [vd, va, vb] with rounds := true }) ++
  [{ vector "FFMA" 28 [vd, va, vb, vc] with short := false, rounds := true }] ++
  ([("FRCP", 31), ("FRSQ", 32), ("FSQRT", 33), ("FEX2", 34), ("FLG2", 35)].map fun x =>
    { vector x.1 x.2 [vd, va] with rounds := true, fixed := false }) ++
  [{ vector "ICMP" 36 [.pred .d false true, va, vb] with minors := intCmps },
   { vector "FCMP" 37 [.pred .d false true, va, vb] with minors := cmps },
   vector "PSET" 38 [.pred .d false true, va],
   { vector "SEL" 39 [vd, va, vb, .pred .c true false] with short := false },
   { vector "CVT" 40 [.vec .d false true .cvtDst, .vec .a true false .cvtSrc, .c4word] with
     short := false, rounds := true, minors := conversions },
   vector "BALLOT" 43 [sd, .pred .a true false],
   { vector "VOTE" 44 [.pred .d false true, .pred .a true false] with minors := [(["any"], 0), (["all"], 1)] },
   { vector "LANEID" 46 [vd] with minors := [(["phys"], 0), (["log"], 1)] },
   { vector "VMOVI" 1 [vd, .imm] with fmt := .ri, ext := .xi, guarded := false }] ++
  [("ADDI", 21), ("ANDI", 22), ("SHLI", 23), ("SHRI", 24)].map fun x =>
    { vector x.1 x.2 [vd, va, .imm] with fmt := .ri, ext := .xi, guarded := false }

/-- A memory instruction. -/
def memory (name : String) (major : Nat) (ops : List Opd) (minors : List (List String × Nat)) : Row :=
  { name, cls := .mem, major, fmt := .mem, ext := .xm, ops, minors, guarded := true }

def memRows : List Row :=
  [memory "LD" 0 [.vec .d false true .datum, .mem true 1] loads,
   memory "ST" 1 [.vec .d true false .datum, .mem true 1] stores,
   memory "LDL" 2 [.vec .d false true .datum, .mem false 1] loads,
   memory "STL" 3 [.vec .d true false .datum, .mem false 1] stores,
   memory "ATOM" 4 [.vec .d true true .atom, .mem true 1] atomics,
   memory "ATOML" 5 [.vec .d true true .atom, .mem false 1] atomics,
   memory "CAS" 6 [.vec .d true true .cas, .mem true 1] [(["n32"], 0), (["n64"], 1)],
   memory "PREF" 7 [.mem true 1] [([], 0)],
   { memory "RLD" 8 [.vec .d false true .datum, .peer, .mem true 4] loads with short := false },
   { memory "RST" 9 [.vec .d true false .datum, .peer, .mem true 4] stores with short := false },
   { memory "RATOM" 10 [.vec .d true true .atom, .peer, .mem true 4] atomics with short := false },
   { memory "MCAST" 11 [.vec .d true false (.n 1), .group, .mem false 4] [([], 0)] with
     short := false, guarded := false },
   { memory "COMBINE" 12 [.vec .d true true (.n 1), .group] combines with short := false, guarded := false }]

def quad (f : Fld) : Opd := .scal f true false (.n 4)

def pairOf (f : Fld) : Opd := .scal f true false (.n 2)

def mtxRows : List Row :=
  [{ name := "MLOOP", cls := .mtx, major := 0, ext := .xr, short := false
     ops := [.tile .d, .vec .a true false .mloop, quad .b, quad .c], minors := loops },
   { name := "MZERO", cls := .mtx, major := 1, ops := [.tile .d] },
   { name := "MRD", cls := .mtx, major := 2, ext := .xr, ops := [.vec .d false true (.n 32), .tile .a] },
   { name := "MWR", cls := .mtx, major := 3, ext := .xr, ops := [.tile .d, .vec .a true false (.n 32)] },
   { name := "MST", cls := .mtx, major := 4, fmt := .mem, ext := .xm, ops := [.tile .d, .tileGroup], minors := tileTypes },
   { name := "MLD", cls := .mtx, major := 5, fmt := .mem, ext := .xm, ops := [.tile .d, .tileGroup]
     minors := tileTypes.take 2 },
   { name := "MWAIT", cls := .mtx, major := 6, ops := [.tile .d] },
   { name := "MSTAT", cls := .mtx, major := 7, ops := [sd] }]

def cpyRows : List Row :=
  [{ name := "TCOPY", cls := .cpy, major := 0, ext := .xm, ops := [.slot, quad .d, pairOf .a, quad .b]
     minors := [([], 0), (["bar"], 1)] },
   { name := "CCLOSE", cls := .cpy, major := 1, ops := [sd] },
   { name := "CBLOAD", cls := .cpy, major := 2, ext := .xm, ops := [pairOf .a, sb] },
   { name := "CBFREE", cls := .cpy, major := 3, ops := [] },
   { name := "CCHAIN", cls := .cpy, major := 4, ext := .xm, ops := [.num .d 3, pairOf .a] },
   { name := "CFILL", cls := .cpy, major := 5, ext := .xm, ops := [.slot, quad .d, sa, quad .b]
     minors := [([], 0), (["bar"], 1)] },
   { name := "CSTAT", cls := .cpy, major := 6, ops := [sd, .num .a 3] }]

/-- An instruction of SYNC or SYS. -/
def system (cls : Cls) (name : String) (major : Nat) (ext : Ext) (ops : List Opd) : Row := { name, cls, major, ext, ops }

def syncRows : List Row :=
  [system .sync "BAR" 0 .xm [.bar .d, sa], system .sync "BARA" 1 .xm [.bar .d, sa, sb],
   system .sync "BARW" 2 .xm [.bar .d, sa], system .sync "BARINIT" 3 .none [.bar .d, sa],
   system .sync "FENCE" 4 .xm [], system .sync "WAITB" 5 .none [sa], system .sync "WAITC" 6 .xm [pairOf .a, pairOf .b],
   { system .sync "EVBIND" 7 .xi [.num .d 7, sa, .join] with short := false, minors := kinds, minorAt := some .b },
   { system .sync "EVMASK" 8 .none [.imm] with fmt := .ri }, { system .sync "EVCLR" 9 .none [.imm] with fmt := .ri },
   { system .sync "WAITANY" 10 .none [] with transfer := true }, system .sync "MBXSEND" 11 .none [va, sb],
   system .sync "MBXRECV" 12 .none [vd, .num .b 15],
   { system .sync "REGROUP" 13 .none [.pred .a true false, sb] with transfer := true },
   { system .sync "UNGROUP" 14 .none [sb] with transfer := true }, system .sync "YIELD" 15 .none []]

def sysRows : List Row :=
  [{ system .sys "TRAP" 0 .xi [.imm] with fmt := .ri }, { system .sys "RTT" 1 .none [] with transfer := true },
   system .sys "LAUNCH" 2 .none [pairOf .a], { system .sys "CSRR" 3 .none [sd, .imm] with fmt := .ri },
   { system .sys "CSRW" 4 .none [sa, .imm] with fmt := .ri }, system .sys "TLBINV" 5 .xm [pairOf .a],
   system .sys "BKPT" 6 .none []]

def rows : List Row := ctrlRows ++ vecRows ++ memRows ++ mtxRows ++ cpyRows ++ syncRows ++ sysRows

/-! ## Fields and words -/

/-- The fields of an instruction; `off` and `xi` are target addresses, and `xi` the XI word's. -/
structure Fields where
  d : Nat := 0
  a : Nat := 0
  b : Nat := 0
  c : Nat := 0
  g : Nat := 0
  neg : Bool := false
  fa : Bool := false
  fb : Bool := false
  fc : Bool := false
  bs : Bool := false
  pair : Bool := false
  mode : Nat := 0
  amt : Nat := 0
  clamp : Bool := false
  rnd : Nat := 0
  minor : Nat := 0
  scope : Nat := 0
  order : Nat := 0
  low : Nat := 0
  imm : Int := 0
  off : Int := 0
  xi : Int := 0
  deriving DecidableEq, Repr, Inhabited

def Fields.get (f : Fields) : Fld → Nat
  | .d => f.d
  | .a => f.a
  | .b => f.b
  | .c => f.c

def Fields.set (f : Fields) (x : Fld) (v : Nat) : Fields :=
  match x with
  | .d => { f with d := v }
  | .a => { f with a := v }
  | .b => { f with b := v }
  | .c => { f with c := v }

def Fields.setTrap (f : Fields) (x : Fld) : Fields :=
  match x with
  | .d => { f with fb := true }
  | .a => { f with fa := true }
  | .b => { f with fb := true }
  | .c => { f with fc := true }

def Fields.trap (f : Fields) : Fld → Bool
  | .d => f.fb
  | .a => f.fa
  | .b => f.fb
  | .c => f.fc

def Span.count (s : Span) (f : Fields) : Nat :=
  match s with
  | .n k => k
  | .datum => if f.minor = 1 then 2 else 1
  | .atom => if f.minor < 28 && f.minor % 4 ≥ 2 then 2 else 1
  | .cas => if f.minor = 0 then 2 else 4
  | .cvtDst => if wideType (f.minor / 16) then 2 else 1
  | .cvtSrc => if wideType (f.minor % 16) then 2 else 1
  | .mloop => 8 * (f.minor % 8 + 1)
  | .special x => if wideSpecial (f.get x) then 2 else 1

/-- Whether an operand is written at all: the metadata of a conversion into `.c4`, the slot of `.bar`. -/
def Opd.present (f : Fields) : Opd → Bool
  | .c4word => f.minor / 16 == 8
  | .slot => f.minor == 1
  | _ => true

/-- Whether an immediate fits the short form (R266, R267). -/
def shortImm (v : Int) : Bool := decide (-1024 ≤ v) && decide (v ≤ 1023)

/-- Whether the fields need the long form (R267). -/
def Row.needsLong (r : Row) (f : Fields) : Bool :=
  !r.short || decide (3 < f.g) || f.neg ||
    match r.ext with
    | .none => false
    | .xi => r.fmt == .ri && !shortImm f.imm
    | .xr => f.fc || f.bs || f.clamp || f.mode != 0 || f.rnd != 0 || f.minor != 0
    | .xm => f.minor != 0 || f.scope != 0 || f.order != 0 || f.low != 0

/-- The low 25 bits of the first word (R280). -/
def Row.firstBits (r : Row) (f : Fields) (long : Bool) (off : Int) : BitVec 25 :=
  let g : BitVec 2 := if long then 0 else BitVec.ofNat 2 f.g
  let d := BitVec.ofNat 7 f.d
  let a := BitVec.ofNat 7 f.a
  match r.fmt with
  | .reg => packReg { d := d, a := a, b := BitVec.ofNat 7 f.b, g := g, fa := f.fa, fb := f.fb }
  | .ri => packRi { d := d, a := a, imm := if long then 0 else BitVec.ofInt 11 f.imm }
  | .br => packBr { c := d, off := BitVec.ofInt 18 off }
  | .mem => packMm { d := d, a := a, base := BitVec.ofNat 6 f.b, pair := f.pair, g := g, fa := f.fa, fb := f.fb }

/-- The extension word (R281, R282); `xi` is the word offset of a target. -/
def Row.extWord (r : Row) (f : Fields) (xi : Int) : Word :=
  let minor : BitVec 8 := if r.minorAt.isSome then 0 else BitVec.ofNat 8 f.minor
  match r.ext with
  | .xr => packXr { minor := minor, c := BitVec.ofNat 7 f.c, g := BitVec.ofNat 3 f.g, neg := f.neg, fc := f.fc, bs := f.bs
                    mode := BitVec.ofNat 3 f.mode, amt := BitVec.ofNat 5 f.amt, clamp := f.clamp
                    rnd := BitVec.ofNat 2 f.rnd }
  | .xm => packXm { minor := minor, scope := BitVec.ofNat 3 f.scope, order := BitVec.ofNat 2 f.order
                    g := BitVec.ofNat 3 f.g, neg := f.neg, low := BitVec.ofNat 15 f.low }
  | _ => BitVec.ofInt 32 (if r.fmt == .ri then f.imm else xi)

/-- A word offset from an instruction to a target (R280), within limits. -/
def wordOffset (strict : Bool) (lo hi target addr : Int) : Except AsmError Int :=
  let v := (target - addr) / 4
  if strict && ((target - addr) % 4 != 0 || v < lo || hi < v) then .error .targetRange else .ok v

/-- The words of an instruction at an address (R267). bireth never emits a pattern of R298. -/
def Row.words (r : Row) (f : Fields) (addr : Int) (strict : Bool) : Except AsmError (List Word) := do
  let long := r.needsLong f
  let off ← wordOffset (strict && r.ops.contains .target) (-131072) 131071 f.off addr
  let xi ← wordOffset (strict && r.ops.contains .join) (-2 ^ 31) (2 ^ 31 - 1) f.xi addr
  let w := first (if long then 1 else 0) r.major (r.firstBits f long off)
  let x := r.extWord f xi
  if long && r.ext == .none then .error .badOperand
  else if !strict then .ok (if long then [w, x] else [w])
  else
    match decode r.cls w (if long then some x else none) with
    | .ok _ => .ok (if long then [w, x] else [w])
    | .error _ => .error .badOperand

/-! ## Modifiers (R275) -/

def scopeNames : List (String × Nat) := [("core", 0), ("die", 1), ("package", 2), ("tray", 3), ("rack", 4)]

def orderNames : List (String × Nat) := [("acq", 1), ("rel", 2), ("sc", 3)]

def roundNames : List (String × Nat) := [("RNE", 0), ("RZ", 1), ("RD", 2), ("RU", 3)]

/-- The value of the modifier of one group, the default where it has none, and nothing where it has two. -/
def groupOf (names : List (String × Nat)) (mods : List String) : Except AsmError Nat :=
  match names.filter fun x => mods.contains x.1 with
  | [] => .ok 0
  | [x] => .ok x.2
  | _ => .error .badModifier

def sameMods (exact : Bool) (xs ys : List String) : Bool :=
  if exact then xs == ys else xs.length == ys.length && xs.all ys.contains

/-- The fields that the modifiers of an instruction set, and whether `.HOLD` is one of them. -/
def Row.modFields (r : Row) (mods : List String) : Except AsmError (Fields × Bool) := do
  let inGroup (names : List (String × Nat)) (m : String) : Bool := names.any (·.1 == m)
  let hasScope := r.ext == .xm
  let rest := mods.filter fun m => m != "HOLD" && !(hasScope && inGroup scopeNames m) && !(hasScope && inGroup orderNames m) &&
    !(r.rounds && inGroup roundNames m)
  let scope ← groupOf (if hasScope then scopeNames else []) mods
  let order ← groupOf (if hasScope then orderNames else []) mods
  let rnd ← groupOf (if r.rounds then roundNames else []) mods
  match r.minors.find? fun x => sameMods (r.name == "CVT") x.1 rest with
  | some x =>
    if mods.Nodup then
      .ok ({ (if r.minorAt = some .b then ({ b := x.2 } : Fields) else {}) with
             minor := x.2, scope := scope, order := order, rnd := rnd, bs := r.name == "MLOOP" }, mods.contains "HOLD")
    else .error .badModifier
  | none => .error .badModifier

/-! ## Operands (R266) -/

def crossNames : List (String × Nat) := [("bcast", 1), ("xor", 2), ("up", 3), ("down", 4), ("rot", 5)]

/-- An option's value, or a bad operand. -/
def need {α : Type} (x : Option α) : Except AsmError α :=
  match x with
  | some v => .ok v
  | none => .error .badOperand

/-- The cross-lane mode and amount that follow a register, and the rest. -/
def crossLane (e : Env) : List Tok → Except AsmError (Nat × Nat × List Tok)
  | .sym '.' :: .name m :: .sym '(' :: ts => do
    let mode ← need ((crossNames.find? (·.1 == m)).map (·.2))
    let (n, ts) ← term e (4 * ts.length + 4) 0 ts
    let n ← e.within 0 31 n
    match ts with
    | .sym ')' :: ts => .ok (mode, n.toNat, ts)
    | _ => .error .badOperand
  | ts => .ok (0, 0, ts)

/-- A vector operand: its register, with a cross-lane source and `:t` where they may stand (R285, R287). -/
def vecOperand (e : Env) (r : Row) (f : Fields) (x : Fld) (rd : Bool) : List Tok → Except AsmError Fields
  | .name s :: ts => do
    let n ← need (vecNum s)
    let (mode, amt, ts) ← crossLane e ts
    let (clamp, ts) := match ts with
      | .sym '.' :: .name "clamp" :: ts => (true, ts)
      | ts => (false, ts)
    let cross := r.cls == .vec && r.ext == .xr && x == .a
    if (mode != 0 && !cross) || (clamp && mode == 0) then .error .badOperand
    else
      let f := f.set x n
      let f := if x == .a then { f with mode := mode, amt := amt, clamp := clamp } else f
      match ts with
      | [] => .ok f
      | [.sym ':', .name "t"] => if rd && r.fmt != .ri && (x != .d || r.fmt == .mem) then .ok (f.setTrap x) else .error .badOperand
      | _ => .error .badOperand
  | _ => .error .badOperand

/-- What follows a base in a memory operand: nothing, or a displacement. -/
def displacement (e : Env) : List Tok → Except AsmError Int
  | [] => .ok 0
  | .sym '+' :: ts => expr e ts
  | .sym '-' :: ts => expr e (.sym '-' :: ts)
  | _ => .error .badOperand

/-- The low bits of XM for a displacement (R282). -/
def dispBits (e : Env) (unit : Nat) (ts : List Tok) : Except AsmError Nat := do
  let v ← displacement e ts
  if unit = 4 then
    let v ← e.within (-512) 508 v
    if v % 4 = 0 || !e.strict then .ok ((v / 4) % 256).toNat else .error .badOperand
  else
    let v ← e.within (-16384) 16383 v
    .ok (v % 32768).toNat

/-- `[sB + vO + disp]`, or `[sB + vO:vO+1 + disp]` for an offset pair. -/
def memOperand (e : Env) (f : Fields) (pair : Bool) (unit : Nat) : List Tok → Except AsmError Fields
  | .sym '[' :: .name s :: .sym '+' :: .name v :: ts => do
    let s ← need (regNum 's' 64 s)
    let v ← need (vecNum v)
    let (two, ts) := match ts with
      | .sym ':' :: .name w :: ts' => if vecNum w == some (v + 1) then (true, ts') else (false, ts)
      | ts => (false, ts)
    let (trap, ts) := match ts with
      | .sym ':' :: .name "t" :: ts => (true, ts)
      | ts => (false, ts)
    if ts.getLast? != some (.sym ']') || (two && !pair) then .error .badOperand
    else do
      let low ← dispBits e unit ts.dropLast
      .ok { f with b := s, a := v, pair := two, fa := trap, low := f.low + low }
  | _ => .error .badOperand

/-- A name alone. -/
def oneName : List Tok → Except AsmError String
  | [.name s] => .ok s
  | _ => .error .badOperand

/-- A target: the label of a clause (R266). -/
def targetOf (e : Env) (ts : List Tok) : Except AsmError Int := do
  let n ← oneName ts
  let v ← e.get n
  if e.strict && !e.names.any (fun x => x.name == n && x.clause) then .error .badOperand else .ok v

/-- The fields that one operand sets; `slots` is how many barrier slots the kernel has (R266). -/
def operand (e : Env) (r : Row) (slots : Nat) (f : Fields) (o : Opd) (ts : List Tok) : Except AsmError Fields :=
  match o with
  | .vec x rd _ _ =>
    match ts with
    | [.name s] =>
      match (if x == .b && r.cls == .vec then regNum 's' 64 s else none) with
      | some n => .ok { f with b := n, bs := true }
      | none => vecOperand e r f x rd ts
    | _ => vecOperand e r f x rd ts
  | .c4word =>
    match ts with
    | [.name s] =>
      match regNum 's' 64 s with
      | some n => .ok { f with b := n, bs := true }
      | none => vecOperand e r f .b true ts
    | _ => vecOperand e r f .b true ts
  | .scal x _ _ _ => do
    let n ← oneName ts
    (need (regNum 's' 64 n)).map (f.set x)
  | .pred x _ _ => do
    let n ← oneName ts
    (need (regNum 'p' 8 n)).map (f.set x)
  | .tile x => do
    let n ← oneName ts
    (need (regNum 'z' 8 n)).map (f.set x)
  | .bar x => do
    let n ← oneName ts
    (need (regNum 'b' slots n)).map (f.set x)
  | .num x m => do
    let v ← expr e ts
    let v ← e.within 0 m v
    .ok (f.set x v.toNat)
  | .spec x _ _ => do
    let n ← oneName ts
    (need ((specials.find? (·.1 == n)).map (·.2))).map (f.set x)
  | .mem pair unit => memOperand e f pair unit ts
  | .peer => do
    let n ← oneName ts
    let n ← need (vecNum n)
    .ok { f with low := f.low + 256 * n }
  | .group => do
    let n ← oneName ts
    let n ← need (regNum 's' 64 n)
    .ok { f with low := f.low + 256 * n }
  | .tileGroup =>
    match ts with
    | .name s :: ts => do
      let s ← need (regNum 's' 64 s)
      let low ← dispBits e 1 ts
      .ok { f with b := s, low := low }
    | _ => .error .badOperand
  | .imm => do
    let v ← expr e ts
    let v ← e.within (-2 ^ 31) (2 ^ 32 - 1) v
    if e.strict && r.ext == .none && !shortImm v then .error .noFit else .ok { f with imm := v }
  | .target => (targetOf e ts).map fun v => { f with off := v }
  | .join => (targetOf e ts).map fun v => { f with xi := v }
  | .walker => do
    let n ← oneName ts
    let k ← need (regNum 'w' 8 n)
    .ok { f with d := f.minor + k }
  | .slot => do
    let n ← oneName ts
    let k ← need (regNum 'b' slots n)
    .ok { f with low := 2048 * k }

/-- The operands of an instruction, in the order of the row. -/
def operandFields (e : Env) (r : Row) (slots : Nat) : Fields → List Opd → List (List Tok) → Except AsmError Fields
  | f, [], [] => .ok f
  | f, o :: os, ts :: tss => do
    let f ← operand e r slots f o ts
    operandFields e r slots f os tss
  | _, _, _ => .error .badOperand

/-- The fields of an instruction as written, and whether `.HOLD` is set. -/
def instrFields (e : Env) (r : Row) (slots g : Nat) (neg : Bool) (mods : List String) (ops : List (List Tok)) :
    Except AsmError (Fields × Bool) := do
  let (f, hold) ← r.modFields mods
  if (g != 0 || neg) && !r.guarded then .error .badOperand
  else do
    let f ← operandFields e r slots { f with g := g, neg := neg } (r.ops.filter (Opd.present f)) ops
    .ok (f, hold)

/-! ## What an instruction reads and writes (R269)

A register is numbered: vector registers and walkers from 0, scalars from 128, predicates from 192, specials from 256. -/

def run (base n k : Nat) : List Nat := (List.range k).map (base + n + ·)

/-- What a write to a special register changes (R308, R309). -/
def specialWrites (n : Nat) : List Nat :=
  if n = 5 then [256 + 5, 256 + 6, 256 + 7]
  else if 0x10 ≤ n && n ≤ 0x17 then [256 + n, 256 + 0x0C, 120 + (n - 0x10)]
  else [256 + n]

def Opd.reads (f : Fields) : Opd → List Nat
  | .vec x rd _ n => if !rd then [] else if x == .b && f.bs then [128 + f.b] else run 0 (f.get x) (n.count f)
  | .c4word => if f.bs then [128 + f.b] else [f.b]
  | .scal x rd _ n => if rd then run 128 (f.get x) (n.count f) else []
  | .pred x rd _ => if rd then run 192 (f.get x) 1 else []
  | .spec x rd _ => if rd then [256 + f.get x] else []
  | .walker => [120 + f.d % 8]
  | _ => []

def Opd.writes (f : Fields) : Opd → List Nat
  | .vec x _ wr n => if wr then run 0 (f.get x) (n.count f) else []
  | .scal x _ wr n => if wr then run 128 (f.get x) (n.count f) else []
  | .pred x _ wr => if wr then run 192 (f.get x) 1 else []
  | .spec x _ wr => if wr then specialWrites (f.get x) else []
  | _ => []

def Row.reads (r : Row) (f : Fields) : List Nat :=
  (if r.name == "RET" then run 128 62 2 else []) ++ (if r.guarded then run 192 f.g 1 else []) ++
    (r.ops.filter (Opd.present f)).flatMap (Opd.reads f)

/-- The special registers whose reads are blocking (R310). -/
def blockingRead (n : Nat) : Bool := (2 ≤ n && n ≤ 7) || n == 0x0C || (0x10 ≤ n && n ≤ 0x17)

/-- What the instruction writes with fixed latency (R170). -/
def Row.writes (r : Row) (f : Fields) : List Nat :=
  if r.fixed && !(r.name == "SREAD" && blockingRead f.a) then (r.ops.filter (Opd.present f)).flatMap (Opd.writes f) else []

/-- One past the highest vector register that the instruction names, and one past its highest tile (R272). -/
def Row.tops (r : Row) (f : Fields) : Nat × Nat :=
  let vs := (r.ops.filter (Opd.present f)).map fun o =>
    match o with
    | .vec x _ _ n => if x == .b && f.bs then 0 else f.get x + n.count f
    | .c4word => if f.bs then 0 else f.b + 1
    | .mem _ _ => f.a + (if f.pair then 2 else 1)
    | .peer => f.low / 256 + 1
    | .walker => 120 + f.d % 8 + 1
    | _ => 0
  let zs := r.ops.map fun o => match o with
    | .tile x => f.get x + 1
    | _ => 0
  (vs.foldl max 0, zs.foldl max 0)

/-- The fields of an instruction's words, read as its row says (R279-R282), at an address. -/
def Row.fields (r : Row) (w : Word) (ext : Option Word) (addr : Nat) : Fields :=
  let x := ext.getD 0
  let q := parseReg w
  let m := parseMm w
  let xr := parseXr x
  let xm := parseXm x
  let long := ext.isSome
  let base : Fields := { d := q.d.toNat, a := q.a.toNat, b := q.b.toNat, g := q.g.toNat, fa := q.fa, fb := q.fb }
  let base : Fields := match r.fmt with
    | .reg => base
    | .ri => { d := base.d, a := base.a, imm := (w.extractLsb' 0 11).toInt }
    | .br => { d := base.d, off := addr + 4 * (w.extractLsb' 0 18).toInt }
    | .mem => { base with b := m.base.toNat, pair := m.pair }
  let base : Fields :=
    if !long then base
    else match r.ext with
      | .none => base
      | .xr => { base with
          minor := xr.minor.toNat, c := xr.c.toNat, g := xr.g.toNat, neg := xr.neg, fc := xr.fc, bs := xr.bs
          mode := xr.mode.toNat, amt := xr.amt.toNat, clamp := xr.clamp, rnd := xr.rnd.toNat }
      | .xm => { base with
          minor := xm.minor.toNat, scope := xm.scope.toNat, order := xm.order.toNat, g := xm.g.toNat, neg := xm.neg
          low := xm.low.toNat }
      | .xi => if r.fmt == .ri then { base with imm := x.toNat } else { base with xi := addr + 4 * x.toInt }
  match r.minorAt with
  | some .d => { base with minor := base.d / 8 * 8 }
  | some .b => { base with minor := base.b }
  | _ => base

/-- The vector registers that an instruction writes, as its operands name them (R266). -/
def vecDests (i : Instr) : List Nat :=
  match encode i with
  | none => []
  | some (cls, ws) =>
    let w := ws.headD 0
    match rows.find? fun r => r.cls == cls && r.major == majorOf w with
    | none => []
    | some r =>
      let f := r.fields w ws[1]? 0
      ((r.ops.filter (Opd.present f)).flatMap (Opd.writes f)).filter (· < 128)

end Sys2Proof.Machine.Bireth
end

