-- ==== Sys2Proof/Machine/Space.lean ====
section
/-! DEFINITION. The address spaces: which package is which (R23, R24), the home of a pool address (R57-R60), the physical
numbers that key `Memory`, the page table (R61-R63) and the translation tiers (R65). -/

namespace Sys2Proof

/-- The die of a core, and the core and die of an endpoint (R6, R7, R15). -/
def CoreId.dieId (c : CoreId) : DieId := { pkg := c.pkg, die := c.die }

def Endpoint.core (e : Endpoint) : CoreId := { pkg := e.pkg, die := e.die, pos := e.pos }

def Endpoint.dieId (e : Endpoint) : DieId := { pkg := e.pkg, die := e.die }

end Sys2Proof

namespace Sys2Proof.Machine

/-- Row and column of a package (R23). -/
def rowOf (p : Nat) : Nat := p / 32
def colOf (p : Nat) : Nat := p % 32

/-- The tray of a package (R24). -/
def trayOf (p : Nat) : Nat := 4 * rowOf p + colOf p / 8

/-- The place that holds a line (R57): package, die, channel or near-store slice, and the byte there. -/
structure Home where
  pkg : Nat
  die : Nat
  near : Bool
  chan : Nat
  loc : Nat
  deriving DecidableEq, Repr

def Home.dieId (h : Home) : DieId := { pkg := h.pkg, die := h.die }

/-- Whether a region holds a pool address (R57). -/
def Region.has (r : Region) (pa : Nat) : Bool := r.mode != 0 && decide (r.base ≤ pa) && decide (pa < r.base + r.size)

def findRegion (t : Tables) (pa : Nat) : Option Region := t.regions.find? (·.has pa)

/-- The members of a region's set, lowest package first (R59). -/
def memberSet (t : Tables) (r : Region) : List Nat := t.members.getD r.member []

/-- The home of a byte offset of a region (R60). -/
def homeIn (members : List Nat) (r : Region) (off : Nat) : Home :=
  let n := off / 128
  let m := members.length
  match r.mode with
  | 1 =>
    let w := 256 * m
    let q := n / w
    let g := (q % 2 ^ 32 * 0x9E3779B1) % 2 ^ 32
    let slot := (n % w + g % w) % w
    { pkg := members.getD (slot % m) 0, die := slot / m % 4, near := false, chan := slot / m / 4
      loc := r.homeBase + q * 128 + off % 128 }
  | 2 =>
    let c := off / 2 ^ 21
    let slot := c % (4 * m)
    { pkg := members.getD (slot % m) 0, die := slot / m, near := false, chan := n % 64
      loc := r.homeBase + (c / (4 * m) * 256 + n % 16384 / 64) * 128 + off % 128 }
  | _ =>
    { pkg := r.pkg, die := r.die, near := r.mode == 4, chan := n % 64
      loc := r.homeBase + n / 64 * 128 + off % 128 }

/-- The home of a pool address, or none: a Region fault (R57). -/
def homeOf (t : Tables) (pa : Nat) : Option Home :=
  (findRegion t pa).map fun r => homeIn (memberSet t r) r (pa - r.base)

/-- The place of a boot address of a package (R117). -/
def bootHome (p b : Nat) : Home :=
  { pkg := p, die := 0, near := false, chan := b / 128 % 64, loc := 128 * (b / 2 ^ 13) + b % 128 }

/-- The physical byte number of a place: package, die, HBM or near store, channel or slice, byte. -/
def physKey (h : Home) : Nat :=
  ((((h.pkg * 4 + h.die) * 2 + (if h.near then 1 else 0)) * 64 + h.chan) * 2 ^ 31) + h.loc

/-- The physical byte number of a byte of a core's unified array (R193), above every pool byte. -/
def arrayKey (c : CoreId) (byte : Nat) : Nat := 2 ^ 49 + ((c.pkg * 4 + c.die) * 64 + c.pos) * 2 ^ 19 + byte

/-- A virtual address is canonical when [63:57] are zero (R56). -/
def canonical (va : DWord) : Bool := decide (va.toNat < 2 ^ 57)

/-- The number of the 64 KiB page of a virtual address, the unit by which misses are merged (R66, R67). -/
def pageOf (va : Nat) : Nat := va / 2 ^ 16

/-- The 128-byte line of an address. -/
def lineOf (a : Nat) : Nat := a / 128

/-- The index of a level of the page table, and log2 of the size of what its entries map (R61). -/
def levelIndex (level va : Nat) : Nat :=
  match level with
  | 1 => bits va 56 41
  | 2 => bits va 40 31
  | 3 => bits va 30 21
  | _ => bits va 20 16

def levelLog (level : Nat) : Nat :=
  match level with
  | 1 => 41
  | 2 => 31
  | 3 => 21
  | _ => 16

/-- log2 of the size of a table of a level (R61). -/
def tableLog (level : Nat) : Nat :=
  match level with
  | 1 => 19
  | 2 => 13
  | 3 => 13
  | _ => 8

/-- What an entry of a level says (R62, R63). -/
inductive Pte where
  | next (table : Nat)
  | leaf (pa log : Nat) (flags : BitVec 6)
  | fault (cause : Nat)
  deriving DecidableEq, Repr

/-- Read one entry by the rules of R63. -/
def readPte (level e : Nat) : Pte :=
  let addr := bits e 49 8 * 256
  let leaf := bits e 1 1 == 1
  if bits e 0 0 = 0 then .fault 0x10
  else if bits e 63 60 != 0 || bits e 58 50 != 0 || bits e 5 5 != 0 then .fault 0x11
  else if (level == 1 && leaf) || (level == 4 && !leaf) then .fault 0x11
  else if leaf then
    if bits e 7 6 == 3 || addr % 2 ^ levelLog level != 0 then .fault 0x11
    else .leaf addr (levelLog level) (BitVec.ofNat 6 (bits e 7 2))
  else if bits e 59 59 != 0 || bits e 7 2 != 0 then .fault 0x11
  else if addr % 2 ^ tableLog (level + 1) != 0 then .fault 0x11
  else .next addr

/-- The permission bits and the cache policy of a translation (R62). -/
def flagWrite (f : BitVec 6) : Bool := f.getLsbD 0
def flagExec (f : BitVec 6) : Bool := f.getLsbD 1
def flagPriv (f : BitVec 6) : Bool := f.getLsbD 2
def flagPolicy (f : BitVec 6) : Nat := f.toNat / 16

def TlbEnt.covers (e : TlbEnt) (va : Nat) : Bool := va / 2 ^ e.log == e.va / 2 ^ e.log

/-- The translation a tier holds for an address. -/
def tlbFind (l : List TlbEnt) (va : Nat) : Option TlbEnt := l.find? (·.covers va)

def TlbEnt.phys (e : TlbEnt) (va : Nat) : Nat := e.pa + va % 2 ^ e.log

/-- Place a translation in the first-level TLB: 128 entries, the least recent dropped (R65). -/
def tlb1Put (l : List TlbEnt) (e : TlbEnt) : List TlbEnt := ((e :: l.filter fun x => !x.covers e.va).take 128)

/-- Use an entry of the first-level TLB: it becomes the most recent. -/
def tlb1Use (l : List TlbEnt) (e : TlbEnt) : List TlbEnt := e :: l.filter (· ≠ e)

/-- The set of the second-level TLB that a translation goes to (R65). -/
def tlb2Set (e : TlbEnt) : Nat := e.va / 2 ^ e.log % 2048

/-- Place a translation in the second-level TLB: 8 ways in a set, the least recent dropped (R65). -/
def tlb2Put (l : List TlbEnt) (e : TlbEnt) : List TlbEnt :=
  let rest := l.filter fun x => !x.covers e.va
  let ways := (rest.filter fun x => tlb2Set x == tlb2Set e).take 7
  e :: rest.filter fun x => tlb2Set x != tlb2Set e || ways.contains x

/-- Remove the translation of the page that contains an address (R412). -/
def tlbDrop (l : List TlbEnt) (va : Nat) : List TlbEnt := l.filter fun x => !x.covers va

end Sys2Proof.Machine
end

