-- ==== Sys2Proof/Machine/Flit.lean ====
section
/-! DEFINITION. The 256-byte flit (R14-R18): its header and checks, request slots (R40, R41) and lines (R43). -/

namespace Sys2Proof.Machine

/-- The 32 bits of an endpoint (R15). -/
def endpointVal (e : Endpoint) : Nat := e.pkg * 2 ^ 23 + e.die * 2 ^ 20 + e.pos * 2 ^ 14 + e.unit * 2 ^ 8

def endpointOf (v : Nat) : Endpoint :=
  { pkg := bits v 31 23, die := bits v 22 20, pos := bits v 19 14, unit := bits v 13 8 }

def coreEndpoint (c : CoreId) : Endpoint := { pkg := c.pkg, die := c.die, pos := c.pos, unit := 0 }

def homeEndpoint (h : Home) : Endpoint := { pkg := h.pkg, die := h.die, pos := 0, unit := 2 }

/-- The front-end die's router of a package: die code 4, unit 3 (R6, R15). -/
def routerEndpoint (p : Nat) : Endpoint := { pkg := p, die := 4, pos := 0, unit := 3 }

/-- The firmware complex of a package (R15). -/
def fwEndpoint (p : Nat) : Endpoint := { pkg := p, die := 4, pos := 0, unit := 4 }

/-- The issuer number that orders SC accesses of one time (R216). -/
def issuerNumber (e : Endpoint) : Nat :=
  if e.unit = 0 then e.pkg * 256 + e.die * 64 + e.pos else 2 ^ 17 + e.pkg * 8 + e.die

/-- One bit of CRC-32C, reflected. -/
def crc32Bit (c : Nat) : Nat := if c % 2 = 1 then Nat.xor (c / 2) 0x82F63B78 else c / 2

def crc32Byte (c : Nat) (b : Byte) : Nat :=
  crc32Bit (crc32Bit (crc32Bit (crc32Bit (crc32Bit (crc32Bit (crc32Bit (crc32Bit (Nat.xor c b.toNat))))))))

/-- CRC-32C of bytes (R14). -/
def crc32c (bs : List Byte) : Nat := Nat.xor (bs.foldl crc32Byte 0xFFFFFFFF) 0xFFFFFFFF

/-- One bit of CRC-64 (ECMA-182), most significant bit first. -/
def crc64Bit (c : Nat) : Nat :=
  if c / 2 ^ 63 % 2 = 1 then Nat.xor (2 * c % 2 ^ 64) 0x42F0E1EBA9EA3693 else 2 * c % 2 ^ 64

def crc64Byte (c : Nat) (b : Byte) : Nat :=
  crc64Bit (crc64Bit (crc64Bit (crc64Bit (crc64Bit (crc64Bit (crc64Bit (crc64Bit (Nat.xor c (b.toNat * 2 ^ 56)))))))))

/-- CRC-64 of bytes (R17). -/
def crc64 (bs : List Byte) : Nat := bs.foldl crc64Byte 0

/-- A flit's header fields (R14) but for the CRC. -/
structure FlitHdr where
  kind : Nat
  slots : Nat
  seq : Nat
  ack : Nat
  creditVc : Nat
  credits : Nat
  src : Endpoint
  dst : Endpoint
  version : Nat
  vc : Nat
  mgmt : Bool
  forwarded : Bool
  row : Bool
  col : Bool
  detour : Bool
  report : Nat
  deriving DecidableEq, Repr

def bit01 (b : Bool) (k : Nat) : Nat := if b then 2 ^ k else 0

/-- The 28 header bytes before the CRC. -/
def hdrBytes (h : FlitHdr) : List Byte :=
  leBytes 1 (16 + h.kind) ++ leBytes 1 h.slots ++ leBytes 2 h.seq ++ leBytes 2 h.ack ++
    leBytes 2 (h.creditVc * 2 ^ 13 + h.credits % 2 ^ 13) ++ leBytes 4 (endpointVal h.src) ++
    leBytes 4 (endpointVal h.dst) ++ leBytes 2 h.version ++
    leBytes 1 (h.vc + bit01 h.mgmt 3 + bit01 h.forwarded 4) ++
    leBytes 1 (bit01 h.row 0 + bit01 h.col 1 + bit01 h.detour 2) ++ leBytes 4 h.report ++ zeros 4

/-- A whole flit: header, HCRC, 224 body bytes (R14). -/
def mkFlit (h : FlitHdr) (body : List Byte) : List Byte :=
  let hb := hdrBytes h
  let b := (body ++ zeros (224 - body.length)).take 224
  hb ++ leBytes 4 (crc32c (hb ++ b)) ++ b

/-- Read a flit's header. -/
def flitHdr (bs : List Byte) : FlitHdr :=
  let k := field bs 18 1
  let r := field bs 19 1
  { kind := field bs 0 1 % 16, slots := field bs 1 1 % 8, seq := field bs 2 2, ack := field bs 4 2
    creditVc := field bs 6 2 / 2 ^ 13, credits := field bs 6 2 % 2 ^ 13, src := endpointOf (field bs 8 4)
    dst := endpointOf (field bs 12 4), version := field bs 16 2, vc := k % 8, mgmt := bits k 3 3 == 1
    forwarded := bits k 4 4 == 1, row := bits r 0 0 == 1, col := bits r 1 1 == 1, detour := bits r 2 2 == 1
    report := field bs 20 4 }

def flitBody (bs : List Byte) : List Byte := bs.drop 32

def hcrcOk (bs : List Byte) : Bool := field bs 28 4 == crc32c (bs.take 28 ++ bs.drop 32)

/-- Whether a slot has a nonzero reserved field (R15, R40): Data 1 is one, but for a CAS and a Broker message. -/
def slotReserved (b : List Byte) : Bool :=
  let op := field b 14 1
  (b.take 12).any (· != 0) || bits (field b 12 1) 7 1 != 0 || bits (field b 16 1) 3 0 != 0 || bits (field b 18 2) 4 0 != 0 ||
    bits (field b 20 4) 7 0 != 0 || bits (field b 24 8) 63 50 != 0 || (op != 0x04 && op != 0x06 && field b 48 8 != 0)

/-- Whether the body of a line has a nonzero reserved field (R15, R17, R43). -/
def lineReserved (b : List Byte) : Bool :=
  bits (field b 129 1) 2 0 != 0 || bits (field b 132 4) 7 0 != 0 || bits (field b 136 8) 63 50 != 0 ||
    bits (field b 144 2) 9 0 != 0 || bits (field b 148 2) 15 10 != 0 || field b 152 8 != 0 || bits (field b 176 4) 31 13 != 0 ||
    field b 180 12 != 0 || field b 200 24 != 0

/-- The checks of R18 on a flit: its HCRC, kind, version, slot count and the reserved fields of the header, of the used slots
and of the line, that make it malformed. A die code of 6 or 7 (R6) or a reserved unit (R15) is a value that never appears in a
valid header; what a receiver does with one is left open, and the model takes such a flit in (log 113, a choice). -/
def flitOk (bs : List Byte) : Bool :=
  let h := flitHdr bs
  bs.length == 256 && hcrcOk bs && field bs 0 1 / 16 == 1 && decide (h.kind ≤ 3) &&
    (if h.kind = 1 then decide (1 ≤ h.slots) && decide (h.slots ≤ 4) else h.slots == 0) &&
    field bs 1 1 / 8 == 0 && field bs 18 1 / 32 == 0 && field bs 19 1 / 8 == 0 && field bs 24 4 == 0 &&
    field bs 8 1 == 0 && field bs 12 1 == 0 &&
    (h.kind != 1 || (List.range h.slots).all fun k => !slotReserved ((flitBody bs).drop (56 * k) |>.take 56)) &&
    (h.kind != 2 || !lineReserved (flitBody bs))

/-- The 56 bytes of a slot (R40). -/
def slotBytes (p : Packet) : List Byte :=
  zeros 12 ++ leBytes 1 (bit01 p.sym 0) ++ leBytes 1 p.atom ++ leBytes 1 p.opcode ++
    leBytes 1 (p.scope * 32 + p.order * 8 + p.size) ++ leBytes 1 (p.round * 16) ++ leBytes 1 p.tag ++
    leBytes 2 (p.warp * 2 ^ 10 + p.lane * 2 ^ 5) ++ leBytes 4 (endpointVal p.issuer) ++ leBytes 8 p.addr ++
    leBytes 16 p.data0.toNat ++ leBytes 8 p.data1.toNat

/-- Read a slot under the header it came with. -/
def slotOf (h : FlitHdr) (bs : List Byte) : Packet :=
  { opcode := field bs 14 1, dst := h.dst, src := h.src, issuer := endpointOf (field bs 20 4)
    warp := field bs 18 2 / 2 ^ 10, lane := field bs 18 2 / 2 ^ 5 % 32, tag := field bs 17 1
    round := field bs 16 1 / 16, scope := field bs 15 1 / 32, order := field bs 15 1 / 8 % 4, size := field bs 15 1 % 8
    atom := field bs 13 1, sym := field bs 12 1 % 2 == 1, addr := field bs 24 8 % 2 ^ 50
    data0 := BitVec.ofNat 128 (field bs 32 16), data1 := BitVec.ofNat 64 (field bs 48 8)
    version := BitVec.ofNat 16 h.version, forwarded := h.forwarded }

/-- The body of a kind-2 flit (R17, R43) with its LCRC; a line that came with a bad one goes on with a bad one (R18). -/
def lineBody (l : LinePkt) : List Byte :=
  let b := (l.data ++ zeros (128 - l.data.length)).take 128 ++ leBytes 1 l.opcode ++
    leBytes 1 (l.scope * 32 + l.order * 8) ++ leBytes 2 l.group ++ leBytes 4 (endpointVal l.issuer) ++
    leBytes 8 l.addr ++ leBytes 2 (l.warp * 2 ^ 10) ++ leBytes 1 l.operator ++ leBytes 1 l.index ++
    leBytes 2 l.folded ++ leBytes 2 l.seq ++ zeros 8 ++ leBytes 16 l.mask.toNat ++
    leBytes 4 (bit01 l.poison 12 + l.round * 2 ^ 8 + l.tag) ++ zeros 12
  b ++ leBytes 8 (crc64 b + (if l.lcrcOk then 0 else 1)) ++ zeros 24

/-- Read a line; an LCRC that fails leaves it poisoned (R18). -/
def lineOfBody (h : FlitHdr) (b : List Byte) : LinePkt :=
  let ok := field b 192 8 == crc64 (b.take 192)
  let t := field b 176 4
  { opcode := field b 128 1, dst := h.dst, src := h.src, issuer := endpointOf (field b 132 4)
    warp := field b 144 2 / 2 ^ 10, tag := t % 256, round := bits t 11 8, scope := field b 129 1 / 32
    order := field b 129 1 / 8 % 4, addr := field b 136 8 % 2 ^ 50, group := field b 130 2, seq := field b 150 2
    index := field b 147 1, operator := field b 146 1, folded := field b 148 2 % 2 ^ 10, data := b.take 128
    mask := BitVec.ofNat 128 (field b 160 16), poison := bits t 12 12 == 1 || !ok, lcrcOk := ok
    version := BitVec.ofNat 16 h.version, forwarded := h.forwarded }

/-- Whether a slot opcode is a reply (R41). -/
def isReply (op : Nat) : Bool := decide (0x80 ≤ op)

/-- The event that a slot's arrival is (R41), where its opcode is not reserved. -/
def packetEvent (op : Nat) : Option Instr :=
  match op with
  | 0x01 => some .readRequest
  | 0x02 => some .writeRequest
  | 0x03 => some .atomicRequest
  | 0x04 => some .casRequest
  | 0x05 => some .mailboxRequest
  | 0x07 => some .lineRead
  | 0x81 => some .readData
  | 0x82 => some .writeAck
  | 0x83 => some .atomicData
  | 0x84 => some .casData
  | 0x85 => some .retryReply
  | 0x86 => some .errorReply
  | _ => none

/-- The kinds of Broker messages (R132). -/
def brokerKinds : List (Nat × Instr) :=
  [(1, .brokerRange), (2, .brokerDone), (3, .brokerSteal), (4, .brokerGrant), (5, .brokerNone), (6, .brokerScan), (7, .brokerReserve),
   (8, .brokerCommit), (9, .brokerRollback), (10, .brokerVacate), (11, .brokerRemap), (12, .brokerSaved)]

/-- The message kind of an event, and the event of a kind. -/
def kindOf (i : Instr) : Nat := ((brokerKinds.find? (·.2 == i)).map (·.1)).getD 0
def eventOfKind (k : Nat) : Option Instr := (brokerKinds.find? (·.1 == k)).map (·.2)

/-- Whether a Broker message has a reserved kind, or a nonzero field that is reserved or zero for its kind (R131, R132). -/
def brokerBad (q : Packet) : Bool :=
  let n := q.data0.toNat
  let v := q.data1.toNat
  (eventOfKind q.atom).isNone || q.size != 4 || q.sym || q.addr != 0 || q.scope != 0 || q.order != 0 || q.warp != 0 || q.lane != 0 ||
    bits n 105 97 != 0 || bits n 63 32 != 0 || decide (2 ^ 32 < bits n 96 64) ||
    match q.atom with
    | 2 => decide (2 ^ 32 ≤ v)
    | 3 => decide (2 ^ 33 ≤ v) || bits n 96 64 != 0 || bits n 31 0 != 0
    | 4 => bits v 62 0 != 0
    | 5 => v != 0 || bits n 96 64 != 0 || bits n 31 0 != 0
    | 6 => decide (2 ^ 16 ≤ v)
    | 7 | 8 | 9 => decide (2 ^ 16 ≤ v) || bits v 7 6 != 0
    | 10 => decide (2 ^ 11 ≤ v) || bits v 7 1 != 0
    | _ => v != 0

/-- The slot of a Broker message (R131). -/
def brokerPacket (i : Instr) (m : BrokerMsg) (src dst : Endpoint) (tag round : Nat) : Packet :=
  { (default : Packet) with
    opcode := 6, dst := dst, src := src, issuer := src, tag := tag, round := round, size := 4, atom := kindOf i
    data0 := BitVec.ofNat 128 (m.grid * 2 ^ 122 + m.seq * 2 ^ 106 + m.count * 2 ^ 64 + m.first), data1 := m.data1 }

/-- What a slot says of a Broker message between two Brokers (R131). -/
def brokerMsgOf (q : Packet) (src dst : BrokerId) (copy : Option BrokerId) : BrokerMsg :=
  let n := q.data0.toNat
  { src := src, dst := dst, grid := bits n 127 122, first := bits n 31 0, count := bits n 96 64, data1 := q.data1, seq := bits n 121 106
    copyOf := copy }

/-- The Broker that an endpoint names: of those on an FE die the package's. -/
def brokerAt (e : Endpoint) : BrokerId := if e.die < 4 then .die e.pkg e.die else .pkg e.pkg

end Sys2Proof.Machine

namespace Sys2Proof

/-- The source and the destination of a packet or line that is on its way between two endpoints of one package. -/
def Arg.ends (a : Arg) : Option (Endpoint × Endpoint) :=
  if a.flag then none
  else if a.q.opcode != 0 then (if a.q.src.pkg = a.q.dst.pkg then some (a.q.src, a.q.dst) else none)
  else if a.l.opcode != 0 then (if a.l.src.pkg = a.l.dst.pkg then some (a.l.src, a.l.dst) else none)
  else none

/-- The master of a request that its boundary has let go (R123). -/
def Arg.letGo (a : Arg) : Option Endpoint :=
  if a.port != 1 then none
  else if a.q.opcode != 0 then some a.q.issuer
  else if a.l.opcode != 0 then some a.l.issuer
  else none

/-- Whether an event has to come before a later one: packets and lines of one source and destination in a package keep their order
(R13), and so do the requests that a released master had waiting (R123). -/
def Arg.leads (a b : Arg) : Bool := (a.ends.isSome && a.ends == b.ends) || (a.letGo.isSome && a.letGo == b.letGo)

end Sys2Proof

namespace Sys2Proof.Machine

/-- The event that a line's arrival is (R43). -/
def lineEvent (op : Nat) : Option Instr :=
  match op with
  | 0x90 => some .lineData
  | 0x91 => some .lineWrite
  | 0x92 => some .linePush
  | 0x93 => some .combineUp
  | 0x94 => some .combineDown
  | 0x95 => some .mcastLine
  | _ => none

/-- A header for a flit that starts at an endpoint; the port fills the rest when it sends (R29-R33). -/
def freshHdr (kind slots vc : Nat) (src dst : Endpoint) (version : BitVec 16) (forwarded : Bool) : FlitHdr :=
  { kind := kind, slots := slots, seq := 0, ack := 0, creditVc := 0, credits := 0, src := src, dst := dst
    version := version.toNat, vc := vc, mgmt := false, forwarded := forwarded, row := false, col := false
    detour := false, report := 0 }

/-- The channel of a packet on its first hop (R29): replies, Broker messages, requests. -/
def packetVc (op : Nat) : Nat := if isReply op then 3 else if op = 0x06 then 7 else 0

/-- The flit of one packet on its first hop (R16, R29). -/
def packetFlit (p : Packet) : List Byte :=
  mkFlit (freshHdr 1 1 (packetVc p.opcode) p.src p.dst p.version p.forwarded) (slotBytes p)

/-- Whether the requests of a flit can stand in an earlier one that has not left its queue (R16): one source die, destination,
channel, version and hop, and room for them. -/
def packs (f g : List Byte) : Bool :=
  let a := flitHdr f
  let b := flitHdr g
  a.kind == 1 && b.kind == 1 && decide (a.slots + b.slots ≤ 4) && a.src.dieId == b.src.dieId && a.dst == b.dst && a.vc == b.vc &&
    a.version == b.version && a.forwarded == b.forwarded && a.row == b.row && a.col == b.col && a.detour == b.detour

/-- A flit with the requests of another behind its own (R16). -/
def packInto (f g : List Byte) : List Byte :=
  let a := flitHdr f
  let b := flitHdr g
  mkFlit { a with slots := a.slots + b.slots } ((flitBody f).take (56 * a.slots) ++ (flitBody g).take (56 * b.slots))

/-- A queue with a flit put at its end, or packed into the last flit that can take it (R16). When a sender packs is left open:
the model packs whenever it can (log 114, a choice). -/
def packQueue (q : List (List Byte)) (f : List Byte) : List (List Byte) :=
  match (q.zipIdx.filter fun x => packs x.1 f).getLast? with
  | some (g, i) => q.set i (packInto g f)
  | none => q ++ [f]

/-- The bytes of a link-control flit (R37) that name failing lanes: the mask in its first two bytes (log 116). -/
def lanesBody (m : BitVec 16) : List Byte := leBytes 2 m.toNat

/-- The flit of one line on its first hop; combining and multicast use channel 6 (R29). -/
def lineFlit (l : LinePkt) : List Byte :=
  let vc := if l.opcode = 0x90 then 3 else if l.opcode = 0x91 || l.opcode = 0x92 then 0 else 6
  mkFlit (freshHdr 2 0 vc l.src l.dst l.version l.forwarded) (lineBody l)

end Sys2Proof.Machine
end

