-- ==== Sys2Proof/Machine/Ops.lean ====
section
/-! DEFINITION. The named operations over the state: units, events and timers, the event recorder, sending and routing,
memory at its homes and in a core's cache, registers and held results, firing events, and taking a trap and returning
from one. -/

namespace Sys2Proof.Machine

namespace State

/-! Units. A unit that its table does not list is at its reset value. -/

def core (s : State) (c : CoreId) : Core := tget s.cores c Core.reset
def die (s : State) (d : DieId) : Die := tget s.dies d Die.reset
def pkg (s : State) (p : Nat) : Package := tget s.pkgs p Package.reset
def warp? (s : State) (w : WarpId) : Option Warp := tget? s.warps w
def block? (s : State) (b : BlockId) : Option Block := tget? s.blocks b
def launch? (s : State) (h : Nat) : Option Launch := tget? s.launches h

def setCore (s : State) (c : CoreId) (v : Core) : State := { s with cores := tset s.cores c v }
def setDie (s : State) (d : DieId) (v : Die) : State := { s with dies := tset s.dies d v }
def setPkg (s : State) (p : Nat) (v : Package) : State := { s with pkgs := tset s.pkgs p v }
def setWarp (s : State) (w : WarpId) (v : Warp) : State := { s with warps := tset s.warps w v }
def setBlock (s : State) (b : BlockId) (v : Block) : State := { s with blocks := tset s.blocks b v }
def setLaunch (s : State) (h : Nat) (v : Launch) : State := { s with launches := tset s.launches h v }

def updCore (s : State) (c : CoreId) (f : Core → Core) : State := s.setCore c (f (s.core c))
def updDie (s : State) (d : DieId) (f : Die → Die) : State := s.setDie d (f (s.die d))
def updPkg (s : State) (p : Nat) (f : Package → Package) : State := s.setPkg p (f (s.pkg p))

/-- Update a warp that is there. -/
def updWarp (s : State) (w : WarpId) (f : Warp → Warp) : State :=
  match s.warp? w with
  | some v => s.setWarp w (f v)
  | none => s

def updBlock (s : State) (b : BlockId) (f : Block → Block) : State :=
  match s.block? b with
  | some v => s.setBlock b (f v)
  | none => s

def updLaunch (s : State) (h : Nat) (f : Launch → Launch) : State :=
  match s.launch? h with
  | some v => s.setLaunch h (f v)
  | none => s

/-! Events that have come about and timers. -/

/-- An event is due. -/
def post (s : State) (i : Instr) (arg : Arg) : State := { s with inflight := s.inflight ++ [(i, arg)] }

/-- An event is due, once. -/
def postOnce (s : State) (i : Instr) (arg : Arg) : State :=
  if s.inflight.contains (i, arg) then s else s.post i arg

/-- An event is due after a time in nanoseconds. -/
def after (s : State) (ns : Nat) (i : Instr) (arg : Arg) : State :=
  { s with timers := s.timers ++ [(s.now + ns, i, arg)] }

def afterOnce (s : State) (ns : Nat) (i : Instr) (arg : Arg) : State :=
  if s.timers.any fun t => t.2 == (i, arg) then s else s.after ns i arg

/-- An event is due no more. -/
def cancel (s : State) (i : Instr) (arg : Arg) : State :=
  { s with timers := s.timers.filter fun t => t.2 != (i, arg), inflight := s.inflight.filter (· != (i, arg)) }

/-- Domain time at a package (R96). -/
def timeAt (s : State) (p : Nat) : DWord := (s.pkg p).time

/-- The requester timeout in nanoseconds (R45). -/
def timeoutNs (s : State) : Nat := s.dom.timeout * 10000

/-- A free choice among n acts (Config.pick), counted by `picks`. -/
def choose (s : State) (n : Nat) : Nat × State :=
  (Config.pick n s.picks % n, { s with picks := s.picks + 1 })

/-- A free value (Config.freeWord), counted by `free`. -/
def freeValue (s : State) : DWord × State := (Config.freeWord s.free, { s with free := s.free + 1 })

/-- Choose the bytes of a transfer that are performed next (R219): any run of them, down to one byte, in any order. `left` lists the runs
that remain, each by row, offset and length; with the choice stand those that remain then. -/
def pickRun (s : State) (left : List (Nat × Nat × Nat)) : Option ((Nat × Nat × Nat) × List (Nat × Nat × Nat) × State) :=
  match left with
  | [] => none
  | [(r, o, 1)] => some ((r, o, 1), [], s)
  | _ =>
    let (v, s) := s.freeValue
    let i := v.toNat % 2 ^ 32 % left.length
    let (r, o, n) := left.getD i (0, 0, 0)
    let a := v.toNat / 2 ^ 32 % 2 ^ 16 % n
    let k := v.toNat / 2 ^ 48 % (n - a) + 1
    let rest := [(r, o, a), (r, o + a + k, n - a - k)].filter fun x => x.2.2 != 0
    some ((r, o + a, k), left.eraseIdx i ++ rest, s)

end State

/-- The severity of an event code (R120, R121). -/
def severityOf (code : Nat) : Nat :=
  match code with
  | 0x0001 => 1
  | 0x0040 => 3
  | 0x0080 => 3
  | 0x0091 => 3
  | 0x0042 => 0
  | 0x0050 => 0
  | 0x0051 => 0
  | 0x0061 => 0
  | 0x0090 => 0
  | 0x0010 => 1
  | 0x0011 => 1
  | _ => 2

namespace State

/-- Write an event record; the recorder holds the last 8,192 (R119-R121). -/
def log (s : State) (p : Nat) (src : Endpoint) (code tag : Nat) (data : DWord) : State :=
  s.updPkg p fun k =>
    let e : EventRec :=
      { seq := k.evNext, source := src, time := k.time, code := code, severity := severityOf code, tag := tag
        data := data }
    { k with evNext := (k.evNext + 1) % 2 ^ 32
             events := (k.events ++ [e]).drop (k.events.length + 1 - Config.recorderSize) }

/-- The recorder's contents go to flash, which keeps two copies (R119): once for a fatal error or a loss of VIN. -/
def toFlash (s : State) (p : Nat) : State := s.updPkg p fun k => { k with flash := (k.events :: k.flash).take 2 }

/-! Membership and the fabric. -/

/-- Whether a package is a domain member (R23): inside the rectangle, released, not lost. A domain that is not configured
has no member. -/
def isMember (s : State) (p : Nat) : Bool :=
  s.dom.configured && decide (rowOf p < s.dom.nrow) && decide (colOf p < s.dom.ncol) && s.dom.release.contains p &&
    !s.lost.contains p

/-- The members, in ascending order. -/
def members (s : State) : List Nat := (List.range 512).filter s.isMember

end State

/-- The port of package p toward package p' of its row or column (R25). -/
def portTo (p p' : Nat) : Nat :=
  if rowOf p = rowOf p' then (if colOf p' < colOf p then colOf p' else colOf p' - 1)
  else (if rowOf p' < rowOf p then 31 + rowOf p' else 30 + rowOf p')

/-- The package at the far end of a port (R25). -/
def farEnd (p port : Nat) : Nat :=
  if port ≤ 30 then 32 * rowOf p + (if port < colOf p then port else port + 1)
  else 32 * (if port - 31 < rowOf p then port - 31 else port - 30) + colOf p

def Port.dark : Port :=
  { state := 0, rxLanes := BitVec.allOnes 16, txLanes := BitVec.allOnes 16, queue := [], seqOut := 0, seqIn := 0
    ackIn := 0, retry := [], credits := [], owed := [], lastVc := [], reports := [], sweep := 0, slots := 0 }

namespace State

/-- A port; one that was never touched is up when its far end is a member (R25). -/
def port (s : State) (p n : Nat) : Port :=
  match tget? (s.pkg p).ports n with
  | some v => v
  | none => if s.isMember (farEnd p n) then { Port.dark with state := 1 } else Port.dark

def setPort (s : State) (p n : Nat) (v : Port) : State := s.updPkg p fun k => { k with ports := tset k.ports n v }

/-- The next package of a flit that is past its first hop, or on a direct route (R34). -/
def nextHop (p d : Nat) : Nat :=
  if rowOf p = rowOf d || colOf p = colOf d then d else 32 * rowOf d + colOf p

/-- The depth of a port's own queue; a port that is retraining or dead counts 1023 (R33). -/
def depth (s : State) (p n : Nat) : Nat :=
  let v := s.port p n
  if v.state = 1 then min v.queue.length 1023 else 1023

/-- The far-link depth last reported by neighbour m for its port toward a package (R33, R35). -/
def farDepth (s : State) (p m d : Nat) : Nat := tget (s.port p (portTo p m)).reports (portTo m d) 1023

/-- A candidate route (R34): the first-hop package, whether it is a detour, its cost. -/
def routeOf (s : State) (p m d : Nat) (detour : Bool) (via : List Nat) : List (Nat × Bool × Nat) :=
  if via.all s.isMember && (s.port p (portTo p m)).state != 3 then
    let far := if m = d then 0 else s.farDepth p m (nextHop m d)
    [(m, detour, s.depth p (portTo p m) + far + (if detour then (s.pkg p).bias else 0))]
  else []

/-- The four detour candidates in rotation (R34). -/
def detourCols (s : State) (p d : Nat) : List Nat :=
  let cols := (List.range s.dom.ncol).filter fun c =>
    c != colOf p && c != colOf d && s.isMember (32 * rowOf p + c)
  let k := (s.pkg p).detour % max cols.length 1
  ((cols.drop k) ++ (cols.take k)).take 4

/-- The candidates in tie order: direct, row first, column first, detours (R34, R35). -/
def routes (s : State) (p d : Nat) : List (Nat × Bool × Nat) :=
  let direct := rowOf p = rowOf d || colOf p = colOf d
  let rf := 32 * rowOf p + colOf d
  let cf := 32 * rowOf d + colOf p
  (if direct then s.routeOf p d d false [d]
   else s.routeOf p rf d false [rf, d] ++ s.routeOf p cf d false [cf, d]) ++
    (s.detourCols p d).flatMap fun c =>
      let i := 32 * rowOf p + c
      s.routeOf p i d true (if rowOf p = rowOf d then [i, d] else [i, 32 * rowOf d + c, d])

/-- Whether requests of a package reach another one, and their answers come back (R35): without a candidate route they are discarded. -/
def reaches (s : State) (p d : Nat) : Bool := p == d || (!(s.routes p d).isEmpty && !(s.routes d p).isEmpty)

/-- The least cost, the first of the list among equals. -/
def cheapest : List (Nat × Bool × Nat) → Option (Nat × Bool × Nat)
  | [] => none
  | r :: rs =>
    match cheapest rs with
    | none => some r
    | some r' => if r.2.2 ≤ r'.2.2 then some r else some r'

/-- The channel of a flit on hop k + 1 (R29). -/
def hopVc (vc k : Nat) : Nat := if vc ≤ 2 then min k 2 else if vc ≤ 5 then 3 + min k 2 else vc

/-- Rewrite a flit's header; its HCRC follows (R18). -/
def reheader (f : List Byte) (g : FlitHdr → FlitHdr) : List Byte := mkFlit (g (flitHdr f)) (flitBody f)

/-- Put a flit in the output queue of the port toward a neighbour by `put`; the port will transmit. A flit whose later hop is
fixed waits in the queue of a dead port until the port is enabled again, when its queue is empty (log 118, a choice). -/
def enqueueBy (s : State) (p m : Nat) (put : List (List Byte) → List (List Byte)) : State :=
  let n := portTo p m
  let v := s.port p n
  (s.setPort p n { v with queue := put v.queue }).postOnce .flitTransmit { p := p, port := n }

/-- Put a flit at the end of the output queue of the port toward a neighbour. Of a flit of channel 6 that a tree's fixed port takes, R34
gives no hop bits: they stay zero (log 144, a choice). -/
def enqueue (s : State) (p m : Nat) (f : List Byte) : State := s.enqueueBy p m (· ++ [f])

/-- Route a flit for its first hop (R35): without a candidate it is discarded and recorded. Its requests may join a flit that
is still in the queue (R16). The rotation over the detour columns (R34) advances by one with each flit that is routed (log 119,
a choice). -/
def sendFlit (s : State) (p : Nat) (f : List Byte) : State :=
  let h := flitHdr f
  match cheapest (s.routes p h.dst.pkg) with
  | none => s.log p (routerEndpoint p) 0x0020 0 (BitVec.ofNat 64 (field f 0 8))
  | some (m, detour, _) =>
    let s := s.updPkg p fun k => { k with detour := k.detour + 1 }
    let f := reheader f fun h =>
      { h with vc := hopVc h.vc 0, detour := detour, row := rowOf p == rowOf m, col := rowOf p != rowOf m }
    s.enqueueBy p m fun q => packQueue q f

/-- A reply to a request (R41). One that brings data has the size of the request, beyond which Data 0 is zero (R40). -/
def replyTo (s : State) (q : Packet) (src : Endpoint) (op : Nat) (data : Nat) : Packet :=
  { (default : Packet) with
    opcode := op, dst := q.issuer, src := src, issuer := q.issuer, warp := q.warp, lane := q.lane, tag := q.tag
    round := q.round, size := if op = 0x81 || op = 0x83 || op = 0x84 then q.size else 0, addr := q.addr, data0 := BitVec.ofNat 128 data, version := (s.die src.dieId).cur.version }

/-- What a reply to a line carries of it. -/
def ofLine (l : LinePkt) : Packet :=
  { (default : Packet) with
    opcode := l.opcode, dst := l.dst, src := l.src, issuer := l.issuer, warp := l.warp, tag := l.tag, round := l.round
    scope := l.scope, order := l.order, addr := l.addr, version := l.version, forwarded := l.forwarded }

/-- The message that a Broker has sent in a slot. Several Brokers may stand at one endpoint (R131); which one sent the slot, and which
one it is for, the tag and the round tell of those that it has sent under them. -/
def brokerSent (s : State) (q : Packet) : Option BrokerMsg :=
  s.brokers.findSome? fun x =>
    match tget? x.2.sent (q.tag, q.round) with
    | some (r, m) =>
      if r.issuer == q.issuer && r.dst == q.dst && r.atom == q.atom && r.data0 == q.data0 && r.data1 == q.data1 then some m else none
    | none => none

/-- A slot arrives at a unit that is no Broker. -/
def arriveSlot (s : State) (q : Packet) : State :=
  match packetEvent q.opcode with
  | some i => s.post i { q := q }
  | none => s

/-- A packet arrives at a unit of a package; a malformed Broker message is answered with ERROR (R132). -/
def arrive (s : State) (q : Packet) : State :=
  if q.opcode != 6 then s.arriveSlot q
  else if brokerBad q then
    let r := s.replyTo q q.dst 0x86 7
    if r.src.pkg = r.dst.pkg then s.arriveSlot r else s.sendFlit r.src.pkg (packetFlit r)
  else match eventOfKind q.atom with
    | some i =>
      let m := match s.brokerSent q with
        | some m => brokerMsgOf q m.src m.dst m.copyOf
        | none => brokerMsgOf q (brokerAt q.issuer) (brokerAt q.dst) none
      s.post i { k := m.dst, m := m, q := q }
    | none => s

/-- A line arrives at a unit of a package. -/
def arriveLine (s : State) (l : LinePkt) : State :=
  match lineEvent l.opcode with
  | some i => s.post i { p := l.dst.pkg, l := l }
  | none => s

/-! Frozen masters (R122, R123). -/

/-- Whether a master is frozen at a boundary of a package. -/
def isFrozen (s : State) (p : Nat) (e : Endpoint) : Bool := (s.pkg p).frozen.any (·.who == e)

def updFrozen (s : State) (p : Nat) (e : Endpoint) (f : FrozenMaster → FrozenMaster) : State :=
  s.updPkg p fun k => { k with frozen := k.frozen.map fun x => if x.who == e then f x else x }

/-- Hold an event of a frozen master. -/
def hold (s : State) (p : Nat) (e : Endpoint) (i : Instr) (a : Arg) : State :=
  s.updFrozen p e fun x => { x with held := x.held ++ [(i, a)] }

/-- The data of a frozen master's event records (R121): its endpoint, and the violation by its place in R122's table (log 128). -/
def frozenData (e : Endpoint) (violation : Nat) : DWord := BitVec.ofNat 64 (endpointVal e + violation * 2 ^ 32)

/-- Freeze a master and record it: a core stops issuing, a Porter stops between two transfers. -/
def freeze (s : State) (p : Nat) (e : Endpoint) (violation : Nat) : State :=
  let s := (s.updPkg p fun k => { k with frozen := k.frozen ++ [{ who := e, violation := violation, held := [], lines := [] }] }).log p
    (routerEndpoint p) 0x0041 0 (frozenData e violation)
  if 4 ≤ e.die then s
  else match e.unit with
    | 0 => s.updCore e.core fun k => { k with frozen := true }
    | 1 => s.updCore e.core fun k => { k with porterFrozen := true }
    | _ => s

/-- Whether a home's line is for firmware only (R122). -/
def guarded (s : State) (h : Home) : Bool :=
  (s.pkg h.pkg).guarded.any fun r => decide (r.1 ≤ lineOf (physKey h)) && decide (lineOf (physKey h) < r.2)

/-- Whether a home does not let an access of a master pass: the master is frozen there, or the line is for firmware only (R122). -/
def barred (s : State) (h : Home) (e : Endpoint) : Bool :=
  s.isFrozen h.pkg e || (s.guarded h && (e.unit ≤ 1 || e.unit == 5))

/-- A request passes the check of its home, or its master is frozen and the request is held there (R122, R123). One that was held
and let go (port 1) passes. -/
def passHome (s : State) (h : Home) (i : Instr) (e : Endpoint) (f : State → State) : State :=
  if s.arg.port = 1 || !s.barred h e then f s
  else (if s.isFrozen h.pkg e then s else s.freeze h.pkg e 1).hold h.pkg e i s.arg

/-- Send a packet from its source endpoint to its destination. -/
def send (s : State) (q : Packet) : State :=
  if q.src.pkg = q.dst.pkg then s.arrive q else s.sendFlit q.src.pkg (packetFlit q)

/-- ERROR with a cause (R42). -/
def refuse (s : State) (q : Packet) (src : Endpoint) (cause : Nat) : State := s.send (s.replyTo q src 0x86 cause)

/-- Send a line from its source endpoint to its destination. -/
def sendLine (s : State) (l : LinePkt) : State :=
  if l.src.pkg = l.dst.pkg then s.arriveLine l else s.sendFlit l.src.pkg (lineFlit l)

/-! Memory at its home, and in the first-level cache of a core. -/

/-- The home of a pool address under a die's current table (R57, R72). -/
def homeAt (s : State) (d : DieId) (pa : Nat) : Option Home := homeOf (s.die d).cur pa

/-- A byte at its home. -/
def homeByte (s : State) (d : DieId) (pa : Nat) : Byte :=
  match s.homeAt d pa with
  | some h => s.mem.read (physKey h)
  | none => unlisted

/-- The n bytes from pa at their homes. -/
def homeBytes (s : State) (d : DieId) (pa : Nat) : Nat → List Byte
  | 0 => []
  | n + 1 => s.homeByte d pa :: s.homeBytes d (pa + 1) n

/-- Write one byte at its home. -/
def homePut (s : State) (d : DieId) (pa : Nat) (b : Byte) : State :=
  match s.homeAt d pa with
  | some h => { s with mem := s.mem.write (physKey h) b }
  | none => s

def homePuts (s : State) (d : DieId) (pa : Nat) : List Byte → State
  | [] => s
  | b :: bs => (s.homePut d pa b).homePuts d (pa + 1) bs

/-- The n bytes from a boot address of a package (R117). -/
def bootBytes (s : State) (p b n : Nat) : List Byte := (List.range n).map fun i => s.mem.read (physKey (bootHome p (b + i)))

def bootPuts (s : State) (p b : Nat) : List Byte → State
  | [] => s
  | x :: xs => ({ s with mem := s.mem.write (physKey (bootHome p b)) x } : State).bootPuts p (b + 1) xs

/-- The byte at a local pool address, which is the same on every member (R116): the place that the tables give, in the package's
own memory (R48; log 54). -/
def localByte (s : State) (t : Tables) (p pa : Nat) : Byte :=
  match homeOf t pa with
  | some h => s.mem.read (physKey { h with pkg := p })
  | none => unlisted

/-- Entry e of a package's symmetric map under tables (R48, R116). -/
def symEntryOf (s : State) (t : Tables) (map p e : Nat) : Nat := leVal ((List.range 8).map fun i => s.localByte t p (map + 8 * e + i))

def symEntry (s : State) (p e : Nat) : Nat := s.symEntryOf (s.die { pkg := p, die := 0 }).cur s.dom.symMap p e

/-- An entry as the package's router finds it: in its cache of resolved entries, else in the map (R48). -/
def symCached (s : State) (p e : Nat) : Nat := (tget? (s.pkg p).symCache e).getD (s.symEntry p e)

/-- The pool address of a symmetric offset on a package, when it is mapped (R48). -/
def symResolve (s : State) (p o : Nat) : Option Nat :=
  if s.dom.symSize ≤ o / 2 ^ 21 then none
  else
    let e := s.symCached p (o / 2 ^ 21)
    if bits e 63 63 = 0 then none else some (bits e 49 21 * 2 ^ 21 + o % 2 ^ 21)

/-- The router keeps the entry that it has resolved, the least recently used of 512 going (R48). -/
def symKeep (s : State) (p o : Nat) : State :=
  let e := o / 2 ^ 21
  s.updPkg p fun k => { k with symCache := ((e, s.symCached p e) :: tdel k.symCache e).take 512 }

/-- The symmetric offset of a pool address by a package's own map: the lowest valid entry that names its chunk (R359). -/
def symSearch (s : State) (p pa : Nat) : Option Nat :=
  ((List.range s.dom.symSize).find? fun e =>
    let v := s.symEntry p e
    bits v 63 63 == 1 && bits v 49 21 == pa / 2 ^ 21).map fun e => 2 ^ 21 * e + pa % 2 ^ 21

/-- Whether the line of a place is poisoned (R427). -/
def isPoisoned (s : State) (h : Home) : Bool := s.poisoned.contains (lineOf (physKey h))

/-- The core that holds a line pinned, at its home (R206). -/
def pinHolder (s : State) (h : Home) : Option CoreId := tget? (s.die h.dieId).pins (lineOf (physKey h))

/-- A line of a core's first-level cache. -/
def cached (s : State) (c : CoreId) (pa : Nat) : Option CacheLine :=
  (s.core c).lines.find? fun l => l.pa == lineOf pa * 128

def setLine (s : State) (c : CoreId) (l : CacheLine) : State :=
  s.updCore c fun k => { k with lines := l :: k.lines.filter fun x => x.pa != l.pa }

def dropLine (s : State) (c : CoreId) (pa : Nat) : State :=
  s.updCore c fun k => { k with lines := k.lines.filter fun x => x.pa != lineOf pa * 128 }

/-- A byte as a core-scope load of a core finds it: in its cache, else at the home (R204). -/
def coreByte (s : State) (c : CoreId) (pa : Nat) : Byte :=
  match s.cached c pa with
  | some l => l.data.getD (pa % 128) 0
  | none => s.homeByte c.dieId pa

def coreBytes (s : State) (c : CoreId) (pa : Nat) : Nat → List Byte
  | 0 => []
  | n + 1 => s.coreByte c pa :: s.coreBytes c (pa + 1) n

/-! Scratchpad (R193, R194, R200). -/

end State

/-- The array byte of offset o of a block's scratchpad (R194). -/
def Block.arrayByte (b : Block) (o : Nat) : Nat := b.grans.getD (o / 2 ^ 14) 0 * 2 ^ 14 + o % 2 ^ 14

/-- The scratchpad grant of a block in bytes. -/
def Block.grant (b : Block) : Nat := b.scratchKiB * 1024

namespace State

def scratchByte (s : State) (b : Block) (o : Nat) : Byte := s.mem.read (arrayKey b.core (b.arrayByte o))

def scratchBytes (s : State) (b : Block) (o : Nat) : Nat → List Byte
  | 0 => []
  | n + 1 => s.scratchByte b o :: s.scratchBytes b (o + 1) n

def scratchPut (s : State) (b : Block) (o : Nat) : List Byte → State
  | [] => s
  | x :: xs => ({ s with mem := s.mem.write (arrayKey b.core (b.arrayByte o)) x } : State).scratchPut b (o + 1) xs

end State

/-! Registers of a warp. -/

namespace Warp

def sreg (w : Warp) (r : Nat) : Word := w.s.getD r 0
def vreg (w : Warp) (r : Nat) : VReg := w.v.getD r zeroReg

/-- A predicate; p0 is true in every lane (R284). -/
def preg (w : Warp) (r : Nat) : Mask := if r = 0 then BitVec.allOnes 32 else w.p.getD r 0

/-- An even pair of scalars as one value, low half first. -/
def spair (w : Warp) (r : Nat) : DWord := pairVal (w.sreg r) (w.sreg (r + 1))

def setS (w : Warp) (r : Nat) (v : Word) : Warp := { w with s := lput w.s r v 0 }
def setV (w : Warp) (r : Nat) (v : VReg) : Warp := { w with v := lput w.v r v zeroReg }

/-- Write lanes at a commit; writing a register without reading it clears its poison (R174). With no lane nothing changes (R322).
The register stays empty where a long-latency instruction of the other slot has marked it empty since (R173). -/
def putLanes (w : Warp) (r : Nat) (act : Mask) (l : Lanes) : Warp :=
  w.setV r (if act = 0 then w.vreg r else { w.vreg r with lanes := mergeLanes act (w.vreg r).lanes l, poison := none })

/-- Write predicate bits; a write to p0 is discarded (R284). -/
def putP (w : Warp) (r : Nat) (act bits : Mask) : Warp :=
  if r = 0 then w else { w with p := lput w.p r (mergeMask act (w.p.getD r 0) bits) 0 }

def markEmpty (w : Warp) (r : Nat) : Warp := w.setV r { w.vreg r with full := false }
def markFull (w : Warp) (r : Nat) : Warp := w.setV r { w.vreg r with full := true }

def slot (w : Warp) (x : PcSel) : PcSlot :=
  match x with
  | .a => w.a
  | .b => w.b

def setSlot (w : Warp) (x : PcSel) (v : PcSlot) : Warp :=
  match x with
  | .a => { w with a := v }
  | .b => { w with b := v }

def walker (w : Warp) (k : Nat) : Walker := w.walkers.getD k default

/-- The walker that a vector register field names, when it is bound (R182). -/
def boundWalker (w : Warp) (r : Nat) : Option Nat :=
  if 120 ≤ r && (w.walker (r - 120)).bound != 0 then some (r - 120) else none

/-- The lanes that have not exited: both slots and the divergence stack hold them (R175). -/
def live (w : Warp) : Mask := w.a.mask ||| w.b.mask

/-- A warp that holds no lane: it has exited, or REGROUP has moved its lanes elsewhere (R179, R181). -/
def laneless (w : Warp) : Bool := w.exited || (w.a.mask == 0 && w.b.mask == 0 && w.dsp == 0)

def flight? (w : Warp) (id : Nat) : Option Flight := w.flights.find? (·.id == id)

def updFlight (w : Warp) (id : Nat) (f : Flight → Flight) : Warp :=
  { w with flights := w.flights.map fun x => if x.id == id then f x else x }

/-- Issued memory, remote and engine instructions not yet performed (R245). -/
def countedFlights (w : Warp) : Nat := (w.flights.filter (·.counted)).length

/-- Issued long-latency instructions whose results are not yet written (R170). -/
def longFlights (w : Warp) : Nat := (w.flights.filter fun f => !f.dest.isEmpty).length

end Warp

/-- The other PC slot. -/
def PcSel.other : PcSel → PcSel
  | .a => .b
  | .b => .a

/-- A PC slot that holds lanes (R175). -/
def PcSlot.live (p : PcSlot) : Bool := p.mask != 0

/-! Held results and their commit (R171, R303, R308). -/

/-- One committed result. -/
def commitOne (w : Warp) : Held → Warp
  | .s r v => w.setS r v
  | .v r act l => w.putLanes r act l
  | .p r act b => w.putP r act b
  | .special n v =>
    match n with
    | 0x03 => { w with evm := v.truncate 8 }
    | 0x05 => { w with rff := 0, rffMore := 0, rffol := 0, rffoh := 0 }
    | 0x08 => { w with tvec := (hiWord w.tvec) ++ (loWord v &&& 0xFFFFFFFC) }
    | 0x09 => { w with tvec := (loWord v &&& 0x01FFFFFF) ++ (loWord w.tvec) }
    | _ => w
  | .walk k bound desc =>
    let w := if bound = 0 then (if 16 ≤ w.units then w.setV (120 + k) zeroReg else w) else w
    { w with walkers := lput w.walkers k { bound := bound, desc := desc, i0 := 0, i1 := 0, i2 := 0, pre := [] } default
             wef := w.wef &&& ~~~((7 : Word) <<< (3 * k)) }

/-- Commit the held results of a slot in word order. -/
def commitHeld (w : Warp) (x : PcSel) : Warp :=
  let sl := w.slot x
  let w := sl.held.foldl commitOne w
  w.setSlot x { w.slot x with held := [] }

/-- Whether a held result of the slot writes a vector register; unbinding a walker writes its register (R309). -/
def heldWritesV (sl : PcSlot) (r : Nat) : Bool :=
  sl.held.any fun h => match h with
    | .v r' _ _ => r' == r
    | .walk k b _ => b == 0 && 120 + k == r
    | _ => false

/-- Whether an earlier word of the slot's clause has a long-latency result that is not yet written (R171). -/
def clausePending (w : Warp) (x : PcSel) : Bool :=
  w.flights.any fun f => f.by_ == x && decide ((w.slot x).first ≤ f.id) && !f.dest.isEmpty

/-- Of what two slots know of their last SC access, what the thread knows that continues both (R211, R216). -/
def laterSc (a b : Option (Nat × Bool)) : Option (Nat × Bool) :=
  match a, b with
  | some x, some y => if x.1 < y.1 then b else if y.1 < x.1 then a else some (x.1, x.2 || y.2)
  | some _, none => a
  | none, _ => b

/-- What the threads of a warp know together of their last SC access: those of its slots and those on its stack (R216). -/
def Warp.scAll (w : Warp) : Option (Nat × Bool) :=
  (List.range w.dsp).foldl (fun a i => laterSc a (tget? w.scStack i)) (laterSc w.a.scLast w.b.scLast)

/-! Positions (R250). -/

def slotForm (p : PcSlot) : DWord :=
  BitVec.ofNat 64 (p.pc.toNat % 2 ^ 57 / 4 * 4 + p.k * 2 ^ 58 + bit01 p.parkedJoin 1 + bit01 p.parkedWait 0)

def instrForm (pc : DWord) (k : Nat) : DWord := BitVec.ofNat 64 (pc.toNat % 2 ^ 57 / 4 * 4 + k * 2 ^ 58)

/-- J in the layout of frame bytes 56-63 (R249). -/
def joinForm (j : Option DWord) : DWord :=
  match j with
  | some a => BitVec.ofNat 64 (a.toNat % 2 ^ 57 / 4 * 4 + 2 ^ 63)
  | none => 0

/-- The slot that a form and a mask describe, at a clause boundary or in a clause, of which it has then issued words (R168, R250). -/
def slotOfForm (form : DWord) (mask : Mask) : PcSlot :=
  if mask = 0 then PcSlot.empty
  else { PcSlot.empty with
    mask := mask, pc := BitVec.ofNat 64 (form.toNat % 2 ^ 57 / 4 * 4), k := bits form.toNat 61 58
    claimed := bits form.toNat 61 58 != 0
    parkedJoin := form.getLsbD 1, parkedWait := form.getLsbD 0 }

/-! Addresses of the context registry (R255-R258). -/

/-- Sizes of a block slot (R258): a warp area and the whole slot. -/
def warpArea (units tiles stack : Nat) : Nat := 11264 + 1024 * units + 4096 * tiles + 16 * stack

def slotBytesOf (units tiles stack warps grans : Nat) : Nat :=
  (4096 + warps * warpArea units tiles stack + 16384 * grans + 65535) / 65536 * 65536

namespace State

/-- A word of the registry header (R255), read by the device. -/
def registryWord (s : State) (off : Nat) : Nat := leVal (s.homeBytes { pkg := s.members.headD 0, die := 0 } (s.dom.registry + off) 8)

/-- The pool address of a block's slot in its package's heap (R255, R257). -/
def slotPool (s : State) (b : Block) : Nat :=
  s.dom.registry + 4096 + 8404992 + b.core.pkg * (s.registryWord 16) * 65536 + b.heap

/-- The virtual address of the registry's pool address. -/
def registryVirtual (s : State) (pa : Nat) : Nat := s.registryWord 8 + (pa - s.dom.registry)

/-- The pool address of a warp's area (R258). -/
def areaPool (s : State) (b : Block) (w : Warp) : Nat :=
  s.slotPool b + 4096 + w.num * warpArea b.units b.tiles b.stack

/-- The pool address of a warp's frame (R258). -/
def framePool (s : State) (b : Block) (w : Warp) : Nat := s.areaPool b w + 3072

/-- The frame's virtual address, TFA (R248, R258). -/
def tfa (s : State) (w : Warp) : DWord :=
  match s.block? w.block with
  | some b => BitVec.ofNat 64 (s.registryVirtual (s.framePool b w))
  | none => 0

/-- The pool address of entry i of a warp's divergence stack (R178, R258). -/
def stackPool (s : State) (b : Block) (w : Warp) (i : Nat) : Nat :=
  s.areaPool b w + 11264 + 1024 * b.units + 4096 * b.tiles + 16 * i

/-- The device writes registry bytes: at the home, and in a copy that the block's own core caches. -/
def deviceWrite (s : State) (c : CoreId) (pa : Nat) (bs : List Byte) : State :=
  let s := s.homePuts c.dieId pa bs
  s.updCore c fun k => { k with lines := k.lines.map fun l =>
    { l with data := (List.range l.data.length).map fun i =>
        if pa ≤ l.pa + i && l.pa + i < pa + bs.length then bs.getD (l.pa + i - pa) 0 else l.data.getD i 0 } }

/-! Events of a warp (R185-R189). -/

/-- The event slots for which f holds fire: their EVP bits are set and they disarm (R186). -/
def fireSlots (s : State) (w : WarpId) (f : EventSlot → Bool) : State :=
  s.updWarp w fun v =>
    let hit := fun e : EventSlot => e.armed && f e
    let evp := (List.range 8).foldl (fun m i =>
      if hit (v.events.getD i default) then m ||| ((1 : BitVec 8) <<< i) else m) v.evp
    { v with evp := evp
             events := v.events.map fun e => if hit e then { e with armed := false, fired := true } else e }

/-- Fire slots of every warp of a core. -/
def fireCore (s : State) (c : CoreId) (f : EventSlot → Bool) : State :=
  (s.warps.filter fun x => x.1.core == c).foldl (fun s x => s.fireSlots x.1 f) s

/-- Whether an access must wait for the next nanosecond of domain time: a home performs one SC access per line in any one, so the
timestamps on a line rise (R216). -/
def scBusy (s : State) (h : Home) (order : Nat) : Bool :=
  order == 3 && (tget? (s.die h.dieId).scStamp (lineOf (physKey h))).any fun x => decide ((s.timeAt h.pkg).toNat ≤ x.1)

/-- The home gives an SC access its place in the SC order: the domain time and the issuer's number (R216, R217). -/
def stampSc (s : State) (h : Home) (order : Nat) (issuer : Endpoint) : State :=
  if order = 3 then s.updDie h.dieId fun k => { k with
    scStamp := tset k.scStamp (lineOf (physKey h)) ((s.timeAt h.pkg).toNat, issuerNumber issuer) } else s

/-- Evaluate the WAITC that a slot stands at, at its counter's home (R402): with order 3 the read is the line's SC access of this nanosecond,
and one that finds another there looks again when its slot issues. -/
def evalAwait (s : State) (d : DieId) (near : Nat → Bool) (wid : WarpId) (x : PcSel) : State :=
  match (s.warp? wid).bind fun w => (w.slot x).await with
  | none => s
  | some a =>
    if a.hit || !near a.pa || leVal (s.homeBytes d a.pa 8) < a.target.toNat then s
    else
      let busy := a.sc && (s.homeAt d a.pa).any fun h => s.scBusy h 3
      if busy then s
      else
        let s := match s.homeAt d a.pa with
          | some h => if a.sc then s.stampSc h 3 (coreEndpoint wid.core) else s
          | none => s
        s.updWarp wid fun w => w.setSlot x { w.slot x with await := some { a with hit := true } }

/-- The home of a counter evaluates, after it has written bytes of it, the COUNT slots (R186) and the WAITCs (R402) that look at it. -/
def fireCounts (s : State) (d : DieId) (pa n : Nat) : State :=
  let near := fun a : Nat => decide (a < pa + n) && decide (pa < a + 8)
  let hot := s.warps.filter fun x => x.2.events.any fun e => e.armed && e.kind == 3 && near e.pa
  let s := hot.foldl (fun s x => s.fireSlots x.1 fun e =>
    e.kind == 3 && near e.pa && decide (e.target.toNat ≤ leVal (s.homeBytes d e.pa 8))) s
  let waits := s.warps.filter fun x => x.2.a.await.isSome || x.2.b.await.isSome
  waits.foldl (fun (s : State) x => (s.evalAwait d near x.1 .a).evalAwait d near x.1 .b) s

/-- An RFAULT slot that is armed or fired (R189). -/
def hasRfault (w : Warp) : Bool := w.events.any fun e => e.kind == 6 && (e.armed || e.fired)

/-- Record a posted-store fault (R221, R248): cause, peer or group, MCAST bit, offset or address; faults beyond FFh are counted
apart, for the completion record (R191). The RFAULT slots fire. -/
def recordRff (s : State) (w : WarpId) (cause peer : Nat) (mcast : Bool) (addr : DWord) : State :=
  (s.updWarp w fun v =>
    let n := bits v.rff.toNat 23 16
    if n = 0 then
      { v with rff := BitVec.ofNat 32 (cause * 2 ^ 24 + 2 ^ 16 + bit01 mcast 10 + peer % 2 ^ 10)
               rffol := loWord addr, rffoh := hiWord addr }
    else if n = 255 then { v with rffMore := v.rffMore + 1 }
    else { v with rff := BitVec.ofNat 32 (v.rff.toNat % 2 ^ 16 + (n + 1) * 2 ^ 16 + bits v.rff.toNat 31 24 * 2 ^ 24) }
    ).fireSlots w fun e => e.kind == 6

/-! What a write at a home sets off: watches (R94), counters (R186), service words (R157), the queue's header (R82, R83),
the copy passes of a migration (R75), pushes to holders (R210). -/

/-- Whether a watch's condition holds of its 8 bytes (R92, R94, R115): 0 equal, 1 not equal, 2 at least, 3 less, both read
without sign. -/
def watchHolds (cond : Nat) (v target : DWord) : Bool :=
  match cond with
  | 0 => v == target
  | 1 => v != target
  | 2 => decide (target.toNat ≤ v.toNat)
  | _ => decide (v.toNat < target.toNat)

/-- Fire the interrupt watches of a package whose condition now holds; each disarms itself (R94). A die reads their signals. -/
def fireWatchesOf (s : State) (p : Nat) (d : DieId) (pa n : Nat) : State :=
  let k := s.pkg p
  let hit := fun x : Watch => decide (x.addr < pa + n) && decide (pa < x.addr + 8) &&
    watchHolds x.cond (BitVec.ofNat 64 (leVal (s.homeBytes d x.addr 8))) x.value
  let fired := k.watches.filter hit
  if fired.isEmpty then s
  else
    let s := s.setPkg p { k with watches := k.watches.filter (fun x => !hit x) }
    fired.foldl (fun s x => s.updPkg (if x.kind = 0 then p else s.dom.primary) fun k =>
      { k with host := { k.host with interrupts := k.host.interrupts ++ [(x.host, x.vector)] } }) s

/-- A home evaluates its watches after a write (R94). -/
def fireWatches (s : State) (d : DieId) (pa n : Nat) : State := s.fireWatchesOf d.pkg d pa n

/-- Mark the lines of a write dirty in the migrations of the home die (R75). -/
def markDirty (s : State) (d : DieId) (pa : Nat) : State :=
  let k := s.die d
  if k.migr.isEmpty then s
  else s.setDie d { k with migr := k.migr.map fun m =>
    if m.oldPa ≤ pa && pa < m.oldPa + 2 ^ m.log && (m.phase == 1 || m.phase == 2) then
      { m with dirty := if m.dirty.contains (lineOf (pa - m.oldPa)) then m.dirty else m.dirty ++ [lineOf (pa - m.oldPa)] }
    else m }

/-- Send a push of a line to a holder, or note that the next one is due (R210). With no byte enabled it is an invalidating push,
which a later write does not turn into another (R209). -/
def pushLine (s : State) (h : Home) (pa : Nat) (hd : DieId) (mask : BitVec 128) : State :=
  let line := lineOf (physKey h)
  let k := s.die h.dieId
  if k.pushes.any fun p => p.line == line && p.holder == hd then
    s.setDie h.dieId { k with pushes := k.pushes.map fun p =>
      if p.line == line && p.holder == hd then { p with again := max p.again (if mask = 0 then 2 else 1) } else p }
  else
    let s := s.setDie h.dieId { k with pushes := k.pushes ++ [{ line := line, holder := hd, again := 0 }] }
    s.sendLine { (default : LinePkt) with
      opcode := 0x92, dst := { pkg := hd.pkg, die := hd.die, pos := 0, unit := 2 }, src := homeEndpoint h
      issuer := homeEndpoint h, addr := lineOf pa * 128, data := s.homeBytes h.dieId (lineOf pa * 128) 128, mask := mask
      poison := s.isPoisoned h, scope := 4, lcrcOk := true, version := k.cur.version }

/-- Push a line to every holder (R210). -/
def pushAll (s : State) (h : Home) (pa : Nat) : State :=
  (tget (s.die h.dieId).holders (lineOf (physKey h)) []).foldl
    (fun s d => s.pushLine h pa d (BitVec.allOnes 128)) s

/-- The service word of a warp's frame (R249), and the blocks that wait for one (R157). -/
def serviceHit (s : State) (pa n : Nat) : List WarpId :=
  (s.warps.filter fun x => (x.2.handler || x.2.serving) && match s.block? x.2.block with
    | some b => let a := s.framePool b x.2 + 88; decide (a < pa + n) && decide (pa < a + 8)
    | none => false).map (·.1)

/-- The saved blocks that wait for service and whose service words a write covers (R157). -/
def savedHit (s : State) (pa n : Nat) : List BlockId :=
  (s.blocks.filter fun x => x.2.state == 2 && (List.range x.2.warps).any fun w =>
    let a := s.slotPool x.2 + 4096 + w * warpArea x.2.units x.2.tiles x.2.stack + 3072 + 88
    decide (a < pa + n) && decide (pa < a + 8)).map (·.1)

/-- The resident kernel of the primary host die is told through firmware of a service word at an address (R157). -/
def notifyKernel (s : State) (pa : Nat) : State :=
  s.updPkg s.dom.primary fun k => { k with host := { k.host with services := k.host.services ++ [pa] } }

/-- The service words that a write covers have their answers. -/
def answered (s : State) (pa n : Nat) : State :=
  let hit := fun a : Nat => decide (a < pa + n) && decide (pa < a + 8)
  if (s.pkg s.dom.primary).host.services.any hit then
    s.updPkg s.dom.primary fun k => { k with host := { k.host with services := k.host.services.filter fun a => !hit a } }
  else s

/-- Everything that follows the write of n bytes of a line at its home. -/
def afterWrite (s : State) (h : Home) (pa n : Nat) : State :=
  let d := h.dieId
  let s := s.markDirty d pa
  let s := s.fireCounts d pa n
  let s := s.fireWatches d pa n
  let s := s.pushAll h pa
  let s := s.answered pa n
  let s := (s.savedHit pa n).foldl (fun s b => s.postOnce .serviceWordChange { b := b }) s
  let s := (s.serviceHit pa n).foldl (fun s w => s.postOnce .serviceWordChange { w := w, flag := true }) s
  match s.queue.watch with
  | none => s
  | some q =>
    let s := if q + 8 < pa + n && pa < q + 16 then s.postOnce .queuePoll {} else s
    if q + 24 < pa + n && pa < q + 32 && s.queue.status != 0 then s.postOnce .queueRestart {} else s

/-- Write bytes of one line at its home, with all that follows; `mask` enables the bytes of the line from its start. -/
def homeWrite (s : State) (d : DieId) (pa : Nat) (bs : List Byte) : State :=
  match s.homeAt d pa with
  | some h =>
    let s := s.homePuts d pa bs
    let s := if bs.length = 128 && pa % 128 = 0 then
      { s with poisoned := s.poisoned.filter (· != lineOf (physKey h)) } else s
    s.afterWrite h pa bs.length
  | none => s

/-! Traps (R241-R250). -/

/-- Of two traps due at one boundary, the one of higher priority: the lower code (R242, R243). -/
def worse (a : Option TrapRec) (b : TrapRec) : TrapRec :=
  match a with
  | some t => if t.cause ≤ b.cause then t else b
  | none => b

/-- A trap is due: both slots of the warp stop (R244). -/
def raise (s : State) (w : WarpId) (t : TrapRec) : State :=
  (s.updWarp w fun v => { v with trap := some (worse v.trap t) }).postOnce .trapTake { w := w }

end State

/-- Instructions that act as a whole: their remaining lanes are those of the slot at issue (R245). -/
def entryWhole : Instr → Bool
  | .combine _ _ => true
  | .mloop _ _ => true
  | .mzero _ => true
  | .mrd _ => true
  | .mrdXr _ _ => true
  | .mwr _ => true
  | .mwrXr _ _ => true
  | .mst _ => true
  | .mstXm _ _ => true
  | .mld _ => true
  | .mldXm _ _ => true
  | .tcopy _ => true
  | .tcopyXm _ _ => true
  | .cfill _ => true
  | .cfillXm _ _ => true
  | .cbload _ => true
  | .cbloadXm _ _ => true
  | .mbxsend _ => true
  | .fenceXm _ _ => true
  | .cchain _ => true
  | .cchainXm _ _ => true
  | _ => false

/-- The operands X, Y and Z and the scalar pair of a replay entry (R252); of a group or mailbox instruction X holds the scalar registers
alone (log 126). -/
def entryOps (f : Flight) : List DWord × List DWord × List DWord × DWord :=
  match f.instr with
  | .mcast _ _ => ([f.z.getD 0 0, (loWord f.sbase).setWidth 64, (hiWord f.sbase).setWidth 64], [], [], 0)
  | .combine _ _ => ([f.z.getD 0 0], [], [], 0)
  | .mbxsend _ => (f.x, [], [], 0)
  | _ => (f.x, f.y, f.z, f.sbase)

/-- The bytes of a replay entry (R251). -/
def entryBytes (f : Flight) : List Byte :=
  let (x, y, z, base) := entryOps f
  let rem := if entryWhole f.instr then f.active else f.remaining ||| f.waiting
  leBytes 4 f.w0.toNat ++ leBytes 4 ((f.ext.getD 0).toNat) ++ leBytes 8 f.addr.toNat ++ leBytes 4 rem.toNat ++
    leBytes 1 ((f.fault.map (·.cause)).getD 0) ++ leBytes 1 (bit01 f.ext.isSome 0) ++
    leBytes 1 (bit01 (f.by_ == .b) 0) ++ zeros 1 ++ leBytes 8 ((f.fault.map (·.addr.toNat)).getD 0) ++
    leBytes 8 base.toNat ++ zeros 24 ++
    (laneNums.flatMap fun l => leBytes 8 (x.getD l 0).toNat) ++
    (laneNums.flatMap fun l => leBytes 8 (y.getD l 0).toNat) ++
    (laneNums.flatMap fun l => leBytes 8 (z.getD l 0).toNat) ++
    (laneNums.flatMap fun l => leBytes 4 (f.peers.getD l 0).toNat)

/-- The bytes of a frame (R249) for a trap of a warp, with the instructions that join the replay queue (R245). -/
def frameBytes (w : Warp) (t : TrapRec) (queue : List Flight) (serviced : Bool) : List Byte :=
  let q := queue.take 8
  leBytes 1 1 ++ leBytes 1 t.cause ++
    leBytes 1 (bit01 true 0 + bit01 (t.slot == .b) 1 + bit01 serviced 2) ++ leBytes 1 q.length ++
    leBytes 4 t.lanes.toNat ++ leBytes 8 t.addr.toNat ++ leBytes 8 t.instr.toNat ++ leBytes 8 t.aux.toNat ++
    leBytes 8 (slotForm w.a).toNat ++ leBytes 4 w.a.mask.toNat ++ leBytes 4 w.b.mask.toNat ++
    leBytes 8 (if w.b.mask = 0 then 0 else (slotForm w.b).toNat) ++ leBytes 8 (joinForm w.j).toNat ++
    leBytes 2 w.dsp ++ zeros 62 ++
    q.flatMap entryBytes ++ zeros (960 * (8 - q.length)) ++ zeros 384

/-! Records of a warp in the registry (R260). -/

/-- The bits of a list of conditions, bit i for entry i. -/
def bitsOf (l : List Bool) : Nat := l.foldr (fun b n => bit01 b 0 + 2 * n) 0

/-- An event slot record (R260). -/
def eventBytes (e : EventSlot) : List Byte :=
  leBytes 1 e.kind ++ leBytes 1 (bit01 e.armed 0 + bit01 e.fired 1) ++ zeros 6 ++ leBytes 8 e.handler.toNat ++
    leBytes 8 (match e.kind with
      | 1 => e.source.toNat % 16 + bit01 e.phase 8
      | 7 => e.source.toNat % 16
      | _ => e.source.toNat) ++
    leBytes 8 (if e.kind = 3 then e.target.toNat else 0)

/-- A walker record (R260). -/
def walkerBytes (v : Walker) : List Byte :=
  (v.desc ++ zeros 32).take 32 ++ leBytes 2 v.i0 ++ leBytes 2 v.i1 ++ leBytes 2 v.i2 ++ zeros 2 ++ leBytes 8 v.bound.toNat

/-- A warp record (R260). -/
def warpBytes (w : Warp) : List Byte :=
  let full := List.replicate (128 - w.v.length) false
  (w.s.flatMap fun v => leBytes 4 v.toNat) ++
    ((List.range 8).flatMap fun k => leBytes 4 (w.preg k).toNat) ++
    leBytes 16 (bitsOf (w.v.map (·.full) ++ full)) ++ leBytes 16 (bitsOf (w.v.map (·.poison.isSome) ++ full)) ++
    leBytes 8 (if w.a.mask = 0 then 0 else (slotForm w.a).toNat) ++ leBytes 8 (if w.b.mask = 0 then 0 else (slotForm w.b).toNat) ++
    leBytes 4 w.a.mask.toNat ++ leBytes 4 w.b.mask.toNat ++ leBytes 8 (joinForm w.j).toNat ++ leBytes 2 w.dsp ++
    leBytes 1 w.evp.toNat ++ leBytes 1 w.evm.toNat ++ leBytes 1 (bit01 w.handler 0) ++ zeros 3 ++ leBytes 8 w.timer.toNat ++
    leBytes 4 w.rff.toNat ++ leBytes 4 w.rffol.toNat ++ leBytes 4 w.rffoh.toNat ++ leBytes 4 w.wef.toNat ++
    ((List.range 8).flatMap fun i => eventBytes (w.events.getD i default)) ++
    ((List.range 8).flatMap fun k => walkerBytes (w.walkers.getD k default)) ++
    leBytes 8 w.tvec.toNat ++ leBytes 4 w.lastBatch.toNat ++ leBytes 4 (w.mxs.toNat % 16) ++ leBytes 4 w.bcast.toNat ++
    leBytes 2 w.arrA.toNat ++ leBytes 2 w.arrF.toNat ++ zeros 1000 ++
    ((List.range 128).flatMap fun r => leBytes 8 (((w.vreg r).poison.map (·.origin.toNat)).getD 0))

/-- Whether a TAKE of a warp is outstanding (R319). -/
def Warp.taking (w : Warp) : Bool := w.a.blocked.isSome || w.b.blocked.isSome

/-- Handler mode at an address (R247): slot A with every lane that has not exited, slot B empty, J invalid. Its SC accesses come behind
those of the threads that stopped (R216). -/
def enterHandler (w : Warp) (addr : DWord) (lanes : Mask) : Warp :=
  { w with a := { PcSlot.empty with mask := lanes, pc := addr, issued := w.a.issued, scLast := w.scAll }
           b := PcSlot.empty, j := none, handler := true }

namespace State

/-- The masks on a warp's divergence stack (R178). -/
def stackMasks (s : State) (b : Block) (w : Warp) : Mask :=
  (List.range w.dsp).foldl (fun m i =>
    m ||| BitVec.ofNat 32 (leVal (s.homeBytes b.core.dieId (s.stackPool b w i + 12) 4))) 0

/-- A block is lost (R162, R246): its header says so (R259). -/
def markLost (s : State) (b : BlockId) : State :=
  match s.block? b with
  | some v => (s.deviceWrite v.core (s.slotPool v + 2) (leBytes 1 3)).setBlock b { v with state := 3 }
  | none => s

/-- Declare a block lost: the first row, and the third, of R246; R162. -/
def loseBlock (s : State) (b : BlockId) : State := (s.markLost b).postOnce .blockRetire { b := b, flag := true }

/-- Write a warp's record (R260, R261), with the results that its slots hold. -/
def writeWarp (s : State) (b : Block) (w : Warp) : State :=
  s.deviceWrite b.core (s.areaPool b w) (warpBytes (commitHeld (commitHeld w .a) .b))

/-- While contexts are frozen the record of every resident warp is what the warp is (R124, R261): those that a step from `old` has changed
are written. -/
def recordsSince (s old : State) : State :=
  if !s.frozen then s
  else s.warps.foldl (fun (s : State) x =>
    if x.2.exited || (old.frozen && old.warp? x.1 == some x.2) then s
    else match s.block? x.2.block with
      | some b => if b.state = 0 || b.state = 5 then s.writeWarp b x.2 else s
      | none => s) s

/-- A warp enters handler mode; its record is written, which holds from now on (R247, R261). -/
def intoHandler (s : State) (wid : WarpId) (w : Warp) (b : Block) (addr : DWord) (lanes : Mask) : State :=
  let w := enterHandler w addr lanes
  (s.writeWarp b w).setWarp wid w

/-- The gang of a block is to be saved (R155, R158): its blocks take up nothing new. -/
def saveGang (s : State) (g : GangRef) (forService : Bool) : State :=
  let bs : Tab BlockId Block := s.blocks.map fun (x : BlockId × Block) =>
    if x.1.grid == g.grid && x.1.gang == g.gang && x.2.state == 0 then (x.1, { x.2 with state := 5 }) else x
  ({ s with blocks := bs } : State).postOnce .gangSaveComplete { g := g, flag := forService }

/-- How a trap is delivered (R246): `declined` passes over the service row (R253). A serviced fault is told to the resident kernel
(R157); under SWAP the warp keeps its place while its gang is saved, outside handler mode. -/
def deliver (s : State) (wid : WarpId) (w : Warp) (b : Block) (t : TrapRec) (declined : Bool) : State :=
  let lanes := w.live ||| s.stackMasks b w
  if t.cause = 0x10 && !declined then
    let s := s.notifyKernel (s.framePool b w + 88)
    if b.contMode then s.intoHandler wid { w with trap := none } b b.cont lanes
    else (s.setWarp wid { w with trap := none, serving := true }).saveGang { grid := w.block.grid, gang := w.block.gang } true
  else if w.tvec = 0 then (s.setWarp wid { w with trap := none }).loseBlock w.block
  else s.intoHandler wid { w with trap := none } b w.tvec lanes

/-- Take a trap (R244): the held results are committed, the frame is written, and the trap is delivered (R246). A trap in
handler mode is a double trap: the frame keeps the second cause, and the block is lost. Taking a Posted-remote trap copies
RFF into the frame and clears it (R248). `queue` holds the instructions that join the replay queue. -/
def takeTrap (s : State) (wid : WarpId) (w : Warp) (b : Block) (t : TrapRec) (queue : List Flight) : State :=
  let w := commitHeld (commitHeld w .a) .b
  let fa := s.framePool b w
  if w.handler then
    let old := field (s.coreBytes b.core (fa + 2) 1) 0 1
    let s := s.deviceWrite b.core (fa + 2) (leBytes 1 (old ||| 8))
    let s := s.deviceWrite b.core (fa + 68) (leBytes 1 t.cause)
    let s := s.deviceWrite b.core (fa + 72) (leBytes 8 t.addr.toNat ++ leBytes 8 t.instr.toNat)
    (s.setWarp wid { w with trap := none, flights := [] }).loseBlock w.block
  else
    let serviced := t.cause == 0x10
    let s := s.deviceWrite b.core fa (frameBytes w t queue serviced)
    let w := if t.cause = 0x18 then { w with rff := 0, rffMore := 0, rffol := 0, rffoh := 0 } else w
    let w := if t.cause = 0x19 then { w with engine := none } else w
    s.deliver wid { w with flights := w.flights.filter fun f => !(queue.any (·.id == f.id)) } b t false

end State

/-- A reserved or malformed field of a frame (R249, R253). -/
def frameBad (f : List Byte) : Bool :=
  let n := field f 3 1
  let a := field f 40 4
  let b := field f 44 4
  let form := fun v : Nat => bits v 63 62 != 0 || bits v 57 57 != 0
  let instr := fun v : Nat => form v || bits v 1 0 != 0
  field f 0 1 != 1 || field f 2 1 % 2 == 0 || bits (field f 2 1) 7 4 != 0 || decide (8 < n) ||
    bits (field f 56 8) 62 57 != 0 || bits (field f 56 8) 1 0 != 0 || field f 66 2 != 0 || field f 69 3 != 0 ||
    field f 96 32 != 0 || instr (field f 16 8) || instr (field f 80 8) || (field f 1 1 == 0x18 && field f 28 4 != 0) || field f 7808 384 != 0 || (a != 0 && form (field f 32 8)) || (b != 0 && form (field f 48 8)) ||
    (b != 0 && bits (field f 56 8) 63 63 == 0) || Nat.land a b != 0 ||
    (List.range n).any fun i =>
      let o := 128 + 960 * i
      field f (o + 23) 1 != 0 || bits (field f (o + 22) 1) 7 1 != 0 || bits (field f (o + 21) 1) 7 1 != 0 ||
        field f (o + 40) 24 != 0 || instr (field f (o + 8) 8)

/-- The warp that a return restores from a frame's slots and join (R253). Its threads' SC accesses come behind the handler's (R216). -/
def restoreSlots (w : Warp) (f : List Byte) : Warp :=
  let j := field f 56 8
  let sc := w.scAll
  let slot := fun (form : Nat) (mask : Nat) => { slotOfForm (BitVec.ofNat 64 form) (BitVec.ofNat 32 mask) with scLast := sc }
  { w with
    a := slot (field f 32 8) (field f 40 4)
    b := slot (field f 48 8) (field f 44 4)
    scStack := match sc with
      | some x => (List.range w.dsp).map fun i => (i, x)
      | none => []
    j := if bits j 63 63 = 1 then some (BitVec.ofNat 64 (j % 2 ^ 57)) else none
    handler := false, serving := false }

end Sys2Proof.Machine
end

