-- ==== Sys2Proof/Machine/Cache.lean ====
section
/-! DEFINITION. Remote tags (R44-R46) and the first-level cache with its pins (R193-R196, R206, R207). -/

namespace Sys2Proof.Machine

def Tag.fresh : Tag :=
  { held := false, quarantine := false, round := 0, req := default, line := none, use := .idle, stale := false
    deadline := 0 }

namespace State

def tag (s : State) (c : CoreId) (n : Nat) : Tag := tget (s.core c).tags n Tag.fresh

def setTag (s : State) (c : CoreId) (n : Nat) (t : Tag) : State :=
  s.updCore c fun k => { k with tags := tset k.tags n t }

/-- The lowest free architectural tag (R44). -/
def freeTag (s : State) (c : CoreId) : Option Nat :=
  (List.range 256).find? fun n => let t := s.tag c n; !t.held && !t.quarantine

/-- How many architectural tags are free. -/
def freeTags (s : State) (c : CoreId) : Nat :=
  ((List.range 256).filter fun n => let t := s.tag c n; !t.held && !t.quarantine).length

/-- Take a tag: its round rises by 1 modulo 16 (R44). -/
def allocTag (s : State) (c : CoreId) (n : Nat) : State :=
  s.setTag c n { Tag.fresh with held := true, round := ((s.tag c n).round + 1) % 16 }

/-- Take tags, the lowest free ones first; `k` bounds how many. -/
def allocTags (s : State) (c : CoreId) : Nat → List Nat × State
  | 0 => ([], s)
  | k + 1 =>
    match s.freeTag c with
    | none => ([], s)
    | some n =>
      let (ns, s) := (s.allocTag c n).allocTags c k
      (n :: ns, s)

/-- A core's tag timer: what domain time it ends at (R45). -/
def tagDeadline (s : State) (c : CoreId) : Nat := (s.timeAt c.pkg).toNat + s.timeoutNs

end State

/-- The instruction in flight that a tag's request is for. -/
def TagUse.owner : TagUse → Option (WarpId × Nat)
  | .lane w id _ => some (w, id)
  | .post w id _ => some (w, id)
  | .pin w id _ => some (w, id)
  | .mcast w id => some (w, id)
  | .combine w id => some (w, id)
  | .mail w id => some (w, id)
  | _ => none

/-- The warp slot and the lane that a tag's request is for (R40). -/
def TagUse.place : TagUse → Nat × Nat
  | .lane w _ l => (w.slot, l)
  | .post w _ l => (w.slot, l)
  | .pin w _ l => (w.slot, l)
  | .fill w l => (w.slot, l)
  | _ => (0, 0)

namespace State

/-- The tags that an instruction in flight has taken at its issue and no lane uses yet (R44). -/
def tagsOf (s : State) (use : TagUse) : List Nat :=
  match use.owner with
  | some (w, id) => (((s.warp? w).bind (·.flight? id)).map (·.tags)).getD []
  | none => []

/-- A tag for a request from a core: an architectural one when it leaves for another package or is a remote operation (R44), one that its
instruction has taken at issue, or the lowest free one. Any other request takes one of the model's numbers from 256 on. -/
def takeTag (s : State) (c : CoreId) (far : Bool) (use : TagUse) : Option (Nat × State) :=
  if far then
    match s.tagsOf use, use.owner with
    | n :: ns, some (w, id) => some (n, s.updWarp w fun v => v.updFlight id fun f => { f with tags := ns })
    | _, _ => (s.freeTag c).map fun n => (n, s.allocTag c n)
  else
    let n := (s.core c).nextTag
    some (n, (s.updCore c fun k => { k with nextTag := k.nextTag + 1 }).allocTag c n)

/-- A request goes out under a tag that is taken: its timer starts (R45). -/
def holdTag (s : State) (c : CoreId) (n : Nat) (q : Packet) (l : Option LinePkt) (use : TagUse) : State :=
  let r := (s.tag c n).round
  let s := s.setTag c n { held := true, quarantine := false, round := r, req := { q with tag := n, round := r }
                          line := l.map fun l => { l with tag := n, round := r }, use := use, stale := false
                          deadline := s.tagDeadline c }
  if n < 256 then s.after s.timeoutNs .tagTimeout { c := c, n := n } else s

/-- Send a request under a tag, or nothing when no tag is free. -/
def request (s : State) (c : CoreId) (far : Bool) (q : Packet) (use : TagUse) : Option State :=
  match s.takeTag c far use with
  | none => none
  | some (n, s) =>
    let s := s.holdTag c n q none use
    some (s.send (s.tag c n).req)

/-- Send a line under a tag, or nothing when no tag is free. -/
def requestLine (s : State) (c : CoreId) (far : Bool) (l : LinePkt) (use : TagUse) : Option State :=
  match s.takeTag c far use with
  | none => none
  | some (n, s) =>
    let s := s.holdTag c n { (default : Packet) with version := l.version } (some l) use
    match (s.tag c n).line with
    | some l => some (s.sendLine l)
    | none => some s

/-- A request of an engine, a walker or a synchronising instruction that is answered in the act that sends it: one to another
package takes the lowest free tag, whose round rises, and frees it again (R44). None: no tag is free. -/
def passTag (s : State) (c : CoreId) (far : Bool) : Option State :=
  if far then (s.freeTag c).map fun n => s.setTag c n { s.tag c n with round := ((s.tag c n).round + 1) % 16 } else some s

/-- Free a tag that is answered (R44); a model's number is listed no more. -/
def freeTagNow (s : State) (c : CoreId) (n : Nat) : State :=
  if n < 256 then
    (s.setTag c n { s.tag c n with held := false, use := .idle }).cancel .tagTimeout { c := c, n := n }
  else s.updCore c fun k => { k with tags := tdel k.tags n }

/-- Whether a reply is accepted (R46). -/
def accepts (s : State) (c : CoreId) (n round : Nat) : Bool := let t := s.tag c n; t.held && t.round == round

/-! The first-level cache. -/

/-- The boundary S of a core (R193): 1 plus the highest granule held by a resident or reserved block. -/
def boundary (s : State) (c : CoreId) : Nat :=
  let held := (s.blocks.filter fun x => x.2.core == c).flatMap (·.2.grans)
  (held ++ (s.core c).reservedGrans).foldl (fun m g => max m (g + 1)) 0

/-- The set of a line (R196). -/
def setOf (pa : Nat) : Nat := pa / 128 % 128

/-- The lines of a set that a core holds, the most recently used first. -/
def setLines (s : State) (c : CoreId) (pa : Nat) : List CacheLine :=
  (s.core c).lines.filter fun l => setOf l.pa == setOf pa

/-- A granule of the set's ways that holds no line (R196). -/
def freeWay (s : State) (c : CoreId) (pa : Nat) : Option Nat :=
  ((List.range 20).drop (s.boundary c)).find? fun g => !(s.setLines c pa).any (·.gran == g)

/-- Send the write-back of a line (R207): from then until the acknowledgement the pin is ending. It goes at rack scope, so
that its acknowledgement says that the line's holders have it too (R205, R212). With no tag free it is tried again. -/
def writeBack (s : State) (c : CoreId) (l : CacheLine) : State :=
  match s.homeAt c.dieId l.pa with
  | none => s.dropLine c l.pa
  | some h =>
    let pk : LinePkt := { (default : LinePkt) with
      opcode := 0x91, dst := homeEndpoint h, src := coreEndpoint c, issuer := coreEndpoint c, scope := 4, addr := l.pa
      data := l.data, mask := BitVec.allOnes 128, lcrcOk := true, version := (s.die c.dieId).cur.version }
    match s.requestLine c (h.pkg != c.pkg) pk (.writeback l.pa) with
    | some s => s.setLine c { l with pin := .ending, blocks := [], past := [] }
    | none => (s.setLine c { l with pin := .ending, blocks := [], past := [] }).afterOnce 1000 .retryResend
        { c := c, n := l.pa, flag := true }

/-- End a pin outright, when the line is pinned and its write-back is not yet under way (R207). -/
def endPin (s : State) (c : CoreId) (pa : Nat) : State :=
  match s.cached c pa with
  | some l => if l.pin = .held then s.writeBack c l else s
  | none => s

/-- End a block's share of every pin; the last share writes the line back (R207). -/
def endShares (s : State) (c : CoreId) (b : BlockId) : State :=
  ((s.core c).lines.filter fun l => l.pin == .held && l.blocks.contains b).foldl (fun s l =>
    let rest := l.blocks.filter (· ≠ b)
    if rest.isEmpty then s.writeBack c l else s.setLine c { l with blocks := rest, past := b :: l.past }) s

/-- Whether a block has written a line that is still pinned, though others share the pin (R207). -/
def wrotePinned (b : BlockId) (l : CacheLine) : Bool := l.pin == .held && (l.blocks.contains b || l.past.contains b)

/-- Write back every pinned line that a block has written: a release at tray or rack scope (log 122). -/
def endWritten (s : State) (c : CoreId) (b : BlockId) : State :=
  ((s.core c).lines.filter (wrotePinned b)).foldl (fun s l => s.writeBack c l) s

/-- Whether a write-back of the core that the block's release started is not yet acknowledged. -/
def pinsEnding (s : State) (c : CoreId) (b : BlockId) : Bool :=
  (s.core c).lines.any fun l => l.pin == .ending || (l.pin == .held && l.blocks.contains b)

/-- The number of a line's place that is no way: the write-back buffer (log 121). -/
def bufferWay : Nat := 20

/-- Put a line into a free way, else into that of the least recently used unpinned line, else into that of the least
recently used pinned line, which is written back from the buffer (R196). A way of a granule that has left the cache takes
none (R194). -/
def install (s : State) (c : CoreId) (pa : Nat) (data : List Byte) (pin : Pin) (bs : List BlockId) : State :=
  let s := s.dropLine c pa
  let mk : Nat → CacheLine := fun g =>
    { pa := lineOf pa * 128, gran := g, data := data, dirty := pin != Pin.no, pin := pin, blocks := bs, past := [], use := 0 }
  let ways := ((s.setLines c pa).filter fun l => decide (s.boundary c ≤ l.gran) && l.gran != bufferWay).reverse
  match s.freeWay c pa with
  | some g => s.setLine c (mk g)
  | none =>
    match ways.find? (·.pin == .no) with
    | some v => (s.dropLine c v.pa).setLine c (mk v.gran)
    | none =>
      match ways.find? (·.pin == .held) with
      | some v => (s.writeBack c { v with gran := bufferWay, use := 1 }).setLine c (mk v.gran)
      | none => if pin = .no then s else s.setLine c (mk bufferWay)

/-- Fills of a core that are under way bring data too old for what the core has seen since: their lines are not kept. -/
def staleFills (s : State) (c : CoreId) (f : Nat → Bool) : State :=
  s.updCore c fun k => { k with tags := k.tags.map fun (x : Nat × Tag) =>
    if x.2.held && x.2.req.opcode == 7 && x.2.req.scope != 0 && f x.2.req.addr then (x.1, { x.2 with stale := true }) else x }

/-- Drop the clean unpinned copy of a line: an access of the core was performed at the home (R214). -/
def dropClean (s : State) (c : CoreId) (pa : Nat) : State :=
  let keep := ((s.cached c pa).map (·.pin)).getD .no != Pin.no
  (if keep then s else s.dropLine c pa).staleFills c fun x => lineOf x == lineOf pa

/-- An acquire wider than core drops every clean unpinned line (R212). -/
def dropAllClean (s : State) (c : CoreId) : State :=
  (s.updCore c fun k => { k with lines := k.lines.filter (·.pin != .no) }).staleFills c fun _ => true

/-- Whether a home answers a visitor read of a line by a die only later: a push to that die is not acknowledged yet, so that its copies
follow the line's coherence order (R210, R214); or a ninth holder is to come while a push to the oldest is not, so that the invalidating
push goes out before the ninth is admitted (R209; log 123). -/
def admitWaits (s : State) (h : Home) (hd : DieId) : Bool :=
  let line := lineOf (physKey h)
  let k := s.die h.dieId
  let hs := tget k.holders line []
  let pushed := fun d : DieId => k.pushes.any fun p => p.line == line && p.holder == d
  pushed hd || (!hs.contains hd && decide (8 ≤ hs.length) && hs.head?.any pushed)

/-- Record a die as a holder of a line; the oldest of eight goes, with an invalidating push (R209). -/
def addHolder (s : State) (h : Home) (pa : Nat) (hd : DieId) : State :=
  let line := lineOf (physKey h)
  let hs := tget (s.die h.dieId).holders line []
  if hs.contains hd then s
  else
    let put := fun (s : State) (l : List DieId) => s.updDie h.dieId fun k => { k with holders := tset k.holders line l }
    match hs with
    | old :: rest => if 8 ≤ hs.length then (put s (rest ++ [hd])).pushLine h pa old 0 else put s (hs ++ [hd])
    | [] => put s [hd]

/-- The sets of a die's memory-side cache: 384 MiB less the carve-out, of 16 ways (R208). -/
def visitorSets (s : State) : Nat := (384 - 32 * s.dom.carve) * 2 ^ 20 / (16 * 128)

/-- Install a visitor copy of a line in a die (R208, R209): 4 of a set's ways may hold visitors. A line of a near store is not
held in a memory-side cache (R69). -/
def putVisitor (s : State) (d : DieId) (pa : Nat) (data : List Byte) : State :=
  s.updDie d fun k => { k with visitors := waysPut s.visitorSets 4 k.visitors (lineOf pa) data }

/-- Whether a read of a scope looks for a visitor copy of a line of a home, and installs one (R204, R209, R69). -/
def visits (d : DieId) (h : Home) (scope : Nat) : Bool := decide (3 ≤ scope) && h.pkg != d.pkg && !h.near

/-- Record a core as the holder of a line at its home (R206). -/
def pinAt (s : State) (h : Home) (c : CoreId) : State :=
  s.updDie h.dieId fun k => { k with pins := tset k.pins (lineOf (physKey h)) c }

/-- The pin of a core on a line ends at the line's home, under the current table or the one before it (R207, R73). -/
def releasePin (s : State) (c : CoreId) (pa : Nat) : State :=
  let k := s.die c.dieId
  let at_ := fun (s : State) (t : Tables) => match homeOf t pa with
    | some h => s.updDie h.dieId fun k => { k with pins := k.pins.filter fun x => !(x.1 == lineOf (physKey h) && x.2 == c) }
    | none => s
  let s := at_ s k.cur
  match k.prev with
  | some t => at_ s t
  | none => s

/-- Write bytes into a line that the core has pinned, for a block (R204, R206). -/
def writeCached (s : State) (c : CoreId) (b : BlockId) (pa : Nat) (bs : List Byte) : State :=
  match s.cached c pa with
  | some l => s.setLine c { l with
      data := l.data.take (pa % 128) ++ bs ++ l.data.drop (pa % 128 + bs.length), dirty := true
      blocks := if l.blocks.contains b then l.blocks else l.blocks ++ [b] }
  | none => s

end State

end Sys2Proof.Machine
end

