-- ==== Sys2Proof/Machine/Message.lean ====
section
/-! DEFINITION. The Brokers' places in the tree (R130) and their messages (R131-R133): internal on one FE die, else BROKER requests
under a tag of the sender (R44-R46), in sequence for each pair. -/

namespace Sys2Proof.Machine

def Share.empty : Share :=
  { runs := [], exited := 0, lost := 0, dExited := 0, dLost := 0, lastDone := 0, refused := [], takers := []
    rollbacks := [], waitSince := [], given := [], gone := [], vacated := 0 }

def Broker.empty : Broker :=
  { shares := [], seqOut := [], seqIn := [], early := [], tags := [], sent := [], sendq := [], reservations := [], hunts := [], restore := [] }

namespace State

def broker (s : State) (k : BrokerId) : Broker := tget s.brokers k Broker.empty
def setBroker (s : State) (k : BrokerId) (b : Broker) : State := { s with brokers := tset s.brokers k b }
def updBroker (s : State) (k : BrokerId) (f : Broker → Broker) : State := s.setBroker k (f (s.broker k))
def share (s : State) (k : BrokerId) (h : Nat) : Share := tget (s.broker k).shares h Share.empty
def updShare (s : State) (k : BrokerId) (h : Nat) (f : Share → Share) : State :=
  s.updBroker k fun b => { b with shares := tset b.shares h (f (tget b.shares h Share.empty)) }

/-! The tree (R130). -/

/-- The lead package (R128): the lowest member. -/
def lead (s : State) : Nat := s.members.headD 0

/-- Whether a package follows the lead package's domain time (R96): a member other than the lead and the standby package. -/
def follows (s : State) (p : Nat) : Bool := s.isMember p && (s.members.drop 2).contains p

/-- The trays that have members, and the members of a tray. -/
def trays (s : State) : List Nat := (s.members.map trayOf).eraseDups
def trayMembers (s : State) (t : Nat) : List Nat := s.members.filter (trayOf · == t)

def parent : BrokerId → Option BrokerId
  | .rack => none
  | .tray _ => some .rack
  | .pkg p => some (.tray (trayOf p))
  | .die p _ => some (.pkg p)

/-! Messages (R131-R133). -/

/-- The endpoint of a Broker (R131). -/
def brokerEndpoint (s : State) : BrokerId → Endpoint
  | .die p d => { pkg := p, die := d, pos := 0, unit := 3 }
  | .pkg p => { pkg := p, die := 4, pos := 0, unit := 3 }
  | .tray t => { pkg := (s.trayMembers t).headD 0, die := 4, pos := 0, unit := 3 }
  | .rack => { pkg := s.lead, die := 4, pos := 0, unit := 3 }

/-- A tray's Broker whose last member is lost: the rack's accounts for it (R163). -/
def vacant (s : State) : BrokerId → Bool
  | .tray t => (s.trayMembers t).isEmpty
  | _ => false

/-- Whether two Brokers exchange messages internally (R130). -/
def sameSeat (s : State) (a b : BrokerId) : Bool := s.brokerEndpoint a == s.brokerEndpoint b || s.vacant a || s.vacant b

/-- Whether a Broker's package has left the domain. -/
def departed (s : State) : BrokerId → Bool
  | .die p _ => !s.isMember p
  | .pkg p => !s.isMember p
  | _ => false

def brokerTag (s : State) (k : BrokerId) (n : Nat) : Tag := tget (s.broker k).tags n default
def setBrokerTag (s : State) (k : BrokerId) (n : Nat) (t : Tag) : State := s.updBroker k fun b => { b with tags := tset b.tags n t }

/-- Send a message as a BROKER request under the sender's lowest free tag (R44, R131); without one it waits. -/
def brokerSend (s : State) (i : Instr) (m : BrokerMsg) : State :=
  let free := fun n : Nat => let t := s.brokerTag m.src n; !t.held && !t.quarantine
  match (List.range 256).find? free with
  | none => s.updBroker m.src fun b => { b with sendq := b.sendq ++ [(i, m)] }
  | some n =>
    let e := s.brokerEndpoint m.src
    let r := ((s.brokerTag m.src n).round + 1) % 16
    let q := { brokerPacket i m e (s.brokerEndpoint m.dst) n r with
      version := (s.die { pkg := e.pkg, die := if e.die < 4 then e.die else 0 }).cur.version }
    let s := s.setBrokerTag m.src n { held := true, quarantine := false, round := r, req := q, line := none, use := .broker i m, stale := false
                                      deadline := (s.timeAt e.pkg).toNat + s.timeoutNs }
    let s := s.updBroker m.src fun b => { b with sent := tset b.sent (n, r) (q, m) }
    (s.after s.timeoutNs .tagTimeout { k := m.src, n := n, flag := true }).send q

/-- Number a message of a pair (R133). -/
def numbered (s : State) (m : BrokerMsg) : BrokerMsg × State :=
  let n := tget (s.broker m.src).seqOut m.dst 0
  ({ m with seq := n }, s.updBroker m.src fun b => { b with seqOut := tset b.seqOut m.dst ((n + 1) % 2 ^ 16) })

/-- A STEAL to a package that has left the domain is refused (R148, R163). -/
def refuseSteal (s : State) (m : BrokerMsg) : State :=
  let (r, s) := s.numbered { src := m.dst, dst := m.src, grid := m.grid, first := 0, count := 0, data1 := 0, seq := 0 }
  s.post .brokerNone { k := r.dst, m := r }

/-- A message goes to its receiver (R130). What goes to a package that has left the domain is accounted for by the Brokers above (R163), but a STEAL
is refused. The handle field (R131) has no number for a child grid, which never leaves its package: such a message is internal. -/
def passMsg (s : State) (i : Instr) (m : BrokerMsg) : State :=
  if s.departed m.dst then (if i == .brokerSteal then s.refuseSteal m else s)
  else if s.departed m.src || s.sameSeat m.src m.dst || 64 ≤ m.grid then s.post i { k := m.dst, m := m }
  else s.brokerSend i m

/-- Number a message of a pair (R133) and send it. -/
def tellMsg (s : State) (i : Instr) (m : BrokerMsg) : State :=
  let (m, s) := s.numbered m
  s.passMsg i m

/-- Send a Broker message. -/
def tell (s : State) (i : Instr) (src dst : BrokerId) (grid first count : Nat) (data1 : DWord) : State :=
  s.tellMsg i { src := src, dst := dst, grid := grid, first := first, count := count, data1 := data1, seq := 0 }

/-- The first of a Broker's messages that wait for a tag goes out. -/
def nextSend (s : State) (k : BrokerId) : State :=
  match (s.broker k).sendq with
  | [] => s
  | (i, m) :: ms => (s.updBroker k fun b => { b with sendq := ms }).brokerSend i m

/-- The answer to a Broker's request (R46, R132): its tag is free. -/
def brokerAnswer (s : State) (q : Packet) : State :=
  let mine := fun x : BrokerId × Broker =>
    let t := tget x.2.tags q.tag default
    s.brokerEndpoint x.1 == q.issuer && t.held && t.round == q.round && t.req.dst == q.src
  match s.brokers.find? mine with
  | none => s.log q.issuer.pkg q.issuer 0x0021 q.tag (BitVec.ofNat 64 (q.tag + 2 ^ 8 * q.round + 2 ^ 32 * endpointVal q.issuer))
  | some x =>
    let t := s.brokerTag x.1 q.tag
    ((s.setBrokerTag x.1 q.tag { t with held := false, use := .idle }).cancel .tagTimeout { k := x.1, n := q.tag, flag := true }).nextSend x.1

/-- A Broker's request has timed out (R45, R133): it goes again with its number and a new tag. -/
def brokerTimeout (s : State) (k : BrokerId) (n : Nat) : State :=
  let t := s.brokerTag k n
  let now := (s.timeAt (s.brokerEndpoint k).pkg).toNat
  if !t.held then s
  else if now < t.deadline then s.afterOnce (t.deadline - now) .tagTimeout { k := k, n := n, flag := true }
  else
    let s := (s.setBrokerTag k n { t with held := false, quarantine := true }).after s.timeoutNs .tagQuarantineEnd { k := k, n := n, flag := true }
    match t.use with
    | .broker i m => s.passMsg i m
    | _ => s

/-- The answer of a Broker to a request: WRITE-ACK, or ERROR when it names no grid in flight (R132); an internal message has none. -/
def brokerReply (s : State) (q : Packet) (ok : Bool) : State :=
  if q.opcode != 6 then s else s.send (s.replyTo q q.dst (if ok then 0x82 else 0x86) (if ok then 0 else 7))

/-- A message arrives: it is acted on in its turn, once, and answered; one that is early waits; a copy of one that has been acted on
is answered only (R133). One that names no grid in flight has no effect (R132). A package that has left the domain hears nothing. -/
def hear (s : State) (i : Instr) (f : BrokerMsg → Launch → State → State) : State :=
  let m := s.arg.m
  let q := s.arg.q
  let k := m.dst
  let due := tget (s.broker k).seqIn m.src 0
  if s.departed k then s
  else if m.seq = due then
    let s := s.updBroker k fun b => { b with seqIn := tset b.seqIn m.src ((due + 1) % 2 ^ 16) }
    let s := match s.launch? m.grid with
      | some l => (f m l s).brokerReply q true
      | none => s.brokerReply q false
    match (s.broker k).early.find? fun e => e.2.1.src == m.src && e.2.1.seq == (due + 1) % 2 ^ 16 with
    | some e => (s.updBroker k fun b => { b with early := b.early.erase e }).post e.1 { k := k, m := e.2.1, q := e.2.2 }
    | none => s
  else if (m.seq + 2 ^ 16 - due) % 2 ^ 16 < 2 ^ 15 then
    s.updBroker k fun b => { b with early := if b.early.any fun e => e.1 == i && e.2.1 == m then b.early else b.early ++ [(i, m, q)] }
  else s.brokerReply q true

end State

end Sys2Proof.Machine
end

