-- ==== Sys2Proof/Machine/Version.lean ====
section
/-! DEFINITION. Where an access is performed while region tables and pages move: the switch of a die (R70, R72, R73), the single
forward (R72, R75, R76), and the place that a direct access of an engine, a walker or firmware reaches. -/

namespace Sys2Proof.Machine

/-- Whether a pool address lies in the old page. -/
def Migration.has (m : Migration) (pa : Nat) : Bool := decide (m.oldPa ≤ pa) && decide (pa < m.oldPa + 2 ^ m.log)

/-- An address of the old page on the new one. -/
def Migration.rebase (m : Migration) (pa : Nat) : Nat := m.newPa + (pa - m.oldPa)

/-- Where a request that reached a die is served (R72, R75, R76). -/
inductive Serve where
  | here (h : Home)
  | forward (h : Home) (pa : Nat)
  | badVersion
  | secondForward
  deriving DecidableEq, Repr

/-- Where a direct access is performed, with the address and the state there; it may lie in no region (R57), or be answered with
ERROR (R72). -/
inductive Reach where
  | at_ (h : Home) (pa : Nat) (s : State)
  | nowhere
  | refused (cause pkg : Nat)
  deriving DecidableEq, Repr

namespace State

/-- Whether a pool address has different homes under two tables. -/
def moved (old new : Tables) (pa : Nat) : Bool := homeOf old pa != homeOf new pa

/-- A copy whose home moved leaves a core's cache (R73): a dirty line is written back under the new table first. -/
def recallLine (s : State) (c : CoreId) (l : CacheLine) : State :=
  let mark := fun s : State => s.updCore c fun k => { k with lines := k.lines.map fun x => if x.pa = l.pa then { x with use := 1 } else x }
  match l.pin with
  | .no => s.dropLine c l.pa
  | .held => mark (s.writeBack c l)
  | .ending => mark s

/-- The watches on signals whose home a die no longer is go to the packages of the new homes, which evaluate each once (R94). A package keeps all
that it is handed, also beyond 1,024, on which R94 is silent (log 146, DESIGN CHOICE). -/
def handWatches (s : State) (d : DieId) (old : Tables) : State :=
  let was := fun w : Watch => (homeOf old w.addr).any fun h => h.dieId == d
  let mine := (s.pkg d.pkg).watches.filter fun w => was w && moved old (s.die d).cur w.addr
  let s := s.updPkg d.pkg fun k => { k with watches := k.watches.filter fun w => !mine.contains w }
  mine.foldl (fun (s : State) w =>
    match s.homeAt d w.addr with
    | some h => (s.updPkg h.pkg fun k => { k with watches := k.watches ++ [w] }).fireWatchesOf h.pkg d w.addr 8
    | none => s) s

/-- A die makes its pending table current (R70, R72). -/
def switchDie (s : State) (d : DieId) : State :=
  let k := s.die d
  match k.pend with
  | none => s
  | some t =>
    let old := k.cur
    let s := s.setDie d { k with
      cur := t, prev := some old, pend := none, visitors := k.visitors.filter fun x => !moved old t (128 * x.1) }
    let s := s.handWatches d old
    (s.cores.filter fun x => x.1.dieId == d).foldl (fun (s : State) x =>
      ((((s.core x.1).lines.filter fun l => moved old t l.pa).foldl (fun s l => s.recallLine x.1 l) s).staleFills x.1 (moved old t))) s

/-- Where a die serves a pool address. -/
def serveAt (s : State) (d : DieId) (pa : Nat) (version : BitVec 16) (forwarded : Bool) : Serve :=
  let k := s.die d
  let known := k.cur.version == version || (match k.prev with
    | some t => t.version == version
    | none => false)
  if !known then .badVersion
  else
    match homeOf k.cur pa with
    | none => .secondForward
    | some h =>
      let dest := match k.migr.find? fun m => m.phase == 3 && m.has pa with
        | some m => some (m.rebase pa)
        | none => if h.dieId == d then none else some pa
      match dest with
      | none => .here h
      | some b =>
        if forwarded then .secondForward
        else match homeOf k.cur b with
          | some g => .forward g b
          | none => .secondForward

/-- A die that meets its pending version switches on the spot (R72). -/
def meetVersion (s : State) (d : DieId) (v : BitVec 16) : State :=
  match (s.die d).pend with
  | some t => if t.version == v then s.switchDie d else s
  | none => s

/-- Where a direct access of a die to a pool address is performed: its own table names the home, which takes up the version it meets, and
forwards once where the line has moved (R72, R75, R76). -/
def reach (s : State) (d : DieId) (pa : Nat) : Reach :=
  match s.homeAt d pa with
  | none => .nowhere
  | some h =>
    if (s.die h.dieId).lost then .at_ h pa s
    else
      let v := (s.die d).cur.version
      let s := s.meetVersion h.dieId v
      match s.serveAt h.dieId pa v false with
      | .here h => .at_ h pa s
      | .forward g b =>
        let v := (s.die h.dieId).cur.version
        let s := s.meetVersion g.dieId v
        if (s.die g.dieId).lost then .at_ g b s
        else match s.serveAt g.dieId b v true with
          | .here g => .at_ g b s
          | .badVersion => .refused 7 g.pkg
          | _ => .refused 2 g.pkg
      | .badVersion => .refused 7 h.pkg
      | .secondForward => .refused 2 h.pkg

end State

end Sys2Proof.Machine
end

