-- ==== Sys2Proof/Machine/Walk.lean ====
section
/-! DEFINITION. Translation (R56, R61-R65): the table walk, the tiers, permissions, and reads and writes of the engines,
of a walker and of a fetch at the places that R204 gives. -/

namespace Sys2Proof.Machine

/-- What a walk finds: a translation, a fault with its cause, or a table line that another core holds pinned (R207). -/
inductive WalkR where
  | ok (e : TlbEnt)
  | fault (cause : Nat)
  | busy
  deriving DecidableEq, Repr

namespace State

/-- The walk of R63 through a list of levels: an entry that the die's walk cache holds leads on at once (R65), the others are read
at their homes (R64, R72, R204). A read that its home cannot serve is a Page-table fault (R242). With the result stand the table
entries that the walk went through and the state that its reads leave. -/
def walkLevels (s : State) (d : DieId) (va : Nat) : List Nat → Nat → Tab (Nat × Nat) Nat → WalkR × Tab (Nat × Nat) Nat × State
  | [], _, path => (.fault 0x11, path, s)
  | l :: ls, table, path =>
    let key := (l, va / 2 ^ levelLog l)
    match tget? (s.die d).walkCache key with
    | some t => s.walkLevels d va ls t ((key, t) :: path)
    | none =>
      match s.reach d (table + 8 * levelIndex l va) with
      | .at_ h pa s =>
        if (s.die h.dieId).lost || !s.reaches d.pkg h.pkg || s.isPoisoned h then (.fault 0x11, path, s)
        else if (s.pinHolder h).isSome then (.busy, path, s)
        else
          match readPte l (leVal (s.homeBytes h.dieId pa 8)) with
          | .fault c => (.fault c, path, s)
          | .leaf p log f => (.ok { va := va / 2 ^ log * 2 ^ log, log := log, pa := p, flags := f }, path, s)
          | .next t => s.walkLevels d va ls t ((key, t) :: path)
      | _ => (.fault 0x11, path, s)

def walkFrom (s : State) (d : DieId) (va : Nat) : WalkR × Tab (Nat × Nat) Nat × State := s.walkLevels d va [1, 2, 3, 4] s.dom.root []

def walk (s : State) (d : DieId) (va : Nat) : WalkR := (s.walkFrom d va).1

/-- What a walk that ends leaves in the die: the walk cache and the second-level TLB hold a successful translation, and nothing of
one that faults (R64, R65). -/
def walkKeep (s : State) (d : DieId) (va : Nat) : State :=
  match s.walkFrom d va with
  | (.ok e, path, s) => s.updDie d fun k => { k with
      tlb := tlb2Put k.tlb e, walkCache := (path ++ k.walkCache.filter fun x => !path.any (·.1 == x.1)).take 2048 }
  | (_, _, s) => s

/-- Whether a translation has to wait: a walk of its page is under way, to which it attaches, or all 64 walkers are busy (R67). -/
def walkWaits (s : State) (d : DieId) (va : Nat) : Bool :=
  (tget? (s.die d).walks (pageOf va)).isSome || decide (64 ≤ (s.die d).walks.length)

end State

/-- What a translation through the tiers finds, with the state in which the tiers hold it. -/
inductive Trans where
  | ok (e : TlbEnt) (s : State)
  | fault (cause : Nat)
  | busy
  deriving DecidableEq, Repr

namespace State

/-- Put a translation into the first-level TLB of a core. -/
def tlbFill (s : State) (c : CoreId) (e : TlbEnt) : State := s.updCore c fun k => { k with tlb := tlb1Put k.tlb e }

/-- A hit of the second level: the entry becomes the most recent of its set, and the first level holds it too (R65). -/
def tlbHit2 (s : State) (c : CoreId) (e : TlbEnt) : State :=
  (s.updDie c.dieId fun k => { k with tlb := tlb2Put k.tlb e }).tlbFill c e

/-- Translate through first level, second level and walk (R65). -/
def translate (s : State) (c : CoreId) (va : Nat) : Trans :=
  match tlbFind (s.core c).tlb va with
  | some e => .ok e (s.updCore c fun k => { k with tlb := tlb1Use k.tlb e })
  | none =>
    match tlbFind (s.die c.dieId).tlb va with
    | some e => .ok e (s.tlbHit2 c e)
    | none =>
      if s.walkWaits c.dieId va then .busy
      else match s.walk c.dieId va with
        | .ok e => .ok e ((s.walkKeep c.dieId va).tlbFill c e)
        | .fault n => .fault n
        | .busy => .busy

end State

/-- The permission check of R63 for program code: a privileged page is closed to it. -/
def permitted (e : TlbEnt) (write fetch : Bool) : Bool :=
  !flagPriv e.flags && (!write || flagWrite e.flags) && (!fetch || flagExec e.flags)

/-- What an access by an engine, a walker or a synchronising instruction finds: the bytes; a fault with its cause and
address; an ERROR of the home (R42); or a line pinned elsewhere, which is tried again (R207). -/
inductive Access where
  | ok (bytes : List Byte) (s : State)
  | fault (cause : Nat) (addr : Nat)
  | error (cause : Nat) (addr : Nat) (pkg : Nat)
  | busy
  deriving DecidableEq, Repr

namespace State

/-- What a home answers to a read of bytes of one line. -/
def readAt (s : State) (h : Home) (pa n : Nat) : Access :=
  if (s.die h.dieId).lost then .error 4 pa h.pkg
  else if (s.pinHolder h).isSome then .busy
  else if s.isPoisoned h then .error 3 pa h.pkg
  else .ok (s.homeBytes h.dieId pa n) s

/-- Whether a home's line is shut to a direct access of a core and its engines (unit 0) or of its Porter (unit 1): only firmware may access
it, or the master is frozen there, and no held access to it was let go (R122, R123). -/
def shut (s : State) (unit : Nat) (c : CoreId) (h : Home) : Bool :=
  (s.guarded h || s.isFrozen h.pkg { coreEndpoint c with unit := unit }) && !(s.core c).passes.contains (lineOf (physKey h))

/-- An access of a core that was let go is performed. -/
def usePass (s : State) (c : CoreId) (h : Home) : State :=
  if (s.core c).passes.isEmpty then s else s.updCore c fun k => { k with passes := k.passes.erase (lineOf (physKey h)) }

/-- A direct access of a core (unit 0) or its Porter (unit 1) meets a line that is shut to it: the master is frozen at the line's home, and
the access is held there (R122, R123). -/
def stopAt (s : State) (unit : Nat) (c : CoreId) (h : Home) : State :=
  let e : Endpoint := { coreEndpoint c with unit := unit }
  let line := lineOf (physKey h)
  (if s.isFrozen h.pkg e then s else s.freeze h.pkg e 1).updFrozen h.pkg e fun x =>
    { x with lines := if x.lines.contains line then x.lines else x.lines ++ [line] }

/-- Whether a core's direct access to a line of a package that cannot be reached has timed out (R45): its tag is in quarantine. -/
def rowLate (s : State) (c : CoreId) (pa : Nat) : Bool :=
  (s.core c).tags.any fun x => x.2.quarantine && x.2.use == .row (lineOf pa)

/-- Whether no answer of a home comes to a core's direct access: its package cannot be reached. A die that is known to be lost is answered
for (R262). -/
def cutOff (s : State) (c : CoreId) (h : Home) : Bool := !(s.die h.dieId).lost && !s.reaches c.pkg h.pkg

/-- Whether a core's direct access waits for the answer of a package that cannot be reached, which does not come (R35, R45). -/
def rowWaits (s : State) (c : CoreId) (h : Home) (pa : Nat) : Bool := s.cutOff c h && !s.rowLate c pa

/-- A core's direct access to a line goes toward a package that cannot be reached, under a tag, whose timer ends it (R35, R44, R45). -/
def rowAsk (s : State) (unit : Nat) (c : CoreId) (h : Home) (pa : Nat) : State :=
  if (s.core c).tags.any fun x => x.2.held && x.2.use == .row (lineOf pa) then s
  else
    let e : Endpoint := { coreEndpoint c with unit := unit }
    (s.request c true { (default : Packet) with
      opcode := 1, dst := homeEndpoint h, src := e, issuer := coreEndpoint c, addr := pa, version := (s.die c.dieId).cur.version }
      (.row (lineOf pa))).getD s

/-- A direct access to n bytes waits: it may be that a line of them is shut to it, or lies in a package that cannot be reached. -/
def sense (s : State) (unit : Nat) (c : CoreId) (va n : Nat) : State :=
  let at_ := fun i : Nat =>
    let a := (va / 128 + i) * 128
    if va + n ≤ a then none
    else match tlbFind (s.core c).tlb a with
      | none => none
      | some e => (s.homeAt c.dieId (e.phys a)).bind fun h =>
          if s.shut unit c h || s.rowWaits c h (e.phys a) then some (h, e.phys a) else none
  match (List.range (n / 128 + 2)).findSome? at_ with
  | none => s
  | some (h, pa) => if s.shut unit c h then s.stopAt unit c h else s.rowAsk unit c h pa

/-- A core's read of bytes of one line at its home, under a tag of the core when the home is in another package (R44); `keep` is
what the read leaves in the reader's caches. A package that cannot be reached does not answer (R45). -/
def readHome (s : State) (unit : Nat) (c : CoreId) (h : Home) (pa n : Nat) (keep : State → State) : Access :=
  if s.shut unit c h || s.rowWaits c h pa then .busy
  else if s.cutOff c h then .error 0xFF pa h.pkg
  else match s.readAt h pa n with
  | .ok bs s =>
    match s.passTag c (h.pkg != c.pkg) with
    | none => .busy
    | some s => .ok bs (keep (s.usePass c h))
  | r => r

/-- Whether a visitor read of a line by a core of a die is not answered yet. A die has at most one on its way for a line, so that
its copies and its reads follow the line's coherence order (R210, R214; log 123). -/
def visitorAsked (s : State) (d : DieId) (pa : Nat) : Bool :=
  s.cores.any fun k => k.1.dieId == d && k.2.tags.any fun x =>
    x.2.held && x.2.req.opcode == 7 && decide (3 ≤ x.2.req.scope) && lineOf x.2.req.addr == lineOf pa

/-- Where an access of a scope to a pool line by a core is performed (R204): in its own cache when it pins the line there,
or for a core-scope load under policy 0 or 1 that hits; from a visitor copy at tray or rack scope; else at the home. A core-scope
read under policy 0 that misses fills the cache (R196), with a line newer than any that is on its way there (R214); one at tray or rack
scope installs a visitor copy (R209). -/
def readPlace (s : State) (unit : Nat) (c : CoreId) (scope policy pa n : Nat) : Access :=
  match s.homeAt c.dieId pa with
  | none => .fault 0x0E pa
  | some h =>
    let mine := match s.cached c pa with
      | some l => if l.pin != Pin.no || (scope = 0 && policy != 2) then some l else none
      | none => none
    match mine, (if visits c.dieId h scope then tget? (s.die c.dieId).visitors (lineOf pa) else none) with
    | some l, _ => .ok ((l.data.drop (pa % 128)).take n) (s.setLine c l)
    | none, some v => .ok ((v.drop (pa % 128)).take n) s
    | none, none =>
      match s.reach c.dieId pa with
      | .nowhere => .fault 0x0E pa
      | .refused e p => .error e pa p
      | .at_ h pa s =>
        let line := fun s : State => s.homeBytes h.dieId (lineOf pa * 128) 128
        if visits c.dieId h scope then
          if s.visitorAsked c.dieId pa || s.admitWaits h c.dieId then .busy
          else s.readHome unit c h pa n fun s =>
            if policy = 0 then (s.addHolder h pa c.dieId).putVisitor c.dieId pa (line s) else s
        else s.readHome unit c h pa n fun s =>
          if scope = 0 && policy = 0 then (s.install c pa (line s) .no []).staleFills c fun x => lineOf x == lineOf pa else s

/-- Write bytes of one line for a block of a core at the place of R204: its own cache when it pins the line; for a
core-scope write under policy 0 the cache, the line pinned now (R206); else the home. -/
def writePlace (s : State) (unit : Nat) (c : CoreId) (b : BlockId) (scope policy pa : Nat) (bs : List Byte) : Access :=
  let pin := ((s.cached c pa).map (·.pin)).getD .no
  if (s.homeAt c.dieId pa).isNone then .fault 0x0E pa
  else if pin = .held then .ok [] (s.writeCached c b pa bs)
  else if pin = .ending then .busy
  else match s.reach c.dieId pa with
    | .nowhere => .fault 0x0E pa
    | .refused e p => .error e pa p
    | .at_ h pa s =>
      if (s.die h.dieId).lost then .error 4 pa h.pkg
      else if (s.pinHolder h).isSome || s.shut unit c h || s.rowWaits c h pa then .busy
      else if s.cutOff c h then .error 0xFF pa h.pkg
      else match (s.usePass c h).passTag c (h.pkg != c.pkg) with
        | none => .busy
        | some s =>
          if scope = 0 && policy = 0 then
            if s.isPoisoned h then .error 3 pa h.pkg
            else
              let data := s.homeBytes h.dieId (lineOf pa * 128) 128
              .ok [] ((((s.pinAt h c).install c pa data .held [b]).staleFills c fun x => lineOf x == lineOf pa).writeCached c b pa bs)
          else .ok [] ((s.homeWrite h.dieId pa bs).dropClean c pa)

end State

/-- What a store at a virtual address finds: the pool address and the cache policy, a fault with its cause, or a walk that is under way. -/
inductive LaneLook where
  | at_ (pa policy : Nat)
  | fault (cause : Nat)
  | busy
  deriving DecidableEq, Repr

namespace State

/-- Look up a virtual address for a store, through the tiers (R56, R63, R65). -/
def lookStore (s : State) (c : CoreId) (va : Nat) : LaneLook × State :=
  if 2 ^ 57 ≤ va then (.fault 0x0C, s)
  else
    match s.translate c va with
    | .fault n => (.fault n, s)
    | .busy => (.busy, s)
    | .ok e s =>
      if !permitted e true false then (.fault 0x12, s)
      else if (s.homeAt c.dieId (e.phys va)).isNone then (.fault 0x0E, s)
      else (.at_ (e.phys va) (flagPolicy e.flags), s)

/-- Whether a core has a line pinned, and may write it (R206, R207). -/
def pinned (s : State) (c : CoreId) (pa : Nat) : Bool := (s.cached c pa).any (·.pin == .held)

/-- Whether a store of a core to a pool address can be performed now, as far as its line goes: the core has it pinned, or its home
answers, be it with ERROR (R204, R207). -/
def storeOpen (s : State) (unit : Nat) (c : CoreId) (pa : Nat) : Bool :=
  s.pinned c pa || (((s.cached c pa).map (·.pin)).getD .no != .ending &&
    match s.reach c.dieId pa with
    | .at_ h pa s => (s.die h.dieId).lost || ((s.pinHolder h).isNone && !s.shut unit c h && !s.rowWaits c h pa)
    | .refused _ _ => true
    | .nowhere => false)

/-- The part of a run of n bytes from a that lies in a's line. -/
def inLine (a n : Nat) : Nat := min n (128 - a % 128)

/-- Read n bytes from a virtual address, line by line, with the warp's rights (R56, R218); `fuel` bounds the lines. -/
def readVirtual (s : State) (unit : Nat) (c : CoreId) (scope va n : Nat) : Nat → Access
  | 0 => .ok [] s
  | fuel + 1 =>
    if n = 0 then .ok [] s
    else if 2 ^ 57 ≤ va then .fault 0x0C va
    else
      match s.translate c va with
      | .fault e => .fault e va
      | .busy => .busy
      | .ok e s =>
        if !permitted e false false then .fault 0x12 va
        else
          let k := inLine va n
          match s.readPlace unit c scope (flagPolicy e.flags) (e.phys va) k with
          | .ok bs s =>
            match s.readVirtual unit c scope (va + k) (n - k) fuel with
            | .ok rest s => .ok (bs ++ rest) s
            | r => r
          | .fault x _ => .fault x va
          | .error x _ p => .error x va p
          | .busy => .busy

/-- Write bytes at a virtual address, line by line. -/
def writeVirtual (s : State) (unit : Nat) (c : CoreId) (b : BlockId) (scope va : Nat) (bs : List Byte) : Nat → Access
  | 0 => .ok [] s
  | fuel + 1 =>
    if bs.isEmpty then .ok [] s
    else if 2 ^ 57 ≤ va then .fault 0x0C va
    else
      match s.translate c va with
      | .fault e => .fault e va
      | .busy => .busy
      | .ok e s =>
        if !permitted e true false then .fault 0x12 va
        else
          let k := inLine va bs.length
          match s.writePlace unit c b scope (flagPolicy e.flags) (e.phys va) (bs.take k) with
          | .ok _ s => s.writeVirtual unit c b scope (va + k) (bs.drop k) fuel
          | .fault x _ => .fault x va
          | .error x _ p => .error x va p
          | .busy => .busy

/-- Lines that n bytes can touch. -/
def lineFuel (n : Nat) : Nat := n / 128 + 2

/-! The instruction caches (R299-R301). -/

/-- A word of a line that a core's instruction cache holds. -/
def cachedWord (s : State) (c : CoreId) (pa : Nat) : Option Word :=
  (tget? (s.core c).icache (lineOf pa)).map fun l => BitVec.ofNat 32 (leVal ((l.data.drop (pa % 128)).take 4))

end State

/-- A fetched word, a fault with its cause, or a line that has been asked for (R299, R300). -/
inductive Fetch where
  | ok (w : Word) (s : State)
  | fault (cause : Nat)
  | wait (s : State)
  deriving DecidableEq, Repr

namespace State

/-- A line goes into a core's instruction cache: 16 KiB of 4 ways (R299). -/
def icachePut (s : State) (c : CoreId) (n : Nat) (line : CodeLine) : State :=
  s.updCore c fun k => { k with icache := waysPut 32 4 k.icache n line }

/-- A line has arrived for a die's instruction cache, 1 MiB of 16 ways, and goes to every core that waits for it (R299); with no core
attached any more, since a TLBINV came between, it is not kept (R301). -/
def icacheFill (s : State) (d : DieId) (n : Nat) (line : List Byte) : State :=
  match tget (s.die d).attached n [] with
  | [] => s
  | cs =>
    let l : CodeLine := { data := line, pages := (cs.map (·.2)).eraseDups }
    let s := s.updDie d fun k => { k with icache := waysPut 512 16 k.icache n l, attached := tdel k.attached n }
    cs.foldl (fun s x => s.icachePut x.1 n l) s

/-- A line seen through one more page. -/
def CodeLine.seen (l : CodeLine) (e : TlbEnt) : CodeLine :=
  if l.pages.contains (e.va, e.log) then l else { l with pages := (e.va, e.log) :: l.pages }

/-- A core uses a line of its instruction cache through a page: it is the most recent of its set, and the die's copy knows the page too. -/
def icacheHit (s : State) (c : CoreId) (e : TlbEnt) (n : Nat) (l : CodeLine) : State :=
  (s.icachePut c n (CodeLine.seen l e)).updDie c.dieId fun k => match tget? k.icache n with
    | some x => { k with icache := tset k.icache n (CodeLine.seen x e) }
    | none => k

/-- Bring a line of a page toward a core's instruction cache: from the die's cache, or by a fill to which the core attaches (R299). -/
def icacheAsk (s : State) (c : CoreId) (e : TlbEnt) (n : Nat) : State :=
  match tget? (s.die c.dieId).icache n with
  | some l =>
    let l := CodeLine.seen l e
    (s.updDie c.dieId fun k => { k with icache := waysPut 512 16 k.icache n l }).icachePut c n l
  | none =>
    let s := s.updDie c.dieId fun k =>
      let cs := tget k.attached n []
      let x := (c, e.va, e.log)
      { k with attached := tset k.attached n (if cs.contains x then cs else cs ++ [x]) }
    s.postOnce .ifetchFill { d := c.dieId, n := n }

/-- The core fetches the next sequential line ahead while it runs a clause (R299); where that line begins a page, the page is translated for
it, and a line that it may not fetch is left alone (log 124). -/
def icacheAhead (s : State) (c : CoreId) (e : TlbEnt) (va : Nat) : State :=
  let next := (va / 128 + 1) * 128
  let ask := fun (s : State) (e : TlbEnt) =>
    let n := lineOf (e.phys next)
    if (tget? (s.core c).icache n).isSome || (s.homeAt c.dieId (n * 128)).isNone then s else s.icacheAsk c e n
  if 2 ^ 57 ≤ next then s
  else if next / 2 ^ e.log = va / 2 ^ e.log then ask s e
  else match s.translate c next with
    | .ok f t => if permitted f false true then ask t f else t
    | _ => s

/-- Fetch one word: translation, execute permission, then the core's cache, the die's cache, the home (R299). A miss of the
die attaches to a fill that is under way. -/
def fetchWord (s : State) (c : CoreId) (va : Nat) : Fetch :=
  if 2 ^ 57 ≤ va then .fault 0x0C
  else
    match s.translate c va with
    | .fault n => .fault n
    | .busy => .wait s
    | .ok e s =>
      if !permitted e false true then .fault 0x12
      else
        let pa := e.phys va
        match s.cachedWord c pa with
        | some w =>
          match tget? (s.core c).icache (lineOf pa) with
          | some l => .ok w ((s.icacheHit c e (lineOf pa) l).icacheAhead c e va)
          | none => .ok w s
        | none =>
          if (s.homeAt c.dieId pa).isNone && (tget? (s.die c.dieId).icache (lineOf pa)).isNone then .fault 0x0E
          else
            let s := s.icacheAsk c e (lineOf pa)
            match s.cachedWord c pa with
            | some w => .ok w (s.icacheAhead c e va)
            | none => .wait s

/-- Fetch n words from va upward: the words, or what the first that cannot be fetched met and its address. -/
def fetchWords (s : State) (c : CoreId) (va : Nat) : Nat → Except (Fetch × Nat) (List Word × State)
  | 0 => .ok ([], s)
  | n + 1 =>
    match s.fetchWord c va with
    | .ok w s =>
      match s.fetchWords c (va + 4) n with
      | .ok (ws, s) => .ok (w :: ws, s)
      | .error e => .error e
    | r => .error (r, va)

end State

end Sys2Proof.Machine
end

