-- ==== Sys2Proof/Machine/Issue.lean ====
section
/-! DEFINITION. Clause issue (R167-R172, R276-R278, R299, R300): the PC slot that issues, the end of a clause and the join
(R177), the warp's exit (R179), and which slot of a quadrant issues next (R168). -/

namespace Sys2Proof.Machine

abbrev Result := Host.Outcome State Fault Refusal

/-- Where an instruction issues: the warp, its PC slot, and the block. -/
structure Site where
  wid : WarpId
  sel : PcSel
  w : Warp
  sl : PcSlot
  b : Block
  deriving DecidableEq, Repr

namespace Site

def core (x : Site) : CoreId := x.wid.core

/-- The word index of the instruction's first word (R250). -/
def k (x : Site) : Nat := if x.sl.k = 0 then 1 else x.sl.k

/-- The instruction's address in instruction form (R250), and its word's address. -/
def addr (x : Site) : DWord := instrForm x.sl.pc x.k

def wordAddr (x : Site) : DWord := x.sl.pc + BitVec.ofNat 64 (4 * x.k)

/-- The number of words of the clause (R276); a slot without a fetched clause holds this one word. -/
def n (x : Site) : Nat := ((x.sl.clause.map (·.hdr.n)).getD x.k)

/-- The next sequential clause (R276). -/
def nextClause (x : Site) : DWord := x.sl.pc + BitVec.ofNat 64 (4 * (x.n + 1))

def withW (x : Site) (w : Warp) : Site := { x with w := w, sl := w.slot x.sel }

end Site

namespace State

/-- The site that the state names, when its warp and block are there. -/
def siteOf (s : State) : Option Site :=
  match s.site with
  | none => none
  | some (wid, sel) =>
    match s.warp? wid with
    | none => none
    | some w =>
      match s.block? w.block with
      | none => none
      | some b => some { wid := wid, sel := sel, w := w, sl := w.slot sel, b := b }

/-- The instruction could not issue yet (R167): the state says so and is otherwise as it was. -/
def stall (s : State) : Result := .next { s with stalled := true }

/-- Meanings run at a site; without one nothing issues the instruction. -/
def atSite (s : State) (f : Site → Result) : Result :=
  match s.siteOf with
  | some x => f x
  | none => .fault .noIssuer

/-! The end of a clause, the join and the pop (R171, R177, R179). -/

end State

/-- Results committed, the slot at the start of the clause at an address (R171). -/
def toClause (w : Warp) (x : PcSel) (pc : DWord) : Warp :=
  let w := commitHeld w x
  let sl := w.slot x
  w.setSlot x { sl with pc := pc, k := 0, clause := none, parkedWait := false, claimed := false, via := none }

/-- A slot at a clause boundary whose next clause is J has reached the join and parks there (R177). -/
def parkAtJoin (w : Warp) (x : PcSel) : Warp :=
  let sl := w.slot x
  if sl.live && sl.k = 0 && !sl.parkedWait && w.j = some sl.pc then w.setSlot x { sl with parkedJoin := true } else w

/-- Merge the program orders of the live slots (R211). -/
def mergeOrder (w : Warp) : Warp :=
  let m := fun f : Flight => (w.a.live && f.inA) || (w.b.live && f.inB)
  { w with flights := w.flights.map fun f => { f with inA := m f, inB := m f } }

namespace State

/-- Pop the top entry of the divergence stack (R177, R178): slot B takes up the program order of the slot that was pushed (R211). -/
def popStack (s : State) (b : Block) (w : Warp) : Warp :=
  let e := s.coreBytes b.core (s.stackPool b w (w.dsp - 1)) 16
  let form := BitVec.ofNat 64 (field e 0 8)
  let pc := BitVec.ofNat 64 (form.toNat % 2 ^ 57 / 4 * 4)
  { w with
    dsp := w.dsp - 1
    flights := w.flights.map fun f =>
      { f with inA := w.a.live && f.inA, inB := f.stk.contains (w.dsp - 1), stk := f.stk.filter (· != w.dsp - 1) }
    b := { slotOfForm form (BitVec.ofNat 32 (field e 12 4)) with scLast := tget? w.scStack (w.dsp - 1) }
    scStack := tdel w.scStack (w.dsp - 1)
    j := some (pc + BitVec.ofInt 64 (4 * toSigned 32 (field e 8 4))) }

/-- Join, merge and pop until nothing more merges; `fuel` bounds the pops (R177, R318). Slot A, where it stays live, has started what it
has (R168), and what led to J is the transfer of the slot whose arrival completes the join (R311). -/
def settle (s : State) (b : Block) (w : Warp) : Nat → Warp
  | 0 => w
  | fuel + 1 =>
    let late := fun v : Warp => if v.a.live && (!w.a.parkedJoin || !v.b.live) then v.a.via else v.b.via
    let w := parkAtJoin (parkAtJoin w .a) .b
    let done := fun (m : Mask) (j : DWord) =>
      let w := { mergeOrder w with
        a := { PcSlot.empty with
          mask := m, pc := j, issued := w.a.issued, started := if w.a.live then w.a.started else none
          scLast := laterSc w.a.scLast w.b.scLast, via := late w }
        b := PcSlot.empty }
      if w.dsp = 0 then { w with j := none } else s.settle b (s.popStack b w) fuel
    match w.j with
    | none => w
    | some j =>
      if w.a.live && w.b.live then
        if w.a.parkedJoin && w.b.parkedJoin then done (w.a.mask ||| w.b.mask) j else w
      else if w.a.live then (if w.a.parkedJoin then done w.a.mask j else w)
      else if w.b.live then (if w.b.parkedJoin then done w.b.mask j else w)
      else if w.dsp = 0 then { w with j := none }
      else s.settle b (s.popStack b { w with a := PcSlot.empty, b := PcSlot.empty }) fuel

/-- Store a warp after a slot's clause has ended: joins, and the warp's exit when no lane is left (R177, R179). When the
block's last warp has exited, the block retires (R191); a REGROUP or UNGROUP may now have all its warps (R181). -/
def settled (s : State) (wid : WarpId) (b : Block) (w : Warp) : State :=
  let w := s.settle b w (w.dsp + 2)
  if w.a.live || w.b.live then s.setWarp wid w
  else
    let s := s.setWarp wid { w with exited := true, handler := false, trap := none }
    let s := if s.warps.all fun x => x.2.block != w.block || x.2.laneless then s.postOnce .blockRetire { b := w.block } else s
    if s.warps.any fun x => x.2.block == w.block && x.2.regrouping.isSome then s.postOnce .regroupComplete { b := w.block } else s

/-- The core and the slot note that a word has issued (R168): the slot has a claim on its clause, and a slot that starts a
clause moves the quadrant's search on. -/
def stamp (s : State) (x : Site) : State × PcSlot :=
  let c := s.core x.core
  let starts := x.sl.k = 0
  let sl := { x.sl with
    issued := c.stamp, claimed := true, parkedWait := false
    started := if starts then some c.stamp else x.sl.started
    first := if starts then x.w.nextId else x.sl.first }
  (s.setCore x.core { c with
    stamp := c.stamp + 1
    lastStart := if starts then tset c.lastStart (x.wid.slot % 4) x.wid.slot else c.lastStart }, sl)

/-- The instruction of n words has issued and left warp w: the slot moves past its words; at the clause's end the results
commit and the slot goes to `target`, or to the next clause in sequence (R171, R311). A warp that starts a clause holds
a yield pass no more: it was passed over, or no other was ready (R168). -/
def advanceTo (s : State) (x : Site) (n : Nat) (w : Warp) (target : Option DWord) : State :=
  let (s, st) := s.stamp x
  let sl := { (w.slot x.sel) with issued := st.issued, claimed := st.claimed, started := st.started, first := st.first
                                  parkedWait := false, await := none }
  let w := if x.sl.k = 0 then { w with yieldPass := false } else w
  if x.k + n ≤ x.n && target.isNone then s.setWarp x.wid (w.setSlot x.sel { sl with k := x.k + n })
  else
    let w := w.setSlot x.sel sl
    let w := if (x.sl.clause.map (·.hdr.yield)).getD false then { w with yieldPass := true } else w
    let w := toClause w x.sel (target.getD x.nextClause)
    s.settled x.wid x.b (w.setSlot x.sel { w.slot x.sel with via := target.map fun _ => x.addr })

def advance (s : State) (x : Site) (n : Nat) (w : Warp) : State := s.advanceTo x n w none

/-- An issue trap at the instruction (R241): it does not execute, and the earlier words of its clause are committed. -/
def trapAt (s : State) (x : Site) (cause : Nat) (addr : DWord) (lanes : Mask) : Result :=
  .next (s.raise x.wid { cause := cause, slot := x.sel, addr := addr, lanes := lanes, instr := x.addr, aux := 0 })

/-- An issue trap of an unguarded instruction as a whole: it faults in every lane of its slot (R249). -/
def trapWhole (s : State) (x : Site) (cause : Nat) (addr : DWord) : Result := s.trapAt x cause addr x.sl.mask

end State

/-! Fetching and checking a clause. -/

/-- The slots that stop: the warp has a trap to take, is in a barrier of R181, or its block or core does not run. -/
def stopped (s : State) (wid : WarpId) (w : Warp) : Bool :=
  w.exited || w.trap.isSome || (w.regrouping.isSome && w.engine.isNone) || w.serving || s.frozen || (s.core wid.core).frozen ||
    !(s.die wid.core.dieId).released || (s.die wid.core.dieId).lost ||
    match s.block? w.block with
    | some b => b.state != 0
    | none => true

/-- A slot that may issue if its words can (R167): live, not parked. A slot parked in WAITANY runs when an admitted event is
pending (R187), or an Engine fault due, which it takes there (R242, R386). -/
def mayIssue (w : Warp) (x : PcSel) : Bool :=
  let sl := w.slot x
  sl.live && !sl.parkedJoin && sl.blocked.isNone && (!sl.parkedWait || (w.evp &&& w.evm) != 0 || w.engine.isSome)

/-- Word N of a clause must not be the first word of a long instruction (R277); `ws` are the words from an instruction's
first word on. -/
def longAtEnd : List Word → Bool
  | [] => false
  | w :: ws => if longBit w then (match ws with | [] => true | _ :: r => longAtEnd r) else longAtEnd ws

/-- What a slot's next word turned out to be. -/
inductive Ready where
  | go (i : Instr) (s : State)
  | wait (s : State)
  | trapped (s : State)
  deriving DecidableEq, Repr

namespace State

/-- A trap before any word issued: a bad header or a failed fetch (R300, R311). The faulting instruction is the transfer
that led to a bad header (R311); in the other cases the spec names none, and the value is free, in instruction form (R249). -/
def fetchTrap (s : State) (x : Site) (cause addr : Nat) : Ready :=
  let t : DWord → TrapRec := fun i =>
    { cause := cause, slot := x.sel, addr := BitVec.ofNat 64 addr, lanes := x.sl.mask, instr := i, aux := 0 }
  match x.sl.via, cause with
  | some i, 1 => .trapped (s.raise x.wid (t i))
  | _, _ => .trapped (s.freeValue.2.raise x.wid (t (s.freeValue.1 &&& 0x3DFFFFFFFFFFFFFC)))

/-- Fetch the clause of a slot that has none (R299): the header, its checks (R277), the words. -/
def fetchClause (s : State) (x : Site) : Ready :=
  let pc := x.sl.pc.toNat
  let failed : Fetch × Nat → Ready := fun e =>
    match e with
    | (.fault c, a) => s.fetchTrap x c a
    | (.wait s, _) => .wait s
    | (.ok _ s, _) => .wait s
  if pc % 4 != 0 then s.fetchTrap x 1 pc
  else
    match s.fetchWords x.core pc 1 with
    | .error e => failed e
    | .ok (ws, s1) =>
      match decodeHeader (ws.getD 0 0) with
      | none => s.fetchTrap x 1 pc
      | some h =>
        match s1.fetchWords x.core (pc + 4) h.n with
        | .error e => failed e
        | .ok (ws, s2) =>
          if longAtEnd ws then s.fetchTrap x 1 pc
          else
            let w := x.w.setSlot x.sel { x.sl with clause := some { hdr := h, words := ws } }
            .wait (s2.setWarp x.wid w)

/-- The instruction at a slot's next word, with the checks that its place in the clause decides (R278, R298). A slot parked
in WAITANY stands at its clause's last word. -/
def nextInstr (s : State) (x : Site) (cl : Clause) : Ready :=
  let k := if x.sl.parkedWait then cl.hdr.n else x.k
  let w0 := cl.words.getD (k - 1) 0
  let ext := if longBit w0 then cl.words[k]? else none
  let bad : Ready := .trapped (s.raise x.wid
    { cause := 2, slot := x.sel, addr := 0, lanes := x.sl.mask, instr := instrForm x.sl.pc k, aux := 0 })
  match decode cl.hdr.cls w0 ext with
  | .error _ => bad
  | .ok i =>
    if (ext.isSome && cl.hdr.hold.getLsbD k) || (isTransfer i && k + (if ext.isSome then 1 else 0) != cl.hdr.n) then bad
    else
      let hold := cl.hdr.hold.getLsbD (k - 1) && k != 1
      if hold && clausePending x.w x.sel then .wait s
      else
        let w := if hold then commitHeld x.w x.sel else x.w
        let w := if x.sl.parkedWait then w.setSlot x.sel { w.slot x.sel with k := k } else w
        .go i { s.setWarp x.wid w with site := some (x.wid, x.sel) }

/-- What a slot has ready: its clause is fetched, then its next word. An Engine fault that is due is taken here, at the
instruction boundary (R242), which a waiting REGROUP is, too (R386). -/
def ready (s : State) (x : Site) : Ready :=
  match x.w.engine with
  | some t => .trapped ((s.updWarp x.wid fun w => { w with regrouping := none }).raise x.wid { t with slot := x.sel, aux := 0 })
  | none =>
    match x.sl.clause with
    | some cl => s.nextInstr x cl
    | none =>
      match s.fetchClause x with
      | .wait s' =>
        match s'.warp? x.wid with
        | some w =>
          match (w.slot x.sel).clause with
          | some cl => s'.nextInstr { x with w := w, sl := w.slot x.sel } cl
          | none => .wait s'
        | none => .wait s'
      | r => r

/-! Which slot issues (R168). -/

/-- The slots of a quadrant's warps that may issue, in ascending warp-slot order. -/
def candidates (s : State) (c : CoreId) (q : Nat) : List (WarpId × PcSel) :=
  (List.range 16).flatMap fun i =>
    let wid : WarpId := { core := c, slot := 4 * i + q }
    match s.warp? wid with
    | none => []
    | some w => if stopped s wid w then [] else [.a, .b].filterMap fun x => if mayIssue w x then some (wid, x) else none

def slotAt (s : State) (p : WarpId × PcSel) : PcSlot :=
  match s.warp? p.1 with
  | some w => w.slot p.2
  | none => PcSlot.empty

/-- Insert by the stamp of the last issue, the most recent first. -/
def byIssued (s : State) (p : WarpId × PcSel) : List (WarpId × PcSel) → List (WarpId × PcSel)
  | [] => [p]
  | q :: qs => if (s.slotAt q).issued ≤ (s.slotAt p).issued then p :: q :: qs else q :: s.byIssued p qs

/-- Of one warp's two slots, the one that started a clause less recently first; slot A when neither has (R168). -/
def lessRecent (s : State) (p q : WarpId × PcSel) : Bool :=
  match (s.slotAt p).started, (s.slotAt q).started with
  | none, _ => true
  | some _, none => false
  | some a, some b => decide (a ≤ b)

/-- The search order of warps (R168): ascending slots from the one after the last that started a clause, wrapping. -/
def searchOrder (s : State) (c : CoreId) (q : Nat) (l : List (WarpId × PcSel)) : List (WarpId × PcSel) :=
  let warps := (List.range 16).map fun i => 4 * i + q
  let rot := match tget? (s.core c).lastStart q with
    | some last => warps.filter (last < ·) ++ warps.filter (· ≤ last)
    | none => warps
  rot.flatMap fun n =>
    match l.filter (·.1.slot == n) with
    | [p, r] => if s.lessRecent p r then [p, r] else [r, p]
    | m => m

def holdsPass (s : State) (p : WarpId × PcSel) : Bool :=
  match s.warp? p.1 with
  | some w => w.yieldPass
  | none => false

/-- The slots in the order in which R168 would take them, were all of them ready. -/
def issueOrder (s : State) (c : CoreId) (q : Nat) : List (WarpId × PcSel) :=
  let l := s.candidates c q
  let mid := l.filter fun p => (s.slotAt p).claimed && (s.slotAt p).k != 0
  let rest := s.searchOrder c q (l.filter fun p => !((s.slotAt p).claimed && (s.slotAt p).k != 0))
  mid.foldl (fun acc p => s.byIssued p acc) [] ++ rest.filter (fun p => !s.holdsPass p) ++ rest.filter s.holdsPass

/-- Whether a slot is ready (R167): its next instruction can issue, or traps. -/
def readyNow (ex : Instr → State → Result) (s : State) (p : WarpId × PcSel) : Bool :=
  match ({ s with site := some p } : State).siteOf with
  | none => false
  | some x =>
    match s.ready x with
    | .wait _ => false
    | .trapped _ => true
    | .go i s' => match ex i s' with
      | .next t => !t.stalled
      | _ => false

/-- The warps of the quadrant that the search passed over when it started a clause of slot p (R168): those with a pass that have a
ready slot and come before p's warp, or, when that one holds a pass itself, all of them. -/
def passedOver (ex : Instr → State → Result) (s : State) (c : CoreId) (q : Nat) (p : WarpId × PcSel) : List WarpId :=
  let l := s.searchOrder c q (s.candidates c q)
  let seen := if s.holdsPass p then l else l.takeWhile fun r => r.1 != p.1
  ((seen.filter fun r => s.holdsPass r && r.1 != p.1).filter (s.readyNow ex)).map (·.1)

/-- Whether a slot's warp is the only one of its quadrant with a ready slot: it then holds a yield pass no more (R168). -/
def alone (ex : Instr → State → Result) (s : State) (c : CoreId) (q : Nat) (p : WarpId × PcSel) : Bool :=
  (s.candidates c q).all fun r => r.1 == p.1 || !s.readyNow ex r

/-- Warps that were passed over hold a yield pass no more (R168). -/
def endPasses (s : State) (ws : List WarpId) : State :=
  ws.foldl (fun s w => s.updWarp w fun v => { v with yieldPass := false }) s

/-- An A latch is emptied when an instruction of its warp issues with a destination in the latched registers (R373): the instruction names
one, or one is empty, is to be written, or no longer holds what was latched. It is emptied when its warp exits. -/
def dropLatch (s : State) (wid : WarpId) (i : Instr) : State :=
  let q := wid.slot % 4
  match tget? (s.core wid.core).latch q, s.warp? wid with
  | some l, some w =>
    let same := (List.range l.rows.length).all fun i =>
      let r := l.a + i
      (w.vreg r).full && (w.vreg r).lanes == l.rows.getD i [] && !heldWritesV w.a r && !heldWritesV w.b r
    let kept := same && !w.exited && !(Bireth.vecDests i).any fun r => decide (l.a ≤ r) && decide (r < l.a + l.rows.length)
    if l.slot != wid.slot || kept then s else s.updCore wid.core fun k => { k with latch := tdel k.latch q }
  | _, _ => s

end State

/-- The unit that a core's quadrants share and that an instruction needs (R169): memory port, matrix queue, Porter queue,
synchronisation unit. -/
def unitOf (i : Instr) : Option Nat :=
  match encode i with
  | some (.mem, _) => some 0
  | some (.mtx, _) => some 1
  | some (.cpy, _) => some 2
  | some (.sync, _) => some 3
  | some (.sys, _) => some 3
  | _ => none

namespace State

/-- A shared unit has served a quadrant (R169). -/
def noteServed (s : State) (c : CoreId) (q : Nat) (i : Instr) : State :=
  match unitOf i with
  | some u => s.updCore c fun k => { k with served := tset k.served u q }
  | none => s

/-- Let the first slot of the list that can issue do so; `ex` gives instructions their meaning. A slot that cannot is passed
over, whatever it has asked for meanwhile. -/
def issueFirst (ex : Instr → State → Result) (c : CoreId) (q : Nat) : List (WarpId × PcSel) → State → Result
  | [], s => .next s
  | p :: ps, s =>
    match ({ s with site := some p } : State).siteOf with
    | none => issueFirst ex c q ps s
    | some x =>
      match s.ready x with
      | .wait s' => issueFirst ex c q ps s'
      | .trapped s' => .next { s' with site := none }
      | .go i s' =>
        match ex i (if s.holdsPass p && x.sl.k != 0 && s.alone ex c q p then s'.endPasses [p.1] else s') with
        | .next t =>
          if t.stalled then issueFirst ex c q ps { t with stalled := false, site := none }
          else
            let passed := if x.sl.k = 0 then s.passedOver ex c q p else []
            .next { (((t.endPasses passed).dropLatch p.1 i).noteServed c q i) with site := none }
        | .fault f => .fault f
        | .refused r => .refused r

/-- The instruction that the first slot of a list that can issue would issue. -/
def firstReady (ex : Instr → State → Result) : List (WarpId × PcSel) → State → Option Instr
  | [], _ => none
  | p :: ps, s =>
    match ({ s with site := some p } : State).siteOf with
    | none => firstReady ex ps s
    | some x =>
      match s.ready x with
      | .wait s' => firstReady ex ps s'
      | .trapped _ => none
      | .go i s' => match ex i s' with
        | .next t => if t.stalled then firstReady ex ps { t with stalled := false, site := none } else some i
        | _ => none

/-- The quadrants that come before q when a shared unit takes the next one (R169). -/
def quadsBefore (s : State) (c : CoreId) (u q : Nat) : List Nat :=
  let last := tget (s.core c).served u 3
  ((List.range 4).map fun i => (last + 1 + i) % 4).takeWhile (· != q)

/-- Whether a shared unit refuses a quadrant's instruction: one that comes before it has an instruction for the unit, too (R169). -/
def refused (ex : Instr → State → Result) (s : State) (c : CoreId) (q : Nat) : Bool :=
  match (firstReady ex (s.issueOrder c q) s).bind unitOf with
  | some u => (s.quadsBefore c u q).any fun r => (firstReady ex (s.issueOrder c r) s).bind unitOf == some u
  | none => false

/-- The issue of a quadrant (R168): nothing when a shared unit takes that of another first (R169). -/
def issueQuad (ex : Instr → State → Result) (c : CoreId) (q : Nat) (s : State) : Result :=
  let rivals := [0, 1, 2, 3].any fun r => r != q && !(s.candidates c r).isEmpty
  if rivals && s.refused ex c q then .next s else issueFirst ex c q (s.issueOrder c q) s

end State

end Sys2Proof.Machine
end

