-- ==== Sys2Proof/Machine/Start.lean ====
section
/-! DEFINITION. The state in which a warp and a block start (R166, R175, R180, R397, R398). -/

namespace Sys2Proof.Machine

def Walker.unbound : Walker := { bound := 0, desc := [], i0 := 0, i1 := 0, i2 := 0, pre := [] }

def EventSlot.unbound : EventSlot :=
  { kind := 0, armed := false, fired := false, handler := 0, source := 0, phase := false, target := 0, pa := 0 }

/-- A tile of zeros: 32 rows of 32 elements (R362). -/
def zeroTile : List Word := List.replicate 1024 0

/-- A warp when it first starts (R166, R175): registers zero and full, slot A at the entry with every lane. -/
def Warp.start (b : BlockId) (num units tiles : Nat) (entry : DWord) : Warp :=
  { block := b, num := num, units := units, tiles := tiles
    v := List.replicate (8 * units) zeroReg, s := List.replicate 64 0, p := List.replicate 8 0
    z := List.replicate tiles zeroTile
    a := { PcSlot.empty with mask := BitVec.allOnes 32, pc := entry }, b := PcSlot.empty, j := none, dsp := 0, scStack := []
    events := List.replicate 8 EventSlot.unbound, evp := 0, evm := 0, walkers := List.replicate 8 Walker.unbound
    wef := 0, rff := 0, rffMore := 0, rffol := 0, rffoh := 0, tvec := 0, handler := false, timer := 0, mxs := 0, lastBatch := 0
    openCmds := [], batches := [], bcast := 0, arrA := 0, arrF := 0, flights := [], narrow := [], nextId := 1, trap := none
    engine := none, parked := [], yieldPass := false, exited := false, regrouping := none, serving := false
    mstLines := [], granted := none }

def Chan.idle : Chan :=
  { state := 0, head := 0, records := 0, warp := 0, origin := 0, scope := 0, order := 0, doing := none, left := []
    bad := none, after := [] }

/-- A block when it starts: the lane map is the identity (R180), the channels are idle (R395). -/
def Block.start (c : CoreId) (warps units tiles bars stack kib : Nat) (grans slots : List Nat) : Block :=
  { core := c, state := 0, x := 0, y := 0, z := 0, warps := warps, units := units, tiles := tiles, bars := bars
    stack := stack, grans := grans, scratchKiB := kib, heap := 0, slots := slots
    laneMap := List.range (32 * warps), cbAddr := 0, cbLen := 0, cbData := none, cbUse := 0
    chans := List.replicate 4 Chan.idle, straddle := 0, prio := 0, cont := 0, contMode := false, priv := false
    pfCount := 0, pfAddr := 0, pfCause := 0, gone := [], kept := [] }

end Sys2Proof.Machine
end

