-- ==== Sys2Proof/Machine/Operands.lean ====
section
/-! DEFINITION. Operand forms: scalar operands (R284, R303), vector operands with guards, empty bits, cross-lane modes and
scalar b (R173, R174, R283-R287, R321-R324), walkers as operands (R182-R184), and the schemes by which scalar and vector
instructions read, compute and hold their results (R170-R172). -/

namespace Sys2Proof.Machine

/-- A scalar field names s0-s63 (R284). -/
def scalarOk (r : Nat) : Bool := decide (r < 64)

/-- A vector field names a register of the warp (R166, R284). -/
def vectorOk (w : Warp) (r : Nat) : Bool := decide (r < 8 * w.units)

/-- Hold a result of the slot's clause (R171). -/
def Site.hold (x : Site) (h : Held) : Warp := x.w.setSlot x.sel { x.sl with held := x.sl.held ++ [h] }

namespace State

/-- A scalar instruction (R302-R304): the fields in `regs` and d in range, then the result of the values read. -/
def scalarOp (s : State) (n : Nat) (regs : List Nat) (d : Nat) (f : Warp → Word) : Result :=
  s.atSite fun x =>
    if !(d :: regs).all scalarOk then s.trapWhole x 4 0
    else .next (s.advance x n (x.hold (.s d (f x.w))))

end State

/-! The modifiers of a vector instruction. -/

/-- What the short form implies or the XR word says (R281, R283): words, guard, scalar b, cross-lane, rounding, minor. -/
structure VForm where
  n : Nat
  g : Nat
  neg : Bool
  bs : Bool
  fc : Bool
  c : Nat
  mode : Nat
  amt : Nat
  clamp : Bool
  rm : Rm
  minor : Nat
  deriving DecidableEq, Repr

/-- The short form: the first word's guard, everything else as R283 gives. -/
def VForm.short (r : Reg) : VForm :=
  { n := 1, g := r.g.toNat, neg := false, bs := false, fc := false, c := 0, mode := 0, amt := 0, clamp := false
    rm := .rne, minor := 0 }

def VForm.long (x : Xr) : VForm :=
  { n := 2, g := x.g.toNat, neg := x.neg, bs := x.bs, fc := x.fc, c := x.c.toNat, mode := x.mode.toNat
    amt := x.amt.toNat, clamp := x.clamp, rm := Rm.ofBits x.rnd, minor := x.minor.toNat }

/-- An unguarded form of n words (R286). -/
def VForm.plain (n : Nat) : VForm :=
  { n := n, g := 0, neg := false, bs := false, fc := false, c := 0, mode := 0, amt := 0, clamp := false, rm := .rne
    minor := 0 }

/-- The guard's lanes within a mask (R322). -/
def guardLanes (w : Warp) (mask : Mask) (g : Nat) (neg : Bool) : Mask :=
  mask &&& (if neg then ~~~(w.preg g) else w.preg g)

def VForm.act (v : VForm) (x : Site) : Mask := guardLanes x.w x.sl.mask v.g v.neg

/-- The source lane of a cross-lane mode (R287), or none where it lies outside 0-31. -/
def crossLane (mode n l : Nat) : Option Nat :=
  match mode with
  | 0 => some l
  | 1 => some n
  | 2 => some (Nat.xor l n)
  | 3 => if n ≤ l then some (l - n) else none
  | 4 => if l + n < 32 then some (l + n) else none
  | _ => some ((l + n) % 32)

/-- The value lane l reads for a (R287): 0 outside, or the lane's own with clamp. -/
def crossRead (v : VForm) (a : Lanes) (l : Nat) : Word :=
  match crossLane v.mode v.amt l with
  | some q => lane a q
  | none => if v.clamp then lane a l else 0

/-! Walkers as operands. -/

/-- The fields of a walker's descriptor (R182). -/
def walkDims (d : List Byte) : List (Nat × Int) :=
  [(field d 20 2, toSigned 32 (field d 8 4)), (field d 22 2, toSigned 32 (field d 12 4)), (field d 24 2, toSigned 32 (field d 16 4))]

def walkSize (d : List Byte) : Nat := 2 ^ bits (field d 26 1) 3 2
def walkSigned (d : List Byte) : Bool := bits (field d 26 1) 1 1 == 1
def walkOutput (d : List Byte) : Bool := bits (field d 26 1) 0 0 == 1

/-- The checks of R182 on a descriptor. -/
def walkDescOk (d : List Byte) : Bool :=
  let e : Int := walkSize d
  field d 27 5 == 0 && bits (field d 26 1) 7 4 == 0 && bits (field d 26 1) 3 2 != 3 &&
    (walkDims d).all (fun x => x.1 != 0 && x.2 % e == 0) && (field d 0 8 : Int) % e == 0

/-- The address of the vector at a position (R183). -/
def walkAddr (d : List Byte) (i0 i1 i2 : Nat) : DWord :=
  BitVec.ofInt 64 ((field d 0 8 : Int) + i0 * toSigned 32 (field d 8 4) + i1 * toSigned 32 (field d 12 4) +
    i2 * toSigned 32 (field d 16 4))

/-- The next position and the end flags (R183). -/
def walkNext (d : List Byte) (i0 i1 i2 : Nat) : (Nat × Nat × Nat) × (Bool × Bool × Bool) :=
  let e0 := i0 + 1 == field d 20 2
  let j1 := if e0 then i1 + 1 else i1
  let e1 := e0 && j1 == field d 22 2
  let j2 := if e1 then i2 + 1 else i2
  let e2 := e1 && j2 == field d 24 2
  ((if e0 then 0 else i0 + 1, if e1 then 0 else j1, if e2 then 0 else j2), (e0, e1, e2))

/-- An instruction that names walker k has issued: it advances once (R183). -/
def stepWalker (w : Warp) (k : Nat) : Warp :=
  let v := w.walker k
  let ((i0, i1, i2), (e0, e1, e2)) := walkNext v.desc v.i0 v.i1 v.i2
  { w with walkers := lput w.walkers k { v with i0 := i0, i1 := i1, i2 := i2, pre := v.pre.tail } default
           wef := putEnds w.wef k e0 e1 e2 }

/-- A walker that reads (R182). -/
def isInput (w : Warp) (k : Nat) : Bool := !walkOutput (w.walker k).desc

/-- The lanes of a vector source: the walker's next vector, or the register's (R183). -/
def readLanes (w : Warp) (r : Nat) : Lanes :=
  match w.boundWalker r with
  | some k => match (w.walker k).pre with
    | f :: _ => f.lanes
    | [] => zeroLanes
  | none => (w.vreg r).lanes

/-- Whether a source is empty (R173): a walker whose next vector has not arrived counts so. -/
def isEmpty (w : Warp) (r : Nat) : Bool :=
  match w.boundWalker r with
  | some k => isInput w k && (w.walker k).pre.isEmpty
  | none => !(w.vreg r).full

/-- Whether the producer of an empty register sits in the replay queue: nothing in flight will fill it (R247). -/
def orphaned (w : Warp) (r : Nat) : Bool :=
  w.handler && (w.boundWalker r).isNone && !(w.flights.any fun f => f.dest.contains r)

namespace State

/-- A Remote-fault trap (R174, R221): the frame names the instruction that produced the poison. -/
def poisonTrap (s : State) (x : Site) (p : Poison) (act : Mask) : Result :=
  .next (s.raise x.wid { cause := 6, slot := x.sel, addr := 0, lanes := act, instr := p.origin, aux := p.aux })

/-- Whether the matrix engine has yet to read a register of a warp for an MLOOP (R366). -/
def readsReg (s : State) (wid : WarpId) (r : Nat) : Bool := (s.core wid.core).mtx.any fun c => c.w == wid && c.regs.contains r

/-- The issue checks on registers in the order of R242: ranges, empty sources that trap, waits on empty sources and
destinations, poison, walkers. `vs` lists vector sources with their empty bits, `ss` scalars, `ds` vector destinations,
`long` whether the result is long-latency. None: the instruction may go on. -/
def regCheck (s : State) (x : Site) (act : Mask) (vs : List (Nat × Bool)) (ss ds : List Nat) (long : Bool) : Option Result :=
  let w := x.w
  if !((vs.map (·.1)) ++ ds).all (vectorOk w) || !ss.all scalarOk then some (s.trapAt x 4 0 act)
  else if vs.any fun v => isEmpty w v.1 && (v.2 || orphaned w v.1) then some (s.trapAt x 5 0 act)
  else if vs.any (fun v => isEmpty w v.1) ||
      ds.any (fun r => (w.boundWalker r).isNone && (!(w.vreg r).full || s.readsReg x.wid r)) then
    some ((vs.filterMap fun v => if isEmpty w v.1 then w.boundWalker v.1 else none).foldl
      (fun s k => s.postOnce .walkerFetch { w := x.wid, n := k }) s).stall
  else
    match (vs.filterMap fun v => if (w.boundWalker v.1).isNone then (w.vreg v.1).poison else none) with
    | p :: _ => some (s.poisonTrap x p act)
    | [] =>
      let inputs := vs.filterMap fun v => w.boundWalker v.1
      let outputs := ds.filterMap fun r => w.boundWalker r
      if inputs.any (fun k => !isInput w k) || outputs.any (isInput w) || (long && !outputs.isEmpty) then
        some (s.trapAt x 0x0A 0 act)
      else
        match inputs.find? fun k => match (w.walker k).pre with
            | f :: _ => (f.bad &&& act) != 0
            | [] => false with
        | some k =>
          match (w.walker k).pre with
          | f :: _ =>
            let l := (lowestLane (f.bad &&& act)).getD 0
            some (s.trapAt x 0x0A (f.base + BitVec.ofNat 64 (l * walkSize (w.walker k).desc)) (f.bad &&& act))
          | [] => none
        | none => none

/-- Advance the walkers that the sources name, each once, and ask for what they read ahead (R183, R184). -/
def stepInputs (s : State) (x : Site) (w : Warp) (rs : List Nat) : State × Warp :=
  let ks := (rs.filterMap w.boundWalker).eraseDups
  (ks.foldl (fun s k => s.postOnce .walkerFetch { w := x.wid, n := k }) s, ks.foldl stepWalker w)

/-- A store of a warp whose line's pushes are still outstanding is noted (R205). -/
def noteStore (s : State) (wid : WarpId) (pa : Nat) : State :=
  match s.homeAt wid.core.dieId pa with
  | none => s
  | some h =>
    let y := (h.dieId, lineOf (physKey h))
    if (s.die h.dieId).pushes.any (·.line == y.2) then
      s.updWarp wid fun w => { w with narrow := y :: w.narrow.filter (· != y) }
    else s

/-- The address that lane l of an output walker stores to (R183). -/
def walkLane (x : Site) (k l : Nat) : Nat :=
  let v := x.w.walker k
  (walkAddr v.desc v.i0 v.i1 v.i2 + BitVec.ofNat 64 (l * walkSize v.desc)).toNat

/-- The stores of an instruction to its output walkers: each walker with the values, over the active lanes. -/
def walkLanes (act : Mask) (ys : List (Nat × Lanes)) : List (Nat × Nat) :=
  ys.flatMap fun y => (activeLanes act).map fun l => (y.1, l)

/-- What the stores to output walkers find, each by walker and lane, in turn, and the state that their translations leave. -/
def walkLooks (s : State) (x : Site) : List (Nat × Nat) → Tab (Nat × Nat) LaneLook × State
  | [] => ([], s)
  | l :: ls =>
    let (r, s) := s.lookStore x.core (walkLane x l.1 l.2)
    let (rest, s) := s.walkLooks x ls
    ((l, r) :: rest, s)

/-- The stores that have a place, each with its pool address and cache policy: those of lines that the core has pinned first, so that no
other takes their ways meanwhile. -/
def walkPlaces (s : State) (c : CoreId) (ls : Tab (Nat × Nat) LaneLook) : List ((Nat × Nat) × Nat × Nat) :=
  let at_ := ls.filterMap fun y => match y.2 with
    | .at_ pa policy => some (y.1, pa, policy)
    | _ => none
  let held := fun y : (Nat × Nat) × Nat × Nat => s.pinned c y.2.1
  at_.filter held ++ at_.filter fun y => !held y

/-- Whether the stores to output walkers can all be performed now: each has a place that is open to it, and tags are free for lines of
other packages (R44, R204, R207). -/
def walkOpen (s : State) (x : Site) (act : Mask) (ys : List (Nat × Lanes)) : Bool :=
  let (ls, s) := s.walkLooks x (walkLanes act ys)
  let places := s.walkPlaces x.core ls
  let loose := ((places.filter fun y => !s.pinned x.core y.2.1).map fun y => lineOf y.2.1).eraseDups
  let far := loose.any fun n => (s.homeAt x.core.dieId (128 * n)).any (·.pkg != x.core.pkg)
  places.length == ls.length && places.all (fun y => s.storeOpen 0 x.core y.2.1) &&
    (!far || decide (loose.length ≤ s.freeTags x.core))

/-- Perform the stores to output walkers, relaxed and at core scope (R184): one that its home answers with ERROR is a posted-store
fault (R221). -/
def walkPut (s : State) (x : Site) (ys : List (Nat × Lanes)) : List ((Nat × Nat) × Nat × Nat) → State
  | [] => s
  | ((k, l), pa, policy) :: ps =>
    let res := (tget? ys k).getD []
    match s.writePlace 0 x.core x.w.block 0 policy pa (leBytes (walkSize (x.w.walker k).desc) (lane res l).toNat) with
    | .ok _ s => (s.noteStore x.wid pa).walkPut x ys ps
    | .error c _ p => (s.recordRff x.wid c p false (BitVec.ofNat 64 (walkLane x k l))).walkPut x ys ps
    | _ => s.walkPut x ys ps

/-- The state behind the stores to output walkers. -/
def walkEnd (s : State) (x : Site) (act : Mask) (ys : List (Nat × Lanes)) : State :=
  let (ls, s) := s.walkLooks x (walkLanes act ys)
  s.walkPut x ys (s.walkPlaces x.core ls)

/-- The faults that stores to output walkers find: walker and lane, and the cause. -/
def walkFaults (s : State) (x : Site) (act : Mask) (ys : List (Nat × Lanes)) : List ((Nat × Nat) × Nat) :=
  (s.walkLooks x (walkLanes act ys)).1.filterMap fun y => match y.2 with
    | .fault c => some (y.1, c)
    | _ => none

/-- The stores of an instruction to its output walkers (R183, R184). A fault is precise: no lane stores, and the cause of highest priority
among the lanes is raised, with the lowest lane that raises it (R241, R243). While a lane cannot store, none does. -/
def walkStore (s : State) (x : Site) (act : Mask) (ys : List (Nat × Lanes)) : Except Result State :=
  let causes := s.walkFaults x act ys
  match (causes.map (·.2)).min? with
  | some c =>
    let bad := (causes.filter (·.2 == c)).map (·.1)
    let first := (lowestLane (maskOf fun l => bad.any (·.2 == l))).getD 0
    let k := ((bad.find? (·.2 == first)).map (·.1)).getD 0
    .error (s.trapAt x c (BitVec.ofNat 64 (walkLane x k first)) (maskOf fun l => bad.any (·.2 == l)))
  | none =>
    if s.walkOpen x act ys then .ok (s.walkEnd x act ys)
    else .error (ys.foldl (fun (s : State) y => s.sense 0 x.core (walkLane x y.1 0) (32 * walkSize (x.w.walker y.1).desc)) s).stall

/-- What the stores of an instruction have set off in its own warp (R186, R221): event slots that fired, RFF, and the lines
whose pushes are outstanding. -/
def absorb (s : State) (x : Site) (w : Warp) : Warp :=
  match s.warp? x.wid with
  | some v => { w with events := v.events, evp := v.evp, rff := v.rff, rffol := v.rffol, rffoh := v.rffoh, rffMore := v.rffMore
                       narrow := v.narrow }
  | none => w

/-- A fixed-latency result into a vector register or an output walker (R171, R183); the warp may have advanced its input
walkers already. -/
def putResult (s : State) (x : Site) (w : Warp) (n d : Nat) (act : Mask) (res : Lanes) : Result :=
  match w.boundWalker d with
  | none => .next (s.advance x n ((x.withW w).hold (.v d act res)))
  | some k =>
    match s.walkStore (x.withW w) act [(k, res)] with
    | .error r => r
    | .ok s => .next (s.advance x n (s.absorb x (stepWalker w k)))

/-- A fixed-latency vector instruction with a vector result: `f` gives lane l's result from the values of the operands. -/
def vectorOp (s : State) (v : VForm) (vs : List (Nat × Bool)) (ss : List Nat) (d : Nat) (f : Warp → Mask → Nat → Word) : Result :=
  s.atSite fun x =>
    let act := v.act x
    match s.regCheck x act vs ss [d] false with
    | some r => r
    | none =>
      let res := lanesOf (f x.w act)
      let (s, w) := s.stepInputs x x.w (vs.map (·.1))
      s.putResult x w v.n d act res

/-- The same with a predicate result (R332, R333, R340). -/
def predOp (s : State) (v : VForm) (vs : List (Nat × Bool)) (ss : List Nat) (d : Nat) (f : Warp → Mask → Nat → Bool) : Result :=
  s.atSite fun x =>
    let act := v.act x
    match s.regCheck x act vs ss [] false with
    | some r => r
    | none =>
      let res := maskOf (f x.w act)
      let (s, w) := s.stepInputs x x.w (vs.map (·.1))
      .next (s.advance x v.n ((x.withW w).hold (.p d act res)))

/-- The sources of an instruction with operands a and b (R324): b is a vector register or, under XR [11], a scalar. -/
def bSources (r : Reg) (v : VForm) : List (Nat × Bool) := if v.bs then [] else [(r.b.toNat, r.fb)]
def bScalars (r : Reg) (v : VForm) : List Nat := if v.bs then [r.b.toNat] else []

/-- Lane l's b. -/
def bLane (w : Warp) (r : Reg) (v : VForm) (l : Nat) : Word :=
  if v.bs then w.sreg r.b.toNat else lane (readLanes w r.b.toNat) l

/-- One vector source (R325, R326). -/
def vec1 (s : State) (r : Reg) (v : VForm) (f : Word → Word) : Result :=
  s.vectorOp v [(r.a.toNat, r.fa)] [] r.d.toNat fun w _ l => f (crossRead v (readLanes w r.a.toNat) l)

/-- Two sources a and b (R326, R329). -/
def vec2 (s : State) (r : Reg) (v : VForm) (f : Word → Word → Word) : Result :=
  s.vectorOp v ((r.a.toNat, r.fa) :: bSources r v) (bScalars r v) r.d.toNat fun w _ l =>
    f (crossRead v (readLanes w r.a.toNat) l) (bLane w r v l)

/-- Three sources a, b and c (R326, R327, R329). -/
def vec3 (s : State) (r : Reg) (v : VForm) (f : Word → Word → Word → Word) : Result :=
  s.vectorOp v ((r.a.toNat, r.fa) :: bSources r v ++ [(v.c, v.fc)]) (bScalars r v) r.d.toNat fun w _ l =>
    f (crossRead v (readLanes w r.a.toNat) l) (bLane w r v l) (lane (readLanes w v.c) l)

/-- A vector source and an immediate (R328): unguarded, no empty bit. -/
def vecImm (s : State) (n : Nat) (d a : Nat) (f : Word → Word) : Result :=
  s.vectorOp (VForm.plain n) [(a, false)] [] d fun w _ l => f (lane (readLanes w a) l)

/-- A comparison of a and b into a predicate (R332). -/
def cmp2 (s : State) (r : Reg) (v : VForm) (f : Word → Word → Bool) : Result :=
  s.predOp v ((r.a.toNat, r.fa) :: bSources r v) (bScalars r v) r.d.toNat fun w _ l =>
    f (crossRead v (readLanes w r.a.toNat) l) (bLane w r v l)

end State

/-! Instructions in flight. -/

/-- An instruction in flight as it issues from a site, with nothing to do yet (R252, R211). -/
def Flight.issue (x : Site) (i : Instr) (act : Mask) (dest : List Nat) (counted : Bool) : Flight :=
  let ws := (x.sl.clause.map (·.words)).getD []
  let w0 := ws.getD (x.k - 1) 0
  { id := x.w.nextId, instr := i, w0 := w0, ext := if longBit w0 then ws[x.k]? else none, addr := x.addr, by_ := x.sel
    inA := x.sel == .a, inB := x.sel == .b, stk := [], scope := 0, order := 0, active := act, remaining := 0, waiting := 0, sent := 0
    x := [], y := [], z := [], peers := [], sbase := 0, pas := [], got := [], bad := none, dest := dest, deps := []
    slots := [], found := [], faults := [], fault := none, counted := counted, done := false, tags := [] }

/-- A destination of an instruction in flight: it is empty from now on (R173), and what it is written with clears its poison (R174), unless
no lane is active (R322). -/
def takeDest (act : Mask) (w : Warp) (r : Nat) : Warp :=
  w.setV r { w.vreg r with full := false, poison := if act = 0 then (w.vreg r).poison else none }

/-- Add an instruction in flight; its destinations are empty from now on (R173). -/
def addFlight (w : Warp) (f : Flight) : Warp :=
  let w := f.dest.foldl (takeDest f.active) w
  { w with flights := w.flights ++ [f], nextId := w.nextId + 1 }

namespace State

/-- R172: a long-latency instruction with a destination that an earlier word of its clause has yet to commit issues as if
its hold bit were set. -/
def holdFor (s : State) (x : Site) (ds : List Nat) (f : State → Site → Result) : Result :=
  if ds.any (heldWritesV x.sl) then
    if clausePending x.w x.sel then s.stall
    else
      let w := commitHeld x.w x.sel
      f (s.setWarp x.wid w) (x.withW w)
  else f s x

/-- A vector function (R323, R331): long-latency; it computes at issue and its result is written later. -/
def longVec (s : State) (i : Instr) (r : Reg) (v : VForm) (f : Word → Word) : Result :=
  s.atSite fun x =>
    s.holdFor x [r.d.toNat] fun s x =>
      let act := v.act x
      match s.regCheck x act [(r.a.toNat, r.fa)] [] [r.d.toNat] true with
      | some q => q
      | none =>
        if 8 ≤ x.w.longFlights then s.stall
        else
          let fl := { Flight.issue x i act [r.d.toNat] false with
            got := (activeLanes act).map fun l =>
              (l, (f (crossRead v (readLanes x.w r.a.toNat) l)).setWidth 64)
            done := true }
          let (s, w) := s.stepInputs x x.w [r.a.toNat]
          let w := addFlight w fl
          .next ((s.advance x v.n w).post .registerFill { w := x.wid, i := fl.id })

end State

/-- What REGISTER_FILL writes (R173): the results of the lanes, the low half to the first destination and the high half to
the second, the poison if there is one, beside that of lanes performed before a replay (R221); the destinations become full. -/
def fillFlight (w : Warp) (f : Flight) : Warp :=
  let low := lanesOf fun l => loWord (tget f.got l 0)
  let high := lanesOf fun l => hiWord (tget f.got l 0)
  let act := maskOf fun l => (tget? f.got l).isSome
  let bad := fun (w : Warp) (r : Nat) => match f.bad with
    | some p => some p
    | none => (w.vreg r).poison
  let put : Warp → Nat → Lanes → Warp := fun w r ls =>
    w.setV r { lanes := mergeLanes act (w.vreg r).lanes ls, full := true, poison := bad w r }
  match f.dest with
  | [] => w
  | [d] => put w d low
  | [d, e] => put (put w d low) e high
  | ds => ds.foldl (fun w r => w.setV r { w.vreg r with full := true, poison := bad w r }) w

end Sys2Proof.Machine
end

