-- ==== Sys2Proof/Machine/Scalar.lean ====
section
/-! DEFINITION. The CTRL class but for TAKE (R302-R318): scalar arithmetic, special registers, branches, calls, EXIT. -/

namespace Sys2Proof.Machine

/-! Scalar arithmetic and logic (R304). -/

namespace State

/-- Two scalar sources. -/
def scalar2 (s : State) (r : Reg) (f : Word → Word → Word) : Result :=
  s.scalarOp 1 [r.a.toNat, r.b.toNat] r.d.toNat fun w => f (w.sreg r.a.toNat) (w.sreg r.b.toNat)

/-- A scalar source and an immediate. -/
def scalarImm (s : State) (n : Nat) (r : Ri) (f : Word → Word) : Result :=
  s.scalarOp n [r.a.toNat] r.d.toNat fun w => f (w.sreg r.a.toNat)

end State

/-- The RI immediate, sign-extended from 11 bits (R304). -/
def Ri.val (r : Ri) : Word := r.imm.signExtend 32

/-- Bits [63:32] of the signed product (R304, R326). -/
def mulHigh (a b : Word) : Word := BitVec.ofInt 32 ((a.toInt * b.toInt) / 2 ^ 32)

/-- Bits [63:32] of the natural product (R326). -/
def mulHighN (a b : Word) : Word := BitVec.ofNat 32 (a.toNat * b.toNat / 2 ^ 32)

/-- Shifts by a natural amount (R304, R326): 32 and more shift everything out. -/
def shl (a b : Word) : Word := a <<< b.toNat
def shr (a b : Word) : Word := a >>> b.toNat
def sar (a b : Word) : Word := a.sshiftRight b.toNat

def minS (a b : Word) : Word := if a.toInt ≤ b.toInt then a else b
def maxS (a b : Word) : Word := if a.toInt ≤ b.toInt then b else a
def minN (a b : Word) : Word := if a.toNat ≤ b.toNat then a else b
def maxN (a b : Word) : Word := if a.toNat ≤ b.toNat then b else a

/-- NOP (R306). -/
def execNop (_ : Reg) (s : State) : Result := s.atSite fun x => .next (s.advance x 1 x.w)

def execSmov (r : Reg) (s : State) : Result := s.scalarOp 1 [r.a.toNat] r.d.toNat fun w => w.sreg r.a.toNat
def execSmovi (r : Ri) (s : State) : Result := s.scalarOp 1 [] r.d.toNat fun _ => Ri.val r
def execSmoviXi (r : Ri) (x : Word) (s : State) : Result := s.scalarOp 2 [] r.d.toNat fun _ => x
def execSadd (r : Reg) (s : State) : Result := s.scalar2 r (· + ·)
def execSsub (r : Reg) (s : State) : Result := s.scalar2 r (· - ·)
def execSmul (r : Reg) (s : State) : Result := s.scalar2 r (· * ·)
def execSmulhi (r : Reg) (s : State) : Result := s.scalar2 r mulHigh
def execSand (r : Reg) (s : State) : Result := s.scalar2 r (· &&& ·)
def execSor (r : Reg) (s : State) : Result := s.scalar2 r (· ||| ·)
def execSxor (r : Reg) (s : State) : Result := s.scalar2 r (· ^^^ ·)
def execSshl (r : Reg) (s : State) : Result := s.scalar2 r shl
def execSshr (r : Reg) (s : State) : Result := s.scalar2 r shr
def execSsar (r : Reg) (s : State) : Result := s.scalar2 r sar
def execSaddi (r : Ri) (s : State) : Result := s.scalarImm 1 r (· + Ri.val r)
def execSaddiXi (r : Ri) (x : Word) (s : State) : Result := s.scalarImm 2 r (· + x)
def execSandi (r : Ri) (s : State) : Result := s.scalarImm 1 r (· &&& Ri.val r)
def execSandiXi (r : Ri) (x : Word) (s : State) : Result := s.scalarImm 2 r (· &&& x)
def execSmin (r : Reg) (s : State) : Result := s.scalar2 r minS
def execSmax (r : Reg) (s : State) : Result := s.scalar2 r maxS
def execSminn (r : Reg) (s : State) : Result := s.scalar2 r minN
def execSmaxn (r : Reg) (s : State) : Result := s.scalar2 r maxN

/-- SCMP.eq in its short form (R305). -/
def execScmp (r : Reg) (s : State) : Result := s.scalar2 r fun a b => if icmpHolds 0 a b then 1 else 0

/-- SCMP with the comparison that the minor names (R305). -/
def execScmpXr (r : Reg) (x : Xr) (s : State) : Result :=
  s.scalarOp 2 [r.a.toNat, r.b.toNat] r.d.toNat fun w =>
    if icmpHolds x.minor.toNat (w.sreg r.a.toNat) (w.sreg r.b.toNat) then 1 else 0

/-! Special registers (R297, R307-R310). -/

/-- A scalar register written by a blocking instruction (R170): an uncommitted result of an earlier word of the clause no
longer reaches it, since the later word's value remains (R172). -/
def Warp.writeNow (w : Warp) (x : PcSel) (r : Nat) (v : Word) : Warp :=
  let sl := w.slot x
  (w.setSlot x { sl with held := sl.held.filter fun h => match h with | .s r' _ => r' != r | _ => true }).setS r v

/-- The registers whose SREAD is blocking (R310). -/
def blockingSpecial (n : Nat) : Bool :=
  n == 0x02 || n == 0x03 || n == 0x04 || n == 0x05 || n == 0x06 || n == 0x07 || n == 0x0C || (decide (0x10 ≤ n) && decide (n ≤ 0x17))

/-- The content of a special register (R297). -/
def State.special (s : State) (x : Site) (n : Nat) : DWord :=
  let w := x.w
  let l := s.launch? w.block.grid
  let grid : (Launch → Nat) → DWord := fun f => BitVec.ofNat 64 ((l.map f).getD 0)
  match n with
  | 0x00 => s.timeAt x.core.pkg
  | 0x01 => w.timer
  | 0x02 => w.evp.setWidth 64
  | 0x03 => w.evm.setWidth 64
  | 0x04 => w.mxs.setWidth 64
  | 0x05 => w.rff.setWidth 64
  | 0x06 => w.rffol.setWidth 64
  | 0x07 => w.rffoh.setWidth 64
  | 0x08 => (loWord w.tvec).setWidth 64
  | 0x09 => (hiWord w.tvec).setWidth 64
  | 0x0A => (loWord (s.tfa w)).setWidth 64
  | 0x0B => (hiWord (s.tfa w)).setWidth 64
  | 0x0C => w.wef.setWidth 64
  | 0x20 => BitVec.ofNat 64 x.b.x
  | 0x21 => BitVec.ofNat 64 x.b.y
  | 0x22 => BitVec.ofNat 64 x.b.z
  | 0x23 => grid (·.gx)
  | 0x24 => grid (·.gy)
  | 0x25 => grid (·.gz)
  | 0x26 => BitVec.ofNat 64 w.block.gang
  | 0x27 => BitVec.ofNat 64 w.block.j
  | 0x28 => BitVec.ofNat 64 w.num
  | 0x29 => BitVec.ofNat 64 x.wid.slot
  | 0x2A => BitVec.ofNat 64 (endpointVal (coreEndpoint x.core))
  | 0x2B => (l.map (·.args)).getD 0
  | k => (w.walker (k - 0x10)).bound

/-- SREAD (R307, R310). -/
def execSread (r : Reg) (s : State) : Result :=
  s.atSite fun x =>
    let d := r.d.toNat
    let n := r.a.toNat
    if !scalarOk d then s.trapWhole x 4 0
    else
      let v := s.special x n
      let wide := wideSpecial n
      if blockingSpecial n then
        let w := x.w.writeNow x.sel d (loWord v)
        .next (s.advance x 1 (if wide then w.writeNow x.sel (d + 1) (hiWord v) else w))
      else
        let w := x.hold (.s d (loWord v))
        .next (s.advance x 1 (if wide then (x.withW w).hold (.s (d + 1) (hiWord v)) else w))

/-- Whether an earlier memory operation of the slot's thread is not yet performed (R309, R211). -/
def threadBusy (w : Warp) (x : PcSel) : Bool :=
  w.flights.any fun f => (match x with | .a => f.inA | .b => f.inB) && f.counted && !f.done

/-- Drop a walker's vectors and unbind it (R309): its register holds a register value again, which the spec does not
state when the new binding fails, and its flags are clear (R315). -/
def State.unbindNow (s : State) (x : Site) (k : Nat) : State :=
  if (x.w.walker k).bound = 0 then s
  else
    let r : VReg := { lanes := lanesOf fun l => loWord (Config.freeWord (s.free + l)), full := true, poison := none }
    let wef := x.w.wef &&& ~~~((7 : Word) <<< (3 * k))
    let w := { x.w with walkers := lput x.w.walkers k Walker.unbound default, wef := wef }.setV (120 + k) r
    ({ s with free := s.free + 32 } : State).setWarp x.wid w

/-- SWRITE to WALKk (R309). -/
def State.bindWalker (s : State) (x : Site) (k : Nat) (v : DWord) : Result :=
  if 16 ≤ x.w.units && !(x.w.vreg (120 + k)).full then s.stall
  else if v = 0 then .next (s.advance x 1 (x.hold (.walk k 0 [])))
  else if x.w.units < 16 then s.trapWhole x 0x0A v
  else if threadBusy x.w x.sel then s.stall
  else
    match s.readVirtual 0 x.core 0 v.toNat 32 2 with
    | .busy => (s.sense 0 x.core v.toNat 32).stall
    | .ok d s =>
      if walkDescOk d then
        .next ((s.advance x 1 (x.hold (.walk k v d))).postOnce .walkerFetch { w := x.wid, n := k })
      else (s.unbindNow x k).trapWhole x 0x0A v
    | _ => (s.unbindNow x k).trapWhole x 0x0A v

/-- SWRITE (R307, R308): its effect takes place when it commits. -/
def execSwrite (r : Reg) (s : State) : Result :=
  s.atSite fun x =>
    let a := r.a.toNat
    let n := r.d.toNat
    if !scalarOk a then s.trapWhole x 4 0
    else if wideSpecial n then s.bindWalker x (n - 0x10) (x.w.spair a)
    else .next (s.advance x 1 (x.hold (.special n ((x.w.sreg a).setWidth 64))))

/-! Branches (R311-R316). -/

/-- The target of a BR word (R280, R311). -/
def Site.target (x : Site) (off : BitVec 18) : DWord := x.wordAddr + sext64 off * 4

/-- Go to the target when a condition of the warp holds. -/
def State.branch (s : State) (r : Br) (f : Warp → Bool) : Result :=
  s.atSite fun x => .next (s.advanceTo x 1 x.w (if f x.w then some (x.target r.off) else none))

/-- A branch on a scalar register read as .i32 (R312). -/
def State.scalarBranch (s : State) (r : Br) (f : Word → Bool) : Result :=
  s.atSite fun x =>
    if !scalarOk r.c.toNat then s.trapWhole x 4 0 else s.branch r fun w => f (w.sreg r.c.toNat)

def execBra (r : Br) (s : State) : Result := s.branch r fun _ => true
def execBz (r : Br) (s : State) : Result := s.scalarBranch r (· == 0)
def execBnz (r : Br) (s : State) : Result := s.scalarBranch r (· != 0)
def execBltz (r : Br) (s : State) : Result := s.scalarBranch r fun c => decide (c.toInt < 0)
def execBgez (r : Br) (s : State) : Result := s.scalarBranch r fun c => decide (0 ≤ c.toInt)

/-- BRU (R313). -/
def execBru (r : Br) (s : State) : Result :=
  s.atSite fun x =>
    match uniform x.sl.mask (x.w.preg r.c.toNat) with
    | .ok taken => s.branch r fun _ => taken
    | .error lanes => s.trapAt x 7 0 lanes

/-- J as the signed word offset of a stack entry from the saved address, when it can be expressed (R178). -/
def joinOffset (pc j : DWord) : Option Int :=
  let d : Int := (j.toNat : Int) - pc.toNat
  if d.natAbs < 2 ^ 33 then some (d / 4) else none

/-- The bytes of a divergence stack entry (R178). -/
def stackEntry (form : DWord) (off : Int) (mask : Mask) : List Byte :=
  leBytes 8 form.toNat ++ leBytes 4 (off % 2 ^ 32).toNat ++ leBytes 4 mask.toNat

/-- The slot that a split pushes keeps its program order on the stack, and what it knows of its last SC access (R176, R211, R216). -/
def pushOrder (w : Warp) (y : PcSel) : Warp :=
  { w with
    scStack := match (w.slot y).scLast with
      | some x => tset w.scStack w.dsp x
      | none => tdel w.scStack w.dsp
    flights := w.flights.map fun f =>
      let has := match y with
        | .a => f.inA
        | .b => f.inB
      if has && (w.slot y).live then { f with stk := w.dsp :: f.stk } else f }

/-- The split of R176, whose slots both inherit X's program order (R211): X keeps the false lanes at the fall-through, Y takes the true lanes to the target. -/
def splitSlots (x : Site) (w : Warp) (yes no : Mask) (target join : DWord) : Warp :=
  let sl := w.slot x.sel
  let both : Flight → Flight := fun f =>
    match x.sel with
    | .a => { f with inB := f.inA }
    | .b => { f with inA := f.inB }
  let w := { w with flights := w.flights.map both }
  let w := w.setSlot x.sel { sl with mask := no }
  { w.setSlot x.sel.other { PcSlot.empty with mask := yes, pc := target, scLast := sl.scLast, via := some x.addr } with
    j := some join }

/-- BRD (R176, R314). -/
def execBrd (r : Br) (xi : Word) (s : State) : Result :=
  s.atSite fun x =>
    let m := x.sl.mask
    let yes := m &&& x.w.preg r.c.toNat
    let target := x.target r.off
    let join := x.wordAddr + sext64 xi * 4
    if yes = m then .next (s.advanceTo x 2 x.w (some target))
    else if yes = 0 then .next (s.advance x 2 x.w)
    else
      let go : State → Warp → Result := fun s w =>
        .next (s.advance x 2 (splitSlots x w yes (m &&& ~~~yes) target join))
      match x.w.j with
      | none => go s x.w
      | some j =>
        let y := x.w.slot x.sel.other
        if x.b.stack ≤ x.w.dsp then s.trapWhole x 9 0
        else if y.live && (y.k != 0 && !y.parkedWait || y.blocked.isSome) then s.stall
        else
          let pc := if y.live then y.pc else j
          let form := if y.live then slotForm { y with k := 0 } else instrForm j 0
          match joinOffset pc j with
          | none => s.trapWhole x 9 0
          | some off =>
            let s := s.deviceWrite x.core (s.stackPool x.b x.w x.w.dsp) (stackEntry form off (if y.live then y.mask else 0))
            go s { pushOrder x.w x.sel.other with dsp := x.w.dsp + 1 }

/-- BRW (R315): [2:0] the walker, [4:3] the dimension, [5] `.clr`. -/
def execBrw (r : Br) (s : State) : Result :=
  let c := r.c.toNat
  s.branch r fun w => endFlag w.wef (c % 8) (c / 8 % 4) != (c / 32 % 2 == 1)

/-- The link pair written by a call (R316). -/
def Site.link (x : Site) : Warp :=
  let ret := x.nextClause
  (x.withW (x.hold (.s 62 (loWord ret)))).hold (.s 63 (hiWord ret &&& 0x01FFFFFF))

def execCall (r : Br) (s : State) : Result :=
  s.atSite fun x => .next (s.advanceTo x 1 x.link (some (x.target r.off)))

/-- The lanes of a mask whose value differs from that of the lowest (R313, R316). -/
def oddLanes (act : Mask) (v : Lanes) : Mask :=
  let c := lane v ((lowestLane act).getD 0)
  act &&& maskOf fun l => lane v l != c

/-- A jump to the uniform lane value of va, with or without the link (R316). -/
def State.jumpReg (s : State) (r : Reg) (link : Bool) : Result :=
  s.atSite fun x =>
    let act := x.sl.mask
    match s.regCheck x act [(r.a.toNat, r.fa)] [] [] false with
    | some q => q
    | none =>
      let v := readLanes x.w r.a.toNat
      let odd := oddLanes act v
      if odd != 0 then s.trapAt x 7 0 odd
      else
        let target := hiWord x.wordAddr ++ lane v ((lowestLane act).getD 0)
        let (s, w) := s.stepInputs x (if link then x.link else x.w) [r.a.toNat]
        .next (s.advanceTo x 1 w (some target))

def execCallr (r : Reg) (s : State) : Result := s.jumpReg r true
def execJmpr (r : Reg) (s : State) : Result := s.jumpReg r false

/-- RET (R316). -/
def execRet (_ : Reg) (s : State) : Result :=
  s.atSite fun x =>
    let t := x.w.spair 62
    if 2 ^ 57 ≤ t.toNat then s.trapWhole x 0x0C t
    else .next (s.advanceTo x 1 x.w (some t))

/-- EXIT (R318). -/
def execExit (r : Reg) (s : State) : Result :=
  s.atSite fun x =>
    let gone := guardLanes x.w x.sl.mask r.g.toNat false
    .next (s.advance x 1 (x.w.setSlot x.sel { x.sl with mask := x.sl.mask &&& ~~~gone }))

end Sys2Proof.Machine
end

