-- ==== Sys2Proof/Machine/Vector.lean ====
section
/-! DEFINITION. The VEC class (R321-R342): moves, integer and floating arithmetic, comparisons, conversion, packing of
four-bit codes, votes and lanes. -/

namespace Sys2Proof.Machine

/-! Integer and bit operations (R326, R327). -/

def popCount (a : Word) : Word := BitVec.ofNat 32 ((laneNums.filter fun i => a.getLsbD i).length)

def leadingZeros (a : Word) : Word := if a = 0 then 32 else BitVec.ofNat 32 (31 - Nat.log2 a.toNat)

def bitReverse (a : Word) : Word := maskOf fun i => a.getLsbD (31 - i)

/-- The start and the length within the word of a bit field (R327). -/
def fieldOf (b : Word) : Nat × Nat :=
  let p := b.toNat % 256
  (p, if 32 ≤ p then 0 else min (b.toNat / 256 % 256) (32 - p))

def extractN (a b : Word) : Word :=
  let (p, n) := fieldOf b
  BitVec.ofNat 32 (a.toNat / 2 ^ p % 2 ^ n)

def extractS (a b : Word) : Word :=
  let (p, n) := fieldOf b
  if n = 0 then 0 else BitVec.ofInt 32 (toSigned n (a.toNat / 2 ^ p))

def insertBits (a b c : Word) : Word :=
  let (p, n) := fieldOf b
  let m : Word := BitVec.ofNat 32 ((2 ^ n - 1) * 2 ^ p)
  (c &&& ~~~m) ||| ((a <<< p) &&& m)

/-- Moves (R325). -/
def execVmov (r : Reg) (s : State) : Result := s.vec1 r (VForm.short r) id
def execVmovXr (r : Reg) (x : Xr) (s : State) : Result := s.vec1 r (VForm.long x) id
def execVmovi (r : Ri) (s : State) : Result :=
  s.vectorOp (VForm.plain 1) [] [] r.d.toNat fun _ _ _ => Ri.val r
def execVmoviXi (r : Ri) (x : Word) (s : State) : Result :=
  s.vectorOp (VForm.plain 2) [] [] r.d.toNat fun _ _ _ => x
def execVmovs (r : Reg) (s : State) : Result :=
  s.vectorOp (VForm.short r) [] [r.a.toNat] r.d.toNat fun w _ _ => w.sreg r.a.toNat
def execVmovsXr (r : Reg) (x : Xr) (s : State) : Result :=
  s.vectorOp (VForm.long x) [] [r.a.toNat] r.d.toNat fun w _ _ => w.sreg r.a.toNat

/-! Integer arithmetic (R326). -/

def execIadd (r : Reg) (s : State) : Result := s.vec2 r (VForm.short r) (· + ·)
def execIaddXr (r : Reg) (x : Xr) (s : State) : Result := s.vec2 r (VForm.long x) (· + ·)
def execIsub (r : Reg) (s : State) : Result := s.vec2 r (VForm.short r) (· - ·)
def execIsubXr (r : Reg) (x : Xr) (s : State) : Result := s.vec2 r (VForm.long x) (· - ·)
def execImul (r : Reg) (s : State) : Result := s.vec2 r (VForm.short r) (· * ·)
def execImulXr (r : Reg) (x : Xr) (s : State) : Result := s.vec2 r (VForm.long x) (· * ·)
def execImulhi (r : Reg) (s : State) : Result := s.vec2 r (VForm.short r) mulHigh
def execImulhiXr (r : Reg) (x : Xr) (s : State) : Result := s.vec2 r (VForm.long x) (if x.minor = 0 then mulHigh else mulHighN)
def execImad (r : Reg) (x : Xr) (s : State) : Result := s.vec3 r (VForm.long x) fun a b c => a * b + c
def execImin (r : Reg) (s : State) : Result := s.vec2 r (VForm.short r) minS
def execIminXr (r : Reg) (x : Xr) (s : State) : Result := s.vec2 r (VForm.long x) (if x.minor = 0 then minS else minN)
def execImax (r : Reg) (s : State) : Result := s.vec2 r (VForm.short r) maxS
def execImaxXr (r : Reg) (x : Xr) (s : State) : Result := s.vec2 r (VForm.long x) (if x.minor = 0 then maxS else maxN)
def execVand (r : Reg) (s : State) : Result := s.vec2 r (VForm.short r) (· &&& ·)
def execVandXr (r : Reg) (x : Xr) (s : State) : Result := s.vec2 r (VForm.long x) (· &&& ·)
def execVor (r : Reg) (s : State) : Result := s.vec2 r (VForm.short r) (· ||| ·)
def execVorXr (r : Reg) (x : Xr) (s : State) : Result := s.vec2 r (VForm.long x) (· ||| ·)
def execVxor (r : Reg) (s : State) : Result := s.vec2 r (VForm.short r) (· ^^^ ·)
def execVxorXr (r : Reg) (x : Xr) (s : State) : Result := s.vec2 r (VForm.long x) (· ^^^ ·)
def execShl (r : Reg) (s : State) : Result := s.vec2 r (VForm.short r) shl
def execShlXr (r : Reg) (x : Xr) (s : State) : Result := s.vec2 r (VForm.long x) shl
def execShr (r : Reg) (s : State) : Result := s.vec2 r (VForm.short r) shr
def execShrXr (r : Reg) (x : Xr) (s : State) : Result := s.vec2 r (VForm.long x) shr
def execSar (r : Reg) (s : State) : Result := s.vec2 r (VForm.short r) sar
def execSarXr (r : Reg) (x : Xr) (s : State) : Result := s.vec2 r (VForm.long x) sar
def execBfe (r : Reg) (s : State) : Result := s.vec2 r (VForm.short r) extractN
def execBfeXr (r : Reg) (x : Xr) (s : State) : Result := s.vec2 r (VForm.long x) (if x.minor = 0 then extractN else extractS)
def execBfi (r : Reg) (x : Xr) (s : State) : Result := s.vec3 r (VForm.long x) insertBits
def execPopc (r : Reg) (s : State) : Result := s.vec1 r (VForm.short r) popCount
def execPopcXr (r : Reg) (x : Xr) (s : State) : Result := s.vec1 r (VForm.long x) popCount
def execClz (r : Reg) (s : State) : Result := s.vec1 r (VForm.short r) leadingZeros
def execClzXr (r : Reg) (x : Xr) (s : State) : Result := s.vec1 r (VForm.long x) leadingZeros
def execBrev (r : Reg) (s : State) : Result := s.vec1 r (VForm.short r) bitReverse
def execBrevXr (r : Reg) (x : Xr) (s : State) : Result := s.vec1 r (VForm.long x) bitReverse

/-! Immediates (R328). -/

def execAddi (r : Ri) (s : State) : Result := s.vecImm 1 r.d.toNat r.a.toNat (· + Ri.val r)
def execAddiXi (r : Ri) (x : Word) (s : State) : Result := s.vecImm 2 r.d.toNat r.a.toNat (· + x)
def execAndi (r : Ri) (s : State) : Result := s.vecImm 1 r.d.toNat r.a.toNat (· &&& Ri.val r)
def execAndiXi (r : Ri) (x : Word) (s : State) : Result := s.vecImm 2 r.d.toNat r.a.toNat (· &&& x)
def execShli (r : Ri) (s : State) : Result := s.vecImm 1 r.d.toNat r.a.toNat (shl · (Ri.val r))
def execShliXi (r : Ri) (x : Word) (s : State) : Result := s.vecImm 2 r.d.toNat r.a.toNat (shl · x)
def execShri (r : Ri) (s : State) : Result := s.vecImm 1 r.d.toNat r.a.toNat (shr · (Ri.val r))
def execShriXi (r : Ri) (x : Word) (s : State) : Result := s.vecImm 2 r.d.toNat r.a.toNat (shr · x)

/-! Floating arithmetic (R329, R330). -/

def execFadd (r : Reg) (s : State) : Result := s.vec2 r (VForm.short r) (fadd .rne)
def execFaddXr (r : Reg) (x : Xr) (s : State) : Result := s.vec2 r (VForm.long x) (fadd (Rm.ofBits x.rnd))
def execFsub (r : Reg) (s : State) : Result := s.vec2 r (VForm.short r) (fsub .rne)
def execFsubXr (r : Reg) (x : Xr) (s : State) : Result := s.vec2 r (VForm.long x) (fsub (Rm.ofBits x.rnd))
def execFmul (r : Reg) (s : State) : Result := s.vec2 r (VForm.short r) (fmul .rne)
def execFmulXr (r : Reg) (x : Xr) (s : State) : Result := s.vec2 r (VForm.long x) (fmul (Rm.ofBits x.rnd))
def execFfma (r : Reg) (x : Xr) (s : State) : Result := s.vec3 r (VForm.long x) (ffma (Rm.ofBits x.rnd))
def execFmin (r : Reg) (s : State) : Result := s.vec2 r (VForm.short r) fmin
def execFminXr (r : Reg) (x : Xr) (s : State) : Result := s.vec2 r (VForm.long x) fmin
def execFmax (r : Reg) (s : State) : Result := s.vec2 r (VForm.short r) fmax
def execFmaxXr (r : Reg) (x : Xr) (s : State) : Result := s.vec2 r (VForm.long x) fmax

/-! The five functions (R331): long-latency. -/

def execFrcp (r : Reg) (s : State) : Result := s.longVec (.frcp r) r (VForm.short r) (frcp .rne)
def execFrcpXr (r : Reg) (x : Xr) (s : State) : Result :=
  s.longVec (.frcpXr r x) r (VForm.long x) (frcp (Rm.ofBits x.rnd))
def execFrsq (r : Reg) (s : State) : Result := s.longVec (.frsq r) r (VForm.short r) (frsq .rne)
def execFrsqXr (r : Reg) (x : Xr) (s : State) : Result :=
  s.longVec (.frsqXr r x) r (VForm.long x) (frsq (Rm.ofBits x.rnd))
def execFsqrt (r : Reg) (s : State) : Result := s.longVec (.fsqrt r) r (VForm.short r) (fsqrt .rne)
def execFsqrtXr (r : Reg) (x : Xr) (s : State) : Result :=
  s.longVec (.fsqrtXr r x) r (VForm.long x) (fsqrt (Rm.ofBits x.rnd))
def execFex2 (r : Reg) (s : State) : Result := s.longVec (.fex2 r) r (VForm.short r) (fex2 .rne)
def execFex2Xr (r : Reg) (x : Xr) (s : State) : Result :=
  s.longVec (.fex2Xr r x) r (VForm.long x) (fex2 (Rm.ofBits x.rnd))
def execFlg2 (r : Reg) (s : State) : Result := s.longVec (.flg2 r) r (VForm.short r) (flg2 .rne)
def execFlg2Xr (r : Reg) (x : Xr) (s : State) : Result :=
  s.longVec (.flg2Xr r x) r (VForm.long x) (flg2 (Rm.ofBits x.rnd))

/-! Comparisons and select (R332, R333). -/

def execIcmp (r : Reg) (s : State) : Result := s.cmp2 r (VForm.short r) (icmpHolds 0)
def execIcmpXr (r : Reg) (x : Xr) (s : State) : Result := s.cmp2 r (VForm.long x) (icmpHolds x.minor.toNat)
def execFcmp (r : Reg) (s : State) : Result := s.cmp2 r (VForm.short r) (fcmpHolds 0)
def execFcmpXr (r : Reg) (x : Xr) (s : State) : Result := s.cmp2 r (VForm.long x) (fcmpHolds x.minor.toNat)

/-- PSET of a form (R333). -/
def State.pset (s : State) (r : Reg) (v : VForm) : Result :=
  s.predOp v [(r.a.toNat, r.fa)] [] r.d.toNat fun w _ l => crossRead v (readLanes w r.a.toNat) l != 0

def execPset (r : Reg) (s : State) : Result := s.pset r (VForm.short r)
def execPsetXr (r : Reg) (x : Xr) (s : State) : Result := s.pset r (VForm.long x)

def execSel (r : Reg) (x : Xr) (s : State) : Result :=
  let v := VForm.long x
  s.vectorOp v ((r.a.toNat, r.fa) :: State.bSources r v) (State.bScalars r v) r.d.toNat fun w _ l =>
    if (w.preg v.c).getLsbD l then crossRead v (readLanes w r.a.toNat) l else State.bLane w r v l

/-! Conversion (R334-R336). -/

/-- The registers of a source or destination of a type: a pair when it is 64 bits wide. -/
def pairOf (wide : Bool) (r : Nat) : List Nat := if wide then [r, r + 1] else [r]

/-- Results into several destinations, each a register or an output walker: the stores of all walkers are made together, or none is. -/
def State.putResults (s : State) (x : Site) (w : Warp) (n : Nat) (act : Mask) (rs : List (Nat × Lanes)) : Result :=
  let held := (rs.filter fun r => (w.boundWalker r.1).isNone).foldl (fun w r => (x.withW w).hold (.v r.1 act r.2)) w
  match rs.filterMap fun r => (w.boundWalker r.1).map fun k => (k, r.2) with
  | [] => .next (s.advance x n held)
  | ys =>
    match s.walkStore (x.withW w) act ys with
    | .error r => r
    | .ok s => .next (s.advance x n (s.absorb x (ys.foldl (fun w y => stepWalker w y.1) held)))

def execCvt (r : Reg) (x : Xr) (s : State) : Result :=
  let v := VForm.long x
  let wideS := wideType (v.minor % 16)
  let wideD := wideType (v.minor / 16)
  let srcs := pairOf wideS r.a.toNat
  let dsts := pairOf wideD r.d.toNat
  let bs := if v.minor / 16 = 8 then State.bSources r v else []
  s.atSite fun st =>
    let act := v.act st
    match s.regCheck st act ((srcs.map fun q => (q, r.fa)) ++ bs) (State.bScalars r v) dsts false with
    | some q => q
    | none =>
      let w := st.w
      let one : Nat → Nat := fun l =>
        let a := srcs.map fun q => (crossRead v (readLanes w q) l).toNat
        cvt v.minor v.rm (a.getD 0 0 + 2 ^ 32 * a.getD 1 0) (if v.minor / 16 = 8 then State.bLane w r v l else 0)
      let low := lanesOf fun l => BitVec.ofNat 32 (one l)
      let high := lanesOf fun l => BitVec.ofNat 32 (one l / 2 ^ 32)
      let (s, w) := s.stepInputs st w (srcs ++ bs.map (·.1))
      s.putResults st w v.n act (dsts.zip [low, high])

/-! Four-bit codes (R337, R338). -/

def State.pack4 (s : State) (r : Reg) (v : VForm) : Result :=
  s.vectorOp v ((r.a.toNat, r.fa) :: State.bSources r v) (State.bScalars r v) r.d.toNat fun w _ l =>
    let src : Nat → Word := fun q =>
      if l % 8 < 4 then crossRead v (readLanes w r.a.toNat) q else State.bLane w r v q
    BitVec.ofNat 32 ((List.range 8).foldl (fun d i => d + (src (8 * (l % 4) + i)).toNat % 16 * 16 ^ i) 0)

def State.unpackCodes (s : State) (r : Reg) (v : VForm) : Result :=
  s.vectorOp v ((r.a.toNat, r.fa) :: State.bSources r v) (State.bScalars r v) r.d.toNat fun w _ l =>
    unpack4 ((crossRead v (readLanes w r.a.toNat) (l / 8)).toNat / 16 ^ (l % 8) % 16) (State.bLane w r v l)

def execPack4 (r : Reg) (s : State) : Result := s.pack4 r (VForm.short r)
def execPack4Xr (r : Reg) (x : Xr) (s : State) : Result := s.pack4 r (VForm.long x)
def execUnpack4 (r : Reg) (s : State) : Result := s.unpackCodes r (VForm.short r)
def execUnpack4Xr (r : Reg) (x : Xr) (s : State) : Result := s.unpackCodes r (VForm.long x)

/-! Votes and lanes (R339-R342). -/

def State.ballot (s : State) (r : Reg) (v : VForm) : Result :=
  s.atSite fun x =>
    if !scalarOk r.d.toNat then s.trapWhole x 4 0
    else .next (s.advance x v.n (x.hold (.s r.d.toNat (v.act x &&& x.w.preg r.a.toNat))))

def execBallot (r : Reg) (s : State) : Result := s.ballot r (VForm.short r)
def execBallotXr (r : Reg) (x : Xr) (s : State) : Result := s.ballot r (VForm.long x)

/-- VOTE.any and VOTE.all over the active lanes (R340). -/
def State.vote (s : State) (r : Reg) (v : VForm) (all : Bool) : Result :=
  s.predOp v [] [] r.d.toNat fun w act _ =>
    let p := w.preg r.a.toNat
    if all then (act &&& ~~~p) == 0 else (act &&& p) != 0

def execVote (r : Reg) (s : State) : Result := s.vote r (VForm.short r) false
def execVoteXr (r : Reg) (x : Xr) (s : State) : Result := s.vote r (VForm.long x) (x.minor == 1)

/-- The lowest active lane's value in every active lane (R341). -/
def State.firstLane (s : State) (r : Reg) (v : VForm) : Result :=
  s.vectorOp v [(r.a.toNat, r.fa)] [] r.d.toNat fun w act _ =>
    crossRead v (readLanes w r.a.toNat) ((lowestLane act).getD 0)

def execRfl (r : Reg) (s : State) : Result := s.firstLane r (VForm.short r)
def execRflXr (r : Reg) (x : Xr) (s : State) : Result := s.firstLane r (VForm.long x)

/-- LANEID.phys, or LANEID.log from the block's lane map (R342, R180). -/
def State.laneId (s : State) (r : Reg) (v : VForm) (log : Bool) : Result :=
  s.atSite fun x =>
    s.vectorOp v [] [] r.d.toNat fun w _ l =>
      BitVec.ofNat 32 (if log then x.b.laneMap.getD (32 * w.num + l) 0 else l)

def execLaneid (r : Reg) (s : State) : Result := s.laneId r (VForm.short r) false
def execLaneidXr (r : Reg) (x : Xr) (s : State) : Result := s.laneId r (VForm.long x) (x.minor == 1)

end Sys2Proof.Machine
end

