-- ==== Sys2Proof/Machine/Access.lean ====
section
/-! DEFINITION. Memory instructions in flight: what each one reads and writes (R343-R346, R351, R352), what it must wait for
(R211, R212, R220, R348, R358), translation in passes (R66-R68), and the performing of one lane at its place (R204). -/

namespace Sys2Proof.Machine

/-! What a memory instruction does. -/

inductive MemKind where
  | load
  | store
  | atom
  | cas
  deriving DecidableEq, Repr

inductive MemSpace where
  | pool
  | scratch
  | peer
  deriving DecidableEq, Repr

structure MemOp where
  space : MemSpace
  kind : MemKind
  minor : Nat
  deriving DecidableEq, Repr

/-- The fields of a MEM instruction that accesses lane by lane. -/
def memOf : Instr → Option (MemOp × Mm × Option Xm)
  | .ld m => some ({ space := .pool, kind := .load, minor := 0 }, m, none)
  | .ldXm m x => some ({ space := .pool, kind := .load, minor := x.minor.toNat }, m, some x)
  | .st m => some ({ space := .pool, kind := .store, minor := 0 }, m, none)
  | .stXm m x => some ({ space := .pool, kind := .store, minor := x.minor.toNat }, m, some x)
  | .ldl m => some ({ space := .scratch, kind := .load, minor := 0 }, m, none)
  | .ldlXm m x => some ({ space := .scratch, kind := .load, minor := x.minor.toNat }, m, some x)
  | .stl m => some ({ space := .scratch, kind := .store, minor := 0 }, m, none)
  | .stlXm m x => some ({ space := .scratch, kind := .store, minor := x.minor.toNat }, m, some x)
  | .atom m => some ({ space := .pool, kind := .atom, minor := 0 }, m, none)
  | .atomXm m x => some ({ space := .pool, kind := .atom, minor := x.minor.toNat }, m, some x)
  | .atoml m => some ({ space := .scratch, kind := .atom, minor := 0 }, m, none)
  | .atomlXm m x => some ({ space := .scratch, kind := .atom, minor := x.minor.toNat }, m, some x)
  | .cas m => some ({ space := .pool, kind := .cas, minor := 0 }, m, none)
  | .casXm m x => some ({ space := .pool, kind := .cas, minor := x.minor.toNat }, m, some x)
  | .rld m x => some ({ space := .peer, kind := .load, minor := x.minor.toNat }, m, some x)
  | .rst m x => some ({ space := .peer, kind := .store, minor := x.minor.toNat }, m, some x)
  | .ratom m x => some ({ space := .peer, kind := .atom, minor := x.minor.toNat }, m, some x)
  | _ => none

/-- Whether the datum is 64 bits wide (R292). -/
def MemOp.wide (o : MemOp) : Bool :=
  match o.kind with
  | .load => o.minor == 1
  | .store => o.minor == 1
  | .atom => decide (2 ≤ o.minor % 4)
  | .cas => o.minor == 1

/-- The access width in bytes (R345). -/
def MemOp.width (o : MemOp) : Nat :=
  if o.wide then 8
  else match o.kind, o.minor with
    | .load, 2 => 1
    | .load, 3 => 1
    | .load, 4 => 2
    | .load, 5 => 2
    | .store, 2 => 1
    | .store, 4 => 2
    | _, _ => 4

/-- The size code of a request (R40). -/
def sizeCode (w : Nat) : Nat :=
  match w with
  | 1 => 0
  | 2 => 1
  | 4 => 2
  | 8 => 3
  | _ => 4

/-- Whether the access writes. -/
def MemOp.writes (o : MemOp) : Bool := o.kind != .load

/-- Whether a register receives a value. -/
def MemOp.returns (o : MemOp) : Bool := o.kind != .store

/-- The value a load's register gets (R345). -/
def MemOp.loaded (o : MemOp) (bs : List Byte) : DWord :=
  match o.kind, o.minor with
  | .load, 3 => ((BitVec.ofNat 8 (leVal bs)).signExtend 32).setWidth 64
  | .load, 5 => ((BitVec.ofNat 16 (leVal bs)).signExtend 32).setWidth 64
  | _, _ => BitVec.ofNat 64 (leVal bs)

/-- The new value of an atomic (R351) of width w bytes: minor 4 * operation + type, 28 `.add.f32`. A reserved operation acts as an exchange, and
one whose type does not match the size acts on the size's bytes; R40 does not say what a home does with them (log 142, DESIGN CHOICE). -/
def atomNew (minor w m x : Nat) : Nat :=
  let n := 8 * w
  let less : Bool := if minor % 2 = 1 then decide (toSigned n m ≤ toSigned n x) else decide (m ≤ x)
  if minor = 28 then (fadd .rne (BitVec.ofNat 32 m) (BitVec.ofNat 32 x)).toNat
  else match minor / 4 with
    | 0 => (m + x) % 2 ^ n
    | 1 => if less then m else x
    | 2 => if less then x else m
    | 3 => Nat.land m x
    | 4 => Nat.lor m x
    | 5 => Nat.xor m x
    | _ => x

/-- What an access to bytes does: the bytes to write, if any (R349, R351, R352). -/
def MemOp.update (o : MemOp) (old : List Byte) (y z : DWord) : Option (List Byte) :=
  let w := o.width
  match o.kind with
  | .load => none
  | .store => some (leBytes w y.toNat)
  | .atom => some (leBytes w (atomNew o.minor w (leVal old) (y.toNat % 2 ^ (8 * w))))
  | .cas => if leVal old = y.toNat % 2 ^ (8 * w) then some (leBytes w z.toNat) else none

/-! Addresses (R344). -/

/-- Lane l's offset, sign-extended, or the pair. -/
def Flight.off (f : Flight) (pair : Bool) (l : Nat) : DWord :=
  let v := f.x.getD l 0
  if pair then v else sext64 (loWord v)

/-- The signed displacement of the ordinary form, and that of the remote and group forms in bytes (R282). -/
def dispOf (x : Option Xm) : DWord := (x.map fun x => sext64 x.low).getD 0
def wordDispOf (x : Option Xm) : DWord := (x.map fun x => sext64 (x.low.truncate 8) * 4).getD 0

/-- The address that lane l forms; every lane of an MCAST takes that of the lowest active lane. -/
def Flight.addrOf (f : Flight) (l : Nat) : Nat :=
  match f.instr, memOf f.instr with
  | _, some (o, m, x) =>
    match o.space with
    | .pool => (f.sbase + f.off m.pair l + dispOf x).toNat
    | .scratch => (loWord (f.sbase + f.off m.pair l + dispOf x)).toNat
    | .peer => (f.sbase + f.off m.pair l + wordDispOf x).toNat
  | .mcast _ x, none => (f.sbase + f.off false ((lowestLane f.active).getD 0) + wordDispOf (some x)).toNat
  | _, none => 0

/-! Roles in the orderings of R212 and R422. -/

/-- Whether an instruction reads, and writes, as a memory operation of its thread (R212, R361, R383, R401). -/
def roles : Instr → Bool × Bool
  | .mst _ => (false, true)
  | .mstXm _ _ => (false, true)
  | .mld _ => (true, false)
  | .mldXm _ _ => (true, false)
  | .mloop _ _ => (true, false)
  | .mcast _ _ => (false, true)
  | .combine _ _ => (true, true)
  | .fenceXm _ _ => (true, true)
  | i => match memOf i with
    | some (o, _, _) => (o.kind != .store, o.writes)
    | none => (false, false)

def isRecv : Instr → Bool
  | .mbxrecv _ => true
  | _ => false

def isSend : Instr → Bool
  | .mbxsend _ => true
  | _ => false

/-- TCOPY, CFILL and CBLOAD: commands of the Porter's queue (R387, R391). -/
def isCopy : Instr → Bool
  | .tcopy _ => true
  | .tcopyXm _ _ => true
  | .cfill _ => true
  | .cfillXm _ _ => true
  | .cbload _ => true
  | .cbloadXm _ _ => true
  | _ => false

/-- CCHAIN (R394). -/
def isChain : Instr → Bool
  | .cchain _ => true
  | .cchainXm _ _ => true
  | _ => false

/-- A CCHAIN of a channel. -/
def chainsTo (ch : Nat) : Instr → Bool
  | .cchain r => r.d.toNat == ch
  | .cchainXm r _ => r.d.toNat == ch
  | _ => false

/-- RST and MCAST are posted (R220). -/
def isPosted : Instr → Bool
  | .rst _ _ => true
  | .mcast _ _ => true
  | _ => false

def isEngine : Instr → Bool
  | .mst _ => true
  | .mstXm _ _ => true
  | .mld _ => true
  | .mldXm _ _ => true
  | .mloop _ _ => true
  | _ => false

/-- MST: what the matrix engine writes to memory (R383). -/
def isMst (i : Instr) : Bool := isEngine i && (roles i).2

def isRemoteLoad : Instr → Bool
  | .rld _ _ => true
  | _ => false

def isCombine : Instr → Bool
  | .combine _ _ => true
  | _ => false

/-- MWAIT and MSTAT wait in the engine's queue while their slot stands at them (R363, R381, R382). -/
def isEngineWait : Instr → Bool
  | .mwait _ => true
  | .mstat _ => true
  | _ => false

def isMloop : Instr → Bool
  | .mloop _ _ => true
  | _ => false

def isFence : Instr → Bool
  | .fenceXm _ _ => true
  | _ => false

def isScratch (i : Instr) : Bool :=
  match memOf i with
  | some (o, _, _) => o.space == .scratch
  | none => false

/-- Whether an MST or MLD of a flight moves scratchpad rows; its group's values stand in X (R252, R377). -/
def tileScratch (f : Flight) : Bool := isEngine f.instr && !isMloop f.instr && (f.x.getD 2 0).getLsbD 31

/-- The minor, the displacement and the row length in bytes of an MST or MLD (R377, R378). -/
def tileForm : Instr → Option (Nat × DWord × Nat)
  | .mst _ => some (0, 0, 128)
  | .mld _ => some (0, 0, 128)
  | .mstXm _ x => some (x.minor.toNat, sext64 x.low, [128, 64, 32, 32, 32, 64, 16].getD x.minor.toNat 0)
  | .mldXm _ x => some (x.minor.toNat, sext64 x.low, if x.minor = 0 then 128 else 64)
  | _ => none

/-- The address of row i of a group's tile (R377). -/
def tileRow (g : List DWord) (disp : DWord) (i : Nat) : DWord :=
  let stride := (loWord (g.getD 2 0)).truncate 24
  let addr := pairVal (loWord (g.getD 0 0)) (loWord (g.getD 1 0)) + disp + BitVec.ofNat 64 i * sext64 stride
  if (g.getD 2 0).getLsbD 31 then (loWord addr).setWidth 64 else addr

/-- Whether a tile move of a flight names the line of a pool address (R348, R383). -/
def tileTouches (g : Flight) (a : Nat) : Bool :=
  match tileForm g.instr with
  | some (_, disp, n) => !tileScratch g && (List.range 32).any fun i =>
      let r := (tileRow g.x disp i).toNat
      lineOf r == lineOf a || lineOf (r + n - 1) == lineOf a
  | none => false

def hasAcquire (order : Nat) : Bool := order == 1 || order == 3
def hasRelease (order : Nat) : Bool := order == 2 || order == 3

def sameThread (g f : Flight) : Bool := (g.inA && f.inA) || (g.inB && f.inB)

/-- Whether g has an acquire effect on what follows it (R212, R358, R361, R406). -/
def acquires (g : Flight) : Bool :=
  hasAcquire g.order && (isRecv g.instr || ((roles g.instr).1 && !isEngine g.instr))

/-- Whether f is a release of the thread's earlier operations (R212, R358, R359, R361, R405). -/
def releases (f : Flight) : Bool :=
  hasRelease f.order && (isSend f.instr || ((roles f.instr).2 && !isEngine f.instr))

/-- Whether a copy in flight writes scratchpad rows; the destination group stands first in X (R252, R387). -/
def copyScratch (f : Flight) : Bool := isCopy f.instr && bits (f.x.getD 2 0).toNat 31 30 == 1 && decide (8 ≤ f.x.length)

/-- Whether an earlier instruction of the thread must have been performed before f is (R201, R212, R216, R372, R383, R422); what a
Porter command or a chain waits for is that of R218 and R390, and every earlier copy. A release waits for no posted store (R220), and an SC
RLD for nothing but what comes before it in the SC order (R358), in which a COMBINE has no place (R361). -/
def mustPrecede (g f : Flight) : Bool :=
  let mem := fun i : Instr => (roles i).1 || (roles i).2
  (acquires g && (mem f.instr || isSend f.instr || isCopy f.instr || isChain f.instr)) ||
    ((isCopy f.instr || isChain f.instr) && (((roles g.instr).2 && !isPosted g.instr) || isCopy g.instr ||
      (f.order != 0 && mem g.instr && !isPosted g.instr))) ||
    (releases f && mem g.instr && !isPosted g.instr) ||
    (isFence g.instr && hasRelease g.order && (roles f.instr).2) || (isFence f.instr && hasAcquire f.order && (roles g.instr).1) ||
    (f.order == 3 && mem f.instr && !isRemoteLoad f.instr && isMst g.instr) ||
    (f.order != 0 && isEngine f.instr && mem g.instr && !isPosted g.instr) ||
    (f.order == 3 && g.order == 3 && mem f.instr && mem g.instr && !isCombine f.instr && !isCombine g.instr) ||
    ((isScratch f.instr || tileScratch f) && (isScratch g.instr || tileScratch g)) ||
    (isMloop g.instr && (isScratch f.instr || tileScratch f) && (roles f.instr).2) ||
    (isMloop f.instr && (isScratch g.instr || tileScratch g) && (roles g.instr).2) ||
    (isMloop g.instr && copyScratch f) || (isMloop f.instr && copyScratch g)

/-- Whether an instruction has an entry of the Porter's queue or starts a channel: those of a warp are taken up in issue order (R386). -/
def isQueued (i : Instr) : Bool := isCopy i || isChain i

/-- The numbers of the instructions that f waits for. -/
def depsOf (w : Warp) (f : Flight) : List Nat :=
  (w.flights.filter fun g => !g.done &&
    ((sameThread g f && mustPrecede g f) || (isQueued g.instr && isQueued f.instr))).map (·.id)

def depsMet (w : Warp) (f : Flight) : Bool := f.deps.all fun n => w.flights.all fun g => g.id != n || g.done

/-- The lanes of a flight that are not yet performed. -/
def Flight.unperformed (f : Flight) : Mask := f.remaining ||| f.waiting ||| f.sent

/-- Whether lane l of f and lane m of an earlier g name one line: by the pool addresses where both are translated, else by
the virtual addresses, as the trace below R254 does (R348). -/
def sameLine (f : Flight) (l : Nat) (g : Flight) (m : Nat) : Bool :=
  match tget? f.pas l, tget? g.pas m with
  | some p, some q => lineOf p.1 == lineOf q.1
  | _, _ => lineOf (f.addrOf l) == lineOf (g.addrOf m)

/-- Whether an instruction names pool lines by its lanes (R348): an access to the pool, or an MCAST, by the line that it translates. -/
def namesPool (i : Instr) : Bool :=
  match i, memOf i with
  | _, some (o, _, _) => o.space == .pool
  | .mcast _ _, none => true
  | _, none => false

/-- Whether an MCAST in flight writes bytes of a member's symmetric region in the same aligned 16 as an offset (R348). Its members stand
in `peers`, and the offset of its line in Z once its router has found it. -/
def castHits (g : Flight) (p : Word) (o : Nat) : Bool :=
  g.unperformed != 0 && g.peers.contains p && match g.z[1]? with
    | some base => (activeLanes g.active).any fun m => (base.toNat + 4 * m) / 16 == o / 16
    | none => true

/-- Whether the earlier g holds lane l of f back (R348). -/
def holdsBack (g f : Flight) (l : Nat) : Bool :=
  if namesPool f.instr then
    if namesPool g.instr then (activeLanes g.unperformed).any fun m => sameLine f l g m
    else isEngine g.instr && tileTouches g (f.addrOf l)
  else match memOf f.instr, memOf g.instr with
    | some (o, _, _), some (p, _, _) =>
      o.space == .peer && p.space == .peer && (activeLanes g.unperformed).any fun m =>
        f.peers.getD l 0 == g.peers.getD m 0 && f.addrOf l / 16 == g.addrOf m / 16
    | some (o, _, _), none =>
      match o.space, g.instr with
      | .peer, .mcast _ _ => castHits g (f.peers.getD l 0) (f.addrOf l)
      | _, _ => false
    | _, _ => false

/-- Whether the earlier g, an access to the pool or an MCAST, holds the tile move f back (R348, R383). -/
def holdsTile (g f : Flight) : Bool :=
  namesPool g.instr && (activeLanes g.unperformed).any fun l => tileTouches f (g.addrOf l)

/-- Whether two lanes of an access name bytes in common: by their pool addresses where both are translated, else by the addresses that they
form. Both are aligned (R345), so they then name the same bytes. -/
def sameBytes (o : MemOp) (f : Flight) (l m : Nat) : Bool :=
  let near := fun a b : Nat => decide (a < b + o.width) && decide (b < a + o.width)
  (o.space != .peer || f.peers.getD l 0 == f.peers.getD m 0) && match tget? f.pas l, tget? f.pas m with
    | some p, some q => near p.1 q.1
    | _, _ => near (f.addrOf l) (f.addrOf m)

/-- Lane l of f and a lower lane m of f that must come first (R346): they overlap, and the instruction writes. -/
def lanesClash (o : MemOp) (f : Flight) (l m : Nat) : Bool := o.writes && sameBytes o f l m

/-- Whether a higher lane of a store has already written, or is on its way to write, what lane l writes: its value remains (R346). -/
def overtaken (o : MemOp) (f : Flight) (l : Nat) : Bool :=
  o.kind == .store && (activeLanes f.active).any fun m =>
    decide (l < m) && !(f.remaining ||| f.waiting).getLsbD m && sameBytes o f l m

/-- Whether lane l of f may be performed now, as far as other lanes go. -/
def laneFree (w : Warp) (o : MemOp) (f : Flight) (l : Nat) : Bool :=
  !(w.flights.any fun g => decide (g.id < f.id) && !g.done && sameThread g f && holdsBack g f l) &&
    !((activeLanes f.unperformed).any fun m => decide (m < l) && lanesClash o f l m)

namespace State

/-! Finishing. -/

/-- Change a flight where it stands. -/
def updFlight (s : State) (wid : WarpId) (id : Nat) (f : Flight → Flight) : State :=
  s.updWarp wid fun w => w.updFlight id f

def flight? (s : State) (wid : WarpId) (id : Nat) : Option Flight := (s.warp? wid).bind (·.flight? id)

/-- The tags that a flight took at issue and needs no more are free again (R44). -/
def dropTags (s : State) (wid : WarpId) (id : Nat) : State :=
  match s.flight? wid id with
  | some f => if f.tags.isEmpty then s
      else f.tags.foldl (fun (s : State) n => s.freeTagNow wid.core n) (s.updFlight wid id fun f => { f with tags := [] })
  | none => s

/-- A flight with nothing left to do ends: an acquire wider than core drops the clean lines (R212); the results are
written by REGISTER_FILL (R173). A store or posted store that has left the core counts no more (R349, R355). -/
def endFlight (s : State) (wid : WarpId) (id : Nat) : State :=
  match s.flight? wid id with
  | none => s
  | some f =>
    if f.done || f.fault.isSome then s
    else
    let s := if (f.remaining ||| f.waiting) = 0 then s.dropTags wid id else s
    if f.unperformed = 0 then
      let s := if acquires f && f.scope != 0 then s.dropAllClean wid.core else s
      if f.dest.isEmpty then s.updWarp wid fun w => { w with flights := w.flights.filter (·.id != id) }
      else (s.updFlight wid id fun f => { f with done := true, counted := false, slots := [], found := [] }).postOnce .registerFill { w := wid, i := id }
    else if (f.remaining ||| f.waiting) = 0 && f.dest.isEmpty then s.updFlight wid id fun f => { f with counted := false }
    else s

/-- A lane is performed: its value, when a register receives one. -/
def laneDone (s : State) (wid : WarpId) (id l : Nat) (v : Option DWord) : State :=
  let m : Mask := (1 : Word) <<< l
  (s.updFlight wid id fun f => { f with
    waiting := f.waiting &&& ~~~m, sent := f.sent &&& ~~~m
    got := match v with
      | some v => tset f.got l v
      | none => f.got }).endFlight wid id

/-- A lane meets a remote fault (R221, R349, R357): a destination is poisoned, and holds a value that the spec does not
state in this lane; an instruction without one records a posted-store fault. -/
def laneFault (s : State) (wid : WarpId) (id l cause peer : Nat) (addr : DWord) : State :=
  match s.flight? wid id with
  | none => s
  | some f =>
    if f.dest.isEmpty then (s.recordRff wid cause peer false addr).laneDone wid id l none
    else
      let remote := match memOf f.instr with
        | some (o, _, _) => o.space == .peer
        | none => false
      let aux := cause + (bif remote then bit01 (decide (peer < 512)) 17 + peer % 512 * 2 ^ 8 else 0)
      let p : Poison := { origin := f.addr, aux := BitVec.ofNat 64 aux }
      let (v, s) := s.freeValue
      (s.updFlight wid id fun f => { f with bad := some (f.bad.getD p) }).laneDone wid id l (some v)

/-- A lane has left the core under a tag. -/
def laneSent (s : State) (wid : WarpId) (id l : Nat) : State :=
  let m : Mask := (1 : Word) <<< l
  (s.updFlight wid id fun f => { f with waiting := f.waiting &&& ~~~m, sent := f.sent ||| m }).endFlight wid id

/-! Performing one lane of a pool access (R196, R204-R210). -/

/-- The request of a lane. -/
def laneRequest (s : State) (wid : WarpId) (f : Flight) (o : MemOp) (l : Nat) (dst : Endpoint) (sym : Bool) (addr : Nat) : Packet :=
  let y := f.y.getD l 0
  { (default : Packet) with
    opcode := match o.kind with
      | .load => 1
      | .store => 2
      | .atom => 3
      | .cas => 4
    dst := dst, src := coreEndpoint wid.core, issuer := coreEndpoint wid.core, warp := wid.slot, lane := l
    scope := f.scope, order := f.order, size := sizeCode o.width, atom := if o.kind = .atom then o.minor else 0
    sym := sym, addr := addr, data0 := if o.kind = .load then 0 else (BitVec.ofNat 128 (y.toNat % 2 ^ (8 * o.width)))
    data1 := if o.kind = .cas then BitVec.ofNat 64 ((f.z.getD l 0).toNat % 2 ^ (8 * o.width)) else 0
    version := (s.die wid.core.dieId).cur.version }

/-- Send a lane's request to a home, when a tag is free. -/
def sendLane (s : State) (wid : WarpId) (f : Flight) (o : MemOp) (l : Nat) (h : Home) (pa : Nat) : State :=
  match s.request wid.core (h.pkg != wid.core.pkg) (s.laneRequest wid f o l (homeEndpoint h) false pa) (.lane wid f.id l) with
  | some s => s.laneSent wid f.id l
  | none => s

/-- A LINE-READ of a core (R428). -/
def lineRequest (s : State) (c : CoreId) (h : Home) (scope pa : Nat) (use : TagUse) : Option State :=
  s.request c (h.pkg != c.pkg)
    { (default : Packet) with
      opcode := 7, dst := homeEndpoint h, src := coreEndpoint c, issuer := coreEndpoint c, warp := use.place.1, lane := use.place.2
      scope := scope
      addr := lineOf pa * 128, version := (s.die c.dieId).cur.version } use

/-- Whether a core has already asked for a line, exclusively or at all. -/
def lineAsked (s : State) (c : CoreId) (pa : Nat) (exclusive : Bool) : Bool :=
  (s.core c).tags.any fun x => x.2.held && x.2.req.opcode == 7 && lineOf x.2.req.addr == lineOf pa &&
    decide (x.2.req.scope ≤ 2) && (!exclusive || x.2.req.scope == 0)

/-- Perform a lane in the core's own cache, where the line is; it becomes the set's most recently used (R196). -/
def performCached (s : State) (wid : WarpId) (f : Flight) (o : MemOp) (l : Nat) (line : CacheLine) (pa : Nat) : State :=
  let old := (line.data.drop (pa % 128)).take o.width
  let s := s.setLine wid.core line
  let s := match o.update old (f.y.getD l 0) (f.z.getD l 0), s.warp? wid with
    | some bs, some w => s.writeCached wid.core w.block pa bs
    | _, _ => if o.writes then match s.warp? wid with
        | some w => s.writeCached wid.core w.block pa []
        | none => s
      else s
  s.laneDone wid f.id l (if o.returns then some (o.loaded old) else none)

/-- A load of a line that no pin of its own core decides (R196, R204, R209). -/
def performLoad (s : State) (wid : WarpId) (f : Flight) (o : MemOp) (l : Nat) (h : Home) (pa policy : Nat) : State :=
  let c := wid.core
  let own := s.cached c pa
  if f.scope = 0 && policy != 2 then
    match own with
    | some line => s.performCached wid f o l line pa
    | none =>
      if policy = 1 then s.sendLane wid f o l h pa
      else if s.lineAsked c pa false then s
      else match s.lineRequest c h 1 pa (.lane wid f.id l) with
        | some s => s.laneSent wid f.id l
        | none => s
  else if visits c.dieId h f.scope then
    match tget? (s.die c.dieId).visitors (lineOf pa) with
    | some v => s.laneDone wid f.id l (some (o.loaded ((v.drop (pa % 128)).take o.width)))
    | none =>
      if policy = 0 then
        if s.visitorAsked c.dieId pa then s
        else match s.lineRequest c h f.scope pa (.lane wid f.id l) with
        | some s => s.laneSent wid f.id l
        | none => s
      else s.sendLane wid f o l h pa
  else s.sendLane wid f o l h pa

/-- Whether a slot may issue its next SC access (R216): 1 ns after the answer to the last one when both homes lie in its own package,
101 ns after it otherwise. -/
def scReady (s : State) (sl : PcSlot) (far : Bool) : Bool :=
  match sl.scLast with
  | some (t, last) => decide (t + (if last || far then 101 else 1) ≤ s.now)
  | none => true

/-- An SC access of a slot has been answered (R216): `far` says that its home lies in another package. -/
def scAnswered (s : State) (wid : WarpId) (x : PcSel) (far : Bool) : State :=
  s.updWarp wid fun w => w.setSlot x { w.slot x with scLast := laterSc (w.slot x).scLast (some (s.now, far)) }

/-- An SC FENCE takes its place in the SC order (R217, R401): the domain time of its package, with the core's issuer number. The
thread's next SC access waits 1 ns. -/
def scFenced (s : State) (wid : WarpId) (x : PcSel) : State :=
  let c := wid.core
  (s.updCore c fun k => { k with scFence := some ((s.timeAt c.pkg).toNat, issuerNumber (coreEndpoint c)) }).scAnswered wid x false

/-- A lane whose address lies in no region any more when its request is to leave: the Region fault of its pass (R57, R68). -/
def lateRegion (s : State) (wid : WarpId) (id l : Nat) : State :=
  match s.flight? wid id with
  | none => s
  | some f =>
    let m : Mask := (1 : Word) <<< l
    let t : TrapRec :=
      { cause := 0x0E, slot := f.by_, addr := BitVec.ofNat 64 (f.addrOf l), lanes := m, instr := f.addr, aux := 0 }
    if f.fault.isSome then s
    else (s.updFlight wid id fun f => { f with
      remaining := f.remaining ||| f.waiting ||| m, waiting := 0, sent := f.sent &&& ~~~m, fault := some t
      slots := [], found := [] }).dropTags wid id |>.raise wid t

/-- Perform lane l of a pool access, or leave it waiting. -/
def performPool (s : State) (wid : WarpId) (w : Warp) (f : Flight) (o : MemOp) (l : Nat) : State :=
  let c := wid.core
  match tget? f.pas l with
  | none => s
  | some (pa, policy) =>
    match s.homeAt c.dieId pa with
    | none => s.lateRegion wid f.id l
    | some h =>
      let own := s.cached c pa
      let pin : Pin := (own.map (·.pin)).getD Pin.no
      if overtaken o f l then s.laneDone wid f.id l none
      else if f.order = 3 then
        if pin = .held then s.endPin c pa
        else if pin = .ending || !s.scReady (w.slot f.by_) (h.pkg != c.pkg) then s
        else s.sendLane wid f o l h pa
      else
        match own, pin with
        | some line, .held => s.performCached wid f o l line pa
        | some line, .ending => if o.writes then s else s.performCached wid f o l line pa
        | _, _ =>
          if o.kind = .load then s.performLoad wid f o l h pa policy
          else if f.scope = 0 && policy = 0 then
            if s.lineAsked c pa true then s else (s.lineRequest c h 0 pa (.pin wid f.id l)).getD s
          else s.sendLane wid f o l h pa

/-! Scratchpad (R200, R201). -/

end State

/-- The rows and columns of a shape code (R134). -/
def shapeDims (shape : Nat) : Nat × Nat :=
  match shape with
  | 0 => (1, 1)
  | 1 => (1, 2)
  | 2 => (2, 2)
  | 3 => (2, 4)
  | _ => (4, 4)

/-- Whether a block's gang straddles, and its half as R145 lays it out: rows, columns, origin (R259). -/
def Block.straddled (b : Block) : Bool := b.straddle.getLsbD 16
def Block.halfDims (b : Block) : Nat × Nat := (bits b.straddle.toNat 13 11 + 1, bits b.straddle.toNat 10 8 + 1)
def Block.halfOrigin (b : Block) : Nat := bits b.straddle.toNat 5 0

/-- The other half's die and origin of a straddled gang (R145). -/
def otherHalf (die h w cols origin : Nat) : Nat × Nat :=
  let r := origin / 8
  let c := origin % 8
  if w < cols then (Nat.xor die 1, 8 * r + (if c = 0 then 8 - w else 0))
  else (Nat.xor die 2, 8 * (if r = 0 then 8 - h else 0) + c)

namespace State

/-- The gang's shape (R134): rows and columns. -/
def gangDims (s : State) (b : BlockId) : Nat × Nat := shapeDims (((s.launch? b.grid).map (·.shape)).getD 0)

/-- The core that a pooled scratchpad address names, or none (R200). -/
def pooledCore (s : State) (bid : BlockId) (b : Block) (other : Bool) (idx : Nat) : Option CoreId :=
  let (rows, cols) := s.gangDims bid
  if b.straddled then
    let (h, w) := b.halfDims
    if h * w ≤ idx then none
    else
      let (die, origin) := if other then otherHalf b.core.die h w cols b.halfOrigin else (b.core.die, b.halfOrigin)
      some { pkg := b.core.pkg, die := die, pos := origin + 8 * (idx / w) + idx % w }
  else if other || rows * cols ≤ idx then none
  else
    let origin := b.core.pos - 8 * (bid.j / cols) - bid.j % cols
    some { pkg := b.core.pkg, die := b.core.die, pos := origin + 8 * (idx / cols) + idx % cols }

end State

/-- What a scratchpad address names (R200, R201): a block and an offset, a half that is lost (R262), or a fault. -/
inductive Scratch where
  | at_ (b : BlockId) (off : Nat)
  | lost
  | fault
  deriving DecidableEq, Repr

namespace State

/-- Resolve a scratchpad address for an access of n bytes by a block. -/
def scratchAt (s : State) (bid : BlockId) (b : Block) (sa n : Nat) : Scratch :=
  let off := bits sa 17 0
  if bits sa 31 24 != 0 then .fault
  else if bits sa 23 23 = 0 then
    if bits sa 22 18 != 0 || decide (b.grant < off + n) then .fault else .at_ bid off
  else
    match s.pooledCore bid b (bits sa 22 22 == 1) (bits sa 21 18) with
    | none => .fault
    | some c =>
      match s.blocks.find? fun x => x.1.grid == bid.grid && x.1.gang == bid.gang && x.2.core == c && x.2.state != 3 with
      | some (t, tb) => if tb.grant < off + n then .fault else .at_ t off
      | none =>
        let dead := (s.die c.dieId).lost ||
          s.blocks.any fun x => x.1.grid == bid.grid && x.1.gang == bid.gang && x.2.core == c && x.2.state == 3
        if dead && decide (off + n ≤ b.grant) then .lost else .fault

/-- Perform lane l of a scratchpad access in its array. -/
def performScratch (s : State) (wid : WarpId) (w : Warp) (f : Flight) (o : MemOp) (l : Nat) : State :=
  match s.block? w.block with
  | none => s
  | some b =>
    let addr := f.addrOf l
    match s.scratchAt w.block b addr o.width with
    | .at_ t off =>
      match s.block? t with
      | none => s
      | some tb =>
        let old := s.scratchBytes tb off o.width
        let s := match o.update old (f.y.getD l 0) (f.z.getD l 0) with
          | some bs => s.scratchPut tb off bs
          | none => s
        s.laneDone wid f.id l (if o.returns then some (o.loaded old) else none)
    | _ => s.laneFault wid f.id l 4 wid.core.pkg (BitVec.ofNat 64 addr)

/-! Remote lanes (R354-R358). -/

/-- Whether an earlier posted store of the thread to a peer is not yet acknowledged (R220). -/
def postedTo (w : Warp) (f : Flight) (peer : Word) : Bool :=
  w.flights.any fun g => decide (g.id < f.id) && !g.done && sameThread g f &&
    match g.instr with
    | .rst _ _ => (activeLanes g.unperformed).any fun m => g.peers.getD m 0 == peer
    | _ => false

/-- Perform lane l of a peer access: it faults without traffic, or its request is sent under a tag (R355). -/
def performPeer (s : State) (wid : WarpId) (w : Warp) (f : Flight) (o : MemOp) (l : Nat) : State :=
  let peer := (f.peers.getD l 0)
  let addr := f.addrOf l
  if 512 ≤ peer.toNat || !s.isMember peer.toNat || 2 ^ 50 ≤ addr then
    s.laneFault wid f.id l 1 peer.toNat (BitVec.ofNat 64 addr)
  else if releases f && postedTo w f peer then s
  else if f.order = 3 && !s.scReady (w.slot f.by_) (peer.toNat != wid.core.pkg) then s
  else
    let dst : Endpoint := { pkg := peer.toNat, die := 4, pos := 0, unit := 3 }
    match s.request wid.core true (s.laneRequest wid f o l dst true addr)
        (if o.kind = .store then .post wid f.id l else .lane wid f.id l) with
    | some s => s.laneSent wid f.id l
    | none => s

/-! One advance of a flight. -/

/-- The translation that a page needs is there: its lanes' pool addresses, or the fault that each meets (R63, R66, R68). -/
def pageFound (s : State) (wid : WarpId) (f : Flight) (page : Nat) (write : Bool) (r : WalkR) : Flight :=
  let ls := (activeLanes f.remaining).filter fun l => pageOf (f.addrOf l) == page
  match r with
  | .ok e =>
    if !permitted e write false then { f with faults := tset f.faults page 0x12 }
    else if ls.any fun l => (s.homeAt wid.core.dieId (e.phys (f.addrOf l))).isNone then { f with faults := tset f.faults page 0x0E }
    else { f with pas := ls.foldl (fun t l => tset t l (e.phys (f.addrOf l), flagPolicy e.flags)) f.pas }
  | .fault c => { f with faults := tset f.faults page c }
  | .busy => f

/-- A miss slot of a flight is filled: it holds a translation that succeeded (R66). -/
def slotFilled (s : State) (wid : WarpId) (f : Flight) (page : Nat) (write : Bool) (r : WalkR) : Flight :=
  let f := s.pageFound wid f page write r
  match r with
  | .ok e => { f with found := e :: f.found }
  | _ => f

/-- The walk of a page is one of the 64 under way; the others wait in arrival order (R67). -/
def walkRuns (k : Die) (page : Nat) : Bool := (k.walks.take 64).any (·.1 == page)

/-- Ask for the page of a miss slot: the second-level TLB fills it at once, else it attaches to the page's walk, or waits for a
walker (R66, R67). -/
def missPage (s : State) (wid : WarpId) (id page : Nat) (write : Bool) : State :=
  let c := wid.core
  match tlbFind (s.die c.dieId).tlb (page * 2 ^ 16) with
  | some e =>
    let s := s.tlbHit2 c e
    s.updFlight wid id fun f => s.slotFilled wid f page write (.ok e)
  | none =>
    let s := s.updDie c.dieId fun k => { k with walks := tset k.walks page (tget k.walks page [] ++ [(wid, id)]) }
    if walkRuns (s.die c.dieId) page then s.postOnce .walkComplete { d := c.dieId, n := page } else s

/-- Whether the walk of a miss slot's page is still under way. -/
def walking (s : State) (wid : WarpId) (id page : Nat) : Bool :=
  (tget (s.die wid.core.dieId).walks page []).contains (wid, id)

/-- The free miss slots of a warp (R66). -/
def freeSlots (w : Warp) : Nat := 4 - (w.flights.map fun f => f.slots.length).foldl (· + ·) 0

/-- The translation of a page that a warp has at hand: in the first-level TLB, or in a filled miss slot of the warp (R66). -/
def pageAt (s : State) (c : CoreId) (w : Warp) (page : Nat) : Option TlbEnt :=
  match tlbFind (s.core c).tlb (page * 2 ^ 16) with
  | some e => some e
  | none => w.flights.findSome? fun g => tlbFind g.found (page * 2 ^ 16)

/-- The pages of a flight's remaining lanes whose translation is not at hand, by the lowest lane naming each (R66). -/
def missingPages (s : State) (c : CoreId) (w : Warp) (f : Flight) : List Nat :=
  (((activeLanes f.remaining).map fun l => pageOf (f.addrOf l)).eraseDups).filter fun p => (s.pageAt c w p).isNone

/-- Start a pass (R66): lanes whose translations are at hand are translated, and miss slots are given out. An instruction that misses
while no slot is free for it waits. -/
def startPass (s : State) (wid : WarpId) (w : Warp) (f : Flight) (write : Bool) : State :=
  let c := wid.core
  let missing := s.missingPages c w f
  let behind := w.flights.any fun g => decide (g.id < f.id) && g.by_ == f.by_ && g.remaining != 0 && g.slots.isEmpty && g.fault.isNone
  let give := if behind then [] else missing.take (freeSlots w)
  let hits := (((activeLanes f.remaining).map fun l => pageOf (f.addrOf l)).eraseDups).filter fun p => !missing.contains p
  if give.isEmpty && (hits.isEmpty || !missing.isEmpty) then s
  else
    let s := hits.foldl (fun s p =>
      match s.pageAt c w p with
      | some e => (s.updCore c fun k => { k with tlb := tlb1Put k.tlb e }).updFlight wid f.id fun f => s.pageFound wid f p write (.ok e)
      | none => s) s
    let s := s.updFlight wid f.id fun f => { f with slots := give }
    give.foldl (fun s p => s.missPage wid f.id p write) s

/-- The least cause of a list. -/
def leastCause (l : List Nat) : Nat := l.foldl min 0xFF

/-- End a pass whose walks are complete: a fault stops the instruction with its lanes not yet performed (R68), else its
translated lanes wait to be performed. -/
def endPass (s : State) (wid : WarpId) (f : Flight) : State :=
  if f.remaining = 0 || f.slots.any (s.walking wid f.id) then s
  else
    let mine := (activeLanes f.remaining).filter fun l =>
      (tget? f.pas l).isSome || (tget? f.faults (pageOf (f.addrOf l))).isSome
    let causes := mine.filterMap fun l => tget? f.faults (pageOf (f.addrOf l))
    if mine.isEmpty then s
    else if causes.isEmpty then
      let m := maskOf fun l => mine.contains l
      s.updFlight wid f.id fun f => { f with remaining := f.remaining &&& ~~~m, waiting := f.waiting ||| m }
    else
      let cause := leastCause causes
      let bad := mine.filter fun l => tget? f.faults (pageOf (f.addrOf l)) == some cause
      let t : TrapRec :=
        { cause := cause, slot := f.by_, addr := BitVec.ofNat 64 (f.addrOf (bad.headD 0)), lanes := maskOf fun l => bad.contains l
          instr := f.addr, aux := 0 }
      ((s.updFlight wid f.id fun f => { f with fault := some t, slots := [], found := [] }).dropTags wid f.id).raise wid t

/-- Whether a pass of a flight is over, its lanes performed, and lanes remain for another (R66). -/
def passOver (s : State) (wid : WarpId) (f : Flight) : Bool :=
  f.remaining != 0 && f.waiting == 0 && f.sent == 0 && f.fault.isNone && !f.slots.any (s.walking wid f.id)

/-- The passes of a flight (R66): the one under way ends when its slots are filled; when its lanes are performed its slots are free
again, and the next one starts. -/
def advancePass (s : State) (wid : WarpId) (id : Nat) (write : Bool) : State :=
  let finish := fun s : State => match s.flight? wid id with
    | some f => s.endPass wid f
    | none => s
  let s := finish s
  match s.flight? wid id with
  | some f =>
    if s.passOver wid f then
      let s := s.updFlight wid id fun f => { f with slots := [], found := [] }
      match s.warp? wid, s.flight? wid id with
      | some w, some f => finish (s.startPass wid w f write)
      | _, _ => s
    else s
  | none => s

/-- A release of scope S may be performed (R205, R207, R212): its block's pins have ended, and what the warp wrote at a
narrower scope has reached every holder. At tray or rack scope no line that the block wrote is pinned any more (log 122). -/
def releaseReady (s : State) (c : CoreId) (w : Warp) (scope : Nat) : Bool :=
  (scope = 0 || !s.pinsEnding c w.block) && (scope < 3 || !(s.core c).lines.any (wrotePinned w.block)) &&
    (scope < 3 || w.narrow.all fun x => !(s.die x.1).pushes.any fun p => p.line == x.2)

/-- What a release that is not ready sets off: the block's pins end (R207). -/
def startRelease (s : State) (c : CoreId) (w : Warp) (scope : Nat) : State :=
  if scope = 0 then s else if scope < 3 then s.endShares c w.block else s.endWritten c w.block

/-- A line that may hold what an MST of a core wrote is not performed at a scope yet: the core has it pinned, or pushes of it are
outstanding (R205, R207). -/
def lineOpen (s : State) (c : CoreId) (scope n : Nat) : Bool :=
  ((s.cached c (128 * n)).map (·.pin)).getD .no != .no ||
    (3 ≤ scope && (s.homeAt c.dieId (128 * n)).any fun h => (s.die h.dieId).pushes.any fun p => p.line == lineOf (physKey h))

/-- Whether every earlier MST of a warp is performed at the scope of a later SC load (R383). -/
def mstReady (s : State) (c : CoreId) (w : Warp) (scope : Nat) : Bool := scope = 0 || !w.mstLines.any (s.lineOpen c scope)

/-- The pins of the lines that MSTs of a warp wrote end (R207, R383). -/
def startMst (s : State) (c : CoreId) (w : Warp) : State := w.mstLines.foldl (fun (s : State) n => s.endPin c (128 * n)) s

/-- Whether a lane of a remote access sends a request (R355): the others fault without traffic. -/
def peerGood (s : State) (f : Flight) (l : Nat) : Bool :=
  let p := (f.peers.getD l 0).toNat
  decide (p < 512) && s.isMember p && decide (f.addrOf l < 2 ^ 50)

/-- The lanes of a mask that the pass of one peer takes, in a remote access (R355): the passes come in the order of the lowest lane
that names each peer, and each begins when the one before it has left. -/
def passOf (f : Flight) (m : Mask) : List Nat :=
  let at_ := fun p : Word => (activeLanes m).filter fun l => f.peers.getD l 0 == p
  match (((activeLanes f.active).map fun l => f.peers.getD l 0).eraseDups).find? fun p => !(at_ p).isEmpty with
  | some p => at_ p
  | none => []

/-- The lanes that a flight tries to perform now: those of the pass of a remote access, when there is a tag for each request that it
sends (R44, R355); else all. -/
def turnLanes (s : State) (wid : WarpId) (f : Flight) (o : MemOp) : List Nat :=
  if o.space = .peer then
    let ls := passOf f f.waiting
    if (ls.filter (s.peerGood f)).length ≤ f.tags.length + s.freeTags wid.core then ls else []
  else laneNums

/-- Perform the waiting lanes of a list that may be performed, in ascending order. -/
def performLanes (s : State) (wid : WarpId) (id : Nat) (o : MemOp) : List Nat → State
  | [] => s
  | l :: ls =>
    match s.warp? wid, s.flight? wid id with
    | some w, some f =>
      if !f.waiting.getLsbD l || !laneFree w o f l then s.performLanes wid id o ls
      else
        let s := match o.space with
          | .pool => s.performPool wid w f o l
          | .scratch => s.performScratch wid w f o l
          | .peer => s.performPeer wid w f o l
        s.performLanes wid id o ls
    | _, _ => s

/-- A flight that still has something to do by itself looks again later. -/
def again (s : State) (wid : WarpId) (id : Nat) : State :=
  match s.flight? wid id with
  | some f =>
    if f.done || f.fault.isSome || (f.remaining ||| f.waiting) = 0 then s
    else s.afterOnce 1 .missSlotFill { w := wid, i := id }
  | none => s

/-- Advance a lane-by-lane access: its passes, then its lanes. -/
def advanceMem (s : State) (wid : WarpId) (id : Nat) (o : MemOp) : State :=
  match s.warp? wid, s.flight? wid id with
  | some _, some _ =>
    let s := if o.space = .pool then s.advancePass wid id o.writes else s
    match s.warp? wid, s.flight? wid id with
    | some w, some f =>
      if f.fault.isSome || f.waiting = 0 || !depsMet w f then s
      else if releases f && !s.releaseReady wid.core w f.scope then s.startRelease wid.core w f.scope
      else if f.order = 3 && o.space = .pool && o.kind = .load && !s.mstReady wid.core w f.scope then s.startMst wid.core w
      else s.performLanes wid id o (s.turnLanes wid f o)
    | _, _ => s
  | _, _ => s

end State

end Sys2Proof.Machine
end

