-- ==== Sys2Proof/Machine/Mem.lean ====
section
/-! DEFINITION. The MEM class (R343-R361): issue of loads, stores, atomics, CAS, PREF, remote access, MCAST and COMBINE, and
the events by which they are performed: miss slots (R66), walks (R67), REGISTER_FILL (R173), walker fetches (R184). -/

namespace Sys2Proof.Machine

/-- A list of vector sources with one empty bit. -/
def withBit (rs : List Nat) (b : Bool) : List (Nat × Bool) := rs.map fun r => (r, b)

/-- The n registers from r. -/
def regsFrom (r n : Nat) : List Nat := (List.range n).map (r + ·)

/-- The captured operands of 32 lanes: a register, or a pair with the low half in the even register (R252). -/
def capture (w : Warp) (rs : List Nat) : List DWord :=
  laneNums.map fun l => pairVal (rs.head?.elim 0 fun r => lane (readLanes w r) l) ((rs[1]?).elim 0 fun r => lane (readLanes w r) l)

/-- The guard's lanes of a MEM instruction (R286). -/
def memAct (x : Site) (m : Mm) (xm : Option Xm) : Mask :=
  match xm with
  | some e => guardLanes x.w x.sl.mask e.g.toNat e.neg
  | none => guardLanes x.w x.sl.mask m.g.toNat false

/-- How many registers the datum takes: CAS has a compare and a swap group (R352). -/
def MemOp.regs (o : MemOp) : Nat := (if o.wide then 2 else 1) * (if o.kind = .cas then 2 else 1)

namespace State

/-- The lanes of an access that break an address rule, and the trap of the lowest one (R347). -/
def laneTrap (s : State) (x : Site) (act : Mask) (cause : Nat) (addr : Nat → Nat) (bad : Nat → Bool) : Option Result :=
  let ls := (activeLanes act).filter bad
  match ls with
  | [] => none
  | l :: _ => some (s.trapAt x cause (BitVec.ofNat 64 (addr l)) (maskOf fun l => ls.contains l))

/-- The address checks of R347, in the order of their causes. -/
def addrCheck (s : State) (x : Site) (o : MemOp) (f : Flight) : Option Result :=
  let act := f.active
  let bad : Nat → Bool := fun l => f.addrOf l % o.width != 0
  let place := match o.space with
    | .pool => s.laneTrap x act 0x0C f.addrOf fun l => decide (2 ^ 57 ≤ f.addrOf l)
    | .scratch => s.laneTrap x act 0x0B f.addrOf fun l => s.scratchAt x.w.block x.b (f.addrOf l) o.width == .fault
    | .peer => none
  match place with
  | some r => some r
  | none => s.laneTrap x act 0x0D f.addrOf bad

/-- The other PC slot holds all four miss slots (R66). -/
def slotsTaken (s : State) (x : Site) (f : Flight) : Bool :=
  let other := (x.w.flights.filter fun g => g.by_ != x.sel).map fun g => g.slots.length
  decide (4 ≤ other.foldl (· + ·) 0) && !(s.missingPages x.core x.w f).isEmpty

/-- What a lane of a pool access takes a tag for at its issue (R44), by what the first-level TLB and the caches hold then: a line of another
package that is to be read, or a request of its own; none when its line lies in the own package, is at hand, or is asked for already. -/
def tagKey (s : State) (c : CoreId) (o : MemOp) (f : Flight) (l : Nat) : Option (Bool × Nat) :=
  match tlbFind (s.core c).tlb (f.addrOf l) with
  | none => none
  | some e =>
    let pa := e.phys (f.addrOf l)
    let policy := flagPolicy e.flags
    match s.homeAt c.dieId pa with
    | none => none
    | some h =>
      let line := fun asked : Bool => if asked then none else some (true, lineOf pa)
      if h.pkg == c.pkg then none
      else if f.order = 3 then some (false, l)
      else if s.pinned c pa then none
      else if o.kind = .load then
        if f.scope = 0 && policy != 2 && (s.cached c pa).isSome then none
        else if f.scope = 0 && policy = 0 then line (s.lineAsked c pa false)
        else if visits c.dieId h f.scope && (tget? (s.die c.dieId).visitors (lineOf pa)).isSome then none
        else if visits c.dieId h f.scope && policy = 0 then line (s.visitorAsked c.dieId pa)
        else some (false, l)
      else if f.scope = 0 && policy = 0 then line (s.lineAsked c pa true)
      else some (false, l)

/-- How many tags an access takes at its issue (R44): one for each request to another package that can be told by then, and one for each
request of the first pass of a remote access. The others are taken as their requests go out (log 153, a choice). -/
def tagNeed (s : State) (x : Site) (o : MemOp) (f : Flight) : Nat :=
  match o.space with
  | .scratch => 0
  | .peer => ((passOf f f.active).filter (s.peerGood f)).length
  | .pool => ((activeLanes f.active).filterMap (s.tagKey x.core o f)).eraseDups.length

/-- Issue a counted instruction in flight (R245), with the tags that it takes now (R44): its destinations empty, its walkers advanced, its
first look due. -/
def launchFlight (s : State) (x : Site) (n : Nat) (f : Flight) (walkers : List Nat) (tags : Nat) : Result :=
  let (ns, s) := s.allocTags x.core tags
  let f := { f with deps := depsOf x.w f, tags := ns }
  let (s, w) := s.stepInputs x x.w walkers
  .next ((s.advance x n (addFlight w f)).post .missSlotFill { w := x.wid, i := f.id })

/-- Issue a lane-by-lane access. -/
def issueMem (s : State) (i : Instr) (o : MemOp) (m : Mm) (xm : Option Xm) : Result :=
  s.atSite fun x =>
    let d := m.d.toNat
    let off := pairOf m.pair m.a.toNat
    let unit := if o.wide then 2 else 1
    let data := if o.kind = .load then [] else regsFrom d o.regs
    let dest := if o.returns then regsFrom d unit else []
    let peer := if o.space = .peer then (xm.map fun e => [bits e.low.toNat 14 8]).getD [] else []
    s.holdFor x dest fun s x =>
      let act := memAct x m xm
      match s.regCheck x act (withBit off m.fa ++ withBit data m.fb ++ withBit peer false) [] dest true with
      | some r => r
      | none =>
        let f := { Flight.issue x i act dest true with
          scope := (xm.map (·.scope.toNat)).getD 0, order := (xm.map (·.order.toNat)).getD 0
          remaining := if o.space = .pool then act else 0, waiting := if o.space = .pool then 0 else act
          x := capture x.w off, y := capture x.w (data.take unit), z := capture x.w (data.drop unit |>.take unit)
          peers := match peer with
            | p :: _ => readLanes x.w p
            | [] => []
          sbase := x.w.spair m.base.toNat }
        match s.addrCheck x o f with
        | some r => r
        | none =>
          if 8 ≤ x.w.countedFlights || (!dest.isEmpty && 8 ≤ x.w.longFlights) || (o.space == .pool && s.slotsTaken x f) ||
              s.freeTags x.core < s.tagNeed x o f then s.stall
          else s.launchFlight x (if xm.isSome then 2 else 1) f (off ++ data ++ peer) (s.tagNeed x o f)

end State

def execLd (m : Mm) (s : State) : Result := s.issueMem (.ld m) { space := .pool, kind := .load, minor := 0 } m none
def execLdXm (m : Mm) (x : Xm) (s : State) : Result :=
  s.issueMem (.ldXm m x) { space := .pool, kind := .load, minor := x.minor.toNat } m (some x)
def execSt (m : Mm) (s : State) : Result := s.issueMem (.st m) { space := .pool, kind := .store, minor := 0 } m none
def execStXm (m : Mm) (x : Xm) (s : State) : Result :=
  s.issueMem (.stXm m x) { space := .pool, kind := .store, minor := x.minor.toNat } m (some x)
def execLdl (m : Mm) (s : State) : Result := s.issueMem (.ldl m) { space := .scratch, kind := .load, minor := 0 } m none
def execLdlXm (m : Mm) (x : Xm) (s : State) : Result :=
  s.issueMem (.ldlXm m x) { space := .scratch, kind := .load, minor := x.minor.toNat } m (some x)
def execStl (m : Mm) (s : State) : Result := s.issueMem (.stl m) { space := .scratch, kind := .store, minor := 0 } m none
def execStlXm (m : Mm) (x : Xm) (s : State) : Result :=
  s.issueMem (.stlXm m x) { space := .scratch, kind := .store, minor := x.minor.toNat } m (some x)
def execAtom (m : Mm) (s : State) : Result := s.issueMem (.atom m) { space := .pool, kind := .atom, minor := 0 } m none
def execAtomXm (m : Mm) (x : Xm) (s : State) : Result :=
  s.issueMem (.atomXm m x) { space := .pool, kind := .atom, minor := x.minor.toNat } m (some x)
def execAtoml (m : Mm) (s : State) : Result := s.issueMem (.atoml m) { space := .scratch, kind := .atom, minor := 0 } m none
def execAtomlXm (m : Mm) (x : Xm) (s : State) : Result :=
  s.issueMem (.atomlXm m x) { space := .scratch, kind := .atom, minor := x.minor.toNat } m (some x)
def execCas (m : Mm) (s : State) : Result := s.issueMem (.cas m) { space := .pool, kind := .cas, minor := 0 } m none
def execCasXm (m : Mm) (x : Xm) (s : State) : Result :=
  s.issueMem (.casXm m x) { space := .pool, kind := .cas, minor := x.minor.toNat } m (some x)
def execRld (m : Mm) (x : Xm) (s : State) : Result :=
  s.issueMem (.rld m x) { space := .peer, kind := .load, minor := x.minor.toNat } m (some x)
def execRst (m : Mm) (x : Xm) (s : State) : Result :=
  s.issueMem (.rst m x) { space := .peer, kind := .store, minor := x.minor.toNat } m (some x)
def execRatom (m : Mm) (x : Xm) (s : State) : Result :=
  s.issueMem (.ratom m x) { space := .peer, kind := .atom, minor := x.minor.toNat } m (some x)

/-! PREF (R353). -/

namespace State

/-- Bring one lane's line nearer, where that can be done at once. -/
def prefLane (s : State) (wid : WarpId) (l scope va : Nat) : State :=
  let c := wid.core
  match (if va < 2 ^ 57 then s.translate c va else .busy) with
  | .ok e s =>
    let pa := e.phys va
    match s.homeAt c.dieId pa with
    | none => s
    | some h =>
      if !permitted e false false || flagPolicy e.flags != 0 then s
      else if scope = 0 then
        if (s.cached c pa).isSome || s.lineAsked c pa false then s
        else (s.lineRequest c h 1 pa (.fill wid l)).getD s
      else if visits c.dieId h scope then
        if (tget? (s.die c.dieId).visitors (lineOf pa)).isSome || s.visitorAsked c.dieId pa then s
        else (s.lineRequest c h scope pa (.fill wid l)).getD s
      else s
  | _ => s

/-- PREF's lanes: pages missing from the first-level TLB take the free miss slots in order; the others are dropped. -/
def pref (s : State) (i : Instr) (m : Mm) (xm : Option Xm) : Result :=
  s.atSite fun x =>
    let off := pairOf m.pair m.a.toNat
    let act := memAct x m xm
    match s.regCheck x act (withBit off m.fa) [] [] false with
    | some r => r
    | none =>
      let addr : Nat → Nat := fun l =>
        let v := (capture x.w off).getD l 0
        (x.w.spair m.base.toNat + (if m.pair then v else sext64 (loWord v)) + dispOf xm).toNat
      let f := { Flight.issue x i act [] false with remaining := act }
      let pages := ((activeLanes act).map fun l => pageOf (addr l)).eraseDups
      let missing := pages.filter fun p => (tlbFind (s.core x.core).tlb (p * 2 ^ 16)).isNone
      let dropped := missing.drop (freeSlots x.w)
      let s := (activeLanes f.remaining).foldl (fun s l =>
        if dropped.contains (pageOf (addr l)) || addr l % 4 != 0 then s
        else s.prefLane x.wid l ((xm.map (·.scope.toNat)).getD 0) (addr l)) s
      let (s, w) := s.stepInputs x x.w off
      .next (s.advance x (if xm.isSome then 2 else 1) w)

end State

def execPref (m : Mm) (s : State) : Result := s.pref (.pref m) m none
def execPrefXm (m : Mm) (x : Xm) (s : State) : Result := s.pref (.prefXm m x) m (some x)

/-! MCAST and COMBINE (R359-R361). -/

/-- The scalar register of the group form (R282). -/
def groupReg (x : Xm) : Nat := bits x.low.toNat 14 8

/-- The packages that an MCAST of a group from a core goes to, as its router knows the group (R55). -/
def State.castMembers (s : State) (c : CoreId) (g : Nat) : List Word :=
  (((tget? (s.pkg c.pkg).groups g).map (·.members)).getD []).map fun p => BitVec.ofNat 32 p

def execMcast (m : Mm) (x : Xm) (s : State) : Result :=
  s.atSite fun st =>
    let act := st.sl.mask
    match s.regCheck st act [(m.a.toNat, m.fa), (m.d.toNat, m.fb)] [groupReg x] [] false with
    | some r => r
    | none =>
      let f := { Flight.issue st (.mcast m x) act [] true with
        scope := x.scope.toNat, order := x.order.toNat, remaining := act, x := capture st.w [m.a.toNat]
        y := capture st.w [m.d.toNat], z := [(st.w.sreg (groupReg x)).setWidth 64], sbase := st.w.spair m.base.toNat
        peers := s.castMembers st.core ((st.w.sreg (groupReg x)).toNat % 1024) }
      let tags := if act = 0 || (st.w.sreg (groupReg x)).toNat % 1024 = 0 then 0 else 1
      let low : Mask := act &&& maskOf fun l => (lowestLane act) == some l
      let check := match s.laneTrap st low 0x0C f.addrOf fun l => decide (2 ^ 57 ≤ f.addrOf l) with
        | some r => some r
        | none => s.laneTrap st low 0x0D f.addrOf fun l => f.addrOf l % 128 != 0
      match check with
      | some r => r
      | none =>
        if 8 ≤ st.w.countedFlights || s.slotsTaken st f || s.freeTags st.core < tags then s.stall
        else s.launchFlight st 2 f [m.a.toNat, m.d.toNat] tags

/-- COMBINE: its contribution waits as one (R360); a group of 0 poisons d at issue. -/
def execCombine (m : Mm) (x : Xm) (s : State) : Result :=
  s.atSite fun st =>
    s.holdFor st [m.d.toNat] fun s st =>
      let act := st.sl.mask
      let d := m.d.toNat
      match s.regCheck st act [(d, m.fb)] [groupReg x] [d] true with
      | some r => r
      | none =>
        let sg := st.w.sreg (groupReg x)
        let f := { Flight.issue st (.combine m x) act [d] true with
          scope := x.scope.toNat, order := x.order.toNat, waiting := BitVec.allOnes 32, y := capture st.w [d]
          z := [sg.setWidth 64] }
        if 8 ≤ st.w.countedFlights || 8 ≤ st.w.longFlights || (sg.toNat % 1024 != 0 && s.freeTags st.core = 0) then s.stall
        else if sg.toNat % 1024 = 0 then
          let got := (activeLanes act).map fun l => (l, Config.freeWord (s.free + l))
          ({ s with free := s.free + 32 } : State).launchFlight st 2
            { f with waiting := 0, got := got, bad := some { origin := f.addr, aux := 5 } } [] 0
        else s.launchFlight st 2 f [] 1

namespace State

/-- The bytes and the enables of a line from the lanes of a register. -/
def lineMask (full : Nat → Bool) : BitVec 128 :=
  laneNums.foldl (fun m l => if full l then m ||| ((0xF : BitVec 128) <<< (4 * l)) else m) 0

def lineData (f : Flight) : List Byte := laneNums.flatMap fun l => leBytes 4 (f.y.getD l 0).toNat

/-- A flight that acts as a whole is performed. -/
def wholeDone (s : State) (wid : WarpId) (id : Nat) : State :=
  (s.updFlight wid id fun f => { f with remaining := 0, waiting := 0, sent := 0 }).endFlight wid id

/-- A flight that acts as a whole has left the core. -/
def wholeSent (s : State) (wid : WarpId) (id : Nat) : State :=
  (s.updFlight wid id fun f => { f with sent := f.remaining ||| f.waiting ||| f.sent, remaining := 0, waiting := 0 }).endFlight wid id

/-- Whether a release that a flight carries is ready; if not, what it sets off. -/
def releaseStep (s : State) (wid : WarpId) (w : Warp) (f : Flight) : Option State :=
  if !depsMet w f then some s
  else if releases f && !s.releaseReady wid.core w f.scope then some (s.startRelease wid.core w f.scope)
  else none

/-- Send an MCAST (R359): its chunk is found in the own package's map. -/
def sendMcast (s : State) (wid : WarpId) (f : Flight) (x : Xm) : State :=
  let c := wid.core
  let group := (f.z.getD 0 0).toNat % 1024
  let va := BitVec.ofNat 64 (f.addrOf 0)
  let pa := (f.pas.head?.map (·.2.1)).getD 0
  match s.symSearch c.pkg pa with
  | none => (s.recordRff wid 1 group true va).wholeDone wid f.id
  | some o =>
    if group = 0 then (s.recordRff wid 5 group true va).wholeDone wid f.id
    else
      let l : LinePkt := { (default : LinePkt) with
        opcode := 0x95, dst := routerEndpoint c.pkg, src := coreEndpoint c, issuer := coreEndpoint c, warp := wid.slot
        scope := x.scope.toNat, order := x.order.toNat, addr := o, group := group, data := lineData f
        mask := lineMask fun l => f.active.getLsbD l, lcrcOk := true, version := (s.die c.dieId).cur.version }
      match s.requestLine c true l (.mcast wid f.id) with
      | some s => (s.updFlight wid f.id fun f => { f with z := [f.z.getD 0 0, BitVec.ofNat 64 o] }).wholeSent wid f.id
      | none => s

def advanceMcast (s : State) (wid : WarpId) (id : Nat) (x : Xm) : State :=
  match s.warp? wid, s.flight? wid id with
  | some _, some _ =>
    let s := s.advancePass wid id true
    match s.warp? wid, s.flight? wid id with
    | some w, some f =>
      if f.fault.isSome || f.remaining != 0 then s
      else match s.releaseStep wid w f with
        | some s => s
        | none => if f.active = 0 then s.wholeDone wid id
          else if f.waiting = 0 || w.flights.any fun g => decide (g.id < f.id) && !g.done && sameThread g f && holdsBack g f ((lowestLane f.active).getD 0) then s
          else s.sendMcast wid f x
    | _, _ => s
  | _, _ => s

/-- Send a COMBINE's contribution to the own router (R360, R52). -/
def advanceCombine (s : State) (wid : WarpId) (id : Nat) (x : Xm) : State :=
  match s.warp? wid, s.flight? wid id with
  | some w, some f =>
    if f.waiting = 0 then s
    else match s.releaseStep wid w f with
      | some s => s
      | none =>
        let c := wid.core
        let sg := (f.z.getD 0 0).toNat
        let l : LinePkt := { (default : LinePkt) with
          opcode := 0x93, dst := routerEndpoint c.pkg, src := coreEndpoint c, issuer := coreEndpoint c, warp := wid.slot
          scope := x.scope.toNat, order := x.order.toNat, group := bits sg 9 0, seq := bits sg 31 16
          index := bits sg 15 10, operator := x.minor.toNat, folded := 1, data := lineData f
          mask := lineMask fun l => f.active.getLsbD l || (x.minor == 6 && l < 2), lcrcOk := true
          version := (s.die c.dieId).cur.version }
        match s.requestLine c true l (.combine wid f.id) with
        | some s => s.wholeSent wid f.id
        | none => s
  | _, _ => s

/-- An earlier posted store of the thread to a package is not yet acknowledged (R220, R405). -/
def mailBehind (w : Warp) (f : Flight) : Bool := postedTo w f (BitVec.ofNat 32 (bits (f.x.getD 0 0).toNat 31 23))

/-- Send an MBXSEND's message, a release at rack scope toward its package (R405); s[b] stands in X. -/
def advanceMail (s : State) (wid : WarpId) (id : Nat) : State :=
  match s.warp? wid, s.flight? wid id with
  | some w, some f =>
    if f.waiting = 0 || !depsMet w f || mailBehind w f then s
    else if !s.releaseReady wid.core w 4 then s.startRelease wid.core w 4
    else
      let v := (f.x.getD 0 0).toNat
      let c := wid.core
      let p := bits v 31 23
      if !s.isMember p || 3 < bits v 22 20 then (s.recordRff wid 1 p false 0).wholeDone wid id
      else
        let data := leVal ((List.range 4).flatMap fun l => leBytes 4 (f.y.getD l 0).toNat)
        let q : Packet := { (default : Packet) with
          opcode := 5, dst := { pkg := p, die := bits v 22 20, pos := 0, unit := 2 }, src := coreEndpoint c
          issuer := coreEndpoint c, warp := wid.slot, scope := 4, order := 2, size := 4
          addr := bits v 19 14 * 2 ^ 12 + v % 16, data0 := BitVec.ofNat 128 data, version := (s.die c.dieId).cur.version }
        match s.request c true q (.mail wid id) with
        | some s => s.wholeSent wid id
        | none => s
  | _, _ => s

/-- An MST at tray or rack scope whose rows are written is performed when every push of them is acknowledged (R205). -/
def advanceTile (s : State) (wid : WarpId) (id : Nat) : State :=
  match s.warp? wid, s.flight? wid id with
  | some w, some f =>
    if f.sent = 0 || w.narrow.any fun x => (s.die x.1).pushes.any fun p => p.line == x.2 then s
    else s.wholeDone wid id
  | _, _ => s

/-- A FENCE that waits takes effect when what it orders before itself is performed (R212, R401). -/
def advanceFence (s : State) (wid : WarpId) (id : Nat) : State :=
  match s.warp? wid, s.flight? wid id with
  | some w, some f =>
    if f.waiting = 0 || !depsMet w f then s
    else if releases f && !s.releaseReady wid.core w f.scope then s.startRelease wid.core w f.scope
    else if f.order = 3 && !s.scReady (w.slot f.by_) false then s
    else
      let s := if hasAcquire f.order && f.scope != 0 then s.dropAllClean wid.core else s
      (if f.order = 3 then s.scFenced wid f.by_ else s).wholeDone wid id
  | _, _ => s

/-! The channels of a block (R394). -/

def chan (b : Block) (ch : Nat) : Chan := b.chans.getD ch Chan.idle

def setChan (s : State) (b : BlockId) (ch : Nat) (c : Chan) : State :=
  s.updBlock b fun k => { k with chans := lput k.chans ch c Chan.idle }

/-- Channel ch of the block starts at the record that a CCHAIN's flight names. -/
def startChain (s : State) (w : Warp) (ch : Nat) (f : Flight) : State :=
  (s.setChan w.block ch { Chan.idle with
    state := 1, head := pairVal (loWord (f.x.getD 0 0)) (loWord (f.x.getD 1 0)), warp := w.num, origin := f.addr, scope := f.scope
    order := f.order, after := (w.flights.filter fun g => decide (g.id < f.id) && !g.done && sameThread g f && isPosted g.instr).map (·.id)
    }).postOnce .chainRecord { b := w.block, i := ch }

/-- A CCHAIN in flight starts its channel once what it waits for is performed and the channel's record in progress is done
(R218, R390, R394). -/
def advanceChain (s : State) (wid : WarpId) (id : Nat) (r : Reg) : State :=
  match s.warp? wid, s.flight? wid id with
  | some w, some f =>
    let ch := r.d.toNat
    if f.waiting = 0 || !depsMet w f || ((s.block? w.block).any fun b => (chan b ch).doing.isSome) then s
    else (s.startChain w ch f).wholeDone wid id
  | _, _ => s

end State

/-- MISS_SLOT_FILL (R66): an instruction in flight looks at its miss slots and performs what it can. -/
def execMissSlotFill (s : State) : Result :=
  let wid := s.arg.w
  let id := s.arg.i
  .next <|
    match s.flight? wid id with
    | none => s
    | some f =>
      if f.done || f.fault.isSome then s
      else
        let s := match f.instr, memOf f.instr with
          | _, some (o, _, _) => s.advanceMem wid id o
          | .mcast _ x, none => s.advanceMcast wid id x
          | .combine _ x, none => s.advanceCombine wid id x
          | .mstXm _ _, none => s.advanceTile wid id
          | .mbxsend _, none => s.advanceMail wid id
          | .fenceXm _ _, none => s.advanceFence wid id
          | .cchain r, none => s.advanceChain wid id r
          | .cchainXm r _, none => s.advanceChain wid id r
          | _, none => s
        (s.endFlight wid id).again wid id

/-- WALK_COMPLETE (R64, R67): a walk that has a walker ends, every attached miss slot is filled, and the walker takes the next miss
of the queue; a table line that a core holds pinned is read again later (R207). -/
def execWalkComplete (s : State) : Result :=
  let d := s.arg.d
  let page := s.arg.n
  let on := tget (s.die d).walks page []
  .next <|
    if !State.walkRuns (s.die d) page then s
    else match s.walk d (page * 2 ^ 16) with
    | .busy => s.after 1000 .walkComplete s.arg
    | r =>
      let s := (s.walkKeep d (page * 2 ^ 16)).updDie d fun k => { k with walks := tdel k.walks page }
      let s := match (s.die d).walks[63]? with
        | some x => s.postOnce .walkComplete { d := d, n := x.1 }
        | none => s
      on.foldl (fun s x =>
        let s := match r with
          | .ok e => s.tlbFill x.1.core e
          | _ => s
        (s.updFlight x.1 x.2 fun f =>
          let write := match memOf f.instr with
            | some (o, _, _) => o.writes
            | none => true
          s.slotFilled x.1 f page write r).postOnce .missSlotFill { w := x.1, i := x.2 }) s

/-- REGISTER_FILL (R173): the results are written and the destinations become full. -/
def execRegisterFill (s : State) : Result :=
  let wid := s.arg.w
  .next <|
    match s.flight? wid s.arg.i with
    | some f =>
      if f.done then s.updWarp wid fun w => { fillFlight w f with flights := w.flights.filter (·.id != f.id) } else s
    | none => s

/-! Walker fetches (R184). -/

/-- The position of the vector n places ahead of a walker's. -/
def aheadOf (d : List Byte) (p : Nat × Nat × Nat) : Nat → Nat × Nat × Nat
  | 0 => p
  | n + 1 => aheadOf d (walkNext d p.1 p.2.1 p.2.2).1 n

namespace State

/-- Fetch the lanes of a vector, each by itself; a lane that faults is marked. None: a line is pinned elsewhere. -/
def fetchLanes (s : State) (c : CoreId) (d : List Byte) (base : DWord) : List Nat → Lanes → Mask → Option (Lanes × Mask × State)
  | [], v, bad => some (v, bad, s)
  | l :: ls, v, bad =>
    let n := walkSize d
    match s.readVirtual 0 c 0 (base + BitVec.ofNat 64 (l * n)).toNat n 2 with
    | .ok bs s =>
      let x := if walkSigned d then BitVec.ofInt 32 (toSigned (8 * n) (leVal bs)) else BitVec.ofNat 32 (leVal bs)
      s.fetchLanes c d base ls (v ++ [x]) bad
    | .busy => none
    | _ => s.fetchLanes c d base ls (v ++ [0]) (bad ||| ((1 : Word) <<< l))

end State

/-- WALKER_FETCH (R184): an input walker reads one vector ahead, up to four. -/
def execWalkerFetch (s : State) : Result :=
  let wid := s.arg.w
  let k := s.arg.n
  .next <|
    match s.warp? wid with
    | none => s
    | some w =>
      let v := w.walker k
      if (w.a.held ++ w.b.held).any fun h => match h with
          | .walk i _ _ => i == k
          | _ => false then s.afterOnce 1 .walkerFetch s.arg
      else if v.bound = 0 || walkOutput v.desc || 4 ≤ v.pre.length then s
      else
        let (i0, i1, i2) := aheadOf v.desc (v.i0, v.i1, v.i2) v.pre.length
        let base := walkAddr v.desc i0 i1 i2
        match s.fetchLanes wid.core v.desc base laneNums [] 0 with
        | none => (s.sense 0 wid.core base.toNat (32 * walkSize v.desc)).after 1000 .walkerFetch s.arg
        | some (lanes, bad, s) =>
          let s := s.updWarp wid fun w => { w with
            walkers := lput w.walkers k { v with pre := v.pre ++ [{ lanes := lanes, bad := bad, base := base }] } default }
          if v.pre.length < 3 then s.postOnce .walkerFetch s.arg else s

end Sys2Proof.Machine
end

