-- ==== Sys2Proof/Machine/Reply.lean ====
section
/-! DEFINITION. Replies at a core (R41-R46): what each answer does to the instruction, line or message that its tag was
taken for; RETRY and resending; timeouts and quarantine. -/

namespace Sys2Proof.Machine

namespace State

/-- A reply that no tag accepts is discarded and recorded (R46). -/
def discard (s : State) (c : CoreId) (tag round : Nat) (issuer : Endpoint) : State :=
  s.log c.pkg (coreEndpoint c) 0x0021 tag (BitVec.ofNat 64 (tag + 2 ^ 8 * round + 2 ^ 32 * endpointVal issuer))

/-- The answer to an SC access of a slot has come: the spacing of the next one counts from here (R216). -/
def spaceSc (s : State) (wid : WarpId) (id : Nat) (far : Bool) : State :=
  match s.flight? wid id with
  | some f =>
    if f.order = 3 then s.scAnswered wid f.by_ far else s
  | none => s

/-- A write at a scope below tray whose pushes are still outstanding is noted (R205). -/
def noteNarrow (s : State) (wid : WarpId) (q : Packet) : State :=
  if 3 ≤ q.scope || q.opcode = 1 then s
  else
    let pa := if q.sym then s.symResolve q.dst.pkg q.addr else some q.addr
    match pa.bind (s.homeAt wid.core.dieId) with
    | some h =>
      let line := lineOf (physKey h)
      if (s.die h.dieId).pushes.any (·.line == line) then
        let live := fun x : DieId × Nat => (s.die x.1).pushes.any fun p => p.line == x.2
        s.updWarp wid fun w => { w with narrow := (h.dieId, line) :: w.narrow.filter live }
      else s
    | none => s

/-- The own clean copy of a line that an access of the core has just reached at its home is dropped (R214). -/
def dropAfter (s : State) (c : CoreId) (q : Packet) : State := if q.sym then s else s.dropClean c q.addr

/-- A lane's answer with a value or without one. -/
def laneAnswer (s : State) (c : CoreId) (t : Tag) (v : Nat → Option DWord) : State :=
  match t.use with
  | .lane w id l =>
    ((((s.noteNarrow w t.req).dropAfter c t.req).spaceSc w id (t.req.dst.pkg != c.pkg))).laneDone w id l (v id)
  | .post w id l =>
    ((s.noteNarrow w t.req).spaceSc w id (t.req.dst.pkg != c.pkg)).laneDone w id l none
  | _ => s

/-- A reply with data: what its lane's register gets, by the instruction's type (R345). -/
def dataAnswer (s : State) (q : Packet) : State :=
  let c := q.issuer.core
  if q.issuer.unit != 0 then s
  else if !s.accepts c q.tag q.round then s.discard c q.tag q.round q.issuer
  else
    let t := s.tag c q.tag
    let s := s.freeTagNow c q.tag
    match t.use with
    | .lane w id _ =>
      let v := match (s.flight? w id).bind fun f => memOf f.instr with
        | some (o, _, _) => o.loaded (leBytes o.width q.data0.toNat)
        | none => 0
      s.laneAnswer c t fun _ => some v
    | _ => s

/-- An error or a timeout of a tag (R45, R221): cause FFh for a timeout. -/
def tagFault (s : State) (c : CoreId) (t : Tag) (cause : Nat) : State :=
  let peer := match t.line with
    | some l => l.dst.pkg
    | none => t.req.dst.pkg
  let lane : WarpId → Nat → Nat → State := fun w id l =>
    let addr := ((s.flight? w id).map fun f => f.addrOf l).getD 0
    (s.spaceSc w id (peer != c.pkg)).laneFault w id l cause peer (BitVec.ofNat 64 addr)
  match t.use with
  | .lane w id l => lane w id l
  | .post w id l => lane w id l
  | .pin w id l => lane w id l
  | .writeback pa => (s.dropLine c pa).releasePin c pa
  | .ifetch n => if t.stale then s else s.updDie c.dieId fun k => { k with attached := tdel k.attached n }
  | .mcast w id =>
    let va := ((s.flight? w id).map fun f => f.addrOf 0).getD 0
    let group := ((s.flight? w id).map fun f => (f.z.getD 0 0).toNat % 1024).getD 0
    (s.recordRff w cause group true (BitVec.ofNat 64 va)).wholeDone w id
  | .combine w id =>
    let s := s.updFlight w id fun f => { f with
      bad := some { origin := f.addr, aux := BitVec.ofNat 64 cause }
      got := (activeLanes f.active).map fun l => (l, Config.freeWord (s.free + l)) }
    ({ s with free := s.free + 32 } : State).wholeDone w id
  | .mail w id => (s.recordRff w cause peer false 0).wholeDone w id
  | _ => s

/-- A line that was asked for at a page's old place came from its new one (R75): the lanes that wait for it go there. -/
def rebaseLanes (s : State) (c : CoreId) (old new : Nat) : State :=
  if old = new then s
  else { s with warps := s.warps.map fun (x : WarpId × Warp) =>
    if x.1.core == c then (x.1, { x.2 with flights := x.2.flights.map fun f => { f with
      pas := f.pas.map fun (y : Nat × (Nat × Nat)) =>
        if lineOf y.2.1 = lineOf old then (y.1, (new + y.2.1 % 128, y.2.2)) else y } }) else x }

/-- Put a line that has arrived where it was asked for (R196, R206, R209, R428), unless it is too old to be kept. -/
def keepLine (s : State) (c : CoreId) (t : Tag) (l : LinePkt) : State :=
  let pa := l.addr
  if t.stale then s
  else if t.req.scope ≤ 2 then
    let pin : Pin := ((s.cached c pa).map (·.pin)).getD Pin.no
    if pin != .no then s else s.install c pa l.data .no []
  else match s.homeAt c.dieId pa with
    | some h => if visits c.dieId h t.req.scope then s.putVisitor c.dieId pa l.data else s
    | none => s

end State

/-- READ_DATA (R41). -/
def execReadData (s : State) : Result := .next (s.dataAnswer s.arg.q)
/-- ATOMIC_DATA (R41). -/
def execAtomicData (s : State) : Result := .next (s.dataAnswer s.arg.q)
/-- CAS_DATA (R41). -/
def execCasData (s : State) : Result := .next (s.dataAnswer s.arg.q)

namespace State

/-- The acknowledgement of a push, at its home (R210): the next push goes out if a write has come since; replies that wait
for this holder are sent when the pushes that they wait for are acknowledged. -/
def pushAck (s : State) (q : Packet) : State :=
  let d := q.issuer.dieId
  let hd := q.src.dieId
  match s.homeAt d q.addr with
  | none => s
  | some h =>
    let line := lineOf (physKey h)
    let k := s.die d
    match k.pushes.find? fun p => p.line == line && p.holder == hd with
    | none => s
    | some p =>
      let s := s.setDie d { k with pushes := k.pushes.filter fun x => !(x.line == line && x.holder == hd) }
      let s := match p.again with
        | 0 => s
        | 1 => s.pushLine h q.addr hd (BitVec.allOnes 128)
        | _ => s.pushLine h q.addr hd 0
      let step : Ack → Ack := fun a =>
        if a.line = line then
          { a with due := a.due.filterMap fun x =>
              if x.1 = hd then (if x.2 ≤ 1 then none else some (x.1, x.2 - 1)) else some x }
        else a
      let acks := (s.die d).acks.map step
      let ready := acks.filter (·.due.isEmpty)
      let s := s.updDie d fun k => { k with acks := acks.filter fun a => !a.due.isEmpty }
      ready.foldl (fun s a => if a.arg.q.opcode = 0x95 then s.post a.reply a.arg else s.send a.arg.q) s

end State

/-- WRITE_ACK (R41): the acknowledgement of a replica goes to its router (R55), that of a Broker's message to the Broker (R132); a write, a write-back (R207), a push (R210), an MCAST (R55) or a mailbox message is performed. -/
def execWriteAck (s : State) : Result :=
  let q := s.arg.q
  let c := q.issuer.core
  .next <|
    if q.issuer.unit = 2 then s.pushAck q
    else if q.issuer.unit = 3 then
      if q.lane = 1 then s.post .mcastLine { p := q.issuer.pkg, q := q, flag := true } else s.brokerAnswer q
    else if q.issuer.unit != 0 then s
    else if !s.accepts c q.tag q.round then s.discard c q.tag q.round q.issuer
    else
      let t := s.tag c q.tag
      let s := s.freeTagNow c q.tag
      match t.use with
      | .writeback pa =>
        let s := s.releasePin c pa
        match s.cached c pa with
        | some l => if l.use = 1 then s.dropLine c pa else s.setLine c { l with pin := .no, dirty := false, blocks := [] }
        | none => s
      | .mcast w id => s.wholeDone w id
      | .mail w id => s.wholeDone w id
      | _ => s.laneAnswer c t fun _ => none

/-- LINE_DATA (R43, R428): the line is kept where its kind says, and the lane that asked for it is served. -/
def execLineData (s : State) : Result :=
  let l := s.arg.l
  let c := l.dst.core
  .next <|
    if !s.accepts c l.tag l.round then s.discard c l.tag l.round l.issuer
    else
      let t := s.tag c l.tag
      let s := s.freeTagNow c l.tag
      if l.poison then s.tagFault c t 3
      else
        match t.use with
        | .lane w id n =>
          let v := match s.flight? w id with
            | some f => match memOf f.instr with
              | some (o, _, _) => o.loaded ((l.data.drop (f.addrOf n % 128)).take o.width)
              | none => 0
            | none => 0
          (s.keepLine c t l).laneDone w id n (some v)
        | .pin w _ _ =>
          let bs := match s.warp? w with
            | some v => [v.block]
            | none => []
          let s := s.rebaseLanes c t.req.addr l.addr
          if ((s.cached c l.addr).map (·.pin)).getD .no == Pin.held then s
          else
            let s := (s.install c l.addr l.data .held bs).staleFills c fun x => lineOf x == lineOf l.addr
            if bs.isEmpty then s.endPin c l.addr else s
        | .fill _ _ => s.keepLine c t l
        | .ifetch n =>
          if t.stale then (if (tget (s.die c.dieId).attached n []).isEmpty then s else s.postOnce .ifetchFill { d := c.dieId, n := n })
          else s.icacheFill c.dieId n l.data
        | _ => s

/-- ERROR (R42). One that an FE die's unit 3 receives is for a Broker's message (R132), a contribution that its router passed on (R53) or
a replica (R55). -/
def execErrorReply (s : State) : Result :=
  let q := s.arg.q
  let c := q.issuer.core
  .next <|
    if q.issuer.unit = 2 then s.pushAck q
    else if q.issuer.unit = 3 then
      if q.lane = 0 then s.brokerAnswer q
      else s.post (if q.lane = 1 then .mcastLine else .combineSequenceAbandon) { p := q.issuer.pkg, q := q, flag := true }
    else if q.issuer.unit != 0 then s
    else if !s.accepts c q.tag q.round then s.discard c q.tag q.round q.issuer
    else (s.freeTagNow c q.tag).tagFault c (s.tag c q.tag) (q.data0.toNat % 256)

/-- RETRY (R41, R45): the request goes again after 1 us, and the tag's timer restarts. An SC access to a line that its own core has
pinned ends the pin (R204). -/
def execRetryReply (s : State) : Result :=
  let q := s.arg.q
  let c := q.issuer.core
  .next <|
    if q.issuer.unit != 0 then s
    else if !s.accepts c q.tag q.round then s.discard c q.tag q.round q.issuer
    else
      let t := s.tag c q.tag
      let s := if t.req.order = 3 && !t.req.sym then s.endPin c t.req.addr else s
      let s := s.setTag c q.tag { s.tag c q.tag with deadline := s.tagDeadline c }
      let s := if q.tag < 256 then (s.cancel .tagTimeout { c := c, n := q.tag }).after s.timeoutNs .tagTimeout { c := c, n := q.tag }
        else s
      s.after 1000 .retryResend { c := c, n := q.tag, i := q.round }

namespace State

/-- The address of a request that was to be sent again lies in no region any more (R57): nothing is sent, and what the tag was taken
for meets a Region fault or is given up. -/
def noHome (s : State) (c : CoreId) (n : Nat) : State :=
  let t := s.tag c n
  let s := s.freeTagNow c n
  match t.use with
  | .lane w id l => s.lateRegion w id l
  | .writeback pa => (s.dropLine c pa).releasePin c pa
  | _ => s

/-- Send a tag's request or line again, under the die's current table (R72). -/
def resendTag (s : State) (c : CoreId) (n : Nat) : State :=
  let t := s.tag c n
  let v := (s.die c.dieId).cur.version
  let (e, pa) := match t.line with
    | some l => (l.dst, l.addr)
    | none => (t.req.dst, t.req.addr)
  let go := fun e : Endpoint => match t.line with
    | some l => s.sendLine { l with version := v, dst := e }
    | none => s.send { t.req with version := v, dst := e }
  if e.unit != 2 || t.req.opcode = 5 then go e
  else match s.homeAt c.dieId pa with
    | some h => go (homeEndpoint h)
    | none => s.noHome c n

end State

/-- RETRY_RESEND (R41): the request is sent again with the same tag and round, under the die's current table (R72). With `flag`, a
write-back that found no tag is tried again (R207). -/
def execRetryResend (s : State) : Result :=
  let c := s.arg.c
  let n := s.arg.n
  .next <|
    if s.arg.flag then
      match s.cached c n with
      | some l =>
        let sent := (s.core c).tags.any fun x => x.2.held && x.2.use == .writeback l.pa
        if l.pin = .ending && !sent then s.writeBack c l else s
      | none => s
    else if s.accepts c n s.arg.i then s.resendTag c n else s

/-- TAG_TIMEOUT (R45): the fault is delivered, and the tag stays unused for one further period. The timer runs in domain time. With
`flag`, the tag is a Broker's (R133). -/
def execTagTimeout (s : State) : Result :=
  let c := s.arg.c
  let n := s.arg.n
  .next <|
    if s.arg.flag then s.brokerTimeout s.arg.k n
    else
    let t := s.tag c n
    let now := (s.timeAt c.pkg).toNat
    if !t.held then s
    else if now < t.deadline then s.afterOnce (t.deadline - now) .tagTimeout { c := c, n := n }
    else
      let use := match t.use with
        | .row pa => .row pa
        | _ => .idle
      let s := s.setTag c n { t with held := false, quarantine := true, use := use }
      (s.tagFault c t 0xFF).after s.timeoutNs .tagQuarantineEnd { c := c, n := n }

/-- TAG_QUARANTINE_END (R45). -/
def execTagQuarantineEnd (s : State) : Result :=
  let c := s.arg.c
  let k := s.arg.k
  let n := s.arg.n
  .next <|
    if s.arg.flag then (s.setBrokerTag k n { s.brokerTag k n with quarantine := false }).nextSend k
    else s.setTag c n { s.tag c n with quarantine := false }

end Sys2Proof.Machine
end

