-- ==== Sys2Proof/Machine/Matrix.lean ====
section
/-! DEFINITION. The MTX class (R362-R384): the matrix command queue, MLOOP and its arithmetic over whole tiles (R230-R235),
broadcast, tile moves, MWAIT and MSTAT. -/

namespace Sys2Proof.Machine

/-! Tiles. -/

/-- A tile names one of the warp's (R166). -/
def tileOk (w : Warp) (z : Nat) : Bool := decide (z < w.tiles)

def Warp.tile (w : Warp) (z : Nat) : List Word := w.z.getD z zeroTile

/-- Element (i, j) of a tile. -/
def elem (t : List Word) (i j : Nat) : Word := t.getD (32 * i + j) 0

/-- A tile from its elements. -/
def tileOf (f : Nat → Nat → Word) : List Word := laneNums.flatMap fun i => laneNums.map fun j => f i j

/-! The groups of MLOOP (R367-R370). -/

/-- The width in bits of a format's class (R368). -/
def fmtWidth (fmt : Nat) : Nat := if fmt = 0 then 4 else if fmt = 2 || fmt = 3 then 16 else 8

structure Mloop where
  k : Nat
  reuse : Bool
  clr : Bool
  bAddr : Nat
  bStep : Int
  cast_ : Bool
  aFmt : Nat
  bFmt : Nat
  aScaled : Bool
  bScaled : Bool
  aMeta : Nat
  bMeta : Nat
  inc : Int
  deriving DecidableEq, Repr

def mloopOf (minor : Nat) (sg fg : List Word) : Mloop :=
  let f := (fg.getD 0 0).toNat
  { k := minor % 8 + 1, reuse := minor / 8 % 2 == 1, clr := minor / 16 % 2 == 1
    bAddr := (sg.getD 0 0).toNat, bStep := (sg.getD 1 0).toInt, cast_ := (sg.getD 2 0).getLsbD 0
    aFmt := f % 16, bFmt := f / 16 % 16, aScaled := bits f 8 8 == 1, bScaled := bits f 9 9 == 1
    aMeta := (fg.getD 1 0).toNat, bMeta := (fg.getD 2 0).toNat, inc := (fg.getD 3 0).toInt }

namespace Mloop

/-- Elements per step and groups per MLOOP (R369). -/
def perStep (m : Mloop) : Nat := 256 / fmtWidth m.aFmt
def groups (m : Mloop) : Nat := m.k * m.perStep / 32

/-- Whether the metadata words of A, of B, are read (R370). -/
def readsA (m : Mloop) : Bool := m.aFmt == 0 || m.aScaled
def readsB (m : Mloop) : Bool := m.bFmt == 0 || m.bScaled

/-- The addresses of the B steps and of the metadata lines. -/
def steps (m : Mloop) : List Int := (List.range m.k).map fun (s : Nat) => (m.bAddr : Int) + (s : Int) * m.bStep
def metas (m : Mloop) (base : Nat) : List Int := (List.range m.groups).map fun (g : Nat) => (base : Int) + (g : Int) * m.inc

/-- The values that are not legal (R367-R369). -/
def illegal (m : Mloop) (sg fg : List Word) : Bool :=
  (sg.getD 2 0).toNat / 2 != 0 || sg.getD 3 0 != 0 || (fg.getD 0 0).toNat / 2 ^ 10 != 0 || decide (6 ≤ m.aFmt) ||
    decide (6 ≤ m.bFmt) || fmtWidth m.aFmt != fmtWidth m.bFmt || (fmtWidth m.aFmt == 16 && m.k % 2 == 1)

/-- A run of n bytes that lies in a block's own scratchpad (R200, R367). -/
def inGrant (b : Block) (n : Nat) (a : Int) : Bool := decide (0 ≤ a) && decide (a + n ≤ (b.grant : Int)) && decide (a < 2 ^ 18)

/-- The scratchpad runs that an MLOOP reads, with their lengths; those of B only when it reads them itself. -/
def reads (m : Mloop) (own : Bool) : List (Int × Nat) :=
  (if own then m.steps.map fun a => (a, 1024) else []) ++ (if m.readsA then (m.metas m.aMeta).map fun a => (a, 128) else []) ++
    (if own && m.readsB then (m.metas m.bMeta).map fun a => (a, 128) else [])

/-- An address or increment that is not a multiple of what it must be (R367, R368). -/
def misaligned (m : Mloop) : Option Nat :=
  if m.bAddr % 1024 != 0 then some m.bAddr
  else if 1 < m.k && m.bStep % 1024 != 0 then some (m.bAddr : Nat)
  else if m.readsA && m.aMeta % 128 != 0 then some m.aMeta
  else if m.readsB && m.bMeta % 128 != 0 then some m.bMeta
  else if (m.readsA || m.readsB) && m.inc % 128 != 0 then some (if m.readsA then m.aMeta else m.bMeta)
  else none

end Mloop

/-- The codes of a run of bytes by width (R369). -/
def codesOf (width : Nat) : List Byte → List Nat
  | [] => []
  | b :: bs =>
    if width = 4 then b.toNat % 16 :: b.toNat / 16 :: codesOf width bs
    else if width = 8 then b.toNat :: codesOf width bs
    else match bs with
      | [] => [b.toNat]
      | c :: cs => (b.toNat + 256 * c.toNat) :: codesOf width cs

/-- Row i of A over K steps (R369): lane i of each register, lowest byte first. -/
def rowBytes (rows : List Lanes) (i : Nat) : List Byte := rows.flatMap fun v => leBytes 4 (lane v i).toNat

/-- Column j of B over K steps: 32 bytes of each step's 1 KiB. -/
def colBytes (k : Nat) (bs : List Byte) (j : Nat) : List Byte :=
  (List.range k).flatMap fun s => (bs.drop (1024 * s + 32 * j)).take 32

/-- A row's or column's elements at the engine's input, group by group: the logs, the scale, and whether a conversion
clamped and whether a C4 word has a reserved bit set (R231, R370). -/
structure GroupIn where
  els : List LogIn
  scale : Num
  lsat : Bool
  fmt : Bool
  deriving DecidableEq, Repr

def groupIn (fmt : Nat) (reads : Bool) (codes : List Nat) (word g : Nat) : GroupIn :=
  let els := ((codes.drop (32 * g)).take 32).map fun c => elementIn fmt word c
  { els := els.map (·.1), scale := if reads then bf16.num (c4Scale word) else .fin false 1 0
    lsat := els.any (·.2), fmt := fmt == 0 && c4Reserved word }

/-- One update of an element by a group (R233-R235): the element and the flags. -/
def groupStep (acc : Word) (a b : GroupIn) : Word × Word :=
  let s := groupSum ((a.els.zip b.els).map fun p => prodIn p.1 p.2)
  let (v, f) := accUpdate acc s a.scale b.scale (a.fmt || b.fmt)
  (v, f ||| (if a.lsat || b.lsat then 4 else 0))

/-- MLOOP's effect on a tile (R371): the new tile and the flags. -/
def mloopTile (m : Mloop) (rows : List Lanes) (bs aWords bWords : List Byte) (tile : List Word) : List Word × Word :=
  let a := laneNums.map fun i =>
    let cs := codesOf (fmtWidth m.aFmt) (rowBytes rows i)
    (List.range m.groups).map fun g => groupIn m.aFmt m.readsA cs (field aWords (128 * g + 4 * i) 4) g
  let b := laneNums.map fun j =>
    let cs := codesOf (fmtWidth m.bFmt) (colBytes m.k bs j)
    (List.range m.groups).map fun g => groupIn m.bFmt m.readsB cs (field bWords (128 * g + 4 * j) 4) g
  let res := laneNums.flatMap fun i => laneNums.map fun j =>
    ((a.getD i []).zip (b.getD j [])).foldl (fun (acc : Word × Word) p =>
      let (v, f) := groupStep acc.1 p.1 p.2
      (v, acc.2 ||| f)) ((if m.clr then 0 else elem tile i j), 0)
  (res.map (·.1), res.foldl (fun f r => f ||| r.2) 0)

namespace State

/-! The command queue (R363). -/

/-- The instruction of a flight enters the core's matrix command queue. -/
def queueMtx (s : State) (c : CoreId) (f : Flight) (cmd : MtxCmd) : State :=
  (s.updCore c fun k => { k with mtx := k.mtx ++ [{ cmd with id := k.nextCmd, fid := f.id }], nextCmd := k.nextCmd + 1 }).postOnce
    .matrixCommandComplete { c := c }

/-- Issue a matrix command from a site: it is in flight and in the core's queue. -/
def enqueueMtx (s : State) (x : Site) (n : Nat) (f : Flight) (cmd : MtxCmd) : State :=
  let f := { f with deps := depsOf x.w f, waiting := 1 }
  (s.queueMtx x.core f cmd).advance x n (addFlight x.w f)

/-- Whether a matrix command must wait at issue: a full queue, or the limits of R170 and R245. -/
def mtxFull (s : State) (x : Site) (long : Bool) : Bool :=
  decide (16 ≤ (s.core x.core).mtx.length) || decide (8 ≤ x.w.countedFlights) || (long && decide (8 ≤ x.w.longFlights))

def mtxCmd (x : Site) (i : Instr) : MtxCmd :=
  { id := 0, w := x.wid, instr := i, addr := x.addr, fid := 0, mask := x.sl.mask, rows := [], sg := [], fg := [], stream := none, left := []
    bad := none, regs := [] }

/-- The four scalars of a group. -/
def group4 (w : Warp) (r : Nat) : List Word := [w.sreg r, w.sreg (r + 1), w.sreg (r + 2), w.sreg (r + 3)]

/-- The bytes of an MLOOP's B steps and of metadata lines, from a block's scratchpad. -/
def scratchRuns (s : State) (b : Block) (as : List Int) (n : Nat) : List Byte := as.flatMap fun a => s.scratchBytes b a.toNat n

/-- Whether an MLOOP finds its A latched (R373). -/
def latched (s : State) (x : Site) (a k : Nat) : Option Latch :=
  match tget? (s.core x.core).latch (x.wid.slot % 4) with
  | some l => if l.slot = x.wid.slot && l.a = a && l.k = k then some l else none
  | none => none

/-- The issue checks of an MLOOP (R364-R370), in the order of R242; `own` says that it reads B itself. None: it may issue. -/
def mloopCheck (s : State) (x : Site) (r : Reg) (m : Mloop) (sg fg : List Word) (z c : Nat) (own : Bool) : Option Result :=
  let a := r.a.toNat
  let regs := regsFrom a (8 * m.k)
  if m.illegal sg fg then some (s.trapWhole x 2 0)
  else if !tileOk x.w z || !scalarOk r.b.toNat || !scalarOk c || !regs.all (vectorOk x.w) then some (s.trapWhole x 4 0)
  else
    let walkers := regs.any fun q => (x.w.boundWalker q).isSome
    let regsR := if (s.latched x a m.k).isSome then none
      else s.regCheck x x.sl.mask (withBit (regs.filter fun q => (x.w.boundWalker q).isNone) r.fa) [] [] false
    match regsR with
    | some q => some q
    | none =>
      if walkers then some (s.trapWhole x 0x0A 0)
      else
        match (m.reads own).find? fun p => !Mloop.inGrant x.b p.2 p.1 with
        | some p => some (s.trapWhole x 0x0B (BitVec.ofInt 64 (p.1 % 2 ^ 32)))
        | none =>
          match m.misaligned with
          | some q => some (s.trapWhole x 0x0D (BitVec.ofNat 64 q))
          | none => none

/-- The participants of a broadcast (R374): warp number n of every block of the gang that has not exited. -/
def castWarps (s : State) (g : GangRef) (n : Nat) : List (WarpId × Warp) :=
  s.warps.filter fun x => x.2.block.grid == g.grid && x.2.block.gang == g.gang && x.2.num == n && !x.2.exited

/-- Issue an MLOOP: the values of A are taken now, or from the latch (R366, R373). -/
def issueMloop (s : State) (x : Site) (r : Reg) (xr : Xr) (m : Mloop) (sg fg : List Word) (stream : Option (List Byte × List Byte)) : State :=
  let i : Instr := .mloop r xr
  let a := r.a.toNat
  let regs := regsFrom a (8 * m.k)
  let hit := s.latched x a m.k
  let rows := match hit with
    | some l => l.rows
    | none => regs.map fun q => (x.w.vreg q).lanes
  let q := x.wid.slot % 4
  let s := s.updCore x.core fun k => { k with
    latch := if m.reuse then tset k.latch q { slot := x.wid.slot, a := a, k := m.k, rows := rows }
      else if hit.isSome then tdel k.latch q else k.latch }
  let w := if m.cast_ then { x.w with bcast := x.w.bcast + 1, granted := none } else x.w
  let f := { Flight.issue x i x.sl.mask [] true with x := (sg ++ fg).map (·.setWidth 64) }
  s.enqueueMtx (x.withW w) 2 f { mtxCmd x i with
    rows := rows, sg := sg, fg := fg, stream := stream, regs := if hit.isSome then [] else regs }

/-- The participant of a stream event whose B all take: that of the gang's core 0 (R374), the first that takes part. -/
def castLead (all : List (WarpId × Warp)) : Option (WarpId × Warp) :=
  all.foldl (fun (a : Option (WarpId × Warp)) p => match a with
    | some q => if p.2.block.j < q.2.block.j then some p else a
    | none => some p) none

end State

/-- A participant's groups with what the gang's core 0 gives (R374): the B address and increment; B's format, scales and metadata address and
the group increment. -/
def castSg (own lead : List Word) : List Word := [lead.getD 0 0, lead.getD 1 0, own.getD 2 0, own.getD 3 0]
def castFg (own lead : List Word) : List Word :=
  [(own.getD 0 0 &&& 0xFFFFFD0F) ||| (lead.getD 0 0 &&& 0x2F0), own.getD 1 0, lead.getD 2 0, lead.getD 3 0]

/-- A participant's groups without what it takes from core 0, for the checks that come before (R374): B of A's own format, at address 0. -/
def castOwn (sg fg : List Word) : List Word × List Word :=
  (castSg sg [], castFg fg [(fg.getD 0 0 &&& 0xF) <<< 4])

namespace State

/-- What a broadcast MLOOP that has no stream event yet is checked for (R374): core 0's as any MLOOP, another's without B. -/
def castCheck (s : State) (x : Site) (r : Reg) (xr : Xr) : Option Result :=
  let sg := group4 x.w r.b.toNat
  let fg := group4 x.w xr.c.toNat
  let all := s.castWarps { grid := x.w.block.grid, gang := x.w.block.gang } x.w.num
  if (castLead all).any fun p => p.1 == x.wid then s.mloopCheck x r (mloopOf xr.minor.toNat sg fg) sg fg r.d.toNat xr.c.toNat true
  else
    let (sg, fg) := castOwn sg fg
    s.mloopCheck x r (mloopOf xr.minor.toNat sg fg) sg fg r.d.toNat xr.c.toNat false

end State

/-- MLOOP (R365-R374). A broadcast MLOOP of a gang with several participants is not ready until its stream event has come; it then issues
like any other. -/
def execMloop (r : Reg) (xr : Xr) (s : State) : Result :=
  s.atSite fun x =>
    let sg := State.group4 x.w r.b.toNat
    let fg := State.group4 x.w xr.c.toNat
    let m := mloopOf xr.minor.toNat sg fg
    let gang : GangRef := { grid := x.w.block.grid, gang := x.w.block.gang }
    let all := s.castWarps gang x.w.num
    match (if m.cast_ then x.w.granted else none) with
    | some g =>
      let lead := (State.castLead all).any fun p => p.1 == x.wid
      let sg := castSg sg g.sg
      let fg := castFg fg g.fg
      let m := mloopOf xr.minor.toNat sg fg
      match s.mloopCheck x r m sg fg r.d.toNat xr.c.toNat lead with
      | some q => q
      | none => if s.mtxFull x false then s.stall else .next (s.issueMloop x r xr m sg fg (some (g.steps, g.metas)))
    | none =>
      if m.cast_ && 1 < all.length then
        match s.castCheck x r xr with
        | some q => q
        | none => (s.postOnce .broadcastStreamEvent { g := gang, n := x.w.num }).stall
      else
        match s.mloopCheck x r m sg fg r.d.toNat xr.c.toNat true with
        | some q => q
        | none => if s.mtxFull x false then s.stall else .next (s.issueMloop x r xr m sg fg none)

namespace State

/-- The slot of a warp that stands at a broadcast MLOOP for which it has no stream event yet. -/
def atCast (s : State) (wid : WarpId) : Option (Site × Reg × Xr) :=
  ([PcSel.a, .b].filterMap fun sel =>
    match ({ s with site := some (wid, sel) } : State).siteOf with
    | none => none
    | some x =>
      if stopped s wid x.w || !mayIssue x.w sel || x.w.granted.isSome then none
      else
        match x.sl.clause with
        | none => none
        | some cl =>
          match s.nextInstr x cl with
          | .go (.mloop r xr) s' =>
            match s'.siteOf with
            | some x =>
              let m := mloopOf xr.minor.toNat (group4 x.w r.b.toNat) (group4 x.w xr.c.toNat)
              let busy := x.w.flights.any fun g => !g.done &&
                ((isScratch g.instr || tileScratch g) && (roles g.instr).2 || copyScratch g)
              if m.cast_ && (s'.castCheck x r xr).isNone && !busy then some (x, r, xr) else none
            | none => none
          | _ => none).head?

end State

/-- BROADCAST_STREAM_EVENT (R374): when every participant stands at its MLOOP, each may issue it with B as core 0 reads it now; a
participant whose K or B width class differs makes all of them raise Membership. -/
def execBroadcastStreamEvent (s : State) : Result :=
  let all := s.castWarps s.arg.g s.arg.n
  let at_ := all.filterMap fun p => s.atCast p.1
  .next <|
    if at_.length != all.length || at_.isEmpty then s
    else
      match (State.castLead all).bind fun p => at_.find? fun y => y.1.wid == p.1 with
      | none => s
      | some (lx, lr, lxr) =>
        let sg := State.group4 lx.w lr.b.toNat
        let fg := State.group4 lx.w lxr.c.toNat
        let lm := mloopOf lxr.minor.toNat sg fg
        let same := at_.all fun (x, r, xr) =>
          let m := mloopOf xr.minor.toNat (State.group4 x.w r.b.toNat) (State.group4 x.w xr.c.toNat)
          m.k == lm.k && fmtWidth m.bFmt == fmtWidth lm.bFmt
        let g : Grant := { sg := sg, fg := fg, steps := s.scratchRuns lx.b lm.steps 1024
                           metas := if lm.readsB then s.scratchRuns lx.b (lm.metas lm.bMeta) 128 else [] }
        at_.foldl (fun s (x, _, _) =>
          if !same then
            s.raise x.wid { cause := 8, slot := x.sel, addr := 0, lanes := x.sl.mask, instr := x.addr, aux := 0 }
          else s.updWarp x.wid fun w => { w with granted := some g }) s

/-- MZERO (R376). -/
def execMzero (r : Reg) (s : State) : Result :=
  s.atSite fun x =>
    if !tileOk x.w r.d.toNat then s.trapWhole x 4 0
    else if s.mtxFull x false then s.stall
    else .next (s.enqueueMtx x 1 (Flight.issue x (.mzero r) x.sl.mask [] true) (State.mtxCmd x (.mzero r)))

namespace State

/-- MRD of a form (R376): the 32 destinations are empty from now on. -/
def mrdOf (s : State) (i : Instr) (r : Reg) (n : Nat) : Result :=
  let dest := regsFrom r.d.toNat 32
  s.atSite fun x =>
    s.holdFor x dest fun s x =>
      if !tileOk x.w r.a.toNat then s.trapWhole x 4 0
      else
        match s.regCheck x x.sl.mask [] [] dest true with
        | some q => q
        | none =>
          if s.mtxFull x true then s.stall
          else .next (s.enqueueMtx x n (Flight.issue x i x.sl.mask dest true) (mtxCmd x i))

/-- MWR of a form (R376): the 32 registers are read now, every lane. -/
def mwrOf (s : State) (i : Instr) (r : Reg) (n : Nat) : Result :=
  let src := regsFrom r.a.toNat 32
  s.atSite fun x =>
    if !tileOk x.w r.d.toNat then s.trapWhole x 4 0
    else
      match s.regCheck x (BitVec.allOnes 32) (withBit src r.fa) [] [] false with
      | some q => q
      | none =>
        if s.mtxFull x false then s.stall
        else
          let rows := src.map fun q => readLanes x.w q
          let (s, w) := s.stepInputs x x.w src
          .next (s.enqueueMtx (x.withW w) n (Flight.issue x i x.sl.mask [] true) { mtxCmd x i with rows := rows })

/-- The runs of bytes of a tile move before any is performed: its 32 rows. -/
def tileRuns (len : Nat) : List (Nat × Nat × Nat) := laneNums.map fun r => (r, 0, len)

/-- MST or MLD of a form (R377, R379): the group is read and checked now. -/
def tileMove (s : State) (i : Instr) (m : Mm) (xm : Option Xm) : Result :=
  s.atSite fun x =>
    match tileForm i with
    | none => s.stall
    | some (minor, disp, len) =>
      let sg := group4 x.w m.base.toNat
      let g := sg.map fun v => v.setWidth 64
      let store := (roles i).2
      let scratch := (sg.getD 2 0).getLsbD 31
      let row : Nat → Nat := fun k => (tileRow g disp k).toNat
      let bad := bits (sg.getD 2 0).toNat 30 24 != 0 || (scratch && sg.getD 1 0 != 0) ||
        (!(store && minor == 6) && sg.getD 3 0 != 0)
      if bad then s.trapWhole x 2 0
      else if !tileOk x.w m.d.toNat then s.trapWhole x 4 0
      else
        match laneNums.find? fun k => if scratch then !Mloop.inGrant x.b len (row k) else decide (2 ^ 57 ≤ row k) with
        | some k => s.trapWhole x (if scratch then 0x0B else 0x0C) (BitVec.ofNat 64 (row k))
        | none =>
          match laneNums.find? fun k => row k % 16 != 0 with
          | some k => s.trapWhole x 0x0D (BitVec.ofNat 64 (row k))
          | none =>
            if s.mtxFull x false then s.stall
            else
              let f := { Flight.issue x i x.sl.mask [] true with
                scope := (xm.map (·.scope.toNat)).getD 0, order := (xm.map (·.order.toNat)).getD 0, x := g }
              .next (s.enqueueMtx x (if xm.isSome then 2 else 1) f { mtxCmd x i with sg := sg, left := tileRuns len })

end State

def execMrd (r : Reg) (s : State) : Result := s.mrdOf (.mrd r) r 1
def execMrdXr (r : Reg) (x : Xr) (s : State) : Result := s.mrdOf (.mrdXr r x) r 2
def execMwr (r : Reg) (s : State) : Result := s.mwrOf (.mwr r) r 1
def execMwrXr (r : Reg) (x : Xr) (s : State) : Result := s.mwrOf (.mwrXr r x) r 2
def execMst (m : Mm) (s : State) : Result := s.tileMove (.mst m) m none
def execMstXm (m : Mm) (x : Xm) (s : State) : Result := s.tileMove (.mstXm m x) m (some x)
def execMld (m : Mm) (s : State) : Result := s.tileMove (.mld m) m none
def execMldXm (m : Mm) (x : Xm) (s : State) : Result := s.tileMove (.mldXm m x) m (some x)

/-- The tile that an MTX instruction names. -/
def tileNamed : Instr → Option Nat
  | .mloop r _ => some r.d.toNat
  | .mzero r => some r.d.toNat
  | .mrd r => some r.a.toNat
  | .mrdXr r _ => some r.a.toNat
  | .mwr r => some r.d.toNat
  | .mwrXr r _ => some r.d.toNat
  | .mst m => some m.d.toNat
  | .mstXm m _ => some m.d.toNat
  | .mld m => some m.d.toNat
  | .mldXm m _ => some m.d.toNat
  | _ => none

namespace State

/-- MWAIT or MSTAT of a slot (R363, R381, R382): it enters the command queue, where it counts, and its slot stands at it until the engine has
performed it, by when the instructions that meet `f` are performed; `act` is what it then does. One for which the queue is empty and that
has nothing to wait for is performed at once. -/
def engineWait (s : State) (x : Site) (i : Instr) (f : Flight → Bool) (act : Warp → Warp) : Result :=
  match x.w.flights.find? fun g => g.instr == i && g.by_ == x.sel && g.addr == x.addr with
  | some g =>
    if g.done then .next (s.advance x 1 (act { x.w with flights := x.w.flights.filter (·.id != g.id) })) else s.stall
  | none =>
    if (s.core x.core).mtx.isEmpty && !(x.w.flights.any fun g => !g.done && f g) then .next (s.advance x 1 (act x.w))
    else if s.mtxFull x false then s.stall
    else
      let g := Flight.issue x i x.sl.mask [] true
      ((s.queueMtx x.core g (mtxCmd x i)).setWarp x.wid (addFlight x.w g)).stall

end State

/-- MWAIT (R381). -/
def execMwait (r : Reg) (s : State) : Result :=
  s.atSite fun x =>
    if !tileOk x.w r.d.toNat then s.trapWhole x 4 0
    else s.engineWait x (.mwait r) (fun f => tileNamed f.instr == some r.d.toNat) id

/-- MSTAT (R382): in one step it reads MXS and clears it. -/
def execMstat (r : Reg) (s : State) : Result :=
  s.atSite fun x =>
    if !scalarOk r.d.toNat then s.trapWhole x 4 0
    else s.engineWait x (.mstat r) (fun f => (tileNamed f.instr).isSome) fun w =>
      { w.writeNow x.sel r.d.toNat (w.mxs &&& 0xF) with mxs := 0 }

namespace State

/-! Performing a command. -/

/-- The pieces of a run of n bytes that lie in one line each. -/
def pieces (a n : Nat) : List (Nat × Nat) :=
  let k := inLine a n
  if n ≤ k then [(a, n)] else [(a, k), (a + k, n - k)]

/-- What a row's lines meet when they are translated: the translations, or a fault. -/
def rowTrans (s : State) (c : CoreId) (write : Bool) : List (Nat × Nat) → Option (Except Nat (List (Nat × Nat × Nat) × State))
  | [] => some (.ok ([], s))
  | (a, n) :: ps =>
    if 2 ^ 57 ≤ a then some (.error 0x0C)
    else match s.translate c a with
      | .busy => none
      | .fault e => some (.error e)
      | .ok e s =>
        if !permitted e write false then some (.error 0x12)
        else if (s.homeAt c.dieId (e.phys a)).isNone then some (.error 0x0E)
        else match s.rowTrans c write ps with
          | some (.ok (l, s)) => some (.ok ((e.phys a, flagPolicy e.flags, n) :: l, s))
          | r => r

/-- A fault of a block that no warp can take any more is counted in the block; the first gives address and cause (R191). -/
def countFault (s : State) (b : BlockId) (n : Nat) (addr : DWord) (cause : Nat) : State :=
  s.updBlock b fun k =>
    if k.pfCount = 0 then { k with pfCount := n, pfAddr := addr, pfCause := cause } else { k with pfCount := k.pfCount + n }

/-- An Engine fault of a command is recorded in its warp (R242): the first that is due stands; its translation cause is
kept beside it for R191. The faults of a warp that has exited are counted in its block. -/
def engineFault (s : State) (wid : WarpId) (instr addr : DWord) (cause : Nat) : State :=
  match s.warp? wid with
  | none => s
  | some w =>
    if w.exited then s.countFault w.block 1 addr cause
    else
      let t : TrapRec := { cause := 0x19, slot := .a, addr := addr, lanes := 0, instr := instr, aux := BitVec.ofNat 64 cause }
      s.setWarp wid { w with engine := some (w.engine.getD t) }

/-- A line that an engine of the warp wrote is noted while pushes of it are outstanding, so that a later release at tray or rack
scope waits for them (R205, R383). -/
def noteLine (s : State) (wid : WarpId) (pa : Nat) : State :=
  match s.homeAt wid.core.dieId pa with
  | some h =>
    let x := (h.dieId, lineOf (physKey h))
    if (s.die x.1).pushes.any (·.line == x.2) then
      s.updWarp wid fun w => { w with narrow := x :: w.narrow.filter (· != x) }
    else s
  | none => s

/-- Write the pieces of a row at their places; an ERROR is a posted-store fault at the row's address (R379). None: busy. -/
def rowPut (s : State) (wid : WarpId) (b : BlockId) (scope row : Nat) : List (Nat × Nat × Nat) → List Byte → Option State
  | [], _ => some s
  | (pa, policy, n) :: ps, bs =>
    match s.writePlace 0 wid.core b scope policy pa (bs.take n) with
    | .ok _ s => (s.noteLine wid pa).rowPut wid b scope row ps (bs.drop n)
    | .busy => none
    | .error c _ p => (s.recordRff wid c p false (BitVec.ofNat 64 row)).rowPut wid b scope row ps (bs.drop n)
    | .fault c _ => (s.recordRff wid c wid.core.pkg false (BitVec.ofNat 64 row)).rowPut wid b scope row ps (bs.drop n)

/-- The bytes of a row that MST stores, and the flags (R378). -/
def rowOf (minor word : Nat) (es : List Word) : List Byte × Word :=
  if minor = 0 then (es.flatMap fun e => leBytes 4 e.toNat, 0)
  else
    let cs := es.map fun e => convert (2 + minor) .rne word (.lin (f32Num e))
    let flags := cs.foldl (fun f c => f ||| convFlags c) 0
    let vs := cs.map (·.val)
    let bs := match minor with
      | 1 => vs.flatMap fun v => leBytes 2 v
      | 5 => vs.flatMap fun v => leBytes 2 v
      | 6 => (List.range 16).map fun i => BitVec.ofNat 8 (vs.getD (2 * i) 0 + 16 * vs.getD (2 * i + 1) 0)
      | _ => vs.flatMap fun v => leBytes 1 v
    (bs, flags)

/-- Cut the bytes lo to hi of a row out of the runs that remain. -/
def cutRuns (left : List (Nat × Nat × Nat)) (r lo hi : Nat) : List (Nat × Nat × Nat) :=
  left.flatMap fun x =>
    if x.1 != r then [x]
    else [(r, x.2.1, min (x.2.1 + x.2.2) lo - x.2.1), (r, max x.2.1 hi, x.2.1 + x.2.2 - max x.2.1 hi)].filter fun y => y.2.2 != 0

/-- The bytes of a row at `row` that lie in the line of its byte o. -/
def lineSpan (row o : Nat) : Nat × Nat := let a := (row + o) / 128 * 128; (a - row, a + 128 - row)

def setTile (s : State) (wid : WarpId) (z : Nat) (t : List Word) (flags : Word) : State :=
  s.updWarp wid fun w => { w with z := lput w.z z t zeroTile, mxs := w.mxs ||| flags }

/-- The lowest row address that faulted, with its cause, after one more (R242, R379). -/
def lowRow (bad : Option (Nat × Nat)) (row cause : Nat) : Option (Nat × Nat) :=
  match bad with
  | some x => if x.1 ≤ row then some x else some (row, cause)
  | none => some (row, cause)

/-- A row of a tile move that faulted in translation is not performed (R379): the lowest one's address is kept. -/
def rowBad (cmd : MtxCmd) (r row cause : Nat) : MtxCmd :=
  { cmd with left := cmd.left.filter (·.1 != r), bad := lowRow cmd.bad row cause }

/-- A line that an MST of the warp wrote is noted while the write is not performed at every scope (R205, R207, R383). -/
def noteMst (s : State) (wid : WarpId) (pa : Nat) : State :=
  s.updWarp wid fun w => { w with mstLines := ((lineOf pa :: w.mstLines).eraseDups).filter (s.lineOpen wid.core 4) }

/-- Store a run of bytes of row r of a tile (R219, R378, R379), within one line: the command with what it has then to do. None: busy. -/
def storeRun (s : State) (cmd : MtxCmd) (b : BlockId) (bk : Block) (f : Flight) (minor len : Nat) (disp : DWord) (tile : List Word)
    (r o n : Nat) : Option (State × MtxCmd) :=
  let (bs, flags) := rowOf minor (cmd.sg.getD 3 0).toNat (laneNums.map fun j => elem tile r j)
  let row := (tileRow f.x disp r).toNat
  let s := s.updWarp cmd.w fun w => { w with mxs := w.mxs ||| flags }
  let bs := (bs.drop o).take n
  if tileScratch f then some (s.scratchPut bk (row + o) bs, cmd)
  else
    match s.rowTrans cmd.w.core true (pieces row len) with
    | none => none
    | some (.error c) => some (s, rowBad cmd r row c)
    | some (.ok (_, s)) =>
      match s.rowTrans cmd.w.core true [(row + o, n)] with
      | some (.ok ([(pa, policy, _)], s)) =>
        let (lo, hi) := lineSpan row o
        let lost := { cmd with left := cutRuns cmd.left r lo hi }
        match s.writePlace 0 cmd.w.core b f.scope policy pa bs with
        | .ok _ s => some ((s.noteLine cmd.w pa).noteMst cmd.w pa, cmd)
        | .busy => none
        | .error c _ p => some (s.recordRff cmd.w c p false (BitVec.ofNat 64 row), lost)
        | .fault c _ => some (s.recordRff cmd.w c cmd.w.core.pkg false (BitVec.ofNat 64 row), lost)
      | _ => none

/-- Bytes of row r of a tile that MLD has read (R378): each goes into its element, a BF16 one into the high half. -/
def putElems (tile : List Word) (minor r o : Nat) (bs : List Byte) : List Word :=
  let size := if minor = 0 then 4 else 2
  (bs.zipIdx).foldl (fun t x =>
    let j := (o + x.2) / size
    let k := (o + x.2) % size + (if minor = 0 then 0 else 2)
    let e := (elem t r j).toNat
    let e := if minor = 0 then e else e / 2 ^ 16 * 2 ^ 16
    lset t (32 * r + j) (BitVec.ofNat 32 (e - e / 2 ^ (8 * k) % 256 * 2 ^ (8 * k) + x.1.toNat * 2 ^ (8 * k)))) tile

/-- The elements of row r whose bytes lie between lo and hi are NaN: their line could not be read (R379). -/
def nanElems (tile : List Word) (minor r lo hi : Nat) : List Word :=
  let size := if minor = 0 then 4 else 2
  laneNums.foldl (fun t j => if lo ≤ size * j && size * j < hi then lset t (32 * r + j) f32NaN else t) tile

/-- Load a run of bytes of row r of tile z (R219, R379), within one line: the command with what it has then to do. None: busy. -/
def loadRun (s : State) (cmd : MtxCmd) (bk : Block) (f : Flight) (minor len : Nat) (disp : DWord) (z : Nat) (tile : List Word)
    (r o n : Nat) : Option (State × MtxCmd) :=
  let row := (tileRow f.x disp r).toNat
  if tileScratch f then some (s.setTile cmd.w z (putElems tile minor r o (s.scratchBytes bk (row + o) n)) 0, cmd)
  else
    match s.rowTrans cmd.w.core false (pieces row len) with
    | none => none
    | some (.error c) => some (s, rowBad cmd r row c)
    | some (.ok (_, s)) =>
      match s.rowTrans cmd.w.core false [(row + o, n)] with
      | some (.ok ([(pa, policy, _)], s)) =>
        match s.readPlace 0 cmd.w.core f.scope policy pa n with
        | .ok bs s => some (s.setTile cmd.w z (putElems tile minor r o bs) 0, cmd)
        | .busy => none
        | _ =>
          let (lo, hi) := lineSpan row o
          some (s.setTile cmd.w z (nanElems tile minor r lo hi) 1, { cmd with left := cutRuns cmd.left r lo hi })
      | _ => none

/-- MRD is performed (R376): lane i of register j gets element (i, j), in the lanes of the slot's mask at issue. -/
def readTile (s : State) (cmd : MtxCmd) (w : Warp) (r : Reg) : State :=
  let t := w.tile r.a.toNat
  let s := s.updWarp cmd.w fun w => (List.range 32).foldl (fun w j =>
    let d := r.d.toNat + j
    w.setV d { w.vreg d with lanes := mergeLanes cmd.mask (w.vreg d).lanes (lanesOf fun i => elem t i j) }) w
  s.wholeDone cmd.w cmd.fid

/-- Perform the next run of bytes of a tile move (R219): with the state stands the command while runs remain. None: busy. -/
def performTile (s : State) (cmd : MtxCmd) (w : Warp) (bk : Block) (f : Flight) (minor len : Nat) (disp : DWord) (z : Nat) :
    Option (State × Option MtxCmd) :=
  let s := if hasAcquire f.order && f.scope != 0 && cmd.left == tileRuns len then s.dropAllClean cmd.w.core else s
  match s.pickRun cmd.left with
  | none => some (s, none)
  | some ((r, o, n), rest, s) =>
    let k := inLine ((tileRow f.x disp r).toNat + o) n
    let cmd := { cmd with left := if k < n then (r, o + k, n - k) :: rest else rest }
    let after := if (roles cmd.instr).2 then s.storeRun cmd w.block bk f minor len disp (w.tile z) r o k
      else s.loadRun cmd bk f minor len disp z (w.tile z) r o k
    after.map fun (s, cmd) =>
      if !cmd.left.isEmpty then (s, some cmd)
      else
        let s := match cmd.bad with
          | some (row, c) => s.engineFault cmd.w cmd.addr (BitVec.ofNat 64 row) c
          | none => s
        if (roles cmd.instr).2 && decide (3 ≤ f.scope) then
          ((s.updFlight cmd.w cmd.fid fun f => { f with sent := 1 }).postOnce .missSlotFill { w := cmd.w, i := cmd.fid }, none)
        else (s.wholeDone cmd.w cmd.fid, none)

/-- An MWAIT or MSTAT at the head of the queue is performed once the instructions of its warp that meet a condition are. -/
def performWait (s : State) (cmd : MtxCmd) (w : Warp) (f : Flight → Bool) : Option (State × Option MtxCmd) :=
  if w.flights.any fun g => !g.done && g.id != cmd.fid && f g then none
  else some (s.updFlight cmd.w cmd.fid fun f => { f with done := true, counted := false }, none)

/-- Perform the command at the head of the queue, or a run of bytes of its tile move (R219); with the state stands the command if it stays
there. None: it is not ready. -/
def performMtx (s : State) (cmd : MtxCmd) : Option (State × Option MtxCmd) :=
  match s.warp? cmd.w, s.flight? cmd.w cmd.fid with
  | some w, some f =>
    match s.block? w.block with
    | none => some (s, none)
    | some bk =>
      if !depsMet w f then none
      else
        let done : State → State × Option MtxCmd := fun s => (s.wholeDone cmd.w cmd.fid, none)
        match cmd.instr with
        | .mzero r => some (done (s.setTile cmd.w r.d.toNat zeroTile 0))
        | .mrd r => some (s.readTile cmd w r, none)
        | .mrdXr r _ => some (s.readTile cmd w r, none)
        | .mwr r => some (done (s.setTile cmd.w r.d.toNat (tileOf fun i j => lane (cmd.rows.getD j []) i) 0))
        | .mwrXr r _ => some (done (s.setTile cmd.w r.d.toNat (tileOf fun i j => lane (cmd.rows.getD j []) i) 0))
        | .mwait r => s.performWait cmd w fun g => tileNamed g.instr == some r.d.toNat
        | .mstat _ => s.performWait cmd w fun g => (tileNamed g.instr).isSome
        | .mloop r xr =>
          let m := mloopOf xr.minor.toNat cmd.sg cmd.fg
          let (bs, bw) := match cmd.stream with
            | some p => p
            | none => (s.scratchRuns bk m.steps 1024, if m.readsB then s.scratchRuns bk (m.metas m.bMeta) 128 else [])
          let aw := if m.readsA then s.scratchRuns bk (m.metas m.aMeta) 128 else []
          let (t, flags) := mloopTile m cmd.rows bs aw bw (w.tile r.d.toNat)
          some (done (s.setTile cmd.w r.d.toNat t flags))
        | i =>
          match tileForm i, tileNamed i with
          | some (minor, disp, len), some z =>
            if w.flights.any fun g => decide (g.id < f.id) && !g.done && sameThread g f && holdsTile g f then none
            else if hasRelease f.order && (roles i).2 && !s.releaseReady cmd.w.core w f.scope then none
            else s.performTile cmd w bk f minor len disp z
          | _, _ => some (s, none)
  | _, _ => some (s, none)

/-- The rows of a tile move that waits may lie in lines that are shut to its core (R122), or cannot be reached. -/
def senseMtx (s : State) (cmd : MtxCmd) (f : Flight) : State :=
  match tileForm cmd.instr with
  | some (_, disp, len) => if tileScratch f then s
    else cmd.left.foldl (fun (s : State) x => s.sense 0 cmd.w.core (tileRow f.x disp x.1).toNat len) s
  | none => s

end State

/-- MATRIX_COMMAND_COMPLETE (R363): the engine performs the command at the head of its queue, a tile move by runs of bytes in any order
(R219). -/
def execMatrixCommandComplete (s : State) : Result :=
  let c := s.arg.c
  .next <|
    match (s.core c).mtx with
    | [] => s
    | cmd :: _ =>
      let poll := fun s : State => ({ s with free := s.free + 1 } : State).afterOnce 1 .matrixCommandComplete { c := c }
      match s.performMtx cmd with
      | none =>
        match s.warp? cmd.w, s.flight? cmd.w cmd.fid with
        | some w, some f =>
          let s := if depsMet w f then s.senseMtx cmd f else s
          poll (if hasRelease f.order && depsMet w f then s.startRelease c w f.scope else s)
        | _, _ => poll s
      | some (s, some new) =>
        (s.updCore c fun k => { k with mtx := k.mtx.map fun m => if m.id == cmd.id then new else m }).postOnce
          .matrixCommandComplete { c := c }
      | some (s, none) =>
        let s := s.updCore c fun k => { k with mtx := k.mtx.filter (·.id != cmd.id) }
        if (s.core c).mtx.isEmpty then s else s.postOnce .matrixCommandComplete { c := c }

end Sys2Proof.Machine
end

