-- ==== Sys2Proof/Machine/Barrier.lean ====
section
/-! DEFINITION. Barrier objects (R397, R398, R202, R263), the conditions of event slots (R185, R186), and the waits that
synchronising instructions share (R212, R220, R221, R400). -/

namespace Sys2Proof.Machine

/-- A barrier object's fields (R397). -/
structure BarObj where
  arrivals : Nat
  expected : Nat
  pending : Nat
  phase : Bool
  broken : Bool
  maskrec : Bool
  mask : Mask
  deriving DecidableEq, Repr

/-- Read an object's 16 bytes. -/
def barOf (bs : List Byte) : BarObj :=
  let k := field bs 9 1
  { arrivals := field bs 0 2, expected := field bs 2 2, pending := field bs 4 5, phase := bits k 0 0 == 1
    broken := bits k 1 1 == 1, maskrec := bits k 2 2 == 1, mask := BitVec.ofNat 32 (field bs 12 4) }

/-- Write an object's fields over its 16 bytes; the reserved bits stay as they are. -/
def barBytes (old : List Byte) (o : BarObj) : List Byte :=
  leBytes 2 o.arrivals ++ leBytes 2 o.expected ++ leBytes 5 o.pending ++
    leBytes 1 (field old 9 1 / 8 * 8 + bit01 o.phase 0 + bit01 o.broken 1 + bit01 o.maskrec 2) ++
    leBytes 2 (field old 10 2) ++ leBytes 4 o.mask.toNat

/-- Whether the phase is complete (R398). -/
def BarObj.complete (o : BarObj) : Bool := o.expected != 0 && decide (o.expected ≤ o.arrivals) && o.pending == 0

/-- The object after its phase has completed. -/
def BarObj.flip (o : BarObj) : BarObj := { o with arrivals := 0, pending := 0, maskrec := false, phase := !o.phase }

namespace State

/-- The scratchpad address of slot k's object (R397): own, or the gang's on core 0 of the half. -/
def barAddr (k : Nat) : Nat := 16 * k + (if 8 ≤ k then 2 ^ 23 else 0)

/-- Where slot k's object of a block lies. -/
def barHome (s : State) (bid : BlockId) (b : Block) (k : Nat) : Scratch := s.scratchAt bid b (barAddr k) 16

/-- Slot k's object, where it is there. -/
def barObj (s : State) (bid : BlockId) (b : Block) (k : Nat) : Option BarObj :=
  match s.barHome bid b k with
  | .at_ t off => (s.block? t).map fun tb => barOf (s.scratchBytes tb off 16)
  | _ => none

def setBar (s : State) (t : BlockId) (off : Nat) (o : BarObj) : State :=
  match s.block? t with
  | some tb => s.scratchPut tb off (barBytes (s.scratchBytes tb off 16) o)
  | none => s

/-- Whether a warp's slot k names the object at an offset of a block. -/
def namesBar (s : State) (w : Warp) (k : Nat) (t : BlockId) (off : Nat) : Bool :=
  match s.block? w.block with
  | some b => s.barHome w.block b k == .at_ t off
  | none => false

/-- Fire the slots of a kind that are bound to an object and meet a condition (R186). -/
def fireBar (s : State) (t : BlockId) (off kind : Nat) (f : EventSlot → Bool) : State :=
  s.warps.foldl (fun s x => s.fireSlots x.1 fun e =>
    e.kind == kind && f e && s.namesBar x.2 (e.source.toNat % 16) t off) s

/-- A warp without lanes that has not exited counts as arrived (R181): it has no arrival of its own to make. -/
def autoLaneless (w : Warp) : Bool := w.laneless && !w.exited

/-- The arrival flags of warps without lanes are for the phase that has ended (R181). -/
def clearAuto (s : State) (t : BlockId) (k : Nat) : State :=
  { s with warps := s.warps.map fun (x : WarpId × Warp) =>
      if x.2.block == t && k < 8 && autoLaneless x.2 then
        (x.1, { x.2 with arrA := x.2.arrA &&& ~~~((1 : BitVec 16) <<< k) })
      else x }

/-- End the phase of one object: BARPH slots fire (R186). -/
def flipBar (s : State) (t : BlockId) (k : Nat) (o : BarObj) : State :=
  let s := s.setBar t (16 * k) o.flip
  (s.fireBar t (16 * k) 1 fun e => e.phase != o.flip.phase).clearAuto t k

/-- The block on core 0 of a gang's other half, when an object's recorded mask names cores of both halves (R202, R398). -/
def farBar (s : State) (t : BlockId) (o : BarObj) (k : Nat) : Option BlockId :=
  match s.block? t with
  | none => none
  | some tb =>
    let mine := fun x : BlockId × Block => x.1.grid == t.grid && x.1.gang == t.gang && o.mask.getLsbD x.1.j
    if k < 8 || !tb.straddled || !o.maskrec || !(s.blocks.any fun x => mine x && x.2.core.die != tb.core.die) then none
    else
      match s.scratchAt t tb (2 ^ 23 + 2 ^ 22 + 16 * k) 16 with
      | .at_ u _ => some u
      | _ => none

/-- Evaluate slot k's object in block t (R398); a straddled barrier's two objects flip together (R202). -/
def evalBar (s : State) (t : BlockId) (k : Nat) : State :=
  match s.block? t with
  | none => s
  | some tb =>
    let o := barOf (s.scratchBytes tb (16 * k) 16)
    if !o.complete then s
    else
      match s.farBar t o k with
      | none => s.flipBar t k o
      | some u =>
        match s.block? u with
        | none => s.flipBar t k o
        | some ub =>
          let p := barOf (s.scratchBytes ub (16 * k) 16)
          if p.complete then (s.flipBar t k o).flipBar u k p else s

/-- Break slot k's object in block t (R263). -/
def breakBar (s : State) (t : BlockId) (k : Nat) : State :=
  match s.block? t with
  | none => s
  | some tb =>
    let o := barOf (s.scratchBytes tb (16 * k) 16)
    (s.flipBar t k { o with broken := true }).fireBar t (16 * k) 7 fun _ => true

/-- Take bytes off an object's pending count and evaluate it (R389, R398). -/
def barTake (s : State) (bid : BlockId) (b : Block) (k n : Nat) : State :=
  match s.barHome bid b k with
  | .at_ t off =>
    match s.block? t with
    | none => s
    | some tb =>
      let o := barOf (s.scratchBytes tb off 16)
      (s.setBar t off { o with pending := (o.pending + 2 ^ 40 - n % 2 ^ 40) % 2 ^ 40 }).evalBar t k
  | _ => s

/-- The warps of a block that hold no lanes arrive at a block barrier whose mask names them, once per phase (R181). -/
def autoArrive (s : State) (t : BlockId) (k : Nat) : State :=
  if 8 ≤ k then s
  else
    s.warps.foldl (fun s x =>
      match s.block? t, s.warp? x.1 with
      | some tb, some w =>
        let o := barOf (s.scratchBytes tb (16 * k) 16)
        if w.block == t && autoLaneless w && o.maskrec && o.mask.getLsbD w.num && !(w.arrA.getLsbD k && w.arrF.getLsbD k == o.phase) then
          let one : BitVec 16 := 1 <<< k
          let s := s.setWarp x.1 { w with
            arrA := w.arrA ||| one, arrF := if o.phase then w.arrF ||| one else w.arrF &&& ~~~one }
          s.setBar t (16 * k) { o with arrivals := (o.arrivals + 1) % 2 ^ 16 }
        else s
      | _, _ => s) s

end State

/-- What an arrival finds (R398). -/
inductive Arrival where
  | broken (s : State)
  | arrived (s : State)
  | wait
  | member
  deriving DecidableEq, Repr

namespace State

/-- A gang barrier whose mask names a lost block is broken (R263). -/
def lostMember (s : State) (t : BlockId) (k : Nat) (mask : Word) : Bool :=
  8 ≤ k && s.blocks.any fun x => x.1.grid == t.grid && x.1.gang == t.gang && x.2.state == 3 && mask.getLsbD x.1.j

/-- A warp arrives at slot k with a mask and bytes (R398). -/
def arriveBar (s : State) (x : Site) (k : Nat) (mask : Word) (n : Nat) : Arrival :=
  match s.barHome x.w.block x.b k with
  | .at_ t off =>
    match s.block? t with
    | none => .broken s
    | some tb =>
      let o := barOf (s.scratchBytes tb off 16)
      let me := if k < 8 then x.w.num else x.w.block.j
      if o.broken then .broken s
      else if s.lostMember t k mask then .broken (s.breakBar t k)
      else if o.expected = 0 then .wait
      else if !mask.getLsbD me || (o.maskrec && mask != o.mask) then .member
      else
        let o := { o with mask := mask, maskrec := true, pending := (o.pending + n) % 2 ^ 40, arrivals := (o.arrivals + 1) % 2 ^ 16 }
        let one : BitVec 16 := 1 <<< k
        let w := { x.w with arrA := x.w.arrA ||| one, arrF := if o.phase then x.w.arrF ||| one else x.w.arrF &&& ~~~one }
        .arrived ((((s.setWarp x.wid w).setBar t off o).autoArrive t k).evalBar t k)
  | _ => .broken s

/-! Event conditions. -/

/-- Batch m is at or before n (R392). -/
def atOrBefore (m n : Word) : Bool := decide ((n - m).toNat < 2 ^ 31)

/-- Every closed batch at or before n has completed (R393). -/
def batchesDone (w : Warp) (n : Word) : Bool := w.batches.all fun b => !atOrBefore b.num n

/-- Whether an event slot's condition holds now (R185). -/
def eventHolds (s : State) (wid : WarpId) (w : Warp) (b : Block) (e : EventSlot) : Bool :=
  match e.kind with
  | 1 => match s.barObj w.block b (e.source.toNat % 16) with
    | some o => o.phase != e.phase
    | none => true
  | 2 => atOrBefore (loWord e.source) w.lastBatch && batchesDone w (loWord e.source)
  | 3 =>
    match s.homeAt wid.core.dieId e.pa with
    | some h => (s.die h.dieId).lost || decide (e.target.toNat ≤ leVal (s.homeBytes wid.core.dieId e.pa 8))
    | none => false
  | 4 => !(tget (s.core wid.core).mbox (e.source.toNat % 16) []).isEmpty
  | 5 => decide (e.target.toNat ≤ w.timer.toNat)
  | 6 => bits w.rff.toNat 23 16 != 0
  | 7 => match s.barObj w.block b (e.source.toNat % 16) with
    | some o => o.broken
    | none => true
  | _ => false

/-- Evaluate every armed slot of a warp (R186, R188). -/
def evalEvents (s : State) (wid : WarpId) : State :=
  match s.warp? wid with
  | none => s
  | some w =>
    match s.block? w.block with
    | none => s
    | some b => s.fireSlots wid fun e => s.eventHolds wid w b e

/-- Drop the completed batches at the head of a warp's list, and fire the BATCH slots (R392, R393). -/
def settleBatches (s : State) (wid : WarpId) : State :=
  (s.updWarp wid fun w => { w with batches := w.batches.dropWhile fun b => b.cmds.isEmpty }).evalEvents wid

/-! Waits of synchronising instructions. -/

/-- Whether a flight of the slot's thread that meets a condition is not yet performed. -/
def threadHas (w : Warp) (x : PcSel) (f : Flight → Bool) : Bool :=
  w.flights.any fun g => (match x with | .a => g.inA | .b => g.inB) && !g.done && f g

/-- Whether every earlier memory operation of the thread but the posted ones is performed (R212, R220). -/
def threadQuiet (w : Warp) (x : PcSel) : Bool :=
  !threadHas w x fun g => ((roles g.instr).1 || (roles g.instr).2) && !isPosted g.instr

/-- Whether the thread's posted stores are all acknowledged (R220). -/
def postedQuiet (w : Warp) (x : PcSel) : Bool := !threadHas w x fun g => isPosted g.instr

/-- A release at a scope by an instruction of the synchronisation unit: none when it is done, else the state in which it
waits, with what the wait sets off (R207, R212). -/
def releaseAt (s : State) (x : Site) (scope : Nat) : Option State :=
  if !threadQuiet x.w x.sel then some s
  else if !s.releaseReady x.core x.w scope then some (s.startRelease x.core x.w scope)
  else none

/-- The Posted-remote trap of a rack-scope FENCE or barrier wait (R221, R248). -/
def postedTrap (s : State) (x : Site) : Result :=
  .next (s.raise x.wid { cause := 0x18, slot := x.sel, addr := pairVal x.w.rffol x.w.rffoh, lanes := x.sl.mask, instr := x.addr
                         aux := x.w.rff.setWidth 64 })

/-- What a rack-scope FENCE or barrier wait does before anything else (R220, R221): it waits for the thread's posted stores,
and takes the fault that RFF holds when no RFAULT slot is bound. -/
def rackGate (s : State) (x : Site) : Option Result :=
  if !postedQuiet x.w x.sel then some s.stall
  else if bits x.w.rff.toNat 23 16 != 0 && !hasRfault x.w then some (s.postedTrap x)
  else none

/-- The acquire of a wait that completes (R212). -/
def acquireAt (s : State) (x : Site) (scope : Nat) : State := if scope = 0 then s else s.dropAllClean x.core

/-- The arrival and the wait of one instruction take their places in the SC order one after the other (R400), the second a nanosecond after
the first (R216). -/
def scPlaces (s : State) (wid : WarpId) (x : PcSel) : State :=
  let s := (s.scFenced wid x).updCore wid.core fun k => { k with scFence := k.scFence.map fun p => (p.1 + 1, p.2) }
  s.updWarp wid fun w => w.setSlot x { w.slot x with scLast := laterSc (w.slot x).scLast (some (s.now + 1, false)) }

/-- An SC access of the synchronisation unit is answered: the spacing of the thread's next one counts from here (R216, R402). -/
def spaceNow (s : State) (x : Site) (far : Bool) : State := s.scAnswered x.wid x.sel far

/-- The site as the state now has it. -/
def reSite (s : State) (x : Site) : Site :=
  match s.warp? x.wid with
  | some w => x.withW w
  | none => x

/-- Read n bytes at the home for a unit of a core (R402): a line that the core itself pins is written back first (R204). -/
def homeRead (s : State) (unit : Nat) (c : CoreId) (pa n : Nat) : Access :=
  if (s.homeAt c.dieId pa).isNone then .fault 0x0E pa
  else if ((s.cached c pa).map (·.pin)).getD .no != .no then .busy
  else match s.reach c.dieId pa with
    | .nowhere => .fault 0x0E pa
    | .refused e p => .error e pa p
    | .at_ h pa s => s.readHome unit c h pa n id

/-- One atomic addition at the counter's home (R389). -/
def counterAdd (s : State) (c : CoreId) (va inc : Nat) : Access :=
  match (if va < 2 ^ 57 then s.translate c va else .fault 0x0C) with
  | .fault e => .fault e va
  | .busy => .busy
  | .ok e s =>
    if !permitted e true false then .fault 0x12 va
    else
      let pa := e.phys va
      match s.homeRead 1 c pa 8 with
      | .ok bs s =>
        match s.reach c.dieId pa with
        | .at_ h q s => .ok [] ((s.homeWrite h.dieId q (leBytes 8 ((leVal bs + inc) % 2 ^ 64))).dropClean c pa)
        | _ => .busy
      | .fault x _ => .fault x va
      | .error x _ p => .error x va p
      | .busy => .busy

/-- Write back a line of a virtual address that the core itself pins, so that its home can be reached (R204, R207). -/
def unpinVirtual (s : State) (c : CoreId) (va : Nat) : State :=
  match s.translate c va with
  | .ok e s => s.endPin c (e.phys va)
  | _ => s

end State

end Sys2Proof.Machine
end

