-- ==== Sys2Proof/Machine/Porter.lean ====
section
/-! DEFINITION. The CPY class (R387-R396): TCOPY, CFILL, codebooks, batches, chains, and the events by which the Porter
performs its commands. -/

namespace Sys2Proof.Machine

/-! The fields of a copy (R387). -/

/-- A copy: rows, bytes in a row, destination space, scratchpad source, expansion, strides, addresses, counter. -/
structure Copy where
  fill : Bool
  rows : Nat
  len : Nat
  space : Nat
  srcScratch : Bool
  expand : Bool
  ds : Int
  ss : Int
  dst : DWord
  src : DWord
  ctr : DWord
  inc : Nat
  deriving DecidableEq, Repr

def copyOf (fill : Bool) (dg sg : List Word) (src : DWord) : Copy :=
  let k := (dg.getD 2 0).toNat
  let r := (sg.getD 0 0).toNat
  { fill := fill, rows := r / 2 ^ 16, len := r % 2 ^ 16, space := bits k 31 30, srcScratch := bits k 29 29 == 1
    expand := bits k 28 28 == 1, ds := toSigned 24 k, ss := (sg.getD 1 0).toInt
    dst := pairVal (dg.getD 0 0) (dg.getD 1 0), src := src, ctr := pairVal (sg.getD 2 0) (sg.getD 3 0)
    inc := (dg.getD 3 0).toNat }

namespace Copy

/-- The values that are not legal (R387-R389); E is the entry size of the block's codebook, 0 for none. -/
def illegal (c : Copy) (dg sg : List Word) (e : Nat) : Bool :=
  let k := (dg.getD 2 0).toNat
  c.rows == 0 || c.len == 0 || c.space == 3 || bits k 27 24 != 0 ||
    (c.fill && (c.srcScratch || c.expand || sg.getD 1 0 != 0)) ||
    (c.space == 1 && dg.getD 1 0 != 0) ||
    (c.space == 2 && (dg.getD 1 0 != 0 || decide (128 ≤ (dg.getD 0 0).toNat) || bits k 23 0 != 0 || decide (128 < c.len))) ||
    (c.srcScratch && hiWord c.src != 0) || (c.expand && e != 0 && c.len % e != 0)

/-- The runs of bytes of a copy before any is performed: its rows (R219). -/
def runs (c : Copy) : List (Nat × Nat × Nat) := (List.range c.rows).map fun r => (r, 0, c.len)

/-- The bytes that a row reads at its source: an index for each entry of an expanding copy, none without a codebook. -/
def srcLen (c : Copy) (e : Nat) : Nat := if c.fill then 0 else if c.expand then (if e = 0 then 0 else c.len / e) else c.len

/-- The addresses of row r: a scratchpad row may lie outside every grant, so it is an integer. -/
def dstScratch (c : Copy) (r : Nat) : Int := (loWord c.dst).toNat + r * c.ds
def srcScratchAt (c : Copy) (r : Nat) : Int := (loWord c.src).toNat + r * c.ss
def dstPool (c : Copy) (r : Nat) : DWord := c.dst + BitVec.ofInt 64 (r * c.ds)
def srcPool (c : Copy) (r : Nat) : DWord := c.src + BitVec.ofInt 64 (r * c.ss)

/-- The first vector register of a copy into registers (R388). -/
def firstReg (c : Copy) : Nat := (loWord c.dst).toNat % 128

/-- A scratchpad row outside the block's grant (R387). -/
def badScratch (c : Copy) (b : Block) (e : Nat) : Option Int :=
  ((List.range c.rows).findSome? fun r =>
    if c.space = 1 && !Mloop.inGrant b c.len (c.dstScratch r) then some (c.dstScratch r)
    else if c.srcScratch && !Mloop.inGrant b (c.srcLen e) (c.srcScratchAt r) then some (c.srcScratchAt r)
    else none)

/-- A pool row or the counter with a bit of [63:57] set (R387). -/
def badAddress (c : Copy) : Option DWord :=
  match (List.range c.rows).findSome? fun r =>
    if c.space = 0 && !canonical (c.dstPool r) then some (c.dstPool r)
    else if !c.fill && !c.srcScratch && !canonical (c.srcPool r) then some (c.srcPool r)
    else none with
  | some a => some a
  | none => if canonical c.ctr then none else some c.ctr

end Copy

/-- The codebook's entries and entry size (R391); a block without one has neither. -/
def cbEntries (b : Block) : Nat := bits b.cbLen.toNat 24 16
def cbSize (b : Block) : Nat := b.cbLen.toNat % 2 ^ 16

/-- What an instruction of the queue is: a fill, a copy, a codebook load, and its XM word. -/
def copyForm : Instr → Option (Bool × Option Xm)
  | .tcopy _ => some (false, none)
  | .tcopyXm _ x => some (false, some x)
  | .cfill _ => some (true, none)
  | .cfillXm _ x => some (true, some x)
  | _ => none

namespace State

/-! Issue. -/

/-- Issue a Porter command from a site: it is in flight and in the core's queue (R387); a copy joins the open batch. -/
def enqueueCopy (s : State) (x : Site) (n : Nat) (f : Flight) (cmd : PorterCmd) (batch : Bool) : State :=
  let c := s.core x.core
  let f := { f with deps := depsOf x.w f, waiting := 1 }
  let s := s.setCore x.core { c with
    porter := c.porter ++ [{ cmd with id := c.nextCmd, fid := f.id, deps := f.deps }], nextCmd := c.nextCmd + 1 }
  let w := if batch then { x.w with openCmds := x.w.openCmds ++ [c.nextCmd] } else x.w
  (s.advance x n (addFlight w f)).postOnce .porterCommandComplete { c := x.core }

/-- A command as it issues, with the registers it read. -/
def copyCmd (x : Site) (i : Instr) (xm : Option Xm) (dg sg : List Word) (src : DWord) : PorterCmd :=
  { id := 0, w := x.wid, instr := i, addr := x.addr, fid := 0, by_ := x.sel, scope := (xm.map (·.scope.toNat)).getD 0
    order := (xm.map (·.order.toNat)).getD 0
    bar := match xm with
      | some m => if m.minor = 1 then some (bits m.low.toNat 14 11) else none
      | none => none
    dg := dg, src := src, sg := sg, deps := [], left := [], bad := none, owed := 0 }

/-- TCOPY and CFILL of a form (R387, R388): the issue checks in the order of their causes. -/
def issueCopy (s : State) (i : Instr) (r : Reg) (xm : Option Xm) (fill : Bool) : Result :=
  s.atSite fun x =>
    let d := r.d.toNat
    let a := r.a.toNat
    let b := r.b.toNat
    let dg := group4 x.w d
    let sg := group4 x.w b
    let src := if fill then (x.w.sreg a).setWidth 64 else x.w.spair a
    let cp := copyOf fill dg sg src
    let cmd := copyCmd x i xm dg sg src
    let e := cbSize x.b
    let regs := if cp.space = 2 then regsFrom cp.firstReg cp.rows else []
    if !([d, a, b].all scalarOk) || !(cmd.bar.all fun k => decide (k < x.b.bars)) then s.trapWhole x 4 0
    else if cp.illegal dg sg e then s.trapWhole x 2 0
    else if !regs.all (vectorOk x.w) then s.trapWhole x 4 0
    else
      s.holdFor x regs fun s x =>
        match s.regCheck x x.sl.mask [] [] regs true with
        | some q => q
        | none =>
          match cp.badScratch x.b e with
          | some p => s.trapWhole x 0x0B (BitVec.ofInt 64 (p % 2 ^ 32))
          | none =>
            match cmd.bar.map fun k => (s.barHome x.w.block x.b k, barAddr k) with
            | some (.fault, p) => s.trapWhole x 0x0B (BitVec.ofNat 64 p)
            | _ =>
              match cp.badAddress with
              | some p => s.trapWhole x 0x0C p
              | none =>
                if cp.ctr.toNat % 8 != 0 then s.trapWhole x 0x0D cp.ctr
                else if 16 ≤ (s.core x.core).porter.length || 8 ≤ x.w.countedFlights || (!regs.isEmpty && 8 ≤ x.w.longFlights) then s.stall
                else
                  let regsIn := dg ++ sg ++ (if fill then [x.w.sreg a] else [x.w.sreg a, x.w.sreg (a + 1)])
                  let f := { Flight.issue x i x.sl.mask regs true with
                    scope := cmd.scope, order := cmd.order, x := regsIn.map fun v => v.setWidth 64 }
                  .next (s.enqueueCopy x (if xm.isSome then 2 else 1) f { cmd with left := cp.runs } true)

/-- A queued expanding copy, or a queued codebook load, of a block (R391). -/
def cbBusy (s : State) (c : CoreId) (b : BlockId) (loads : Bool) : Bool :=
  (s.core c).porter.any fun p =>
    (match s.warp? p.w with
      | some w => w.block == b
      | none => false) &&
    match copyForm p.instr with
    | some (fill, _) => !loads && (copyOf fill p.dg p.sg p.src).expand
    | none => true

/-- CBLOAD (R391): the block's codebook is this one for every copy that issues from now on; its bytes are read by the
Porter. It waits at issue for earlier expanding copies and loads of the block. -/
def issueCbload (s : State) (i : Instr) (r : Reg) (xm : Option Xm) : Result :=
  s.atSite fun x =>
    let a := r.a.toNat
    let b := r.b.toNat
    let k := x.w.sreg b
    let n := bits k.toNat 24 16
    let e := k.toNat % 2 ^ 16
    let va := x.w.spair a
    if !([a, b].all scalarOk) then s.trapWhole x 4 0
    else if bits k.toNat 31 25 != 0 || n == 0 || decide (256 < n) || e == 0 || decide (16384 < n * e) then s.trapWhole x 2 0
    else if !canonical va then s.trapWhole x 0x0C va
    else if 16 ≤ (s.core x.core).porter.length || 8 ≤ x.w.countedFlights || s.cbBusy x.core x.w.block false then s.stall
    else
      let cmd := copyCmd x i xm [] [k] va
      let f := { Flight.issue x i x.sl.mask [] true with
        scope := cmd.scope, order := cmd.order, x := [x.w.sreg a, x.w.sreg (a + 1), k].map fun v => v.setWidth 64 }
      let b := { x.b with cbAddr := va, cbLen := k, cbData := none, cbUse := s.now }
      .next ((s.setBlock x.w.block b).enqueueCopy { x with b := b } (if xm.isSome then 2 else 1) f { cmd with bar := none } false)

end State

def execTcopy (r : Reg) (s : State) : Result := s.issueCopy (.tcopy r) r none false
def execTcopyXm (r : Reg) (x : Xm) (s : State) : Result := s.issueCopy (.tcopyXm r x) r (some x) false
def execCfill (r : Reg) (s : State) : Result := s.issueCopy (.cfill r) r none true
def execCfillXm (r : Reg) (x : Xm) (s : State) : Result := s.issueCopy (.cfillXm r x) r (some x) true
def execCbload (r : Reg) (s : State) : Result := s.issueCbload (.cbload r) r none
def execCbloadXm (r : Reg) (x : Xm) (s : State) : Result := s.issueCbload (.cbloadXm r x) r (some x)

/-- CBFREE (R391): it waits for the block's expanding copies and loads that are queued. -/
def execCbfree (_ : Reg) (s : State) : Result :=
  s.atSite fun x =>
    if s.cbBusy x.core x.w.block false then s.stall
    else
      let b := { x.b with cbAddr := 0, cbLen := 0, cbData := none }
      .next ((s.setBlock x.w.block b).advance { x with b := b } 1 x.w)

/-- CCLOSE (R392). -/
def execCclose (r : Reg) (s : State) : Result :=
  s.atSite fun x =>
    let d := r.d.toNat
    if !scalarOk d then s.trapWhole x 4 0
    else
      let n := x.w.lastBatch + 1
      let w := { x.w.writeNow x.sel d n with
        lastBatch := n, openCmds := [], batches := x.w.batches ++ [{ num := n, cmds := x.w.openCmds }] }
      .next ((s.advance x 1 w).settleBatches x.wid)

/-! Performing copies (R389, R390). -/

/-- The runs of n bytes from a that lie in one line each. -/
def lineRuns (a n : Nat) : Nat → List (Nat × Nat)
  | 0 => []
  | fuel + 1 => if n = 0 then [] else (a, State.inLine a n) :: lineRuns (a + State.inLine a n) (n - State.inLine a n) fuel

/-- The bytes that index x stands for in a codebook of entries of size e (R389). -/
def bookEntry (e entries : Nat) (book : List Byte) (x : Byte) : List Byte :=
  (List.range e).map fun j => if x.toNat < entries then book.getD (x.toNat * e + j) 0 else 0

namespace Copy

/-- How many bytes of a run, at offset o of row r, go together: those of one line at either end, and of one entry of a codebook. -/
def together (c : Copy) (e r o n : Nat) : Nat :=
  let n := if c.space = 0 then State.inLine ((c.dstPool r).toNat + o) n else n
  if c.fill then n
  else if c.expand then (if e = 0 then n else min n (e - o % e))
  else if c.srcScratch then n
  else State.inLine ((c.srcPool r).toNat + o) n

/-- Where such a run reads in its source row: offset and length. -/
def srcRun (c : Copy) (e o n : Nat) : Nat × Nat := if c.fill then (0, 0) else if c.expand then (if e = 0 then (0, 0) else (o / e, 1)) else (o, n)

/-- The bytes of the destination row that the bytes lo to hi of the source row give. -/
def given (c : Copy) (e lo hi : Nat) : Nat × Nat := if c.expand then (lo * e, hi * e) else (lo, hi)

end Copy

/-- What the next run of a copy comes to: its row waits, with whether its translations are known; the row faults; or the runs that are
left once the run is performed. -/
inductive RunR where
  | wait (s : State) (r : Nat) (known : Bool)
  | fault (s : State) (r row cause : Nat) (left : List (Nat × Nat × Nat))
  | went (s : State) (r : Nat) (left : List (Nat × Nat × Nat))
  deriving DecidableEq, Repr

namespace State

/-- Whether a posted store of a flight that is not acknowledged names a byte of a run of n bytes of the pool (R390). -/
def postedByte (s : State) (c : CoreId) (g : Flight) (pa n : Nat) : Bool :=
  let hits := fun (p : Word) (o k : Nat) => 
    match (s.symResolve p.toNat o).bind (s.homeAt { pkg := p.toNat, die := 0 }), s.homeAt c.dieId pa with
    | some h, some j => h.dieId == j.dieId && decide (physKey h < physKey j + n) && decide (physKey j < physKey h + k)
    | _, _ => false
  match g.instr, memOf g.instr with
  | .mcast _ _, _ => g.unperformed != 0 && match g.z[1]? with
    | some base => g.peers.any fun p => (activeLanes g.active).any fun m => hits p (base.toNat + 4 * m) 4
    | none => true
  | .rst _ _, some (o, _, _) => (activeLanes g.unperformed).any fun m => hits (g.peers.getD m 0) (g.addrOf m) o.width
  | _, _ => false

/-- The translations of a row of a copy (R390): a fault with its cause and the row's address. None: a walk is under way. -/
def rowCheck (s : State) (c : CoreId) (cp : Copy) (e r : Nat) : Option (Except (Nat × Nat) State) :=
  let one := fun (s : State) (write : Bool) (row n : Nat) =>
    (s.rowTrans c write (lineRuns row n (lineFuel n))).map fun x => match x with
      | .ok y => Except.ok y.2
      | .error k => Except.error (k, row)
  match (if cp.fill || cp.srcScratch then some (Except.ok s) else one s false (cp.srcPool r).toNat (cp.srcLen e)) with
  | some (.ok s) => if cp.space = 0 then one s true (cp.dstPool r).toNat cp.len else some (.ok s)
  | x => x

/-- A byte of a copy's row could not be read (R390): the failure is a posted-store fault at the row, and the bytes that its line gives are not
written; a register of the row is poisoned (R221). -/
def readLost (s : State) (cmd : PorterCmd) (cp : Copy) (e r o cause p : Nat) (left : List (Nat × Nat × Nat)) : RunR :=
  let row := (cp.srcPool r).toNat
  let (lo, hi) := lineSpan row (cp.srcRun e o 1).1
  let (lo, hi) := cp.given e lo hi
  let s := s.recordRff cmd.w cause p false (BitVec.ofNat 64 row)
  let v := fun w : Warp => w.vreg (cp.firstReg + r)
  let s := if cp.space = 2 then s.updWarp cmd.w fun w =>
      w.setV (cp.firstReg + r) { v w with poison := some { origin := cmd.addr, aux := BitVec.ofNat 64 cause } } else s
  .went s r (cutRuns left r lo hi)

/-- Bytes of a copy into a vector register (R388): byte k of the row goes into lane k / 4, whatever the mask. -/
def laneBytes (w : Warp) (d o : Nat) (bs : List Byte) : Warp :=
  let v := w.vreg d
  let ls := lanesOf fun l => BitVec.ofNat 32 (leVal ((List.range 4).map fun k =>
    if 4 * l + k < o then BitVec.ofNat 8 ((lane v.lanes l).toNat / 2 ^ (8 * k))
    else bs.getD (4 * l + k - o) (BitVec.ofNat 8 ((lane v.lanes l).toNat / 2 ^ (8 * k)))))
  w.setV d { v with lanes := ls }

/-- Write a run of a copy's row at its destination; `left` are the runs behind it. -/
def writeRun (s : State) (cmd : PorterCmd) (b : BlockId) (bk : Block) (cp : Copy) (r o : Nat) (bs : List Byte)
    (left : List (Nat × Nat × Nat)) : RunR :=
  match cp.space with
  | 0 =>
    let row := (cp.dstPool r).toNat
    match s.rowTrans cmd.w.core true [(row + o, bs.length)] with
    | some (.ok ([(pa, policy, _)], s)) =>
      let lost := fun (cause p : Nat) (s : State) =>
        let (lo, hi) := lineSpan row o
        RunR.went (s.recordRff cmd.w cause p false (BitVec.ofNat 64 row)) r (cutRuns left r lo hi)
      match s.writePlace 1 cmd.w.core b cmd.scope policy pa bs with
      | .ok _ s => .went (s.noteLine cmd.w pa) r left
      | .busy => .wait s r true
      | .error c _ p => lost c p s
      | .fault c _ => lost c cmd.w.core.pkg s
    | _ => .wait s r true
  | 1 => .went (s.scratchPut bk ((cp.dstScratch r).toNat + o) bs) r left
  | _ => .went (s.updWarp cmd.w fun w => laneBytes w (cp.firstReg + r) o bs) r left

/-- The next run of a copy (R219, R389), read at its source and written at its destination. `held` says of bytes of the pool that an earlier
posted store of the thread to them is not acknowledged. -/
def copyRun (s : State) (cmd : PorterCmd) (b : BlockId) (bk : Block) (cp : Copy) (e entries : Nat) (book : List Byte)
    (held : State → Nat → Nat → Bool) : RunR :=
  match s.pickRun cmd.left with
  | none => .went s 0 []
  | some ((r, o, n), rest, s) =>
    match s.rowCheck cmd.w.core cp e r with
    | none => .wait s r false
    | some (.error (cause, row)) => .fault s r row cause (cmd.left.filter (·.1 != r))
    | some (.ok s) =>
      let k := cp.together e r o n
      let left := if k < n then (r, o + k, n - k) :: rest else rest
      let (so, sn) := cp.srcRun e o k
      let cut := fun bs : List Byte => if cp.expand then ((bs.flatMap (bookEntry e entries book)).drop (o % e)).take k else bs
      if cp.fill then
        s.writeRun cmd b bk cp r o ((List.range k).map fun i => BitVec.ofNat 8 ((loWord cp.src).toNat / 2 ^ (8 * ((o + i) % 4)))) left
      else if sn = 0 then s.writeRun cmd b bk cp r o (List.replicate k 0) left
      else if cp.srcScratch then s.writeRun cmd b bk cp r o (cut (s.scratchBytes bk ((cp.srcScratchAt r).toNat + so) sn)) left
      else
        match s.rowTrans cmd.w.core false [((cp.srcPool r).toNat + so, sn)] with
        | some (.ok ([(pa, policy, _)], s)) =>
          if held s pa sn then .wait s r true
          else match s.readPlace 1 cmd.w.core cmd.scope policy pa sn with
            | .ok bs s => s.writeRun cmd b bk cp r o (cut bs) left
            | .busy => .wait s r true
            | .error c _ p => s.readLost cmd cp e r o c p left
            | .fault c _ => s.readLost cmd cp e r o c cmd.w.core.pkg left
        | _ => .wait s r true

/-- The counter addition of a command (R389, R390), with whether its translation faulted. None: the counter's line is busy. -/
def copyCount (s : State) (w : WarpId) (addr ctr : DWord) (inc : Nat) : Option (State × Bool) :=
  if ctr = 0 then some (s, false)
  else
    match s.counterAdd w.core ctr.toNat inc with
    | .ok _ s => some (s, false)
    | .busy => none
    | .fault c _ => some (s.engineFault w addr ctr c, true)
    | .error c _ p => some (s.recordRff w c p false ctr, false)

/-- Read the codebook of a block at its recorded address (R391): its bytes, or a fault with its address. -/
def readBook (s : State) (w : WarpId) (scope : Nat) (b : Block) : Access :=
  let n := cbEntries b * cbSize b
  s.readVirtual 1 w.core scope b.cbAddr.toNat n (lineFuel n)

/-- Keep a codebook in the core's store of 16 KiB (R391): codebooks of other blocks go, the least recently used first;
`fuel` bounds how many. -/
def evictBooks (s : State) (c : CoreId) (b : BlockId) : Nat → State
  | 0 => s
  | fuel + 1 =>
    let held := s.blocks.filter fun x => x.2.core == c && x.2.cbData.isSome
    let size := (held.map fun x => cbEntries x.2 * cbSize x.2).foldl (· + ·) 0
    if size ≤ 16384 then s
    else
      let others := held.filter fun x => x.1 != b
      match others.foldl (fun (m : Option (BlockId × Block)) x =>
          match m with
          | some y => if x.2.cbUse < y.2.cbUse then some x else m
          | none => some x) none with
      | some v => (s.updBlock v.1 fun k => { k with cbData := none }).evictBooks c b fuel
      | none => s

def keepBook (s : State) (c : CoreId) (b : BlockId) (bs : List Byte) : State :=
  (s.updBlock b fun k => { k with cbData := some bs, cbUse := s.now }).evictBooks c b 64

/-- Drop a block's codebook after a read fault (R391). -/
def loseBook (s : State) (b : BlockId) : State := s.updBlock b fun k => { k with cbAddr := 0, cbLen := 0, cbData := none }

/-- A command leaves the queue and its warp's batch (R390, R392). -/
def copyDone (s : State) (cmd : PorterCmd) : State :=
  let s := s.updCore cmd.w.core fun k => { k with porter := k.porter.filter (·.id != cmd.id) }
  let s := s.updWarp cmd.w fun w =>
    { w with flights := w.flights.filter (·.id != cmd.fid), openCmds := w.openCmds.filter (· != cmd.id)
             batches := w.batches.map fun b => { b with cmds := b.cmds.filter (· != cmd.id) } }
  s.settleBatches cmd.w

/-- The pending bytes of a command's barrier go down by one row, also by one whose page faulted (R389, R390). -/
def rowTake (s : State) (cmd : PorterCmd) (b : BlockId) (len : Nat) : State :=
  match cmd.bar, s.block? b with
  | some k, some bk => s.barTake b bk k len
  | _, _ => s

/-- No run of row r of a command is left: its pending bytes go down, also when its page faulted (R389, R390). Those of a command with
release wait for its release (R218), and those that come after a fault for its recording (R242). A register is full (R388). -/
def rowEnd (s : State) (cmd : PorterCmd) (b : BlockId) (cp : Copy) (r : Nat) : State × PorterCmd :=
  let s := if cp.space = 2 then s.updWarp cmd.w fun w => w.markFull (cp.firstReg + r) else s
  if hasRelease cmd.order || cmd.bad.isSome then (s, { cmd with owed := cmd.owed + 1 }) else (s.rowTake cmd b cp.len, cmd)

/-- A command with what it has still to do takes its place in the queue again. -/
def keepCmd (s : State) (cmd : PorterCmd) : State :=
  s.updCore cmd.w.core fun k => { k with porter := k.porter.map fun p => if p.id == cmd.id then cmd else p }

/-- The Porter has translated a row of a command that it has taken: the command counts no more toward the limit of 8 (R390). -/
def uncount (s : State) (cmd : PorterCmd) : State := s.updFlight cmd.w cmd.fid fun f => { f with counted := false }

/-- The completion notices of a copy whose rows are performed (R218, R390), after an Engine fault is recorded (R242): the decrements that are
owed, counter, batch. None: the counter's line is busy. -/
def copyNotices (s : State) (cmd : PorterCmd) (b : BlockId) (cp : Copy) : Option State :=
  let s := match cmd.bad with
    | some (row, c) => s.engineFault cmd.w cmd.addr (BitVec.ofNat 64 row) c
    | none => s
  let s := (List.range cmd.owed).foldl (fun s _ => s.rowTake cmd b cp.len) s
  (s.copyCount cmd.w cmd.addr cp.ctr cp.inc).map fun x => x.1.copyDone cmd

end State

/-- What the Porter can do with a command: it is done, it has come further, or it waits, with what the wait sets off. -/
inductive PorterR where
  | done (s : State)
  | more (s : State)
  | wait (s : State)
  deriving DecidableEq, Repr

namespace State

/-- The row of a copy that waits may lie in lines that are shut to the Porter (R122). -/
def senseRow (s : State) (c : CoreId) (cp : Copy) (e r : Nat) : State :=
  let s := if cp.fill || cp.srcScratch then s else s.sense 1 c (cp.srcPool r).toNat (cp.srcLen e)
  if cp.space = 0 then s.sense 1 c (cp.dstPool r).toNat cp.len else s

/-- A counter line that the own core pins goes back to its home before the addition (R204). -/
def freeCounter (s : State) (c : CoreId) (cp : Copy) : State :=
  if cp.ctr = 0 then s else (s.unpinVirtual c cp.ctr.toNat).sense 1 c cp.ctr.toNat 8

/-- The notices, once what a release waits for is done. -/
def finishCopy (s : State) (cmd : PorterCmd) (w : Warp) (cp : Copy) : PorterR :=
  if hasRelease cmd.order && !s.releaseReady cmd.w.core w cmd.scope then .wait (s.startRelease cmd.w.core w cmd.scope)
  else match s.copyNotices cmd w.block cp with
    | some s => .done s
    | none => .wait (s.freeCounter cmd.w.core cp)

/-- The state and the command after the next run of a copy, or a wait. -/
def afterRun (s : State) (cmd : PorterCmd) (b : BlockId) (cp : Copy) (r : Nat) (left : List (Nat × Nat × Nat)) : State × PorterCmd :=
  let cmd := { cmd with left := left }
  if left.any (·.1 == r) then (s, cmd) else s.rowEnd cmd b cp r

/-- The next run of a TCOPY or CFILL with its block's codebook as it now stands (R219, R389). -/
def nextRun (s : State) (cmd : PorterCmd) (w : Warp) (bk : Block) (f : Flight) (cp : Copy) : PorterR :=
  let held := fun (s : State) pa n => w.flights.any fun g => decide (g.id < f.id) && !g.done && sameThread g f && s.postedByte cmd.w.core g pa n
  match s.copyRun cmd w.block bk cp (cbSize bk) (cbEntries bk) (bk.cbData.getD []) held with
  | .wait s r known =>
    let s := s.senseRow cmd.w.core cp (cbSize bk) r
    .wait (if known then s.uncount cmd else s)
  | .fault s r row c left =>
    let (s, cmd) := s.afterRun { cmd with bad := lowRow cmd.bad row c } w.block cp r left
    .more ((s.uncount cmd).keepCmd cmd)
  | .went s r left =>
    let (s, cmd) := s.afterRun cmd w.block cp r left
    .more ((s.uncount cmd).keepCmd cmd)

/-- Perform the next run of a TCOPY or CFILL (R219, R389); after the last one it completes, one with release when its rows are
performed at its scope. -/
def performCopy (s : State) (cmd : PorterCmd) (w : Warp) (bk : Block) (f : Flight) (fill : Bool) : PorterR :=
  let cp := copyOf fill cmd.dg cmd.sg cmd.src
  if cmd.left.isEmpty then s.finishCopy cmd w cp
  else
    let s := if hasAcquire cmd.order && cmd.scope != 0 && cmd.left == cp.runs then s.dropAllClean cmd.w.core else s
    if cp.expand && bk.cbLen != 0 && bk.cbData.isNone then
      match s.readBook cmd.w cmd.scope bk with
      | .ok bs s => (s.keepBook cmd.w.core w.block bs).nextRun cmd w { bk with cbData := some bs } f cp
      | .busy => .wait (s.sense 1 cmd.w.core bk.cbAddr.toNat (cbEntries bk * cbSize bk))
      | .fault c a =>
        ((s.engineFault cmd.w cmd.addr (BitVec.ofNat 64 a) c).loseBook w.block).nextRun cmd w { bk with cbAddr := 0, cbLen := 0 } f cp
      | .error c a p =>
        ((s.recordRff cmd.w c p false (BitVec.ofNat 64 a)).loseBook w.block).nextRun cmd w { bk with cbAddr := 0, cbLen := 0 } f cp
    else (if cp.expand then s.updBlock w.block fun k => { k with cbUse := s.now } else s).nextRun cmd w bk f cp

/-- Perform a CBLOAD (R391). -/
def performBook (s : State) (cmd : PorterCmd) (w : Warp) (bk : Block) : PorterR :=
  let s := if hasAcquire cmd.order && cmd.scope != 0 then s.dropAllClean cmd.w.core else s
  match s.readBook cmd.w cmd.scope bk with
  | .ok bs s => .done ((s.keepBook cmd.w.core w.block bs).copyDone cmd)
  | .busy => .wait (s.sense 1 cmd.w.core bk.cbAddr.toNat (cbEntries bk * cbSize bk))
  | .fault c a => .done (((s.engineFault cmd.w cmd.addr (BitVec.ofNat 64 a) c).loseBook w.block).copyDone cmd)
  | .error c a p => .done (((s.recordRff cmd.w c p false (BitVec.ofNat 64 a)).loseBook w.block).copyDone cmd)

/-- Try one command of the queue. -/
def tryCopy (s : State) (cmd : PorterCmd) : PorterR :=
  match s.warp? cmd.w with
  | none => .done (s.copyDone cmd)
  | some w =>
    match w.flight? cmd.fid, s.block? w.block with
    | some f, some bk =>
      if !depsMet w f then .wait s
      else
        match copyForm cmd.instr with
        | none => s.performBook cmd w bk
        | some (fill, _) =>
          let cp := copyOf fill cmd.dg cmd.sg cmd.src
          if cp.expand && (s.core cmd.w.core).porter.any fun p => decide (p.id < cmd.id) && (copyForm p.instr).isNone &&
              (match s.warp? p.w with
                | some v => v.block == w.block
                | none => false) then .wait s
          else s.performCopy cmd w bk f fill
    | _, _ => .done (s.copyDone cmd)

/-- The first command of the queue that can go on does so. -/
def runPorter (s : State) (c : CoreId) : List PorterCmd → State
  | [] =>
    if (s.core c).porter.isEmpty then s else ({ s with free := s.free + 1 } : State).afterOnce 1 .porterCommandComplete { c := c }
  | cmd :: cs =>
    match s.tryCopy cmd with
    | .done s => if (s.core c).porter.isEmpty then s else s.postOnce .porterCommandComplete { c := c }
    | .more s => s.postOnce .porterCommandComplete { c := c }
    | .wait s => s.runPorter c cs

end State

/-- PORTER_COMMAND_COMPLETE (R390): a command of the core's queue is performed and completes; a frozen Porter stops between two
transfers (R123). -/
def execPorterCommandComplete (s : State) : Result :=
  let c := s.arg.c
  .next (if (s.core c).porterFrozen then (if (s.core c).porter.isEmpty then s else s.afterOnce 1000 .porterCommandComplete { c := c })
    else s.runPorter c (s.core c).porter)

/-! Chains (R394-R396). -/

namespace State

/-- CCHAIN of a form (R394): its channel starts at once when no record of the channel is in progress and what the chain must wait
for is performed (R218, R390); else it is in flight until then (R245). -/
def issueChain (s : State) (r : Reg) (xm : Option Xm) : Result :=
  s.atSite fun x =>
    let a := r.a.toNat
    let ch := r.d.toNat
    let va := x.w.spair a
    let order := (xm.map (·.order.toNat)).getD 0
    if !scalarOk a then s.trapWhole x 4 0
    else if !canonical va then s.trapWhole x 0x0C va
    else if va.toNat % 64 != 0 then s.trapWhole x 0x0D va
    else
      let n := if xm.isSome then 2 else 1
      let f := { Flight.issue x (match xm with
          | some m => .cchainXm r m
          | none => .cchain r) x.sl.mask [] true with
        scope := (xm.map (·.scope.toNat)).getD 0, order := order, waiting := 1
        x := [x.w.sreg a, x.w.sreg (a + 1)].map fun v => v.setWidth 64 }
      if !(chan x.b ch).doing.isSome && (depsOf x.w f).isEmpty && !x.w.flights.any (fun g => chainsTo ch g.instr) then
        let s := s.startChain x.w ch f
        .next (s.advance { x with b := (s.block? x.w.block).getD x.b } n x.w)
      else if 8 ≤ x.w.countedFlights then s.stall
      else s.launchFlight x n f [] 0

end State

def execCchain (r : Reg) (s : State) : Result := s.issueChain r none
def execCchainXm (r : Reg) (x : Xm) (s : State) : Result := s.issueChain r (some x)

/-- CSTAT (R396); a CCHAIN of the warp for the channel that is still in flight comes first. -/
def execCstat (r : Reg) (s : State) : Result :=
  s.atSite fun x =>
    if !scalarOk r.d.toNat then s.trapWhole x 4 0
    else if x.w.flights.any fun g => chainsTo r.a.toNat g.instr then s.stall
    else
      let c := State.chan x.b r.a.toNat
      .next (s.advance x 1 (x.w.writeNow x.sel r.d.toNat (BitVec.ofNat 32 (c.state * 2 ^ 30 + min c.records (2 ^ 24 - 1)))))

/-- The copy that a record describes (R394). -/
def recordCopy (rec : List Byte) : Copy :=
  let k := field rec 32 4
  { fill := false, rows := field rec 26 2, len := field rec 24 2, space := bits k 31 31, srcScratch := bits k 30 30 == 1
    expand := false, ds := toSigned 24 k, ss := toSigned 32 (field rec 28 4), dst := BitVec.ofNat 64 (field rec 16 8)
    src := BitVec.ofNat 64 (field rec 8 8), ctr := BitVec.ofNat 64 (field rec 40 8), inc := field rec 48 4 }

/-- A field that breaks the table of R394. -/
def recordBad (rec : List Byte) : Bool :=
  field rec 52 12 != 0 || field rec 40 8 % 8 != 0 || bits (field rec 32 4) 29 24 != 0 || field rec 36 4 / 2 != 0 ||
    field rec 26 2 == 0 || field rec 24 2 == 0 || field rec 0 8 % 64 != 0

/-- A scratchpad address of a record that does not lie in the block's grant. -/
def recordOutside (cp : Copy) (b : Block) : Option Int :=
  if cp.space = 1 && hiWord cp.dst != 0 then some (cp.dst.toNat : Int)
  else if cp.srcScratch && hiWord cp.src != 0 then some (cp.src.toNat : Int)
  else cp.badScratch b 0

namespace State

/-- The warp that issued a channel's CCHAIN. -/
def chanWarp (s : State) (b : BlockId) (c : Chan) : WarpId :=
  ((s.warps.find? fun x => x.2.block == b && x.2.num == c.warp).map (·.1)).getD default

/-- A fault stops the channel, and the warp gets an Engine fault (R395). -/
def stopChain (s : State) (b : BlockId) (ch : Nat) (c : Chan) (cause : Nat) (addr : DWord) : State :=
  (s.engineFault (s.chanWarp b c) c.origin addr cause).setChan b ch { c with state := 3, doing := none }

/-- The channel looks at its record again later. -/
def chainLater (s : State) (b : BlockId) (ch : Nat) : State := s.afterOnce 1 .chainRecord { b := b, i := ch }

/-- The notices of a record whose rows are performed (R395): counter, owner, the next record. A row that faulted, or the counter, stops the
channel after the counter's addition (R390). -/
def chainNotices (s : State) (b : BlockId) (ch : Nat) (c : Chan) (rec : List Byte) (w : Warp) : State :=
  let wid := s.chanWarp b c
  let cp := recordCopy rec
  if hasRelease c.order && !s.releaseReady wid.core w c.scope then (s.startRelease wid.core w c.scope).chainLater b ch
  else
    let u := match c.bad with
      | some (row, k) => s.engineFault wid c.origin (BitVec.ofNat 64 row) k
      | none => s
    match u.copyCount wid c.origin cp.ctr cp.inc with
    | none => (s.freeCounter wid.core cp).chainLater b ch
    | some (t, hit) =>
      if hit || c.bad.isSome then t.setChan b ch { c with state := 3, doing := none }
      else match t.writeVirtual 1 wid.core b c.scope (c.head.toNat + 36) (leBytes 4 0) 2 with
      | .busy => (s.sense 1 wid.core (c.head.toNat + 36) 4).chainLater b ch
      | .fault e a => t.stopChain b ch c e (BitVec.ofNat 64 a)
      | .error e a p => (t.recordRff wid e p false (BitVec.ofNat 64 a)).setChan b ch { c with state := 3, doing := none }
      | .ok _ t =>
        let next := field rec 0 8
        let c := { c with records := c.records + 1, doing := none }
        if next = 0 then t.setChan b ch { c with state := 0 }
        else (t.setChan b ch { c with head := BitVec.ofNat 64 next }).postOnce .chainRecord { b := b, i := ch }

/-- The Porter's command for the runs of a channel's record. -/
def chainCmd (s : State) (b : BlockId) (c : Chan) (cp : Copy) : PorterCmd :=
  { id := 0, w := s.chanWarp b c, instr := .nop default, addr := c.origin, fid := 0, by_ := .a, scope := c.scope, order := c.order
    bar := none, dg := [], src := cp.src, sg := [], deps := [], left := c.left, bad := none, owed := 0 }

/-- The next run of a channel's record in progress (R219, R395); after the last one come the record's notices. -/
def chainRow (s : State) (b : BlockId) (bk : Block) (ch : Nat) (c : Chan) (rec : List Byte) (w : Warp) : State :=
  let wid := s.chanWarp b c
  let cp := recordCopy rec
  if c.left.isEmpty then s.chainNotices b ch c rec w
  else
    let held := fun (s : State) pa n => w.flights.any fun g => c.after.contains g.id && !g.done && s.postedByte wid.core g pa n
    let on := fun s : State => s.postOnce .chainRecord { b := b, i := ch }
    match s.copyRun (s.chainCmd b c cp) b bk cp 0 0 [] held with
    | .wait s r _ => ({ s.senseRow wid.core cp 0 r with free := s.free + 1 } : State).chainLater b ch
    | .fault s _ row k left => on (s.setChan b ch { c with left := left, bad := lowRow c.bad row k })
    | .went s _ left => on (s.setChan b ch { c with left := left })

/-- One step of a channel (R395): a row of the record in progress, or a look at its next record. -/
def runChain (s : State) (b : BlockId) (ch : Nat) : State :=
  match s.block? b with
  | none => s
  | some bk =>
    let c := chan bk ch
    let wid := s.chanWarp b c
    if (s.core wid.core).porterFrozen then s.afterOnce 1000 .chainRecord { b := b, i := ch }
    else match s.warp? wid, c.doing with
    | none, _ => s
    | some w, some rec => s.chainRow b bk ch c rec w
    | some w, none =>
      if (c.state != 1 && c.state != 2) || bk.state != 0 then s
      else
        let s := if hasAcquire c.order && c.scope != 0 then s.dropAllClean wid.core else s
        match s.readVirtual 1 wid.core c.scope c.head.toNat 64 2 with
        | .busy => (s.sense 1 wid.core c.head.toNat 64).chainLater b ch
        | .fault e a => s.stopChain b ch c e (BitVec.ofNat 64 a)
        | .error e a p => (s.recordRff wid e p false (BitVec.ofNat 64 a)).setChan b ch { c with state := 3 }
        | .ok rec s =>
          if field rec 36 4 % 2 = 0 then (s.setChan b ch { c with state := 2 }).afterOnce 1000 .chainPoll { b := b, i := ch }
          else if recordBad rec then s.stopChain b ch c 0 c.head
          else
            match recordOutside (recordCopy rec) bk with
            | some a => s.stopChain b ch c 0x0B (BitVec.ofInt 64 (a % 2 ^ 64))
            | none =>
              let c := { c with state := 1, doing := some rec, left := (recordCopy rec).runs, bad := none }
              (s.setChan b ch c).chainRow b bk ch c rec w

end State

/-- CHAIN_RECORD (R395). -/
def execChainRecord (s : State) : Result := .next (s.runChain s.arg.b s.arg.i)

/-- CHAIN_POLL (R395): a waiting channel reads its record again. -/
def execChainPoll (s : State) : Result :=
  .next <|
    match s.block? s.arg.b with
    | some bk => if (State.chan bk s.arg.i).state = 2 then s.runChain s.arg.b s.arg.i else s
    | none => s

end Sys2Proof.Machine
end

