-- ==== Sys2Proof/Machine/Sync.lean ====
section
/-! DEFINITION. The SYNC class (R397-R407, R187, R181): barriers, FENCE, waits, event slots, mailboxes, REGROUP and UNGROUP,
YIELD, and REGROUP_COMPLETE and EVENT_TIMER_FIRE. -/

namespace Sys2Proof.Machine

/-! Barriers (R399, R400). -/

/-- The effective scope Se (R400). -/
def effScope (b : Block) (k : Nat) (xm : Option Xm) : Nat :=
  max ((xm.map (·.scope.toNat)).getD 0) (if k < 8 then 0 else if b.straddled then 2 else 1)

namespace State

/-- The checks that every barrier instruction makes at issue (R385, R397). -/
def barCheck (s : State) (x : Site) (k : Nat) (regs : List Nat) : Option Result :=
  if !(regs.all scalarOk) || decide (x.b.bars ≤ k) then some (s.trapWhole x 4 0)
  else match s.barHome x.w.block x.b k with
    | .fault => some (s.trapWhole x 0x0B (BitVec.ofNat 64 (barAddr k)))
    | _ => none

/-- A wait at slot k (R399): complete at once when the warp has not arrived; otherwise until the phase changes or the object
is broken. -/
def barWait (s : State) (x : Site) (n k : Nat) (mask : Word) (scope : Nat) (sc : Bool) : Result :=
  let finish : State → Warp → Result := fun s w =>
    if sc && !s.scReady x.sl false then s.stall
    else
      let s := s.acquireAt x scope
      let s := s.advance x n w
      .next (if sc then s.scFenced x.wid x.sel else s)
  if !x.w.arrA.getLsbD k then finish s x.w
  else
    let done := finish s { x.w with arrA := x.w.arrA &&& ~~~((1 : BitVec 16) <<< k) }
    match s.barObj x.w.block x.b k with
    | none => done
    | some o =>
      if o.broken || o.phase != x.w.arrF.getLsbD k then done
      else if o.maskrec && mask != o.mask then s.trapWhole x 8 0
      else s.stall

/-- BAR of a form (R399); with order 3 its arrival and its wait each have a place in the SC order (R400). -/
def barOf (s : State) (r : Reg) (xm : Option Xm) : Result :=
  s.atSite fun x =>
    let k := r.d.toNat
    let n := if xm.isSome then 2 else 1
    let mask := x.w.sreg r.a.toNat
    let se := effScope x.b k xm
    let sc := (xm.map (·.order.toNat)).getD 0 == 3
    match s.barCheck x k [r.a.toNat] with
    | some q => q
    | none =>
      match (if se = 4 then s.rackGate x else none) with
      | some q => q
      | none =>
        if x.w.arrA.getLsbD k then s.barWait x n k mask se sc
        else
          match s.releaseAt x se with
          | some s => s.stall
          | none =>
            if sc && !s.scReady x.sl false then s.stall
            else match s.arriveBar x k mask 0 with
            | .wait => s.stall
            | .member => s.trapWhole x 8 0
            | .broken s =>
              let s := (s.acquireAt x se).advance x n (s.reSite x).w
              .next (if sc then s.scPlaces x.wid x.sel else s)
            | .arrived s =>
              let s := if sc then s.scFenced x.wid x.sel else s
              s.barWait (s.reSite x) n k mask se sc

/-- BARA of a form (R399). -/
def baraOf (s : State) (r : Reg) (xm : Option Xm) : Result :=
  s.atSite fun x =>
    let k := r.d.toNat
    let n := if xm.isSome then 2 else 1
    let sc := (xm.map (·.order.toNat)).getD 0 == 3
    match s.barCheck x k [r.a.toNat, r.b.toNat] with
    | some q => q
    | none =>
      match s.releaseAt x (effScope x.b k xm) with
      | some s => s.stall
      | none =>
        if sc && !s.scReady x.sl false then s.stall
        else match s.arriveBar x k (x.w.sreg r.a.toNat) (x.w.sreg r.b.toNat).toNat with
        | .wait => s.stall
        | .member => s.trapWhole x 8 0
        | .broken s =>
          let s := s.advance x n (s.reSite x).w
          .next (if sc then s.scFenced x.wid x.sel else s)
        | .arrived s =>
          let x := s.reSite x
          let s := s.advance x n x.w
          .next (if sc then s.scFenced x.wid x.sel else s)

/-- BARW of a form (R399, R400). -/
def barwOf (s : State) (r : Reg) (xm : Option Xm) : Result :=
  s.atSite fun x =>
    let k := r.d.toNat
    let se := effScope x.b k xm
    let order := (xm.map (·.order.toNat)).getD 0
    match s.barCheck x k [r.a.toNat] with
    | some q => q
    | none =>
      match (if se = 4 then s.rackGate x else none) with
      | some q => q
      | none =>
        match (if hasRelease order then s.releaseAt x se else none) with
        | some s => s.stall
        | none => s.barWait x (if xm.isSome then 2 else 1) k (x.w.sreg r.a.toNat) se (order == 3)

end State

def execBar (r : Reg) (s : State) : Result := s.barOf r none
def execBarXm (r : Reg) (x : Xm) (s : State) : Result := s.barOf r (some x)
def execBara (r : Reg) (s : State) : Result := s.baraOf r none
def execBaraXm (r : Reg) (x : Xm) (s : State) : Result := s.baraOf r (some x)
def execBarw (r : Reg) (s : State) : Result := s.barwOf r none
def execBarwXm (r : Reg) (x : Xm) (s : State) : Result := s.barwOf r (some x)

/-- BARINIT (R399). -/
def execBarinit (r : Reg) (s : State) : Result :=
  s.atSite fun x =>
    let k := r.d.toNat
    match s.barCheck x k [r.a.toNat] with
    | some q => q
    | none =>
      let e := (x.w.sreg r.a.toNat).toNat % 2 ^ 16
      let s := match s.barHome x.w.block x.b k, s.barObj x.w.block x.b k with
        | .at_ t off, some o =>
          s.setBar t off { o with expected := e, arrivals := 0, pending := 0, maskrec := false, broken := false }
        | _, _ => s
      .next (s.advance x 1 x.w)

/-! FENCE (R401). -/

/-- FENCE in its short form has no effect (R401). -/
def execFence (_ : Reg) (s : State) : Result := s.atSite fun x => .next (s.advance x 1 x.w)

namespace State

/-- The effect of a FENCE whose waits are over: its acquire (R212); after an SC FENCE the thread's next SC access waits 1 ns. -/
def fenced (s : State) (x : Site) (scope : Nat) (order : Nat) : State :=
  let s := if hasAcquire order then s.acquireAt x scope else s
  if order = 3 then s.scFenced x.wid x.sel else s

/-- Whether what a FENCE orders before itself is not yet performed (R212, R401). -/
def fenceWaits (s : State) (x : Site) (scope order : Nat) : Bool :=
  (hasRelease order && (s.releaseAt x scope).isSome) || (hasAcquire order && State.threadHas x.w x.sel fun g => (roles g.instr).1) ||
    (order == 3 && !s.scReady x.sl false)

end State

/-- FENCE with a scope and an order (R212, R220, R401): it takes effect at once when what it orders before itself is performed; else
it is in flight until then, and what it orders behind itself waits for it (R245, R252). -/
def execFenceXm (r : Reg) (xm : Xm) (s : State) : Result :=
  s.atSite fun x =>
    let scope := xm.scope.toNat
    let order := xm.order.toNat
    match (if scope = 4 then s.rackGate x else none) with
    | some q => q
    | none =>
      if !s.fenceWaits x scope order then
        let s := s.fenced x scope order
        .next (s.advance (s.reSite x) 2 (s.reSite x).w)
      else if 8 ≤ x.w.countedFlights then s.stall
      else s.launchFlight x 2 { Flight.issue x (.fenceXm r xm) x.sl.mask [] true with
        scope := scope, order := order, waiting := BitVec.allOnes 32 } [] 0

/-! Batches and counters (R393, R402). -/

/-- WAITB (R393). -/
def execWaitb (r : Reg) (s : State) : Result :=
  s.atSite fun x =>
    if !scalarOk r.a.toNat then s.trapWhole x 4 0
    else if State.batchesDone x.w (x.w.sreg r.a.toNat) then .next (s.advance x 1 x.w)
    else s.stall

namespace State

/-- A WAITC whose counter is translated looks at it at its home (R402). The home has evaluated it after every write since (R186). -/
def awaitCount (s : State) (x : Site) (va : DWord) (a : Await) (scope n : Nat) : Result :=
  let home := s.homeAt x.core.dieId a.pa
  let far := (home.map (·.pkg)).getD x.core.pkg != x.core.pkg
  let finish : State → Result := fun s =>
    let s := (s.acquireAt x scope).advance x n x.w
    .next (if a.sc then s.spaceNow x far else s)
  let stamp := fun s : State => match home with
    | some h => if a.sc then s.stampSc h 3 (coreEndpoint x.core) else s
    | none => s
  if a.hit then finish s
  else if a.sc && home.any fun h => s.scBusy h 3 then s.stall
  else
    match s.homeRead 0 x.core a.pa 8 with
    | .busy => ((s.endPin x.core a.pa).sense 0 x.core va.toNat 8).stall
    | .fault c _ => s.trapWhole x c va
    | .error 4 _ _ => finish s
    | .error _ _ _ => s.stall
    | .ok bs s => if a.target.toNat ≤ leVal bs then finish (stamp s) else s.stall

/-- WAITC of a form (R402): the counter's address is translated once, and the slot stands at its home until the condition holds. -/
def waitcOf (s : State) (r : Reg) (xm : Option Xm) : Result :=
  s.atSite fun x =>
    let a := r.a.toNat
    let b := r.b.toNat
    let va := x.w.spair a
    let scope := (xm.map (·.scope.toNat)).getD 0
    let sc := (xm.map (·.order.toNat)).getD 0 == 3
    let n := if xm.isSome then 2 else 1
    if !([a, b].all scalarOk) then s.trapWhole x 4 0
    else if !canonical va then s.trapWhole x 0x0C va
    else if va.toNat % 8 != 0 then s.trapWhole x 0x0D va
    else
      match x.sl.await with
      | some a => s.awaitCount x va a scope n
      | none =>
        match s.translate x.core va.toNat with
        | .busy => s.stall
        | .fault c => s.trapWhole x c va
        | .ok e s =>
          if !permitted e false false then s.trapWhole x 0x12 va
          else
            let pa := e.phys va.toNat
            let far := ((s.homeAt x.core.dieId pa).map (·.pkg)).getD x.core.pkg != x.core.pkg
            if sc && (!s.scReady x.sl far || threadHas x.w x.sel fun g => g.order == 3) then s.stall
            else
              let a : Await := { pa := pa, target := x.w.spair b, sc := sc, hit := false }
              let w := x.w.setSlot x.sel { x.sl with await := some a }
              (s.setWarp x.wid w).awaitCount (x.withW w) va a scope n

end State

def execWaitc (r : Reg) (s : State) : Result := s.waitcOf r none
def execWaitcXm (r : Reg) (x : Xm) (s : State) : Result := s.waitcOf r (some x)

/-! Events (R185-R187, R403, R404). -/

namespace State

/-- Bind slot i of the warp and evaluate its condition at once (R186). -/
def bindEvent (s : State) (x : Site) (i : Nat) (e : EventSlot) : State :=
  let one : BitVec 8 := 1 <<< i
  let fire := s.eventHolds x.wid x.w x.b e
  let w := { x.w with
    evp := if fire then x.w.evp ||| one else x.w.evp &&& ~~~one
    events := lput x.w.events i { e with armed := !fire, fired := fire } EventSlot.unbound }
  s.advance x 2 w

end State

/-- EVBIND (R403). -/
def execEvbind (r : Reg) (xi : Word) (s : State) : Result :=
  s.atSite fun x =>
    let i := r.d.toNat
    let kind := r.b.toNat
    let a := r.a.toNat
    let v := x.w.sreg a
    let wide := kind == 3 || kind == 5
    let e : EventSlot :=
      { EventSlot.unbound with
        kind := kind, handler := x.wordAddr + sext64 xi * 4
        source := if kind = 6 then 0 else if wide then x.w.spair a else v.setWidth 64
        target := if kind = 3 then x.w.spair (a + 2) else if kind = 5 then x.w.spair a else 0 }
    if kind != 6 && !scalarOk a then s.trapWhole x 4 0
    else
      match kind with
      | 2 => .next (s.bindEvent x i e)
      | 3 =>
        let va := x.w.spair a
        if va.toNat % 8 != 0 then s.trapWhole x 2 0
        else if !canonical va then s.trapWhole x 0x0C va
        else
          match s.translate x.core va.toNat with
          | .busy => s.stall
          | .fault c => s.trapWhole x c va
          | .ok t s =>
            if !permitted t false false then s.trapWhole x 0x12 va
            else if (s.homeAt x.core.dieId (t.phys va.toNat)).isNone then s.trapWhole x 0x0E va
            else if (s.homeAt x.core.dieId (t.phys va.toNat)).any (s.shut 0 x.core) then (s.sense 0 x.core va.toNat 8).stall
            else .next (s.bindEvent x i { e with pa := t.phys va.toNat })
      | 4 => if 16 ≤ v.toNat then s.trapWhole x 2 0 else .next (s.bindEvent x i e)
      | 5 => .next (s.bindEvent x i e)
      | 6 => .next (s.bindEvent x i e)
      | _ =>
        if decide (16 ≤ v.toNat) || decide (x.b.bars ≤ v.toNat) then s.trapWhole x 2 0
        else
          match s.barHome x.w.block x.b v.toNat with
          | .fault => s.trapWhole x 0x0B (BitVec.ofNat 64 (State.barAddr v.toNat))
          | _ => .next (s.bindEvent x i { e with phase := ((s.barObj x.w.block x.b v.toNat).map (·.phase)).getD false })

/-- EVMASK (R404). -/
def execEvmask (r : Ri) (s : State) : Result :=
  s.atSite fun x => .next (s.advance x 1 { x.w with evm := r.imm.truncate 8 })

/-- EVCLR (R404). -/
def execEvclr (r : Ri) (s : State) : Result :=
  s.atSite fun x =>
    let m : BitVec 8 := r.imm.truncate 8
    let es := (List.range 8).map fun i => if m.getLsbD i then EventSlot.unbound else x.w.events.getD i EventSlot.unbound
    .next (s.advance x 1 { x.w with evp := x.w.evp &&& ~~~m, events := es })

/-- WAITANY (R187). -/
def execWaitany (_ : Reg) (s : State) : Result :=
  s.atSite fun x =>
    let hit := x.w.evp &&& x.w.evm
    match (List.range 8).find? fun i => hit.getLsbD i with
    | none => .next (s.setWarp x.wid (x.w.setSlot x.sel { x.sl with parkedWait := true }))
    | some i =>
      let w := { x.w with evp := x.w.evp &&& ~~~((1 : BitVec 8) <<< i) }
      .next (s.advanceTo x 1 w (some (w.events.getD i EventSlot.unbound).handler))

/-- EVENT_TIMER_FIRE (R186): the slots whose target the warp timer has reached. -/
def execEventTimerFire (s : State) : Result :=
  .next <|
    match s.warp? s.arg.w with
    | some w => s.fireSlots s.arg.w fun e => e.kind == 5 && decide (e.target.toNat ≤ w.timer.toNat)
    | none => s

/-! Mailboxes (R405, R406). -/

namespace State

/-- Give the messages of a core's mailboxes to the receives that wait, in issue order (R406). -/
def pumpMail (s : State) (c : CoreId) : List (Nat × WarpId × Nat) → State
  | [] => s
  | (m, wid, id) :: rs =>
    match tget (s.core c).mbox m [], s.flight? wid id with
    | msg :: rest, some _ =>
      let s := s.updCore c fun k => { k with mbox := tset k.mbox m rest, recv := k.recv.erase (m, wid, id) }
      let got := (List.range 4).map fun l => (l, BitVec.ofNat 64 (msg.toNat / 2 ^ (32 * l) % 2 ^ 32))
      ((s.updFlight wid id fun f => { f with got := got, waiting := 0 }).endFlight wid id).pumpMail c rs
    | _, none => (s.updCore c fun k => { k with recv := k.recv.erase (m, wid, id) }).pumpMail c rs
    | [], _ => s.pumpMail c rs

end State

/-- MBXSEND (R405): it takes a tag at issue (R44), unless its destination is none to which a message goes. -/
def execMbxsend (r : Reg) (s : State) : Result :=
  s.atSite fun x =>
    match s.regCheck x (0xF : Mask) [(r.a.toNat, r.fa)] [r.b.toNat] [] false with
    | some q => q
    | none =>
      let v := x.w.sreg r.b.toNat
      if bits v.toNat 13 4 != 0 then s.trapWhole x 2 0
      else
        let tags := if s.isMember (bits v.toNat 31 23) && decide (bits v.toNat 22 20 ≤ 3) then 1 else 0
        if 8 ≤ x.w.countedFlights || s.freeTags x.core < tags then s.stall
        else
          let f := { Flight.issue x (.mbxsend r) x.sl.mask [] true with
            scope := 4, order := 2, waiting := 1, x := [v.setWidth 64], y := capture x.w [r.a.toNat] }
          s.launchFlight x 1 f [r.a.toNat] tags

/-- MBXRECV (R406). -/
def execMbxrecv (r : Reg) (s : State) : Result :=
  s.atSite fun x =>
    let d := r.d.toNat
    s.holdFor x [d] fun s x =>
      match s.regCheck x (0xF : Mask) [] [] [d] true with
      | some q => q
      | none =>
        if 8 ≤ x.w.longFlights then s.stall
        else
          let f := { Flight.issue x (.mbxrecv r) x.sl.mask [d] false with scope := 4, order := 1, waiting := 1 }
          let s := s.advance x 1 (addFlight x.w f)
          let s := s.updCore x.core fun k => { k with recv := k.recv ++ [(r.b.toNat, x.wid, f.id)] }
          .next (s.pumpMail x.core (s.core x.core).recv)

/-! REGROUP and UNGROUP (R181, R407). -/

namespace State

/-- The warps of a block that have not exited. -/
def liveWarps (s : State) (b : BlockId) : List (WarpId × Warp) := s.warps.filter fun x => x.2.block == b && !x.2.exited

/-- A warp arrives at a REGROUP or UNGROUP (R181). One that finds a warp of its block waiting in the other kind faults, as a different
predicate register does (log 136, a choice). -/
def regroupOf (s : State) (r : Reg) (re : Bool) : Result :=
  s.atSite fun x =>
    let k := r.b.toNat
    let me := (re, if re then r.a.toNat else 0)
    let state := x.w.b.live || x.sel == .b || x.w.j.isSome || x.w.dsp != 0 || x.w.walkers.any (fun v => v.bound != 0)
    let others := (s.liveWarps x.w.block).filterMap fun y => y.2.regrouping
    if !scalarOk k then s.trapWhole x 4 0
    else if state || others.any (· != me) then s.trapWhole x 7 0
    else if (x.w.sreg k).toNat + 1 != 2 ^ x.b.warps then s.trapWhole x 8 0
    else
      let s := s.setWarp x.wid { x.w with regrouping := some me }
      .next (if (s.liveWarps x.w.block).all fun y => y.2.regrouping.isSome || y.2.laneless then
          s.postOnce .regroupComplete { b := x.w.block } else s)

end State

def execRegroup (r : Reg) (s : State) : Result := s.regroupOf r true
def execUngroup (r : Reg) (s : State) : Result := s.regroupOf r false

/-- A position of a block: warp number and lane. -/
abbrev Pos := Nat × Nat

namespace State

/-- Move the block's positions: position p takes what stood at `from_ p` (R181). Registers, predicates and the lane map move;
scalars, tiles, event slots and timers stay. -/
def moveLanes (s : State) (b : BlockId) (ws : List (WarpId × Warp)) (from_ : Pos → Pos) (alive : Pos → Bool) (next : Warp → DWord) : State :=
  let find : Nat → Warp := fun n => ((ws.find? fun x => x.2.num == n).map (·.2)).getD default
  let s := ws.foldl (fun (s : State) x =>
    let w := x.2
    let src : Nat → Pos := fun l => from_ (w.num, l)
    let v := (List.range w.v.length).map fun r =>
      let ps := laneNums.filterMap fun l => ((find (src l).1).vreg r).poison
      ({ lanes := lanesOf fun l => lane ((find (src l).1).vreg r).lanes (src l).2, full := true, poison := ps.head? } : VReg)
    let p := (List.range w.p.length).map fun r => maskOf fun l => ((find (src l).1).p.getD r 0).getLsbD (src l).2
    let m := maskOf fun l => alive (src l)
    let w' := { w with
      v := v, p := p, regrouping := none, exited := w.exited && m == 0
      a := { PcSlot.empty with mask := m, pc := next w, issued := w.a.issued, scLast := w.a.scLast } }
    s.setWarp x.1 w') s
  s.updBlock b fun k =>
    { k with laneMap := (List.range (32 * k.warps)).map fun i =>
        let q := from_ (i / 32, i % 32)
        k.laneMap.getD (32 * q.1 + q.2) i }

/-- What a move of lanes sets off: the A latches of the warps are emptied (R373), and a warp that is left without lanes arrives at the block
barriers whose phase names it (R181, R398). -/
def lanesMoved (s : State) (b : BlockId) (bk : Block) (ws : List WarpId) : State :=
  let s := ws.foldl (fun (s : State) w => s.updCore w.core fun k => { k with latch := k.latch.filter fun l => l.2.slot != w.slot }) s
  ((List.range 8).filter fun k => decide (k < bk.bars) && s.barHome b bk k != .fault).foldl (fun (s : State) k =>
    (s.autoArrive b k).evalBar b k) s

/-- Complete a REGROUP or UNGROUP of a block (R181); it waits, too, for the registers that an MLOOP has yet to read (R366). -/
def completeRegroup (s : State) (b : BlockId) : State :=
  match s.block? b, (s.liveWarps b).findSome? fun x => x.2.regrouping with
  | some bk, some (re, p) =>
    if !((s.liveWarps b).all fun y => y.2.regrouping.isSome || y.2.laneless) then s
    else if (s.liveWarps b).any fun x => (x.2.v.any fun v => !v.full) || (List.range x.2.v.length).any (s.readsReg x.1) then
      s.afterOnce 1 .regroupComplete { b := b }
    else
      let old := s.warps.filter fun x => x.2.block == b && (!re || !x.2.exited)
      let alive : Pos → Bool := fun q => ((old.find? fun x => x.2.num == q.1).map fun x => x.2.a.mask.getLsbD q.2).getD false
      let yes : Pos → Bool := fun q => ((old.find? fun x => x.2.num == q.1).map fun x => (x.2.preg p).getLsbD q.2).getD false
      let ws : List (WarpId × Warp) := old.map fun x => (x.1, commitHeld x.2 .a)
      let nums := (List.range bk.warps).filter fun n => old.any fun x => x.2.num == n
      let ps : List Pos := nums.flatMap fun n => laneNums.map fun l => (n, l)
      let live := ps.filter alive
      let order := live.filter yes ++ live.filter (fun q => !yes q) ++ ps.filter fun q => !alive q
      let any : Warp := ((ws.find? fun x => x.2.regrouping.isSome).map (·.2)).getD default
      let next : Warp → DWord := fun w =>
        let w := if w.regrouping.isSome then w else any
        w.a.pc + BitVec.ofNat 64 (4 * ((w.a.clause.map (·.hdr.n)).getD 0 + 1))
      if re then (s.moveLanes b ws (fun q => order.getD (ps.idxOf q) q) alive next).lanesMoved b bk (ws.map (·.1))
      else
        let back : Pos → Pos := fun q => (ps.find? fun r => bk.laneMap.getD (32 * r.1 + r.2) 0 == 32 * q.1 + q.2).getD q
        (s.moveLanes b ws back alive next).lanesMoved b bk (ws.map (·.1))
  | _, _ => s

end State

/-- REGROUP_COMPLETE (R181). -/
def execRegroupComplete (s : State) : Result := .next (s.completeRegroup s.arg.b)

/-- YIELD (R407). -/
def execYield (_ : Reg) (s : State) : Result :=
  s.atSite fun x =>
    .next ((s.advance x 1 x.w).updWarp x.wid fun w =>
      { w.setSlot x.sel { w.slot x.sel with claimed := false } with yieldPass := true })

end Sys2Proof.Machine
end

