-- ==== Sys2Proof/Machine/Tree.lean ====
section
/-! DEFINITION. The Broker tree (R130-R137): shares and messages, weights, gang shapes and rectangles, accesses with
firmware rights, signals (R90, R91), the registry's launch entries (R255, R256), and the completion of a launch (R88, R89). -/

namespace Sys2Proof.Machine

namespace State

/-- The children of a Broker in split order. -/
def children (s : State) : BrokerId → List BrokerId
  | .rack => s.trays.map .tray
  | .tray t => (s.trayMembers t).map .pkg
  | .pkg p => [.die p 0, .die p 1, .die p 2, .die p 3]
  | .die _ _ => []

/-- The children of a Broker in ring order from the first in split order (R148, R150). -/
def ring (s : State) : BrokerId → List BrokerId
  | .pkg p => [.die p 0, .die p 1, .die p 3, .die p 2]
  | k => s.children k

/-- The siblings of a Broker in ring order, from its successor (R148). -/
def siblings (s : State) (k : BrokerId) : List BrokerId :=
  match parent k with
  | none => []
  | some u =>
    let r := s.ring u
    let i := r.idxOf k
    r.drop (i + 1) ++ r.take i

end State

/-! Gangs, shapes and rectangles (R134, R143, R145). -/

def Launch.rows (l : Launch) : Nat := (shapeDims l.shape).1
def Launch.cols (l : Launch) : Nat := (shapeDims l.shape).2

/-- The cores of a gang, the blocks and the gangs of a grid (R134). -/
def Launch.cores (l : Launch) : Nat := l.rows * l.cols
def Launch.blocks (l : Launch) : Nat := l.gx * l.gy * l.gz
def Launch.gangs (l : Launch) : Nat := (l.blocks + l.cores - 1) / l.cores

/-- The number of blocks of gang g. -/
def Launch.gangBlocks (l : Launch) (g : Nat) : Nat := min ((g + 1) * l.cores) l.blocks - g * l.cores

/-- The blocks of the gangs of a run. -/
def Launch.runBlocks (l : Launch) (r : Nat × Nat) : Nat := min ((r.1 + r.2) * l.cores) l.blocks - min (r.1 * l.cores) l.blocks

/-- The positions of a rectangle, row by row, with their numbers. -/
def rectPositions (origin h w : Nat) : List (Nat × Nat) :=
  (List.range (h * w)).map fun i => (origin + 8 * (i / w) + i % w, i)

/-- The origins of the legal rectangles on a die's working positions (R143), ascending. -/
def rectOrigins (working : BitVec 64) (h w : Nat) : List Nat :=
  (List.range 64).filter fun p =>
    p / 8 % h == 0 && p % 8 % w == 0 && decide (p / 8 + h ≤ 8) && decide (p % 8 + w ≤ 8) &&
      (rectPositions p h w).all fun q => working.getLsbD q.1

/-- A straddled placement (R145): the two dies, the half's rows and columns, the two origins. -/
structure Straddle where
  a : Nat
  b : Nat
  h : Nat
  w : Nat
  oa : Nat
  ob : Nat
  deriving DecidableEq, Repr, Inhabited

/-- The straddled placements of a shape of h rows and w columns, by position alone. -/
def straddleForms (h w : Nat) : List Straddle :=
  let side := if w % 2 = 0 then
      [(0, 1), (2, 3)].flatMap fun p => ((List.range 8).filter fun r => r % h == 0 && decide (r + h ≤ 8)).map fun r =>
        ({ a := p.1, b := p.2, h := h, w := w / 2, oa := 8 * r + 8 - w / 2, ob := 8 * r } : Straddle)
    else []
  let above := if h % 2 = 0 then
      [(0, 2), (1, 3)].flatMap fun p => ((List.range 8).filter fun c => c % w == 0 && decide (c + w ≤ 8)).map fun c =>
        ({ a := p.1, b := p.2, h := h / 2, w := w, oa := 8 * (8 - h / 2) + c, ob := c } : Straddle)
    else []
  side ++ above

/-- The core numbers j of a straddled gang's half, with the position of each: row by row over the whole rectangle. -/
def Straddle.half (t : Straddle) (cols : Nat) (second : Bool) : List (Nat × Nat) :=
  (rectPositions (if second then t.ob else t.oa) t.h t.w).map fun q =>
    let r := q.2 / t.w
    let c := q.2 % t.w
    let (r, c) := if !second then (r, c) else if t.w < cols then (r, c + t.w) else (r + t.h, c)
    (q.1, r * cols + c)

namespace State

/-- The straddled placements of a shape that are legal on a package's working positions. -/
def straddles (s : State) (p h w : Nat) : List Straddle :=
  let k := fun d : Nat => s.die { pkg := p, die := d }
  let ok := fun (d o : Nat) (t : Straddle) => !(k d).lost && (rectPositions o t.h t.w).all fun q => (k d).working.getLsbD q.1
  (straddleForms h w).filter fun t => ok t.a t.oa t && ok t.b t.ob t

/-- A die's working positions in number. -/
def workingCount (s : State) (d : DieId) : Nat :=
  ((List.range 64).filter fun i => (s.die d).working.getLsbD i).length

/-- The weight of a die (R135). -/
def dieWeight (s : State) (p d h w : Nat) (straddle : Bool) : Nat :=
  let k := s.die { pkg := p, die := d }
  if k.lost then 0
  else if (rectOrigins k.working h w).isEmpty && !(straddle && (s.straddles p h w).any fun t => t.a == d || t.b == d) then 0
  else s.workingCount { pkg := p, die := d }

/-- The weights of every member's dies. -/
def weightsOf (s : State) (h w : Nat) (straddle : Bool) : Tab Nat (List Nat) :=
  s.members.map fun p => (p, [s.dieWeight p 0 h w straddle, s.dieWeight p 1 h w straddle, s.dieWeight p 2 h w straddle, s.dieWeight p 3 h w straddle])

end State

def sumList (l : List Nat) : Nat := l.foldl (· + ·) 0

/-- The children that a Broker had when a launch started, in split order (R135). -/
def Launch.kids (l : Launch) : BrokerId → List BrokerId
  | .rack => ((l.weights.map fun x => trayOf x.1).eraseDups).map .tray
  | .tray t => ((l.weights.map (·.1)).filter (trayOf · == t)).map .pkg
  | .pkg p => [.die p 0, .die p 1, .die p 2, .die p 3]
  | .die _ _ => []

/-- A Broker's weight for a launch (R135). -/
def Launch.weight (l : Launch) : BrokerId → Nat
  | .die p d => (tget l.weights p []).getD d 0
  | .pkg p => sumList (tget l.weights p [])
  | .tray t => sumList ((l.weights.filter fun x => trayOf x.1 == t).map fun x => sumList x.2)
  | .rack => sumList (l.weights.map fun x => sumList x.2)

/-- The split of R136: the nonempty shares of n gangs from f among children by weight; `acc` and `lo` go along. -/
def splitRun (f n total : Nat) : List (BrokerId × Nat) → Nat → List (BrokerId × Nat × Nat)
  | [], _ => []
  | (k, w) :: ks, acc =>
    let lo := f + n * acc / total
    let hi := f + n * (acc + w) / total
    (if lo < hi then [(k, lo, hi - lo)] else []) ++ splitRun f n total ks (acc + w)

/-- Split a run among children. -/
def splitAmong (l : Launch) (ks : List BrokerId) (r : Nat × Nat) : List (BrokerId × Nat × Nat) :=
  let ws := ks.map fun k => (k, l.weight k)
  let total := sumList (ws.map (·.2))
  if total = 0 then [] else splitRun r.1 r.2 total ws 0

/-! Runs of unstarted gangs (R149). -/

/-- Put a run into an ascending list; adjacent runs become one. -/
def putRun : List (Nat × Nat) → Nat × Nat → List (Nat × Nat)
  | [], r => [r]
  | q :: qs, r =>
    if r.2 = 0 then q :: qs
    else if r.1 + r.2 < q.1 then r :: q :: qs
    else if r.1 + r.2 = q.1 then (r.1, r.2 + q.2) :: qs
    else if q.1 + q.2 = r.1 then putRun qs (q.1, q.2 + r.2)
    else q :: putRun qs r

/-- Take one gang out of a list of runs. -/
def cutGang : List (Nat × Nat) → Nat → List (Nat × Nat)
  | [], _ => []
  | (f, n) :: qs, g =>
    if f ≤ g && g < f + n then
      (if f < g then [(f, g - f)] else []) ++ (if g + 1 < f + n then [(g + 1, f + n - g - 1)] else []) ++ qs
    else (f, n) :: cutGang qs g

/-- The number of gangs in runs, the first m of them, and the others. -/
def runCount (rs : List (Nat × Nat)) : Nat := sumList (rs.map (·.2))

def firstGangs : List (Nat × Nat) → Nat → List (Nat × Nat)
  | [], _ => []
  | (f, n) :: rs, m => if m = 0 then [] else if n ≤ m then (f, n) :: firstGangs rs (m - n) else [(f, m)]

def otherGangs : List (Nat × Nat) → Nat → List (Nat × Nat)
  | [], _ => []
  | (f, n) :: rs, m => if m = 0 then (f, n) :: rs else if n ≤ m then otherGangs rs (m - n) else (f + m, n - m) :: rs

/-- Since when a gang waits (R153): since the latest run noted at or below it came. -/
def sinceOf (t : Tab Nat Nat) (g : Nat) : Nat :=
  (t.foldl (fun (b : Nat × Nat) x => if x.1 ≤ g && b.1 ≤ x.1 then x else b) (0, 0)).2

namespace State

/-! Accesses with firmware rights (R79, R408): at the home, through the page table. -/

/-- The die whose tables an FE die uses. -/
def feDie (p : Nat) : DieId := { pkg := p, die := 0 }

/-- Translate with firmware rights; a write needs Write = 1. -/
def fwTranslate (s : State) (p va : Nat) (write : Bool) : WalkR :=
  if 2 ^ 57 ≤ va then .fault 0x0C
  else match s.walk (feDie p) va with
    | .ok e => if write && !flagWrite e.flags then .fault 0x12
      else if (s.homeAt (feDie p) (e.phys va)).isNone then .fault 0x0E else .ok e
    | r => r

/-- Read n bytes with firmware rights, line by line. -/
def fwRead (s : State) (p va n : Nat) : Nat → Access
  | 0 => .ok [] s
  | fuel + 1 =>
    if n = 0 then .ok [] s
    else
      match s.fwTranslate p va false with
      | .fault c => .fault c va
      | .busy => .busy
      | .ok e =>
        match s.reach (feDie p) (e.phys va) with
        | .nowhere => .fault 0x0E va
        | .refused c q => .error c va q
        | .at_ h pa s =>
          match s.readAt h pa (inLine va n) with
          | .ok bs s =>
            match s.fwRead p (va + inLine va n) (n - inLine va n) fuel with
            | .ok r s => .ok (bs ++ r) s
            | r => r
          | r => r

/-- Write bytes with firmware rights, line by line. -/
def fwWrite (s : State) (p va : Nat) (bs : List Byte) : Nat → Access
  | 0 => .ok [] s
  | fuel + 1 =>
    if bs.isEmpty then .ok [] s
    else
      match s.fwTranslate p va true with
      | .fault c => .fault c va
      | .busy => .busy
      | .ok e =>
        match s.reach (feDie p) (e.phys va) with
        | .nowhere => .fault 0x0E va
        | .refused c q => .error c va q
        | .at_ h pa s =>
          let k := inLine va bs.length
          if (s.die h.dieId).lost then .error 4 va h.pkg
          else if (s.pinHolder h).isSome then .busy
          else (s.homeWrite h.dieId pa (bs.take k)).fwWrite p (va + k) (bs.drop k) fuel

def fwBytes (s : State) (p : Nat) (va : DWord) (n : Nat) : Access := s.fwRead p va.toNat n (lineFuel n)
def fwPut (s : State) (p : Nat) (va : DWord) (bs : List Byte) : Access := s.fwWrite p va.toNat bs (lineFuel bs.length)

/-- Update a signal as one atomic at its home (R90, R91): 0 SET, 1 ADD, 2 SUB. A tag that the home die holds already means
that the update has been performed. -/
def signalUpdate (s : State) (p : Nat) (va : DWord) (op : Nat) (v : DWord) (tag : Option DWord) : Access :=
  match s.fwTranslate p va.toNat true with
  | .fault c => .fault c va.toNat
  | .busy => .busy
  | .ok e =>
    match s.reach (feDie p) (e.phys va.toNat) with
    | .nowhere => .fault 0x0E va.toNat
    | .refused c q => .error c va.toNat q
    | .at_ h pa s =>
      let k := s.die h.dieId
      if k.lost then .error 4 va.toNat h.pkg
      else if (s.pinHolder h).isSome then .busy
      else if s.isPoisoned h then .error 3 va.toNat h.pkg
      else if tag.any fun t => k.tagged.contains t then .ok [] s
      else
        let old := BitVec.ofNat 64 (leVal (s.homeBytes h.dieId pa 8))
        let new := if op = 0 then v else if op = 1 then old + v else old - v
        let s := match tag with
          | some t => s.setDie h.dieId { k with tagged := (k.tagged ++ [t]).drop (k.tagged.length + 1 - 256) }
          | none => s
        .ok [] (s.homeWrite h.dieId pa (leBytes 8 new.toNat))

/-! Launch entries of the registry (R255, R256). -/

/-- The pool address of the launch entry of an index. -/
def entryPool (s : State) (h : Nat) : Nat := s.dom.registry + 4096 + 256 * h

/-- The device writes registry bytes at their homes. -/
def regPut (s : State) (pa : Nat) (bs : List Byte) : State := s.homePuts (feDie s.lead) pa bs
def regBytes (s : State) (pa n : Nat) : List Byte := s.homeBytes (feDie s.lead) pa n

/-- The blocks of a launch that are saved, and that wait for service, in its entry (R256). -/
def noteCounts (s : State) (h : Nat) : State :=
  let n := fun (q : Nat → Bool) => (s.blocks.filter fun x => x.1.grid == h && q x.2.state).length
  s.regPut (s.entryPool h + 224) (leBytes 4 (n fun k => k == 1 || k == 2) ++ leBytes 4 (n fun k => k == 2))

/-! Completion (R88, R89). -/

end State

def TtEntry.empty : TtEntry :=
  { va := 0, period := 0, offset := 0, launch := 0, rule := 0, enable := false, skipped := 0, preempted := 0, running := none
    pending := false, packet := [], slot := 0 }

namespace State

/-- The completion record of a launch (R88). -/
def recordBytes (l : Launch) (status time : Nat) : List Byte :=
  leBytes 4 status ++ leBytes 4 l.tag.toNat ++ leBytes 8 l.exited ++ leBytes 8 l.lost ++ leBytes 8 l.start.toNat ++
    leBytes 8 time ++ leBytes 4 (min l.pfCount (2 ^ 32 - 1)) ++ leBytes 4 l.pfBlock ++ leBytes 8 l.pfAddr.toNat ++
    leBytes 2 l.pfCause ++ leBytes 2 (min l.preempts (2 ^ 16 - 1)) ++ zeros 4

/-- The package whose Broker completes a launch: the lead, or the die's own for a child grid unless it has left the domain (R102). -/
def launchHome (s : State) (l : Launch) : Nat :=
  match l.src with
  | .child d => if s.isMember d.pkg then d.pkg else s.lead
  | _ => s.lead

/-- The update tag of a completion (R91): child grids carry none. -/
def launchTag (l : Launch) : Option DWord :=
  match l.src with
  | .child _ => none
  | _ => some l.serial

/-- Write a completion record (R88): the line that holds it, at its home. A record that cannot be written any more is left
out. None: the line is held. -/
def writeRecord (s : State) (l : Launch) (status : Nat) : Option (State × Option (DieId × Nat)) :=
  let p := s.launchHome l
  if l.record = 0 then some (s, none)
  else match s.fwPut p l.record (recordBytes l status (s.timeAt p).toNat) with
    | .ok _ t =>
      let line := match s.fwTranslate p l.record.toNat true with
        | .ok e => (s.homeAt (feDie p) (e.phys l.record.toNat)).map fun h => (h.dieId, lineOf (physKey h))
        | _ => none
      some (t, line)
    | .busy => none
    | _ => some (s, none)

/-- Update the completion signal, after the record at the release scope (R89). None: it must be tried again. -/
def completeSignal (s : State) (l : Launch) (recorded : Option (DieId × Nat)) : Option State :=
  let held : Bool := match recorded with
    | some (d, line) => decide (3 ≤ l.relScope) && (s.die d).pushes.any (·.line == line)
    | none => false
  if held then none
  else if l.signal = 0 then some s
  else match s.signalUpdate (s.launchHome l) l.signal 1 1 (launchTag l) with
    | .ok _ s => some s
    | .busy => none
    | _ => some s

/-- A grid that is complete leaves the machine: its entry, its shares, the slots of its lost blocks, its handle. -/
def retireLaunch (s : State) (h : Nat) (l : Launch) : State :=
  let s := s.regPut (s.entryPool h + 192) (leBytes 1 2)
  let s := { s with
    launches := tdel s.launches h
    blocks := s.blocks.filter fun x => x.1.grid != h
    brokers := s.brokers.map fun (x : BrokerId × Broker) => (x.1, { x.2 with
      shares := tdel x.2.shares h, hunts := x.2.hunts.filter (·.grid != h) })
    queue := { s.queue with grids := s.queue.grids.filter (· != h) } }
  match l.src with
  | .table e =>
    let t := s.queue.tt.getD e TtEntry.empty
    let s := if t.running = some h then
        { s with queue := { s.queue with tt := lset s.queue.tt e { t with running := none, pending := false, packet := [] } } }
      else s
    (if t.running = some h && t.pending then s.post .launchPacket { src := .table e, bytes := t.packet, flag := true } else s).postOnce .queuePoll {}
  | .queue => s.postOnce .queuePoll {}
  | .child _ => s

/-- Complete a grid when every block is accounted for (R137): its record, then its signal (R89). -/
def tryComplete (s : State) (h : Nat) : State :=
  match s.launch? h with
  | none => s
  | some l =>
    if l.exited + l.lost < l.blocks then s
    else
      let later := fun s : State => s.afterOnce 1 .doneTimer { k := .rack, i := h }
      match s.writeRecord l (if l.lost != 0 || l.failed then 1 else 0) with
      | none => later s
      | some (s, r) =>
        let l := { l with record := 0, recorded := r.or l.recorded }
        match s.completeSignal l l.recorded with
        | some s => s.retireLaunch h l
        | none => later (s.setLaunch h l)

/-- Blocks of a grid are accounted for at the top (R137). -/
def addDone (s : State) (h exited lost : Nat) : State :=
  (s.updLaunch h fun l => { l with exited := l.exited + exited, lost := l.lost + lost }).tryComplete h

/-- Whether a die lies below a Broker, or has it. -/
def under (k : BrokerId) (d : DieId) : Bool :=
  match k with
  | .die p e => d == { pkg := p, die := e }
  | .pkg p => d.pkg == p
  | .tray t => trayOf d.pkg == t
  | .rack => true

/-- Whether a Broker, with those below it, holds nothing more of a grid (R137): no unstarted gang, none under reservation or being
evaluated, and no block resident or saved. A saved block is the package Broker's, and no longer its die's (R418). -/
def idle (s : State) (k : BrokerId) (h : Nat) : Bool :=
  let clean : BrokerId × Broker → Bool := fun x =>
    match x.1 with
    | .die p d => !under k { pkg := p, die := d } || ((tget x.2.shares h Share.empty).runs.isEmpty && x.2.reservations.all (·.gang.grid != h))
    | .pkg p => (match k with
        | .die _ _ => true
        | _ => !under k { pkg := p, die := 0 } || x.2.reservations.all (·.gang.grid != h))
    | _ => true
  let scans := fun a : Arg => a.flag && a.m.grid == h && match a.k with
    | .pkg p => under k { pkg := p, die := 0 }
    | _ => false
  s.brokers.all clean && !(s.inflight.any fun e => e.1 == .brokerScan && scans e.2) &&
    s.blocks.all fun x => x.1.grid != h || !under k x.2.core.dieId || (x.2.slots.isEmpty && match k with
      | .die _ _ => true
      | _ => x.2.state != 1 && x.2.state != 2)

/-- Report the counts of a grid to the parent (R137): at once after a quiet microsecond or when the Broker holds nothing more,
else when the microsecond has passed. -/
def report (s : State) (k : BrokerId) (h : Nat) : State :=
  let sh := s.share k h
  if sh.dExited = 0 && sh.dLost = 0 then s
  else if sh.lastDone != 0 && s.now < sh.lastDone + 1000 && !s.idle k h then
    s.afterOnce (sh.lastDone + 1000 - s.now) .doneTimer { k := k, i := h }
  else
    let s := s.updShare k h fun x => { x with dExited := 0, dLost := 0, lastDone := s.now }
    let child := match s.launch? h with
      | some l => (match l.src with
        | .child _ => true
        | _ => false)
      | none => false
    match (if child then none else parent k) with
    | some u => s.tell .brokerDone k u h 0 sh.dExited (BitVec.ofNat 64 sh.dLost)
    | none => s.addDone h sh.dExited sh.dLost

/-- Blocks exit or are lost at a Broker (R137). -/
def count (s : State) (k : BrokerId) (h exited lost : Nat) : State :=
  (s.updShare k h fun x => { x with
    exited := x.exited + exited, lost := x.lost + lost, dExited := x.dExited + exited, dLost := x.dLost + lost }).report k h

/-- A die's Broker has given up what it held of a grid: it, and those above it, report at once when they hold nothing more (R137). -/
def reportAbove (s : State) (d : DieId) (h : Nat) : State :=
  ((s.report (.die d.pkg d.die) h).report (.pkg d.pkg) h).report (.tray (trayOf d.pkg)) h

/-! What a tray's Broker knows of its packages (R150, R163). -/

/-- The package of a Broker below a tray's. -/
def pkgOf : BrokerId → Option Nat
  | .die p _ => some p
  | .pkg p => some p
  | _ => none

/-- Blocks of a grid are given to a package. Those of one that has left the domain are accounted for at once. -/
def give (s : State) (h p n : Nat) : State :=
  let s := s.updShare (.tray (trayOf p)) h fun x => { x with given := tset x.given p (tget x.given p 0 + n) }
  if s.isMember p then s else s.postOnce .packageLoss { p := p, flag := true }

/-- A package no longer holds blocks of a grid, or has reported them. -/
def relieve (s : State) (h p n : Nat) : State :=
  s.updShare (.tray (trayOf p)) h fun x => { x with gone := tset x.gone p (tget x.gone p 0 + n) }

/-- A Broker above learns that gangs have gone from one package to another (R139, R150); of a move between trays each tray's keeps
its side. -/
def noteMove (s : State) (m : BrokerMsg) (l : Launch) : State :=
  let n := l.runBlocks (m.first, m.count)
  let here := fun p : Nat => m.dst == .tray (trayOf p)
  let s := match pkgOf m.src with
    | some p => if here p then s.relieve m.grid p n else s
    | none => s
  match m.copyOf.bind pkgOf with
  | some p => if here p then s.give m.grid p n else s
  | none => s

/-- Copies of a message by which gangs go to another package or tray, for the Brokers above both sides (R139, R150, R152). -/
def copyUp (s : State) (i : Instr) (m : BrokerMsg) (holder : BrokerId) : State :=
  if pkgOf m.src = pkgOf holder then s
  else
    let up := fun k : BrokerId => match k with
      | .tray _ => BrokerId.rack
      | k => .tray (trayOf ((pkgOf k).getD 0))
    ([up m.src, up holder].eraseDups).foldl (fun s k => s.tellMsg i { m with dst := k, copyOf := some holder }) s

end State

/-- DONE (R137): a tray's Broker notes what each of its packages has reported. -/
def execBrokerDone (s : State) : Result :=
  .next (s.hear .brokerDone fun m _ s =>
    let lost := m.data1.toNat % 2 ^ 32
    match m.dst, m.src with
    | .rack, _ => s.addDone m.grid m.count lost
    | k, .pkg p => (s.relieve m.grid p (m.count + lost)).count k m.grid m.count lost
    | k, _ => s.count k m.grid m.count lost)

/-- DONE_TIMER (R137): the counts that have changed meanwhile go up; a completion that met a busy line is tried again. -/
def execDoneTimer (s : State) : Result :=
  .next (match s.arg.k with
    | .rack => s.tryComplete s.arg.i
    | k => s.report k s.arg.i)

end Sys2Proof.Machine
end

