-- ==== Sys2Proof/Machine/Context.lean ====
section
/-! DEFINITION. Taking a trap when its warp is quiet (R243-R247), the replay queue and its re-injection (R245, R251-R254),
the images of saved blocks (R155, R258-R261), service words (R157, R158), and how a block retires or is lost (R191, R162,
R263). -/

namespace Sys2Proof.Machine

/-! The replay queue (R245). -/

/-- An MTX instruction other than MST and MLD never joins: it is performed (R384). -/
def neverJoins (i : Instr) : Bool := isEngineWait i || ((tileNamed i).isSome && (tileForm i).isNone)

/-- Whether an instruction in flight under the limit of 8 joins a queue that holds the instructions numbered q: its translation faulted, it waits
for one of the queue, one of the queue holds a lane or a row of it back (R348), it is an SC operation behind one of the queue, or a copy whose
reads follow a posted store of the queue (R390). An access that needs the page of a faulted walk has a miss slot of its own on that walk, which
faults it as well. -/
def joinsQueue (w : Warp) (q : List Nat) (g : Flight) : Bool :=
  !g.done && g.counted && !q.contains g.id && !neverJoins g.instr && (g.fault.isSome || g.deps.any q.contains ||
    w.flights.any fun h => q.contains h.id && decide (h.id < g.id) && sameThread h g && (g.order == 3 || holdsTile h g ||
      (isPosted h.instr && isCopy g.instr) || (activeLanes (g.remaining ||| g.waiting)).any (holdsBack h g)))

/-- The numbers of the instructions that join, until no more do; `fuel` bounds the rounds. -/
def replayIds (w : Warp) : Nat → List Nat → List Nat
  | 0, q => q
  | n + 1, q =>
    match (w.flights.filter (joinsQueue w q)).map (·.id) with
    | [] => q
    | l => replayIds w n (q ++ l)

/-- The replay queue of a warp, in issue order. -/
def replayQueue (w : Warp) : List Flight :=
  let q := replayIds w w.flights.length []
  w.flights.filter fun f => q.contains f.id

namespace State

/-- Whether every issued instruction of the warp is performed or in the queue, and no answer for a lane of the queue, no TAKE
and no queued command outside it is due (R244, R320). -/
def quiet (s : State) (wid : WarpId) (w : Warp) (q : List Nat) : Bool :=
  let out := fun (o : WarpId) (fid : Nat) => o == wid && !q.contains fid
  !w.taking && w.flights.all (fun f => q.contains f.id && f.sent == 0) &&
    !(s.core wid.core).mtx.any (fun c => out c.w c.fid) && !(s.core wid.core).porter.any (fun c => out c.w c.fid)

/-- The vectors that a group or mailbox instruction of the replay queue read, as a command that the warp keeps: an entry has no lanes
for them (R252, log 126). -/
def parkVectors (wid : WarpId) (idx : Nat) (f : Flight) : Option MtxCmd :=
  match f.instr with
  | .mcast _ _ | .combine _ _ | .mbxsend _ =>
    some { id := idx, w := wid, instr := f.instr, addr := f.addr, fid := 0, mask := f.active, rows := [f.y.map loWord, f.x.map loWord]
           sg := [], fg := [], stream := none, left := [], bad := none, regs := [] }
  | _ => none

/-- A slot that stops at an MWAIT or MSTAT takes its wait back: it begins again when the slot goes on (R386). -/
def dropWaits (s : State) (wid : WarpId) : State :=
  match s.warp? wid with
  | none => s
  | some w =>
    let ids := (w.flights.filter fun f => isEngineWait f.instr).map (·.id)
    if ids.isEmpty then s
    else (s.updCore wid.core fun k => { k with mtx := k.mtx.filter fun c => !(c.w == wid && ids.contains c.fid) }).setWarp wid { w with
      flights := w.flights.filter fun f => !ids.contains f.id }

/-- The queued commands of the replay queue leave the engines' queues, so that the commands behind them are performed (R241, R384), for which
nothing of the queue is waited any more; the matrix commands stay with the warp. -/
def pullCommands (s : State) (wid : WarpId) (q : List Nat) : State :=
  let k := s.core wid.core
  let mine := fun (o : WarpId) (fid : Nat) => o == wid && q.contains fid
  let held := k.mtx.filter fun c => mine c.w c.fid
  let gone := (k.porter.filter fun c => mine c.w c.fid).map (·.id)
  (s.setCore wid.core { k with
    mtx := k.mtx.filter (fun c => !mine c.w c.fid), porter := k.porter.filter fun c => !mine c.w c.fid }).updWarp wid fun w =>
    { w with
      parked := w.parked ++ held, openCmds := w.openCmds.filter fun n => !gone.contains n
      batches := w.batches.map fun b => { b with cmds := b.cmds.filter fun n => !gone.contains n }
      flights := w.flights.map fun f => if neverJoins f.instr then { f with deps := f.deps.filter fun n => !q.contains n } else f }

/-- The matrix commands that were pulled, and the vectors of group and mailbox instructions, stand with the warp, numbered by their entries. -/
def parkQueue (w : Warp) (wid : WarpId) (q : List Flight) : Warp :=
  let held := (w.parked.filter fun c => q.any (·.id == c.fid)).map fun c => { c with id := q.findIdx (·.id == c.fid), fid := 0 }
  { w with parked := held ++ q.zipIdx.filterMap fun x => parkVectors wid x.2 x.1 }

/-- The lanes that an instruction of the queue has performed reach its registers, which stay empty (R245, R254). -/
def keepPerformed (w : Warp) (q : List Flight) : Warp :=
  q.foldl (fun w f => if f.got.isEmpty then w else f.dest.foldl Warp.markEmpty (fillFlight w f)) w

end State

/-- TRAP_TAKE (R244-R246): once the warp is quiet, its trap is taken. -/
def execTrapTake (s : State) : Result :=
  let wid := s.arg.w
  .next <|
    match s.warp? wid with
    | none => s
    | some w =>
      match w.trap, s.block? w.block with
      | some t, some b =>
        if w.exited || b.state = 3 then s.setWarp wid { w with trap := none }
        else if s.frozen || (s.core wid.core).frozen then s.afterOnce 1 .trapTake s.arg
        else
          let s := s.dropWaits wid
          let q := replayQueue ((s.warp? wid).getD w)
          let ids := q.map (·.id)
          let s := s.pullCommands wid ids
          match s.warp? wid with
          | none => s
          | some w =>
            if !s.quiet wid w ids then s.afterOnce 1 .trapTake s.arg
            else
              let s := ids.foldl (fun (s : State) n => s.dropTags wid n) s
              s.takeTrap wid (State.keepPerformed (State.parkQueue { w with regrouping := none } wid q) q) b t q
      | _, _ => s

/-! Returning (R253, R254). -/

/-- The registers that an instruction of the queue writes. -/
def entryDest (i : Instr) (f : Flight) : List Nat :=
  match i, memOf i with
  | _, some (o, m, _) => if o.returns then regsFrom m.d.toNat (if o.wide then 2 else 1) else []
  | .combine m _, none => [m.d.toNat]
  | .mrd r, none => regsFrom r.d.toNat 32
  | .mrdXr r _, none => regsFrom r.d.toNat 32
  | i, none =>
    match copyForm i with
    | some (fill, _) =>
      let ws := f.x.map loWord
      let cp := copyOf fill (ws.take 4) ((ws.drop 4).take 4) (pairVal (ws.getD 8 0) (ws.getD 9 0))
      if cp.space = 2 then regsFrom cp.firstReg cp.rows else []
    | none => []

/-- The scope and the order of an instruction's XM word, as its flight carries them. -/
def entryOrder (i : Instr) : Nat × Nat :=
  let xm := fun x : Xm => (x.scope.toNat, x.order.toNat)
  match i, memOf i with
  | _, some (_, _, some x) => xm x
  | .mcast _ x, none => xm x
  | .combine _ x, none => xm x
  | .mstXm _ x, none => xm x
  | .mldXm _ x, none => xm x
  | .tcopyXm _ x, none => xm x
  | .cfillXm _ x, none => xm x
  | .cbloadXm _ x, none => xm x
  | .mbxsend _, none => (4, 2)
  | .fenceXm _ x, none => xm x
  | .cchainXm _ x, none => xm x
  | _, _ => (0, 0)

/-- The word index of an instruction form (R250). -/
def formIndex (v : Nat) : Nat := bits v 61 58

/-- The instruction of an entry (R251) as one in flight: the operands as the entry holds them, its place in program order after
everything of both threads. -/
def entryFlight (w : Warp) (i : Instr) (e : List Byte) : Flight :=
  let mask : Mask := BitVec.ofNat 32 (field e 16 4)
  let lanes := fun o : Nat => laneNums.map fun l => (BitVec.ofNat 64 (field e (o + 8 * l) 8) : DWord)
  let (scope, order) := entryOrder i
  let pool : Bool := match i, memOf i with
    | _, some (o, _, _) => o.space == .pool
    | .mcast _ _, none => true
    | _, none => false
  let f : Flight :=
    { id := w.nextId, instr := i, w0 := BitVec.ofNat 32 (field e 0 4)
      ext := if field e 21 1 % 2 = 1 then some (BitVec.ofNat 32 (field e 4 4)) else none, addr := BitVec.ofNat 64 (field e 8 8)
      by_ := if field e 22 1 % 2 = 1 then .b else .a, inA := true, inB := true, stk := [], scope := scope, order := order, active := mask
      remaining := if pool then mask else 0
      waiting := if pool then 0 else if (memOf i).isSome then mask
        else match i with | .combine _ _ => BitVec.allOnes 32 | .fenceXm _ _ => BitVec.allOnes 32 | _ => 1
      sent := 0, x := lanes 64, y := lanes 320, z := lanes 576, peers := laneNums.map fun l => BitVec.ofNat 32 (field e (832 + 4 * l) 4)
      sbase := BitVec.ofNat 64 (field e 32 8), pas := [], got := [], bad := none, dest := [], deps := [], slots := [], found := [], faults := []
      fault := none, counted := true, done := false, tags := [] }
  let f := { f with dest := entryDest i f }
  { f with deps := depsOf w f }

namespace State

/-- The operands of a group or mailbox instruction that is issued again: the scalars of its entry, and the vectors that the warp kept. -/
def unpark (w : Warp) (idx : Nat) (f : Flight) : Flight :=
  let rows := ((w.parked.find? (·.id == idx)).map (·.rows)).getD []
  let vec := fun n : Nat => (rows.getD n []).map fun v => (v.setWidth 64 : DWord)
  match f.instr with
  | .mcast _ _ => { f with x := vec 1, y := vec 0, z := [f.x.getD 0 0], sbase := pairVal (loWord (f.x.getD 1 0)) (loWord (f.x.getD 2 0)) }
  | .combine _ _ => { f with y := vec 0, z := [f.x.getD 0 0] }
  | .mbxsend _ => { f with y := vec 0 }
  | _ => f

/-- An instruction that is issued again: its destinations are marked empty again (R254); what their lanes performed before left there, a poison
with it, stays (R221). -/
def backInFlight (w : Warp) (f : Flight) : Warp :=
  let w := f.dest.foldl Warp.markEmpty w
  { w with flights := w.flights ++ [f], nextId := w.nextId + 1 }

/-- Put an instruction that is issued again where it is performed: an engine's queue, or its lanes (R254). -/
def reinject (s : State) (wid : WarpId) (idx : Nat) (i : Instr) (e : List Byte) : State :=
  match s.warp? wid with
  | none => s
  | some w =>
    let f := unpark w idx (entryFlight w i e)
    let k := s.core wid.core
    let ws := f.x.map loWord
    if isEngine i || (tileNamed i).isSome then
      let cmd : MtxCmd := (w.parked.find? (·.id == idx)).getD
        { id := 0, w := wid, instr := i, addr := f.addr, fid := 0, mask := f.active, rows := [], sg := ws.take 4
          fg := (ws.drop 4).take 4, stream := none, left := ((tileForm i).map fun x => tileRuns x.2.2).getD [], bad := none, regs := [] }
      let s := s.setCore wid.core { k with
        mtx := k.mtx ++ [{ cmd with id := k.nextCmd, w := wid, fid := f.id }], nextCmd := k.nextCmd + 1 }
      (s.setWarp wid (backInFlight w f)).postOnce .matrixCommandComplete { c := wid.core }
    else if isCopy i then
      let form := copyForm i
      let xm := match i with
        | .tcopyXm _ x => some x
        | .cfillXm _ x => some x
        | .cbloadXm _ x => some x
        | _ => none
      let src := match form with
        | some (true, _) => (ws.getD 8 0).setWidth 64
        | some (false, _) => pairVal (ws.getD 8 0) (ws.getD 9 0)
        | none => pairVal (ws.getD 0 0) (ws.getD 1 0)
      let cmd : PorterCmd :=
        { id := k.nextCmd, w := wid, instr := i, addr := f.addr, fid := f.id, by_ := f.by_, scope := f.scope, order := f.order
          bar := match form, xm with
            | some _, some m => if m.minor = 1 then some (bits m.low.toNat 14 11) else none
            | _, _ => none
          dg := if form.isSome then ws.take 4 else [], src := src
          sg := if form.isSome then (ws.drop 4).take 4 else [ws.getD 2 0], deps := f.deps, left := [], bad := none, owed := 0 }
      let cmd := { cmd with left := (form.map fun x => (copyOf x.1 cmd.dg cmd.sg src).runs).getD [] }
      let s := s.setCore wid.core { k with porter := k.porter ++ [cmd], nextCmd := k.nextCmd + 1 }
      let w := if form.isSome then { w with openCmds := w.openCmds ++ [k.nextCmd] } else w
      (s.setWarp wid (backInFlight w f)).postOnce .porterCommandComplete { c := wid.core }
    else (s.setWarp wid (backInFlight w f)).postOnce .missSlotFill { w := wid, i := f.id }

end State

/-- What the words at an address of code are, for RTT's checks (R253): the instruction, a malformed field, or a fetch that is
not complete. -/
inductive CodeAt where
  | ok (i : Instr) (s : State)
  | bad
  | wait (s : State)
  deriving DecidableEq, Repr

/-- The header at a clause address: N, a malformed field, or a fetch that is not complete. -/
inductive HeaderAt where
  | ok (h : Header) (s : State)
  | bad
  | wait (s : State)
  deriving DecidableEq, Repr

/-- The instructions of a frame's entries that are issued again, a malformed frame, or a fetch that is not complete. -/
inductive Frame where
  | ok (l : List (Nat × Instr × List Byte)) (s : State)
  | bad
  | wait (s : State)
  deriving DecidableEq, Repr

namespace State

/-- The clause header at an address. -/
def headerAt (s : State) (c : CoreId) (pc : Nat) : HeaderAt :=
  match s.fetchWords c pc 1 with
  | .error (.fault _, _) => .bad
  | .error (.wait s, _) => .wait s
  | .error (.ok _ s, _) => .wait s
  | .ok (ws, s) =>
    match decodeHeader (ws.getD 0 0) with
    | some h => .ok h s
    | none => .bad

/-- The instruction that an entry names, when its address holds the entry's words. -/
def entryCode (s : State) (c : CoreId) (e : List Byte) : CodeAt :=
  let form := field e 8 8
  let pc := form % 2 ^ 57 / 4 * 4
  let k := formIndex form
  let ext := if field e 21 1 % 2 = 1 then some (BitVec.ofNat 32 (field e 4 4) : Word) else none
  match s.headerAt c pc with
  | .bad => .bad
  | .wait s => .wait s
  | .ok h s =>
    if k = 0 || h.n < k then .bad
    else
      match s.fetchWords c (pc + 4 * k) 1 with
      | .error (.fault _, _) => .bad
      | .error (.wait s, _) => .wait s
      | .error (.ok _ s, _) => .wait s
      | .ok (ws, s) =>
        if ws.getD 0 0 != BitVec.ofNat 32 (field e 0 4) then .bad
        else match decode h.cls (ws.getD 0 0) ext with
          | .ok i => .ok i s
          | .error _ => .bad

/-- The entries of a frame that are issued again: each must stand at its address, and one whose mask the handler has cleared is passed
over (R253). -/
def frameEntries (s : State) (c : CoreId) (f : List Byte) : List Nat → Frame
  | [] => .ok [] s
  | i :: is =>
    let e := (f.drop (128 + 960 * i)).take 960
    match s.entryCode c e with
    | .bad => .bad
    | .wait s => .wait s
    | .ok instr s =>
      match s.frameEntries c f is with
      | .ok l s => .ok (if field e 16 4 = 0 then l else (i, instr, e) :: l) s
      | r => r

/-- The slots of a frame: each that holds lanes stands at a clause header, within its clause (R253). -/
def frameSlots (s : State) (c : CoreId) (f : List Byte) : List (Nat × Nat) → Frame
  | [] => s.frameEntries c f (List.range (field f 3 1))
  | (form, mask) :: ss =>
    if mask = 0 then s.frameSlots c f ss
    else
      match s.headerAt c (form % 2 ^ 57 / 4 * 4) with
      | .bad => .bad
      | .wait s => .wait s
      | .ok h s => if h.n + 1 < formIndex form then .bad else s.frameSlots c f ss

/-- A frame's checks (R253). -/
def frameOf (s : State) (c : CoreId) (f : List Byte) : Frame :=
  if frameBad f then .bad else s.frameSlots c f [(field f 32 8, field f 40 4), (field f 48 8, field f 44 4)]

/-- The service word of a warp's frame (R157), at its home unless the own core pins the line. -/
def serviceWord (s : State) (b : Block) (w : Warp) : Nat :=
  let pa := s.framePool b w + 88
  if ((s.cached b.core pa).map (·.pin)).getD Pin.no != Pin.no then leVal (s.coreBytes b.core pa 8)
  else leVal (s.homeBytes b.core.dieId pa 8)

/-- A declined fault is delivered from the same frame (R253): its serviced flag is cleared. -/
def decline (s : State) (wid : WarpId) (w : Warp) (b : Block) (f : List Byte) : State :=
  let fa := s.framePool b w
  let s := s.deviceWrite b.core (fa + 2) (leBytes 1 (field f 2 1 - bit01 (bits (field f 2 1) 2 2 == 1) 2))
  s.deliver wid { w with handler := false, serving := false } b
    { cause := field f 1 1, slot := if bits (field f 2 1) 1 1 = 1 then .b else .a, addr := BitVec.ofNat 64 (field f 8 8)
      lanes := BitVec.ofNat 32 (field f 4 4), instr := BitVec.ofNat 64 (field f 16 8), aux := BitVec.ofNat 64 (field f 24 8) } true

/-- The warp leaves handler mode with a frame's slots, and the entries are issued again in their order (R253, R254). -/
def comeBack (s : State) (wid : WarpId) (w : Warp) (b : Block) (f : List Byte) (l : List (Nat × Instr × List Byte)) : State :=
  let s := l.foldl (fun s e => s.reinject wid e.1 e.2.1 e.2.2) (s.setWarp wid (restoreSlots w f))
  match s.warp? wid with
  | some w => s.settled wid b { w with parked := [] }
  | none => s

end State

/-! Images (R258-R261). -/

/-- The event slot that a record describes (R260). -/
def eventOf (r : List Byte) : EventSlot :=
  let kind := field r 0 1 % 16
  let src := field r 16 8
  { kind := kind, armed := bits (field r 1 1) 0 0 == 1, fired := bits (field r 1 1) 1 1 == 1, handler := BitVec.ofNat 64 (field r 8 8)
    source := BitVec.ofNat 64 (if kind = 1 || kind = 7 then src % 16 else src), phase := kind == 1 && bits src 8 8 == 1
    target := BitVec.ofNat 64 (if kind = 3 then field r 24 8 else if kind = 5 then src else 0), pa := 0 }

/-- The walker that a record describes (R260). -/
def walkerOf (r : List Byte) : Walker :=
  let bound : DWord := BitVec.ofNat 64 (field r 40 8)
  { bound := bound, desc := if bound = 0 then [] else r.take 32, i0 := field r 32 2, i1 := field r 34 2, i2 := field r 36 2, pre := [] }

/-- The warp that a record and its registers and tiles describe (R260, R261); `aux` holds what a poisoned register's frame
would say, which the record has no field for. -/
def warpOf (b : BlockId) (num units tiles : Nat) (r : List Byte) (aux : Nat → DWord) : Warp :=
  let regs := r.drop 11264
  let full := field r 288 16
  let poison := field r 304 16
  let j := field r 344 8
  { Warp.start b num units tiles 0 with
    v := (List.range (8 * units)).map fun i =>
      { lanes := lanesOf fun l => BitVec.ofNat 32 (field regs (128 * i + 4 * l) 4), full := full / 2 ^ i % 2 == 1
        poison := if poison / 2 ^ i % 2 = 1 then some { origin := BitVec.ofNat 64 (field r (2048 + 8 * i) 8), aux := aux i } else none }
    s := (List.range 64).map fun i => BitVec.ofNat 32 (field r (4 * i) 4)
    p := (List.range 8).map fun k => BitVec.ofNat 32 (field r (256 + 4 * k) 4)
    z := (List.range tiles).map fun z => (List.range 1024).map fun e => BitVec.ofNat 32 (field regs (1024 * units + 4096 * z + 4 * e) 4)
    a := slotOfForm (BitVec.ofNat 64 (field r 320 8)) (BitVec.ofNat 32 (field r 336 4))
    b := slotOfForm (BitVec.ofNat 64 (field r 328 8)) (BitVec.ofNat 32 (field r 340 4))
    j := if bits j 63 63 = 1 then some (BitVec.ofNat 64 (j % 2 ^ 57)) else none
    dsp := field r 352 2, evp := BitVec.ofNat 8 (field r 354 1), evm := BitVec.ofNat 8 (field r 355 1)
    handler := field r 356 1 % 2 == 1, timer := BitVec.ofNat 64 (field r 360 8), rff := BitVec.ofNat 32 (field r 368 4)
    rffol := BitVec.ofNat 32 (field r 372 4), rffoh := BitVec.ofNat 32 (field r 376 4), wef := BitVec.ofNat 32 (field r 380 4)
    events := (List.range 8).map fun i => eventOf ((r.drop (384 + 32 * i)).take 32)
    walkers := (List.range 8).map fun k => walkerOf ((r.drop (640 + 48 * k)).take 48)
    tvec := BitVec.ofNat 64 (field r 1024 8), lastBatch := BitVec.ofNat 32 (field r 1032 4), mxs := BitVec.ofNat 32 (field r 1036 4)
    bcast := BitVec.ofNat 32 (field r 1040 4), arrA := BitVec.ofNat 16 (field r 1044 2), arrF := BitVec.ofNat 16 (field r 1046 2) }

/-- A block header and lane map (R258, R259). -/
def blockBytes (b : BlockId) (k : Block) (state : Nat) : List Byte :=
  leBytes 2 1 ++ leBytes 1 state ++ zeros 5 ++ leBytes 8 b.grid ++ zeros 6 ++ leBytes 1 k.warps ++ leBytes 1 k.units ++
    leBytes 1 k.tiles ++ leBytes 1 k.bars ++ leBytes 1 k.grans.length ++ leBytes 1 b.j ++ leBytes 4 b.gang ++ leBytes 4 k.x ++
    leBytes 2 k.y ++ leBytes 2 k.z ++ leBytes 4 (endpointVal (coreEndpoint k.core)) ++ leBytes 4 k.straddle.toNat ++
    leBytes 8 k.cbAddr.toNat ++ leBytes 4 k.cbLen.toNat ++ zeros 4 ++ zeros 1984 ++
    (((k.laneMap.flatMap fun i => leBytes 2 (i % 1024)) ++ zeros 2048).take 2048)

namespace State

def frameBytesOf (s : State) (b : Block) (w : Warp) : List Byte := s.coreBytes b.core (s.framePool b w) 8192

/-- Whether a warp's service word is still 0 (R157). -/
def unserviced (s : State) (b : Block) (w : Warp) : Bool :=
  (w.serving || (w.handler && bits (leVal (s.coreBytes b.core (s.framePool b w + 2) 1)) 2 2 == 1)) && s.serviceWord b w == 0

/-- Whether a block has finished everything that a save or a retirement waits for before its pins end (R155, R191): no trap
and no TAKE is due, nothing is in flight but receives, no command is queued, no chain record is in progress, no tag of its prefetches is held. -/
def drained (s : State) (b : BlockId) (k : Block) (ws : List (WarpId × Warp)) : Bool :=
  ws.all (fun x => x.2.trap.isNone && !x.2.taking && x.2.flights.all fun f => isRecv f.instr) &&
    !(s.core k.core).mtx.any (fun c => ws.any (·.1 == c.w)) && !(s.core k.core).porter.any (fun c => ws.any (·.1 == c.w)) &&
    !((s.core k.core).tags.any fun t => t.2.held && match t.2.use with
      | .fill w _ => ws.any (·.1 == w)
      | _ => false) &&
    k.chans.all (·.doing.isNone) && !(s.inflight.any fun e => e.1 == .chainRecord && e.2.b == b && k.chans.any (·.doing.isSome))

def warpsOf (s : State) (b : BlockId) : List (WarpId × Warp) := s.warps.filter fun x => x.2.block == b

/-- Resources of a die come free: its Broker, and its package's, may ask again for grids that they were refused (R148). -/
def askAgain (s : State) (d : DieId) : State :=
  let cut := fun (s : State) (u k : BrokerId) => s.updBroker u fun b => { b with
    shares := b.shares.map fun (x : Nat × Share) => (x.1, { x.2 with refused := x.2.refused.filter (· != k) }) }
  cut (cut (cut s (.pkg d.pkg) (.die d.pkg d.die)) (.tray (trayOf d.pkg)) (.pkg d.pkg)) .rack (.tray (trayOf d.pkg))

/-- What a block held in its core is free: warp slots, receives, latches, granules (R141, R191, R195). -/
def freeBlock (s : State) (b : BlockId) (k : Block) : State :=
  let ids := (s.warpsOf b).map (·.1)
  let s : State := { s.askAgain k.core.dieId with warps := s.warps.filter fun x => x.2.block != b }
  (s.updCore k.core fun c => { c with
    recv := c.recv.filter fun r => !ids.contains r.2.1, latch := c.latch.filter fun l => !(ids.any fun w => w.slot == l.2.slot)
    mtx := c.mtx.filter (fun m => !ids.contains m.w), porter := c.porter.filter fun p => !ids.contains p.w }).updBlock b fun k =>
    { k with grans := [], slots := [], cbData := none, chans := List.replicate 4 Chan.idle }

/-- The idle cores of a gang are free when its last block is (R134). -/
def freeIdle (s : State) (g : GangRef) : State :=
  if s.blocks.any fun x => x.1.grid == g.grid && x.1.gang == g.gang && !x.2.slots.isEmpty then s
  else { s with cores := s.cores.map fun (x : CoreId × Core) =>
      if x.2.reserved == some g then (x.1, { x.2 with reserved := none, reservedGrans := [] }) else x }

/-- The Broker of a die looks whether it can place something (R142). -/
def poke (s : State) (d : DieId) : State := s.postOnce .coreReserve { d := d }

def pokePkg (s : State) (p : Nat) : State := (List.range 4).foldl (fun s d => s.poke { pkg := p, die := d }) s

/-- Write a block's image (R155, R258-R261) and take its warps off the core. A slot that stops within a clause commits what it holds, as
for a trap (R244). -/
def saveBlock (s : State) (b : BlockId) (k : Block) : State :=
  let ws := (s.warpsOf b).map fun x => (x.1, commitHeld (commitHeld x.2 .a) .b)
  let wait := ws.any fun x => s.unserviced k x.2
  let state := if wait then 2 else 1
  let base := s.slotPool k
  let area := warpArea k.units k.tiles k.stack
  let s := s.deviceWrite k.core base (blockBytes b k state)
  let s := ws.foldl (fun s x =>
    let a := s.areaPool k x.2
    let w := x.2
    let s := s.deviceWrite k.core a (warpBytes w)
    s.deviceWrite k.core (a + 11264) ((w.v.flatMap fun r => r.lanes.flatMap fun l => leBytes 4 l.toNat) ++
      w.z.flatMap fun z => z.flatMap fun e => leBytes 4 e.toNat)) s
  let s := s.deviceWrite k.core (base + 4096 + k.warps * area) (s.scratchBytes k 0 (16384 * k.grans.length))
  let kept := ws.filterMap fun x =>
    let r := (s.core k.core).recv.filterMap fun e =>
      if e.2.1 == x.1 then (x.2.flight? e.2.2).map fun f => (e.1, f) else none
    let kept : Kept :=
      { parked := x.2.parked, recv := r, engine := x.2.engine, rffMore := x.2.rffMore, serving := x.2.serving, narrow := x.2.narrow
        scA := x.2.a.scLast, scB := x.2.b.scLast, scStack := x.2.scStack, mstLines := x.2.mstLines, granted := x.2.granted }
    if kept == Kept.none then none else some (x.2.num, kept)
  (s.freeBlock b k).updBlock b fun k => { k with
    state := state, gone := (ws.filter (·.2.exited)).map (·.2.num), kept := kept }

/-- The blocks of a gang, in core order. -/
def gangOf (s : State) (g : GangRef) : List (BlockId × Block) := s.blocks.filter fun x => x.1.grid == g.grid && x.1.gang == g.gang

/-- A saved gang whose service words allow it joins its package's restore queue (R155, R158). -/
def offerGang (s : State) (g : GangRef) : State :=
  match s.gangOf g with
  | [] => s
  | x :: _ =>
    let all := (s.gangOf g).all fun y => y.2.state == 1 || y.2.state == 3
    if !all then s
    else
      let s := s.updBroker (.pkg x.2.core.pkg) fun k => { k with restore := if k.restore.contains g then k.restore else k.restore ++ [g] }
      s.pokePkg x.2.core.pkg

end State

/-- GANG_SAVE_COMPLETE (R155, R158): when every block of the gang has finished what it issued and its pins have ended, the
images are written and the die Broker reports SAVED. An Engine fault of a warp that waits for service stays due until it goes on. -/
def execGangSaveComplete (s : State) : Result :=
  let g := s.arg.g
  let bs := (s.gangOf g).filter fun x => x.2.state == 5
  .next <|
    match bs with
    | [] => s
    | x :: _ =>
      let later := fun s : State => s.afterOnce 1 .gangSaveComplete s.arg
      let s := s.warps.foldl (fun (s : State) y =>
        if bs.any (·.1 == y.2.block) then
          let s := (s.setWarp y.1 { y.2 with regrouping := none }).dropWaits y.1
          match y.2.engine with
          | some t => if y.2.exited || y.2.trap.isSome || y.2.serving then s else s.raise y.1 { t with slot := if y.2.a.live then .a else .b, aux := 0 }
          | none => s
        else s) s
      if !(bs.all fun y => s.drained y.1 y.2 (s.warpsOf y.1)) || (s.gangOf g).any (fun y => y.2.state == 4) then later s
      else
        let s := bs.foldl (fun s y => s.endShares y.2.core y.1) s
        if bs.any fun y => s.pinsEnding y.2.core y.1 then later s
        else
          let s := bs.foldl (fun s y => s.saveBlock y.1 y.2) s
          let s := (s.freeIdle g).noteCounts g.grid
          let d := x.2.core.dieId
          let s := (bs.map (·.2.core.dieId)).eraseDups.foldl (fun s d => s.poke d) s
          let s := s.tell .brokerSaved (.die d.pkg d.die) (.pkg d.pkg) g.grid g.gang 1 0
          (bs.map (·.2.core.dieId)).eraseDups.foldl (fun s d => s.reportAbove d g.grid) s

namespace State

/-- The counter of a COUNT slot is registered at its home again (R186, R188); one whose table line is pinned is looked at again later. -/
def rebindCounts (s : State) (wid : WarpId) : State :=
  match s.warp? wid with
  | none => s
  | some w =>
    let look := fun e : EventSlot => if canonical e.source then s.walk wid.core.dieId e.source.toNat else .fault 0x0C
    let es := w.events.map fun e =>
      if e.kind = 3 then
        match look e with
        | .ok t => { e with pa := t.phys e.source.toNat }
        | _ => { e with pa := 2 ^ 60 }
      else e
    let s := s.setWarp wid { w with events := es }
    if w.events.any fun e => e.kind == 3 && look e == .busy then s.afterOnce 1 .gangRestore { w := wid, flag := true } else s

/-- Load the warp of number n of a saved block into a slot (R161, R261). -/
def loadWarp (s : State) (b : BlockId) (k : Block) (n slot : Nat) : State :=
  let area := warpArea k.units k.tiles k.stack
  let r := s.homeBytes k.core.dieId (s.slotPool k + 4096 + n * area) area
  let wid : WarpId := { core := k.core, slot := slot }
  let kept := tget k.kept n Kept.none
  let free := s.free
  let w := warpOf b n k.units k.tiles r fun i => Config.freeWord (free + i)
  let fs := kept.recv.zipIdx.map fun x => (x.1.1, { x.1.2 with id := x.2 + 1, deps := [] })
  let w := { w with
    exited := k.gone.contains n, parked := kept.parked.map fun c => { c with w := wid }, flights := fs.map (·.2), nextId := fs.length + 1
    serving := kept.serving, engine := kept.engine, rffMore := kept.rffMore, narrow := kept.narrow
    a := { w.a with scLast := kept.scA }, b := { w.b with scLast := kept.scB }, scStack := kept.scStack
    mstLines := kept.mstLines, granted := kept.granted }
  let s : State := { s with free := s.free + 128 }
  let s := s.setWarp wid w
  let s := s.updCore k.core fun c => { c with recv := c.recv ++ fs.map fun f => (f.1, wid, f.2.id) }
  (List.range 8).foldl (fun s i =>
    if (w.walker i).bound != 0 && !walkOutput (w.walker i).desc then s.postOnce .walkerFetch { w := wid, n := i } else s) s

/-- A restored warp that waited for service goes on (R157, R158): its instruction is replayed, or the declined fault is
delivered. A frame that no longer passes RTT's checks is a double trap, and the block is lost. -/
def resume (s : State) (wid : WarpId) : State :=
  match s.warp? wid with
  | none => s
  | some w =>
    match s.block? w.block with
    | none => s
    | some b =>
      let f := s.frameBytesOf b w
      if w.exited || !w.serving then s
      else if s.serviceWord b w = 2 then s.decline wid w b f
      else
        match s.frameOf wid.core f with
        | .ok l s => s.comeBack wid w b f l
        | .wait s => s.afterOnce 1 .gangRestore { w := wid, flag := true }
        | .bad => s.loseBlock w.block

/-- The barriers of a lost block's gang that name it are broken, and the waits of its gang look again (R263); those of a saved block when
it is restored. -/
def breakGang (s : State) (b : BlockId) : State :=
  let mates := (s.gangOf { grid := b.grid, gang := b.gang }).filter fun x => x.2.state != 3
  let s := mates.foldl (fun s x =>
    (List.range 16).foldl (fun s k =>
      if k < 8 || x.2.bars ≤ k || x.2.slots.isEmpty then s
      else
        match s.barHome x.1 x.2 k with
        | .at_ t off =>
          match s.block? t with
          | none => s
          | some tb =>
            let o := Sys2Proof.Machine.barOf (s.scratchBytes tb off 16)
            if o.maskrec && o.mask.getLsbD b.j && !o.broken then s.breakBar t k else s
        | _ => s) s) s
  (s.warps.filter fun x => mates.any (·.1 == x.2.block)).foldl (fun s x => s.evalEvents x.1) s

/-- Load a saved block's scratchpad and warps (R194, R261); its events are evaluated (R188), and the
barriers that name a block lost in the meantime are broken (R263). -/
def loadBlock (s : State) (b : BlockId) (k : Block) (slots : List Nat) : State :=
  let area := warpArea k.units k.tiles k.stack
  let k := { k with slots := slots, state := 0 }
  let s := s.setBlock b k
  let s := s.scratchPut k 0 (s.homeBytes k.core.dieId (s.slotPool k + 4096 + k.warps * area) (16384 * k.grans.length))
  let s := s.deviceWrite k.core (s.slotPool k + 2) (leBytes 1 0)
  let s := (slots.zipIdx).foldl (fun s x => s.loadWarp b k x.2 x.1) s
  let s := s.updBlock b fun k => { k with kept := [], gone := [] }
  let s := slots.foldl (fun s n =>
    let wid : WarpId := { core := k.core, slot := n }
    (s.rebindCounts wid).evalEvents wid) s
  let s := s.pumpMail k.core (s.core k.core).recv
  let s := ((s.gangOf { grid := b.grid, gang := b.gang }).filter fun x => x.2.state == 3).foldl (fun s x => s.breakGang x.1) s
  slots.foldl (fun s n => s.resume { core := k.core, slot := n }) s

/-! Retirement and loss (R191, R162, R263). -/

/-- Count the posted-store and Engine faults that a block's warps never took (R191, R221, R242). -/
def countLeft (s : State) (b : BlockId) : State :=
  (s.warpsOf b).foldl (fun s x =>
    let n := bits x.2.rff.toNat 23 16 + x.2.rffMore
    let s := if n = 0 then s else s.countFault b n (pairVal x.2.rffol x.2.rffoh) (bits x.2.rff.toNat 31 24)
    match x.2.engine with
    | some t => s.countFault b 1 t.addr (t.aux.toNat % 256)
    | none => s) s

/-- The linear index of a block (R134). -/
def blockIndex (s : State) (b : BlockId) : Nat :=
  match s.launch? b.grid with
  | some l => b.gang * l.cores + b.j
  | none => 0

/-- A block's counted faults go into the record of its launch; the first gives address, cause and block (R88). -/
def reportFaults (s : State) (b : BlockId) : State :=
  match s.block? b with
  | some k =>
    if k.pfCount = 0 then s
    else
      let i := s.blockIndex b
      s.updLaunch b.grid fun l =>
        if l.pfCount = 0 then { l with pfCount := k.pfCount, pfAddr := k.pfAddr, pfCause := k.pfCause, pfBlock := i }
        else { l with pfCount := l.pfCount + k.pfCount }
  | none => s

/-- Instructions of a lost block that have not left its core are dropped; the others are answered. -/
def dropUnsent (s : State) (b : BlockId) : State :=
  (s.warpsOf b).foldl (fun (s : State) x =>
    let s := x.2.flights.foldl (fun (s : State) f => s.dropTags x.1 f.id) s
    s.updWarp x.1 fun w =>
      { w with trap := none, engine := w.engine, regrouping := none
               flights := (w.flights.filter fun f => f.sent != 0 && f.fault.isNone).map fun f =>
                 { f with remaining := 0, waiting := 0, slots := [], deps := [] } }) s

end State

/-- BLOCK_RETIRE (R191): a block whose last warp has exited, or (flag) a block that is lost (R162, R246), gives up its core;
it is counted at its die's Broker (R137). -/
def execBlockRetire (s : State) : Result :=
  let b := s.arg.b
  .next <|
    match s.block? b with
    | none => s
    | some k =>
      let lost := k.state == 3
      let ws := s.warpsOf b
      let dead := (s.die k.core.dieId).lost
      if (lost && k.slots.isEmpty) || k.state = 1 || k.state = 2 || (!lost && s.arg.flag) then s
      else if !lost && !(ws.all (·.2.laneless)) then s
      else
        let later := fun s : State => s.afterOnce 1 .blockRetire s.arg
        let s := if lost then s.dropUnsent b else s.setBlock b { k with state := 4 }
        let ws := s.warpsOf b
        let s := if lost then s.updCore k.core fun c => { c with
            mtx := c.mtx.filter (fun m => !(ws.any (·.1 == m.w))), porter := c.porter.filter fun p => !(ws.any (·.1 == p.w)) }
          else s
        let k := { k with state := if lost then 3 else 4, chans := if lost then List.replicate 4 Chan.idle else k.chans }
        let scope := ((s.launch? b.grid).map (·.relScope)).getD 0
        if !dead && !s.drained b k ws then later s
        else
          let s := if dead then s else s.endShares k.core b
          if !dead && (s.pinsEnding k.core b ||
              (3 ≤ scope && ws.any fun x => x.2.narrow.any fun y => (s.die y.1).pushes.any fun p => p.line == y.2)) then later s
          else
            let s := (s.countLeft b).reportFaults b
            let s := s.freeBlock b k
            let s := if lost then s.breakGang b else { s with blocks := tdel s.blocks b }
            let s := s.freeIdle { grid := b.grid, gang := b.gang }
            let d := k.core.dieId
            ((s.count (.die d.pkg d.die) b.grid (if lost then 0 else 1) (if lost then 1 else 0)).noteCounts b.grid).pokePkg d.pkg

end Sys2Proof.Machine
end

