-- ==== Sys2Proof/Machine/System.lean ====
section
/-! DEFINITION. The SYS class (R408-R412): TRAP, BKPT and RTT, LAUNCH, the control registers, TLBINV; and the fill of the
instruction caches (R299, R301). -/

namespace Sys2Proof.Machine

namespace State

/-- A trap whose resume point lies after its instruction of n words (R250, R409). -/
def trapAfter (s : State) (x : Site) (n cause : Nat) (aux : DWord) : Result :=
  let (s, st) := s.stamp x
  let sl := { (x.w.slot x.sel) with issued := st.issued, claimed := st.claimed, started := st.started, first := st.first
                                    parkedWait := false }
  let w := if x.k + n ≤ x.n then x.w.setSlot x.sel { sl with k := x.k + n }
    else toClause (x.w.setSlot x.sel sl) x.sel x.nextClause
  .next ((s.setWarp x.wid w).raise x.wid
    { cause := cause, slot := x.sel, addr := 0, lanes := x.sl.mask, instr := x.addr, aux := aux })

end State

/-- TRAP (R409): Software, with the code of the RI form. -/
def execTrap (r : Ri) (s : State) : Result := s.atSite fun x => s.trapAfter x 1 0x20 (r.imm.setWidth 64)

/-- TRAP in its long form (R409): the code is XI [15:0]. -/
def execTrapXi (_ : Ri) (xi : Word) (s : State) : Result := s.atSite fun x => s.trapAfter x 2 0x20 ((xi.setWidth 16).setWidth 64)

/-- BKPT (R409): Breakpoint. -/
def execBkpt (_ : Reg) (s : State) : Result := s.atSite fun x => s.trapAfter x 1 0x21 0

/-- RTT (R253): it waits for the warp's earlier operations, checks the frame, waits for service, and returns. -/
def execRtt (_ : Reg) (s : State) : Result :=
  s.atSite fun x =>
    if !(x.w.flights.all fun f => isRecv f.instr) || !(s.core x.core).mtx.all (fun c => c.w != x.wid) ||
        !(s.core x.core).porter.all (fun c => c.w != x.wid) then s.stall
    else if !x.w.handler then s.trapWhole x 2 0
    else
      let f := s.frameBytesOf x.b x.w
      if x.sel == .b || x.w.b.live || x.w.j.isSome || x.w.dsp != field f 64 2 then s.trapWhole x 0x0F 0
      else
        match s.frameOf x.core f with
        | .bad => s.trapWhole x 0x0F 0
        | .wait s => s.stall
        | .ok l s =>
          let served := bits (field f 2 1) 2 2 == 1
          let v := s.serviceWord x.b x.w
          if served && v == 0 then s.stall
          else
            let (s, st) := s.stamp x
            let w := commitHeld (x.w.setSlot x.sel { x.sl with issued := st.issued, started := st.started }) x.sel
            if served && v == 2 then .next (s.decline x.wid w x.b f) else .next (s.comeBack x.wid w x.b f l)

/-! Control registers (R411). -/

/-- The register numbers, and those that may be written. -/
def csrKnown (n : Nat) : Bool := decide (n < 4) || csrWritable n
where
  csrWritable (n : Nat) : Bool := decide (0x10 ≤ n) && decide (n < 0x14)

/-- The content of a control register. -/
def State.csr (s : State) (d : DieId) (n : Nat) : Word :=
  match n with
  | 0 => BitVec.ofNat 32 (s.workingCount d * 2 ^ 16 + s.dom.ncol % 256 * 2 ^ 8 + s.dom.nrow % 256)
  | 1 => (s.die d).cur.version.setWidth 32
  | 2 => BitVec.ofNat 32 s.dom.timeout
  | 3 => BitVec.ofNat 32 s.dom.symSize
  | n => (s.die d).dscr.getD (n - 0x10) 0

/-- CSRR (R411), in a privileged launch (R408). -/
def execCsrr (r : Ri) (s : State) : Result :=
  s.atSite fun x =>
    let n := r.imm.toNat
    if !csrKnown n then s.trapWhole x 2 0
    else if !x.b.priv then s.trapWhole x 3 0
    else if !scalarOk r.d.toNat then s.trapWhole x 4 0
    else .next (s.advance x 1 (x.w.writeNow x.sel r.d.toNat (s.csr x.core.dieId n)))

/-- CSRW (R411), in a privileged launch (R408). -/
def execCsrw (r : Ri) (s : State) : Result :=
  s.atSite fun x =>
    let n := r.imm.toNat
    let a := r.a.toNat
    if !csrKnown.csrWritable n then s.trapWhole x 2 0
    else if !x.b.priv then s.trapWhole x 3 0
    else if !scalarOk a then s.trapWhole x 4 0
    else
      let s := s.updDie x.core.dieId fun k => { k with dscr := lput k.dscr (n - 0x10) (x.w.sreg a) 0 }
      .next (s.advance x 1 x.w)

/-! TLBINV (R412). -/

namespace State

/-- The dies that lie within a scope of a core's die, from die scope up. -/
def diesIn (s : State) (c : CoreId) (scope : Nat) : List DieId :=
  let pkgs := match scope with
    | 2 => [c.pkg]
    | 3 => s.trayMembers (trayOf c.pkg)
    | _ => s.members
  if scope = 1 then [c.dieId]
  else ((if pkgs.contains c.pkg then pkgs else c.pkg :: pkgs).flatMap fun p =>
    [{ pkg := p, die := 0 }, { pkg := p, die := 1 }, { pkg := p, die := 2 }, { pkg := p, die := 3 }])

/-- The translations of a page that filled miss slots hold, on the cores of a reach, are gone (R64, R66). -/
def dropFound (s : State) (va : Nat) (at_ : CoreId → Bool) : State :=
  { s with warps := s.warps.map fun (x : WarpId × Warp) =>
      if at_ x.1.core then (x.1, { x.2 with flights := x.2.flights.map fun f => { f with found := tlbDrop f.found va } }) else x }

/-- Whether a page, as address and log2 of its size, contains an address. -/
def pageHas (va : Nat) (p : Nat × Nat) : Bool := decide (p.1 ≤ va) && decide (va < p.1 + 2 ^ p.2)

/-- Drop a page's translations from every tier of a die, those that a miss slot already holds among them, and the page's lines from the die's
instruction caches (R64, R301, R412). A line of the page that is on its way is asked for again. -/
def dropPage (s : State) (va : Nat) (d : DieId) : State :=
  let s := s.dropFound va fun c => c.dieId == d
  let keep := fun t : Tab Nat CodeLine => t.filter fun x => !x.2.pages.any (pageHas va)
  let late := ((s.die d).attached.filter fun x => x.2.any fun y => pageHas va y.2).map (·.1)
  let s := if s.dies.any (·.1 == d) then s.updDie d fun k => { k with
    tlb := tlbDrop k.tlb va, icache := keep k.icache
    attached := (k.attached.map fun x => (x.1, x.2.filter fun y => !pageHas va y.2)).filter fun x => !x.2.isEmpty
    walkCache := k.walkCache.filter fun x => x.1.2 != va / 2 ^ levelLog x.1.1 } else s
  { s with cores := s.cores.map fun (x : CoreId × Core) =>
      if x.1.dieId == d then (x.1, { x.2 with
        tlb := tlbDrop x.2.tlb va, icache := keep x.2.icache
        tags := x.2.tags.map fun (t : Nat × Tag) => match t.2.use with
          | .ifetch n => if late.contains n then (t.1, { t.2 with stale := true }) else t
          | _ => t }) else x }

/-- Drop a page's translations from the FE dies of packages (R64, R138). -/
def dropFe (s : State) (va : Nat) (ps : List Nat) : State :=
  { s with pkgs := s.pkgs.map fun (x : Nat × Package) =>
      if ps.contains x.1 then (x.1, { x.2 with feTlb := tlbDrop x.2.feTlb va }) else x }

/-- TLBINV of a form. -/
def tlbinvOf (s : State) (r : Reg) (n scope : Nat) : Result :=
  s.atSite fun x =>
    let a := r.a.toNat
    let va := x.w.spair a
    if !scalarOk a then s.trapWhole x 4 0
    else if !canonical va then s.trapWhole x 0x0C va
    else if threadHas x.w x.sel fun g => (roles g.instr).2 then s.stall
    else if !s.releaseReady x.core x.w scope then (s.startRelease x.core x.w scope).stall
    else
      let s := if scope = 0 then (s.dropFound va.toNat (· == x.core)).updCore x.core fun k => { k with tlb := tlbDrop k.tlb va.toNat }
        else
          let ds := s.diesIn x.core scope
          let s := ds.foldl (fun s d => s.dropPage va.toNat d) s
          if scope = 1 then s else s.dropFe va.toNat (ds.map (·.pkg))
      .next (s.advance (s.reSite x) n (s.reSite x).w)

end State

def execTlbinv (r : Reg) (s : State) : Result := s.tlbinvOf r 1 0
def execTlbinvXm (r : Reg) (x : Xm) (s : State) : Result := s.tlbinvOf r 2 x.scope.toNat

/-! LAUNCH (R101, R410). -/

/-- The child grids in flight on a die, and those whose packet has yet to be taken up. -/
def State.childCount (s : State) (d : DieId) : Nat :=
  (s.launches.filter fun x => x.2.src == .child d).length +
    (s.inflight.filter fun e => e.1 == .launchPacket && e.2.src == .child d).length +
    (s.timers.filter fun e => e.2.1 == .launchPacket && e.2.2.src == .child d).length

/-- LAUNCH (R410): its packet is translated before it waits (R242) and goes to the die's Broker; `flag` says that the parent is
privileged. -/
def execLaunch (r : Reg) (s : State) : Result :=
  s.atSite fun x =>
    let a := r.a.toNat
    let va := x.w.spair a
    let d := x.core.dieId
    if !scalarOk a then s.trapWhole x 4 0
    else if !canonical va then s.trapWhole x 0x0C va
    else if va.toNat % 64 != 0 then s.trapWhole x 0x0D va
    else
      match s.translate x.core va.toNat with
      | .busy => s.stall
      | .fault c => s.trapWhole x c va
      | .ok e s =>
        if !permitted e false false then s.trapWhole x 0x12 va
        else if (s.homeAt d (e.phys va.toNat)).isNone then s.trapWhole x 0x0E va
        else match s.releaseAt x 1 with
        | some s => s.stall
        | none =>
          if 16 ≤ s.childCount d then s.stall
          else
            match s.readVirtual 0 x.core 0 va.toNat 64 2 with
            | .busy => (s.sense 0 x.core va.toNat 64).stall
            | .fault c _ => s.trapWhole x c va
            | .error _ _ _ => .next (s.advance x 1 x.w)
            | .ok bs s => .next ((s.advance x 1 x.w).post .launchPacket { src := .child d, bytes := bs, flag := x.b.priv })

/-- IFETCH_FILL (R299, R301, R428): a line of the die's package arrives at its instruction cache and goes to every core that waits for
it; one of another package is asked for with a plain LINE-READ under a tag of the first of them. A line that a core pins is asked for
again (R207), also when no tag is free (R44) or the cores that want it may not have it (R122); a poisoned one is not kept (R427), and the cores ask for it again (log 125). -/
def execIfetchFill (s : State) : Result :=
  let d := s.arg.d
  let n := s.arg.n
  .next <|
    match s.homeAt d (n * 128) with
    | none => s
    | some h =>
      let cs := (tget (s.die d).attached n []).map (·.1)
      let asked := s.cores.any fun k => k.1.dieId == d && k.2.tags.any fun t => t.2.held && !t.2.stale && t.2.use == .ifetch n
      if h.pkg != d.pkg then
        match cs with
        | [] => s
        | c :: _ => if asked then s else (s.lineRequest c h 1 (n * 128) (.ifetch n)).getD (s.after 1000 .ifetchFill s.arg)
      else if (s.pinHolder h).isSome then s.after 1000 .ifetchFill s.arg
      else if cs.any fun c => s.shut 0 c h then
        (cs.foldl (fun (s : State) c => if s.shut 0 c h then s.stopAt 0 c h else s) s).after 1000 .ifetchFill s.arg
      else match s.reach d (n * 128) with
        | .at_ h pa s =>
          if (s.die h.dieId).lost || s.isPoisoned h then s.updDie d fun k => { k with attached := tdel k.attached n }
          else s.icacheFill d n (s.homeBytes h.dieId pa 128)
        | _ => s.updDie d fun k => { k with attached := tdel k.attached n }

end Sys2Proof.Machine
end

