-- ==== Sys2Proof/Machine/Place.lean ====
section
/-! DEFINITION. Placement at the die and package Brokers (R134, R141-R147, R160, R161, R165, R194, R257): room, reservation
and its preparation, rollback, commit, straddled gangs, restore, and TAKE's answers (R152, R319). -/

namespace Sys2Proof.Machine

/-- The granules that a block of a launch takes (R87, R141). -/
def Launch.granules (l : Launch) : Nat := (l.scratch + 15) / 16

/-- The size of a block's slot in the registry's heap (R258). -/
def Launch.slotSize (l : Launch) : Nat := slotBytesOf l.units l.tiles l.stack l.warps l.granules

/-- The address whose home a gang of a placement-mode launch has (R138). -/
def Launch.gangAddr (l : Launch) (g : Nat) : Nat := (l.placeBase.toNat + g * l.cores * l.placeStride) % 2 ^ 64

def Launch.isChild (l : Launch) : Bool :=
  match l.src with
  | .child _ => true
  | _ => false

/-- The half of a straddled gang in the layout of Data 1 (R145). -/
def halfWord (die h w origin : Nat) : Nat := die * 2 ^ 14 + (h - 1) * 2 ^ 11 + (w - 1) * 2 ^ 8 + origin

/-- A gang in the order of R142: effective priority, restored or not, when its grid started and its serial, index. -/
structure Cand where
  prio : Nat
  saved : Bool
  start : Nat
  serial : Nat
  ref : GangRef
  deriving DecidableEq, Repr

/-- Whether a comes before b (R142). -/
def Cand.before (a b : Cand) : Bool :=
  if a.prio != b.prio then decide (b.prio < a.prio)
  else if a.saved != b.saved then a.saved
  else if a.start != b.start then decide (a.start < b.start)
  else if a.serial != b.serial then decide (a.serial < b.serial)
  else decide (a.ref.gang ≤ b.ref.gang)

def insertCand (c : Cand) : List Cand → List Cand
  | [] => [c]
  | d :: ds => if c.before d then c :: d :: ds else d :: insertCand c ds

/-- The warp slots that n warps of a block take in turn (R165): the lowest free slot of the quadrant with the fewest
occupied slots. -/
def pickSlots : Nat → List Nat → List Nat
  | 0, _ => []
  | n + 1, occ =>
    let used := fun q : Nat => (occ.filter fun k => k % 4 == q).length
    let q := [1, 2, 3].foldl (fun b q => if used q < used b then q else b) 0
    match (List.range 64).find? fun k => k % 4 == q && !occ.contains k with
    | some k => k :: pickSlots n (k :: occ)
    | none => []

namespace State

/-! Room (R141). -/

/-- The blocks that hold resources of a core. -/
def holding (s : State) (c : CoreId) : List Block := (s.blocks.filter fun x => x.2.core == c && !x.2.slots.isEmpty).map (·.2)

/-- Whether a core's free amounts are what a block of a launch needs. -/
def hasRoom (s : State) (c : CoreId) (l : Launch) : Bool :=
  let k := s.die c.dieId
  let bs := s.holding c
  let sum := fun f : Block → Nat => sumList (bs.map f)
  k.working.getLsbD c.pos && !k.lost && k.released &&
    decide (sum (·.warps) + l.warps ≤ 64) && decide (sum (fun b => b.warps * b.units) + l.warps * l.units ≤ 512) &&
    decide (sum (fun b => b.warps * b.tiles) + l.warps * l.tiles ≤ 16) && decide (sum (·.bars) + l.bars ≤ 32) &&
    decide (sum (·.grans.length) + l.granules ≤ 16)

/-- A core with room that is reserved for no gang. -/
def openRoom (s : State) (c : CoreId) (l : Launch) : Bool := (s.core c).reserved.isNone && s.hasRoom c l

/-- The lowest-numbered free granules of a core (R194). -/
def freeGrans (s : State) (c : CoreId) (n : Nat) : List Nat :=
  let held := (s.holding c).flatMap (·.grans) ++ (s.core c).reservedGrans
  ((List.range 16).filter fun g => !held.contains g).take n

def coreAt (d : DieId) (pos : Nat) : CoreId := { pkg := d.pkg, die := d.die, pos := pos }

/-! Reservations. -/

def dieBroker (d : DieId) : BrokerId := .die d.pkg d.die

def reservations (s : State) (k : BrokerId) : List Reservation := (s.broker k).reservations

def setReservation (s : State) (k : BrokerId) (g : GangRef) (f : Reservation → Reservation) : State :=
  s.updBroker k fun b => { b with reservations := b.reservations.map fun r => if r.gang == g then f r else r }

def dropReservation (s : State) (k : BrokerId) (g : GangRef) : State :=
  s.updBroker k fun b => { b with reservations := b.reservations.filter (·.gang != g) }

/-! The heap (R257). -/

/-- The slots of a package's heap that are held, by blocks or for gangs that commit, as byte ranges. -/
def heapUsed (s : State) (p : Nat) : List (Nat × Nat) :=
  let slot := fun (h a : Nat) => (s.launch? h).map fun l => (a, a + l.slotSize)
  ((s.blocks.filter fun x => x.2.core.pkg == p).filterMap fun x => slot x.1.grid x.2.heap) ++
    ((s.brokers.filter fun x => pkgOf x.1 == some p).flatMap fun x =>
      x.2.reservations.flatMap fun r => r.slots.filterMap (slot r.gang.grid))

/-- The lowest free place for n bytes in a package's heap, beside places already given. -/
def heapPlace (s : State) (p n : Nat) (more : List (Nat × Nat)) : Option Nat :=
  let used := s.heapUsed p ++ more
  let size := s.registryWord 16 * 65536
  let free := fun a : Nat => decide (a + n ≤ size) && used.all fun u => decide (a + n ≤ u.1) || decide (u.2 ≤ a)
  let starts := 0 :: used.map (·.2)
  (starts.filter free).foldl (fun b a => match b with
    | none => some a
    | some b => some (min a b)) none

/-- Places for several slots of n bytes. -/
def heapPlaces (s : State) (p n : Nat) : Nat → List (Nat × Nat) → Option (List Nat)
  | 0, _ => some []
  | m + 1, more =>
    match s.heapPlace p n more with
    | none => none
    | some a => (s.heapPlaces p n m (more ++ [(a, a + n)])).map fun l => a :: l

end State

/-- Whether every core of a reservation counts as reserved (R146, R194). -/
def Reservation.complete (r : Reservation) : Bool := r.cores.all fun c => r.got.contains c.1

namespace State

/-- How often a gang was rolled back (R147), wherever it was. -/
def rollbacksOf (s : State) (g : GangRef) : Nat :=
  sumList (s.brokers.map fun x => tget (tget x.2.shares g.grid Share.empty).rollbacks g.gang 0)

/-- A gang's effective priority (R147). -/
def effPrio (s : State) (l : Launch) (g : GangRef) : Nat := min 7 (l.prio + s.rollbacksOf g / 3)

/-- The legal rectangles of a launch's shape on a die, as core lists with their numbers j (R143). -/
def rects (s : State) (d : DieId) (l : Launch) : List (List (CoreId × Nat)) :=
  (rectOrigins (s.die d).working l.rows l.cols).map fun o =>
    (rectPositions o l.rows l.cols).map fun q => (coreAt d q.1, q.2)

/-- Whether a block of the gang is to run on core j (R134); of a restored gang, one that is not lost. -/
def wantsBlock (s : State) (l : Launch) (g : GangRef) (restoring : Bool) (j : Nat) : Bool :=
  decide (j < l.gangBlocks g.gang) &&
    (!restoring || match s.block? { grid := g.grid, gang := g.gang, j := j } with
      | some k => k.state != 3
      | none => false)

/-- The candidate that a gang of a launch is. -/
def candOf (s : State) (l : Launch) (saved : Bool) (g : GangRef) : Cand :=
  { prio := s.effPrio l g, saved := saved, start := l.start.toNat, serial := l.serial.toNat, ref := g }

/-- The raises of a gang end (R147). -/
def clearRollbacks (s : State) (g : GangRef) : State :=
  { s with brokers := s.brokers.map fun (x : BrokerId × Broker) => (x.1, { x.2 with
      shares := x.2.shares.map fun (y : Nat × Share) => if y.1 = g.grid then (y.1, { y.2 with rollbacks := tdel y.2.rollbacks g.gang }) else y }) }

/-- A core counts as reserved (R194); with the last one, the gang may commit (R146). -/
def countCore (s : State) (k : BrokerId) (r : Reservation) (c : CoreId) : State :=
  let add := fun (s : State) (k : BrokerId) => s.setReservation k r.gang fun r => { r with got := r.got ++ [c] }
  let s := add s k
  let u := if r.straddled then BrokerId.pkg c.pkg else k
  let s := if r.straddled then add s u else s
  match (s.reservations u).find? (·.gang == r.gang) with
  | some p => if p.complete then s.postOnce .gangCommit { g := r.gang, k := u } else s
  | none => s

/-- Begin the preparation of a core for a gang (R146, R194): it is reserved, its granules are taken, and the lines of the
granules that leave the cache are written back or dropped. One that takes no granules needs none. -/
def beginCore (s : State) (k : BrokerId) (l : Launch) (r : Reservation) (x : CoreId × Nat) : State :=
  let c := x.1
  let n := if s.wantsBlock l r.gang r.restoring x.2 then l.granules else 0
  let grans := s.freeGrans c n
  let s := s.updCore c fun v => { v with reserved := some r.gang, reservedGrans := grans }
  let top := s.boundary c
  let s := ((s.core c).lines.filter fun v => decide (v.gran < top)).foldl (fun s v =>
    match v.pin with
    | .held => s.writeBack c v
    | .no => s.dropLine c v.pa
    | .ending => s) s
  let s := s.setReservation k r.gang fun r => { r with begun := r.begun ++ [c] }
  if n = 0 then s.countCore k r c else s.postOnce .preparationComplete { c := c, g := r.gang, k := k }

/-- Reserve each core of a Broker's reservations that has gained room (R146). -/
def grab (s : State) (k : BrokerId) : State :=
  (s.reservations k).foldl (fun s r =>
    match s.launch? r.gang.grid with
    | none => s
    | some l => r.cores.foldl (fun s x =>
        match (s.reservations k).find? (·.gang == r.gang) with
        | some r => if r.begun.contains x.1 || !s.openRoom x.1 l then s else s.beginCore k l r x
        | none => s) s) s

/-- Release the cores that a reservation has begun (R147, R195). -/
def releaseCores (s : State) (r : Reservation) : State :=
  { s with cores := s.cores.map fun (x : CoreId × Core) =>
      if r.begun.contains x.1 && x.2.reserved == some r.gang then (x.1, { x.2 with reserved := none, reservedGrans := [] }) else x }

/-- A gang returns to where it waited: the restore queue, or the unstarted gangs of its die's Broker (R147, R417). -/
def returnGang (s : State) (r : Reservation) : State :=
  if r.restoring then
    s.updBroker (.pkg r.owner.pkg) fun b => { b with restore := if b.restore.contains r.gang then b.restore else r.gang :: b.restore }
  else s.updShare (dieBroker r.owner) r.gang.grid fun h => { h with
    runs := if h.runs.any (fun q => decide (q.1 ≤ r.gang.gang) && decide (r.gang.gang < q.1 + q.2)) then h.runs
      else putRun h.runs (r.gang.gang, 1) }

/-- The half of a straddled gang on a die, of the cores of its reservation, in the layout of Data 1 (R145). -/
def halfOf (s : State) (d : DieId) (g : GangRef) (cores : List (CoreId × Nat)) : Nat :=
  match s.launch? g.grid, cores.filter fun x => x.1.dieId == d with
  | some l, x :: xs =>
    let w := if ((x :: xs).map fun y => y.2 % l.cols).eraseDups.length < l.cols then l.cols / 2 else l.cols
    halfWord d.die ((x :: xs).length / w) w x.1.pos
  | _, _ => 0

/-- What a block of a straddled gang keeps of its half (R259). -/
def straddleOf (s : State) (d : DieId) (r : Reservation) : Word := BitVec.ofNat 32 (2 ^ 16 + s.halfOf d r.gang r.cores)

/-- A straddled reservation as its package's Broker holds it; none once it has sent COMMIT. -/
def wholeOf (s : State) (r : Reservation) : Option Reservation := (s.reservations (.pkg r.owner.pkg)).find? (·.gang == r.gang)

/-- The package's Broker tells both dies of a straddled reservation, each its half (R145), but for one Broker that knows. -/
def tellHalves (s : State) (i : Instr) (r : Reservation) (knows : BrokerId) : State :=
  let dies := ((r.cores.map fun (c : CoreId × Nat) => c.1.dieId).eraseDups).filter fun d => dieBroker d != knows
  dies.foldl (fun (s : State) d => s.tell i (.pkg r.owner.pkg) (dieBroker d) r.gang.grid r.gang.gang 1
    (BitVec.ofNat 64 (s.halfOf d r.gang r.cores))) s

/-- A straddled reservation is given up at its package's Broker, whose dies learn it. -/
def giveUp (s : State) (r : Reservation) (knows : BrokerId) : State :=
  match s.wholeOf r with
  | some w => (s.tellHalves .brokerRollback w knows).dropReservation (.pkg r.owner.pkg) r.gang
  | none => s

/-- Roll a reservation back (R147); a straddled one at both dies. -/
def rollback (s : State) (k : BrokerId) (r : Reservation) : State :=
  let s := s.updShare (dieBroker r.owner) r.gang.grid fun h => { h with
    rollbacks := tset h.rollbacks r.gang.gang (tget h.rollbacks r.gang.gang 0 + 1) }
  let s := if r.straddled then s.giveUp r k else (s.releaseCores r).dropReservation k r.gang
  (s.returnGang r).poke r.owner

/-- The reservations that a die takes part in and that are not committed, each with the Broker that holds it whole (R146). -/
def openReservations (s : State) (d : DieId) : List (BrokerId × Reservation) :=
  let own := (s.reservations (dieBroker d)).filter fun r => !r.straddled
  let both := (s.reservations (.pkg d.pkg)).filter fun r => r.cores.any fun c => c.1.dieId == d
  own.map (fun r => (dieBroker d, r)) ++ both.map fun r => (BrokerId.pkg d.pkg, r)

/-- The cores of a reservation on which a block is to run (R134). -/
def goCores (s : State) (l : Launch) (r : Reservation) : List (CoreId × Nat) :=
  r.cores.filter fun x => s.wantsBlock l r.gang r.restoring x.2

/-- Whether a reservation can still be rolled back: it is incomplete (R147), or complete without heap slots (R257). -/
def yielding (s : State) (l : Launch) (r : Reservation) : Bool :=
  !r.complete || (!r.restoring && r.slots.isEmpty && (s.heapPlaces r.owner.pkg l.slotSize (s.goCores l r).length []).isNone)

/-- A gang of an effective priority is queued at a die's Broker: a reservation of one of lower priority that is not complete, or has no
heap slots, is rolled back (R147, R257). -/
def queuedAt (s : State) (d : DieId) (prio : Nat) : State :=
  ((s.openReservations d).foldl (fun s x =>
    match s.launch? x.2.gang.grid with
    | some l =>
      let e := s.effPrio l x.2.gang
      if s.yielding l x.2 && e < prio && e < 7 then s.rollback x.1 x.2 else s
    | none => s) s).poke d

/-- A reservation ends at a die without a rollback (the die is lost, or R153 takes other cores): its cores are free, and the gang is again
where it waited. -/
def cancelReservation (s : State) (d : DieId) (r : Reservation) : State :=
  let k := dieBroker d
  let s := match (s.reservations k).find? (·.gang == r.gang) with
    | some h => (s.releaseCores h).dropReservation k r.gang
    | none => s
  (if r.straddled then s.giveUp r k else s).returnGang r

/-- The highest effective priority in runs of gangs of a grid (R147). -/
def runsPrio (s : State) (l : Launch) (h : Nat) (rs : List (Nat × Nat)) : Nat :=
  let raised := (s.brokers.flatMap fun x => (tget x.2.shares h Share.empty).rollbacks.map (·.1)).filter fun g =>
    rs.any fun q => decide (q.1 ≤ g) && decide (g < q.1 + q.2)
  raised.foldl (fun p g => max p (s.effPrio l { grid := h, gang := g })) l.prio

/-- Runs of gangs come to a die's Broker (R136, R150). A lost die's gangs are lost (R162). -/
def dieRuns (s : State) (d : DieId) (h : Nat) (l : Launch) (rs : List (Nat × Nat)) : State :=
  let k := dieBroker d
  if (s.die d).lost then s.count k h 0 (sumList (rs.map l.runBlocks))
  else
    let s := s.updShare k h fun x => { x with
      runs := rs.foldl putRun x.runs, waitSince := rs.foldl (fun t r => tset t r.1 s.now) x.waitSince, refused := [] }
    s.queuedAt d (s.runsPrio l h rs)

/-! TAKE's answers (R152, R319). -/

/-- The gangs of a share in the die Broker's order (R142): those raised by rollbacks, then ascending; the first m of them
taken apart from the others. -/
def orderSplit (s : State) (l : Launch) (h : Nat) (rs : List (Nat × Nat)) (m : Nat) : List (Nat × Nat) × List (Nat × Nat) :=
  let inRuns := fun g : Nat => rs.any fun q => decide (q.1 ≤ g) && decide (g < q.1 + q.2)
  let gs := ((s.brokers.flatMap fun x => (tget x.2.shares h Share.empty).rollbacks.map (·.1)).eraseDups).filter fun g =>
    inRuns g && decide (l.prio < s.effPrio l { grid := h, gang := g })
  let up := (gs.foldl (fun t g => insertCand (s.candOf l false { grid := h, gang := g }) t) []).map (·.ref.gang)
  let lo := up.take m
  let rest := up.foldl cutGang rs
  let a := lo.foldl (fun t g => putRun t (g, 1)) (firstGangs rest (m - lo.length))
  (a, (up.drop m).foldl (fun t g => putRun t (g, 1)) (otherGangs rest (m - lo.length)))

/-- Write a TAKE's result: its slot goes on behind the TAKE. -/
def answerTake (s : State) (p : WarpId × PcSel) (v : Word) : State :=
  match ({ s with site := some p } : State).siteOf with
  | none => s
  | some x =>
    match x.sl.blocked with
    | none => s
    | some d =>
      let w := x.w.setSlot x.sel { x.sl with blocked := none }
      s.advance (x.withW w) 1 (w.writeNow x.sel d v)

/-- The unstarted gangs that a TAKE may be given (R319). -/
def takeRuns (s : State) (k : BrokerId) (h : Nat) : List (Nat × Nat) := cutGang (s.share k h).runs (2 ^ 32 - 1)

/-- Give the first unstarted gang to the oldest TAKE that waits; its blocks count as exited now (R137, R152). A TAKE whose
block is lost waits no more. -/
def serveTake (s : State) (d : DieId) (h : Nat) (l : Launch) : State :=
  let k := dieBroker d
  match (s.share k h).takers.filter fun p => (s.slotAt p).blocked.isSome with
  | [] => s.updShare k h fun x => { x with takers := [] }
  | p :: ps =>
    match (s.orderSplit l h (s.takeRuns k h) 1).1 with
    | (g, _) :: _ =>
      let s := s.updShare k h fun x => { x with takers := ps, runs := cutGang x.runs g }
      let s := s.answerTake p (BitVec.ofNat 32 g)
      s.count k h (l.gangBlocks g) 0
    | [] => s

/-- Every TAKE that waits at a die learns that no gang is left. -/
def endTakes (s : State) (d : DieId) (h : Nat) : State :=
  let ps := (s.share (dieBroker d) h).takers
  let s := s.updShare (dieBroker d) h fun x => { x with takers := [] }
  ps.foldl (fun s p => s.answerTake p 0xFFFFFFFF) s

/-! Commit (R146). -/

/-- Start block j of a gang on a reserved core. -/
def startBlock (s : State) (l : Launch) (g : GangRef) (c : CoreId) (j heap : Nat) (straddle : Word) : State :=
  let i := g.gang * l.cores + j
  let b : BlockId := { grid := g.grid, gang := g.gang, j := j }
  let occ := (s.warps.filter fun x => x.1.core == c).map (·.1.slot)
  let slots := pickSlots l.warps occ
  let k : Block := { Block.start c l.warps l.units l.tiles l.bars l.stack (16 * l.granules) (s.core c).reservedGrans slots with
    x := i % l.gx, y := i / l.gx % l.gy, z := i / (l.gx * l.gy), heap := heap, straddle := straddle, prio := l.prio, cont := l.cont
    contMode := l.contMode, priv := l.priv }
  let s := s.updCore c fun v => { v with reserved := none, reservedGrans := [] }
  let s := s.setBlock b k
  let s := s.deviceWrite c (s.slotPool k) (blockBytes b k 0)
  slots.zipIdx.foldl (fun s x => s.setWarp { core := c, slot := x.1 } (Warp.start b x.2 l.units l.tiles l.entry)) s

/-- Restore block j of a saved gang on a reserved core (R161). -/
def restoreBlock (s : State) (g : GangRef) (c : CoreId) (j : Nat) (straddle : Word) : State :=
  let b : BlockId := { grid := g.grid, gang := g.gang, j := j }
  match s.block? b with
  | none => s
  | some k =>
    let occ := (s.warps.filter fun x => x.1.core == c).map (·.1.slot)
    let grans := (s.core c).reservedGrans
    let s := s.updCore c fun v => { v with reserved := none, reservedGrans := [] }
    s.loadBlock b { k with core := c, grans := grans, straddle := straddle } (pickSlots k.warps occ)

/-- Commit a Broker's reservation: every block of the gang starts, or is restored; cores without a block stay reserved and
idle (R134). None: a heap slot is missing. -/
def commitReservation (s : State) (k : BrokerId) (r : Reservation) (straddle : Word) : Option State :=
  match s.launch? r.gang.grid with
  | none => some (s.dropReservation k r.gang)
  | some l =>
    let go := s.goCores l r
    let clear := fun s : State => (s.dropReservation k r.gang).clearRollbacks r.gang
    if r.restoring then
      some (((go.foldl (fun s x => s.restoreBlock r.gang x.1 x.2 straddle) (clear s))).noteCounts r.gang.grid)
    else
      match (if r.slots.isEmpty then s.heapPlaces r.owner.pkg l.slotSize go.length [] else some r.slots) with
      | none => none
      | some hs => some ((go.zip hs).foldl (fun s x => s.startBlock l r.gang x.1.1 x.1.2 x.2 straddle) (clear s))

/-! The order of a die's Broker (R142). -/

/-- Whether a die may restore a gang of a launch: one of a child grid only on the die that places the child's blocks (R101), unless that die is
lost; then any die may (R160; log 156). -/
def mayRestore (s : State) (l : Launch) (d : DieId) : Bool :=
  match l.src with
  | .child e => e == d || (e.pkg == d.pkg && (s.die e).lost)
  | _ => true

/-- The saved gangs of the package that a die could hold, by the legal rectangles of their shape (R160). -/
def restorable (s : State) (d : DieId) : List Cand :=
  (s.broker (.pkg d.pkg)).restore.filterMap fun g =>
    match s.launch? g.grid with
    | none => none
    | some l =>
      let straddled := (s.gangOf g).any fun x => x.2.straddled
      if s.mayRestore l d && (straddled || !(s.rects d l).isEmpty) then
        some (s.candOf l true g)
      else none

/-- The unstarted gangs that head a die's grids. -/
def unstarted (s : State) (d : DieId) : List Cand :=
  let k := dieBroker d
  (s.broker k).shares.filterMap fun x =>
    match s.launch? x.1 with
    | none => none
    | some l =>
      match (s.orderSplit l x.1 x.2.runs 1).1 with
      | (g, _) :: _ => some (s.candOf l false { grid := x.1, gang := g })
      | [] => none

def order (s : State) (d : DieId) : List Cand := (s.restorable d ++ s.unstarted d).foldl (fun l c => insertCand c l) []

/-! Choosing (R144-R146, R160). -/

/-- The cores of all reservations that a die takes part in. -/
def takenCores (s : State) (d : DieId) : List CoreId :=
  (s.reservations (dieBroker d) ++ s.reservations (.pkg d.pkg)).flatMap fun r => r.cores.map (·.1)

/-- Whether a die takes part in a reservation that is incomplete: until the preparation of its last core has ended (R146, R194). -/
def reserving (s : State) (d : DieId) : Bool := (s.openReservations d).any fun x => !x.2.complete

/-- The rectangles outside every reservation of the die. -/
def freeRects (s : State) (d : DieId) (l : Launch) : List (List (CoreId × Nat)) :=
  let taken := s.takenCores d
  (s.rects d l).filter fun r => r.all fun x => !taken.contains x.1

/-- The rectangle with the most cores that have room; the lowest origin among equals (R144). -/
def bestRect (s : State) (l : Launch) (rs : List (List (CoreId × Nat))) : Option (List (CoreId × Nat)) :=
  let n := fun r : List (CoreId × Nat) => (r.filter fun x => s.openRoom x.1 l).length
  rs.foldl (fun b r => match b with
    | none => some r
    | some q => if n q < n r then some r else some q) none

/-- A rectangle whose every core has room and is not reserved (R160). -/
def fullRect (s : State) (d : DieId) (l : Launch) : Option (List (CoreId × Nat)) :=
  (s.freeRects d l).find? fun r => r.all fun x => s.openRoom x.1 l

/-- Reserve a rectangle for a gang at a die's Broker; a gang under reservation is not unstarted (R142). -/
def reserveAt (s : State) (d : DieId) (g : GangRef) (cores : List (CoreId × Nat)) (restoring : Bool) : State :=
  let k := dieBroker d
  let s := if restoring then s else s.updShare k g.grid fun h => { h with runs := cutGang h.runs g.gang }
  let s := s.updBroker k fun b => { b with reservations := b.reservations ++
    [{ gang := g, cores := cores, begun := [], got := [], restoring := restoring, straddled := false, owner := d, slots := [] }] }
  s.grab k

/-- The core lists of a straddled placement. -/
def straddleCores (p : Nat) (l : Launch) (t : Straddle) : List (CoreId × Nat) × List (CoreId × Nat) :=
  let half := fun (d : Nat) (second : Bool) => (t.half l.cols second).map fun q => (coreAt { pkg := p, die := d } q.1, q.2)
  (half t.a false, half t.b true)

/-- The package Broker reserves a gang across a die pair: RESERVE to both dies (R145, R146). -/
def reserveAcross (s : State) (d : DieId) (g : GangRef) (l : Launch) (t : Straddle) (restoring : Bool) : State :=
  let u := BrokerId.pkg d.pkg
  let (a, b) := straddleCores d.pkg l t
  let s := if restoring then s else
    s.updShare (dieBroker d) g.grid fun h => { h with runs := cutGang h.runs g.gang }
  let s := s.updBroker u fun k => { k with reservations := k.reservations ++
    [{ gang := g, cores := a ++ b, begun := [], got := [], restoring := restoring, straddled := true, owner := d, slots := [] }] }
  let word := fun (die o : Nat) => BitVec.ofNat 64 (halfWord die t.h t.w o)
  (s.tell .brokerReserve u (.die d.pkg t.a) g.grid g.gang 1 (word t.a t.oa)).tell .brokerReserve u (.die d.pkg t.b) g.grid g.gang 1 (word t.b t.ob)

/-- The straddled placements that may begin now (R145, R146): both dies have weight and no reservation in progress; the most
cores with room first. With `full`, every core must have room (R160), and the halves must be those the gang was saved with. With
`first`, the half that holds core 0 lies on that die wherever a form of the shape has it there (R138). -/
def straddleNow (s : State) (p : Nat) (l : Launch) (full : Option (Nat × Nat)) (first : Option Nat) : Option Straddle :=
  let forms := s.straddles p l.rows l.cols
  let forms := match first with
    | some d => if forms.any (fun t : Straddle => t.a == d) then forms.filter (fun t : Straddle => t.a == d) else forms
    | none => forms
  let ok := fun t : Straddle =>
    let (a, b) := straddleCores p l t
    let free := (a ++ b).all fun x => (s.core x.1).reserved.isNone
    l.weight (.die p t.a) != 0 && l.weight (.die p t.b) != 0 && !s.reserving { pkg := p, die := t.a } &&
      !s.reserving { pkg := p, die := t.b } && free &&
      match full with
      | some hw => (t.h, t.w) == hw && (a ++ b).all fun x => s.openRoom x.1 l
      | none => true
  let n := fun t : Straddle => (let (a, b) := straddleCores p l t; ((a ++ b).filter fun (x : CoreId × Nat) => s.openRoom x.1 l).length : Nat)
  (forms.filter ok).foldl (fun b t => match b with
    | none => some t
    | some q => if n q < n t then some t else some q) none

/-- Whether a die holds a legal rectangle with all its cores free of reservation (R145). -/
def hasFreeRect (s : State) (d : DieId) (l : Launch) : Bool :=
  (s.rects d l).any fun r => r.all fun x => (s.core x.1).reserved.isNone && !(s.takenCores d).contains x.1

/-- The package's Broker hands a gang that could straddle to another of its dies, which holds a legal rectangle free of
reservation (R145). -/
def handOver (s : State) (d : DieId) (g : GangRef) (l : Launch) : Option State :=
  let ok := fun e : Nat => e != d.die && l.weight (.die d.pkg e) != 0 && s.hasFreeRect { pkg := d.pkg, die := e } l
  ([0, 1, 2, 3].find? ok).map fun e =>
    ((s.updShare (dieBroker d) g.grid fun h => { h with runs := cutGang h.runs g.gang }).tell .brokerRange (.pkg d.pkg) (.die d.pkg e)
      g.grid g.gang 1 0).reportAbove d g.grid

/-- Whether a die may reserve a rectangle for a gang of a launch whose every core has room: it holds no incomplete reservation, or the cores
count as reserved at once, since the blocks take no granules and there is nothing to prepare (R146, R194; log 127). -/
def mayReserve (s : State) (d : DieId) (l : Launch) : Bool := !s.reserving d || l.granules == 0

/-- Try to place one gang at a die: none when it cannot be placed now. -/
def placeOne (s : State) (d : DieId) (c : Cand) : Option State :=
  match s.launch? c.ref.grid with
  | none => none
  | some l =>
    if c.saved then
      match (s.gangOf c.ref).find? fun x => x.2.straddled with
      | some x => (s.straddleNow d.pkg l (some x.2.halfDims) none).map fun _ => s.postOnce .gangRestore { d := d, g := c.ref }
      | none => if s.mayReserve d l then (s.fullRect d l).map fun _ => s.postOnce .gangRestore { d := d, g := c.ref } else none
    else if l.straddle && !s.hasFreeRect d l then
      match s.handOver d c.ref l with
      | some s => some s
      | none => (s.straddleNow d.pkg l none (if l.placement then some d.die else none)).map fun t => s.reserveAcross d c.ref l t false
    else if s.reserving d then (if s.mayReserve d l then (s.fullRect d l).map fun r => s.reserveAt d c.ref r false else none)
    else (s.bestRect l (s.freeRects d l)).map fun r => s.reserveAt d c.ref r false

/-- The first gang of the order that can be placed is placed. -/
def placeFirst (s : State) (d : DieId) : List Cand → Option State
  | [] => none
  | c :: cs =>
    match s.placeOne d c with
    | some s => some s
    | none => s.placeFirst d cs

end State

/-- Whether a restore of the same gang is already due. -/
def State.restoreDue (s : State) (d : DieId) : Bool := s.inflight.any fun e => e.1 == .gangRestore && e.2.d == d && !e.2.flag

/-- PREPARATION_COMPLETE (R194, R414): every write-back of the preparation is acknowledged; the granules are zeroed, and the
core counts as reserved. -/
def execPreparationComplete (s : State) : Result :=
  let c := s.arg.c
  let g := s.arg.g
  let k := s.arg.k
  .next <|
    match (s.reservations k).find? fun r => r.gang == g && r.begun.contains c && !r.got.contains c with
    | none => s
    | some r =>
      let top := s.boundary c
      if (s.core c).lines.any fun l => decide (l.gran < top) && l.pin != .no then s.afterOnce 1 .preparationComplete s.arg
      else
        let s := s.updCore c fun v => { v with lines := v.lines.filter fun l => decide (top ≤ l.gran) }
        let s := if r.restoring then s else
          (s.core c).reservedGrans.foldl (fun s n =>
            { s with mem := s.mem.clear (arrayKey c (16384 * n)) (arrayKey c (16384 * (n + 1))) }) s
        (s.countCore k r c).poke c.dieId

/-- GANG_COMMIT (R146, R257): a gang whose every core is reserved starts when its heap slots can be had. A straddled one is
committed at both dies by the package Broker, once the slots of both halves have been allocated. -/
def execGangCommit (s : State) : Result :=
  let g := s.arg.g
  let k := s.arg.k
  .next <|
    match (s.reservations k).find? (·.gang == g) with
    | none => s
    | some r =>
      let later := s.afterOnce 1 .gangCommit s.arg
      if !r.complete || s.frozen then later
      else
        match k, s.launch? g.grid with
        | .pkg p, some l =>
          let go := s.goCores l r
          match (if r.restoring then some [] else s.heapPlaces p l.slotSize go.length []) with
          | none => later
          | some hs =>
            let held := fun d : DieId => (go.zip hs).filterMap fun (x : (CoreId × Nat) × Nat) => if x.1.1.dieId == d then some x.2 else none
            let dies := (r.cores.map fun c => c.1.dieId).eraseDups
            let s := dies.foldl (fun (s : State) d => s.setReservation (State.dieBroker d) g fun h => { h with slots := held d }) s
            (s.tellHalves .brokerCommit r k).dropReservation k g
        | .die p d, _ =>
          let die : DieId := { pkg := p, die := d }
          match s.commitReservation k r (if r.straddled then s.straddleOf die r else 0) with
          | some s => s.poke die
          | none => later
        | _, _ => s

/-- RESERVE (R145): a die's Broker reserves its half of a straddled gang. -/
def execBrokerReserve (s : State) : Result :=
  .next (s.hear .brokerReserve fun m l s =>
    match m.dst with
    | .die p d =>
      let v := m.data1.toNat
      let h := bits v 13 11 + 1
      let w := bits v 10 8 + 1
      let o := bits v 5 0
      let second : Bool := if w < l.cols then d % 2 == 1 else decide (2 ≤ d)
      let t : Straddle := { a := d, b := d, h := h, w := w, oa := o, ob := o }
      let cores := (t.half l.cols second).map fun q => (State.coreAt { pkg := p, die := d } q.1, q.2)
      let up := (s.reservations (.pkg p)).find? fun r => r.gang == { grid := m.grid, gang := m.first }
      match up with
      | none => s
      | some r =>
        if !(cores.all r.cores.contains) || (s.reservations m.dst).any (·.gang == r.gang) then s
        else (s.updBroker m.dst fun b => { b with reservations := b.reservations ++
          [{ r with cores := cores, begun := [], got := [], slots := [] }] }).grab m.dst
    | _ => s)

/-- COMMIT (R146): a die's Broker starts its half, once contexts are not frozen (R124). -/
def execBrokerCommit (s : State) : Result :=
  .next (s.hear .brokerCommit fun m _ s =>
    match m.dst, (s.reservations m.dst).find? fun r => r.gang == { grid := m.grid, gang := m.first } with
    | .die p d, some r =>
      match (if s.frozen || !r.complete then none else s.commitReservation m.dst r (BitVec.ofNat 32 (m.data1.toNat + 2 ^ 16))) with
      | some s => s.poke { pkg := p, die := d }
      | none => s.afterOnce 1 .gangCommit { g := r.gang, k := m.dst }
    | _, _ => s)

/-- ROLLBACK (R147): a die's Broker releases the half that Data 1 names. -/
def execBrokerRollback (s : State) : Result :=
  .next (s.hear .brokerRollback fun m _ s =>
    match m.dst with
    | .die p d =>
      let die : DieId := { pkg := p, die := d }
      let mine := fun r : Reservation => r.straddled && r.gang == { grid := m.grid, gang := m.first } &&
        BitVec.ofNat 64 (s.halfOf die r.gang r.cores) == m.data1
      match (s.reservations m.dst).find? mine with
      | some r =>
        let s := s.setReservation (.pkg p) r.gang fun u => { u with got := u.got.filter fun c => !(r.cores.any fun x => x.1 == c) }
        ((s.releaseCores r).dropReservation m.dst r.gang).poke die
      | none => s
    | _ => s)

/-- GANG_RESTORE (R160, R417): a die's Broker takes a gang of the restore queue that it can place now and reserves its
rectangle whole; of several dies that could, the lowest takes it. With `flag`, a restored warp goes on (R158). -/
def execGangRestore (s : State) : Result :=
  let d := s.arg.d
  let g := s.arg.g
  .next <|
    if s.arg.flag then ((s.rebindCounts s.arg.w).evalEvents s.arg.w).resume s.arg.w
    else
      match s.launch? g.grid with
      | none => s
      | some l =>
        let u := BrokerId.pkg d.pkg
        if !(s.broker u).restore.contains g || s.frozen then s
        else
          let s := s.pokePkg d.pkg
          let take := s.updBroker u fun b => { b with restore := b.restore.filter (· != g) }
          match (s.gangOf g).find? fun x => x.2.straddled with
          | some x =>
            match s.straddleNow d.pkg l (some x.2.halfDims) none with
            | some t => take.reserveAcross d g l t true
            | none => s
          | none =>
            let dies : List DieId := (List.range 4).map fun e => { pkg := d.pkg, die := e }
            match dies.find? fun e => s.mayRestore l e && s.mayReserve e l && (s.fullRect e l).isSome && !(s.die e).lost with
            | none => s
            | some e =>
              match s.fullRect e l with
              | some r => take.reserveAt e g r true
              | none => s

end Sys2Proof.Machine
end

