-- ==== Sys2Proof/Machine/Brokers.lean ====
section
/-! DEFINITION. Between Brokers: ranges and scans (R136, R138-R140), stealing and TAKE (R148-R152, R319), pre-emption (R153,
R154, R156), saved gangs that come back (R155, R157), and what a die's Broker does when it looks for work (R142). -/

namespace Sys2Proof.Machine

namespace State

/-! Ranges (R136). -/

/-- Give runs of gangs to children by R136; a tray's Broker notes what its packages get (R163). Gangs that come where no child is left
that could run them are lost. -/
def passDown (s : State) (k : BrokerId) (ks : List BrokerId) (h : Nat) (l : Launch) (r : Nat × Nat) : State :=
  let parts := splitAmong l ks r
  if parts.isEmpty then s.count k h 0 (l.runBlocks r)
  else parts.foldl (fun (s : State) x =>
    let s := match x.1 with
      | .pkg p => s.give h p (l.runBlocks (x.2.1, x.2.2))
      | _ => s
    s.tell .brokerRange k x.1 h x.2.1 x.2.2 0) s

/-- Runs of gangs come to a Broker. Those that come to a package that is no member are accounted for by its tray's Broker (R163). -/
def giveRuns (s : State) (k : BrokerId) (h : Nat) (l : Launch) (rs : List (Nat × Nat)) : State :=
  match k with
  | .die p d => s.dieRuns { pkg := p, die := d } h l rs
  | .pkg p =>
    if !s.isMember p then s
    else rs.foldl (fun s r => s.passDown k (s.children k) h l r) s
  | k => rs.foldl (fun s r => s.passDown k (s.children k) h l r) s

/-! The placement hash (R138-R140). -/

/-- The child of a Broker whose part of a run holds a gang, and that part. -/
def partOf (l : Launch) (k : BrokerId) (r : Nat × Nat) (g : Nat) : Option (BrokerId × Nat × Nat) :=
  (splitAmong l (l.kids k) r).find? fun x => decide (x.2.1 ≤ g) && decide (g < x.2.1 + x.2.2)

/-- The range owner of a gang: the die that R136 would give it to as the launch starts. -/
def rangeOwner (l : Launch) (g : Nat) : Option BrokerId :=
  match partOf l .rack (0, l.gangs) g with
  | none => none
  | some t =>
    match partOf l t.1 t.2 g with
    | none => none
    | some p => (partOf l p.1 p.2 g).map (·.1)

/-- The gangs whose range owner lies in a package. -/
def ownedRun (l : Launch) (p : Nat) : Option (Nat × Nat) :=
  match (splitAmong l (l.kids .rack) (0, l.gangs)).find? fun x => x.1 == .tray (trayOf p) with
  | none => none
  | some t => ((splitAmong l (l.kids t.1) t.2).find? fun x => x.1 == .pkg p).map (·.2)

/-- The region table of a version at a package's front end (R140). -/
def tablesAt (s : State) (p : Nat) (v : BitVec 16) : Tables :=
  let k := s.die (feDie p)
  match k.prev with
  | some t => if k.cur.version != v && t.version == v then t else k.cur
  | none => k.cur

/-- A translation with the launch's rights through the translation cache of the FE die, which follows R64 (R138). -/
def feWalk (s : State) (p a : Nat) : WalkR :=
  match tlbFind (s.pkg p).feTlb a with
  | some e => .ok e
  | none => s.walk (feDie p) a

/-- The FE die keeps a translation. -/
def feKeep (s : State) (p a : Nat) : State :=
  match s.feWalk p a with
  | .ok e => s.updPkg p fun k => { k with feTlb := tlb2Put k.feTlb e }
  | _ => s

/-- The die that a gang is to run on: its home, or its range owner in the cases of R138. None: a table line is held. -/
def gangHome (s : State) (p : Nat) (l : Launch) (g : Nat) (v : BitVec 16) : Option BrokerId :=
  let a := l.gangAddr g
  let own := (rangeOwner l g).getD (.die p 0)
  if 2 ^ 57 ≤ a then some own
  else
    match s.feWalk p a with
    | .busy => none
    | .fault _ => some own
    | .ok e =>
      match (if permitted e false false then homeOf (s.tablesAt p v) (e.phys a) else none) with
      | some x =>
        let k := BrokerId.die x.pkg x.die
        if s.isMember x.pkg && !(s.die x.dieId).lost && l.weight k != 0 then some k else some own
      | none => some own

/-- Send a run that a scan has gathered; one for another package is copied to the tray's Brokers of both (R139). -/
def flushRun (s : State) (m : BrokerMsg) : State :=
  if m.count = 0 then s
  else
    let r : BrokerMsg := { m with src := m.dst, dst := m.src, data1 := 0 }
    let s := s.tellMsg .brokerRange r
    match m.src with
    | .pkg _ => s.copyUp .brokerRange r m.src
    | _ => s

/-- One gang of a scan (R139, R140). `m.src` is where the run gathered so far goes; `i` is the gang, `n` the end. The home of a gang
that goes to another package is noted, and is not evaluated again. -/
def scanGang (s : State) (a : Arg) (l : Launch) : State :=
  match a.k with
  | .pkg p =>
    let m := a.m
    if !s.isMember p then s
    else if a.n ≤ a.i then ((s.flushRun m).report (.pkg p) m.grid).report (.tray (trayOf p)) m.grid
    else
      match s.gangHome p l a.i (m.data1.setWidth 16) with
      | none => s.afterOnce 1 .brokerScan a
      | some home =>
        let s := s.feKeep p (l.gangAddr a.i)
        let dest : BrokerId := match home with
          | .die q _ => if q = p then home else .pkg q
          | k => k
        let s := if dest == home then s else s.updLaunch m.grid fun l => { l with homes := tset l.homes a.i home }
        if m.count != 0 && dest == m.src then s.post .brokerScan { a with m := { m with count := m.count + 1 }, i := a.i + 1 }
        else (s.flushRun m).post .brokerScan { a with m := { m with src := dest, first := a.i, count := 1 }, i := a.i + 1 }
  | _ => s

/-- Begin to evaluate the gangs of a run at a package. -/
def startScan (s : State) (p h : Nat) (r : Nat × Nat) (v : DWord) : State :=
  s.post .brokerScan { k := .pkg p, flag := true, i := r.1, n := r.1 + r.2
                       m := { src := .pkg p, dst := .pkg p, grid := h, first := r.1, count := 0, data1 := v, seq := 0 } }

/-- The gangs of a run that another package has evaluated, by the homes that it found, as runs (R139, R140). -/
def homeRuns (l : Launch) (p : Nat) (r : Nat × Nat) : List (BrokerId × Nat × Nat) :=
  (List.range r.2).foldr (fun i t =>
    let g := r.1 + i
    let home := (tget? l.homes g).getD ((rangeOwner l g).getD (.die p 0))
    match t with
    | x :: xs => if x.1 == home then (home, g, x.2.2 + 1) :: xs else (home, g, 1) :: t
    | [] => [(home, g, 1)]) []

/-- A package passes gangs that another one has evaluated to their dies (R139). -/
def passHomes (s : State) (p h : Nat) (l : Launch) (r : Nat × Nat) : State :=
  let s := s.updLaunch h fun l => { l with homes := l.homes.filter fun x => !(decide (r.1 ≤ x.1) && decide (x.1 < r.1 + r.2)) }
  (homeRuns l p r).foldl (fun s x => s.tell .brokerRange (.pkg p) x.1 h x.2.1 x.2.2 0) s

end State

/-- RANGE (R136, R139). -/
def execBrokerRange (s : State) : Result :=
  .next (s.hear .brokerRange fun m l s =>
    let r := (m.first, m.count)
    if m.copyOf.isSome then s.noteMove m l
    else match m.dst, m.src with
      | .pkg p, .pkg _ => if s.isMember p then s.passHomes p m.grid l r else s
      | k, _ => s.giveRuns k m.grid l [r])

/-- SCAN (R139): it goes down to the packages that were members as the launch started; each evaluates the gangs that R136 would give
it, and those of one that is lost are accounted for (R163). With `flag`, one gang. -/
def execBrokerScan (s : State) : Result :=
  let a := s.arg
  .next <|
    if a.flag then
      match s.launch? a.m.grid with
      | some l => s.scanGang a l
      | none => s
    else s.hear .brokerScan fun m l s =>
      match m.dst with
      | .tray t => (l.kids (.tray t)).foldl (fun s c =>
          match c with
          | .pkg p => (s.give m.grid p ((State.ownedRun l p).elim 0 l.runBlocks)).tell .brokerScan m.dst c m.grid m.first m.count m.data1
          | _ => s) s
      | .pkg p =>
        match State.ownedRun l p with
        | some r => if s.isMember p then s.startScan p m.grid r m.data1 else s
        | none => s
      | _ => s

/-! Stealing (R148-R152). -/

def brokerTray : BrokerId → Nat
  | .die p _ => trayOf p
  | .pkg p => trayOf p
  | .tray t => t
  | .rack => 0

/-- The thief that a STEAL names to a victim: a die, a package of the victim's tray, or another tray. -/
def thiefOf (victim : BrokerId) (v : DWord) : BrokerId :=
  let e := endpointOf (v.toNat % 2 ^ 32)
  if e.die < 4 then .die e.pkg e.die else if trayOf e.pkg = brokerTray victim then .pkg e.pkg else .tray (trayOf e.pkg)

/-- Whether a search at Broker k goes to its siblings: its own, or one for a TAKE below it; else it relays to its children. -/
def Hunt.up (h : Hunt) (k : BrokerId) : Bool :=
  match h.asker with
  | none => true
  | some a => State.parent a == some k

namespace State

def dropHunt (s : State) (k : BrokerId) (h : Hunt) : State := s.updBroker k fun b => { b with hunts := b.hunts.erase h }

/-- Give TAKEs that wait at a die what the die holds. -/
def serveTakes (s : State) (d : DieId) (h : Nat) (l : Launch) : State :=
  (s.share (dieBroker d) h).takers.foldl (fun s _ => s.serveTake d h l) s

/-- A search has been refused by all (R148, R152): who asked learns it; a Broker's own search ends, its TAKEs find nothing, or
its parent notes that it was refused. -/
def huntFailed (s : State) (k : BrokerId) (h : Hunt) : State :=
  match h.asker, k with
  | some a, _ => s.tell .brokerNone k a h.grid 0 0 0
  | none, .die p d =>
    let die : DieId := { pkg := p, die := d }
    if h.take then
      match s.launch? h.grid with
      | some l => (s.serveTakes die h.grid l).endTakes die h.grid
      | none => s
    else (s.updShare (.pkg p) h.grid fun x => { x with refused := k :: x.refused }).pokePkg p
  | none, .pkg p =>
    (s.updShare (.tray (trayOf p)) h.grid fun x => { x with refused := k :: x.refused }).pokePkg p
  | none, .tray _ => s.updShare .rack h.grid fun x => { x with refused := k :: x.refused }
  | none, .rack => s

def isDie : BrokerId → Bool
  | .die _ _ => true
  | _ => false

/-- Whether some core of a die has room for a block of a launch (R141). -/
def dieRoom (s : State) (d : DieId) (l : Launch) : Bool := (List.range 64).any fun n => s.hasRoom (coreAt d n) l

/-- Whether some core below a Broker has room for a block of a grid (R148). -/
def hasPlace (s : State) (k : BrokerId) (grid : Nat) : Bool :=
  match s.launch? grid with
  | some l => s.members.any fun p => (List.range 4).any fun d => under k { pkg := p, die := d } && s.dieRoom { pkg := p, die := d } l
  | none => true

/-- Of the searches of one direction that a Broker runs for a grid, the first asks the next Broker when none is asking; one
STEAL is outstanding at a time (R148); a die that has no room any more asks no further. `fuel` bounds the searches that end. -/
def pump (s : State) (k : BrokerId) (grid : Nat) (up : Bool) : Nat → State
  | 0 => s
  | n + 1 =>
    let hs := (s.broker k).hunts.filter fun h => h.grid == grid && h.up k == up
    if hs.any fun h => h.now != k then s
    else
      match hs with
      | [] => s
      | h :: _ =>
        if h.asker.isNone && h.take && (s.share k grid).takers.isEmpty then (s.dropHunt k h).pump k grid up n
        else if h.asker.isNone && !h.take && !h.todo.isEmpty && isDie k && !s.hasPlace k grid then (s.dropHunt k h).pump k grid up n
        else
          match h.todo with
          | x :: xs =>
            let s := s.updBroker k fun b => { b with hunts := b.hunts.map fun q => if q == h then { h with now := x, todo := xs } else q }
            s.tell .brokerSteal k x grid 0 0 (BitVec.ofNat 64 (endpointVal (s.brokerEndpoint h.thief) + bit01 h.take 32))
          | [] => ((s.dropHunt k h).huntFailed k h).pump k grid up n

def pumpAll (s : State) (k : BrokerId) (grid : Nat) (up : Bool) : State := s.pump k grid up ((s.broker k).hunts.length + 1)

def startHunt (s : State) (k : BrokerId) (h : Hunt) : State :=
  (s.updBroker k fun b => { b with hunts := b.hunts ++ [h] }).pumpAll k h.grid (h.up k)

/-- A search of a Broker of its own. -/
def ownHunt (s : State) (k : BrokerId) (grid : Nat) (take : Bool) : Hunt :=
  let up : List BrokerId := if take then (match parent k with
    | some u => [u]
    | none => []) else []
  { grid := grid, thief := k, take := take, asker := none, todo := s.siblings k ++ up, now := k }

/-- Whether a Broker runs a search of its own for a grid. -/
def hunting (s : State) (k : BrokerId) (h : Nat) : Bool := (s.broker k).hunts.any fun x => x.grid == h && x.asker.isNone

/-- Whether a Broker was refused. -/
def wasRefused (s : State) (k : BrokerId) (h : Nat) : Bool :=
  match parent k with
  | some u => (s.share u h).refused.contains k
  | none => true

/-- Whether a die's Broker asks for work of a grid (R148): it holds no unstarted gang, and a core has room for a block. -/
def dieWants (s : State) (d : DieId) (h : Nat) (l : Launch) : Bool :=
  let k := dieBroker d
  !l.isChild && l.weight k != 0 && (s.share k h).runs.isEmpty && !s.hunting k h && !s.wasRefused k h && s.dieRoom d l

/-- Whether a package's or a tray's Broker asks: its children hold nothing, and every one that asks was refused (R148). A child without
room asks no one, and counts for nothing here as long as another was refused. -/
def upperWants (s : State) (k : BrokerId) (h : Nat) (l : Launch) : Bool :=
  let cs := (s.children k).filter fun c => l.weight c != 0
  let refused := fun c : BrokerId => (s.share k h).refused.contains c
  !l.isChild && !s.hunting k h && !s.wasRefused k h && cs.any refused &&
    cs.all fun c => (s.share c h).runs.isEmpty && (refused c || !s.hasPlace c h)

/-- A die's Broker, its package's and its tray's look for work of every grid. -/
def huntAll (s : State) (d : DieId) : State :=
  s.launches.foldl (fun (s : State) x =>
    let try_ := fun (s : State) (k : BrokerId) (b : Bool) => if b then s.startHunt k (s.ownHunt k x.1 false) else s
    let s := try_ s (dieBroker d) (s.dieWants d x.1 x.2)
    let s := try_ s (.pkg d.pkg) (s.upperWants (.pkg d.pkg) x.1 x.2)
    try_ s (.tray (trayOf d.pkg)) (s.upperWants (.tray (trayOf d.pkg)) x.1 x.2)) s

/-- A search has found gangs: the relays that served it end, and the next searches of those Brokers begin (R150). -/
def endRelays (s : State) (grid : Nat) (thief : BrokerId) (take : Bool) : State :=
  let mine := fun h : Hunt => h.grid == grid && h.thief == thief && h.take == take && h.asker.isSome
  let ks := (s.brokers.filter fun x => x.2.hunts.any mine).map (·.1)
  let s := ks.foldl (fun (s : State) k => s.updBroker k fun b => { b with hunts := b.hunts.filter fun h => !mine h }) s
  ks.foldl (fun s k => (s.pumpAll k grid true).pumpAll k grid false) s

/-- A die serves a STEAL (R149); what it grants to another package is copied to the Brokers above both (R150, R152). A lost die holds
nothing. -/
def serveSteal (s : State) (d : DieId) (asker thief : BrokerId) (take : Bool) (h : Nat) (l : Launch) : State :=
  let k := dieBroker d
  let n := if (s.die d).lost then 0 else runCount (s.share k h).runs
  if n = 0 || (n = 1 && !take) then s.tell .brokerNone k asker h 0 0 0
  else
    let (keep, give) := s.orderSplit l h (s.share k h).runs (if n = 1 then 0 else (n + 1) / 2)
    let s := s.updShare k h fun x => { x with runs := keep }
    let s := give.zipIdx.foldl (fun (s : State) x =>
      let m : BrokerMsg := { src := k, dst := thief, grid := h, first := x.1.1, count := x.1.2, seq := 0
                             data1 := if x.2 + 1 = give.length then BitVec.ofNat 64 (2 ^ 63) else 0 }
      (s.tellMsg .brokerGrant m).copyUp .brokerGrant m thief) s
    (s.endRelays h thief take).reportAbove d h

end State

/-- STEAL (R149, R150, R152): a die serves it; a package or a tray relays it to its children, or to its siblings for a child
whose TAKE was refused below. -/
def execBrokerSteal (s : State) : Result :=
  .next (s.hear .brokerSteal fun m l s =>
    let take := m.data1.getLsbD 32
    let thief := thiefOf m.dst m.data1
    match m.dst with
    | .die p d => s.serveSteal { pkg := p, die := d } m.src thief take m.grid l
    | .rack => s.tell .brokerNone .rack m.src m.grid 0 0 0
    | k =>
      let above : List BrokerId := match k with
        | .pkg p => [.tray (trayOf p)]
        | _ => []
      let todo := if State.parent m.src == some k then s.siblings k ++ above else s.ring k
      s.startHunt k { grid := m.grid, thief := thief, take := take, asker := some m.src, todo := todo, now := k })

/-- GRANT (R150, R152): gangs come to the thief; the last run ends its search. A copy tells a Broker above. -/
def execBrokerGrant (s : State) : Result :=
  .next (s.hear .brokerGrant fun m l s =>
    let k := m.dst
    if m.copyOf.isSome then s.noteMove m l
    else
    let s := s.giveRuns k m.grid l [(m.first, m.count)]
    let s := match k with
      | .die p d => s.serveTakes { pkg := p, die := d } m.grid l
      | _ => s
    if !m.data1.getLsbD 63 then s
    else
      let s := s.updBroker k fun b => { b with hunts := b.hunts.filter fun h => !(h.grid == m.grid && h.asker.isNone && h.now != k) }
      let s := s.pumpAll k m.grid true
      if (s.share k m.grid).takers.isEmpty || s.hunting k m.grid then s else s.startHunt k (s.ownHunt k m.grid true))

/-- NONE (R148, R152): the next is asked. -/
def execBrokerNone (s : State) : Result :=
  .next (s.hear .brokerNone fun m _ s =>
    let k := m.dst
    match (s.broker k).hunts.find? fun h => h.grid == m.grid && h.now == m.src with
    | none => s
    | some h =>
      let s := s.updBroker k fun b => { b with hunts := b.hunts.map fun q => if q == h then { h with now := k } else q }
      s.pumpAll k m.grid (h.up k))

/-- TAKE (R152, R319): the slot is blocked until the die's Broker answers. -/
def execTake (r : Reg) (s : State) : Result :=
  s.atSite fun x =>
    let d := x.core.dieId
    let k := State.dieBroker d
    let h := x.w.block.grid
    if !scalarOk r.d.toNat then s.trapWhole x 4 0
    else
      let (s, st) := s.stamp x
      let sl := { (x.w.slot x.sel) with
        issued := st.issued, claimed := st.claimed, started := st.started, first := st.first, parkedWait := false
        blocked := some r.d.toNat }
      let s := s.setWarp x.wid (x.w.setSlot x.sel sl)
      let s := s.updShare k h fun v => { v with takers := v.takers ++ [(x.wid, x.sel)] }
      match s.launch? h with
      | none => .next (s.endTakes d h)
      | some l =>
        if !(s.takeRuns k h).isEmpty then .next (s.serveTake d h l)
        else if l.isChild then .next (s.endTakes d h)
        else .next (if (s.broker k).hunts.any (fun q => q.grid == h && q.take && q.asker.isNone) then s
          else s.startHunt k (s.ownHunt k h true))

/-! Saved gangs that come back (R155, R157). -/

namespace State

/-- A saved gang joins its package's restore queue if it may (R155, R157); it then counts as queued at every die that holds a
legal rectangle of its shape (R147, R160). -/
def rejoin (s : State) (g : GangRef) : State :=
  match s.gangOf g, s.launch? g.grid with
  | x :: _, some l =>
    let p := x.2.core.pkg
    let t := s.offerGang g
    if (s.broker (.pkg p)).restore.contains g || !(t.broker (.pkg p)).restore.contains g then t
    else [0, 1, 2, 3].foldl (fun s d =>
      if (s.rects { pkg := p, die := d } l).isEmpty then s else s.queuedAt { pkg := p, die := d } (s.effPrio l g)) t
  | _, _ => s

end State

/-- SAVED (R155): a gang saved whole joins the restore queue. -/
def execBrokerSaved (s : State) : Result :=
  .next (s.hear .brokerSaved fun m _ s => s.rejoin { grid := m.grid, gang := m.first })

/-- SERVICE_WORD_CHANGE (R157, R158): a saved block that no longer waits lets its gang be restored. A resident warp in CONT
mode looks at its word itself (R159, R253). -/
def execServiceWordChange (s : State) : Result :=
  let b := s.arg.b
  .next <|
    if s.arg.flag then s
    else match s.block? b with
      | none => s
      | some k =>
        let base := s.slotPool k + 4096
        let area := warpArea k.units k.tiles k.stack
        let waits := (List.range k.warps).any fun n =>
          let a := base + n * area
          ((k.kept.any fun x => x.1 == n && x.2.serving) ||
            (leVal (s.homeBytes k.core.dieId (a + 356) 1) % 2 == 1 && bits (leVal (s.homeBytes k.core.dieId (a + 3074) 1)) 2 2 == 1)) &&
            leVal (s.homeBytes k.core.dieId (a + 3160) 8) == 0
        if k.state != 2 || waits then s
        else
          let s := s.setBlock b { k with state := 1 }
          let s := s.deviceWrite k.core (s.slotPool k + 2) (leBytes 1 1)
          (s.noteCounts b.grid).rejoin { grid := b.grid, gang := b.gang }

/-! Pre-emption (R153, R154, R156). -/

namespace State

/-- A gang and the cores of a die that it holds: those of its blocks, and those that it keeps idle (R134). -/
def holdersOf (s : State) (c : CoreId) : List GangRef :=
  let bs := (s.blocks.filter fun x => x.2.core == c && !x.2.slots.isEmpty).map fun x => ({ grid := x.1.grid, gang := x.1.gang } : GangRef)
  let idle : List GangRef := match (s.core c).reserved with
    | some g => if (s.gangOf g).any fun x => !x.2.slots.isEmpty then [g] else []
    | none => []
  (bs ++ idle).eraseDups

/-- A die that vacates cores from a grid in range mode returns the grid's unstarted gangs (R156). -/
def remap (s : State) (d : DieId) (h n : Nat) : State :=
  let k := dieBroker d
  match s.launch? h with
  | none => s
  | some l =>
    if l.placement || l.isChild || n = 0 then s
    else
      let rs := (s.share k h).runs
      let s := s.updShare k h fun x => { x with runs := [], vacated := n }
      rs.foldl (fun (s : State) r => s.tell .brokerRemap k (.pkg d.pkg) h r.1 r.2 0) s

/-- Vacate gangs from cores of a die (R154): each gang is saved whole. -/
def vacate (s : State) (d : DieId) (cores : List CoreId) (gangs : List GangRef) : State :=
  let grids := (gangs.map (·.grid)).eraseDups
  let held := fun h : Nat => (cores.filter fun c => (s.holdersOf c).any fun g => g.grid == h && gangs.contains g).length
  let ns := grids.map fun h => (h, held h)
  let s := gangs.foldl (fun s g => s.saveGang g false) s
  ns.foldl (fun s x => s.remap d x.1 x.2) s

def dieCores (d : DieId) : List CoreId := (List.range 64).map fun p => coreAt d p

/-- Whether a gang runs: some block of it is resident and may be saved. -/
def gangRuns (s : State) (g : GangRef) : Bool := (s.gangOf g).any fun x => x.2.state == 0

end State

/-- VACATE (R153, R154): from the rack's Broker down to the dies, each of which gives up every core that the grid holds. -/
def execBrokerVacate (s : State) : Result :=
  .next (s.hear .brokerVacate fun m _ s =>
    match m.dst with
    | .die p d =>
      let die : DieId := { pkg := p, die := d }
      let cores := (State.dieCores die).filter fun c => (s.holdersOf c).any (·.grid == m.grid)
      s.vacate die cores (((cores.flatMap s.holdersOf).eraseDups.filter (·.grid == m.grid)).filter s.gangRuns)
    | k => (s.children k).foldl (fun s c => s.tell .brokerVacate k c m.grid m.first m.count m.data1) s)

/-- REMAP (R156): the package splits the gangs, the vacating die's weight reduced by the cores vacated. -/
def execBrokerRemap (s : State) : Result :=
  .next (s.hear .brokerRemap fun m l s =>
    let k := m.dst
    let ws := (s.children k).map fun c => (c, if c == m.src then l.weight c - (s.share c m.grid).vacated else l.weight c)
    let total := sumList (ws.map (·.2))
    let parts := if total = 0 then [(m.src, m.first, m.count)] else splitRun m.first m.count total ws 0
    parts.foldl (fun (s : State) x => s.tell .brokerRange k x.1 m.grid x.2.1 x.2.2 0) s)

namespace State

/-- The gang whose wait at a die counts for pre-emption (R153): that of the incomplete reservation, also of a straddled one, else the
head of the order. A saved gang waits at its package's Broker, and takes no cores (R160). -/
def waiting (s : State) (d : DieId) : Option GangRef :=
  match (s.openReservations d).find? fun x => !x.2.complete with
  | some x => if x.2.restoring then none else some x.2.gang
  | none => match s.order d with
    | c :: _ => if c.saved then none else some c.ref
    | [] => none

/-- When the wait of a gang at a die has lasted 20 µs. -/
def waitEnd (s : State) (d : DieId) (g : GangRef) : Nat := sinceOf (s.share (dieBroker d) g.grid).waitSince g.gang + 20000

/-- Pre-emption comes up when the waiting gang has waited 20 µs (R153). -/
def watchWait (s : State) (d : DieId) : State :=
  match s.waiting d with
  | none => s
  | some g =>
    let t := s.waitEnd d g
    if t ≤ s.now then s.postOnce .priorityPreempt { d := d, g := g } else s.afterOnce (t - s.now) .priorityPreempt { d := d, g := g }

/-- The priority of a grid's blocks. -/
def gridPrio (s : State) (h : Nat) : Nat := ((s.launch? h).map (·.prio)).getD 0

/-- Whether a core has room for a gang: it is reserved for no other. -/
def roomFor (s : State) (c : CoreId) (l : Launch) (g : GangRef) : Bool :=
  s.hasRoom c l && match (s.core c).reserved with
    | some r => r == g
    | none => true

/-- Whether pre-emption at priority p by gang g may use a core: it has room, or it holds only blocks below p. -/
def yields (s : State) (c : CoreId) (l : Launch) (g : GangRef) (p : Nat) : Bool :=
  let hs := s.holdersOf c
  let free : Bool := match (s.core c).reserved with
    | some r => r == g || hs.contains r
    | none => true
  s.roomFor c l g || (free && !hs.isEmpty && hs.all fun h => decide (s.gridPrio h.grid < p))

end State

/-- PRIORITY_PREEMPT (R153): the gang that has waited takes the lowest-origin rectangle whose cores have room or hold only
blocks below its effective priority; the cores that lack room are vacated. -/
def execPriorityPreempt (s : State) : Result :=
  let d := s.arg.d
  let g := s.arg.g
  let k := State.dieBroker d
  .next <|
    match s.launch? g.grid with
    | none => s
    | some l =>
      if s.frozen || (s.die d).lost || s.waiting d != some g || s.now < s.waitEnd d g then s
      else
        let p := s.effPrio l g
        let others := ((s.reservations k ++ s.reservations (.pkg d.pkg)).filter (·.gang != g)).flatMap fun r => r.cores.map (·.1)
        let held := ((s.openReservations d).find? (·.2.gang == g)).map (·.2)
        let ok := fun r : List (CoreId × Nat) => r.all fun x => !others.contains x.1 && s.yields x.1 l g p
        match (s.rects d l).find? ok with
        | none => s
        | some r =>
          let full := (r.map (·.1)).filter fun c => !s.roomFor c l g
          let gangs := ((full.flatMap s.holdersOf).eraseDups.filter s.gangRuns)
          if gangs.isEmpty && held.any (·.cores == r) then s
          else
            let s : State := match held with
              | some v =>
                if v.cores == r then s
                else if v.straddled then
                  ((s.cancelReservation d v).updShare (State.dieBroker v.owner) g.grid fun h => { h with runs := cutGang h.runs g.gang }).reserveAt
                    d g r false
                else ((s.releaseCores v).setReservation k g fun v => { v with cores := r, begun := [], got := [] }).grab k
              | none => s.reserveAt d g r false
            let s := (gangs.map (·.grid)).eraseDups.foldl (fun (s : State) h => s.updLaunch h fun l => { l with preempts := l.preempts + 1 }) s
            (s.vacate d full gangs).poke d

/-- CORE_RESERVE (R142, R146): a die's Broker reserves the cores that have gained room, answers TAKEs, places what it can in its
order, looks for work (R148), and notes how long its first gang waits (R153). -/
def execCoreReserve (s : State) : Result :=
  let d := s.arg.d
  .next <|
    if s.frozen || (s.die d).lost then s
    else
      let s := s.launches.foldl (fun (s : State) x => s.serveTakes d x.1 x.2) s
      let s := s.grab (State.dieBroker d)
      match (if s.restoreDue d then none else s.placeFirst d (s.order d)) with
      | some s => s.poke d
      | none => (s.huntAll d).watchWait d

end Sys2Proof.Machine
end

