-- ==== Sys2Proof/Machine/Region.lean ====
section
/-! DEFINITION. The order to switch the region table (R70, R73), and page migration (R74-R78). -/

namespace Sys2Proof.Machine

namespace State

/-- Whether every die of the domain has switched to the table being committed. -/
def allSwitched (s : State) (t : Tables) : Bool :=
  s.members.all fun p => [0, 1, 2, 3].all fun d =>
    let k := s.die { pkg := p, die := d }
    k.lost || (k.cur.version == t.version && k.pend.isNone)

end State

/-- REGION_SWITCH (R70, R73): the order reaches a die. -/
def execRegionSwitch (s : State) : Result :=
  let s := s.switchDie s.arg.d
  .next (match s.commit with
    | some c => if s.allSwitched c.next then s.postOnce .regionDrainComplete {} else s
    | none => s)

/-! Page migration. -/

/-- The lines of a migrating page. -/
def Migration.lines (m : Migration) : Nat := 2 ^ m.log / 128

/-- The In transit bit of a leaf (R62). -/
def transitBit : Nat := 2 ^ 59

namespace State

/-- Update the migration of a descriptor at a die. -/
def updMigr (s : State) (d : DieId) (desc : Nat) (f : Migration → Migration) : State :=
  s.updDie d fun k => { k with migr := k.migr.map fun m => if m.desc = desc then f m else m }

/-- Write a descriptor's status (R74, R78), later when its line is held; an older status that waits for that is written no more. -/
def noteStatus (s : State) (desc v : Nat) : State :=
  let old := fun (i : Instr) (a : Arg) => i == .copyPassEnd && a.flag && a.i == desc
  let s : State := { s with
    timers := s.timers.filter fun t => !old t.2.1 t.2.2, inflight := s.inflight.filter fun e => !old e.1 e.2 }
  match s.fwPut s.lead (BitVec.ofNat 64 (desc + 28)) (leBytes 1 v) with
  | .ok _ s => s
  | .busy => s.afterOnce 1 .copyPassEnd { flag := true, i := desc, n := v }
  | _ => s

def leafOf (s : State) (d : DieId) (m : Migration) : Nat := leVal (s.homeBytes d m.leaf 8)

/-- The leaf is written by an SC write at rack scope (R75). -/
def putLeaf (s : State) (d : DieId) (m : Migration) (v : Nat) : State :=
  match s.homeAt d m.leaf with
  | some h => (s.stampSc h 3 (fwEndpoint d.pkg)).homeWrite d m.leaf (leBytes 8 v)
  | none => s

/-- Whether a write of the leaf must wait: its line is pinned, or another SC access of this nanosecond has been performed there. -/
def leafHeld (s : State) (d : DieId) (m : Migration) : Bool :=
  (s.homeAt d m.leaf).any fun h => (s.pinHolder h).isSome || s.scBusy h 3

/-- Whether a write of the leaf is not yet performed at rack scope. -/
def leafPushing (s : State) (d : DieId) (m : Migration) : Bool :=
  (s.homeAt d m.leaf).any fun h => (s.die h.dieId).pushes.any (·.line == lineOf (physKey h))

/-- A migration ends without a switch (R77): In transit is cleared and the page stays. -/
def abortMigr (s : State) (d : DieId) (m : Migration) (status : Nat) : State :=
  let v := s.leafOf d m
  let s := s.putLeaf d m (if bits v 59 59 = 1 then v - transitBit else v)
  let s := s.updDie d fun k => { k with migr := k.migr.filter (·.desc != m.desc) }
  (s.noteStatus m.desc status).postOnce .migrationStart { d := d }

/-- Copy line i of the page to its new place, and its poison with it (R75, R427). -/
def copyLine (s : State) (d : DieId) (m : Migration) (i : Nat) : State :=
  let a := m.oldPa + 128 * i
  let b := m.newPa + 128 * i
  match s.homeAt d a, s.homeAt d b with
  | some h, some g =>
    let bad := s.isPoisoned h
    let s := s.homeWrite d b (s.homeBytes d a 128)
    if bad then { s with poisoned := lineOf (physKey g) :: s.poisoned } else s
  | _, _ => s

/-- Whether a line of the page is pinned. -/
def pageHeld (s : State) (d : DieId) (m : Migration) : Bool :=
  (List.range m.lines).any fun i => match s.homeAt d (m.oldPa + 128 * i) with
    | some h => (s.pinHolder h).isSome
    | none => false

/-- Every cached copy of the page's lines is recalled (R75 step 3); none is dirty, because none is pinned. -/
def recallPage (s : State) (d : DieId) (m : Migration) : State :=
  let keys := (List.range m.lines).filterMap fun i => (s.homeAt d (m.oldPa + 128 * i)).map fun h => lineOf (physKey h)
  let hasLine := fun n : Nat => m.has (128 * n)
  let cut : Core → Core := fun k => { k with
    lines := k.lines.filter fun l => !m.has l.pa, icache := k.icache.filter fun x => !hasLine x.1
    tags := k.tags.map fun (x : Nat × Tag) =>
      if x.2.held && x.2.req.opcode == 7 && m.has x.2.req.addr then (x.1, { x.2 with stale := true }) else x }
  { s with
    cores := s.cores.map fun (x : CoreId × Core) => (x.1, cut x.2)
    dies := s.dies.map fun (x : DieId × Die) => (x.1, { x.2 with
      visitors := x.2.visitors.filter fun v => !hasLine v.1, icache := x.2.icache.filter fun v => !hasLine v.1
      holders := if x.1 == d then x.2.holders.filter (fun v => !keys.contains v.1) else x.2.holders }) }

/-- The translation of the page leaves every TLB of the domain (R75 step 4). -/
def dropEverywhere (s : State) (va : Nat) : State :=
  let dies := ((s.dies.map (·.1)) ++ s.cores.map fun x => x.1.dieId).eraseDups
  (dies.foldl (fun (s : State) d => s.dropPage va d) s).dropFe va (s.pkgs.map (·.1))

/-- The counter of a WAITC that lies on the page goes to its new place (R402). -/
def moveAwait (m : Migration) (sl : PcSlot) : PcSlot :=
  { sl with await := sl.await.map fun a => if m.has a.pa then { a with pa := m.rebase a.pa } else a }

/-- The counters and watches that lie on the page go to its new place, and are evaluated there once (R94, R186). -/
def moveWatches (s : State) (d : DieId) (m : Migration) : State :=
  let s : State := { s with
    warps := s.warps.map fun (x : WarpId × Warp) => (x.1, { x.2 with
      a := moveAwait m x.2.a, b := moveAwait m x.2.b
      events := x.2.events.map fun e => if e.kind = 3 && m.has e.pa then { e with pa := m.rebase e.pa } else e })
    queue := { s.queue with watch := s.queue.watch.map fun q => if m.has q then m.rebase q else q } }
  let mine := (s.pkg d.pkg).watches.filter fun w => m.has w.addr
  let s := s.updPkg d.pkg fun k => { k with watches := k.watches.filter fun w => !m.has w.addr }
  match s.homeAt d m.newPa with
  | none => s
  | some h =>
    let s := s.updPkg h.pkg fun k => { k with watches := k.watches ++ mine.map fun w => { w with addr := m.rebase w.addr } }
    mine.foldl (fun (s : State) w => s.fireWatches h.dieId (m.rebase w.addr) 8) s

/-- Freeze, switch and release (R75 steps 3-5), which no request comes between. -/
def finishMigr (s : State) (d : DieId) (m : Migration) : State :=
  let s := s.recallPage d m
  let s := m.dirty.foldl (fun (s : State) i => s.copyLine d m i) s
  let v := s.leafOf d m
  let low := v % 256
  let s := s.updMigr d m.desc fun m => { m with phase := 3, dirty := [] }
  let s := s.putLeaf d m (bits v 63 60 * 2 ^ 60 + m.newPa / 256 * 256 + low)
  let s := (s.dropEverywhere m.va).moveWatches d m
  ((s.noteStatus m.desc 1).postOnce .migrationStart { d := d }).after 1000000 .migrationWindowEnd { d := d, i := m.desc }

end State

/-- MIGRATION_START (R74, R75 step 1): at most four run at a die; the first that waits marks its leaf and begins to copy, now or when one
of the four has ended. -/
def execMigrationStart (s : State) : Result :=
  let d := s.arg.d
  let k := s.die d
  .next <|
    match k.waitq with
    | [] => s
    | m :: ms =>
      if 4 ≤ (k.migr.filter fun m => m.phase != 3).length then s
      else
        let v := s.leafOf d m
        let t := s.setDie d { k with waitq := ms }
        if bits v 59 59 = 1 || s.commit.isSome then (t.noteStatus m.desc 6).postOnce .migrationStart s.arg
        else if s.leafHeld d m then s.afterOnce 1 .migrationStart s.arg
        else
          let m := { m with phase := 1, passes := 0, dirty := List.range m.lines }
          let s := t.updDie d fun k => { k with migr := k.migr ++ [m] }
          ((s.putLeaf d m (v + transitBit)).post .copyPassEnd { d := d, i := m.desc }).postOnce .migrationStart s.arg

/-- COPY_PASS_END (R75, R77): the pass copies its next line; when none is left, the migration waits for a pin, is done, aborts,
or starts another pass. With `flag`, a status that could not be written is written. -/
def execCopyPassEnd (s : State) : Result :=
  let d := s.arg.d
  .next <|
    if s.arg.flag then s.noteStatus s.arg.i s.arg.n
    else
      match (s.die d).migr.find? fun m => m.desc == s.arg.i && m.phase == 1 with
      | none => s
      | some m =>
        let lost : Bool := match s.homeAt d m.newPa with
          | some h => (s.die h.dieId).lost
          | none => true
        if m.passes = 0 && s.arg.n = 0 && s.leafPushing d m then s.afterOnce 1 .copyPassEnd s.arg
        else if lost then (if s.leafHeld d m then s.afterOnce 1 .copyPassEnd s.arg else s.abortMigr d m 3)
        else
          match (m.dirty.filter (s.arg.n ≤ ·)).min? with
          | some i =>
            let s := s.updMigr d m.desc fun m => { m with dirty := m.dirty.erase i }
            (s.copyLine d m i).post .copyPassEnd { s.arg with n := i + 1 }
          | none =>
            if s.pageHeld d m then
              (s.updMigr d m.desc fun m => { m with phase := 2 }).after 10000 .migrationPinWaitEnd { d := d, i := m.desc }
            else if m.dirty.length ≤ 1024 || 16 ≤ m.passes + 1 then
              if s.leafHeld d m then s.afterOnce 1 .copyPassEnd s.arg
              else if m.dirty.length ≤ 1024 then s.finishMigr d m
              else s.abortMigr d m 2
            else (s.updMigr d m.desc fun m => { m with passes := m.passes + 1 }).post .copyPassEnd { s.arg with n := 0 }

/-- MIGRATION_PIN_WAIT_END (R77). -/
def execMigrationPinWaitEnd (s : State) : Result :=
  .next ((s.updMigr s.arg.d s.arg.i fun m => if m.phase = 2 then { m with phase := 1 } else m).post .copyPassEnd
    { d := s.arg.d, i := s.arg.i })

/-- MIGRATION_WINDOW_END (R75 step 6). -/
def execMigrationWindowEnd (s : State) : Result :=
  .next (s.updDie s.arg.d fun k => { k with migr := k.migr.filter fun m => !(m.desc == s.arg.i && m.phase == 3) })

end Sys2Proof.Machine
end

