-- ==== Sys2Proof/Machine/Home.lean ====
section
/-! DEFINITION. Requests and lines at their home (R41-R43, R72, R76, R204-R210, R427, R428), mailboxes (R405), and visitor
copies that a push brings up to date (R210). -/

namespace Sys2Proof.Machine

namespace State

/-- A request that would need a second forward (R72, R76): a fatal record, and the issuing warp's launch is failed. -/
def forwardedTwice (s : State) (q : Packet) (src : Endpoint) : State :=
  let s := ((s.refuse q src 2).log src.pkg src 0x0040 0 (BitVec.ofNat 64 q.addr)).toFlash src.pkg
  if q.issuer.unit != 0 then s
  else match s.warp? { core := q.issuer.core, slot := q.warp } with
    | some w => s.updLaunch w.block.grid fun l => { l with failed := true }
    | none => s

/-- The pushes that a reply at tray or rack scope waits for when the line is now written (R205, R210): of each holder, one,
or two when one is outstanding already; of a die that is a holder no more, what is outstanding or due. -/
def pushesDue (s : State) (h : Home) : Tab DieId Nat :=
  let line := lineOf (physKey h)
  let k := s.die h.dieId
  let out := (k.pushes.filter (·.line == line)).map (·.holder)
  let hs := tget k.holders line []
  hs.map (fun d => (d, if out.contains d then 2 else 1)) ++ (k.pushes.filter fun p => p.line == line && !hs.contains p.holder).map fun p =>
    (p.holder, if p.again = 0 then 1 else 2)

/-- Send a reply when the pushes of a write are acknowledged, if its scope asks for that. -/
def replyWhen (s : State) (h : Home) (scope : Nat) (due : Tab DieId Nat) (i : Instr) (arg : Arg) : State :=
  if 3 ≤ scope && !due.isEmpty then
    s.updDie h.dieId fun k => { k with acks := k.acks ++ [{ line := lineOf (physKey h), due := due, reply := i, arg := arg }] }
  else if arg.q.opcode = 0x95 then s.post i arg
  else s.send arg.q

/-- A request whose line its own core has pinned meanwhile acts on the core's copy (R204); `f` gives the new bytes, and the pin records the
block of the warp that made it (R206). -/
def actCached (s : State) (c : CoreId) (slot pa n : Nat) (f : List Byte → Option (List Byte)) : Option (List Byte × State) :=
  match s.cached c pa with
  | some l =>
    if l.pin = .no then none
    else
      let old := (l.data.drop (pa % 128)).take n
      match f old with
      | some new => if l.pin = .ending then none
          else some (old, match s.warp? { core := c, slot := slot } with
            | some w => s.writeCached c w.block pa new
            | none => s.setLine c { l with data := l.data.take (pa % 128) ++ new ++ l.data.drop (pa % 128 + n) })
      | none => some (old, s)
  | none => none

/-- The core whose own pinned copy may serve a request (R204): it made the request, by pool address, and not as an SC access, which
waits for the pin to end. -/
def ownCopy (q : Packet) (c : CoreId) : Bool := q.issuer.unit == 0 && q.issuer.core == c && !q.sym && q.order != 3

/-- Perform a read, write, atomic or CAS at its home: `f` gives the new bytes, `op` the reply, `again` is the event. -/
def performAt (s : State) (q : Packet) (src : Endpoint) (h : Home) (d : DieId) (pa : Nat) (again : Instr) (op : Nat)
    (write : Bool) (f : List Byte → Option (List Byte)) : State :=
  let n := 2 ^ q.size
  let answer := fun (s : State) (old : List Byte) => s.replyTo q src op (if op = 0x82 then 0 else leVal old)
  match s.pinHolder h with
  | some c =>
    match (if ownCopy q c then s.actCached c q.warp pa n f else none) with
    | some (old, s) => s.send (answer s old)
    | none => s.send (s.replyTo q src 0x85 0)
  | none =>
    if s.isPoisoned h && op != 0x82 then s.refuse q src 3
    else if s.scBusy h q.order then s.afterOnce 1 again s.arg
    else
      let s := s.stampSc h q.order q.issuer
      let old := s.homeBytes d pa n
      match (if write then f old else none) with
      | none => s.send (answer s old)
      | some new =>
        let due := s.pushesDue h
        let s := s.homeWrite d pa new
        s.replyWhen h q.scope due again { q := answer s old }

/-- A request of a core that its die's package forwards to another one leaves under an architectural tag, the lowest free one, which takes
the place of the model's own number (R41, R44; log 151, a choice). None: no tag is free. -/
def retag (s : State) (q : Packet) (far : Bool) : Option (Nat × Nat × State) :=
  let c := q.issuer.core
  if q.tag < 256 || !far || 1 < q.issuer.unit then some (q.tag, q.round, s)
  else
    let t := s.tag c q.tag
    if !t.held || t.round != q.round then some (q.tag, q.round, s)
    else (s.freeTag c).map fun n =>
      let r := ((s.tag c n).round + 1) % 16
      let s := (s.setTag c n { t with
        round := r, req := { t.req with tag := n, round := r }, line := t.line.map fun l => { l with tag := n, round := r }
        deadline := s.tagDeadline c }).updCore c fun k => { k with tags := tdel k.tags q.tag }
      (n, r, s.after s.timeoutNs .tagTimeout { c := c, n := n })

/-- Forward a request to the home of its address (R72, R76); it waits with its issuer while no tag is free for it. -/
def forwardTo (s : State) (q : Packet) (src : Endpoint) (h : Home) (pa : Nat) : State :=
  match s.retag q (h.pkg != src.pkg) with
  | none => s.send (s.replyTo q src 0x85 0)
  | some (n, r, s) =>
    s.send { q with
      dst := homeEndpoint h, src := src, addr := pa, forwarded := true, version := (s.die src.dieId).cur.version, tag := n, round := r }

/-- The home that performs an access to a pool address which a package has resolved itself, and the address there: in the forwarding
window of a migration, the page's new place (R75, R76). -/
def homeNow (s : State) (d : DieId) (pa : Nat) : Option (Home × Nat) :=
  (s.homeAt d pa).bind fun h =>
    match (s.die h.dieId).migr.find? fun m => m.phase == 3 && m.has pa with
    | some m => (s.homeAt d (m.rebase pa)).map fun g => (g, m.rebase pa)
    | none => some (h, pa)

/-- A request of 1 to 16 bytes at the die or router that it names (R41, R48, R72). A scope field of 5 to 7 is malformed, as R428 says of a
LINE-READ (log 143, DESIGN CHOICE). -/
def serve (s : State) (again : Instr) (op : Nat) (write : Bool) (sizes : List Nat) (f : Packet → List Byte → Option (List Byte)) :
    State :=
  let q := s.arg.q
  let e := q.dst
  if !sizes.contains q.size || q.addr % 2 ^ q.size != 0 || 4 < q.scope then s.refuse q e 7
  else if q.sym then
    match s.symResolve e.pkg q.addr with
    | none => s.refuse q e 1
    | some pa =>
      let d : DieId := { pkg := e.pkg, die := 0 }
      match s.homeNow d pa with
      | none => s.refuse q e 1
      | some (h, pa) =>
        let s := s.symKeep e.pkg q.addr
        if (s.die h.dieId).lost then s.refuse q e 4
        else s.passHome h again q.issuer fun s => s.performAt q e h d pa again op write (f q)
  else
    let d := e.dieId
    if (s.die d).lost then s.refuse q e 4
    else
      let s := s.meetVersion d q.version
      match s.serveAt d q.addr q.version q.forwarded with
      | .badVersion => s.refuse q e 7
      | .secondForward => s.forwardedTwice q e
      | .forward h pa => s.forwardTo q e h pa
      | .here h => s.passHome h again q.issuer fun s => s.performAt q e h d q.addr again op write (f q)

/-- Whether the host-die boundary stops a request of a host initiator (R122): the initiator is frozen there, or the request
(`flag`) lies outside the windows that the resident kernel granted it. -/
def outsideWindow (s : State) (q : Packet) : Bool :=
  q.issuer.unit == 5 && s.arg.port != 1 && (s.arg.flag || s.isFrozen q.issuer.pkg q.issuer)

/-- A request at the host-die boundary, and then where it goes. -/
def serveHost (s : State) (again : Instr) (op : Nat) (write : Bool) (sizes : List Nat) (f : Packet → List Byte → Option (List Byte)) : State :=
  let q := s.arg.q
  if s.outsideWindow q then
    (if s.isFrozen q.issuer.pkg q.issuer then s else s.freeze q.issuer.pkg q.issuer 3).hold q.issuer.pkg q.issuer again s.arg
  else s.serve again op write sizes f

end State

/-- READ_REQUEST (R41). -/
def execReadRequest (s : State) : Result := .next (s.serveHost .readRequest 0x81 false [0, 1, 2, 3, 4] fun _ _ => none)

/-- WRITE_REQUEST (R41). -/
def execWriteRequest (s : State) : Result :=
  .next (s.serveHost .writeRequest 0x82 true [0, 1, 2, 3, 4] fun q _ => some (leBytes (2 ^ q.size) q.data0.toNat))

/-- ATOMIC_REQUEST (R41, R351). -/
def execAtomicRequest (s : State) : Result :=
  .next (s.serveHost .atomicRequest 0x83 true [2, 3] fun q old =>
    let n := 2 ^ q.size
    some (leBytes n (atomNew q.atom n (leVal old) (q.data0.toNat % 2 ^ (8 * n)))))

/-- CAS_REQUEST (R41, R352). -/
def execCasRequest (s : State) : Result :=
  .next (s.serveHost .casRequest 0x84 true [2, 3] fun q old =>
    let n := 2 ^ q.size
    if leVal old = q.data0.toNat % 2 ^ (8 * n) then some (leBytes n q.data1.toNat) else none)

/-- MAILBOX_REQUEST (R41, R405): a message is delivered, waits while the mailbox holds four, or names a target that is not
there. R41 names the space bit and bits [49:18] as malformed; that a size other than 16 bytes and a nonzero bit of [11:4] are, too, and that the
address need not be a multiple of the size, is a choice (log 141, DESIGN CHOICE). -/
def execMailboxRequest (s : State) : Result :=
  let q := s.arg.q
  let e := q.dst
  let c : CoreId := { pkg := e.pkg, die := e.die, pos := bits q.addr 17 12 }
  let m := q.addr % 16
  .next <|
    if q.sym || q.size != 4 || q.addr / 2 ^ 18 != 0 || bits q.addr 11 4 != 0 then s.refuse q e 7
    else if (s.die e.dieId).lost then s.refuse q e 4
    else if 3 < e.die || !(s.die e.dieId).working.getLsbD c.pos then s.refuse q e 7
    else
      let box := tget (s.core c).mbox m []
      if 4 ≤ box.length then s.send (s.replyTo q e 0x85 0)
      else
        let s := s.updCore c fun k => { k with mbox := tset k.mbox m (box ++ [q.data0]) }
        let s := s.fireCore c fun v => v.kind == 4 && v.source.toNat % 16 == m
        (s.pumpMail c (s.core c).recv).send (s.replyTo q e 0x82 0)

/-! Lines. -/

namespace State

/-- LINE-DATA for a LINE-READ (R43). -/
def lineReply (s : State) (q : Packet) (h : Home) (d : DieId) (pa : Nat) : LinePkt :=
  { (default : LinePkt) with
    opcode := 0x90, dst := q.issuer, src := homeEndpoint h, issuer := q.issuer, warp := q.warp, tag := q.tag, round := q.round
    scope := q.scope, addr := pa, data := s.homeBytes d pa 128, mask := BitVec.allOnes 128, poison := s.isPoisoned h
    lcrcOk := true, version := (s.die d).cur.version }

end State

/-- LINE_READ (R428): the line, with what the home records for each kind of read. A pinned line is read by nobody else, and by no
visitor read at all (R207). A visitor read waits for a push to its die that is not acknowledged, and as a ninth holder's for one to the oldest
(R209, R210; log 123). -/
def execLineRead (s : State) : Result :=
  let q := s.arg.q
  let e := q.dst
  let d := e.dieId
  .next <|
    if 4 < q.scope || q.addr % 128 != 0 || q.sym then s.refuse q e 7
    else if (s.die d).lost then s.refuse q e 4
    else
      let s := s.meetVersion d q.version
      match s.serveAt d q.addr q.version q.forwarded with
      | .badVersion => s.refuse q e 7
      | .secondForward => s.forwardedTwice q e
      | .forward h pa => s.forwardTo q e h pa
      | .here h => s.passHome h .lineRead q.issuer fun s =>
        let c := q.issuer.core
        if (match s.pinHolder h with
          | some p => q.issuer.unit != 0 || p != c || decide (3 ≤ q.scope)
          | none => false) then s.send (s.replyTo q e 0x85 0)
        else if !s.isPoisoned h && decide (3 ≤ q.scope) && !h.near && s.admitWaits h c.dieId then s.afterOnce 1 .lineRead s.arg
        else
          let s := if s.isPoisoned h then s
            else if q.scope = 0 then s.pinAt h c
            else if 3 ≤ q.scope && !h.near then s.addHolder h q.addr c.dieId
            else s
          s.sendLine (s.lineReply q h d q.addr)

namespace State

/-- Write those bytes of a line whose enable bits are set, at its home, with all that follows (R17, R427). -/
def lineWriteAt (s : State) (h : Home) (d : DieId) (pa : Nat) (data : List Byte) (mask : BitVec 128) : State :=
  if mask = BitVec.allOnes 128 then s.homeWrite d pa data
  else if mask = 0 then s
  else
    let new := (List.range 128).map fun i => if mask.getLsbD i then data.getD i 0 else s.homeByte d (pa + i)
    (s.homePuts d pa new).afterWrite h pa 128

/-- Write a line that has come at its home; one that came poisoned leaves it so (R11, R18, R427). -/
def lineStore (s : State) (h : Home) (d : DieId) (pa : Nat) (l : LinePkt) : State :=
  let s := s.lineWriteAt h d pa l.data l.mask
  if l.poison && !s.isPoisoned h then { s with poisoned := lineOf (physKey h) :: s.poisoned } else s

end State

/-- LINE_WRITE (R43, R207): a whole or partial line is written; the answer follows when it is performed at its scope. -/
def execLineWrite (s : State) : Result :=
  let l := s.arg.l
  let q := State.ofLine l
  let e := l.dst
  let d := e.dieId
  .next <|
    if l.addr % 128 != 0 then s.refuse q e 7
    else if (s.die d).lost then s.refuse q e 4
    else
      let s := s.meetVersion d l.version
      match s.serveAt d l.addr l.version l.forwarded with
      | .badVersion => s.refuse q e 7
      | .secondForward => s.forwardedTwice q e
      | .forward h pa =>
        match s.retag q (h.pkg != e.pkg) with
        | none => s.send (s.replyTo q e 0x85 0)
        | some (n, r, s) =>
          s.sendLine { l with
            dst := homeEndpoint h, src := e, addr := pa, forwarded := true, version := (s.die d).cur.version, tag := n, round := r }
      | .here h => s.passHome h .lineWrite l.issuer fun s =>
        if (match s.pinHolder h with
          | some p => l.issuer.unit != 0 || p != l.issuer.core
          | none => false) then s.send (s.replyTo q e 0x85 0)
        else
          let due := s.pushesDue h
          let s := s.lineStore h d l.addr l
          s.replyWhen h l.scope due .lineWrite { q := s.replyTo q e 0x82 0 }

/-- The visitor reads of a line that the cores of a die have under way bring data too old to keep: a push has overtaken them
(R209, R210, R213). -/
def State.staleVisits (s : State) (d : DieId) (line : Nat) : State :=
  { s with cores := s.cores.map fun (x : CoreId × Core) =>
      if x.1.dieId == d then (x.1, { x.2 with tags := x.2.tags.map fun (y : Nat × Tag) =>
        if y.2.held && y.2.req.opcode == 7 && decide (3 ≤ y.2.req.scope) && lineOf y.2.req.addr == line then
          (y.1, { y.2 with stale := true }) else y })
      else x }

/-- LINE_PUSH (R210): a holder's visitor copy is brought up to date, or dropped; a copy that is gone stays gone, and one whose
read is under way is not kept. -/
def execLinePush (s : State) : Result :=
  let l := s.arg.l
  let d := l.dst.dieId
  let n := lineOf l.addr
  let k := s.die d
  let s := if k.lost || (tget? k.visitors n).isNone then s
    else if l.mask = 0 || l.poison then s.setDie d { k with visitors := tdel k.visitors n }
    else s.setDie d { k with visitors := tset k.visitors n l.data }
  let s := s.staleVisits d n
  .next (s.send { (default : Packet) with
    opcode := 0x82, dst := l.issuer, src := l.dst, issuer := l.issuer, tag := l.tag, round := l.round, addr := l.addr
    version := k.cur.version })

end Sys2Proof.Machine
end

