-- ==== Sys2Proof/Machine/Combine.lean ====
section
/-! DEFINITION. In-switch combining (R49-R53) and multicast (R55) at the routers. -/

namespace Sys2Proof.Machine

/-! The fold (R50, R51). -/

/-- A line as 32 elements, with those that are present. -/
structure Vec32 where
  elems : List Word
  present : List Bool
  deriving DecidableEq, Repr

def vecOf (l : LinePkt) : Vec32 :=
  { elems := laneNums.map fun i => BitVec.ofNat 32 (field l.data (4 * i) 4)
    present := laneNums.map fun i => [0, 1, 2, 3].all fun j => l.mask.getLsbD (4 * i + j) }

/-- The identity of an operator for element i (R50). -/
def identityOf (op i : Nat) : Word :=
  match op with
  | 0 => 0x80000000
  | 2 => 0xFF800000
  | 3 => 0x7F800000
  | 4 => 0xFFFFFFFF
  | 6 => if i = 0 then 0xFF800000 else 0
  | _ => 0

def foldElem (op : Nat) (a x : Word) : Word :=
  match op with
  | 0 => fadd .rne a x
  | 1 => a + x
  | 2 => fmax a x
  | 3 => fmin a x
  | 4 => a &&& x
  | _ => a ||| x

/-- The factor of one side of an LSE3 fold: 1 when its maximum is the larger, else EX2 of the difference. -/
def lseFactor (m1 m : Word) : Word := if numEq (f32Num m1) (f32Num m) then 0x3F800000 else ex2Diff m1 m

/-- Fold x into acc (R50, R51). -/
def foldVec (op : Nat) (a x : Vec32) : Vec32 :=
  let ea := fun i => if a.present.getD i false then a.elems.getD i 0 else identityOf op i
  let ex := fun i => if x.present.getD i false then x.elems.getD i 0 else identityOf op i
  let pres := laneNums.map fun i => a.present.getD i false || x.present.getD i false || (op == 6 && decide (i < 2))
  if op = 6 then
    let m1 := a.elems.getD 0 0
    let m2 := x.elems.getD 0 0
    if f32IsNaN m1 || f32IsNaN m2 then
      { elems := laneNums.map fun i => if pres.getD i false then f32NaN else ea i, present := pres }
    else
      let m := fmax m1 m2
      let f1 := lseFactor m1 m
      let f2 := lseFactor m2 m
      { elems := laneNums.map fun i =>
          if i = 0 then m else if i = 1 then fdot2 (a.elems.getD 1 0) f1 (x.elems.getD 1 0) f2 else fdot2 (ea i) f1 (ex i) f2
        present := pres }
  else { elems := laneNums.map fun i => foldElem op (ea i) (ex i), present := pres }

/-- The fold of the inputs in ascending port order (R52). -/
def foldAll (op : Nat) : List Vec32 → Vec32
  | [] => { elems := [], present := [] }
  | v :: vs => vs.foldl (foldVec op) v

def vecLine (v : Vec32) : List Byte × BitVec 128 :=
  (v.elems.flatMap fun w => leBytes 4 w.toNat,
   laneNums.foldl (fun m i => if v.present.getD i false then m ||| ((0xF : BitVec 128) <<< (4 * i)) else m) 0)

/-- The port number of the local input (R52). -/
def localPort : Nat := 46

/-- What an ERROR between routers says of the line that it answers. -/
def combKey (group seq index : Nat) : Nat := group + seq * 2 ^ 10 + index * 2 ^ 26

namespace State

/-- Answer an input of a combining line with ERROR (R53): the local contributor, or by its port the child that sent it. -/
def combError (s : State) (p i : Nat) (l : LinePkt) (cause : Nat) : State :=
  if i = localPort then s.send (s.replyTo (ofLine l) (routerEndpoint p) 0x86 cause)
  else
    let child := routerEndpoint (farEnd p i)
    s.enqueue p (farEnd p i) (packetFlit { (default : Packet) with
      opcode := 0x86, dst := child, src := routerEndpoint p, issuer := child, lane := 2, addr := combKey l.group l.seq l.index
      data0 := BitVec.ofNat 128 cause })

/-- The inputs that a group expects at a router. -/
def Group.inputs (g : Group) : List Nat :=
  ((List.range 46).filter fun i => g.children.getLsbD i) ++ if g.local_ then [localPort] else []

def isSeq (l : LinePkt) (c : CombSeq) : Bool := c.group == l.group && c.seq == l.seq

/-- The sequences of a group that a router holds. -/
def liveSeqs (s : State) (p g : Nat) : List Nat :=
  (((s.pkg p).seqs.filter fun c => c.group == g && !c.abandoned).map (·.seq)).eraseDups

/-- A line of a sequence is complete: when all of them are, the sequence leaves the router, and a held one may enter. -/
def lineDone (s : State) (p : Nat) (l : LinePkt) (lines : Nat) : State :=
  let s := s.updPkg p fun k => { k with seqs := k.seqs.map fun c =>
    if (isSeq l c && c.index == l.index) then { c with inputs := [], sentUp := true } else c }
  let mine := (s.pkg p).seqs.filter (isSeq l)
  if mine.length = lines && mine.all fun c => c.sentUp && c.inputs.isEmpty then
    let s := s.updPkg p fun k => { k with seqs := k.seqs.filter fun c => !isSeq l c }
    (s.cancel .combineSequenceAbandon { p := p, i := l.group, n := l.seq }).postOnce .combineSequenceAdmit { p := p, i := l.group }
  else s

/-- Send a result down from a router: to its children, and to the local contributor (R52). -/
def sendDown (s : State) (p : Nat) (g : Group) (c : CombSeq) (l : LinePkt) : State :=
  let s := ((List.range 46).filter fun i => g.children.getLsbD i).foldl (fun (s : State) i =>
    let q := farEnd p i
    s.enqueue p q (lineFlit { l with opcode := 0x94, src := routerEndpoint p, dst := routerEndpoint q, issuer := routerEndpoint p })) s
  let s := match tget? c.inputs localPort with
    | some o => s.sendLine { l with
        opcode := 0x94, src := routerEndpoint p, dst := o.issuer, issuer := o.issuer, warp := o.warp, tag := o.tag, round := o.round }
    | none => s
  s.lineDone p l g.lines

/-- An input of a combining line enters its sequence at a router (R50, R52, R53). -/
def foldInput (s : State) (p i : Nat) (l : LinePkt) : State :=
  match tget? (s.pkg p).groups l.group with
  | none => s.combError p i l 5
  | some g =>
    if decide (6 < l.operator) || l.operator != g.operator || !(Group.inputs g).contains i then s.combError p i l 5
    else if g.lines ≤ l.index then s.combError p i l 7
    else
      let seqs := (s.pkg p).seqs
      if seqs.any fun c => isSeq l c && c.abandoned then s.combError p i l 5
      else
        let old := (seqs.find? fun c => isSeq l c && c.index == l.index).getD
          { group := l.group, seq := l.seq, index := l.index, inputs := [], sentUp := false, abandoned := false }
        if old.sentUp || (tget? old.inputs i).isSome then s.combError p i l 6
        else
          let s := if seqs.any (isSeq l) then s
            else s.after s.timeoutNs .combineSequenceAbandon { p := p, i := l.group, n := l.seq }
          let c := { old with inputs := tset old.inputs i l }
          let s := s.updPkg p fun k => { k with seqs := c :: k.seqs.filter fun x => !(isSeq l x && x.index == l.index) }
          if !(Group.inputs g).all fun i => (tget? c.inputs i).isSome then s
          else
            let ins := (Group.inputs g).filterMap fun i => tget? c.inputs i
            let (data, mask) := vecLine (foldAll g.operator (ins.map vecOf))
            let out : LinePkt := { l with
              data := data, mask := mask, folded := sumList (ins.map (·.folded)), poison := ins.any (·.poison), lcrcOk := true }
            if g.root then s.sendDown p g c out
            else
              let s := s.updPkg p fun k => { k with seqs := k.seqs.map fun x =>
                if (isSeq l x && x.index == l.index) then { x with sentUp := true } else x }
              let q := farEnd p g.parent
              s.enqueue p q (lineFlit { out with
                opcode := 0x93, src := routerEndpoint p, dst := routerEndpoint q, issuer := routerEndpoint p })

/-- Whether an input has to wait: its sequence would be the third of its group at the router (R53). -/
def thirdSeq (s : State) (p : Nat) (l : LinePkt) : Bool :=
  !((s.pkg p).seqs.any (isSeq l)) && decide (2 ≤ (s.liveSeqs p l.group).length) && (tget? (s.pkg p).groups l.group).isSome

/-- The buffer of an input that came by a port is free again: its credit is owed (R30, R53). -/
def freeBuffer (s : State) (p i : Nat) : State :=
  if i = localPort then s
  else
    let v := s.port p i
    (s.setPort p i { v with owed := tset v.owed 6 (tget v.owed 6 0 + 1) }).postOnce .flitTransmit { p := p, port := i }

/-- An input of a combining line arrives at a router by a port: one of a third sequence waits in its input buffer (R53). -/
def combineInput (s : State) (p i : Nat) (l : LinePkt) : State :=
  if s.thirdSeq p l then s.updPkg p fun k => { k with queued := k.queued ++ [(i, l)] }
  else (s.freeBuffer p i).foldInput p i l

/-- Abandon a sequence (R53): what was folded is dropped, and later contributions are answered with ERROR. -/
def abandon (s : State) (p g n : Nat) : State :=
  let mark : CombSeq := { group := g, seq := n, index := 0, inputs := [], sentUp := true, abandoned := true }
  ((s.updPkg p fun k => { k with seqs := mark :: k.seqs.filter fun c => !(c.group == g && c.seq == n) }).cancel
    .combineSequenceAbandon { p := p, i := g, n := n }).postOnce .combineSequenceAdmit { p := p, i := g }

/-- Load a group's entry on a router (R95): its incomplete sequences are abandoned, its marks are cleared. -/
def loadGroup (s : State) (p g : Nat) (v : Option Group) : State :=
  let s := s.updPkg p fun k => { k with seqs := k.seqs.filter fun c => !(c.group == g && c.abandoned) }
  let s := (s.liveSeqs p g).foldl (fun s n => s.abandon p g n) s
  s.updPkg p fun k => { k with groups := match v with
    | some v => tset k.groups g v
    | none => tdel k.groups g }

end State

/-- COMBINE_UP (R52): a contribution of the package's own core, or of a subtree. -/
def execCombineUp (s : State) : Result :=
  let l := s.arg.l
  let p := s.arg.p
  .next (s.combineInput p (if l.src.pkg = p then localPort else portTo p l.src.pkg) l)

/-- COMBINE_DOWN (R52, R360): a router passes the result on, but not that of a sequence it has abandoned (R53); a core's contributor
receives it. -/
def execCombineDown (s : State) : Result :=
  let l := s.arg.l
  let p := s.arg.p
  .next <|
    if l.dst.unit != 0 then
      match tget? (s.pkg p).groups l.group, (s.pkg p).seqs.find? fun c => State.isSeq l c && c.index == l.index && c.sentUp && !c.abandoned with
      | some g, some c => s.sendDown p g c l
      | _, _ => s
    else
      let c := l.dst.core
      if !s.accepts c l.tag l.round then s.discard c l.tag l.round l.issuer
      else
        let t := s.tag c l.tag
        let s := s.freeTagNow c l.tag
        if l.poison then s.tagFault c t 3
        else match t.use with
          | .combine w id =>
            let v := vecOf l
            let got := fun f : Flight => (activeLanes f.active).map fun i =>
              (i, ((if v.present.getD i false then v.elems.getD i 0 else identityOf l.operator i).setWidth 64 : DWord))
            (s.updFlight w id fun f => { f with got := got f }).wholeDone w id
          | _ => s

/-- COMBINE_SEQUENCE_ADMIT (R53): contributions of held sequences enter while a router holds fewer than two of the group. -/
def execCombineSequenceAdmit (s : State) : Result :=
  let p := s.arg.p
  let g := s.arg.i
  let ready := (s.pkg p).queued.filter fun x => x.2.group == g
  let s := s.updPkg p fun k => { k with queued := k.queued.filter fun x => x.2.group != g }
  .next (ready.foldl (fun s x => s.combineInput p x.1 x.2) s)

/-- COMBINE_SEQUENCE_ABANDON (R53): a sequence is incomplete after a timeout; or (flag) a parent answered a line with ERROR, which
every contribution to it receives. -/
def execCombineSequenceAbandon (s : State) : Result :=
  let p := s.arg.p
  .next <|
    if s.arg.flag then
      let q := s.arg.q
      let g := q.addr % 2 ^ 10
      let n := q.addr / 2 ^ 10 % 2 ^ 16
      let i := q.addr / 2 ^ 26
      let mine := fun c : CombSeq => c.group == g && c.seq == n && c.index == i && !c.abandoned
      match (s.pkg p).seqs.find? mine with
      | none => s
      | some c =>
        let s := s.updPkg p fun k => { k with seqs := k.seqs.filter fun c => !mine c }
        let s := if (s.pkg p).seqs.any fun c => c.group == g && c.seq == n then s
          else s.cancel .combineSequenceAbandon { p := p, i := g, n := n }
        let s := c.inputs.foldl (fun s x => s.combError p x.1 x.2 q.data0.toNat) s
        s.postOnce .combineSequenceAdmit { p := p, i := g }
    else if (s.pkg p).seqs.any fun c => c.group == s.arg.i && c.seq == s.arg.n && !c.abandoned then s.abandon p s.arg.i s.arg.n
    else s

/-! Multicast (R55). -/

namespace State

/-- The packages after the source on the way to a member (R55), if there is one. Which intermediate package a detour around a dead
edge takes is left open: the model takes the lowest column (log 120, a choice). -/
def mcastRoute (s : State) (a d : Nat) : Option (List Nat) :=
  let rc := 32 * Sys2Proof.Machine.rowOf a + colOf d
  let cr := 32 * Sys2Proof.Machine.rowOf d + colOf a
  if a = d then some []
  else if Sys2Proof.Machine.rowOf a = Sys2Proof.Machine.rowOf d || colOf a = colOf d then some [d]
  else if s.isMember rc then some [rc, d]
  else if s.isMember cr then some [cr, d]
  else
    let via := (List.range s.dom.ncol).find? fun c =>
      c != colOf a && c != colOf d && s.isMember (32 * Sys2Proof.Machine.rowOf a + c) && s.isMember (32 * Sys2Proof.Machine.rowOf d + c)
    via.map fun c => [32 * Sys2Proof.Machine.rowOf a + c, 32 * Sys2Proof.Machine.rowOf d + c, d]

/-- Where a route goes on behind a package. -/
def nextOn (route : List Nat) (a p : Nat) : Option Nat :=
  match (a :: route).dropWhile (· != p) with
  | _ :: m :: _ => some m
  | _ => none

def sameCast (l m : LinePkt) : Bool :=
  l.issuer == m.issuer && l.tag == m.tag && l.round == m.round && l.group == m.group && l.addr == m.addr && l.index == m.index

/-- The ERROR or WRITE-ACK of a router for a multicast line, back along the edge by which it arrived; its lane field tells it from
an answer to a contribution or to a Broker. -/
def castReply (s : State) (p : Nat) (m : Merge) (op cause : Nat) : State :=
  if m.from_ = p then s.send (s.replyTo (ofLine m.line) (routerEndpoint p) op cause)
  else
    let up := routerEndpoint m.from_
    s.enqueue p m.from_ (packetFlit { (default : Packet) with
      opcode := op, dst := up, src := routerEndpoint p, issuer := up, tag := m.line.tag, round := m.line.round, size := 3
      lane := 1, addr := m.line.addr, data0 := BitVec.ofNat 128 (cause + 2 ^ 8 * endpointVal m.line.issuer) })

/-- A replica is acknowledged at a router, or has failed: the last acknowledgement goes up, the first error at once. -/
def castAck (s : State) (p : Nat) (mine : Merge → Bool) (cause : Nat) : State :=
  match (s.pkg p).merges.find? mine with
  | none => s
  | some m =>
    let drop := s.updPkg p fun k => { k with merges := k.merges.filter fun x => !mine x }
    if cause != 0 then (if m.silent then drop else drop.castReply p m 0x86 cause)
    else if m.waiting ≤ 1 then (if m.silent then drop else drop.castReply p m 0x82 0)
    else s.updPkg p fun k => { k with merges := k.merges.map fun x => if mine x then { x with waiting := x.waiting - 1 } else x }

/-- Write a multicast line at a member, in its own symmetric region (R48, R359). -/
def castWrite (s : State) (p : Nat) (l : LinePkt) : State :=
  let mine := fun m : Merge => sameCast m.line l
  match s.symResolve p l.addr with
  | none => s.castAck p mine 1
  | some pa =>
    let d : DieId := { pkg := p, die := 0 }
    match s.homeNow d pa with
    | none => s.castAck p mine 1
    | some (h, pa) =>
      let s := s.symKeep p l.addr
      if (s.die h.dieId).lost then s.castAck p mine 4
      else if (s.pinHolder h).isSome then s.after 1000 .mcastLine { p := p, l := l, flag := true }
      else s.passHome h .mcastLine l.issuer fun s =>
        let due := s.pushesDue h
        let s := s.lineStore h d pa l
        s.replyWhen h l.scope due .mcastLine { p := p, l := l, flag := true, q := { (default : Packet) with opcode := 0x95 } }

/-- A multicast line at a router: it is replicated to the next packages on the ways of the members, and written here when the
package is one. R55 names no code for the record of a member that cannot be reached: it is 0020h with data 0 (log 140, a choice). -/
def castLine (s : State) (p : Nat) (l : LinePkt) : State :=
  let a := l.issuer.pkg
  let members := ((tget? (s.pkg a).groups l.group).map (·.members)).getD []
  let nexts := (members.filterMap fun d => (s.mcastRoute a d).bind fun r => nextOn r a p).eraseDups
  let here := members.contains p
  let lost := p == a && members.any fun d => (s.mcastRoute a d).isNone
  let dead := nexts.filter fun m => (s.port p (portTo p m)).state == 3
  let live := nexts.filter fun m => !dead.contains m
  let bad := lost || !dead.isEmpty
  let s := if bad then s.log p (routerEndpoint p) 0x0020 0 0 else s
  let m : Merge := { line := l, from_ := if l.src.unit = 3 then l.src.pkg else p
                     waiting := live.length + (if here then 1 else 0), silent := bad }
  let s := s.updPkg p fun k => { k with merges := k.merges ++ [m] }
  let s := live.foldl (fun (s : State) m => s.enqueue p m (lineFlit { l with src := routerEndpoint p, dst := routerEndpoint m })) s
  if here then s.post .mcastLine { p := p, l := l, flag := true } else s

end State

/-- MCAST_LINE (R55): a line at the source router, a relay or a member. With `flag`, the local write, or what came of a replica
or of the write. -/
def execMcastLine (s : State) : Result :=
  let p := s.arg.p
  let l := s.arg.l
  let q := s.arg.q
  .next <|
    if s.arg.flag then
      match q.opcode with
      | 0 => s.castWrite p l
      | 0x95 => s.castAck p (fun m => State.sameCast m.line l) 0
      | op =>
        let v := q.data0.toNat
        let mine := fun m : Merge => endpointVal m.line.issuer == v / 2 ^ 8 && m.line.tag == q.tag && m.line.round == q.round &&
          m.line.addr == q.addr
        s.castAck p mine (if op = 0x86 then v % 2 ^ 8 else 0)
    else if l.issuer.pkg = p && l.src.unit != 3 then
      match tget? (s.pkg p).groups l.group with
      | none => s.send (s.replyTo (State.ofLine l) (routerEndpoint p) 0x86 5)
      | some g =>
        if !g.valid then s.send (s.replyTo (State.ofLine l) (routerEndpoint p) 0x86 5)
        else if g.members.isEmpty then s.send (s.replyTo (State.ofLine l) (routerEndpoint p) 0x82 0) else s.castLine p l
    else s.castLine p l

end Sys2Proof.Machine
end

