-- ==== Sys2Proof/Machine/Fabric.lean ====
section
/-! DEFINITION. The fabric ports (R25-R39): arbitration and transmission, reception and the checks of R18, the boundary check of
R122, retrain and port loss; the modules of the die-to-die links (R13). -/

namespace Sys2Proof.Machine

/-- The level of the arbiter in which a channel is served (R32), outside the management slot. -/
def vcLevel (vc : Nat) : Nat := if vc = 6 then 0 else if 3 ≤ vc && vc ≤ 5 then 1 else if vc ≤ 2 then 2 else 3

/-- The order in which channels are served (R32), where `last` lists the channel that each level served last: level by level,
and round-robin within a level. -/
def vcOrder (last : Tab Nat Nat) : List Nat :=
  [0, 1, 2, 3].flatMap fun n =>
    ((List.range 8).map fun i => (tget last n 7 + 1 + i) % 8).filter fun vc => vcLevel vc == n

/-- Whether sequence number a is after b (R31). -/
def seqAfter (a b : Nat) : Bool := let n := (a + 2 ^ 16 - b) % 2 ^ 16; decide (0 < n) && decide (n < 2 ^ 15)

/-- The endpoint that names a fabric port as a master (R122). -/
def portEndpoint (p n : Nat) : Endpoint := { pkg := p, die := 4, pos := n, unit := 3 }

/-- The physical lanes of the working lanes of a direction, in order (R28). -/
def workingLanes (m : BitVec 16) : List Nat := (List.range 16).filter fun i => m.getLsbD i

/-- The number of working lanes (R28). -/
def laneCount (m : BitVec 16) : Nat := (workingLanes m).length

/-- The beats that n bytes take on L working lanes (R28). -/
def beats (lanes n : Nat) : Nat := (n + lanes - 1) / lanes

/-- What each working lane carries, a byte a beat: byte b travels on lane b mod L in beat b / L, and a lane without a byte in the
last beat carries zero (R28). -/
def laneBytes (lanes : Nat) (f : List Byte) : List (List Byte) :=
  (List.range lanes).map fun j => (List.range (beats lanes f.length)).map fun t => f.getD (lanes * t + j) 0

/-- The n bytes that a receiver reads off the working lanes (R28). -/
def ofLanes (n : Nat) (x : List (List Byte)) : List Byte :=
  (List.range n).map fun b => (x.getD (b % x.length) []).getD (b / x.length) 0

/-- A flit as the far end of a direction reads it off the lanes that work (R28). -/
def overLanes (m : BitVec 16) (f : List Byte) : List Byte := ofLanes f.length (laneBytes (laneCount m) f)

namespace State

/-- The congestion report of a flit (R33): two ports of the router in rotation. -/
def reportWord (s : State) (p sweep : Nat) : Nat :=
  let a := 2 * sweep % 46
  let b := (2 * sweep + 1) % 46
  a * 2 ^ 26 + s.depth p a * 2 ^ 16 + b * 2 ^ 10 + s.depth p b

/-- The flit that the arbiter takes next (R30, R32): its position in the queue. -/
def pickFlit (v : Port) (slot : Bool) : Option Nat :=
  let has := fun vc : Nat => if 0 < tget v.credits vc Config.firstCredits then v.queue.findIdx? fun f => (flitHdr f).vc == vc else none
  if slot then has 7 else (vcOrder v.lastVc).findSome? has

/-- An idle flit: only the link fields of its header are used (R18). -/
def idleFlit : List Byte := mkFlit (freshHdr 0 0 0 (endpointOf 0) (endpointOf 0) 0 false) []

end State

/-- FLIT_TRANSMIT (R27, R28, R30-R33): one flit, or an idle one, leaves a port with its link fields, on the lanes that work.
Beyond 4,096 unacknowledged flits the oldest kept one is dropped (log 115, a choice). -/
def execFlitTransmit (s : State) : Result :=
  let p := s.arg.p
  let n := s.arg.port
  let v := s.port p n
  let q := farEnd p n
  .next <|
    if v.state != 1 || !s.isMember p || !s.isMember q then s
    else
      let slot := v.slots % 64 == 63
      let pick := State.pickFlit v slot
      let f := (pick.map fun i => v.queue.getD i []).getD State.idleFlit
      let vc := (flitHdr f).vc
      let owed := v.owed.find? fun x => 0 < x.2
      let seq := (v.seqOut + 1) % 2 ^ 16
      let f := State.reheader f fun h => { h with
        seq := seq, ack := v.seqIn, creditVc := (owed.map (·.1)).getD 0, credits := (owed.map (·.2)).getD 0
        report := s.reportWord p v.sweep, mgmt := slot && pick.isSome }
      let v := { v with
        queue := match pick with
          | some i => v.queue.eraseIdx i
          | none => v.queue
        seqOut := seq, retry := (v.retry ++ [f]).drop (v.retry.length + 1 - 4096)
        credits := if pick.isSome then tset v.credits vc (tget v.credits vc Config.firstCredits - 1) else v.credits
        owed := match owed with
          | some x => tdel v.owed x.1
          | none => v.owed
        lastVc := if pick.isSome && !slot then tset v.lastVc (vcLevel vc) vc else v.lastVc, sweep := (v.sweep + 1) % 23, slots := (v.slots + 1) % 64 }
      let s := (s.setPort p n v).post .flitReceive { p := q, port := portTo q p, bytes := overLanes v.txLanes f }
      if (State.pickFlit v false).isSome || !v.owed.isEmpty then s.postOnce .flitTransmit { p := p, port := n } else s

namespace State

/-- Deliver the requests or the line of a flit to their package; a reserved opcode is answered with ERROR (R41). -/
def deliverFlit (s : State) (h : FlitHdr) (f : List Byte) : State :=
  let b := flitBody f
  if h.kind = 1 then
    (List.range h.slots).foldl (fun (s : State) k =>
      let q := slotOf h (b.drop (56 * k))
      if q.opcode == 6 || (packetEvent q.opcode).isSome then s.arrive q else s.refuse q q.dst 7) s
  else
    let l := lineOfBody h b
    match lineEvent l.opcode with
    | some _ => s.arriveLine l
    | none => s.refuse (ofLine l) l.dst 7

/-- Whether a source can lie behind the port toward neighbour m (R34, R122): by a column port only the neighbour's row comes. -/
def behind (s : State) (p m src : Nat) : Bool :=
  src != p && s.isMember src && (Sys2Proof.Machine.rowOf p == Sys2Proof.Machine.rowOf m || Sys2Proof.Machine.rowOf src == Sys2Proof.Machine.rowOf m)

/-- A flit that has passed the link's checks at a router: it is delivered, or goes on to its next hop (R29, R34). -/
def routeFlit (s : State) (p : Nat) (f : List Byte) : State :=
  let h := flitHdr f
  if h.dst.pkg = p then s.deliverFlit h f
  else
    let m := nextHop p h.dst.pkg
    let row := Sys2Proof.Machine.rowOf p == Sys2Proof.Machine.rowOf m
    s.enqueue p m (reheader f fun h => { h with
      vc := if h.vc ≤ 2 then min (h.vc + 1) 2 else if h.vc ≤ 5 then min (h.vc + 1) 5 else h.vc
      row := h.row || row, col := h.col || !row })

/-- A flit for a port that came earlier on the link is still under way. -/
def earlierFlit (s : State) (p n seq : Nat) : Bool :=
  s.inflight.any fun e => e.1 == .flitReceive && e.2.p == p && e.2.port == n && !e.2.flag && seqAfter seq (flitHdr e.2.bytes).seq

/-- The sequence number up to which a port has received when a flit that fails its checks has come: that of the flit where the
HCRC vouches for it, else the next one. Its place in the sequence stays a gap (R31). -/
def seqPast (v : Port) (f : List Byte) : Nat :=
  let h := flitHdr f
  if hcrcOk f then (if seqAfter h.seq v.seqIn then h.seq else v.seqIn) else (v.seqIn + 1) % 2 ^ 16

/-- Whether a flit's buffer at a port is not free yet when the flit has been taken in: a contribution to this router keeps it
until it enters its sequence (R30, R53). -/
def keepsBuffer (p : Nat) (f : List Byte) : Bool :=
  (flitHdr f).kind == 2 && (flitHdr f).dst.pkg == p && field (flitBody f) 128 1 == 0x93

/-- Take in a flit at a port. Of a flit that is discarded (R18) neither the credit it used nor those it returns come back (log
117, a choice). -/
def takeFlit (s : State) (p n : Nat) (f : List Byte) : State :=
  let v := s.port p n
  if v.state = 0 || v.state = 3 then s
  else if !flitOk f then
    (s.setPort p n { v with seqIn := seqPast v f }).log p (routerEndpoint p) 0x0020 0 (BitVec.ofNat 64 (field f 0 8))
  else
    let h := flitHdr f
    if !seqAfter h.seq v.seqIn then s
    else
      let put := fun (t : Tab Nat Nat) (k d : Nat) => if k < 46 then tset t k d else t
      let a := h.report
      let v := { v with
        seqIn := h.seq, ackIn := h.ack, retry := v.retry.filter fun g => seqAfter (flitHdr g).seq h.ack
        credits := if h.credits = 0 then v.credits
          else tset v.credits h.creditVc (tget v.credits h.creditVc Config.firstCredits + h.credits)
        owed := if h.kind = 0 || h.kind = 3 || keepsBuffer p f then v.owed else tset v.owed h.vc (tget v.owed h.vc 0 + 1)
        state := if h.kind = 3 && v.state = 1 then 2 else v.state
        reports := put (put v.reports (bits a 31 26) (bits a 25 16)) (bits a 15 10) (bits a 9 0) }
      let s := s.setPort p n v
      let s := if !v.queue.isEmpty || !v.owed.isEmpty then s.postOnce .flitTransmit { p := p, port := n } else s
      if h.kind = 0 || h.kind = 3 then s
      else
        let e := portEndpoint p n
        if s.isFrozen p e then s.hold p e .flitReceive { p := p, port := n, bytes := f, flag := true, i := 1 }
        else if h.src.unit = 4 || !s.behind p (farEnd p n) h.src.pkg then
          (s.freeze p e 2).hold p e .flitReceive { p := p, port := n, bytes := f, flag := true, i := 1 }
        else s.routeFlit p f

end State

/-- What a packet or line on a die-to-die link of its package becomes when its flit comes over as other bytes (R18): it is discarded
and recorded at the die that receives it, or a line whose LCRC alone fails is delivered poisoned. -/
def State.spoil (s : State) (n : Nat) (bs : List Byte) : State :=
  match s.inflight[n]? with
  | none => s
  | some (i, a) =>
    match a.ends with
    | none => s
    | some (_, dst) =>
      if flitOk bs then
        if a.l.opcode = 0 then s
        else { s with inflight := s.inflight.set n (i, { a with l := { a.l with poison := true, lcrcOk := false } }) }
      else ({ s with inflight := s.inflight.eraseIdx n } : State).log dst.pkg { pkg := dst.pkg, die := dst.die, pos := 0, unit := 3 } 0x0020 0
        (BitVec.ofNat 64 (field bs 0 8))

/-- FLIT_RECEIVE (R18, R31): a flit reaches the port of a router, after those sent before it. With `flag`, the flit on the link
came over corrupted (i = 2: the n-th event's, on a link between dies of one package), or (i = 1) a held one passes on (R123). -/
def execFlitReceive (s : State) : Result :=
  let a := s.arg
  .next <|
    if a.flag then
      if a.i = 1 then s.routeFlit a.p a.bytes
      else if a.i = 2 then s.spoil a.n a.bytes
      else match s.inflight.find? fun e => e.1 == .flitReceive && e.2.p == a.p && e.2.port == a.port && !e.2.flag &&
          !s.earlierFlit a.p a.port (flitHdr e.2.bytes).seq with
        | some e => ({ s with inflight := s.inflight.erase e } : State).takeFlit a.p a.port a.bytes
        | none => s
    else if s.earlierFlit a.p a.port (flitHdr a.bytes).seq then s.post .flitReceive a
    else s.takeFlit a.p a.port a.bytes

/-! Retrain and port loss (R37-R39). -/

namespace State

/-- The link-control flit that names failing lanes (R37 step 1): in the management slot, numbered like any flit and with the two reports
whose turn it is (R33), never kept for a resend (log 116). -/
def controlFlit (s : State) (p q : Nat) (v : Port) (lost : BitVec 16) : List Byte :=
  mkFlit { freshHdr 3 0 7 (routerEndpoint p) (routerEndpoint q) 0 false with
    seq := (v.seqOut + 1) % 2 ^ 16, ack := v.seqIn, mgmt := true, report := s.reportWord p v.sweep } (lanesBody lost)

/-- The side that detects a failure sends a link-control flit and stops (R37 steps 1 and 2). -/
def stopPort (s : State) (p n : Nat) (lost : BitVec 16) : State :=
  let v := s.port p n
  let q := farEnd p n
  (s.setPort p n { v with state := 2, seqOut := (v.seqOut + 1) % 2 ^ 16, sweep := (v.sweep + 1) % 23 }).post .flitReceive
    { p := q, port := portTo q p, bytes := overLanes v.txLanes (s.controlFlit p q v lost) }

/-- Whether a flitReceive of a port is still to come. -/
def toPort (p n : Nat) (e : Instr × Arg) : Bool := e.1 == .flitReceive && e.2.p == p && e.2.port == n

end State

/-- PORT_RETRAIN (R37): a lane of a port loses signal or lock, or (flag) its rate `n` of corrected symbols is above the record's
threshold. The side that detects it says so to its peer and stops; the peer stops when it hears of it. `rx` and `tx` are the lanes
that will work. -/
def execPortRetrain (s : State) : Result :=
  let a := s.arg
  let p := a.p
  let v := s.port p a.port
  .next <|
    if 46 ≤ a.port || v.state != 1 || !s.isMember (farEnd p a.port) then s
    else if a.flag && decide (a.n ≤ (s.pkg p).record.laneThreshold.toNat) then s
    else (s.stopPort p a.port (v.rxLanes &&& ~~~a.rx)).after 25000 .portRetrainEnd a

namespace State

/-- A port sends again what its peer has not acknowledged, in order (R37 step 5). -/
def resend (s : State) (p n : Nat) : State :=
  let q := farEnd p n
  let m := portTo q p
  let seen := (s.port q m).seqIn
  let s := ((s.port p n).retry.filter fun f => seqAfter (flitHdr f).seq seen).foldl (fun (s : State) f =>
    s.postOnce .flitReceive { p := q, port := m, bytes := f }) s
  s.postOnce .flitTransmit { p := p, port := n }

/-- A port sends and receives no more: what it had queued is routed again, its retry buffer is discarded. -/
def darken (s : State) (p n : Nat) : State :=
  let v := s.port p n
  let s := s.setPort p n { v with state := 3, queue := [], retry := [] }
  v.queue.foldl (fun (s : State) f => s.sendFlit p (reheader f fun h => { h with detour := false, row := false, col := false })) s

/-- A port is dead (R39); its new L is 0 in each direction (R121). -/
def killPort (s : State) (p n : Nat) : State :=
  let v := s.port p n
  (s.darken p n).log p (routerEndpoint p) 0x0012 0 (BitVec.ofNat 64 (n + laneCount v.rxLanes * 2 ^ 8 + laneCount v.txLanes * 2 ^ 24))

end State

/-- PORT_RETRAIN_END (R37, R39): both sides have stopped by now, whether or not the link-control flit came through. -/
def execPortRetrainEnd (s : State) : Result :=
  let a := s.arg
  let p := a.p
  let n := a.port
  let q := farEnd p n
  let m := portTo q p
  let v := s.port p n
  let u := s.port q m
  .next <|
    if v.state != 2 then s
    else if a.rx = 0 || a.tx = 0 then
      (({ s with inflight := s.inflight.filter fun e => !State.toPort p n e && !State.toPort q m e } : State).killPort p n).killPort q m
    else
      let control := fun e : Instr × Arg => (State.toPort p n e || State.toPort q m e) && (flitHdr e.2.bytes).kind == 3
      let s : State := { s with inflight := s.inflight.filter fun e => !control e }
      let s := (s.setPort p n { v with state := 1, rxLanes := a.rx, txLanes := a.tx }).setPort q m
        { u with state := 1, rxLanes := a.tx, txLanes := a.rx }
      let s := (s.resend p n).resend q m
      s.log p (routerEndpoint p) 0x0011 0 (BitVec.ofNat 64 (n + laneCount v.rxLanes * 2 ^ 8 + laneCount a.rx * 2 ^ 16 +
        laneCount v.txLanes * 2 ^ 24 + laneCount a.tx * 2 ^ 32))

/-- PORT_REENABLE (R33, R39): firmware enables a dead port again; every depth behind it counts 1023 until it is reported. -/
def execPortReenable (s : State) : Result :=
  let p := s.arg.p
  let n := s.arg.port
  let q := farEnd p n
  .next <|
    if 46 ≤ n || (s.port p n).state != 3 || !s.isMember p || !s.isMember q then s
    else (s.setPort p n { Port.dark with state := 1 }).setPort q (portTo q p) { Port.dark with state := 1 }

/-! The modules of the die-to-die links (R12, R13). -/

/-- The modules of a link (R12); none when the package has no such link (R6). -/
def linkModules (a b : Nat) : Nat :=
  match a, b with
  | 0, 1 => 4
  | 2, 3 => 4
  | 0, 2 => 4
  | 1, 3 => 4
  | 0, 4 => 3
  | 1, 4 => 3
  | 2, 4 => 3
  | 3, 4 => 3
  | 4, 5 => 3
  | _, _ => 0

/-- MODULE_RETRAIN (R13): within 20 us the module works again, or (flag) has failed. -/
def execModuleRetrain (s : State) : Result :=
  let l := s.arg.link
  .next (if linkModules l.a l.b ≤ s.arg.i || (tget (s.pkg l.pkg).modules l []).contains s.arg.i then s
    else s.after 20000 .moduleRetrainEnd s.arg)

/-- MODULE_RETRAIN_END (R13): a failed module is disabled and recorded; a die whose last module to the front end fails is lost.
The other links' traffic goes another way within the package. -/
def execModuleRetrainEnd (s : State) : Result :=
  let l := s.arg.link
  let i := s.arg.i
  .next <|
    let off := tget (s.pkg l.pkg).modules l []
    let s := s.log l.pkg (routerEndpoint l.pkg) 0x0010 0
      (BitVec.ofNat 64 (l.a + l.b * 2 ^ 8 + i * 2 ^ 16 + (if s.arg.flag then 2 ^ 24 else 0)))
    if !s.arg.flag || off.contains i then s
    else
      let s := s.updPkg l.pkg fun k => { k with modules := tset k.modules l (off ++ [i]) }
      if off.length + 1 = linkModules l.a l.b && l.b = 4 then s.post .fatalDieError { d := { pkg := l.pkg, die := l.a } } else s

end Sys2Proof.Machine
end

