-- ==== Sys2Proof/Machine/Queue.lean ====
section
/-! DEFINITION. The command queue (R79-R84), its packets (R85-R95), the start and rejection of launches (R87, R256, R415), the
time-triggered table (R98, R99), child launches (R101), and the standby's takeover (R102). -/

namespace Sys2Proof.Machine

/-! Packets as bytes (R80). -/

def packetKind (bs : List Byte) : Nat := field bs 0 1 % 16
def packetVersion (bs : List Byte) : Nat := field bs 0 1 / 16
def packetBarrier (bs : List Byte) : Bool := bits (field bs 1 1) 0 0 == 1
def packetTag (bs : List Byte) : Nat := field bs 4 4

/-- No reserved bit of the common header is set. -/
def headerClean (bs : List Byte) : Bool := bits (field bs 1 1) 7 1 == 0 && field bs 2 2 == 0

/-- The event of a packet that starts, by its kind. -/
def packetStart (kind : Nat) : Option Instr :=
  match kind with
  | 1 => some .launchPacket
  | 2 => some .signalPacket
  | 3 => some .waitPacket
  | 4 => some .fencePacket
  | 5 => some .tablePacket
  | 6 => some .combineConfig
  | 7 => some .nopPacket
  | _ => none

/-- Whether a packet other than a LAUNCH breaks a field rule of its kind (R83, R90, R92, R93, R95, R98). -/
def bodyBad (bs : List Byte) : Bool :=
  match packetKind bs with
  | 2 => field bs 25 39 != 0 || bits (field bs 24 1) 7 5 != 0 || bits (field bs 24 1) 1 0 == 3 ||
      decide (4 < bits (field bs 24 1) 4 2)
  | 3 => field bs 25 3 != 0 || bits (field bs 24 1) 7 2 != 0
  | 4 => decide (4 < field bs 8 1) || field bs 9 55 != 0
  | 5 => decide (64 < field bs 16 2) || field bs 18 46 != 0
  | 6 => bits (field bs 8 2) 15 10 != 0 || bits (field bs 8 2) 9 0 == 0 || decide (6 < field bs 10 1) ||
      field bs 11 1 == 0 || decide (64 < field bs 11 1) || field bs 12 4 != 0 || field bs 24 40 != 0
  | 7 => field bs 8 56 != 0
  | _ => false

/-- Whether a LAUNCH packet's body breaks the ranges, reserved fields or alignments of R85. -/
def launchBad (bs : List Byte) : Bool :=
  !headerClean bs || field bs 62 2 != 0 || bits (field bs 61 1) 7 3 != 0 || decide (4 < bits (field bs 61 1) 2 0) ||
    bits (field bs 60 1) 7 3 != 0 || field bs 24 4 == 0 || field bs 28 2 == 0 || field bs 30 2 == 0 ||
    decide (2 ^ 32 < field bs 24 4 * field bs 28 2 * field bs 30 2) || field bs 16 8 % 16 != 0 || field bs 32 8 % 8 != 0 ||
    field bs 8 8 % 128 != 0

/-- Whether a kernel descriptor breaks R86. -/
def descriptorBad (d : List Byte) : Bool :=
  let cont := bits (field d 14 1) 0 0 == 1
  field d 0 8 % 4 != 0 || field d 8 1 == 0 || decide (32 < field d 8 1) || field d 9 1 == 0 || decide (16 < field d 9 1) ||
    decide (4 < bits (field d 12 1) 6 0) || decide (8 < bits (field d 13 1) 3 0) || bits (field d 13 1) 7 4 != 0 ||
    bits (field d 14 1) 7 2 != 0 || decide (16 < field d 15 1) || field d 16 4 != 0 || decide (4096 < field d 20 2) ||
    field d 22 2 != 0 || field d 24 8 != 0 || field d 40 88 != 0 || (cont == (field d 32 8 == 0))

/-- The launch that a LAUNCH packet and a descriptor describe (R85, R86). -/
def launchOf (src : LaunchSrc) (serial index start : DWord) (p d : List Byte) (priv : Bool) : Launch :=
  { src := src, serial := serial, index := index, tag := BitVec.ofNat 32 (packetTag p), prio := bits (field p 60 1) 2 0
    relScope := bits (field p 61 1) 2 0, record := BitVec.ofNat 64 (field p 40 8), signal := BitVec.ofNat 64 (field p 32 8)
    gx := field p 24 4, gy := field p 28 2, gz := field p 30 2, args := BitVec.ofNat 64 (field p 16 8)
    placeBase := BitVec.ofNat 64 (field p 48 8), placeStride := field p 56 4, entry := BitVec.ofNat 64 (field d 0 8)
    cont := BitVec.ofNat 64 (field d 32 8), contMode := bits (field d 14 1) 0 0 == 1, placement := bits (field d 14 1) 1 1 == 1
    straddle := bits (field d 12 1) 7 7 == 1, shape := bits (field d 12 1) 6 0, warps := field d 8 1, units := field d 9 1
    tiles := bits (field d 13 1) 3 0, bars := field d 15 1, stack := field d 20 2, scratch := field d 10 2, priv := priv
    start := start, exited := 0, lost := 0, preempts := 0, pfCount := 0, pfAddr := 0, pfCause := 0, pfBlock := 0
    failed := false, recorded := none, weights := [], homes := [] }

namespace State

/-! The queue in memory (R79, R82, R83). -/

def queueSlot (s : State) (i : Nat) : DWord := s.dom.queueBase + BitVec.ofNat 64 (128 + 64 * (i % 2 ^ s.dom.queueK))

/-- The watch on the control block follows its translation (R82). -/
def watchQueue (s : State) : State :=
  match s.fwTranslate s.lead s.dom.queueBase.toNat false with
  | .ok e => { s with queue := { s.queue with watch := some (e.phys s.dom.queueBase.toNat) } }
  | _ => s

/-- A word of the control block. -/
def queueWord (s : State) (off : Nat) : Option Nat :=
  match s.fwBytes s.lead (s.dom.queueBase + BitVec.ofNat 64 off) 8 with
  | .ok bs _ => some (leVal bs)
  | _ => none

/-- The packet that is dispatched now is taken up by an event that is still due. -/
def packetDue (s : State) (i : Nat) : Bool :=
  let mine := fun (e : Instr) (a : Arg) => a.src == .queue && a.n == i && [1, 2, 3, 4, 5, 6, 7].any fun k => packetStart k == some e
  (s.inflight.any fun e => mine e.1 e.2) || s.timers.any fun t => mine t.2.1 t.2.2

/-- Write the status byte, again later while its line is held. -/
def putStatus (s : State) (code : Nat) : State :=
  match s.fwPut s.lead (s.dom.queueBase + 24) (leBytes 1 code) with
  | .ok _ s => s
  | .busy => s.afterOnce 1 .queueRestart { flag := true, n := code }
  | _ => s

/-- Halt the queue at packet i (R83). -/
def halt (s : State) (i tag code : Nat) : State :=
  let s := { s with queue := { s.queue with cur := none, acked := false, waiting := none, status := code } }
  (s.log s.lead (routerEndpoint s.lead) 0x0030 tag (BitVec.ofNat 64 (i * 256 + code))).putStatus code

/-- Packet i has started (R82). -/
def started (s : State) (i : Nat) : State :=
  ({ s with queue := { s.queue with cur := none, acked := false, confirmed := i + 1 } } : State).postOnce .queuePoll {}

/-- Grids of the queue and of the time-triggered table that are in flight (R82). -/
def gridsInFlight (s : State) : Nat :=
  (s.launches.filter fun x => match x.2.src with
    | .child _ => false
    | _ => true).length

/-- Start the mirrored packet when its turn has come (R82-R84). -/
def dispatch (s : State) : State :=
  match s.queue.cur with
  | none => s
  | some (i, bs) =>
    if !s.queue.acked || s.queue.status != 0 || s.frozen || s.packetDue i then s
    else
      let kind := packetKind bs
      match packetStart kind with
      | none => s.halt i (packetTag bs) 1
      | some e =>
        if packetVersion bs != 1 || (kind != 1 && !headerClean bs) then s.halt i (packetTag bs) 1
        else if packetBarrier bs && !s.queue.grids.isEmpty then s
        else if kind = 1 && 64 ≤ s.gridsInFlight then s
        else s.post e { n := i, src := .queue, bytes := bs, flag := s.queue.again && kind = 6 }

/-- The packet of an event is the one that is to start now. -/
def packetReady (s : State) : Bool :=
  s.arg.src != .queue || (s.queue.cur == some (s.arg.n, s.arg.bytes) && s.queue.acked && s.queue.status == 0 && !s.frozen)

/-- Mirror the next packet to the standby (R82); a LAUNCH takes its serial now. -/
def mirror (s : State) (i : Nat) (bs : List Byte) : State :=
  let launch := field bs 0 1 = 0x11
  let q := { s.queue with cur := some (i, bs), acked := false, again := false, serial := if launch then s.serial else 0 }
  ({ s with queue := q, serial := if launch then s.serial + 1 else s.serial } : State).post .mirrorAck { n := i }

end State

/-- QUEUE_POLL (R82): the read index is brought up to date, and the next packet below the write index is read. -/
def execQueuePoll (s : State) : Result :=
  .next <|
    if !s.dom.configured then s
    else
      let s := (s.afterOnce 10000 .queuePoll {}).watchQueue
      if s.queue.status != 0 then s.postOnce .queueRestart {}
      else
        match s.queueWord 16, s.queueWord 8 with
        | some r, some w =>
          if r != s.queue.confirmed then
            match s.fwPut s.lead (s.dom.queueBase + 16) (leBytes 8 s.queue.confirmed) with
            | .ok _ s => s.postOnce .queuePoll {}
            | _ => s.afterOnce 1000 .queuePoll {}
          else if s.frozen then s
          else if s.queue.cur.isSome then s.dispatch
          else if s.queue.waiting.isSome || w ≤ s.queue.confirmed then s
          else
            match s.fwBytes s.lead (s.queueSlot s.queue.confirmed) 64 with
            | .ok bs s => s.mirror s.queue.confirmed bs
            | .busy => s.afterOnce 1000 .queuePoll {}
            | _ => s
        | _, _ => s.afterOnce 1000 .queuePoll {}

/-- MIRROR_ACK (R82). -/
def execMirrorAck (s : State) : Result :=
  .next (match s.queue.cur with
    | some (i, _) => if i = s.arg.n && !s.queue.acked then
        ({ s with queue := { s.queue with acked := true } } : State).dispatch else s
    | none => s)

/-- QUEUE_RESTART (R83): the status field reads 0 again, and the packet is read afresh. With `flag`, a status that could not be
written is written. -/
def execQueueRestart (s : State) : Result :=
  let writing := fun e : Instr × Arg => e.1 == .queueRestart && e.2.flag
  .next <|
    if s.arg.flag then s.putStatus s.arg.n
    else if s.queue.status = 0 || s.inflight.any writing || s.timers.any (fun t => writing t.2) then s
    else match s.fwBytes s.lead (s.dom.queueBase + 24) 1 with
      | .ok bs s =>
        if leVal bs != 0 then s
        else ({ s with queue := { s.queue with status := 0, cur := none, acked := false } } : State).postOnce .queuePoll {}
      | .busy => s.afterOnce 1000 .queueRestart {}
      | _ => s

/-- NOP_PACKET (R93). -/
def execNopPacket (s : State) : Result :=
  .next (if !s.packetReady then s
    else if bodyBad s.arg.bytes then s.halt s.arg.n (packetTag s.arg.bytes) 1 else s.started s.arg.n)

/-- Whether every write of the domain that has holders has been performed at tray and rack scope. -/
def State.noPushes (s : State) : Bool := s.dies.all fun x => x.2.pushes.isEmpty

/-- SIGNAL_PACKET (R90, R91): one tagged atomic at the signal's home, after the Broker's earlier writes at the scope of its
release. A home that answers with ERROR performs nothing. -/
def execSignalPacket (s : State) : Result :=
  let bs := s.arg.bytes
  let i := s.arg.n
  let va := field bs 8 8
  let stop := fun code : Nat => s.halt i (packetTag bs) code
  .next <|
    if !s.packetReady then s
    else if bodyBad bs then stop 1
    else if va % 8 != 0 then stop 4
    else if 3 ≤ bits (field bs 24 1) 4 2 && !s.noPushes then s.after 1 .signalPacket s.arg
    else
      match s.signalUpdate s.lead (BitVec.ofNat 64 va) (bits (field bs 24 1) 1 0) (BitVec.ofNat 64 (field bs 16 8))
        (some (BitVec.ofNat 64 (2 ^ 63 + i))) with
      | .ok _ s => s.started i
      | .fault _ _ => stop 4
      | .error _ _ _ => s.started i
      | .busy => s.after 1000 .signalPacket s.arg

/-- WAIT_PACKET (R92): the condition is watched from now on; the read index stays. -/
def execWaitPacket (s : State) : Result :=
  let bs := s.arg.bytes
  let i := s.arg.n
  let va := field bs 8 8
  let stop := fun code : Nat => s.halt i (packetTag bs) code
  .next <|
    if !s.packetReady then s
    else if bodyBad bs then stop 1
    else if va % 8 != 0 then stop 4
    else
      match s.fwTranslate s.lead va false with
      | .fault _ => stop 4
      | .busy => s.after 1000 .waitPacket s.arg
      | .ok _ =>
        let t := (s.timeAt s.lead).toNat
        let s : State := { s with queue := { s.queue with cur := none, acked := false, waiting := some (i, bs, t) } }
        let s := s.post .waitConditionTrue { n := i }
        if field bs 28 4 = 0 then s else s.after (1000 * field bs 28 4) .waitTimeout { n := i }

/-- WAIT_CONDITION_TRUE (R92): a read of the signal that finds the condition true completes the WAIT; else it is read again. -/
def execWaitConditionTrue (s : State) : Result :=
  .next <|
    match s.queue.waiting with
    | none => s
    | some (i, bs, _) =>
      if i != s.arg.n || packetKind bs != 3 then s
      else if s.frozen then s.afterOnce 1000 .waitConditionTrue s.arg
      else
        match s.fwBytes s.lead (BitVec.ofNat 64 (field bs 8 8)) 8 with
        | .ok v s =>
          if State.watchHolds (bits (field bs 24 1) 1 0) (BitVec.ofNat 64 (leVal v)) (BitVec.ofNat 64 (field bs 16 8)) then
            (({ s with queue := { s.queue with waiting := none } } : State).cancel .waitTimeout { n := i }).started i
          else s.afterOnce 1000 .waitConditionTrue s.arg
        | .fault _ _ => s.halt i (packetTag bs) 4
        | _ => s.afterOnce 1000 .waitConditionTrue s.arg

/-- WAIT_TIMEOUT (R92): the timeout has passed in domain time. -/
def execWaitTimeout (s : State) : Result :=
  .next <|
    match s.queue.waiting with
    | none => s
    | some (i, bs, t) =>
      if i != s.arg.n || packetKind bs != 3 then s
      else
        let due := t + 1000 * field bs 28 4
        let now := (s.timeAt s.lead).toNat
        if now < due then s.afterOnce (due - now) .waitTimeout s.arg
        else if s.frozen then s.afterOnce 1000 .waitTimeout s.arg
        else s.halt i (packetTag bs) 2

/-- FENCE_PACKET (R93): it starts; with `flag`, it completes when the grids before it have, and their operations are performed at
its scope. -/
def execFencePacket (s : State) : Result :=
  .next <|
    if s.arg.flag then
      match s.queue.waiting with
      | some (i, bs, _) =>
        if i != s.arg.n || packetKind bs != 4 then s
        else if s.queue.grids.isEmpty && (bits (field bs 8 1) 2 0 < 3 || s.noPushes) then
          ({ s with queue := { s.queue with waiting := none } } : State).postOnce .queuePoll {}
        else s.afterOnce 1000 .fencePacket s.arg
      | none => s
    else if !s.packetReady then s
    else if bodyBad s.arg.bytes then s.halt s.arg.n (packetTag s.arg.bytes) 1
    else
      let s := s.started s.arg.n
      ({ s with queue := { s.queue with waiting := some (s.arg.n, s.arg.bytes, 0) } } : State).post .fencePacket
        { n := s.arg.n, flag := true }

/-! The time-triggered table (R98, R99). -/

/-- Whether a table entry breaks the limits of R98. -/
def entryBad (e : List Byte) : Bool :=
  decide (field e 0 8 < 10000) || decide (2 ^ 40 ≤ field e 0 8) || decide (field e 0 8 ≤ field e 8 8) ||
    bits (field e 24 1) 1 0 == 3 || bits (field e 24 1) 6 2 != 0 || field e 25 3 != 0

/-- An entry as it is loaded at an instant: its first slot lies at least 10 µs later. -/
def entryOf (va : Nat) (e : List Byte) (now : Nat) : TtEntry :=
  let p := field e 0 8
  let o := field e 8 8
  { TtEntry.empty with
    va := BitVec.ofNat 64 va, period := p, offset := o, launch := BitVec.ofNat 64 (field e 16 8), rule := bits (field e 24 1) 1 0
    enable := bits (field e 24 1) 7 7 == 1, slot := (now + 10000 - o + (p - 1)) / p }

namespace State

def ttEntry (s : State) (e : Nat) : TtEntry := s.queue.tt.getD e TtEntry.empty
def updTt (s : State) (e : Nat) (f : TtEntry → TtEntry) : State :=
  { s with queue := { s.queue with tt := lset s.queue.tt e (f (s.ttEntry e)) } }

/-- The device writes an entry's counters (R98), later when the line is held. R98 does not say which rights the table's pages need: a
counter that cannot be written is dropped (log 133, a choice). -/
def putCounters (s : State) (e : Nat) : State :=
  let t := s.ttEntry e
  match s.fwPut s.lead (t.va + 28) (leBytes 2 (min t.skipped 65535) ++ leBytes 2 (min t.preempted 65535)) with
  | .ok _ s => s
  | .busy => s.afterOnce 1 .ttSlot { i := e, flag := true }
  | _ => s

/-- A slot is skipped, and counted (R99). -/
def skipSlot (s : State) (e : Nat) : State := (s.updTt e fun t => { t with skipped := t.skipped + 1 }).putCounters e

/-- The next slot of an entry comes about at its domain time. -/
def armSlot (s : State) (e : Nat) : State :=
  let t := s.ttEntry e
  if !t.enable then s
  else s.after (t.offset + t.slot * t.period - (s.timeAt s.lead).toNat) .ttSlot { i := e, n := t.slot }

/-- Load a table (R98): nothing of the table before it comes about any more, and what of it has been dispatched and has not started is
dropped (R99). -/
def loadTable (s : State) (va : Nat) (bs : List Byte) (n : Nat) : State :=
  let now := (s.timeAt s.lead).toNat
  let tt := (List.range n).map fun j => entryOf (va + 32 * j) ((bs.drop (32 * j)).take 32) now
  let old := fun e : Instr × Arg => e.1 == .ttSlot || (e.1 == .launchPacket && e.2.port = 0 && match e.2.src with
    | .table _ => true
    | _ => false)
  let s : State := { s with
    queue := { s.queue with tt := tt }, timers := s.timers.filter (fun t => !old t.2), inflight := s.inflight.filter fun e => !old e }
  (List.range n).foldl (fun s j => s.armSlot j) s

end State

/-- TABLE_PACKET (R98). -/
def execTablePacket (s : State) : Result :=
  let bs := s.arg.bytes
  let i := s.arg.n
  let va := field bs 8 8
  let n := field bs 16 2
  let stop := fun code : Nat => s.halt i (packetTag bs) code
  .next <|
    if !s.packetReady then s
    else if bodyBad bs then stop 1
    else if va % 32 != 0 then stop 4
    else
      match s.fwBytes s.lead (BitVec.ofNat 64 va) (32 * n) with
      | .ok t s =>
        if (List.range n).any fun j => entryBad ((t.drop (32 * j)).take 32) then stop 1
        else (s.loadTable va t n).started i
      | .busy => s.after 1000 .tablePacket s.arg
      | _ => stop 4

namespace State

/-- A slot whose packet cannot be used (R99). -/
def badSlot (s : State) (e : Nat) : State :=
  (s.log s.lead (routerEndpoint s.lead) 0x0031 0 (BitVec.ofNat 64 (256 * e + 1))).skipSlot e

/-- The LAUNCH packet that an entry names, as it stands now; none where it is malformed or cannot be read (R99). It is malformed by its kind,
version or reserved header bits, which no record of a launch could tell (log 130, a choice). -/
def slotPacket (s : State) (t : TtEntry) : Access :=
  if t.launch.toNat % 64 != 0 then .fault 0x0D t.launch.toNat
  else match s.fwBytes s.lead t.launch 64 with
    | .ok p s => if field p 0 1 != 0x11 || !headerClean p then .fault 0 t.launch.toNat else .ok p s
    | r => r

end State

/-- TT_SLOT (R99): at slot n of entry i its packet is read, and what happens then depends on the previous instance. With `flag`, counters that
could not be written are written. A VACATE of the rack's Broker carries a count of 0 and the priority of the previous instance, which
R132 and R153 leave open (log 150, a choice). -/
def execTtSlot (s : State) : Result :=
  let e := s.arg.i
  let t := s.ttEntry e
  .next <|
    if s.arg.flag then s.putCounters e
    else if !t.enable || t.slot != s.arg.n then s
    else
      let due := t.offset + t.slot * t.period
      let now := (s.timeAt s.lead).toNat
      if now < due then s.after (due - now) .ttSlot s.arg
      else
        let next := fun s : State => (s.updTt e fun t => { t with slot := t.slot + 1 }).armSlot e
        if s.frozen || 64 ≤ s.gridsInFlight then (next s).skipSlot e
        else match s.slotPacket t with
        | .busy => s.after 1 .ttSlot s.arg
        | .ok p s =>
          let s := next s
          match t.running with
          | none => s.post .launchPacket { src := .table e, bytes := p }
          | some h =>
            if t.rule = 0 then s.skipSlot e
            else if t.rule = 1 then
              if t.pending then s.skipSlot e else s.updTt e fun t => { t with pending := true, packet := p }
            else
              let s := (s.updTt e fun t => { t with preempted := t.preempted + 1 }).putCounters e
              let s := s.updLaunch h fun l => { l with preempts := l.preempts + 1 }
              let v := BitVec.ofNat 64 (1 + 2 ^ 8 * s.gridPrio h)
              let s := (s.children .rack).foldl (fun (s : State) k => s.tell .brokerVacate .rack k h 0 0 v) s
              s.post .launchPacket { src := .table e, bytes := p }
        | _ => (next s).badSlot e

/-! COMBINE-CONFIG (R95). -/

/-- An entry of the member array. -/
def memberGroup (v op lines : Nat) (locals : List Nat) : Group :=
  { valid := bits v 63 63 == 1, operator := op, lines := lines, local_ := bits v 62 62 == 1, children := BitVec.ofNat 46 v, root := bits v 61 61 == 1
    parent := bits v 59 54, members := locals }

/-- A port of a package leads to a package of the mesh. -/
def portLeads (p n : Nat) : Bool := decide (n < 46) && decide (farEnd p n < 512) && n != 46

/-- How many parents it is to the root, at most `fuel`. -/
def rootDepth (es : List Nat) : Nat → Nat → Option Nat
  | 0, _ => none
  | n + 1, p =>
    let v := es.getD p 0
    if bits v 63 63 = 0 then none
    else if bits v 61 61 = 1 then some 0
    else (rootDepth es n (farEnd p (bits v 59 54))).map (· + 1)

/-- The tree check (R95): reserved bits, members, one root, children whose parent ports lead back, one tree. -/
def treeOk (isMember : Nat → Bool) (es : List Nat) : Bool :=
  let ps := List.range 512
  let valid := fun p : Nat => bits (es.getD p 0) 63 63 == 1
  let vs := ps.filter valid
  (ps.all fun p => bits (es.getD p 0) 60 60 == 0 && bits (es.getD p 0) 53 46 == 0) &&
    (vs.isEmpty ||
      (vs.all isMember && (vs.filter fun p => bits (es.getD p 0) 61 61 == 1).length == 1 &&
        vs.all fun p =>
          let v := es.getD p 0
          let kids := (List.range 46).filter fun i => v.testBit i
          let up := bits v 59 54
          (kids.all fun i => valid (farEnd p i) && bits (es.getD (farEnd p i) 0) 61 61 == 0 &&
            bits (es.getD (farEnd p i) 0) 59 54 == portTo (farEnd p i) p) &&
            (bits v 61 61 == 1 || (portLeads p up && valid (farEnd p up) && (es.getD (farEnd p up) 0).testBit (portTo (farEnd p up) p) &&
              (rootDepth es 512 p).isSome))))

/-- COMBINE_CONFIG (R95); with `flag`, at a takeover (R102), only the routers whose entry differs load theirs. -/
def execCombineConfig (s : State) : Result :=
  let bs := s.arg.bytes
  let i := s.arg.n
  let va := field bs 16 8
  let stop := fun code : Nat => s.halt i (packetTag bs) code
  .next <|
    if !s.packetReady then s
    else if bodyBad bs then stop 1
    else if va % 8 != 0 then stop 4
    else
      match s.fwBytes s.lead (BitVec.ofNat 64 va) 4096 with
      | .busy => s.after 1000 .combineConfig s.arg
      | .ok t s =>
        let es := (List.range 512).map fun p => field t (8 * p) 8
        if !treeOk s.isMember es then stop 3
        else
          let g := bits (field bs 8 2) 9 0
          let valid := (List.range 512).filter fun p => bits (es.getD p 0) 63 63 == 1
          let locals := valid.filter fun p => bits (es.getD p 0) 62 62 == 1
          let entry : Nat → Option Group := fun p => if valid.isEmpty then none
            else some (memberGroup (if valid.contains p then es.getD p 0 else 0) (field bs 10 1) (field bs 11 1) locals)
          (s.members.foldl (fun (s : State) p =>
            if s.arg.flag && tget? (s.pkg p).groups g == entry p then s else s.loadGroup p g (entry p)) s).started i
      | _ => stop 4

/-! LAUNCH (R85-R88, R101, R408, R415). -/

/-- The verdict of R87 on a launch: it may start, it is rejected with a status, or a table line is held. -/
inductive Verdict where
  | accept (l : Launch)
  | reject (status : Nat)
  | busy
  deriving DecidableEq, Repr

namespace State

/-- Where a launch's front end runs: the lead, or the die's package for a child. -/
def launchPkg (s : State) (src : LaunchSrc) : Nat :=
  match src with
  | .child d => d.pkg
  | _ => s.lead

/-- Whether an address can be written: none when a table line is held. -/
def writable (s : State) (p : Nat) (va align : Nat) : Option Bool :=
  if va = 0 then some true
  else if va % align != 0 then some false
  else match s.fwTranslate p va true with
    | .ok _ => some true
    | .fault _ => some false
    | .busy => none

/-- The weights of a launch (R135): a child has only its own die (R101). -/
def launchWeights (s : State) (l : Launch) : Tab Nat (List Nat) :=
  match l.src with
  | .child d => [(d.pkg, (List.range 4).map fun e => if e = d.die then s.dieWeight d.pkg e l.rows l.cols false else 0)]
  | _ => s.weightsOf l.rows l.cols l.straddle

/-- The checks of R87 in order; `parent` says that a child's parent is privileged (R408). -/
def check (s : State) (src : LaunchSrc) (serial : DWord) (index : DWord) (p : List Byte) (parent : Bool) : Verdict :=
  let pk := s.launchPkg src
  let va := field p 8 8
  let child : Bool := match src with
    | .child _ => true
    | _ => false
  if child && (packetKind p != 1 || packetVersion p != 1 || !headerClean p) then .reject 4
  else
    match s.fwTranslate pk va false, s.fwBytes pk (BitVec.ofNat 64 va) 128 with
    | .busy, _ => .busy
    | _, .busy => .busy
    | .ok e, .ok d _ =>
      let priv := flagPriv e.flags
      if child && priv && !parent then .reject 5
      else
        match s.writable pk (field p 32 8) 8 with
        | none => .busy
        | some ok =>
          if launchBad p || descriptorBad d || !ok then .reject 4
          else if 256 < field d 10 2 then .reject 2
          else
            let l := launchOf src serial index (s.timeAt pk) p d (priv && (!child || parent))
            let l := { l with weights := s.launchWeights l }
            if 16 < l.warps * l.tiles || l.weight .rack = 0 then .reject 3 else .accept l
    | _, _ => .reject 5

/-- The lowest free handle of a launch (R131, R255). -/
def freeHandle (s : State) (src : LaunchSrc) : Option Nat :=
  let hs := match src with
    | .child d => (List.range 16).map fun c => 64 + 64 * d.pkg + 16 * d.die + c
    | _ => List.range 64
  hs.find? fun h => (s.launch? h).isNone

/-- The bytes of a launch entry (R256). -/
def launchEntry (l : Launch) (p d : List Byte) : List Byte :=
  d ++ p ++ leBytes 1 1 ++ zeros 7 ++ leBytes 8 l.start.toNat ++ leBytes 8 l.serial.toNat ++ leBytes 8 l.slotSize ++ zeros 8 ++
    leBytes 8 l.index.toNat ++ zeros 16

/-- Start a launch that has passed the checks (R87, R136, R139, R256). -/
def startLaunch (s : State) (h : Nat) (l : Launch) (p d : List Byte) : State :=
  let s := (s.setLaunch h l).regPut (s.entryPool h) (launchEntry l p d)
  let s := l.weights.foldl (fun (s : State) x => if sumList x.2 = 0 then s else s.pokePkg x.1) s
  match l.src with
  | .child e => s.dieRuns e h l [(0, l.gangs)]
  | src =>
    let s : State := match src with
      | .queue => { s with queue := { s.queue with grids := s.queue.grids ++ [h] } }
      | .table e => s.updTt e fun t => { t with running := some h }
      | .child _ => s
    if l.placement then
      let v := (s.die (feDie s.lead)).cur.version.setWidth 64
      (s.children .rack).foldl (fun (s : State) k => s.tell .brokerScan .rack k h 0 l.gangs v) s
    else s.passDown .rack (s.children .rack) h l (0, l.gangs)

/-- What follows a launch that has started or been rejected. -/
def launchDone (s : State) (src : LaunchSrc) (n : Nat) : State :=
  match src with
  | .queue => s.started n
  | _ => s

/-- A rejected launch writes its record and then its signal (R87, R415): `recorded` is the line of a record already written;
`port` 1 says that only the signal is due. -/
def reject (s : State) (p : List Byte) (status : Nat) (serial : DWord) : State :=
  let a := s.arg
  let pk := s.launchPkg a.src
  let l := launchOf a.src serial 0 (s.timeAt pk) p [] false
  let l := if field p 32 8 % 8 = 0 then l else { l with signal := 0 }
  let signal := fun (s : State) (r : Option (DieId × Nat)) =>
    match s.completeSignal l r with
    | some s => s.launchDone a.src a.n
    | none => s.after 1 .launchPacket { a with
        bytes := p, port := if r.isSome then 2 else 1, d := (r.getD default).1, i := (r.getD default).2, m := { a.m with data1 := serial } }
  match s.writeRecord l status with
  | none => s.after 1 .launchPacket { a with bytes := p, m := { a.m with data1 := serial } }
  | some (s, r) => signal s r

/-- A LAUNCH packet is taken up, its bytes and serial known. -/
def takeLaunch (s : State) (p : List Byte) (serial : DWord) : State :=
  let a := s.arg
  let pk := s.launchPkg a.src
  let later := s.after 1 .launchPacket { a with bytes := p, m := { a.m with data1 := serial } }
  if a.port != 0 then
    let l := launchOf a.src serial 0 0 p [] false
    let l := if field p 32 8 % 8 = 0 then l else { l with signal := 0 }
    match s.completeSignal l (if a.port = 2 then some (a.d, a.i) else none) with
    | some s => s.launchDone a.src a.n
    | none => s.after 1 .launchPacket a
  else
    let index : DWord := match a.src with
      | .queue => BitVec.ofNat 64 a.n
      | _ => BitVec.allOnes 64
    match s.writable pk (field p 40 8) 64, s.writable pk (field p 32 8) 8 with
    | none, _ => later
    | some false, _ =>
      match a.src with
      | .queue => s.halt a.n (packetTag p) 4
      | .table e => (s.log s.lead (routerEndpoint s.lead) 0x0031 (packetTag p) (BitVec.ofNat 64 (4 + 256 * e))).skipSlot e
      | .child _ => s
    | some true, sig =>
      let child : Bool := match a.src with
        | .child _ => true
        | _ => false
      if child && sig.isNone then later
      else if child && sig == some false then s
      else
        match s.check a.src serial index p a.flag with
        | .busy => later
        | .reject status => s.reject p status serial
        | .accept l =>
          match s.freeHandle a.src, s.fwBytes pk (BitVec.ofNat 64 (field p 8 8)) 128 with
          | some h, .ok d _ => (s.startLaunch h l p d).launchDone a.src a.n
          | _, _ => later

end State

/-- LAUNCH_PACKET (R87, R99, R101, R415). A serial is assigned here to a packet of the time-triggered table and to a child's; `m.data1` carries it
once it is assigned. With `flag`, a table's instance that was pending, which starts when fewer than 64 grids are in flight. -/
def execLaunchPacket (s : State) : Result :=
  let a := s.arg
  let begun := a.m.data1 != 0
  let fresh := fun (s : State) (p : List Byte) =>
    if begun then s.takeLaunch p a.m.data1 else ({ s with serial := s.serial + 1 } : State).takeLaunch p s.serial
  .next <|
    match a.src with
    | .queue => if s.packetReady then s.takeLaunch a.bytes s.queue.serial else s
    | .child d =>
      if (s.die d).lost then s
      else if s.frozen then s.after 1000 .launchPacket a
      else fresh s a.bytes
    | .table e =>
      if s.frozen then s.after 1000 .launchPacket a
      else if !begun && 64 ≤ s.gridsInFlight then (if a.flag then s.after 1000 .launchPacket a else s.skipSlot e)
      else fresh s a.bytes

/-- STANDBY_TAKEOVER (R102): what the lost lead had mirrored and not confirmed is evaluated again; what it had not mirrored is
read again. A COMBINE-CONFIG that it had mirrored loads only the entries that differ, whenever its turn comes. -/
def execStandbyTakeover (s : State) : Result :=
  let mine := fun (e : Instr) (a : Arg) => e == .mirrorAck || (a.src == .queue && [1, 2, 3, 4, 5, 6, 7].any fun k => packetStart k == some e && (!a.flag || k = 6))
  let s : State := { s with
    inflight := s.inflight.filter fun e => !mine e.1 e.2, timers := s.timers.filter fun t => !mine t.2.1 t.2.2 }
  let known := fun i : Nat => (List.range 64).any fun h =>
    let e := s.regBytes (s.entryPool h) 256
    (field e 192 1 == 1 || field e 192 1 == 2) && field e 232 8 == i
  .next ((match s.queue.cur with
    | none => s
    | some (i, bs) =>
      if !s.queue.acked then { s with queue := { s.queue with cur := none } }
      else if field bs 0 1 = 0x11 && known i then s.started i
      else ({ s with queue := { s.queue with again := true } } : State).dispatch).postOnce .queuePoll {})

end Sys2Proof.Machine
end

