-- ==== Sys2Proof/Machine/Enclave.lean ====
section
/-! DEFINITION. Signed objects and their checks (R108, R109), the configuration record (R110), and the enclave's identity,
measurements and attestation (R112, R113). -/

namespace Sys2Proof.Machine

/-! Signed objects (R108, R109). -/

/-- The bytes of a signed object before its body. -/
def objectHeader : Nat := 16720

def objectKind (bs : List Byte) : Nat := field bs 0 2
def objectVersion (bs : List Byte) : Nat := field bs 4 4
def objectSize (bs : List Byte) : Nat := objectHeader + field bs 8 8
def objectBody (bs : List Byte) : List Byte := (bs.drop objectHeader).take (field bs 8 8)

/-- The check that an object of a kind fails, 0 where it verifies: 1 the digest, 2 a signature, 3 the security version, 4 a header that is
not one of this kind (log 129). -/
def checkObject (kind minVersion : Nat) (bs : List Byte) : Nat :=
  let digest := (bs.drop 64).take 48
  if objectKind bs != kind || !Config.formatOk kind (field bs 2 2) || field bs 16 48 != 0 || bs.length < objectSize bs then 4
  else if digest != Config.sha384 (bs.take 64 ++ objectBody bs) then 1
  else if !Config.rsaOk digest ((bs.drop 112).take 384) || !Config.slhOk digest ((bs.drop 496).take 16224) then 2
  else if objectVersion bs < minVersion then 3 else 0

/-- Whether an object of a kind verifies (R109). -/
def objectOk (kind minVersion : Nat) (bs : List Byte) : Bool := checkObject kind minVersion bs == 0

/-- The configuration record that an object holds (R110). -/
def recordOf (bs : List Byte) : ConfigRecord :=
  let b := objectBody bs
  { version := objectVersion bs, serial := BitVec.ofNat 64 (field b 0 8)
    working := (List.range 4).map fun d => BitVec.ofNat 64 (field b (8 + 8 * d) 8)
    laneThreshold := BitVec.ofNat 64 (field b 40 8), minFw := field b 48 4, minKernel := field b 52 4, minCert := field b 56 4
    minRecord := field b 60 4, repair := (b.drop 1024).take 3072 }

/-- Whether a record may replace another (R110): it is newer, and lowers no minimum. -/
def ConfigRecord.follows (new old : ConfigRecord) : Bool :=
  decide (old.version < new.version) && decide (old.minFw ≤ new.minFw) && decide (old.minKernel ≤ new.minKernel) &&
    decide (old.minCert ≤ new.minCert) && decide (old.minRecord ≤ new.minRecord)

/-- The signed objects that stand one behind the other in bytes, at most `fuel`. -/
def objectsIn (bs : List Byte) : Nat → List (List Byte)
  | 0 => []
  | n + 1 => if bs.isEmpty then [] else bs.take (objectSize bs) :: objectsIn (bs.drop (objectSize bs)) n

namespace State

/-- An object of a package's flash: what replaced it, or what the flash was made with. -/
def flashObject (s : State) (p i : Nat) : List Byte := (tget? (s.pkg p).written i).getD (Config.flash p i)

/-- The check of R109 that a package's record fails; its own minimum for records holds of it. -/
def recordCheck (s : State) (p : Nat) : Nat :=
  let bs := s.flashObject p 2
  checkObject 2 (recordOf bs).minRecord bs

/-- A newer record, signed, replaces the one in flash (R110). -/
def offerRecord (s : State) (p : Nat) (bs : List Byte) : State :=
  let old := recordOf (s.flashObject p 2)
  if objectOk 2 old.minRecord bs && (recordOf bs).follows old then
    s.updPkg p fun k => { k with written := tset k.written 2 bs }
  else s

/-! The kernel's image (R109, R111, R127). -/

/-- The kernel image that a package would boot: of KIMAGE, or of flash; none where KIMAGE names no object in the package's memory. -/
def kernelImage (s : State) (p : Nat) : Option (List Byte) :=
  let k := s.pkg p
  let a := (pairVal k.kimageL k.kimageH).toNat
  if a = 0 then some (s.flashObject p 3)
  else
    let n := objectSize (s.bootBytes p a 16)
    if n ≤ objectHeader + Config.maxImage && a + n ≤ 2 ^ 37 then some (s.bootBytes p a n) else none

/-- The check of R109 that it fails. -/
def kernelCheck (s : State) (p : Nat) : Nat :=
  match s.kernelImage p with
  | some bs => checkObject 3 (s.pkg p).record.minKernel bs
  | none => 4

def kernelOk (s : State) (p : Nat) : Bool := s.kernelCheck p == 0

/-! The enclave (R111-R113). -/

/-- Measure bytes under an SPDM index. -/
def measure (s : State) (p i : Nat) (bs : List Byte) : State :=
  s.updPkg p fun k => { k with enclave := { k.enclave with measures := tset k.enclave.measures i (Config.sha384 bs) } }

/-- The device identity keys come from the package's physical unclonable function (R112): 1 RSA-3072, 2 SLH-DSA-SHA2-192s. -/
def deriveKeys (s : State) (p : Nat) : State :=
  s.updPkg p fun k => { k with enclave := { k.enclave with
    rsaKey := Config.hkdf (Config.puf p) 1, slhKey := Config.hkdf (Config.puf p) 2, transcript := [] } }

/-- The identity certificate chain in flash (R112); one with a certificate that does not verify is not used (R109). -/
def certChain (s : State) (p : Nat) : Option (List Byte) :=
  let bs := s.flashObject p 4
  let cs := objectsIn bs bs.length
  if !cs.isEmpty && cs.all (objectOk 4 (s.pkg p).record.minCert) then some bs else none

/-- A measurement block of an index (R113): DMTF's form, a SHA-384 digest. -/
def measureBlock (s : State) (p i : Nat) : List Byte :=
  let d := tget (s.pkg p).enclave.measures i []
  leBytes 1 i ++ leBytes 1 1 ++ leBytes 2 (d.length + 3) ++ leBytes 1 0 ++ leBytes 2 d.length ++ d

end State

/-- The header of an SPDM message of version 1.3 (log 131). -/
def spdmHead (code p1 p2 : Nat) : List Byte := leBytes 1 0x13 ++ leBytes 1 code ++ leBytes 1 p1 ++ leBytes 1 p2

def spdmError (e data : Nat) : List Byte := spdmHead 0x7F e data

namespace State

/-- The responder's answer to an SPDM request (R113), before it is added to the transcript. Of what R113 does not support, of another version or
slot, an ERROR tells. -/
def spdmAnswer (s : State) (p : Nat) (m : List Byte) : List Byte :=
  let k := (s.pkg p).enclave
  let code := field m 1 1
  let p1 := field m 2 1
  let p2 := field m 3 1
  let rest := Config.spdmBody code m
  let chain := s.certChain p
  let signed := fun body : List Byte => body ++ Config.rsaSign k.rsaKey (k.transcript ++ m ++ body)
  if code = 0x84 then (if field m 0 1 = 0x10 then [0x10, 0x04, 0, 0, 0, 1] ++ leBytes 2 0x1300 else spdmError 0x41 0)
  else if field m 0 1 != 0x13 then spdmError 0x41 0
  else match code with
    | 0xE1 => spdmHead 0x61 0 0 ++ rest
    | 0xE3 => spdmHead 0x63 0 0 ++ rest.take 8 ++ leBytes 4 (field m 8 4 &&& 8) ++ leBytes 4 (field m 12 4 &&& 2) ++ rest.drop 8
    | 0x81 => match chain with
      | some c => spdmHead 0x01 0 1 ++ Config.sha384 c
      | none => spdmHead 0x01 0 0
    | 0x82 => match chain with
      | some c =>
        let off := field m 4 2
        let part := (c.drop off).take (field m 6 2)
        if p1 % 16 != 0 || c.length ≤ off then spdmError 1 0
        else spdmHead 0x02 0 0 ++ leBytes 2 part.length ++ leBytes 2 (c.length - off - part.length) ++ part
      | none => spdmError 5 0
    | 0x83 => match chain with
      | some c => if p1 % 16 != 0 then spdmError 1 0 else signed (spdmHead 0x03 0 1 ++ Config.sha384 c ++ rest)
      | none => spdmError 5 0
    | 0xE0 =>
      if p2 != 0xFF && 5 < p2 then spdmError 1 0
      else
        let is := if p2 = 0xFF then [1, 2, 3, 4, 5] else if p2 = 0 then [] else [p2]
        let blocks := is.flatMap fun i => s.measureBlock p i
        let body := spdmHead 0x60 (if p2 = 0 then 5 else 0) 0 ++ leBytes 1 is.length ++ leBytes 3 blocks.length ++ blocks ++ rest
        let slh := Config.slhSign k.slhKey (k.transcript ++ m ++ body)
        signed (body ++ leBytes 2 slh.length ++ slh)
    | _ => spdmError 7 code

/-- A request is answered and joins the transcript with its answer; GET_VERSION begins one, and so does a signed answer, which its
signature covers (log 131). -/
def spdmRespond (s : State) (p : Nat) (m : List Byte) : List Byte × State :=
  let r := s.spdmAnswer p m
  let signed : Bool := field r 1 1 == 0x03 || field r 1 1 == 0x60
  (r, s.updPkg p fun k => { k with enclave := { k.enclave with
    transcript := if signed then [] else (if field m 1 1 = 0x84 then [] else k.enclave.transcript) ++ m ++ r } })

end State

end Sys2Proof.Machine
end

