-- ==== Sys2Proof/Machine/Firmware.lean ====
section
/-! DEFINITION. The firmware request ring (R114) and its requests (R115): configure-domain (R116), region commit (R70, R71), page
migration (R74), relays (R94), frozen masters (R123), the recorder (R119, R120), live update (R106, R107), thaw (R126). -/

namespace Sys2Proof.Machine

/-- The bytes of an event record (R120). -/
def recorderBytes (e : EventRec) : List Byte :=
  leBytes 4 e.seq ++ leBytes 4 (endpointVal e.source) ++ leBytes 8 e.time.toNat ++ leBytes 2 e.code ++ leBytes 1 e.severity ++
    leBytes 1 1 ++ leBytes 4 e.tag ++ leBytes 8 e.data.toNat

namespace State

/-! Accesses of a firmware: boot addresses while its package is no member of a configured domain, virtual ones then (R114, R117). -/

def fwGet (s : State) (p va n : Nat) : Access :=
  if s.isMember p then s.fwBytes p (BitVec.ofNat 64 va) n
  else if va + n ≤ 2 ^ 37 then .ok (s.bootBytes p va n) s else .fault 0x0C va

def fwSet (s : State) (p va : Nat) (bs : List Byte) : Access :=
  if s.isMember p then s.fwPut p (BitVec.ofNat 64 va) bs
  else if va + bs.length ≤ 2 ^ 37 then .ok [] (s.bootPuts p va bs) else .fault 0x0C va

/-- Add 1 to a request's signal (R114). -/
def fwSignal (s : State) (p va : Nat) : Access :=
  if s.isMember p then s.signalUpdate p (BitVec.ofNat 64 va) 1 1 none
  else match s.fwGet p va 8 with
    | .ok v s => s.fwSet p va (leBytes 8 (leVal v + 1))
    | r => r

/-- Whether a package's firmware runs. -/
def healthy (s : State) (p : Nat) : Bool :=
  decide (p < 512) && ((s.pkg p).bootState == 1 || (s.pkg p).bootState == 2) && !s.lost.contains p

/-- The ring that a package's firmware serves (R114): of the members of a domain only the lead's, at its virtual base. -/
def ringOf (s : State) (p : Nat) : Option (Nat × Nat) :=
  if !s.healthy p then none
  else if s.isMember p then if p = s.lead then some (s.dom.ringBase.toNat, s.dom.ringK) else none
  else some ((pairVal (s.pkg p).ringL (s.pkg p).ringH).toNat, (s.pkg p).ringK.toNat)

/-- The event by which the end of a request of a package goes on. -/
def endsReq (p : Nat) (e : Instr × Arg) : Bool := e.1 == .unknownFirmwareRequest && e.2.flag && e.2.p == p

/-- Whether a request of a package is being ended. -/
def ringEnding (s : State) (p : Nat) : Bool := s.inflight.any (endsReq p) || s.timers.any fun t => endsReq p t.2

/-- Whether a request of a package's ring is in service: one that is being ended, a region commit, a live update. -/
def ringBusy (s : State) (p : Nat) : Bool :=
  (s.commit.isSome && s.isMember p) || s.ringEnding p || (s.pkg p).updating.isSome

/-- At the end of a request the active complex mirrors its state table to the standby (R103). -/
def mirrorTable (s : State) (p n : Nat) : State := s.updPkg p fun k => { k with mirror := { k.mirror with served := n } }

/-- The next request of a ring: its index, its address, its record. -/
def nextRequest (s : State) (p : Nat) : Option (Nat × Nat × List Byte) :=
  match s.ringOf p with
  | none => none
  | some (base, k) =>
    if s.ringBusy p then none
    else
      match s.fwGet p (base + 8) 16 with
      | .ok c s =>
        let r := field c 8 8
        let a := base + 128 + 64 * (r % 2 ^ k)
        if field c 0 8 ≤ r then none
        else match s.fwGet p a 64 with
          | .ok bs _ => some (r, a, bs)
          | _ => none
      | _ => none

/-- End a request in three stages (R114): status and result, the signal, the read index. The signal is a release at rack scope: it waits for
the pushes of what was written before it (R205, R212). What meets a held line goes on later. -/
def finishReq (s : State) (p idx addr sig v stage : Nat) : State :=
  let later := fun (s : State) (k : Nat) =>
    s.after 1 .unknownFirmwareRequest { p := p, i := idx, n := v, q := { (default : Packet) with addr := addr, tag := sig }, flag := true, port := k }
  let index := fun s : State => match s.ringOf p with
    | none => s
    | some (base, _) => match s.fwSet p (base + 16) (leBytes 8 (idx + 1)) with
      | .ok _ s => s.mirrorTable p (idx + 1)
      | .busy => later s 2
      | _ => s
  let signal := fun s : State =>
    if sig = 0 then index s
    else if !s.noPushes then later s 1
    else match s.fwSignal p sig with
      | .ok _ s => index s
      | .busy => later s 1
      | _ => index s
  if (s.ringOf p).isNone then s
  else if stage = 2 then index s
  else if stage = 1 then signal s
  else match s.fwSet p (addr + 2) (leBytes 2 v) with
    | .ok _ s => signal s
    | .busy => later s 0
    | _ => signal s

/-- Status and result of a request (R114, R115); its code goes along (R104). -/
def endReq (s : State) (p : Nat) (r : Nat × Nat × List Byte) (status result : Nat) : State :=
  s.finishReq p r.1 r.2.1 (if field r.2.2 16 8 % 8 = 0 then field r.2.2 16 8 else 0) (status + 256 * (result % 256) + 2 ^ 16 * field r.2.2 1 1) 0

end State

/-- Whether a request record is well formed (R114). -/
def requestOk (rec_ : List Byte) : Bool := field rec_ 0 1 == 1 && field rec_ 24 40 == 0 && field rec_ 16 8 % 8 == 0

namespace State

/-- Serve the next request when it has this code; `n` bytes of its parameter block are read. -/
def serveCode (s : State) (code n : Nat) (f : State → Nat × Nat × List Byte → List Byte → State) : State :=
  let p := s.arg.p
  match s.nextRequest p with
  | none => s
  | some r =>
    if !requestOk r.2.2 || field r.2.2 1 1 != code then s
    else match s.fwGet p (field r.2.2 8 8) n with
      | .ok bs s => f s r bs
      | .busy => s
      | _ => s.endReq p r 3 0

/-- Done with result 0, or rejected with another. -/
def endWith (s : State) (p : Nat) (r : Nat × Nat × List Byte) (result : Nat) : State :=
  s.endReq p r (if result = 0 then 1 else 2) result

end State

/-! Region tables as bytes, and their checks (R58, R59, R69, R71). -/

def regionOf (e : List Byte) : Region :=
  { mode := field e 0 1 % 16, member := field e 1 1, pkg := bits (field e 2 2) 15 7, die := bits (field e 2 2) 6 5
    base := bits (field e 4 4) 28 0 * 2 ^ 21, size := bits (field e 8 8) 29 0 * 2 ^ 21, homeBase := bits (field e 16 8) 30 0 }

/-- An entry with a reserved mode, a nonzero reserved field, or a size out of its range. -/
def regionBad (e : List Byte) : Bool :=
  decide (4 < field e 0 1 % 16) || bits (field e 0 1) 7 4 != 0 || bits (field e 2 2) 4 0 != 0 || bits (field e 4 4) 31 29 != 0 ||
    bits (field e 8 8) 63 30 != 0 || bits (field e 16 8) 63 31 != 0 || bits (field e 16 8) 6 0 != 0 || field e 24 8 != 0 ||
    (field e 0 1 % 16 != 0 && (field e 8 8 == 0 || decide (2 ^ 29 < field e 8 8)))

/-- The tables that 48 KiB of bytes describe. -/
def tablesOf (version : BitVec 16) (regions members : List Byte) : Tables :=
  { version := version
    regions := (List.range 1024).map fun i => regionOf ((regions.drop (32 * i)).take 32)
    members := (List.range 256).map fun i =>
      let m := field members (64 * i) 64
      (List.range 512).filter fun p => m.testBit p }

/-- The places that a region's lines take: on each die the first byte and the length in every channel or slice (R60). A last group of lines
that is not full counts on all channels of the members; R60 and R71 do not say (log 145, DESIGN CHOICE). -/
def footprint (t : Tables) (r : Region) : List (DieId × Bool × Nat × Nat) :=
  let ms := memberSet t r
  let m := ms.length
  match r.mode with
  | 1 => ms.flatMap fun p => (List.range 4).map fun d =>
      (({ pkg := p, die := d } : DieId), false, r.homeBase, 128 * ((r.size / 128 + 256 * m - 1) / (256 * m)))
  | 2 => (List.range (min (r.size / 2 ^ 21) (4 * m))).map fun slot =>
      (({ pkg := ms.getD (slot % m) 0, die := slot / m } : DieId), false, r.homeBase,
        128 * 256 * ((r.size / 2 ^ 21 - slot + 4 * m - 1) / (4 * m)))
  | _ => [(({ pkg := r.pkg, die := r.die } : DieId), r.mode == 4, r.homeBase, 128 * ((r.size / 128 + 63) / 64))]

/-- Whether f holds of some two elements of a list. -/
def anyPair {α : Type} (f : α → α → Bool) : List α → Bool
  | [] => false
  | x :: xs => xs.any (f x) || anyPair f xs

def meets (a la b lb : Nat) : Bool := decide (a < b + lb) && decide (b < a + la)

/-- Whether every byte of a pool range has a home. -/
def rangeHomed (t : Tables) (a n : Nat) : Bool :=
  (List.range ((a + n - 1) / 2 ^ 21 - a / 2 ^ 21 + 1)).all fun i => (findRegion t ((a / 2 ^ 21 + i) * 2 ^ 21)).isSome

/-- The status of R71 for tables: 2, 3, 4 or 6, or 0 where they pass; `bad` says that an entry is malformed and `homed` that what must
stay homed is. -/
def tablesStatus (isMember : Nat → Bool) (carve : Nat) (t : Tables) (bad homed : Bool) : Nat :=
  let rs := t.regions.filter (·.mode != 0)
  let fp := rs.map fun r => footprint t r
  if anyPair (fun a b : Region => meets a.base a.size b.base b.size) rs then 2
  else if fp.any (fun l => l.any fun x => decide ((if x.2.1 then carve * 2 ^ 19 else 2 ^ 31) < x.2.2.1 + x.2.2.2)) ||
      anyPair (fun a b => a.any fun x => b.any fun y => x.1 == y.1 && x.2.1 == y.2.1 && meets x.2.2.1 x.2.2.2 y.2.2.1 y.2.2.2) fp then 3
  else if bad || (rs.any fun r => (r.mode == 1 || r.mode == 2) &&
      (let ms := memberSet t r; ms.isEmpty || !(ms.all isMember))) then 4
  else if homed then 0 else 6

/-- The bytes of the registry's header and launch table (R255). -/
def registryBytes : Nat := 4096 + 8404992

namespace State

/-- Whether a member's symmetric map, at its local pool address under the tables, and the chunks that it names have homes (R48, R116). -/
def chunksHomed (s : State) (t : Tables) (p map size : Nat) : Bool :=
  rangeHomed t map (8 * size) && (List.range size).all fun e =>
    let v := s.symEntryOf t map p e
    bits v 63 63 == 0 || (findRegion t (bits v 49 21 * 2 ^ 21)).isSome

/-! Configure-domain (R116). -/

/-- The members that a parameter block releases: those in its rectangle whose firmware is healthy (R23). A bit of the mask outside the rectangle
counts for nothing, not for 'the lowest-numbered package of the member release mask' (R115) either (log 147, DESIGN CHOICE). -/
def releasedBy (s : State) (b : List Byte) : List Nat :=
  let m := field b 64 64
  (List.range 512).filter fun p => m.testBit p && decide (p / 32 < field b 28 1) && decide (p % 32 < field b 29 1) && s.healthy p

/-- A field of the parameter block that is out of range, or a package that cannot be what it is named (R115 result 3). -/
def domainBad (s : State) (p : Nat) (b : List Byte) : Bool :=
  let rel := s.releasedBy b
  let pri := field b 32 2 / 128
  let sec := field b 34 2 / 128
  let hostOk := fun q : Nat => rel.contains q && (s.pkg q).host.imageOk
  field b 28 1 == 0 || decide (16 < field b 28 1) || field b 29 1 == 0 || decide (32 < field b 29 1) || decide (127 < field b 30 1) ||
    decide (8 < field b 31 1) || field b 32 2 % 128 != 0 || field b 34 2 % 128 != 0 || field b 36 4 == 0 || decide (1000 < field b 36 4) ||
    decide (field b 24 4 < 6) || decide (16 < field b 24 4) || field b 16 8 % 128 != 0 || field b 136 8 % 128 != 0 ||
    field b 8 8 % 2 ^ 16 != 0 || decide (2 ^ 37 < field b 8 8 + 49152) || field b 0 8 % 2 ^ 19 != 0 || field b 40 8 == 0 ||
    decide (32768 < field b 40 8) || field b 48 8 % 8 != 0 || field b 130 6 != 0 || field b 144 48 != 0 || !hostOk pri || !hostOk sec || rel.head? != some p

/-- Near-store contents are undefined after a package reset or a change of carve-out (R69): every byte holds a free value. -/
def wipeNear (s : State) (d : DieId) : State :=
  let a := physKey { pkg := d.pkg, die := d.die, near := true, chan := 0, loc := 0 }
  { s with mem := s.mem.wipe a (a + 64 * 2 ^ 31) s.free, free := s.free + 1 }

/-- Install the tables and the values of a parameter block; domain time is stepped once (R97), to the grandmaster's. From now on the resident
kernel runs on the primary host die, and the others hold none (R124, R129); on a new primary of a domain that is configured again none runs
until KBOOT starts it, which R124 does not say (log 149, DESIGN CHOICE). Each pair of Brokers numbers its messages from 0 (R133). No request of
the new ring is served yet (R104). -/
def configure (s : State) (b : List Byte) (t : Tables) (k : Nat) : State :=
  let rel := s.releasedBy b
  let ring : DWord := BitVec.ofNat 64 (field b 136 8)
  let pri := field b 32 2 / 128
  let sec := field b 34 2 / 128
  let (v, s) := s.freeValue
  let s := rel.foldl (fun (s : State) p =>
    let s := s.updPkg p fun x => { x with
      bootState := 2, host := { x.host with running := x.host.running && decide (p = pri) }, symCache := []
      mirror := { x.mirror with served := 0 }
      ringL := loWord ring, ringH := hiWord ring, time := v &&& 0x7FFFFFFFFFFFFFFF, timeFrac := 0, ppm := 0, gmLost := false }
    (List.range 4).foldl (fun (s : State) d => s.updDie { pkg := p, die := d } fun x => { x with cur := t, prev := none, pend := none }) s) s
  let s := if s.dom.carve = field b 31 1 then s else
    rel.foldl (fun (s : State) p => (List.range 4).foldl (fun (s : State) d => s.wipeNear { pkg := p, die := d }) s) s
  ({ s with
    dom := { configured := true, root := field b 0 8, queueBase := BitVec.ofNat 64 (field b 16 8), queueK := field b 24 4, nrow := field b 28 1
             ncol := field b 29 1, ptp := field b 30 1, carve := field b 31 1, primary := pri
             secondary := if sec = pri then none else some sec, timeout := field b 36 4, symSize := field b 40 8, symMap := field b 48 8
             registry := field b 56 8, release := rel, ringBase := ring, ringK := k }
    lost := s.lost.filter fun p => !rel.contains p, queue := Queue.reset, commit := none, frozen := false, brokers := []
    inflight := s.inflight.filter (fun e => kindOf e.1 == 0), timers := s.timers.filter fun t => kindOf t.2.1 == 0 } : State).postOnce .queuePoll {}

end State

/-- CONFIGURE_DOMAIN (R115, R116). -/
def execConfigureDomain (s : State) : Result :=
  let p := s.arg.p
  .next (s.serveCode 0x01 192 fun s r b =>
    let a := field b 8 8
    let regions := s.bootBytes p a 32768
    let t := tablesOf (BitVec.ofNat 16 (field b 128 2)) regions (s.bootBytes p (a + 32768) 16384)
    let rel := s.releasedBy b
    let bad := (List.range 1024).any fun i => regionBad ((regions.drop (32 * i)).take 32)
    let homed := rangeHomed t (field b 0 8) (2 ^ 19) && rangeHomed t (field b 56 8) registryBytes &&
      rel.all fun q => s.chunksHomed t q (field b 48 8) (min (field b 40 8) 32768)
    if !s.launches.isEmpty then s.endWith p r 1
    else if tablesStatus rel.contains (field b 31 1) t bad homed != 0 then s.endWith p r 2
    else if s.domainBad p b then s.endWith p r 3
    else
      let k := ((s.ringOf p).getD (0, 6)).2
      (s.endWith p r 0).configure b t k)

/-! Region commit (R70, R71). -/

namespace State

/-- Whether a region commit or a page migration is in progress (R71, R107). -/
def moving (s : State) : Bool :=
  s.commit.isSome || s.dies.any fun x => !x.2.waitq.isEmpty || x.2.migr.any fun m => m.phase != 3

/-- What must stay homed under new tables (R71 status 6): the page-table root, the symmetric chunks, the registry with the members'
heaps. -/
def staysHomed (s : State) (t : Tables) : Bool :=
  let h := s.registryWord 16 * 65536
  rangeHomed t s.dom.root (2 ^ 19) && rangeHomed t s.dom.registry registryBytes &&
    s.members.all fun p => s.chunksHomed t p s.dom.symMap s.dom.symSize &&
      (h == 0 || rangeHomed t (s.dom.registry + registryBytes + p * h) h)

/-- Every die of every member: those that a commit reaches. -/
def memberDies (s : State) : List DieId := s.members.flatMap fun p => (List.range 4).map fun d => { pkg := p, die := d }

/-- Whether a request is one of a host initiator (R122), which holds no tag of the model. -/
def hostRequest (q : Packet) : Bool := q.issuer.unit == 5 && q.opcode != 0 && decide (q.opcode < 0x80)

/-- Whether a flit carries such a request under a version. -/
def hostFlit (v : BitVec 16) (f : List Byte) : Bool :=
  let h := flitHdr f
  h.kind == 1 && h.version == v.toNat && (List.range h.slots).any fun k => hostRequest (slotOf h ((flitBody f).drop (56 * k)))

/-- Requests and scans that are outstanding under a version (R70, R140): a request counts while its tag is held, that is, until it is
answered or times out. -/
def outstanding (s : State) (v : BitVec 16) : Bool :=
  let act := fun e : Instr × Arg =>
    (hostRequest e.2.q && e.2.q.version == v) || (e.1 == .brokerScan && e.2.m.data1.setWidth 16 == v) ||
      (e.1 == .flitReceive && hostFlit v e.2.bytes)
  let scan := fun e : Instr × BrokerMsg => e.1 == .brokerScan && e.2.data1.setWidth 16 == v
  let sent := fun t : Nat × Tag => t.2.held && match t.2.use with
    | .broker i m => scan (i, m)
    | _ => false
  (s.cores.any fun c => c.2.tags.any fun t => t.2.held && t.2.req.version == v) || s.inflight.any act ||
    (s.brokers.any fun b => b.2.tags.any (fun t => sent t || (t.2.held && t.2.req.version == v)) || b.2.sendq.any scan || b.2.early.any fun e => scan (e.1, e.2.1)) ||
    (s.timers.any fun t => act t.2) ||
    s.pkgs.any fun k => k.2.ports.any fun x => x.2.queue.any (hostFlit v)

end State

/-- REGION_COMMIT (R70, R71): validate, distribute, order the switch; the request ends when the old table is retired. The parameter
block holds the addresses of the region table and of the member-set table, and the version. -/
def execRegionCommit (s : State) : Result :=
  let p := s.arg.p
  .next <| s.serveCode 0x02 24 fun s r b =>
    let cur := (s.die (State.feDie p)).cur
    match s.fwGet p (field b 0 8) 32768, s.fwGet p (field b 8 8) 16384 with
    | .ok regions _, .ok members _ =>
      let v := BitVec.ofNat 16 (field b 16 2)
      let t := tablesOf v regions members
      let bad := (List.range 1024).any fun i => regionBad ((regions.drop (32 * i)).take 32)
      let n := tablesStatus s.isMember s.dom.carve t bad (s.staysHomed t)
      if v != cur.version + 1 then s.endWith p r 1
      else if n != 0 && n != 6 then s.endWith p r n
      else if s.moving then s.endWith p r 5
      else if n = 6 || !s.isMember p then s.endWith p r 6
      else
        let s := s.memberDies.foldl (fun (s : State) d => s.updDie d fun k => { k with pend := some t }) s
        let s : State := { s with commit := some { pkg := p, idx := r.1, next := t } }
        s.memberDies.foldl (fun (s : State) d => s.post .regionSwitch { d := d }) s
    | .busy, _ => s
    | _, .busy => s
    | _, _ => s.endReq p r 3 0

/-- REGION_DRAIN_COMPLETE (R70): no die has a request outstanding under the old version; the old table goes, and the request ends. -/
def execRegionDrainComplete (s : State) : Result :=
  .next <|
    match s.commit with
    | none => s
    | some c =>
      if !s.allSwitched c.next then s
      else if s.outstanding (c.next.version - 1) then s.afterOnce 1000 .regionDrainComplete {}
      else
        let s := s.memberDies.foldl (fun (s : State) d => s.updDie d fun k => { k with prev := none }) s
        let s : State := { s with commit := none }
        match s.ringOf s.lead with
        | none => s
        | some (base, k) =>
          let a := base + 128 + 64 * (c.idx % 2 ^ k)
          match s.fwGet s.lead a 64 with
          | .ok rec_ s => s.endReq s.lead (c.idx, a, rec_) 1 0
          | .busy => ({ s with commit := some c } : State).afterOnce 1000 .regionDrainComplete {}
          | _ => s

/-- MIGRATE_PAGE (R74, R78): the descriptor is the parameter block; its checks answer in its status field. -/
def execMigratePage (s : State) : Result :=
  let p := s.arg.p
  .next <| s.serveCode 0x03 32 fun s r b =>
    let desc := field r.2.2 8 8
    let va := field b 0 8
    let leaf := field b 8 8
    let new := field b 16 8
    let size := bits (field b 24 4) 1 0
    let log := if size = 0 then 16 else 21
    let d := State.feDie p
    let t := (s.die d).cur
    let v := leVal (s.homeBytes d leaf 8)
    let old := bits v 49 8 * 256
    let single := fun pa : Nat => match findRegion t pa with
      | some g => g.mode != 1
      | none => false
    let s := s.endWith p r 0
    let note := fun (s : State) (n : Nat) =>
      if s.isMember p then s.noteStatus desc n
      else match s.fwSet p (desc + 28) (leBytes 1 n) with
        | .ok _ s => s
        | _ => s
    if 2 ≤ size || va % 2 ^ log != 0 || new % 2 ^ log != 0 || leaf % 8 != 0 then note s 4
    else if (s.homeAt d leaf).isNone || old % 2 ^ log != 0 || !single old || !single new then note s 5
    else if bits v 59 59 = 1 || s.commit.isSome then s.noteStatus desc 6
    else match s.homeAt d old with
      | none => s.noteStatus desc 5
      | some h =>
        let m : Migration := { va := va, leaf := leaf, oldPa := old, newPa := new, log := log, desc := desc, phase := 0, passes := 0, dirty := [] }
        ((s.noteStatus desc 0).updDie h.dieId fun k => { k with waitq := k.waitq ++ [m] }).postOnce .migrationStart { d := h.dieId }

/-- RELAY_SIGNAL (R94, R115): a watch of the interrupt form at the signal's home, evaluated once. The parameter block holds the signal's
address, the compare value, the condition, the host core and the vector. When the FE die holds 1,024 watches the request ends with status 2 and
result 0, which R94 does not say (log 146, DESIGN CHOICE). -/
def execRelaySignal (s : State) : Result :=
  let p := s.arg.p
  .next <| s.serveCode 0x04 24 fun s r b =>
    let va := field b 0 8
    match s.fwTranslate p va false with
    | .busy => s
    | .fault _ => s.endReq p r 3 0
    | .ok e =>
      match s.homeAt (State.feDie p) (e.phys va) with
      | none => s.endReq p r 3 0
      | some h =>
        if va % 8 != 0 || 3 < field b 16 1 || 31 < field b 17 1 then s.endReq p r 3 0
        else if 1024 ≤ (s.pkg h.pkg).watches.length then s.endReq p r 2 0
        else
          let w : Watch := { addr := e.phys va, kind := 1, cond := field b 16 1, value := BitVec.ofNat 64 (field b 8 8), host := field b 17 1
                             vector := field b 18 2 }
          let s := s.updPkg h.pkg fun k => { k with watches := k.watches ++ [w] }
          (s.fireWatches h.dieId (e.phys va) 8).endWith p r 0

/-! Frozen masters (R123). -/

namespace State

/-- The package whose boundary a frozen master's requests are held at, and what is held. -/
def frozenAt (s : State) (e : Endpoint) : Option (Nat × FrozenMaster) :=
  (s.pkgs.find? fun x => x.2.frozen.any (·.who == e)).bind fun x => (x.2.frozen.find? (·.who == e)).map fun y => (x.1, y)

/-- A master is frozen no more: a core issues again, a Porter goes on. -/
def unfreeze (s : State) (p : Nat) (e : Endpoint) : State :=
  let s := s.updPkg p fun k => { k with frozen := k.frozen.filter (·.who != e) }
  if 4 ≤ e.die || 1 < e.unit then s
  else s.updCore e.core fun k => if e.unit = 0 then { k with frozen := false } else { k with porterFrozen := false }

/-- A held request goes on past the boundary. -/
def letGo (s : State) (x : Instr × Arg) : State :=
  if x.1 == .flitReceive then s.routeFlit x.2.p x.2.bytes else s.post x.1 { x.2 with port := 1 }

/-- The blocks of a core are lost (R123). -/
def loseCore (s : State) (c : CoreId) : State :=
  (s.blocks.filter fun x => x.2.core == c && !x.2.slots.isEmpty).foldl (fun (s : State) x => s.loseBlock x.1) s

/-- The blocks that own commands of a core's Porter are lost (R123). -/
def losePorter (s : State) (c : CoreId) : State :=
  let owners := ((s.core c).porter.filterMap fun m => (s.warp? m.w).map (·.block)) ++
    (s.blocks.filter fun x => x.2.core == c && x.2.chans.any (·.doing.isSome)).map (·.1)
  owners.eraseDups.foldl (fun (s : State) b => s.loseBlock b) s

/-- A master is killed (R123): a port goes dark until firmware enables it again, the blocks of a core, or those that own a Porter's
commands, are lost, and a host initiator is reset, which the resident kernel is told. -/
def killMaster (s : State) (p : Nat) (e : Endpoint) : State :=
  match e.unit with
  | 0 => s.loseCore e.core
  | 1 => s.losePorter e.core
  | 5 => s.updPkg s.dom.primary fun k => { k with host := { k.host with told := k.host.told ++ [e] } }
  | _ => (s.darken p e.pos).darken (farEnd p e.pos) (portTo (farEnd p e.pos) p)

end State

/-- RELEASE_FROZEN_MASTER (R123): the held requests go on in their order. -/
def execReleaseFrozenMaster (s : State) : Result :=
  let p := s.arg.p
  .next <| s.serveCode 0x05 4 fun s r b =>
    let e := endpointOf (field b 0 4)
    match (s.frozenAt e).filter fun x => s.isMember p || x.1 == p with
    | none => s.endWith p r 1
    | some (q, m) =>
      let s := (s.unfreeze q e).log q (fwEndpoint q) 0x0042 (field r.2.2 4 4) (State.frozenData e m.violation)
      let s := if m.lines.isEmpty then s else s.updCore e.core fun k => { k with passes := k.passes ++ m.lines }
      let s := m.held.foldl (fun (s : State) x => s.letGo x) s
      s.endWith p r 0

/-- KILL_FROZEN_MASTER (R123, R126): the held requests are discarded, and the master is killed. While contexts are frozen every core
counts as frozen; a core's freeze is complete once no TAKE of it is outstanding (R320). -/
def execKillFrozenMaster (s : State) : Result :=
  let p := s.arg.p
  .next <| s.serveCode 0x06 4 fun s r b =>
    let e := endpointOf (field b 0 4)
    let note := fun (s : State) (q v : Nat) => s.log q (fwEndpoint q) 0x0043 (field r.2.2 4 4) (State.frozenData e v)
    if e.unit = 0 && e.die < 4 && s.warps.any (fun x => x.1.core == e.core && x.2.taking) then s
    else match (s.frozenAt e).filter fun x => s.isMember p || x.1 == p with
    | some (q, m) => ((note (s.unfreeze q e) q m.violation).killMaster q e).endWith p r 0
    | none =>
      if s.isMember e.pkg && e.unit = 0 && e.die < 4 && (s.frozen || (s.core e.core).frozen) then
        let s := note s e.pkg 0
        let s := s.updCore e.core fun k => { k with frozen := false }
        (s.loseCore e.core).endWith p r 0
      else s.endWith p r 1

/-- READ_EVENTS (R115, R119): the records from a sequence number on, at most a count of them, go to a buffer. The parameter block holds the
first number, the count and the buffer's address (log 96). A first number that is kept no more copies nothing, and the result is capped at
255 (log 134, a choice). -/
def execReadEvents (s : State) : Result :=
  let p := s.arg.p
  .next (s.serveCode 0x07 16 fun s r b =>
    let first := field b 0 4
    let ev := (s.pkg p).events.dropWhile fun e => e.seq != first
    let ev := ev.take (field b 4 4)
    match s.fwSet p (field b 8 8) (ev.flatMap recorderBytes) with
    | .ok _ s => s.endReq p r 1 (min ev.length 255)
    | .busy => s
    | _ => s.endReq p r 3 0)

/-! Live update (R106, R107). -/

/-- The bytes of a signed object at an address (R108): its header says how many. -/
def State.objectAt (s : State) (p a : Nat) : Access :=
  match s.fwGet p a 16 with
  | .ok h s => if Config.maxImage < field h 8 8 then .fault 0x0E a else s.fwGet p a (objectSize h)
  | r => r

/-- FIRMWARE_UPDATE (R106, R107): the standby complex loads, verifies and imports the active one's state table; it takes over at the next
quiescent boundary, and the request is in service until then. -/
def execFirmwareUpdate (s : State) : Result :=
  let p := s.arg.p
  .next (s.serveCode 0x08 8 fun s r b =>
    let k := s.pkg p
    if s.moving || s.frozen || k.updating.isSome then s.endWith p r 2
    else
      let failed := fun s : State => (s.log p (fwEndpoint p) 0x0051 (field r.2.2 4 4) (BitVec.ofNat 64 (bit01 (!k.activeB) 8 + 1))).endWith p r 1
      match s.objectAt p (field b 0 8) with
      | .busy => s
      | .ok bs s =>
        if !k.standbyOk || !objectOk 1 k.record.minFw bs || !Config.importOk bs k.mirror.format then failed s
        else
          let u : Update :=
            { version := objectVersion bs, digest := Config.sha384 bs, format := Config.tableFormat bs, idx := r.1, addr := r.2.1, request := r.2.2 }
          (s.updPkg p fun k => { k with updating := some u, standbyVersion := u.version, enclave := { k.enclave with
            measures := tset k.enclave.measures 4 u.digest } }).post .updateTakeover { p := p }
      | _ => failed s)

/-- UPDATE_TAKEOVER (R106 steps 4 and 5): at a boundary where no packet has been read ahead and no other request is in service the standby
becomes active; the other complex boots the new image and imports the state, and the request ends. -/
def execUpdateTakeover (s : State) : Result :=
  let p := s.arg.p
  let k := s.pkg p
  .next <|
    match k.updating with
    | none => s
    | some u =>
      if (s.isMember p && p == s.lead && (s.queue.cur.isSome || s.queue.waiting.isSome)) || s.ringEnding p then s.afterOnce 1000 .updateTakeover s.arg
      else
        let s := s.setPkg p { k with
          updating := none, activeB := !k.activeB, standbyOk := true, missed := 0, fwVersion := u.version, standbyVersion := u.version
          mirror := { k.mirror with format := u.format }
          enclave := { k.enclave with measures := tset (tset k.enclave.measures 3 u.digest) 4 u.digest } }
        let now := BitVec.ofNat 64 (bit01 (!k.activeB) 8)
        let tag := field u.request 4 4
        ((s.log p (fwEndpoint p) 0x0050 tag now).log p (fwEndpoint p) 0x0051 tag now).endReq p (u.idx, u.addr, u.request) 1 0

/-! Thaw (R126). -/

namespace State

/-- Whether the registry's entries match the frozen launches (R126, R256): state, serial, and the launch that each slot names. -/
def registryMatches (s : State) : Bool :=
  (s.launches.all fun x =>
    let e := s.regBytes (s.entryPool x.1) 256
    field e 192 1 == 1 && field e 208 8 == x.2.serial.toNat) &&
  s.blocks.all fun x => leVal (s.homeBytes x.2.core.dieId (s.slotPool x.2 + 8) 8) == x.1.grid

/-- Cores, Brokers and the queue go on together. -/
def thaw (s : State) : State :=
  let s : State := { s with frozen := false }
  (s.members.foldl (fun s p => s.pokePkg p) s).postOnce .queuePoll {}

end State

/-- THAW_CONTEXTS (R126): the parameter block holds the registry's base, a pool address. -/
def execThawContexts (s : State) : Result :=
  let p := s.arg.p
  .next <| s.serveCode 0x09 8 fun s r b =>
    if !s.frozen then s.endWith p r 0
    else if field b 0 8 != s.dom.registry || !s.registryMatches then s.endWith p r 1
    else (s.thaw.log p (fwEndpoint p) 0x0061 (field r.2.2 4 4) (BitVec.ofNat 64 (s.freezeCause + 2 ^ 8 * s.launches.length))).endWith p r 0

/-! Small requests (R115). -/

/-- A power cap that may be set (R21, R117). -/
def capOk (w : Nat) : Bool := decide (1600 ≤ w) && decide (w ≤ 2800) && w % 50 == 0

/-- SET_POWER_CAP (R21, R115). -/
def execSetPowerCap (s : State) : Result :=
  let p := s.arg.p
  .next (s.serveCode 0x0A 8 fun s r b =>
    let w := field b 0 8
    if capOk w then (s.updPkg p fun k => { k with powerCap := BitVec.ofNat 32 w }).endWith p r 0 else s.endWith p r 1)

/-- SET_SECONDARY_HOST_DIE (R115, R129): a secondary holds no running kernel. -/
def execSetSecondaryHostDie (s : State) : Result :=
  let p := s.arg.p
  .next <| s.serveCode 0x0C 8 fun s r b =>
    let q := bits (field b 0 8) 8 0
    if !s.isMember q || q = s.dom.primary || !(s.pkg q).host.imageOk then s.endWith p r 1
    else
      let s := s.updPkg q fun k => { k with host := { k.host with running := false } }
      ({ s with dom := { s.dom with secondary := some q } } : State).endWith p r 0

/-- SET_DETOUR_BIAS (R35, R115): on every member router; before the domain exists, on the package's own. -/
def execSetDetourBias (s : State) : Result :=
  let p := s.arg.p
  .next (s.serveCode 0x0D 8 fun s r b =>
    let v := field b 0 8
    if 1023 < v then s.endWith p r 1
    else
      let ps := if s.isMember p then s.members else [p]
      (ps.foldl (fun (s : State) q => s.updPkg q fun k => { k with bias := v }) s).endWith p r 0)

/-- SPDM_MESSAGE (R113): the responder answers; over PCIe DOE (flag) the answer goes out, through the ring it goes to a buffer. The
parameter block holds the request's address and length and the response's address. -/
def execSpdmMessage (s : State) : Result :=
  let p := s.arg.p
  .next <|
    if s.arg.flag then
      if !s.healthy p then s
      else
        let (a, s) := s.spdmRespond p s.arg.bytes
        { s with outbox := s.outbox ++ [(p, a)] }
    else s.serveCode 0x0B 24 fun s r b =>
      if Config.maxImage < field b 8 8 then s.endReq p r 3 0
      else
        match s.fwGet p (field b 0 8) (field b 8 8) with
        | .ok q s =>
          let (a, t) := s.spdmRespond p q
          match t.fwSet p (field b 16 8) a with
          | .ok _ s => s.endReq p r 1 0
          | .busy => s
          | _ => s.endReq p r 3 0
        | .busy => s
        | _ => s.endReq p r 3 0

/-- The request codes of R115. -/
def knownCode (c : Nat) : Bool := decide (1 ≤ c) && decide (c ≤ 13)

/-- UNKNOWN_FIRMWARE_REQUEST (R115): an unlisted code, or a malformed record, ends with status 3. With `flag`, the end of a request goes on
where a held line stopped it. -/
def execUnknownFirmwareRequest (s : State) : Result :=
  let a := s.arg
  .next <|
    if a.flag then s.finishReq a.p a.i a.q.addr a.q.tag a.n a.port
    else match s.nextRequest a.p with
      | none => s
      | some r => if requestOk r.2.2 && knownCode (field r.2.2 1 1) then s else s.endReq a.p r 3 0

end Sys2Proof.Machine
end

