-- ==== Sys2Proof/Machine/Failure.lean ====
section
/-! DEFINITION. Boot and reset (R111, R119), failures of dies, packages, firmware and the resident kernel (R102-R105, R124-R129, R162, R163,
R262), sensors and supplies (R20, R21), soft errors (R11), and domain time (R96, R97). -/

namespace Sys2Proof.Machine

namespace State

/-! The resident kernel (R126, R127). -/

/-- A kernel image failed (R127): at boot (5) or at a warm reboot (6), with the check of R109 that it failed. -/
def kernelBad (s : State) (p step : Nat) : State :=
  (s.updPkg p fun k => { k with host := { k.host with imageOk := false, running := false } }).log p (fwEndpoint p) 0x0082 0
    (BitVec.ofNat 64 (step + 2 ^ 8 * s.kernelCheck p))

/-- A verified kernel is measured and runs (R111, R113). -/
def kernelRuns (s : State) (p : Nat) : State :=
  (s.measure p 5 ((s.kernelImage p).getD [])).updPkg p fun k => { k with
    host := { k.host with imageOk := true, running := true, failed := false, since := s.now } }

/-- Every accelerator context is frozen (R124), and the kernel reboots once the freeze is complete; a further failure restarts the reboot
only (R125). -/
def freezeContexts (s : State) (cause : Nat) : State :=
  let p := s.dom.primary
  let s := s.updPkg p fun k => { k with host := { k.host with running := false, failed := true } }
  if s.frozen then s.postOnce .warmReboot { p := p }
  else ({ s with frozen := true, freezeCause := cause } : State).post .warmReboot { p := p, flag := true }

/-- The freeze is complete: event 0060h tells. Where the primary's package is lost (R129) it stands in that package's own recorder (log
148, a choice). -/
def freezeDone (s : State) (p : Nat) : State :=
  let s := s.log p (fwEndpoint p) 0x0060 0 (BitVec.ofNat 64 (s.freezeCause + 2 ^ 8 * s.launches.length))
  (if s.isMember p then s else s.toFlash p).postOnce .warmReboot { p := s.dom.primary }

/-! The loss of a die (R162, R262). -/

/-- Carry out an event at once. -/
def runNow (s : State) (f : State → Result) (a : Arg) : State :=
  match f { s with arg := a } with
  | .next t => { t with arg := s.arg }
  | _ => s

/-- What a lost die's Broker held of a grid, and the exits that it has not reported, count as lost (R162). -/
def loseShare (s : State) (k : BrokerId) (h : Nat) : State :=
  match s.launch? h with
  | none => s
  | some l =>
    let x := s.share k h
    let n := sumList (x.runs.map l.runBlocks)
    (s.updShare k h fun x => { x with
      runs := [], takers := [], exited := x.exited - x.dExited, lost := x.lost + x.dExited, dExited := 0, dLost := x.dLost + x.dExited }).count k h 0 n

/-- Whether a line of a saved block's image is homed on a die; R162 does not say what an image over several dies is, and one line is
enough here (log 135, a choice). -/
def imageOn (s : State) (b : Block) (bytes : Nat) (d : DieId) : Bool :=
  (List.range (bytes / 128)).any fun i => match s.homeAt b.core.dieId (s.slotPool b + 128 * i) with
    | some h => h.dieId == d
    | none => false

/-- A saved block is lost (R162). -/
def loseSaved (s : State) (b : BlockId) (k : Block) : State :=
  let g : GangRef := { grid := b.grid, gang := b.gang }
  let s := (s.markLost b).breakGang b
  let s := if (s.gangOf g).all fun x => x.2.state == 3 then
      s.updBroker (.pkg k.core.pkg) fun q => { q with restore := q.restore.filter (· != g) }
    else s
  ((s.count (dieBroker k.core.dieId) b.grid 0 1).noteCounts b.grid).offerGang g

/-- The halves of straddled gangs for which COMMIT is on its way to a die start there (R146): what is lost with the die is not unstarted. -/
def commitHalves (s : State) (d : DieId) : State :=
  let k := dieBroker d
  ((s.reservations k).filter fun r => r.straddled && (s.wholeOf r).isNone).foldl (fun s r =>
    (s.commitReservation k r (s.straddleOf d r)).getD (s.dropReservation k r.gang)) s

/-- A shader die stops for good, until package reset. -/
def stopDie (s : State) (d : DieId) : State :=
  if (s.die d).lost then s
  else
    let k := dieBroker d
    let s := s.commitHalves d
    let s := s.updDie d fun x => { x with
      lost := true, visitors := [], holders := [], pushes := [], acks := [], pins := [], walks := [], migr := [], waitq := [], attached := [] }
    let s := (s.openReservations d).foldl (fun s x => s.cancelReservation d x.2) s
    let here := s.blocks.filter fun x => x.2.core.dieId == d && !x.2.slots.isEmpty
    let s := here.foldl (fun (s : State) x => s.markLost x.1) s
    let s := here.foldl (fun s x => s.runNow execBlockRetire { b := x.1, flag := true }) s
    let saved := s.blocks.filter fun x => (x.2.state == 1 || x.2.state == 2) && match s.launch? x.1.grid with
      | some l => s.imageOn x.2 l.slotSize d
      | none => false
    let s := saved.foldl (fun s x => s.loseSaved x.1 x.2) s
    let s := ((s.broker k).shares.map (·.1)).foldl (fun s h => s.loseShare k h) s
    let s : State := { s with
      cores := s.cores.filter fun x => x.1.dieId != d
      dies := s.dies.map fun (x : DieId × Die) => (x.1, { x.2 with pins := x.2.pins.filter fun y => y.2.dieId != d }) }
    let s := s.warps.foldl (fun (s : State) x => s.fireSlots x.1 fun e => e.kind == 3 && match s.homeAt x.1.core.dieId e.pa with
      | some h => h.dieId == d
      | none => false) s
    let s := s.pokePkg d.pkg
    match s.commit with
    | some c => if s.allSwitched c.next then s.postOnce .regionDrainComplete {} else s
    | none => s

/-- A shader die takes a fatal error. -/
def loseDie (s : State) (d : DieId) : State :=
  if (s.die d).lost then s
  else (s.log d.pkg { pkg := d.pkg, die := d.die, pos := 0, unit := 3 } 0x0080 0 (BitVec.ofNat 64 d.die)).stopDie d

/-! The loss of a package (R102, R105, R128, R129, R163). -/

/-- The package of the kernel is gone: contexts freeze, and the secondary becomes primary (R129). -/
def failOver (s : State) : State :=
  let s := s.freezeContexts 4
  match s.dom.secondary with
  | some q =>
    if s.isMember q then ({ s with dom := { s.dom with primary := q, secondary := none } } : State).postOnce .warmReboot { p := q }
    else { s with dom := { s.dom with secondary := none } }
  | none => s

/-- Whether a Broker runs in a package. -/
def runsIn (p : Nat) (k : BrokerId) : Bool := pkgOf k == some p

/-- The messages of a package's Brokers to others that no one has acknowledged. -/
def unheard (s : State) (p : Nat) : List (Instr × BrokerMsg) :=
  let sent : Nat × Tag → Option (Instr × BrokerMsg) := fun t =>
    match t.2.use with
    | .broker i m => if t.2.held then some (i, m) else none
    | _ => none
  ((s.brokers.filter fun x => runsIn p x.1).flatMap fun x => x.2.tags.filterMap sent ++ x.2.sendq).filter fun x => !runsIn p x.2.dst

/-- The searches of others that a package's Brokers were to answer, as the STEALs that asked for them: those that wait there, and those
that they relay. -/
def unanswered (s : State) (p : Nat) : List BrokerMsg :=
  let waits : Instr × BrokerMsg × Packet → Option BrokerMsg := fun e =>
    if e.1 == .brokerSteal && e.2.2.opcode != 6 && runsIn p e.2.1.dst && !runsIn p e.2.1.src then some e.2.1 else none
  let relays := (s.brokers.filter fun x => runsIn p x.1).flatMap fun x => x.2.hunts.filterMap fun h =>
    match h.asker with
    | some a => if runsIn p a then none
        else some { src := a, dst := x.1, grid := h.grid, first := 0, count := 0, data1 := 0, seq := 0 }
    | none => none
  (s.inflight.filterMap fun e => waits (e.1, e.2.m, e.2.q)) ++ ((s.brokers.filter fun x => runsIn p x.1).flatMap fun x =>
    x.2.early.filterMap waits) ++ relays

/-- The Brokers of a package that has left the domain hold nothing more. What they had sent is still heard, the searches of others
that ended there find nothing, and their tray's Broker accounts for what was left (R163). -/
def dropBrokers (s : State) (p : Nat) : State :=
  let outs := s.unheard p
  let asks := s.unanswered p
  let inward : Instr × Arg → Bool := fun e => kindOf e.1 != 0 && runsIn p e.2.m.dst
  let s : State := { s with
    inflight := s.inflight.filter fun e => !inward e
    timers := s.timers.filter fun t => !inward t.2
    brokers := s.brokers.map fun (x : BrokerId × Broker) =>
      if runsIn p x.1 then (x.1, { x.2 with shares := [], early := [], tags := [], sendq := [], reservations := [], hunts := [], restore := [] })
      else x }
  let s := asks.foldl (fun s m => s.refuseSteal m) s
  let s := outs.foldl (fun (s : State) x => s.passMsg x.1 x.2) s
  s.postOnce .packageLoss { p := p, flag := true }

/-- Whether something that the Brokers of a package had sent is still to be heard. -/
def stillHeard (s : State) (p : Nat) : Bool :=
  let from_ := fun (i : Instr) (m : BrokerMsg) => kindOf i != 0 && runsIn p m.src && !runsIn p m.dst
  (s.inflight.any fun e => from_ e.1 e.2.m) || s.brokers.any fun x => x.2.early.any fun e => from_ e.1 e.2.1

/-- The blocks of gangs that a package held when it left the domain are lost: those that it was given, but for those that it passed on or
reported (R163). -/
def accountFor (s : State) (p : Nat) : State :=
  let t := BrokerId.tray (trayOf p)
  (s.broker t).shares.foldl (fun (s : State) x =>
    let n := tget x.2.given p 0 - tget x.2.gone p 0
    if n = 0 then s else (s.relieve x.1 p n).count t x.1 0 n) s

/-- A package leaves the domain: its dies stop, with a fatal error each or without, and what it holds of gangs is lost. -/
def losePackage (s : State) (p : Nat) (fatal : Bool) : State :=
  if !s.isMember p then s
  else
    let lead := s.lead = p
    let s := (List.range 4).foldl (fun (s : State) d =>
      let d : DieId := { pkg := p, die := d }
      if fatal then s.loseDie d else s.stopDie d) s
    let saved := s.blocks.filter fun x => (x.2.state == 1 || x.2.state == 2) && x.2.core.pkg == p
    let s := saved.foldl (fun s x => s.loseSaved x.1 x.2) s
    let s := ({ s with lost := p :: s.lost } : State).dropBrokers p
    let s := s.members.foldl (fun (s : State) m =>
      if Sys2Proof.Machine.rowOf m = Sys2Proof.Machine.rowOf p || colOf m = colOf p then s.darken m (portTo m p) else s) s
    let s := if s.dom.secondary = some p then { s with dom := { s.dom with secondary := none } } else s
    let s := if s.dom.primary = p then s.failOver else s
    let s := if lead then s.post .standbyTakeover {} else s
    match s.commit with
    | some c => if s.allSwitched c.next then s.postOnce .regionDrainComplete {} else s
    | none => s

/-- Every shader die of a package takes a fatal error (R20, R21). -/
def loseDies (s : State) (p : Nat) : State := (List.range 4).foldl (fun (s : State) d => s.loseDie { pkg := p, die := d }) s

/-! Boot and reset (R111, R119). -/

/-- The line numbers of a package's memory. -/
def linesOf (p : Nat) : Nat × Nat :=
  let first := fun p : Nat => lineOf (physKey { pkg := p, die := 0, near := false, chan := 0, loc := 0 })
  (first p, first (p + 1))

/-- A package is reset: its flash, KIMAGE and its HBM stay, and no line is poisoned any more (R427); across a warm reset the recorder, its
numbers, the homes' update tags, lost dies and poison stay as well (R91, R119, R262). -/
def resetPackage (s : State) (p : Nat) (warm : Bool) : State :=
  let was := (List.range 4).map fun d => s.die { pkg := p, die := d }
  let s := s.losePackage p false
  let k := s.pkg p
  let s := s.setPkg p { Package.reset with
    record := k.record, flash := k.flash, written := k.written, kimageL := k.kimageL, kimageH := k.kimageH
    events := if warm then k.events else [], evNext := if warm then k.evNext else 0, time := k.time }
  let s := (List.range 4).foldl (fun (s : State) d =>
    let o := was.getD d Die.reset
    let s := s.setDie { pkg := p, die := d } { Die.reset with tagged := if warm then o.tagged else [], lost := warm && o.lost }
    if warm then s else s.wipeNear { pkg := p, die := d }) s
  let (lo, hi) := linesOf p
  { s with
    poisoned := if warm then s.poisoned else s.poisoned.filter fun n => decide (n < lo) || decide (hi ≤ n)
    cores := s.cores.filter (·.1.pkg != p), lost := s.lost.filter (· != p), dom := { s.dom with release := s.dom.release.filter (· != p) } }

/-- The check that a firmware image in flash fails (R109): complex A's (0) or B's (1). -/
def imageCheck (s : State) (p i : Nat) : Nat := checkObject 1 (s.pkg p).record.minFw (s.flashObject p i)

/-- Boot stops at a step of R111: no shader die is released (R8). -/
def bootFails (s : State) (p step check : Nat) : State :=
  (s.updPkg p fun k => { k with bootState := 3, bootFail := step }).log p (fwEndpoint p) 0x0081 0 (BitVec.ofNat 64 check)

/-- The state of the firmware complexes once an image has been verified: A is active where its image verifies. -/
def startComplexes (s : State) (p : Nat) : State :=
  let b := s.imageCheck p 0 != 0
  let active := s.flashObject p (if b then 1 else 0)
  let other := s.flashObject p (if b then 0 else 1)
  let s := s.updPkg p fun k => { k with
    bootState := 1, activeB := b, standbyOk := !b && s.imageCheck p 1 == 0, fwVersion := objectVersion active
    standbyVersion := objectVersion other, mirror := { k.mirror with format := Config.tableFormat active }, guarded := Config.firmwareMemory p }
  (((s.measure p 1 Config.rom).measure p 2 (s.flashObject p 2)).measure p 3 active).measure p 4 other

/-- The steps of R111. -/
def boot (s : State) (p : Nat) : State :=
  let s := s.deriveKeys p
  let check := s.recordCheck p
  if check != 0 then s.bootFails p 1 check
  else
    let s := s.updPkg p fun k => { k with record := recordOf (s.flashObject p 2) }
    if s.imageCheck p 0 != 0 && s.imageCheck p 1 != 0 then s.bootFails p 2 (s.imageCheck p 0)
    else
      let s := s.startComplexes p
      let s := (List.range 4).foldl (fun (s : State) d => s.updDie { pkg := p, die := d } fun x => { x with
        released := true, working := (s.pkg p).record.working.getD d allPositions }) s
      if s.kernelOk p then s.kernelRuns p
      else (s.updPkg p fun k => { k with bootFail := 5 }).kernelBad p 5

end State

/-- PACKAGE_BOOT (R111); a newer record that is there (`bytes`) takes the place of the one in flash before (R110). -/
def execPackageBoot (s : State) : Result :=
  let p := s.arg.p
  .next (if 512 ≤ p then s else ((s.resetPackage p false).offerRecord p s.arg.bytes).boot p)

/-- WARM_RESET (R91, R119). -/
def execWarmReset (s : State) : Result :=
  let p := s.arg.p
  .next (if 512 ≤ p then s else (s.resetPackage p true).boot p)

/-- FATAL_DIE_ERROR (R162, R262). -/
def execFatalDieError (s : State) : Result :=
  let d := s.arg.d
  .next (if 512 ≤ d.pkg || 4 ≤ d.die || (s.die d).lost then s else (s.loseDie d).toFlash d.pkg)

/-- PACKAGE_LOSS (R105, R163). With `flag`, what a lost package held is accounted for once all that its Brokers had sent is heard. -/
def execPackageLoss (s : State) : Result :=
  let p := s.arg.p
  .next <|
    if s.arg.flag then
      if s.stillHeard p then s.afterOnce 1 .packageLoss s.arg
      else if s.isMember p then s
      else s.accountFor p
    else if s.isMember p then (s.losePackage p true).toFlash p
    else s

/-- EMERGENCY_SHUTDOWN (R20): at 105 °C every shader die of the package is lost; `i` is the temperature. -/
def execEmergencyShutdown (s : State) : Result :=
  let p := s.arg.p
  .next <|
    if 512 ≤ p then s
    else ((s.log p (fwEndpoint p) 0x0091 0 (BitVec.ofNat 64 (s.arg.d.die + 2 ^ 8 * s.arg.i))).loseDies p).toFlash p

/-- THERMAL_THROTTLE_STEP (R20): down (flag) or up by 50 MHz between 500 and 1,000 MHz; `i` is the temperature. -/
def execThermalThrottleStep (s : State) : Result :=
  let d := s.arg.d
  .next <|
    if 512 ≤ d.pkg || 4 ≤ d.die then s
    else
      let clk := (s.die d).clk
      let new := if s.arg.flag then max 500 (clk - 50) else min 1000 (clk + 50)
      if new = clk then s
      else (s.updDie d fun k => { k with clk := new }).log d.pkg { pkg := d.pkg, die := d.die, pos := 0, unit := 3 } 0x0090 0
        (BitVec.ofNat 64 (d.die + 2 ^ 8 * s.arg.i))

/-- VIN_LOSS (R21, R119, R129): only what VAUX feeds stays powered; the package is lost to its domain. -/
def execVinLoss (s : State) : Result :=
  let p := s.arg.p
  .next <|
    if 512 ≤ p || !(s.pkg p).vin then s
    else
      let s := ((s.losePackage p true).loseDies p).toFlash p
      s.updPkg p fun k => { k with vin := false, bootState := 0, host := { k.host with running := false } }

/-- The standby complex becomes active and resumes from the mirrored state (R103, R104): a request that was in service is served again from its
start, but a region commit and a migration go on. Of the state table R103 and R106 give no contents; what a takeover can show of it is how
far the ring has been served, and the table's format (log 154). -/
def State.takeOver (s : State) (p : Nat) : State :=
  let k := s.pkg p
  let again : Instr × Arg → Bool := fun e => State.endsReq p e && decide (k.mirror.served ≤ e.2.i) && e.2.n / 2 ^ 16 != 2 && e.2.n / 2 ^ 16 != 3
  let m := k.enclave.measures
  let k := { k with
    activeB := !k.activeB, standbyOk := false, missed := 0, updating := none, fwVersion := k.standbyVersion, standbyVersion := k.fwVersion
    mirror := { k.mirror with format := (k.updating.map (·.format)).getD k.mirror.format }
    enclave := { k.enclave with measures := tset (tset m 3 (tget m 4 [])) 4 (tget m 3 []) } }
  let s : State := { s with inflight := s.inflight.filter fun e => !again e, timers := s.timers.filter fun t => !again t.2 }
  (s.setPkg p k).log p (fwEndpoint p) 0x0050 0 (BitVec.ofNat 64 (bit01 k.activeB 8))

/-- HEARTBEAT_MISS (R104, R105): a heartbeat that is due comes (flag) or is missed. After three in a row that are missed the standby complex
becomes active; without a healthy one the package is lost. -/
def execHeartbeatMiss (s : State) : Result :=
  let p := s.arg.p
  let k := s.pkg p
  .next <|
    if !s.healthy p then s
    else if s.arg.flag then s.setPkg p { k with missed := 0 }
    else if k.missed < 2 then s.setPkg p { k with missed := k.missed + 1 }
    else if k.standbyOk then s.takeOver p
    else
      let s := if s.isMember p then (s.losePackage p true).toFlash p else s
      s.updPkg p fun k => { k with bootState := 3 }

/-! The resident kernel's failures (R124). -/

/-- Whether the resident kernel runs at a package of the domain: on the primary host die, or on one that it has enrolled (the event's flag says
so); the secondary holds none (R129). -/
def State.hosting (s : State) (p : Nat) : Bool :=
  let h := (s.pkg p).host
  s.isMember p && (h.running || (s.arg.flag && h.imageOk && s.dom.secondary != some p))

/-- HOST_WATCHDOG_EXPIRE (R124): the period, `n` nanoseconds, is 1 ms to 10 s. -/
def execHostWatchdogExpire (s : State) : Result :=
  let n := s.arg.n
  .next (if s.hosting s.arg.p && 1000000 ≤ n && n ≤ 10000000000 && (s.pkg s.arg.p).host.since + n ≤ s.now then s.freezeContexts 1 else s)

/-- HOST_MACHINE_CHECK (R124). -/
def execHostMachineCheck (s : State) : Result := .next (if s.hosting s.arg.p then s.freezeContexts 2 else s)

/-- KERNEL_PANIC_REPORT (R124). -/
def execKernelPanicReport (s : State) : Result := .next (if s.hosting s.arg.p then s.freezeContexts 3 else s)

/-- WARM_REBOOT (R126, R127): the primary's kernel is verified and runs again, or its cores stay in reset. A freeze that a TAKE is out under
waits until its result is written (R320); with `flag`, it is complete then, and the reboot follows. -/
def execWarmReboot (s : State) : Result :=
  let p := s.arg.p
  .next <|
    if s.frozen && s.warps.any (fun x => x.2.taking) then s.afterOnce 1 .warmReboot s.arg
    else if s.arg.flag then (if s.frozen then s.freezeDone p else s)
    else if !s.isMember p || p != s.dom.primary || !s.frozen then s
    else if s.kernelOk p then s.kernelRuns p
    else s.kernelBad p 6

/-! Soft errors (R11, R427). -/

/-- SOFT_ERROR (R11): an error in the line of a pool address is corrected, or (flag) leaves the line poisoned. -/
def execSoftError (s : State) : Result :=
  let d := s.arg.d
  let pa := s.arg.i
  .next <|
    match s.homeAt d pa with
    | none => s
    | some h =>
      let s := s.log h.pkg (homeEndpoint h) (if s.arg.flag then 2 else 1) 0 (BitVec.ofNat 64 pa)
      if s.arg.flag && !s.isPoisoned h then { s with poisoned := lineOf (physKey h) :: s.poisoned } else s

/-! Domain time (R96, R97). -/

/-- Slew a package's count: its frequency is adjusted within ±500 ppm, and it never jumps. -/
def State.slew (s : State) (p : Nat) (ppm : Int) : State :=
  if decide (-500 ≤ ppm) && decide (ppm ≤ 500) && s.isMember p then s.updPkg p fun k => { k with ppm := ppm } else s

/-- DOMAIN_TIME_SYNC (R96): the lead and the standby package follow the grandmaster, the others the lead; while the lead's grandmaster is
lost they keep their last correction (R97). -/
def execDomainTimeSync (s : State) : Result :=
  let p := s.arg.p
  .next (if s.follows p && (s.pkg s.lead).gmLost then s else (s.slew p s.arg.ppm).updPkg p fun k => { k with gmLost := false })

/-- GRANDMASTER_LOST (R97): the count runs on with its last correction. -/
def execGrandmasterLost (s : State) : Result :=
  let p := s.arg.p
  .next <|
    if !s.isMember p || (s.pkg p).gmLost then s
    else
      let (v, s) := s.freeValue
      (s.updPkg p fun k => { k with gmLost := true }).log p (fwEndpoint p) 0x0070 0 v

/-- PPS_IN_PULSE (R19, R96): a phase reference for the servo, which rests while the grandmaster of the package, or of the lead that it
follows, is lost (R97). -/
def execPpsInPulse (s : State) : Result :=
  let p := s.arg.p
  .next (if (s.pkg p).gmLost || (s.follows p && (s.pkg s.lead).gmLost) then s else s.slew p s.arg.ppm)

end Sys2Proof.Machine
end

