-- ==== Sys2Proof/Machine/Mgmt.lean ====
section
/-! DEFINITION. The management register file (R117), its messages (R118), the BAR1 window, and KBOOT (R127). -/

namespace Sys2Proof.Machine

namespace State

/-- A management register as it reads; none for a number that the table does not list (R117). -/
def mgmtReg (s : State) (p n : Nat) : Option Word :=
  let k := s.pkg p
  match n with
  | 0x00 => some (BitVec.ofNat 32 (k.bootState + 2 ^ 8 * k.bootFail))
  | 0x01 => some (loWord k.record.serial)
  | 0x02 => some (hiWord k.record.serial)
  | 0x04 => some k.ringL
  | 0x05 => some k.ringH
  | 0x06 => some k.ringK
  | 0x08 => some k.powerCap
  | 0x0C => some (BitVec.ofNat 32 k.evNext)
  | 0x0D => some k.evSel
  | 0x18 => some (BitVec.ofNat 32 (bit01 k.activeB 0 + bit01 k.standbyOk 1 + 2 ^ 16 * (k.fwVersion % 2 ^ 16)))
  | 0x1C => some k.kimageL
  | 0x1D => some k.kimageH
  | 0x1E => some 0
  | n =>
    if 0x10 ≤ n && n ≤ 0x17 then
      match k.events.find? fun e => e.seq == k.evSel.toNat with
      | some e => some (BitVec.ofNat 32 (field (recorderBytes e) (4 * (n - 0x10)) 4))
      | none => some 0
    else none

/-- A write to a register without a behaviour of its own: none where it may not be written. -/
def plainWrite (s : State) (p n : Nat) (v : Word) : Option State :=
  let k := s.pkg p
  match n with
  | 0x04 => some (if k.bootState = 2 then s else s.setPkg p { k with ringL := v })
  | 0x05 => some (if k.bootState = 2 then s else s.setPkg p { k with ringH := v })
  | 0x06 => some (if 6 ≤ v.toNat && v.toNat ≤ 16 then s.setPkg p { k with ringK := v } else s)
  | 0x0D => some (s.setPkg p { k with evSel := v })
  | 0x1C => some (s.setPkg p { k with kimageL := v })
  | 0x1D => some (s.setPkg p { k with kimageH := v })
  | _ => none

def writeCap (s : State) (p : Nat) (v : Word) : State :=
  if capOk v.toNat then s.updPkg p fun k => { k with powerCap := v } else s

/-- A write of 1 to KBOOT verifies the image that KIMAGE names and boots it, as a cold boot or as the warm reboot (R127). A kernel that
runs goes on, and the secondary host die of the domain holds no running kernel (R129). -/
def bootKernel (s : State) (p : Nat) (v : Word) : State :=
  let k := s.pkg p
  if v != 1 || k.host.running || (s.isMember p && s.dom.secondary == some p) || (k.bootState != 1 && k.bootState != 2) then s
  else
    let warm := s.frozen && s.isMember p && p == s.dom.primary
    if s.kernelOk p then
      (if warm then s else s.updPkg p fun k => { k with bootFail := 0 }).kernelRuns p
    else s.kernelBad p (if warm then 6 else 5)

/-- Write any management register. -/
def regWrite (s : State) (p n : Nat) (v : Word) : Option State :=
  match n with
  | 0x08 => some (s.writeCap p v)
  | 0x1E => some (s.bootKernel p v)
  | n => s.plainWrite p n v

end State

/-- Whether a message is well formed (R118). -/
def messageOk (m : List Byte) : Bool :=
  let n := field m 12 4
  field m 0 2 == 1 && decide (1 ≤ n) && decide (n ≤ 64) &&
    ((field m 2 1 == 1 && m.length == 16) || (field m 2 1 == 2 && m.length == 16 + 4 * n))

/-- The header of a reply, with its status. -/
def replyHead (m : List Byte) (status : Nat) : List Byte :=
  putField (putField ((m ++ zeros 16).take 16) 2 1 ((field m 2 1 ||| 0x80) % 256)) 3 1 status

def State.reply (s : State) (p : Nat) (bs : List Byte) : State := { s with outbox := s.outbox ++ [(p, bs)] }

/-- MGMT_READ (R117, R118): a read message, or one with an operation that is none; with `flag`, a read of register `n` through BAR0. -/
def execMgmtRead (s : State) : Result :=
  let p := s.arg.p
  let m := s.arg.bytes
  .next <|
    if 512 ≤ p then s
    else if s.arg.flag then s.reply p (leBytes 4 ((s.mgmtReg p s.arg.n).getD 0).toNat)
    else if field m 2 1 = 2 then s
    else if !messageOk m then s.reply p (replyHead m 1)
    else
      let vs := (List.range (field m 12 4)).map fun i => s.mgmtReg p (field m 8 4 + i)
      s.reply p (replyHead m (if vs.all (·.isSome) then 0 else 2) ++ vs.flatMap fun v => leBytes 4 (v.getD 0).toNat)

/-- MGMT_WRITE (R118): the registers in ascending order. -/
def execMgmtWrite (s : State) : Result :=
  let p := s.arg.p
  let m := s.arg.bytes
  .next <|
    if 512 ≤ p || field m 2 1 != 2 then s
    else if !messageOk m then s.reply p (replyHead m 1)
    else
      let (s, ok) := (List.range (field m 12 4)).foldl (fun (x : State × Bool) i =>
        match x.1.regWrite p (field m 8 4 + i) (BitVec.ofNat 32 (field m (16 + 4 * i) 4)) with
        | some s => (s, x.2)
        | none => (x.1, false)) (s, true)
      s.reply p (replyHead m (if ok then 0 else 2))

/-- MGMT_REGISTER_WRITE (R117): through BAR0, a register without a behaviour of its own. -/
def execMgmtRegisterWrite (s : State) : Result :=
  .next (if 512 ≤ s.arg.p then s else (s.plainWrite s.arg.p s.arg.n s.arg.word).getD s)

/-- POWERCAP_WRITE (R21, R117). -/
def execPowercapWrite (s : State) : Result := .next (if 512 ≤ s.arg.p then s else s.writeCap s.arg.p s.arg.word)

/-- KBOOT (R127). -/
def execKboot (s : State) : Result := .next (if 512 ≤ s.arg.p then s else s.bootKernel s.arg.p s.arg.word)

/-- BAR1_ACCESS (R117): `n` bytes at boot address `i` are read out, or (flag) `bytes` are written there. -/
def execBar1Access (s : State) : Result :=
  let a := s.arg
  .next <|
    if 512 ≤ a.p then s
    else if a.flag then (if a.i + a.bytes.length ≤ 2 ^ 32 then s.bootPuts a.p a.i a.bytes else s)
    else if a.i + a.n ≤ 2 ^ 32 then s.reply a.p (s.bootBytes a.p a.i a.n) else s

end Sys2Proof.Machine
end

