-- ==== Sys2Proof/Machine/Turn.lean ====
section
/-! DEFINITION. What moves next (R2, R36, R168, R421): the acts that are possible, the free choice among them, the clock
(R20, R96, R190), and what the outside may do. `ex` stands for the meanings. -/

namespace Sys2Proof.Machine

/-- The events that come from outside the packages: power and sensors (R20, R21, R111), links and pins (R11, R13, R19, R37,
R39), time (R96, R97), the management and host ports (R113, R117, R118, R127), the moment at which firmware looks at its request
ring for the next request of a code (R114, R115), the idle flits of a port (R33), failures (R102, R104, R105, R124, R262). -/
def isOutside : Instr → Bool
  | .packageBoot => true
  | .softError => true
  | .moduleRetrain => true
  | .thermalThrottleStep => true
  | .emergencyShutdown => true
  | .vinLoss => true
  | .portRetrain => true
  | .flitReceive => true
  | .domainTimeSync => true
  | .grandmasterLost => true
  | .packageLoss => true
  | .heartbeatMiss => true
  | .spdmMessage => true
  | .mgmtRead => true
  | .mgmtWrite => true
  | .bar1Access => true
  | .mgmtRegisterWrite => true
  | .powercapWrite => true
  | .kboot => true
  | .hostWatchdogExpire => true
  | .hostMachineCheck => true
  | .kernelPanicReport => true
  | .fatalDieError => true
  | .warmReset => true
  | .portReenable => true
  | .ppsInPulse => true
  | .configureDomain => true
  | .regionCommit => true
  | .migratePage => true
  | .relaySignal => true
  | .releaseFrozenMaster => true
  | .killFrozenMaster => true
  | .readEvents => true
  | .firmwareUpdate => true
  | .thawContexts => true
  | .setPowerCap => true
  | .setSecondaryHostDie => true
  | .setDetourBias => true
  | .unknownFirmwareRequest => true
  | .flitTransmit => true
  | .readRequest => true
  | .writeRequest => true
  | .atomicRequest => true
  | .casRequest => true
  | _ => false

/-- A request packet comes from outside only from a host initiator, unit 5 (R15); a flit only in the place of one that is on
its link, between packages or (i = 2) between dies (R18). -/
def outsideOk (i : Instr) (arg : Arg) : Bool :=
  match i with
  | .readRequest => arg.q.issuer.unit == 5
  | .writeRequest => arg.q.issuer.unit == 5
  | .atomicRequest => arg.q.issuer.unit == 5
  | .casRequest => arg.q.issuer.unit == 5
  | .flitReceive => arg.flag && (arg.i == 0 || arg.i == 2)
  | .unknownFirmwareRequest => !arg.flag
  | .packageLoss => !arg.flag
  | i => isOutside i

namespace State

/-- The timer count of a warp rises by one (R190) and its TIMER slots that have come due will fire (R186). -/
def tickWarp (s : State) (wid : WarpId) : State :=
  match s.warp? wid with
  | none => s
  | some w =>
    let runs := match s.block? w.block with
      | some b => (b.state == 0 || b.state == 5) && !w.exited
      | none => false
    if !runs || s.frozen || (s.core wid.core).frozen then s
    else
      let t := w.timer + 1
      let s := s.setWarp wid { w with timer := t }
      (List.range 8).foldl (fun s i =>
        let e := w.events.getD i EventSlot.unbound
        if e.kind = 5 && e.armed && e.target.toNat ≤ t.toNat then s.postOnce .eventTimerFire { w := wid, i := i } else s) s

/-- The dies whose core clock ticks in this nanosecond, at their throttled rate (R20). -/
def tickDie (s : State) (d : DieId) : Bool × State :=
  let k := s.die d
  let p := k.phase + k.clk
  (decide (1000 ≤ p), s.setDie d { k with phase := p % 1000 })

/-- The frequency correction of a package's count. One that follows the lead's makes up for what it is behind or ahead of it before that
is 25 ns (R96). -/
def ppmOf (s : State) (p : Nat) : Int :=
  let t := (s.timeAt p).toNat
  let u := (s.timeAt s.lead).toNat
  if !s.follows p then (s.pkg p).ppm
  else if u + 23 < t then -500
  else if t + 23 < u then 500
  else (s.pkg p).ppm

/-- One nanosecond passes: domain time at each package at its disciplined rate (R96), the warp timers of the dies whose
clock ticks (R190). -/
def tick (s : State) : State :=
  let s := { s with
    now := s.now + 1
    pkgs := s.pkgs.map fun (x : Nat × Package) =>
      let acc := (Int.ofNat x.2.timeFrac + 1000000 + s.ppmOf x.1).toNat
      (x.1, { x.2 with time := x.2.time + BitVec.ofNat 64 (acc / 1000000), timeFrac := acc % 1000000 }) }
  let dies := (s.warps.map fun x => x.1.core.dieId).eraseDups
  dies.foldl (fun s d =>
    let (on, s) := s.tickDie d
    if on then (s.warps.filter fun x => x.1.core.dieId == d).foldl (fun s x => s.tickWarp x.1) s else s) s

/-- The cores on which a warp stands. -/
def busyCores (s : State) : List CoreId := (s.warps.map (·.1.core)).eraseDups

/-- The events that may come about now, of a list in the order in which they became due: `before` lists those that stand before them. -/
def unled (before : List (Instr × Arg)) : List (Instr × Arg) → List (Instr × Arg)
  | [] => []
  | e :: es => if before.any fun x => x.2.leads e.2 then unled (e :: before) es else e :: unled (e :: before) es

/-- The acts that are possible: the clock, an event of the outside, the events that are due, the timers that have run out,
the quadrants of the cores that hold warps, the eviction of a visitor copy. -/
def acts (s : State) : List Act :=
  let ext := match Config.outside s.picks with
    | some (i, arg) => if outsideOk i arg then [Act.event i arg] else []
    | none => []
  [Act.tick] ++ ext ++ (unled [] s.inflight).map (fun x => Act.event x.1 x.2) ++
    (s.timers.filter (·.1 ≤ s.now)).map (fun x => Act.event x.2.1 x.2.2) ++
    (s.busyCores.flatMap fun c => [Act.issue c 0, Act.issue c 1, Act.issue c 2, Act.issue c 3]) ++
    s.dies.flatMap fun x => x.2.visitors.map fun v => Act.evict x.1 v.1

/-- The act that moves next: the one that `turn` names, else a free choice. -/
def nextAct (s : State) : Act × State :=
  match s.turn with
  | some a => (a, { s with turn := none })
  | none =>
    let l := s.acts
    let (n, s) := s.choose l.length
    (l.getD n .tick, s)

/-- An event comes about: it is due no more, and its operands stand in `arg` for its meaning. -/
def begin_ (s : State) (i : Instr) (arg : Arg) : State :=
  let s := if s.inflight.contains (i, arg) then { s with inflight := s.inflight.erase (i, arg) }
    else { s with timers := s.timers.eraseP fun t => t.2 == (i, arg) && t.1 ≤ s.now }
  { s with arg := arg }

/-- One act; the records of warps whose contexts are frozen follow it (R261). -/
def perform (ex : Instr → State → Result) (a : Act) (s : State) : Result :=
  match a with
  | .tick => .next s.tick
  | .evict d line => .next (s.updDie d fun k => { k with visitors := tdel k.visitors line })
  | .event i arg =>
    match ex i (s.begin_ i arg) with
    | .next t => .next (({ t with arg := {}, stalled := false } : State).recordsSince s)
    | r => r
  | .issue c q => s.issueQuad ex c q

/-- One step of the machine. -/
def turnStep (ex : Instr → State → Result) (s : State) : Result := s.nextAct.2.perform ex s.nextAct.1

end State

/-! Placing an instruction where the next step fetches it. -/

/-- The core, block and warp of a placed instruction. -/
def placeCore : CoreId := { pkg := 0, die := 0, pos := 0 }
def placeBlock : BlockId := { grid := 0, gang := 0, j := 0 }
def placeWarp : WarpId := { core := placeCore, slot := 0 }

/-- The virtual and pool address of a placed clause. -/
def placeAddr : Nat := 0x10000

/-- The words of the placed clause: its header, of the class that the table's bits decode to, and the instruction. -/
def placeWords (nbits w : Nat) : List Word :=
  let v := w % 2 ^ nbits
  let w0 := BitVec.ofNat 32 v
  let cls := ((decodeTable nbits w).map (·.1)).getD .ctrl
  let n := if longBit w0 then 2 else 1
  encodeHeader { n := n, cls := cls, yield := false, hold := 0 } :: w0 ::
    (if longBit w0 then [BitVec.ofNat 32 (v / 2 ^ 32)] else [])

/-- A line of code with the clause at its start, and zeros. -/
def placeLine (nbits w : Nat) : List Byte :=
  let bs := (placeWords nbits w).flatMap fun x => leBytes 4 x.toNat
  bs ++ zeros (128 - bs.length)

/-- The state in which the next step fetches and issues the placed instruction: a released die, a core whose instruction
cache and TLB hold the clause's line and page, and one block of one warp at that clause. -/
def place (s : State) (nbits w : Nat) : State :=
  let e : TlbEnt := { va := placeAddr, log := 16, pa := placeAddr, flags := 2 }
  let c := s.core placeCore
  let s := s.setCore placeCore { c with
    icache := tset c.icache (lineOf placeAddr) { data := placeLine nbits w, pages := [] }, tlb := tlb1Put c.tlb e, frozen := false
    lastStart := tdel c.lastStart 0 }
  let s := s.updDie placeCore.dieId fun k => { k with released := true, lost := false }
  let b := { Block.start placeCore 1 16 8 16 4 256 (List.range 16) [0] with priv := true }
  let s := s.setBlock placeBlock b
  let s := s.setWarp placeWarp (Warp.start placeBlock 0 16 8 (BitVec.ofNat 64 placeAddr))
  { s with turn := some (.issue placeCore 0), frozen := false }

end Sys2Proof.Machine
end

