-- ==== Sys2Proof/Machine/Dispatch.lean ====
section
/-! DEFINITION. The meanings of the operations and events, one arm for each constructor of `Instr`. -/

namespace Sys2Proof.Machine

def exec (i : Instr) (s : State) : Host.Outcome State Fault Refusal :=
  match i with
  | .nop r => Sys2Proof.Machine.execNop r s
  | .smov r => Sys2Proof.Machine.execSmov r s
  | .smovi r => Sys2Proof.Machine.execSmovi r s
  | .smoviXi r x => Sys2Proof.Machine.execSmoviXi r x s
  | .sadd r => Sys2Proof.Machine.execSadd r s
  | .ssub r => Sys2Proof.Machine.execSsub r s
  | .smul r => Sys2Proof.Machine.execSmul r s
  | .smulhi r => Sys2Proof.Machine.execSmulhi r s
  | .sand r => Sys2Proof.Machine.execSand r s
  | .sor r => Sys2Proof.Machine.execSor r s
  | .sxor r => Sys2Proof.Machine.execSxor r s
  | .sshl r => Sys2Proof.Machine.execSshl r s
  | .sshr r => Sys2Proof.Machine.execSshr r s
  | .ssar r => Sys2Proof.Machine.execSsar r s
  | .saddi r => Sys2Proof.Machine.execSaddi r s
  | .saddiXi r x => Sys2Proof.Machine.execSaddiXi r x s
  | .sandi r => Sys2Proof.Machine.execSandi r s
  | .sandiXi r x => Sys2Proof.Machine.execSandiXi r x s
  | .smin r => Sys2Proof.Machine.execSmin r s
  | .smax r => Sys2Proof.Machine.execSmax r s
  | .sminn r => Sys2Proof.Machine.execSminn r s
  | .smaxn r => Sys2Proof.Machine.execSmaxn r s
  | .scmp r => Sys2Proof.Machine.execScmp r s
  | .scmpXr r x => Sys2Proof.Machine.execScmpXr r x s
  | .sread r => Sys2Proof.Machine.execSread r s
  | .swrite r => Sys2Proof.Machine.execSwrite r s
  | .bra r => Sys2Proof.Machine.execBra r s
  | .bz r => Sys2Proof.Machine.execBz r s
  | .bnz r => Sys2Proof.Machine.execBnz r s
  | .bltz r => Sys2Proof.Machine.execBltz r s
  | .bgez r => Sys2Proof.Machine.execBgez r s
  | .bru r => Sys2Proof.Machine.execBru r s
  | .brd r x => Sys2Proof.Machine.execBrd r x s
  | .brw r => Sys2Proof.Machine.execBrw r s
  | .call r => Sys2Proof.Machine.execCall r s
  | .callr r => Sys2Proof.Machine.execCallr r s
  | .ret r => Sys2Proof.Machine.execRet r s
  | .jmpr r => Sys2Proof.Machine.execJmpr r s
  | .exit r => Sys2Proof.Machine.execExit r s
  | .take r => Sys2Proof.Machine.execTake r s
  | .vmov r => Sys2Proof.Machine.execVmov r s
  | .vmovXr r x => Sys2Proof.Machine.execVmovXr r x s
  | .vmovi r => Sys2Proof.Machine.execVmovi r s
  | .vmoviXi r x => Sys2Proof.Machine.execVmoviXi r x s
  | .vmovs r => Sys2Proof.Machine.execVmovs r s
  | .vmovsXr r x => Sys2Proof.Machine.execVmovsXr r x s
  | .iadd r => Sys2Proof.Machine.execIadd r s
  | .iaddXr r x => Sys2Proof.Machine.execIaddXr r x s
  | .isub r => Sys2Proof.Machine.execIsub r s
  | .isubXr r x => Sys2Proof.Machine.execIsubXr r x s
  | .imul r => Sys2Proof.Machine.execImul r s
  | .imulXr r x => Sys2Proof.Machine.execImulXr r x s
  | .imulhi r => Sys2Proof.Machine.execImulhi r s
  | .imulhiXr r x => Sys2Proof.Machine.execImulhiXr r x s
  | .imad r x => Sys2Proof.Machine.execImad r x s
  | .imin r => Sys2Proof.Machine.execImin r s
  | .iminXr r x => Sys2Proof.Machine.execIminXr r x s
  | .imax r => Sys2Proof.Machine.execImax r s
  | .imaxXr r x => Sys2Proof.Machine.execImaxXr r x s
  | .vand r => Sys2Proof.Machine.execVand r s
  | .vandXr r x => Sys2Proof.Machine.execVandXr r x s
  | .vor r => Sys2Proof.Machine.execVor r s
  | .vorXr r x => Sys2Proof.Machine.execVorXr r x s
  | .vxor r => Sys2Proof.Machine.execVxor r s
  | .vxorXr r x => Sys2Proof.Machine.execVxorXr r x s
  | .shl r => Sys2Proof.Machine.execShl r s
  | .shlXr r x => Sys2Proof.Machine.execShlXr r x s
  | .shr r => Sys2Proof.Machine.execShr r s
  | .shrXr r x => Sys2Proof.Machine.execShrXr r x s
  | .sar r => Sys2Proof.Machine.execSar r s
  | .sarXr r x => Sys2Proof.Machine.execSarXr r x s
  | .bfe r => Sys2Proof.Machine.execBfe r s
  | .bfeXr r x => Sys2Proof.Machine.execBfeXr r x s
  | .bfi r x => Sys2Proof.Machine.execBfi r x s
  | .popc r => Sys2Proof.Machine.execPopc r s
  | .popcXr r x => Sys2Proof.Machine.execPopcXr r x s
  | .clz r => Sys2Proof.Machine.execClz r s
  | .clzXr r x => Sys2Proof.Machine.execClzXr r x s
  | .brev r => Sys2Proof.Machine.execBrev r s
  | .brevXr r x => Sys2Proof.Machine.execBrevXr r x s
  | .addi r => Sys2Proof.Machine.execAddi r s
  | .addiXi r x => Sys2Proof.Machine.execAddiXi r x s
  | .andi r => Sys2Proof.Machine.execAndi r s
  | .andiXi r x => Sys2Proof.Machine.execAndiXi r x s
  | .shli r => Sys2Proof.Machine.execShli r s
  | .shliXi r x => Sys2Proof.Machine.execShliXi r x s
  | .shri r => Sys2Proof.Machine.execShri r s
  | .shriXi r x => Sys2Proof.Machine.execShriXi r x s
  | .fadd r => Sys2Proof.Machine.execFadd r s
  | .faddXr r x => Sys2Proof.Machine.execFaddXr r x s
  | .fsub r => Sys2Proof.Machine.execFsub r s
  | .fsubXr r x => Sys2Proof.Machine.execFsubXr r x s
  | .fmul r => Sys2Proof.Machine.execFmul r s
  | .fmulXr r x => Sys2Proof.Machine.execFmulXr r x s
  | .ffma r x => Sys2Proof.Machine.execFfma r x s
  | .fmin r => Sys2Proof.Machine.execFmin r s
  | .fminXr r x => Sys2Proof.Machine.execFminXr r x s
  | .fmax r => Sys2Proof.Machine.execFmax r s
  | .fmaxXr r x => Sys2Proof.Machine.execFmaxXr r x s
  | .frcp r => Sys2Proof.Machine.execFrcp r s
  | .frcpXr r x => Sys2Proof.Machine.execFrcpXr r x s
  | .frsq r => Sys2Proof.Machine.execFrsq r s
  | .frsqXr r x => Sys2Proof.Machine.execFrsqXr r x s
  | .fsqrt r => Sys2Proof.Machine.execFsqrt r s
  | .fsqrtXr r x => Sys2Proof.Machine.execFsqrtXr r x s
  | .fex2 r => Sys2Proof.Machine.execFex2 r s
  | .fex2Xr r x => Sys2Proof.Machine.execFex2Xr r x s
  | .flg2 r => Sys2Proof.Machine.execFlg2 r s
  | .flg2Xr r x => Sys2Proof.Machine.execFlg2Xr r x s
  | .icmp r => Sys2Proof.Machine.execIcmp r s
  | .icmpXr r x => Sys2Proof.Machine.execIcmpXr r x s
  | .fcmp r => Sys2Proof.Machine.execFcmp r s
  | .fcmpXr r x => Sys2Proof.Machine.execFcmpXr r x s
  | .pset r => Sys2Proof.Machine.execPset r s
  | .psetXr r x => Sys2Proof.Machine.execPsetXr r x s
  | .sel r x => Sys2Proof.Machine.execSel r x s
  | .cvt r x => Sys2Proof.Machine.execCvt r x s
  | .pack4 r => Sys2Proof.Machine.execPack4 r s
  | .pack4Xr r x => Sys2Proof.Machine.execPack4Xr r x s
  | .unpack4 r => Sys2Proof.Machine.execUnpack4 r s
  | .unpack4Xr r x => Sys2Proof.Machine.execUnpack4Xr r x s
  | .ballot r => Sys2Proof.Machine.execBallot r s
  | .ballotXr r x => Sys2Proof.Machine.execBallotXr r x s
  | .vote r => Sys2Proof.Machine.execVote r s
  | .voteXr r x => Sys2Proof.Machine.execVoteXr r x s
  | .rfl r => Sys2Proof.Machine.execRfl r s
  | .rflXr r x => Sys2Proof.Machine.execRflXr r x s
  | .laneid r => Sys2Proof.Machine.execLaneid r s
  | .laneidXr r x => Sys2Proof.Machine.execLaneidXr r x s
  | .ld r => Sys2Proof.Machine.execLd r s
  | .ldXm r x => Sys2Proof.Machine.execLdXm r x s
  | .st r => Sys2Proof.Machine.execSt r s
  | .stXm r x => Sys2Proof.Machine.execStXm r x s
  | .ldl r => Sys2Proof.Machine.execLdl r s
  | .ldlXm r x => Sys2Proof.Machine.execLdlXm r x s
  | .stl r => Sys2Proof.Machine.execStl r s
  | .stlXm r x => Sys2Proof.Machine.execStlXm r x s
  | .atom r => Sys2Proof.Machine.execAtom r s
  | .atomXm r x => Sys2Proof.Machine.execAtomXm r x s
  | .atoml r => Sys2Proof.Machine.execAtoml r s
  | .atomlXm r x => Sys2Proof.Machine.execAtomlXm r x s
  | .cas r => Sys2Proof.Machine.execCas r s
  | .casXm r x => Sys2Proof.Machine.execCasXm r x s
  | .pref r => Sys2Proof.Machine.execPref r s
  | .prefXm r x => Sys2Proof.Machine.execPrefXm r x s
  | .rld r x => Sys2Proof.Machine.execRld r x s
  | .rst r x => Sys2Proof.Machine.execRst r x s
  | .ratom r x => Sys2Proof.Machine.execRatom r x s
  | .mcast r x => Sys2Proof.Machine.execMcast r x s
  | .combine r x => Sys2Proof.Machine.execCombine r x s
  | .mloop r x => Sys2Proof.Machine.execMloop r x s
  | .mzero r => Sys2Proof.Machine.execMzero r s
  | .mrd r => Sys2Proof.Machine.execMrd r s
  | .mrdXr r x => Sys2Proof.Machine.execMrdXr r x s
  | .mwr r => Sys2Proof.Machine.execMwr r s
  | .mwrXr r x => Sys2Proof.Machine.execMwrXr r x s
  | .mst r => Sys2Proof.Machine.execMst r s
  | .mstXm r x => Sys2Proof.Machine.execMstXm r x s
  | .mld r => Sys2Proof.Machine.execMld r s
  | .mldXm r x => Sys2Proof.Machine.execMldXm r x s
  | .mwait r => Sys2Proof.Machine.execMwait r s
  | .mstat r => Sys2Proof.Machine.execMstat r s
  | .tcopy r => Sys2Proof.Machine.execTcopy r s
  | .tcopyXm r x => Sys2Proof.Machine.execTcopyXm r x s
  | .cclose r => Sys2Proof.Machine.execCclose r s
  | .cbload r => Sys2Proof.Machine.execCbload r s
  | .cbloadXm r x => Sys2Proof.Machine.execCbloadXm r x s
  | .cbfree r => Sys2Proof.Machine.execCbfree r s
  | .cchain r => Sys2Proof.Machine.execCchain r s
  | .cchainXm r x => Sys2Proof.Machine.execCchainXm r x s
  | .cfill r => Sys2Proof.Machine.execCfill r s
  | .cfillXm r x => Sys2Proof.Machine.execCfillXm r x s
  | .cstat r => Sys2Proof.Machine.execCstat r s
  | .bar r => Sys2Proof.Machine.execBar r s
  | .barXm r x => Sys2Proof.Machine.execBarXm r x s
  | .bara r => Sys2Proof.Machine.execBara r s
  | .baraXm r x => Sys2Proof.Machine.execBaraXm r x s
  | .barw r => Sys2Proof.Machine.execBarw r s
  | .barwXm r x => Sys2Proof.Machine.execBarwXm r x s
  | .barinit r => Sys2Proof.Machine.execBarinit r s
  | .fence r => Sys2Proof.Machine.execFence r s
  | .fenceXm r x => Sys2Proof.Machine.execFenceXm r x s
  | .waitb r => Sys2Proof.Machine.execWaitb r s
  | .waitc r => Sys2Proof.Machine.execWaitc r s
  | .waitcXm r x => Sys2Proof.Machine.execWaitcXm r x s
  | .evbind r x => Sys2Proof.Machine.execEvbind r x s
  | .evmask r => Sys2Proof.Machine.execEvmask r s
  | .evclr r => Sys2Proof.Machine.execEvclr r s
  | .waitany r => Sys2Proof.Machine.execWaitany r s
  | .mbxsend r => Sys2Proof.Machine.execMbxsend r s
  | .mbxrecv r => Sys2Proof.Machine.execMbxrecv r s
  | .regroup r => Sys2Proof.Machine.execRegroup r s
  | .ungroup r => Sys2Proof.Machine.execUngroup r s
  | .yield r => Sys2Proof.Machine.execYield r s
  | .trap r => Sys2Proof.Machine.execTrap r s
  | .trapXi r x => Sys2Proof.Machine.execTrapXi r x s
  | .rtt r => Sys2Proof.Machine.execRtt r s
  | .launch r => Sys2Proof.Machine.execLaunch r s
  | .csrr r => Sys2Proof.Machine.execCsrr r s
  | .csrw r => Sys2Proof.Machine.execCsrw r s
  | .tlbinv r => Sys2Proof.Machine.execTlbinv r s
  | .tlbinvXm r x => Sys2Proof.Machine.execTlbinvXm r x s
  | .bkpt r => Sys2Proof.Machine.execBkpt r s
  | .packageBoot => Sys2Proof.Machine.execPackageBoot s
  | .softError => Sys2Proof.Machine.execSoftError s
  | .moduleRetrain => Sys2Proof.Machine.execModuleRetrain s
  | .moduleRetrainEnd => Sys2Proof.Machine.execModuleRetrainEnd s
  | .flitReceive => Sys2Proof.Machine.execFlitReceive s
  | .flitTransmit => Sys2Proof.Machine.execFlitTransmit s
  | .thermalThrottleStep => Sys2Proof.Machine.execThermalThrottleStep s
  | .emergencyShutdown => Sys2Proof.Machine.execEmergencyShutdown s
  | .vinLoss => Sys2Proof.Machine.execVinLoss s
  | .portRetrain => Sys2Proof.Machine.execPortRetrain s
  | .portRetrainEnd => Sys2Proof.Machine.execPortRetrainEnd s
  | .readRequest => Sys2Proof.Machine.execReadRequest s
  | .writeRequest => Sys2Proof.Machine.execWriteRequest s
  | .atomicRequest => Sys2Proof.Machine.execAtomicRequest s
  | .casRequest => Sys2Proof.Machine.execCasRequest s
  | .mailboxRequest => Sys2Proof.Machine.execMailboxRequest s
  | .lineRead => Sys2Proof.Machine.execLineRead s
  | .lineData => Sys2Proof.Machine.execLineData s
  | .lineWrite => Sys2Proof.Machine.execLineWrite s
  | .linePush => Sys2Proof.Machine.execLinePush s
  | .readData => Sys2Proof.Machine.execReadData s
  | .writeAck => Sys2Proof.Machine.execWriteAck s
  | .atomicData => Sys2Proof.Machine.execAtomicData s
  | .casData => Sys2Proof.Machine.execCasData s
  | .retryReply => Sys2Proof.Machine.execRetryReply s
  | .retryResend => Sys2Proof.Machine.execRetryResend s
  | .errorReply => Sys2Proof.Machine.execErrorReply s
  | .tagTimeout => Sys2Proof.Machine.execTagTimeout s
  | .tagQuarantineEnd => Sys2Proof.Machine.execTagQuarantineEnd s
  | .combineUp => Sys2Proof.Machine.execCombineUp s
  | .combineDown => Sys2Proof.Machine.execCombineDown s
  | .combineSequenceAdmit => Sys2Proof.Machine.execCombineSequenceAdmit s
  | .combineSequenceAbandon => Sys2Proof.Machine.execCombineSequenceAbandon s
  | .mcastLine => Sys2Proof.Machine.execMcastLine s
  | .walkComplete => Sys2Proof.Machine.execWalkComplete s
  | .missSlotFill => Sys2Proof.Machine.execMissSlotFill s
  | .regionSwitch => Sys2Proof.Machine.execRegionSwitch s
  | .regionDrainComplete => Sys2Proof.Machine.execRegionDrainComplete s
  | .migrationStart => Sys2Proof.Machine.execMigrationStart s
  | .copyPassEnd => Sys2Proof.Machine.execCopyPassEnd s
  | .migrationPinWaitEnd => Sys2Proof.Machine.execMigrationPinWaitEnd s
  | .migrationWindowEnd => Sys2Proof.Machine.execMigrationWindowEnd s
  | .queuePoll => Sys2Proof.Machine.execQueuePoll s
  | .mirrorAck => Sys2Proof.Machine.execMirrorAck s
  | .launchPacket => Sys2Proof.Machine.execLaunchPacket s
  | .signalPacket => Sys2Proof.Machine.execSignalPacket s
  | .waitPacket => Sys2Proof.Machine.execWaitPacket s
  | .waitConditionTrue => Sys2Proof.Machine.execWaitConditionTrue s
  | .waitTimeout => Sys2Proof.Machine.execWaitTimeout s
  | .fencePacket => Sys2Proof.Machine.execFencePacket s
  | .tablePacket => Sys2Proof.Machine.execTablePacket s
  | .combineConfig => Sys2Proof.Machine.execCombineConfig s
  | .nopPacket => Sys2Proof.Machine.execNopPacket s
  | .queueRestart => Sys2Proof.Machine.execQueueRestart s
  | .ttSlot => Sys2Proof.Machine.execTtSlot s
  | .domainTimeSync => Sys2Proof.Machine.execDomainTimeSync s
  | .grandmasterLost => Sys2Proof.Machine.execGrandmasterLost s
  | .standbyTakeover => Sys2Proof.Machine.execStandbyTakeover s
  | .packageLoss => Sys2Proof.Machine.execPackageLoss s
  | .heartbeatMiss => Sys2Proof.Machine.execHeartbeatMiss s
  | .updateTakeover => Sys2Proof.Machine.execUpdateTakeover s
  | .configureDomain => Sys2Proof.Machine.execConfigureDomain s
  | .regionCommit => Sys2Proof.Machine.execRegionCommit s
  | .migratePage => Sys2Proof.Machine.execMigratePage s
  | .relaySignal => Sys2Proof.Machine.execRelaySignal s
  | .releaseFrozenMaster => Sys2Proof.Machine.execReleaseFrozenMaster s
  | .killFrozenMaster => Sys2Proof.Machine.execKillFrozenMaster s
  | .readEvents => Sys2Proof.Machine.execReadEvents s
  | .firmwareUpdate => Sys2Proof.Machine.execFirmwareUpdate s
  | .thawContexts => Sys2Proof.Machine.execThawContexts s
  | .setPowerCap => Sys2Proof.Machine.execSetPowerCap s
  | .spdmMessage => Sys2Proof.Machine.execSpdmMessage s
  | .setSecondaryHostDie => Sys2Proof.Machine.execSetSecondaryHostDie s
  | .setDetourBias => Sys2Proof.Machine.execSetDetourBias s
  | .unknownFirmwareRequest => Sys2Proof.Machine.execUnknownFirmwareRequest s
  | .mgmtRead => Sys2Proof.Machine.execMgmtRead s
  | .mgmtWrite => Sys2Proof.Machine.execMgmtWrite s
  | .mgmtRegisterWrite => Sys2Proof.Machine.execMgmtRegisterWrite s
  | .powercapWrite => Sys2Proof.Machine.execPowercapWrite s
  | .kboot => Sys2Proof.Machine.execKboot s
  | .bar1Access => Sys2Proof.Machine.execBar1Access s
  | .hostWatchdogExpire => Sys2Proof.Machine.execHostWatchdogExpire s
  | .hostMachineCheck => Sys2Proof.Machine.execHostMachineCheck s
  | .kernelPanicReport => Sys2Proof.Machine.execKernelPanicReport s
  | .warmReboot => Sys2Proof.Machine.execWarmReboot s
  | .brokerRange => Sys2Proof.Machine.execBrokerRange s
  | .brokerDone => Sys2Proof.Machine.execBrokerDone s
  | .doneTimer => Sys2Proof.Machine.execDoneTimer s
  | .brokerSteal => Sys2Proof.Machine.execBrokerSteal s
  | .brokerGrant => Sys2Proof.Machine.execBrokerGrant s
  | .brokerNone => Sys2Proof.Machine.execBrokerNone s
  | .brokerScan => Sys2Proof.Machine.execBrokerScan s
  | .brokerReserve => Sys2Proof.Machine.execBrokerReserve s
  | .brokerCommit => Sys2Proof.Machine.execBrokerCommit s
  | .brokerRollback => Sys2Proof.Machine.execBrokerRollback s
  | .brokerVacate => Sys2Proof.Machine.execBrokerVacate s
  | .brokerRemap => Sys2Proof.Machine.execBrokerRemap s
  | .brokerSaved => Sys2Proof.Machine.execBrokerSaved s
  | .coreReserve => Sys2Proof.Machine.execCoreReserve s
  | .preparationComplete => Sys2Proof.Machine.execPreparationComplete s
  | .gangCommit => Sys2Proof.Machine.execGangCommit s
  | .priorityPreempt => Sys2Proof.Machine.execPriorityPreempt s
  | .gangSaveComplete => Sys2Proof.Machine.execGangSaveComplete s
  | .serviceWordChange => Sys2Proof.Machine.execServiceWordChange s
  | .gangRestore => Sys2Proof.Machine.execGangRestore s
  | .fatalDieError => Sys2Proof.Machine.execFatalDieError s
  | .ifetchFill => Sys2Proof.Machine.execIfetchFill s
  | .registerFill => Sys2Proof.Machine.execRegisterFill s
  | .walkerFetch => Sys2Proof.Machine.execWalkerFetch s
  | .eventTimerFire => Sys2Proof.Machine.execEventTimerFire s
  | .regroupComplete => Sys2Proof.Machine.execRegroupComplete s
  | .blockRetire => Sys2Proof.Machine.execBlockRetire s
  | .trapTake => Sys2Proof.Machine.execTrapTake s
  | .porterCommandComplete => Sys2Proof.Machine.execPorterCommandComplete s
  | .chainRecord => Sys2Proof.Machine.execChainRecord s
  | .chainPoll => Sys2Proof.Machine.execChainPoll s
  | .matrixCommandComplete => Sys2Proof.Machine.execMatrixCommandComplete s
  | .broadcastStreamEvent => Sys2Proof.Machine.execBroadcastStreamEvent s
  | .warmReset => Sys2Proof.Machine.execWarmReset s
  | .portReenable => Sys2Proof.Machine.execPortReenable s
  | .ppsInPulse => Sys2Proof.Machine.execPpsInPulse s

end Sys2Proof.Machine
end

