-- ==== Sys2Proof/Machine/Step.lean ====
section
/-! DEFINITION. One step of the machine, and where its next instruction is placed. -/

namespace Sys2Proof.Machine

/-- One step: the act whose turn it is, or one chosen freely (Machine/Turn.lean). -/
def step (s : State) : Host.Outcome State Fault Refusal := s.turnStep exec

/-- The state with the instruction stored where the next step fetches it (Machine/Turn.lean). -/
def State.withFetchWord (s : State) (nbits w : Nat) : State := place s nbits w

end Sys2Proof.Machine
end

