-- ==== Sys2Proof/Safety.lean ====
section
/-! DEFINITION. The terms in which the claims speak: what an instruction leaves unchanged, when its operands are ready, and where
the stores of an output walker go. -/

namespace Sys2Proof.Machine

/-- The warp of a site when the results that its slot holds have been committed (R171): the registers as the program sees them
behind the earlier words of the clause. -/
def Site.done (x : Site) : Warp := commitHeld x.w x.sel

/-- What of a warp is neither a register file nor moved by the issue of a word: the special registers, walkers, event slots,
tiles, timers, batches, accumulated flags and the instructions in flight (without the thread marks of R211). -/
def eraseIssue (w : Warp) : Warp :=
  { w with
    s := [], v := [], p := [], a := PcSlot.empty, b := PcSlot.empty, j := none, dsp := 0, scStack := [], yieldPass := false, exited := false
    handler := false, trap := none, flights := w.flights.map fun f => { f with inA := false, inB := false, stk := [] } }

/-- Warp w' has the registers of w but for the listed scalars, vectors and predicates, and everything else of it. Mode and trap
change only where the warp exits (R179). -/
def AgreeBut (ds dv dp : List Nat) (w w' : Warp) : Prop :=
  (∀ r, r ∉ ds → w'.sreg r = w.sreg r) ∧ (∀ r, r ∉ dv → w'.vreg r = w.vreg r) ∧ (∀ r, r ∉ dp → w'.preg r = w.preg r) ∧
    eraseIssue w' = eraseIssue w ∧
    ((w'.handler = w.handler ∧ w'.trap = w.trap ∧ w'.exited = w.exited) ∨ w'.exited = true)

/-- A core without the notes that the issue of a word makes (R168). -/
def eraseStamp (c : Core) : Core := { c with stamp := 0, lastStart := [] }

/-- A core without these notes and without the place of its last SC FENCE (R212). -/
def eraseSc (c : Core) : Core := { eraseStamp c with scFence := none }

/-- A core without what the issue of an engine's command changes besides: the queues, their numbers, the latches, the receives. -/
def eraseEngine (c : Core) : Core := { eraseStamp c with mtx := [], porter := [], nextCmd := 0, latch := [], recv := [] }

/-- State t is s but for warp `wid`, what `er` erases of the cores, and events that are due now. Every byte of memory reads as
before. -/
def Untouched (er : Core → Core) (s t : State) (wid : WarpId) : Prop :=
  (∀ a, t.mem.read a = s.mem.read a) ∧ t.poisoned = s.poisoned ∧ (∀ v, v ≠ wid → t.warp? v = s.warp? v) ∧
    t.blocks = s.blocks ∧ (∀ c, er (t.core c) = er (s.core c)) ∧ t.dies = s.dies ∧ t.pkgs = s.pkgs ∧ t.dom = s.dom ∧ t.lost = s.lost ∧
    t.launches = s.launches ∧ t.brokers = s.brokers ∧ t.queue = s.queue ∧ t.commit = s.commit ∧ t.frozen = s.frozen ∧
    (∃ l, t.inflight = s.inflight ++ l) ∧ t.timers = s.timers ∧ t.outbox = s.outbox ∧ t.now = s.now ∧ t.stalled = s.stalled ∧
    t.serial = s.serial ∧ t.freezeCause = s.freezeCause

/-- Where the slot of a site stands behind an instruction of n words (R171, R276, R311): at the clause's next word, or at the start of
the clause that it goes to. A slot that reaches the join there parks or merges instead (R177). -/
def Site.Moves (x : Site) (n : Nat) (target : Option DWord) (w : Warp) : Prop :=
  let sl := w.slot x.sel
  if x.k + n ≤ x.n ∧ target = none then sl.k = x.k + n ∧ sl.pc = x.sl.pc ∧ sl.mask = x.sl.mask
  else
    let pc := target.getD x.nextClause
    x.sl.live → x.sl.parkedJoin = false → x.w.j ≠ some pc → sl.k = 0 ∧ sl.pc = pc ∧ sl.mask = x.sl.mask

/-- Instruction i answers a next state in which, against state s' and but for what `er` erases of the cores, only the warp of the site
has changed, and of the warp, against `base`, only the listed registers; the slot has moved, and `good` holds of the state and of the
warp's registers behind it. -/
def CompletesIn (er : Core → Core) (i : Instr) (s s' : State) (x : Site) (n : Nat) (target : Option DWord) (base : Warp)
    (ds dv dp : List Nat) (good : State → Warp → Prop) : Prop :=
  ∃ t w, exec i s = .next t ∧ Untouched er s' t x.wid ∧ t.warp? x.wid = some w ∧ x.Moves n target w ∧
    AgreeBut ds dv dp base (commitHeld w x.sel) ∧ good t (commitHeld w x.sel)

/-- The same, where of the cores only the notes of the issue have changed. -/
def CompletesWith (i : Instr) (s s' : State) (x : Site) (n : Nat) (target : Option DWord) (base : Warp) (ds dv dp : List Nat)
    (good : State → Warp → Prop) : Prop := CompletesIn eraseStamp i s s' x n target base ds dv dp good

/-- The same, where `good` is about the warp's registers alone. -/
def CompletesFrom (i : Instr) (s s' : State) (x : Site) (n : Nat) (target : Option DWord) (base : Warp) (ds dv dp : List Nat)
    (good : Warp → Prop) : Prop := CompletesWith i s s' x n target base ds dv dp fun _ => good

/-- The same against the state and the registers in which the instruction is executed, for an instruction in sequence. -/
def Completes (i : Instr) (s : State) (x : Site) (n : Nat) (ds dv dp : List Nat) (good : Warp → Prop) : Prop :=
  CompletesFrom i s s x n none x.done ds dv dp good

/-! Barriers. -/

/-- No warp is without lanes, no slot waits for a barrier's phase, and memory is canonical: an arrival concerns its object alone. -/
def barsCalm (s : State) : Prop :=
  s.mem.wf ∧ ∀ y, y ∈ s.warps → State.autoLaneless y.2 = false ∧ ∀ e, e ∈ y.2.events → e.kind = 1 → e.armed = false

/-! Events. -/

/-- Event i answers a next state, of which `good` holds. -/
def Yields (i : Instr) (s : State) (good : State → Prop) : Prop := ∃ t, exec i s = .next t ∧ good t

/-- Every byte of memory reads as before. -/
def SameMem (s t : State) : Prop := ∀ a, t.mem.read a = s.mem.read a

/-- Every byte of memory reads as before but those whose numbers are listed. -/
def SameMemBut (ks : List Nat) (s t : State) : Prop := ∀ a, a ∉ ks → t.mem.read a = s.mem.read a

/-- Every warp but one is as before. -/
def OtherWarps (s t : State) (wid : WarpId) : Prop := ∀ v, v ≠ wid → t.warp? v = s.warp? v

/-- The queue stands halted at its packet with a status, which an event record names (R83). -/
def Halted (s t : State) (code : Nat) : Prop :=
  t.queue.status = code ∧ t.queue.cur = none ∧ t.queue.waiting = none ∧ t.queue.confirmed = s.queue.confirmed ∧
    ((t.pkg s.lead).events.getLast?.map (·.code)) = some 0x30

/-- The Broker message of the event is the next one of its pair, no later one waits, its grid is in flight, and its Broker is there
(R132, R133). -/
def State.inTurn (s : State) (l : Launch) : Prop :=
  let m := s.arg.m
  s.departed m.dst = false ∧ tget (s.broker m.dst).seqIn m.src 0 = m.seq ∧ (s.broker m.dst).early = [] ∧ s.launch? m.grid = some l

/-- A Broker's message is on its way: internally, under a tag of its sender, or behind others that wait for a tag (R130, R131). -/
def State.sent (t : State) (i : Instr) (m : BrokerMsg) : Prop :=
  (i, { k := m.dst, m := m }) ∈ t.inflight ∨ (∃ n, (t.brokerTag m.src n).held = true ∧ (t.brokerTag m.src n).use = .broker i m) ∨
    (i, m) ∈ (t.broker m.src).sendq

/-- A message is on its way from one Broker to another, about a run of gangs of a grid (R131). -/
def State.told (t : State) (i : Instr) (src dst : BrokerId) (grid : Nat) (r : Nat × Nat) (data1 : DWord → Prop) : Prop :=
  ∃ m : BrokerMsg, t.sent i m ∧ m.src = src ∧ m.dst = dst ∧ m.grid = grid ∧ (m.first, m.count) = r ∧ data1 m.data1

/-- The numbers of the n bytes at an offset of a block's scratchpad. -/
def Block.keys (b : Block) (off n : Nat) : List Nat := (List.range n).map fun j => arrayKey b.core (b.arrayByte (off + j))

/-! Operands that are ready (R173, R174, R182-R184, R242). -/

/-- The warp with the input walkers that the sources name advanced, each once (R183). -/
def Site.stepped (x : Site) (rs : List Nat) : Warp := ((rs.filterMap x.w.boundWalker).eraseDups).foldl stepWalker x.w

/-- A vector source that can be read: in range, full and not poisoned, or an input walker whose next vector is there with no
faulted lane among the active ones. -/
def sourceReady (x : Site) (act : Mask) (r : Nat) : Bool :=
  vectorOk x.w r && !isEmpty x.w r &&
    match x.w.boundWalker r with
    | none => (x.w.vreg r).poison.isNone
    | some k => isInput x.w k && match (x.w.walker k).pre with
      | f :: _ => f.bad &&& act == 0
      | [] => true

/-- A vector destination that can be written: in range, full, no walker, and no register that the matrix engine has still to read
(R366). -/
def destReady (s : State) (x : Site) (r : Nat) : Bool :=
  vectorOk x.w r && (x.w.boundWalker r).isNone && (x.w.vreg r).full && !s.readsReg x.wid r

/-- The warp with its sources read (`stepped`) and the results committed that the slot holds. -/
def Site.read (x : Site) (rs : List Nat) : Warp := commitHeld (x.stepped rs) x.sel

/-- The sources and the scalars of an instruction are ready. -/
def sourcesReady (x : Site) (act : Mask) (vs : List (Nat × Bool)) (ss : List Nat) : Bool :=
  (vs.all fun v => sourceReady x act v.1) && ss.all scalarOk

/-- A destination of a long-latency instruction that no uncommitted result of the clause writes (R172). -/
def longReady (s : State) (x : Site) (ds : List Nat) : Bool := ds.all (destReady s x) && !ds.any (heldWritesV x.sl)

/-! The results of the families. -/

/-- The exact value of a finite number. -/
def Num.value : Num → Option Rat
  | .fin neg m e => some ((if neg then -1 else 1) * m * (2 : Rat) ^ e)
  | _ => none

/-- A scalar instruction of n words writes f of the registers into d and nothing else (R302-R304). -/
def ScalarDone (i : Instr) (n : Nat) (rs : List Nat) (d : Nat) (f : Warp → Word) : Prop :=
  ∀ s x, s.siteOf = some x → (d :: rs).all scalarOk → Completes i s x n [d] [] [] fun w => w.sreg d = f x.w

/-- A vector instruction completes in every state in which its sources, its scalars and its destination are ready. It writes f into the
active lanes of register d, which is full and without poison, and nothing else; the other lanes keep their values, and with no active lane
the poison stays as well (R171, R174, R322). Input walkers among its sources advance (R183). -/
def RegisterDone (i : Instr) (v : VForm) (vs : List (Nat × Bool)) (ss : List Nat) (d : Nat) (f : Site → Nat → Word) : Prop :=
  ∀ s x, s.siteOf = some x → sourcesReady x (v.act x) vs ss → destReady s x d →
    CompletesFrom i s s x v.n none (x.read (vs.map (·.1))) [] [d] [] fun w =>
      (w.vreg d).full = true ∧
      (w.vreg d).poison = (if v.act x = 0 then ((x.read (vs.map (·.1))).vreg d).poison else none) ∧ ∀ l, l < 32 →
        lane (w.vreg d).lanes l =
          if (v.act x).getLsbD l then f x l else lane ((x.read (vs.map (·.1))).vreg d).lanes l

/-- With a bound output walker in the place of d the instruction completes in every state in which its sources are ready and each active
lane's address has a place that is open to the core (`walkOpen`, which speaks of the state, the warp and the lanes alone): its results are
stored (`walkEnd`), the walker advances (R183, R184), and no register changes; `WalkerStores` says what the stores leave alone. -/
def WalkerDone (i : Instr) (v : VForm) (vs : List (Nat × Bool)) (ss : List Nat) (d : Nat) (f : Site → Nat → Word) : Prop :=
  ∀ s x k, s.siteOf = some x → sourcesReady x (v.act x) vs ss → vectorOk x.w d → x.w.boundWalker d = some k → isInput x.w k = false →
    let at_ := (s.stepInputs x x.w (vs.map (·.1))).1
    let y := x.withW (x.stepped (vs.map (·.1)))
    let res := [(k, lanesOf (f x))]
    at_.walkOpen y (v.act x) res = true →
    CompletesFrom i s (at_.walkEnd y (v.act x) res) x v.n none
      (commitHeld ((at_.walkEnd y (v.act x) res).absorb x (stepWalker y.w k)) x.sel) [] [] [] fun _ => True

/-- A fixed-latency vector instruction, with either kind of destination. -/
def VectorDone (i : Instr) (v : VForm) (vs : List (Nat × Bool)) (ss : List Nat) (d : Nat) (f : Site → Nat → Word) : Prop :=
  RegisterDone i v vs ss d f ∧ WalkerDone i v vs ss d f

/-- The same for a predicate result; p0 stays true in every lane (R284). -/
def PredDone (i : Instr) (v : VForm) (vs : List (Nat × Bool)) (ss : List Nat) (d : Nat) (f : Site → Nat → Bool) : Prop :=
  ∀ s x, s.siteOf = some x → sourcesReady x (v.act x) vs ss →
    CompletesFrom i s s x v.n none (x.read (vs.map (·.1))) [] [] [d] fun w => ∀ l, l < 32 →
      (w.preg d).getLsbD l =
        if d = 0 then true
        else if (v.act x).getLsbD l then f x l else ((x.read (vs.map (·.1))).preg d).getLsbD l

/-- A vector function (R331) of f issues: its destination is empty until the event that is due fills it (R173), and what is in flight
holds f of each active lane. -/
def LongDone (i : Instr) (r : Reg) (v : VForm) (f : Word → Word) : Prop :=
  ∀ s x, s.siteOf = some x → sourcesReady x (v.act x) [(r.a.toNat, r.fa)] [] → longReady s x [r.d.toNat] → x.w.longFlights < 8 →
    ∃ fl : Flight, fl.id = x.w.nextId ∧ fl.instr = i ∧ fl.dest = [r.d.toNat] ∧ fl.active = v.act x ∧ fl.bad = none ∧ fl.done = true ∧
      (∀ l, l < 32 → tget? fl.got l =
        if (v.act x).getLsbD l then some ((f (crossRead v (readLanes x.w r.a.toNat) l)).setWidth 64) else none) ∧
      CompletesWith i s s x v.n none (commitHeld (addFlight (x.stepped [r.a.toNat]) fl) x.sel) [] [] [] fun t _ =>
        (.registerFill, { w := x.wid, i := fl.id }) ∈ t.inflight

/-- Instruction i raises trap r and does nothing else: no register, no byte of memory and no other warp changes, the slot stays at the
instruction, and the trap is taken when the event that is due comes about (R241, R244). -/
def Raises (i : Instr) (s : State) (x : Site) (r : TrapRec) : Prop :=
  x.w.trap = none → ∃ t, exec i s = .next t ∧ Untouched id s t x.wid ∧ t.warp? x.wid = some { x.w with trap := some r } ∧
    (.trapTake, { w := x.wid }) ∈ t.inflight

/-- Instruction i waits: nothing changes but the note that it could not issue (R167). -/
def Waits (i : Instr) (s : State) : Prop := exec i s = .next { s with stalled := true }

/-- The trap of the whole instruction at a site (R241, R249). -/
def Site.trapOf (x : Site) (cause : Nat) (addr : DWord) (lanes : Mask) : TrapRec :=
  { cause := cause, slot := x.sel, addr := addr, lanes := lanes, instr := x.addr, aux := 0 }

/-! Addresses of memory instructions (R282, R344, R354). -/

/-- Lane l's offset: register a sign-extended, or the pair. -/
def laneOffset (x : Site) (m : Mm) (l : Nat) : DWord :=
  let lo := lane (readLanes x.w m.a.toNat) l
  if m.pair then pairVal lo (lane (readLanes x.w (m.a.toNat + 1)) l) else lo.signExtend 64

/-- The address that lane l of an access forms in its space. -/
def laneAddress (x : Site) (space : MemSpace) (m : Mm) (xm : Option Xm) (l : Nat) : Nat :=
  let base := x.w.spair m.base.toNat + laneOffset x m l
  let low := (xm.map (·.low)).getD 0
  match space with
  | .pool => (base + low.signExtend 64).toNat
  | .scratch => (base + low.signExtend 64).toNat % 2 ^ 32
  | .peer => (base + (low.extractLsb' 0 8).signExtend 64 * 4).toNat

/-! Where an output walker stores (R183, R184). -/

namespace State

/-- The places of the n memory bytes that a store of a core at a pool address changes: those at its home, or none when the core has the
line pinned and takes the store itself. -/
def storePlaces (s : State) (c : CoreId) (pa n : Nat) : List Nat :=
  if s.pinned c pa then []
  else match s.reach c.dieId pa with
    | .at_ h qa s => (List.range n).filterMap fun j => (s.homeAt h.dieId (qa + j)).map physKey
    | _ => []

/-- The physical bytes that the stores of a list change, each in the state in which it is performed. -/
def storeTargets (s : State) (x : Site) (ys : List (Nat × Lanes)) : List ((Nat × Nat) × Nat × Nat) → List Nat
  | [] => []
  | p :: ps => s.storePlaces x.core p.2.1 (walkSize (x.w.walker p.1.1).desc) ++ (s.walkPut x ys [p]).storeTargets x ys ps

/-- The physical bytes that the active lanes of an instruction store to through its output walkers. -/
def walkTargets (s : State) (x : Site) (act : Mask) (ys : List (Nat × Lanes)) : List Nat :=
  let (ls, s) := s.walkLooks x (walkLanes act ys)
  s.storeTargets x ys (s.walkPlaces x.core ls)

end State

end Sys2Proof.Machine
end

