-- ==== Sys2Proof/Certificates/Slice0/Obligations.lean ====
section
/-! DEFINITION. The statements about the model. -/

open Sys2Proof Sys2Proof.Machine

/-! Scalars, branches and special registers (R302-R318). -/

/-- Each two-source scalar instruction writes its result of R304 and R305 into d, and nothing else changes. The moves and immediate
forms of the scalar instructions, with the 11-bit immediate sign-extended or the 32-bit XI word, and NOP, which writes nothing
(R304, R306). The long forms leave no unused bit set, and the spec's own words decode to them. SCMP writes 1 or 0 by R305's ten
comparisons. -/
def Obligations.ScalarResults : Prop :=
  (let op : (Reg → Instr) → (Word → Word → Word) → Prop := fun i f =>
     ∀ r : Reg, ScalarDone (i r) 1 [r.a.toNat, r.b.toNat] r.d.toNat fun w => f (w.sreg r.a.toNat) (w.sreg r.b.toNat)
   op .sadd (fun a b => a + b) ∧ op .ssub (fun a b => a - b) ∧ op .smul (fun a b => a * b) ∧
   op .smulhi (fun a b => (a.signExtend 64 * b.signExtend 64).extractLsb' 32 32) ∧
   op .sand (fun a b => a &&& b) ∧ op .sor (fun a b => a ||| b) ∧ op .sxor (fun a b => a ^^^ b) ∧
   op .sshl (fun a b => if 32 ≤ b.toNat then 0 else a <<< b.toNat) ∧
   op .sshr (fun a b => if 32 ≤ b.toNat then 0 else a >>> b.toNat) ∧
   op .ssar (fun a b => if 32 ≤ b.toNat then (if a.msb then BitVec.allOnes 32 else 0) else a.sshiftRight b.toNat) ∧
   op .smin (fun a b => if a.sle b then a else b) ∧ op .smax (fun a b => if a.sle b then b else a) ∧
   op .sminn (fun a b => if a.ule b then a else b) ∧ op .smaxn (fun a b => if a.ule b then b else a) ∧
   op .scmp (fun a b => if a = b then 1 else 0) ∧
   ∀ (r : Reg) (x : Xr), x.minor.toNat ≤ 9 →
     ScalarDone (.scmpXr r x) 2 [r.a.toNat, r.b.toNat] r.d.toNat fun w =>
       let a := w.sreg r.a.toNat
       let b := w.sreg r.b.toNat
       let holds := [a == b, a != b, a.slt b, a.sle b, b.slt a, b.sle a, a.ult b, a.ule b, b.ult a, b.ule a]
       if holds.getD x.minor.toNat false then 1 else 0) ∧
  ((∀ r : Reg, ScalarDone (.smov r) 1 [r.a.toNat] r.d.toNat fun w => w.sreg r.a.toNat) ∧
   (∀ r : Ri, ScalarDone (.smovi r) 1 [] r.d.toNat fun _ => r.imm.signExtend 32) ∧
   (∀ (r : Ri) (x : Word), ScalarDone (.smoviXi r x) 2 [] r.d.toNat fun _ => x) ∧
   (∀ r : Ri, ScalarDone (.saddi r) 1 [r.a.toNat] r.d.toNat fun w => w.sreg r.a.toNat + r.imm.signExtend 32) ∧
   (∀ (r : Ri) (x : Word), ScalarDone (.saddiXi r x) 2 [r.a.toNat] r.d.toNat fun w => w.sreg r.a.toNat + x) ∧
   (∀ r : Ri, ScalarDone (.sandi r) 1 [r.a.toNat] r.d.toNat fun w => w.sreg r.a.toNat &&& r.imm.signExtend 32) ∧
   (∀ (r : Ri) (x : Word), ScalarDone (.sandiXi r x) 2 [r.a.toNat] r.d.toNat fun w => w.sreg r.a.toNat &&& x) ∧
   ∀ (r : Reg) s x, s.siteOf = some x → Completes (.nop r) s x 1 [] [] [] fun _ => True) ∧
  (∀ (r : Ri) (x : Word), (wellFormed (.smoviXi r x) → r.imm = 0) ∧ (wellFormed (.saddiXi r x) → r.imm = 0) ∧
     (wellFormed (.sandiXi r x) → r.imm = 0)) ∧
  (∀ (r : Reg) (x : Xr), wellFormed (.scmpXr r x) →
     x.c = 0 ∧ x.g = 0 ∧ x.neg = false ∧ x.fc = false ∧ x.bs = false ∧ x.mode = 0 ∧ x.amt = 0 ∧ x.clamp = false ∧ x.rnd = 0) ∧
  decode .ctrl 0x1A50A7FF none = .ok (.saddi { d := 20, a := 20, imm := -1 }) ∧
  decode .ctrl 0x840C0000 (some 0x400) = .ok (.smoviXi { d := 3, a := 0, imm := 0 } 0x400) ∧
  decode .ctrl 0xA6143070 (some 0x09000000) = .ok (.scmpXr { d := 5, a := 6, b := 7, g := 0, fa := false, fb := false }
    { minor := 9, c := 0, g := 0, neg := false, fc := false, bs := false, mode := 0, amt := 0, clamp := false, rnd := 0 })

/-- SREAD writes the special register that a names into d, and its high half into d + 1 where it has 64 bits (R297, R307). -/
def Obligations.SpecialReads : Prop :=
  ∀ (r : Reg) s x, s.siteOf = some x → r.d.toNat < 64 →
    let d := r.d.toNat
    let one : Nat → Word → Prop := fun n v => r.a.toNat = n → Completes (.sread r) s x 1 [d] [] [] fun w => w.sreg d = v
    let two : Nat → DWord → Prop := fun n v => r.a.toNat = n →
      Completes (.sread r) s x 1 [d, d + 1] [] [] fun w => w.sreg d = v.extractLsb' 0 32 ∧ w.sreg (d + 1) = v.extractLsb' 32 32
    let grid : (Launch → Nat) → Word := fun f => BitVec.ofNat 32 (((s.launch? x.w.block.grid).map f).getD 0)
    two 0x00 (s.pkg x.core.pkg).time ∧ two 0x01 x.w.timer ∧ one 0x02 (x.w.evp.setWidth 32) ∧ one 0x03 (x.w.evm.setWidth 32) ∧
    one 0x04 x.w.mxs ∧ one 0x05 x.w.rff ∧ one 0x06 x.w.rffol ∧ one 0x07 x.w.rffoh ∧ one 0x08 (x.w.tvec.extractLsb' 0 32) ∧
    one 0x09 (x.w.tvec.extractLsb' 32 32) ∧ one 0x0A ((s.tfa x.w).extractLsb' 0 32) ∧ one 0x0B ((s.tfa x.w).extractLsb' 32 32) ∧
    one 0x0C x.w.wef ∧ (∀ k, k < 8 → two (0x10 + k) (x.w.walker k).bound) ∧ one 0x20 (BitVec.ofNat 32 x.b.x) ∧
    one 0x21 (BitVec.ofNat 32 x.b.y) ∧ one 0x22 (BitVec.ofNat 32 x.b.z) ∧ one 0x23 (grid (·.gx)) ∧ one 0x24 (grid (·.gy)) ∧
    one 0x25 (grid (·.gz)) ∧ one 0x26 (BitVec.ofNat 32 x.w.block.gang) ∧ one 0x27 (BitVec.ofNat 32 x.w.block.j) ∧
    one 0x28 (BitVec.ofNat 32 x.w.num) ∧ one 0x29 (BitVec.ofNat 32 x.wid.slot) ∧
    one 0x2A (BitVec.ofNat 32 (endpointVal (coreEndpoint x.core))) ∧
    two 0x2B (((s.launch? x.w.block.grid).map (·.args)).getD 0)

/-- SWRITE to EVM, RFF, TVECL and TVECH: behind the commit of the clause the register holds what R297 and R308 let be written, and
no scalar, vector or predicate register has changed. -/
def Obligations.SpecialWrites : Prop :=
  ∀ (r : Reg) s x, s.siteOf = some x → r.a.toNat < 64 →
    let v : Word := x.w.sreg r.a.toNat
    let writes : Nat → Warp → Prop := fun n base =>
      r.d.toNat = n → CompletesFrom (.swrite r) s s x 1 none base [] [] [] fun _ => True
    let w := x.done
    writes 0x03 { w with evm := v.extractLsb' 0 8 } ∧ writes 0x05 { w with rff := 0, rffMore := 0, rffol := 0, rffoh := 0 } ∧
    writes 0x08 { w with tvec := pairVal (v &&& 0xFFFFFFFC) (w.tvec.extractLsb' 32 32) } ∧
    writes 0x09 { w with tvec := pairVal (w.tvec.extractLsb' 0 32) (v &&& 0x01FFFFFF) }

/-- SWRITE to WALKk binds the walker to the descriptor that it reads, at position zero with its end flags clear, and a write of zero
unbinds it, with its vector register full of zeros (R182, R183, R309). -/
def Obligations.WalkerBindings : Prop :=
  ∀ (r : Reg) s x k, s.siteOf = some x → r.a.toNat < 64 → k < 8 → r.d.toNat = 0x10 + k → (x.w.vreg (120 + k)).full = true →
    let v := x.w.spair r.a.toNat
    let idle := fun b d => ({ bound := b, desc := d, i0 := 0, i1 := 0, i2 := 0, pre := [] } : Walker)
    let put := fun (w : Warp) b d =>
      { w with walkers := lput w.walkers k (idle b d) default, wef := w.wef &&& ~~~((7 : Word) <<< (3 * k)) }
    (v = 0 → 16 ≤ x.w.units →
      CompletesFrom (.swrite r) s s x 1 none (put (x.done.setV (120 + k) zeroReg) 0 []) [] [] [] fun w =>
        w.boundWalker (120 + k) = none ∧ w.vreg (120 + k) = zeroReg) ∧
    ∀ desc s', v ≠ 0 → 16 ≤ x.w.units → threadBusy x.w x.sel = false → s.readVirtual 0 x.core 0 v.toNat 32 2 = .ok desc s' →
      walkDescOk desc = true →
      CompletesFrom (.swrite r) s s' x 1 none (put x.done v desc) [] [] [] fun w => w.boundWalker (120 + k) = some k

/-- BRA, BZ, BNZ, BLTZ, BGEZ, BRU with a uniform predicate, and BRW go to their target when their condition holds, else to the next
clause; they write no register (R311-R313, R315). CALL also writes the link pair (R316). CALLR, JMPR and RET go to the uniform
lane value of a, or to the address in the link pair (R316). -/
def Obligations.Branches : Prop :=
  (∀ (r : Br) s x, s.siteOf = some x →
     let target := x.wordAddr + (r.off.signExtend 64) * 4
     let goes : Instr → Bool → Prop := fun i taken =>
       CompletesFrom i s s x 1 (if taken then some target else none) x.done [] [] [] fun _ => True
     let c := x.w.sreg r.c.toNat
     goes (.bra r) true ∧
     (r.c.toNat < 64 → goes (.bz r) (c == 0) ∧ goes (.bnz r) (c != 0) ∧ goes (.bltz r) c.msb ∧ goes (.bgez r) (!c.msb)) ∧
     (∀ taken, (∀ l, l < 32 → x.sl.mask.getLsbD l = true → (x.w.preg r.c.toNat).getLsbD l = taken) → x.sl.mask ≠ 0 →
       goes (.bru r) taken) ∧
     goes (.brw r) (x.w.wef.getLsbD (3 * (r.c.toNat % 8) + r.c.toNat / 8 % 4) != r.c.getLsbD 5) ∧
     CompletesFrom (.call r) s s x 1 (some target) x.done [62, 63] [] [] fun w =>
       w.sreg 62 = x.nextClause.extractLsb' 0 32 ∧ w.sreg 63 = x.nextClause.extractLsb' 32 32 &&& 0x01FFFFFF) ∧
  (∀ r : Br, wellFormed (.bra r) → r.c = 0) ∧
  (∀ (r : Reg) s x, s.siteOf = some x →
     (∀ v : Word, sourcesReady x x.sl.mask [(r.a.toNat, r.fa)] [] → x.sl.mask ≠ 0 →
       (∀ l, l < 32 → x.sl.mask.getLsbD l = true → lane (readLanes x.w r.a.toNat) l = v) →
       let target := x.wordAddr.extractLsb' 32 32 ++ v
       CompletesFrom (.jmpr r) s s x 1 (some target) (x.read [r.a.toNat]) [] [] [] (fun _ => True) ∧
       CompletesFrom (.callr r) s s x 1 (some target) (x.read [r.a.toNat]) [62, 63] [] [] fun w =>
         w.sreg 62 = x.nextClause.extractLsb' 0 32 ∧ w.sreg 63 = x.nextClause.extractLsb' 32 32 &&& 0x01FFFFFF) ∧
     ((x.w.spair 62).toNat < 2 ^ 57 →
       CompletesFrom (.ret r) s s x 1 (some (x.w.spair 62)) x.done [] [] [] fun _ => True))


/-! Vectors (R321-R342). -/

/-- The source lane of each cross-lane mode: what lane l reads for a (R287). -/
def Obligations.CrossLaneModes : Prop :=
  ∀ (x : Xr) (a : Lanes) (l : Nat), l < 32 →
    let v := VForm.long x
    let n := x.amt.toNat
    let outside := if x.clamp then lane a l else 0
    (x.mode = 0 → crossRead v a l = lane a l) ∧
    (x.mode = 1 → crossRead v a l = lane a n) ∧
    (x.mode = 2 → crossRead v a l = lane a (Nat.xor l n)) ∧
    (x.mode = 3 → crossRead v a l = if n ≤ l then lane a (l - n) else outside) ∧
    (x.mode = 4 → crossRead v a l = if l + n ≤ 31 then lane a (l + n) else outside) ∧
    (x.mode = 5 → crossRead v a l = lane a ((l + n) % 32))

/-- Moves, and the one-source bit operations: each active lane of d gets its result of R325 and R326. Each form named here
completes: `exec` answers a next state whenever the sources are in range, full and without poison and the destination is ready,
or is an output walker whose lanes' places are open (R173, R174, R183, R184). -/
def Obligations.VectorMoves : Prop :=
  let one : (Reg → Instr) → (Reg → Xr → Instr) → (Word → Word) → Prop := fun i ix f =>
    (∀ r : Reg, VectorDone (i r) (VForm.short r) [(r.a.toNat, r.fa)] [] r.d.toNat fun x l => f (lane (readLanes x.w r.a.toNat) l)) ∧
    ∀ (r : Reg) (e : Xr), VectorDone (ix r e) (VForm.long e) [(r.a.toNat, r.fa)] [] r.d.toNat fun x l =>
      f (crossRead (VForm.long e) (readLanes x.w r.a.toNat) l)
  one .vmov .vmovXr (fun a => a) ∧
  one .popc .popcXr (fun a => BitVec.ofNat 32 ((List.range 32).countP fun i => a.getLsbD i)) ∧
  one .clz .clzXr (fun a => a.clz) ∧ one .brev .brevXr (fun a => a.reverse) ∧
  (∀ r : Ri, VectorDone (.vmovi r) (VForm.plain 1) [] [] r.d.toNat fun _ _ => r.imm.signExtend 32) ∧
  (∀ (r : Ri) (e : Word), VectorDone (.vmoviXi r e) (VForm.plain 2) [] [] r.d.toNat fun _ _ => e) ∧
  (∀ r : Reg, VectorDone (.vmovs r) (VForm.short r) [] [r.a.toNat] r.d.toNat fun x _ => x.w.sreg r.a.toNat) ∧
  ∀ (r : Reg) (e : Xr), VectorDone (.vmovsXr r e) (VForm.long e) [] [r.a.toNat] r.d.toNat fun x _ => x.w.sreg r.a.toNat

/-- The two-source integer instructions write a(l) op b, with b lane l's or the scalar's, in their short and long forms (R326). The
immediate forms of the integer instructions, whose shifts are by 0 to 31 (R328). Each form named here completes: `exec` answers
a next state whenever the sources are in range, full and without poison and the destination is ready, or is an output walker
whose lanes' places are open (R173, R174, R183, R184). -/
def Obligations.IntegerResults : Prop :=
  (let short : (Reg → Instr) → (Word → Word → Word) → Prop := fun i f =>
     ∀ r : Reg, VectorDone (i r) (VForm.short r) [(r.a.toNat, r.fa), (r.b.toNat, r.fb)] [] r.d.toNat fun x l =>
       f (lane (readLanes x.w r.a.toNat) l) (lane (readLanes x.w r.b.toNat) l)
   let long : (Reg → Xr → Instr) → (Xr → Word → Word → Word) → Prop := fun i f => ∀ (r : Reg) (e : Xr),
     let v := VForm.long e
     VectorDone (i r e) v ((r.a.toNat, r.fa) :: if e.bs then [] else [(r.b.toNat, r.fb)]) (if e.bs then [r.b.toNat] else []) r.d.toNat
       fun x l => f e (crossRead v (readLanes x.w r.a.toNat) l) (if e.bs then x.w.sreg r.b.toNat else lane (readLanes x.w r.b.toNat) l)
   let both : (Reg → Instr) → (Reg → Xr → Instr) → (Word → Word → Word) → Prop := fun i ix f => short i f ∧ long ix fun _ => f
   let high : Word → Word → Word := fun a b => (a.signExtend 64 * b.signExtend 64).extractLsb' 32 32
   let highN : Word → Word → Word := fun a b => (a.setWidth 64 * b.setWidth 64).extractLsb' 32 32
   both .iadd .iaddXr (fun a b => a + b) ∧ both .isub .isubXr (fun a b => a - b) ∧ both .imul .imulXr (fun a b => a * b) ∧
   short .imulhi high ∧ long .imulhiXr (fun e => if e.minor = 0 then high else highN) ∧
   short .imin (fun a b => if a.sle b then a else b) ∧
   long .iminXr (fun e a b => if (if e.minor = 0 then a.sle b else a.ule b) then a else b) ∧
   short .imax (fun a b => if a.sle b then b else a) ∧
   long .imaxXr (fun e a b => if (if e.minor = 0 then a.sle b else a.ule b) then b else a) ∧
   both .vand .vandXr (fun a b => a &&& b) ∧ both .vor .vorXr (fun a b => a ||| b) ∧ both .vxor .vxorXr (fun a b => a ^^^ b) ∧
   both .shl .shlXr (fun a b => if 32 ≤ b.toNat then 0 else a <<< b.toNat) ∧
   both .shr .shrXr (fun a b => if 32 ≤ b.toNat then 0 else a >>> b.toNat) ∧
   both .sar .sarXr (fun a b => if 32 ≤ b.toNat then (if a.msb then BitVec.allOnes 32 else 0) else a.sshiftRight b.toNat)) ∧
  (let imm : (Ri → Instr) → (Ri → Word → Instr) → (Word → Word → Word) → Prop := fun i ix f =>
     (∀ r : Ri, VectorDone (i r) (VForm.plain 1) [(r.a.toNat, false)] [] r.d.toNat fun x l =>
       f (lane (readLanes x.w r.a.toNat) l) (r.imm.signExtend 32)) ∧
     ∀ (r : Ri) (e : Word), VectorDone (ix r e) (VForm.plain 2) [(r.a.toNat, false)] [] r.d.toNat fun x l =>
       f (lane (readLanes x.w r.a.toNat) l) e
   imm .addi .addiXi (fun a b => a + b) ∧ imm .andi .andiXi (fun a b => a &&& b) ∧
   imm .shli .shliXi (fun a b => if 32 ≤ b.toNat then 0 else a <<< b.toNat) ∧
   imm .shri .shriXi (fun a b => if 32 ≤ b.toNat then 0 else a >>> b.toNat)) ∧
  (∀ r : Ri, (wellFormed (.shli r) → (r.imm.signExtend 32 : Word).toNat ≤ 31) ∧ (wellFormed (.shri r) → (r.imm.signExtend 32 : Word).toNat ≤ 31)) ∧
  (∀ (r : Ri) (e : Word), (wellFormed (.shliXi r e) → e.toNat ≤ 31) ∧ (wellFormed (.shriXi r e) → e.toNat ≤ 31) ∧
     ∀ i, i ∈ [Instr.addiXi r e, .andiXi r e, .shliXi r e, .shriXi r e] → wellFormed i → r.imm = 0)

/-- IMAD, and the bit fields that BFE extracts and BFI inserts, bit by bit (R326, R327). Each form named here completes: `exec`
answers a next state whenever the sources are in range, full and without poison and the destination is ready, or is an output
walker whose lanes' places are open (R173, R174, R183, R184). -/
def Obligations.BitFields : Prop :=
  let from_ : Word → Nat := fun b => (b.extractLsb' 0 8).toNat
  let len : Word → Nat := fun b => if 32 ≤ from_ b then 0 else min (b.extractLsb' 8 8).toNat (32 - from_ b)
  let bfeN : Word → Word → Word := fun a b => maskOf fun i => decide (i < len b) && a.getLsbD (from_ b + i)
  let bfeS : Word → Word → Word := fun a b => maskOf fun i => len b != 0 && a.getLsbD (from_ b + min i (len b - 1))
  let bfi : Word → Word → Word → Word := fun a b c => maskOf fun i =>
    if from_ b ≤ i ∧ i < from_ b + len b then a.getLsbD (i - from_ b) else c.getLsbD i
  let vb : Reg → Xr → List (Nat × Bool) := fun r e => (r.a.toNat, r.fa) :: if e.bs then [] else [(r.b.toNat, r.fb)]
  let sb : Reg → Xr → List Nat := fun r e => if e.bs then [r.b.toNat] else []
  let a : Reg → Xr → Site → Nat → Word := fun r e x l => crossRead (VForm.long e) (readLanes x.w r.a.toNat) l
  let b : Reg → Xr → Site → Nat → Word := fun r e x l => if e.bs then x.w.sreg r.b.toNat else lane (readLanes x.w r.b.toNat) l
  let c : Xr → Site → Nat → Word := fun e x l => lane (readLanes x.w e.c.toNat) l
  (∀ r : Reg, VectorDone (.bfe r) (VForm.short r) [(r.a.toNat, r.fa), (r.b.toNat, r.fb)] [] r.d.toNat fun x l =>
    bfeN (lane (readLanes x.w r.a.toNat) l) (lane (readLanes x.w r.b.toNat) l)) ∧
  (∀ (r : Reg) (e : Xr), VectorDone (.bfeXr r e) (VForm.long e) (vb r e) (sb r e) r.d.toNat fun x l =>
    (if e.minor = 0 then bfeN else bfeS) (a r e x l) (b r e x l)) ∧
  (∀ (r : Reg) (e : Xr), VectorDone (.bfi r e) (VForm.long e) (vb r e ++ [(e.c.toNat, e.fc)]) (sb r e) r.d.toNat fun x l =>
    bfi (a r e x l) (b r e x l) (c e x l)) ∧
  ∀ (r : Reg) (e : Xr), VectorDone (.imad r e) (VForm.long e) (vb r e ++ [(e.c.toNat, e.fc)]) (sb r e) r.d.toNat fun x l =>
    a r e x l * b r e x l + c e x l

/-- FADD, FSUB, FMUL, FFMA, FMIN and FMAX write the FP32 result of the mode that XR [1:0] selects, RNE in the short form (R281,
R329, R330); `FloatRounding` and `FloatSpecials` say what the results are. Each form named here completes: `exec` answers a next
state whenever the sources are in range, full and without poison and the destination is ready, or is an output walker whose
lanes' places are open (R173, R174, R183, R184). -/
def Obligations.FloatResults : Prop :=
  let rm : Xr → Rm := fun e => if e.rnd = 0 then .rne else if e.rnd = 1 then .rz else if e.rnd = 2 then .rd else .ru
  let two : (Reg → Instr) → (Reg → Xr → Instr) → (Rm → Word → Word → Word) → Prop := fun i ix f =>
    (∀ r : Reg, VectorDone (i r) (VForm.short r) [(r.a.toNat, r.fa), (r.b.toNat, r.fb)] [] r.d.toNat fun x l =>
      f .rne (lane (readLanes x.w r.a.toNat) l) (lane (readLanes x.w r.b.toNat) l)) ∧
    ∀ (r : Reg) (e : Xr), VectorDone (ix r e) (VForm.long e) ((r.a.toNat, r.fa) :: if e.bs then [] else [(r.b.toNat, r.fb)])
      (if e.bs then [r.b.toNat] else []) r.d.toNat fun x l =>
        f (rm e) (crossRead (VForm.long e) (readLanes x.w r.a.toNat) l)
          (if e.bs then x.w.sreg r.b.toNat else lane (readLanes x.w r.b.toNat) l)
  two .fadd .faddXr fadd ∧ two .fsub .fsubXr fsub ∧ two .fmul .fmulXr fmul ∧ two .fmin .fminXr (fun _ => fmin) ∧
  two .fmax .fmaxXr (fun _ => fmax) ∧
  ∀ (r : Reg) (e : Xr), VectorDone (.ffma r e) (VForm.long e)
    (((r.a.toNat, r.fa) :: if e.bs then [] else [(r.b.toNat, r.fb)]) ++ [(e.c.toNat, e.fc)])
    (if e.bs then [r.b.toNat] else []) r.d.toNat fun x l =>
      ffma (rm e) (crossRead (VForm.long e) (readLanes x.w r.a.toNat) l)
        (if e.bs then x.w.sreg r.b.toNat else lane (readLanes x.w r.b.toNat) l) (lane (readLanes x.w e.c.toNat) l)

/-- Correct rounding (R329): where the exact sum, difference, product or fused result of finite operands rounds to a finite value,
that value is no farther from it than any FP32 value under RNE, and the nearest on its side under RZ, RD and RU. -/
def Obligations.FloatRounding : Prop :=
  let ok : Rm → Word → Rat → Prop := fun rm r x => ∀ q, (f32Num r).value = some q →
    ∀ y p, (f32Num y).value = some p →
      match rm with
      | .rne => |q - x| ≤ |p - x|
      | .rz => |q| ≤ |x| ∧ 0 ≤ q * x ∧ (|p| ≤ |x| → 0 ≤ p * x → |p| ≤ |q|)
      | .rd => q ≤ x ∧ (p ≤ x → p ≤ q)
      | .ru => x ≤ q ∧ (x ≤ p → q ≤ p)
  ∀ rm a b c x y z, (f32Num a).value = some x → (f32Num b).value = some y → (f32Num c).value = some z →
    ok rm (fadd rm a b) (x + y) ∧ ok rm (fsub rm a b) (x - y) ∧ ok rm (fmul rm a b) (x * y) ∧ ok rm (ffma rm a b c) (x * y + z)

/-- Special operands (R329, R330): a NaN or an invalid operation gives 7FC00000h, an infinity stays one, the sign of an exact zero
sum, and MIN and MAX with −0 below +0. -/
def Obligations.FloatSpecials : Prop :=
  let nan : Word → Prop := fun a => 0x7F800000 < a.toNat % 2 ^ 31
  let fin : Word → Prop := fun a => a.toNat % 2 ^ 31 < 0x7F800000
  let inf : Word → Prop := fun a => a.toNat % 2 ^ 31 = 0x7F800000
  let zero : Word → Prop := fun a => a.toNat % 2 ^ 31 = 0
  ∀ rm a b c,
    (nan a ∨ nan b → fadd rm a b = 0x7FC00000 ∧ fsub rm a b = 0x7FC00000 ∧ fmul rm a b = 0x7FC00000 ∧ fmin a b = 0x7FC00000 ∧
      fmax a b = 0x7FC00000) ∧
    (nan a ∨ nan b ∨ nan c → ffma rm a b c = 0x7FC00000) ∧
    (inf a → inf b → fadd rm a b = if a = b then a else 0x7FC00000) ∧
    (inf a → fin b → fadd rm a b = a ∧ fsub rm a b = a) ∧
    (inf a → zero b → fmul rm a b = 0x7FC00000 ∧ fmul rm b a = 0x7FC00000 ∧ ffma rm a b c = 0x7FC00000) ∧
    (inf a → inf b ∨ (fin b ∧ ¬zero b) → fmul rm a b = (0x7F800000 ||| ((a ^^^ b) &&& 0x80000000))) ∧
    (zero a → zero b → fadd rm a b = if a = b then a else if rm = .rd then 0x80000000 else 0) ∧
    (fin a → ¬zero a → fsub rm a a = if rm = .rd then 0x80000000 else 0) ∧
    fadd rm a b = fadd rm b a ∧ fmul rm a b = fmul rm b a ∧
    fmin 0x80000000 0 = 0x80000000 ∧ fmax 0x80000000 0 = 0 ∧ fmin 0 0x80000000 = 0x80000000 ∧ fmax 0 0x80000000 = 0

/-- FRCP, FRSQ, FSQRT, FEX2 and FLG2 complete, and issue, in every state whose sources and destination are ready, with the correctly
rounded function of each active lane in flight (R323, R331). Special values and exact cases of the five functions (R331). Rests
on the model's choices of log 17. -/
def Obligations.LongFunctions : Prop :=
  (let rm : Xr → Rm := fun e => if e.rnd = 0 then .rne else if e.rnd = 1 then .rz else if e.rnd = 2 then .rd else .ru
   let one : (Reg → Instr) → (Reg → Xr → Instr) → (Rm → Word → Word) → Prop := fun i ix f =>
     (∀ r : Reg, LongDone (i r) r (VForm.short r) (f .rne)) ∧ ∀ (r : Reg) (e : Xr), LongDone (ix r e) r (VForm.long e) (f (rm e))
   one .frcp .frcpXr frcp ∧ one .frsq .frsqXr frsq ∧ one .fsqrt .fsqrtXr fsqrt ∧ one .fex2 .fex2Xr fex2 ∧ one .flg2 .flg2Xr flg2) ∧
  (let nan : Word := 0x7FC00000
   let table : (Rm → Word → Word) → Word → Word → Word → Word → Word → Prop := fun f pinf ninf pzero nzero one =>
     ∀ rm, f rm 0x7F800000 = pinf ∧ f rm 0xFF800000 = ninf ∧ f rm 0 = pzero ∧ f rm 0x80000000 = nzero ∧ f rm 0x3F800000 = one ∧
       ∀ a : Word, 0x7F800000 < a.toNat % 2 ^ 31 → f rm a = nan
   table frcp 0 0x80000000 0x7F800000 0xFF800000 0x3F800000 ∧ table frsq 0 nan 0x7F800000 0xFF800000 0x3F800000 ∧
   table fsqrt 0x7F800000 nan 0 0x80000000 0x3F800000 ∧ table fex2 0x7F800000 0 0x3F800000 0x3F800000 0x40000000 ∧
   table flg2 0x7F800000 nan 0xFF800000 0xFF800000 0 ∧
   (∀ rm (a : Word), a.msb = true → 0 < a.toNat % 2 ^ 31 → a.toNat % 2 ^ 31 < 0x7F800000 →
     frsq rm a = nan ∧ fsqrt rm a = nan ∧ flg2 rm a = nan) ∧
   (∀ rm (a : Word) x r, (f32Num a).value = some x → 0 < x → (f32Num (fsqrt rm a)).value = some r → r * r = x ∨
     match rm with
     | .rz => r * r < x
     | .rd => r * r < x
     | .ru => x < r * r
     | .rne => True))

/-- ICMP, FCMP, PSET and VOTE write their predicate in the active lanes (R332, R333, R340). FP32 values compare by sign and
magnitude, with equal zeros. SEL, RFL, LANEID, PACK4, UNPACK4 and BALLOT (R333, R337-R339, R341, R342). Each form named here
completes: `exec` answers a next state whenever the sources are in range, full and without poison and the destination is ready,
or is an output walker whose lanes' places are open (R173, R174, R183, R184). -/
def Obligations.LaneResults : Prop :=
  (let vb : Reg → Xr → List (Nat × Bool) := fun r e => (r.a.toNat, r.fa) :: if e.bs then [] else [(r.b.toNat, r.fb)]
   let sb : Reg → Xr → List Nat := fun r e => if e.bs then [r.b.toNat] else []
   let a : Reg → Xr → Site → Nat → Word := fun r e x l => crossRead (VForm.long e) (readLanes x.w r.a.toNat) l
   let b : Reg → Xr → Site → Nat → Word := fun r e x l => if e.bs then x.w.sreg r.b.toNat else lane (readLanes x.w r.b.toNat) l
   let ints : Word → Word → List Bool := fun a b =>
     [a == b, a != b, a.slt b, a.sle b, b.slt a, b.sle a, a.ult b, a.ule b, b.ult a, b.ule a]
   let nan : Word → Bool := fun w => decide (0x7F800000 < w.toNat % 2 ^ 31)
   let key : Word → Int := fun w => if w.msb then -((w.toNat % 2 ^ 31 : Nat) : Int) else ((w.toNat % 2 ^ 31 : Nat) : Int)
   let floats : Word → Word → List Bool := fun a b =>
     let ok := !nan a && !nan b
     [ok && decide (key a = key b), !(ok && decide (key a = key b)), ok && decide (key a < key b), ok && decide (key a ≤ key b),
      ok && decide (key b < key a), ok && decide (key b ≤ key a)]
   let some_ : Reg → Site → Mask → Bool := fun r x act => (List.range 32).any fun q => act.getLsbD q && (x.w.preg r.a.toNat).getLsbD q
   let all_ : Reg → Site → Mask → Bool := fun r x act => (List.range 32).all fun q => !act.getLsbD q || (x.w.preg r.a.toNat).getLsbD q
   (∀ r : Reg, PredDone (.icmp r) (VForm.short r) [(r.a.toNat, r.fa), (r.b.toNat, r.fb)] [] r.d.toNat fun x l =>
     lane (readLanes x.w r.a.toNat) l == lane (readLanes x.w r.b.toNat) l) ∧
   (∀ (r : Reg) (e : Xr), e.minor.toNat ≤ 9 → PredDone (.icmpXr r e) (VForm.long e) (vb r e) (sb r e) r.d.toNat fun x l =>
     (ints (a r e x l) (b r e x l)).getD e.minor.toNat false) ∧
   (∀ r : Reg, PredDone (.fcmp r) (VForm.short r) [(r.a.toNat, r.fa), (r.b.toNat, r.fb)] [] r.d.toNat fun x l =>
     (floats (lane (readLanes x.w r.a.toNat) l) (lane (readLanes x.w r.b.toNat) l)).getD 0 false) ∧
   (∀ (r : Reg) (e : Xr), e.minor.toNat ≤ 5 → PredDone (.fcmpXr r e) (VForm.long e) (vb r e) (sb r e) r.d.toNat fun x l =>
     (floats (a r e x l) (b r e x l)).getD e.minor.toNat false) ∧
   (∀ r : Reg, PredDone (.pset r) (VForm.short r) [(r.a.toNat, r.fa)] [] r.d.toNat fun x l => lane (readLanes x.w r.a.toNat) l != 0) ∧
   (∀ (r : Reg) (e : Xr), PredDone (.psetXr r e) (VForm.long e) [(r.a.toNat, r.fa)] [] r.d.toNat fun x l => a r e x l != 0) ∧
   (∀ r : Reg, PredDone (.vote r) (VForm.short r) [] [] r.d.toNat fun x _ => some_ r x ((VForm.short r).act x)) ∧
   ∀ (r : Reg) (e : Xr), e.minor.toNat ≤ 1 → PredDone (.voteXr r e) (VForm.long e) [] [] r.d.toNat fun x _ =>
     if e.minor = 0 then some_ r x ((VForm.long e).act x) else all_ r x ((VForm.long e).act x)) ∧
  (let vb : Reg → Xr → List (Nat × Bool) := fun r e => (r.a.toNat, r.fa) :: if e.bs then [] else [(r.b.toNat, r.fb)]
   let sb : Reg → Xr → List Nat := fun r e => if e.bs then [r.b.toNat] else []
   let two : Reg → List (Nat × Bool) := fun r => [(r.a.toNat, r.fa), (r.b.toNat, r.fb)]
   let a0 : Reg → Site → Nat → Word := fun r x l => lane (readLanes x.w r.a.toNat) l
   let b0 : Reg → Site → Nat → Word := fun r x l => lane (readLanes x.w r.b.toNat) l
   let a : Reg → Xr → Site → Nat → Word := fun r e x l => crossRead (VForm.long e) (readLanes x.w r.a.toNat) l
   let b : Reg → Xr → Site → Nat → Word := fun r e x l => if e.bs then x.w.sreg r.b.toNat else lane (readLanes x.w r.b.toNat) l
   let first : Mask → Nat := fun m => ((List.range 32).find? fun q => m.getLsbD q).getD 0
   let pack : (Nat → Word) → (Nat → Word) → Nat → Word := fun a b l =>
     maskOf fun k => ((if l % 8 < 4 then a else b) (8 * (l % 4) + k / 4)).getLsbD (k % 4)
   let code : Word → Nat → Nat := fun w l => (w.extractLsb' (4 * (l % 8)) 4).toNat
   (∀ (r : Reg) (e : Xr), VectorDone (.sel r e) (VForm.long e) (vb r e) (sb r e) r.d.toNat fun x l =>
     if (x.w.preg e.c.toNat).getLsbD l then a r e x l else b r e x l) ∧
   (∀ r : Reg, VectorDone (.rfl r) (VForm.short r) [(r.a.toNat, r.fa)] [] r.d.toNat fun x _ =>
     a0 r x (first ((VForm.short r).act x))) ∧
   (∀ (r : Reg) (e : Xr), VectorDone (.rflXr r e) (VForm.long e) [(r.a.toNat, r.fa)] [] r.d.toNat fun x _ =>
     a r e x (first ((VForm.long e).act x))) ∧
   (∀ r : Reg, VectorDone (.laneid r) (VForm.short r) [] [] r.d.toNat fun _ l => BitVec.ofNat 32 l) ∧
   (∀ (r : Reg) (e : Xr), e.minor.toNat ≤ 1 → VectorDone (.laneidXr r e) (VForm.long e) [] [] r.d.toNat fun x l =>
     BitVec.ofNat 32 (if e.minor = 0 then l else x.b.laneMap.getD (32 * x.w.num + l) 0)) ∧
   (∀ r : Reg, VectorDone (.pack4 r) (VForm.short r) (two r) [] r.d.toNat fun x l => pack (a0 r x) (b0 r x) l) ∧
   (∀ (r : Reg) (e : Xr), VectorDone (.pack4Xr r e) (VForm.long e) (vb r e) (sb r e) r.d.toNat fun x l => pack (a r e x) (b r e x) l) ∧
   (∀ r : Reg, VectorDone (.unpack4 r) (VForm.short r) (two r) [] r.d.toNat fun x l => unpack4 (code (a0 r x (l / 8)) l) (b0 r x l)) ∧
   (∀ (r : Reg) (e : Xr), VectorDone (.unpack4Xr r e) (VForm.long e) (vb r e) (sb r e) r.d.toNat fun x l =>
     unpack4 (code (a r e x (l / 8)) l) (b r e x l)) ∧
   (∀ (r : Reg) s x, s.siteOf = some x → r.d.toNat < 64 → Completes (.ballot r) s x 1 [r.d.toNat] [] [] fun w =>
     w.sreg r.d.toNat = x.sl.mask &&& x.w.preg r.g.toNat &&& x.w.preg r.a.toNat) ∧
   ∀ (r : Reg) (e : Xr) s x, s.siteOf = some x → r.d.toNat < 64 → Completes (.ballotXr r e) s x 2 [r.d.toNat] [] [] fun w =>
     w.sreg r.d.toNat = x.sl.mask &&& (if e.neg then ~~~(x.w.preg e.g.toNat) else x.w.preg e.g.toNat) &&& x.w.preg r.a.toNat)

/-- UNPACK4 of a code (R228, R338): a reserved metadata word or a NaN scale gives 7FC00000h; a zero code gives +0 under a finite
scale and 7FC00000h under an infinite one; any other code gives the FP32 value nearest to the code's value times the scale, or
an infinity. -/
def Obligations.UnpackValues : Prop :=
  let nan : Word := 0x7FC00000
  let lists : List (List Rat) := [[0, 1, 2, 3, 4, 5, 6, 7], [0, 1 / 2, 1, 3 / 2, 2, 3, 4, 6], [0, 1 / 8, 1 / 4, 1 / 2, 1, 2, 4, 8],
    [0, 1, 2, 3, 4, 6, 8, 12]]
  let val : Nat → Nat → Rat := fun t c =>
    if t = 0 then (if c < 8 then (c : Rat) else (c : Rat) - 16) else (if c < 8 then 1 else -1) * (lists.getD t []).getD (c % 8) 0
  ∀ (c : Nat) (m : Word), c < 16 →
    let sc := m.extractLsb' 0 16
    let v := val (m.extractLsb' 16 2).toNat c
    (m.extractLsb' 18 14 ≠ 0 ∨ 0x7F80 < sc.toNat % 2 ^ 15 → unpack4 c m = nan) ∧
    (m.extractLsb' 18 14 = 0 → sc.toNat % 2 ^ 15 = 0x7F80 →
      unpack4 c m = if v = 0 then nan else if (v < 0) ≠ (sc.msb = true) then 0xFF800000 else 0x7F800000) ∧
    ∀ k, m.extractLsb' 18 14 = 0 → (bf16.num sc.toNat).value = some k →
      (v = 0 → unpack4 c m = 0) ∧
      (v ≠ 0 → ∀ q, (f32Num (unpack4 c m)).value = some q → ∀ y p, (f32Num y).value = some p → |q - v * k| ≤ |p - v * k|)

/-- CVT reads a register or a pair, converts once, and writes a register or a pair, or stores a 32-bit result through an output
walker (R183, R334). CVT completes: `exec` answers a next state whenever the sources are in range, full and without poison and
the destination is ready, or is an output walker whose lanes' places are open (R173, R174, R183, R184). -/
def Obligations.ConvertResults : Prop :=
  ∀ (r : Reg) (e : Xr),
    let v := VForm.long e
    let dst := e.minor.toNat / 16
    let src := e.minor.toNat % 16
    let rm : Rm := if e.rnd = 0 then .rne else if e.rnd = 1 then .rz else if e.rnd = 2 then .rd else .ru
    let as := if 13 ≤ src then [r.a.toNat, r.a.toNat + 1] else [r.a.toNat]
    let bs := if dst = 8 ∧ e.bs = false then [(r.b.toNat, r.fb)] else []
    let vs := as.map (fun q => (q, r.fa)) ++ bs
    let ss := if e.bs then [r.b.toNat] else []
    let ds := if 13 ≤ dst then [r.d.toNat, r.d.toNat + 1] else [r.d.toNat]
    let a := fun (x : Site) (l : Nat) => (crossRead v (readLanes x.w r.a.toNat) l).toNat +
      if 13 ≤ src then 2 ^ 32 * (crossRead v (readLanes x.w (r.a.toNat + 1)) l).toNat else 0
    let b := fun (x : Site) (l : Nat) =>
      if dst = 8 then (if e.bs then x.w.sreg r.b.toNat else lane (readLanes x.w r.b.toNat) l) else 0
    let val := fun x l => cvt e.minor.toNat rm (a x l) (b x l)
    dst ≤ 14 → src ≤ 14 →
    (∀ s x, s.siteOf = some x → sourcesReady x (v.act x) vs ss → ds.all (destReady s x) →
      let old := x.read (as ++ bs.map (·.1))
      CompletesFrom (.cvt r e) s s x 2 none old [] ds [] fun w =>
        (∀ d ∈ ds, (w.vreg d).full = true ∧ (w.vreg d).poison = if v.act x = 0 then (old.vreg d).poison else none) ∧
        ∀ l, l < 32 →
          lane (w.vreg r.d.toNat).lanes l =
            (if (v.act x).getLsbD l then BitVec.ofNat 32 (val x l) else lane (old.vreg r.d.toNat).lanes l) ∧
          (13 ≤ dst → lane (w.vreg (r.d.toNat + 1)).lanes l =
            if (v.act x).getLsbD l then BitVec.ofNat 32 (val x l / 2 ^ 32) else lane (old.vreg (r.d.toNat + 1)).lanes l)) ∧
    (dst ≤ 12 → WalkerDone (.cvt r e) v vs ss r.d.toNat fun x l => BitVec.ofNat 32 (val x l))

/-- Conversions from an integer or an FP32 value to an integer: the exact value, rounded in the mode, limited to the destination's
range, and sign-extended to the register where the type is .i8 or .i16 (R334, R335). -/
def Obligations.IntegerConversions : Prop :=
  let types : List (Nat × Nat × Bool) :=
    [(0, 32, true), (1, 32, false), (9, 8, true), (10, 8, false), (11, 16, true), (12, 16, false), (13, 64, true), (14, 64, false)]
  let limit : Nat → Bool → Int → Int := fun w s v =>
    if s then max (-2 ^ (w - 1)) (min (2 ^ (w - 1) - 1) v) else max 0 (min (2 ^ w - 1) v)
  let code : Nat → Bool → Int → Nat := fun w s v => (v % 2 ^ (if s ∧ w < 32 then 32 else w)).toNat
  let round : Rm → Rat → Int := fun rm x =>
    match rm with
    | .rd => ⌊x⌋
    | .ru => ⌈x⌉
    | .rz => if x < 0 then ⌈x⌉ else ⌊x⌋
    | .rne => if x - ⌊x⌋ < 1 / 2 then ⌊x⌋ else if 1 / 2 < x - ⌊x⌋ then ⌈x⌉ else if ⌊x⌋ % 2 = 0 then ⌊x⌋ else ⌈x⌉
  ∀ d ∈ types, ∀ rm b,
    (∀ s ∈ types, ∀ a : Nat, cvt (16 * d.1 + s.1) rm a b =
      code d.2.1 d.2.2 (limit d.2.1 d.2.2 (if s.2.2 then toSigned s.2.1 a else ((a % 2 ^ s.2.1 : Nat) : Int)))) ∧
    (∀ (a : Word) x, (f32Num a).value = some x →
      cvt (16 * d.1 + 2) rm a.toNat b = code d.2.1 d.2.2 (limit d.2.1 d.2.2 (round rm x))) ∧
    (∀ a : Word, 0x7F800000 < a.toNat % 2 ^ 31 → cvt (16 * d.1 + 2) rm a.toNat b = 0) ∧
    cvt (16 * d.1 + 2) rm 0x7F800000 b = code d.2.1 d.2.2 (if d.2.2 then 2 ^ (d.2.1 - 1) - 1 else 2 ^ d.2.1 - 1) ∧
    cvt (16 * d.1 + 2) rm 0xFF800000 b = code d.2.1 d.2.2 (if d.2.2 then -2 ^ (d.2.1 - 1) else 0)

/-! Memory instructions (R343-R361): their issue. -/

/-- Each lane-by-lane memory instruction issues, with what R252 captures in flight, its destinations empty, and its first look at
its miss slots due, in every state in which its operands are ready, its addresses are aligned and in their space, and there is
room and a tag for each request that is taken one for at issue (R44, R66, R170, R245, R343-R347); while a tag is missing it
waits (R44). Rests on the model's choices of log 13, 153. -/
def Obligations.MemoryIssue : Prop :=
  let issues : Instr → MemSpace → MemKind → Nat → Mm → Option Xm → Prop := fun i space kind minor m xm =>
    ∀ s x, s.siteOf = some x →
      let wide : Bool := match kind with
        | .load => minor == 1
        | .store => minor == 1
        | .atom => decide (2 ≤ minor % 4)
        | .cas => minor == 1
      let n := (if wide then 2 else 1) * (if kind = .cas then 2 else 1)
      let off := if m.pair then [m.a.toNat, m.a.toNat + 1] else [m.a.toNat]
      let data := if kind = .load then [] else (List.range n).map (m.d.toNat + ·)
      let dest := if kind = .store then [] else if wide then [m.d.toNat, m.d.toNat + 1] else [m.d.toNat]
      let peer := if space = .peer then (xm.map fun e => [(e.low.extractLsb' 8 7).toNat]).getD [] else []
      let act := memAct x m xm
      let size := if wide then 8 else match kind, minor with
        | .load, 2 => 1
        | .load, 3 => 1
        | .load, 4 => 2
        | .load, 5 => 2
        | .store, 2 => 1
        | .store, 4 => 2
        | _, _ => 4
      let addr := laneAddress x space m xm
      let datum := fun (l k : Nat) => if wide then
          pairVal (lane (readLanes x.w (m.d.toNat + 2 * k)) l) (lane (readLanes x.w (m.d.toNat + 2 * k + 1)) l)
        else pairVal (lane (readLanes x.w (m.d.toNat + k)) l) 0
      let f := { Flight.issue x i act dest true with
        scope := (xm.map (·.scope.toNat)).getD 0, order := (xm.map (·.order.toNat)).getD 0
        remaining := if space = .pool then act else 0, waiting := if space = .pool then 0 else act
        x := capture x.w off, y := capture x.w (data.take (if wide then 2 else 1))
        z := capture x.w ((data.drop (if wide then 2 else 1)).take (if wide then 2 else 1))
        peers := (peer.map (readLanes x.w)).headD [], sbase := x.w.spair m.base.toNat }
      let need := s.tagNeed x { space := space, kind := kind, minor := minor } f
      let ts := s.allocTags x.core need
      let g := { f with deps := depsOf x.w f, tags := ts.1 }
      sourcesReady x act (off.map (·, m.fa) ++ data.map (·, m.fb) ++ peer.map (·, false)) [] → longReady s x dest →
      (∀ l, l < 32 → act.getLsbD l = true → addr l % size = 0 ∧ match space with
        | .pool => addr l < 2 ^ 57
        | .scratch => s.scratchAt x.w.block x.b (addr l) size ≠ .fault
        | .peer => True) →
      (s.freeTags x.core < need → Waits i s) ∧ (space = .scratch ∨ act = 0 → need = 0) ∧ need ≤ (activeLanes act).length ∧
      (x.w.countedFlights < 8 → (dest = [] ∨ x.w.longFlights < 8) → need ≤ s.freeTags x.core →
      (space = .pool → ((x.w.flights.filter fun g => g.by_ != x.sel).map fun g => g.slots.length).foldl (· + ·) 0 < 4 ∨
        s.missingPages x.core x.w f = []) →
        (∀ l, l < 32 → g.addrOf l = addr l ∧ (kind ≠ .load → g.y.getD l 0 = datum l 0) ∧ (kind = .cas → g.z.getD l 0 = datum l 1)) ∧
        (space = .peer → ∀ l, l < 32 → ∀ p, peer = [p] → g.peers.getD l 0 = lane (readLanes x.w p) l) ∧ g.tags.length = need ∧
        CompletesWith i s ts.2 x (if xm.isSome then 2 else 1) none (commitHeld (addFlight (x.stepped (off ++ data ++ peer)) g) x.sel)
          [] [] [] fun t _ => (.missSlotFill, { w := x.wid, i := g.id }) ∈ t.inflight)
  ∀ (m : Mm) (x : Xm),
    let k := x.minor.toNat
    issues (.ld m) .pool .load 0 m none ∧ issues (.ldXm m x) .pool .load k m (some x) ∧
    issues (.st m) .pool .store 0 m none ∧ issues (.stXm m x) .pool .store k m (some x) ∧
    issues (.ldl m) .scratch .load 0 m none ∧ issues (.ldlXm m x) .scratch .load k m (some x) ∧
    issues (.stl m) .scratch .store 0 m none ∧ issues (.stlXm m x) .scratch .store k m (some x) ∧
    issues (.atom m) .pool .atom 0 m none ∧ issues (.atomXm m x) .pool .atom k m (some x) ∧
    issues (.atoml m) .scratch .atom 0 m none ∧ issues (.atomlXm m x) .scratch .atom k m (some x) ∧
    issues (.cas m) .pool .cas 0 m none ∧ issues (.casXm m x) .pool .cas k m (some x) ∧
    issues (.rld m x) .peer .load k m (some x) ∧ issues (.rst m x) .peer .store k m (some x) ∧
    issues (.ratom m x) .peer .atom k m (some x)

/-- MCAST and COMBINE issue as one (R282, R359, R360): MCAST with the line of its lanes' words and the lowest active lane's address,
COMBINE with a contribution of all 32 lanes; a COMBINE of group 0 poisons its destination. Each takes its tag as it issues
(R44). Rests on the model's choices of log 55, 153. -/
def Obligations.GroupIssue : Prop :=
  ∀ (m : Mm) (e : Xm) s x, s.siteOf = some x →
    let g := (e.low.extractLsb' 8 7).toNat
    let act := x.sl.mask
    let posts : Flight → State → Prop := fun f t => (.missSlotFill, { w := x.wid, i := f.id }) ∈ t.inflight
    x.w.countedFlights < 8 → g < 64 →
    (sourcesReady x act [(m.a.toNat, m.fa), (m.d.toNat, m.fb)] [] → m.pair = false →
      (∀ l, lowestLane act = some l → laneAddress x .peer m (some e) l < 2 ^ 57 ∧ laneAddress x .peer m (some e) l % 128 = 0) →
      ((x.w.flights.filter fun g => g.by_ != x.sel).map fun g => g.slots.length).foldl (· + ·) 0 < 4 →
      let need := if act = 0 ∨ (x.w.sreg g).toNat % 1024 = 0 then 0 else 1
      need ≤ s.freeTags x.core →
      ∃ f : Flight, f.tags = (s.allocTags x.core need).1 ∧ f.peers = s.castMembers x.core ((x.w.sreg g).toNat % 1024) ∧ f.id = x.w.nextId ∧ f.instr = .mcast m e ∧ f.active = act ∧ f.remaining = act ∧ f.dest = [] ∧ f.counted = true ∧
        f.scope = e.scope.toNat ∧ f.order = e.order.toNat ∧ f.z = [(x.w.sreg g).setWidth 64] ∧
        (∀ l, l < 32 → f.y.getD l 0 = (lane (readLanes x.w m.d.toNat) l).setWidth 64) ∧
        (∀ l, lowestLane act = some l → ∀ q, f.addrOf q = laneAddress x .peer m (some e) l) ∧
        CompletesWith (.mcast m e) s (s.allocTags x.core need).2 x 2 none (commitHeld (addFlight (x.stepped [m.a.toNat, m.d.toNat]) f) x.sel) [] [] [] fun t _ =>
          posts f t) ∧
    (sourcesReady x act [(m.d.toNat, m.fb)] [] → (x.w.vreg m.d.toNat).full = true → longReady s x [m.d.toNat] → x.w.longFlights < 8 →
      let none_ := (x.w.sreg g).toNat % 1024 = 0
      (none_ ∨ s.freeTags x.core ≠ 0) →
      let s' : State := if none_ then { s with free := s.free + 32 } else (s.allocTags x.core 1).2
      ∃ f : Flight, f.id = x.w.nextId ∧ f.instr = .combine m e ∧ f.active = act ∧ f.dest = [m.d.toNat] ∧ f.counted = true ∧
        f.tags = (if none_ then [] else (s.allocTags x.core 1).1) ∧
        (∀ l, l < 32 → f.y.getD l 0 = (lane (readLanes x.w m.d.toNat) l).setWidth 64) ∧ f.z = [(x.w.sreg g).setWidth 64] ∧
        f.waiting = (if none_ then 0 else BitVec.allOnes 32) ∧
        f.bad = (if none_ then some { origin := x.addr, aux := 5 } else none) ∧
        CompletesWith (.combine m e) s s' x 2 none (commitHeld (addFlight x.w f) x.sel) [] [] [] fun t _ => posts f t)

/-- PREF issues whenever its offsets are ready, writes no register and no byte of memory, and leaves every other warp alone (R353).
R172: a long-latency instruction whose destination an earlier word of its clause has yet to commit issues as if its hold bit
were set: it waits while the clause has a result to come, and then runs behind the commit. -/
def Obligations.PrefetchAndHold : Prop :=
  (∀ (m : Mm) (e : Xm) (i : Instr) (xm : Option Xm), (i = .pref m ∧ xm = none) ∨ (i = .prefXm m e ∧ xm = some e) →
     ∀ s x, s.siteOf = some x →
       let off := if m.pair then [m.a.toNat, m.a.toNat + 1] else [m.a.toNat]
       sourcesReady x (memAct x m xm) (off.map (·, m.fa)) [] →
       ∃ t w, exec i s = .next t ∧ (∀ a, t.mem.read a = s.mem.read a) ∧ (∀ v, v ≠ x.wid → t.warp? v = s.warp? v) ∧
         t.blocks = s.blocks ∧ t.dom = s.dom ∧ t.launches = s.launches ∧ t.warp? x.wid = some w ∧
         x.Moves (if xm.isSome then 2 else 1) none w ∧ AgreeBut [] [] [] (x.read off) (commitHeld w x.sel)) ∧
  (let holds : Instr → List Nat → Prop := fun i ds => ∀ s x, s.siteOf = some x → ds.any (heldWritesV x.sl) = true →
     (clausePending x.w x.sel = true → Waits i s) ∧
     (clausePending x.w x.sel = false → exec i s = exec i (s.setWarp x.wid x.done))
   ∀ (r : Reg) (e : Xr) (m : Mm) (x : Xm),
     holds (.frcp r) [r.d.toNat] ∧ holds (.frcpXr r e) [r.d.toNat] ∧ holds (.frsq r) [r.d.toNat] ∧ holds (.fsqrt r) [r.d.toNat] ∧
     holds (.fex2 r) [r.d.toNat] ∧ holds (.flg2 r) [r.d.toNat] ∧ holds (.ld m) [m.d.toNat] ∧
     holds (.ldXm m x) (if x.minor = 1 then [m.d.toNat, m.d.toNat + 1] else [m.d.toNat]) ∧ holds (.ldl m) [m.d.toNat] ∧
     holds (.atom m) [m.d.toNat] ∧ holds (.cas m) [m.d.toNat] ∧ holds (.combine m x) [m.d.toNat] ∧ holds (.mbxrecv r) [r.d.toNat])

/-- The checks of a memory access at issue (R347): an address outside the space, then a misaligned one, traps in the faulting lanes
at the lowest lane's address, and nothing is accessed. Rests on the model's choices of log 22. -/
def Obligations.AddressTraps : Prop :=
  ∀ (m : Mm) (i : Instr) (space : MemSpace), (i = .ld m ∧ space = .pool) ∨ (i = .ldl m ∧ space = .scratch) →
    ∀ s x, s.siteOf = some x → m.pair = false →
      let act := memAct x m none
      let addr := laneAddress x space m none
      let out := fun l => match space with
        | .pool => decide (2 ^ 57 ≤ addr l)
        | .scratch => s.scratchAt x.w.block x.b (addr l) 4 == .fault
        | .peer => false
      let cause := if space = .pool then 0x0C else 0x0B
      let bad : (Nat → Bool) → Mask := fun f => act &&& maskOf f
      sourcesReady x act [(m.a.toNat, m.fa)] [] → longReady s x [m.d.toNat] →
      (∀ l, lowestLane (bad out) = some l → Raises i s x (x.trapOf cause (BitVec.ofNat 64 (addr l)) (bad out))) ∧
      (bad out = 0 → ∀ l, lowestLane (bad fun l => addr l % 4 != 0) = some l →
        Raises i s x (x.trapOf 0x0D (BitVec.ofNat 64 (addr l)) (bad fun l => addr l % 4 != 0)))

/-! The engines' instructions (R363-R396). -/

/-- MZERO, MRD, MWR, MST, MLD and MLOOP issue in every state in which their operands are legal and the queue has room: the command
is the queue's last, with the registers that it read, and the event by which the engine performs commands is due (R363-R379); a
broadcast MLOOP issues alone in its gang, or with B as its stream event gives it (R374). MWAIT and MSTAT end at once with
nothing to wait for, else enter the queue, where they count, and end when the engine has performed them; MSTAT reads MXS and
clears it (R363, R381, R382). Rests on the model's choices of log 31. -/
def Obligations.MatrixIssue : Prop :=
  (∀ s x, s.siteOf = some x → (s.core x.core).mtx.length < 16 → x.w.countedFlights < 8 →
     let cmd : Instr → MtxCmd := fun i =>
       { id := (s.core x.core).nextCmd, w := x.wid, instr := i, addr := x.addr, fid := x.w.nextId, mask := x.sl.mask, rows := [], sg := []
         fg := [], stream := none, left := [], bad := none, regs := [] }
     let queued : Instr → Nat → Warp → List Nat → MtxCmd → Prop := fun i n base dest c =>
       ∃ f : Flight, f.id = x.w.nextId ∧ f.instr = i ∧ f.active = x.sl.mask ∧ f.dest = dest ∧ f.counted = true ∧ f.done = false ∧
         CompletesIn eraseEngine i s s x n none (commitHeld (addFlight base f) x.sel) [] [] [] fun t _ =>
           (t.core x.core).mtx = (s.core x.core).mtx ++ [c] ∧ (.matrixCommandComplete, { c := x.core }) ∈ t.inflight
     (∀ r : Reg, r.d.toNat < x.w.tiles → queued (.mzero r) 1 x.w [] (cmd (.mzero r))) ∧
     (∀ (r : Reg) (e : Xr) (i : Instr) (n : Nat), (i = .mrd r ∧ n = 1) ∨ (i = .mrdXr r e ∧ n = 2) → r.a.toNat < x.w.tiles →
       x.w.longFlights < 8 → longReady s x (regsFrom r.d.toNat 32) → queued i n x.w (regsFrom r.d.toNat 32) (cmd i)) ∧
     (∀ (r : Reg) (e : Xr) (i : Instr) (n : Nat), (i = .mwr r ∧ n = 1) ∨ (i = .mwrXr r e ∧ n = 2) → r.d.toNat < x.w.tiles →
       let src := regsFrom r.a.toNat 32
       sourcesReady x (BitVec.allOnes 32) (src.map (·, r.fa)) [] →
       queued i n (x.stepped src) [] { cmd i with rows := src.map (readLanes x.w) }) ∧
     (∀ (m : Mm) (e : Xm) (i : Instr) (n minor : Nat) (disp : DWord) (len : Nat),
       (n = 1 ∧ (i = .mst m ∨ i = .mld m)) ∨ (n = 2 ∧ (i = .mstXm m e ∨ i = .mldXm m e)) → tileForm i = some (minor, disp, len) →
       let sg := State.group4 x.w m.base.toNat
       let row := fun k => (tileRow (sg.map fun v => v.setWidth 64) disp k).toNat
       let scratch := (sg.getD 2 0).getLsbD 31
       let store : Bool := i = .mst m ∨ i = .mstXm m e
       (sg.getD 2 0).extractLsb' 24 7 = 0 → (scratch = true → sg.getD 1 0 = 0) → ((store = true ∧ minor = 6) ∨ sg.getD 3 0 = 0) →
       m.d.toNat < x.w.tiles →
       (∀ k, k < 32 → row k % 16 = 0 ∧ if scratch then Mloop.inGrant x.b len (row k) = true else row k < 2 ^ 57) →
       queued i n x.w [] { cmd i with sg := sg, left := (List.range 32).map fun k => (k, 0, len) }) ∧
     ∀ (r : Reg) (e : Xr) (gr : Option Grant),
       let own := State.group4 x.w r.b.toNat
       let ownF := State.group4 x.w e.c.toNat
       let all := s.castWarps { grid := x.w.block.grid, gang := x.w.block.gang } x.w.num
       let sg := match gr with
         | some g => [g.sg.getD 0 0, g.sg.getD 1 0, own.getD 2 0, own.getD 3 0]
         | none => own
       let fg := match gr with
         | some g => [(ownF.getD 0 0 &&& 0xFFFFFD0F) ||| (g.fg.getD 0 0 &&& 0x2F0), ownF.getD 1 0, g.fg.getD 2 0, g.fg.getD 3 0]
         | none => ownF
       let m := mloopOf e.minor.toNat sg fg
       let lead := gr.isNone || (State.castLead all).any fun p => p.1 == x.wid
       let regs := regsFrom r.a.toNat (8 * m.k)
       let hit := s.latched x r.a.toNat m.k
       (if (mloopOf e.minor.toNat own ownF).cast_ then x.w.granted = gr ∧ (gr = none → all.length ≤ 1) else gr = none) →
       m.illegal sg fg = false → r.d.toNat < x.w.tiles → scalarOk r.b.toNat → scalarOk e.c.toNat →
       (∀ q, q ∈ regs → vectorOk x.w q = true ∧ x.w.boundWalker q = none) →
       (hit = none → sourcesReady x x.sl.mask (regs.map (·, r.fa)) []) →
       (∀ p, p ∈ m.reads lead → Mloop.inGrant x.b p.2 p.1 = true) → m.misaligned = none →
       queued (.mloop r e) 2 (if m.cast_ then { x.w with bcast := x.w.bcast + 1, granted := none } else x.w) []
         { cmd (.mloop r e) with
           rows := (hit.map (·.rows)).getD (regs.map fun q => (x.w.vreg q).lanes), sg := sg, fg := fg
           stream := gr.map fun g => (g.steps, g.metas), regs := if hit.isSome then [] else regs }) ∧
  ∀ (r : Reg) s x, s.siteOf = some x →
    let waits : Instr → (Flight → Prop) → (Warp → Prop) → Prop := fun i named ends =>
      let mine : Flight → Bool := fun g => g.instr == i && g.by_ == x.sel && g.addr == x.addr
      let owed : Prop := ∃ f, f ∈ x.w.flights ∧ f.done = false ∧ named f
      (x.w.flights.find? mine = none → (s.core x.core).mtx = [] → ¬owed → ends x.done) ∧
      (x.w.flights.find? mine = none → (s.core x.core).mtx ≠ [] ∨ owed →
        ((s.core x.core).mtx.length < 16 → x.w.countedFlights < 8 →
          ∃ (t : State) (f : Flight), exec i s = .next t ∧ t.stalled = true ∧ f.id = x.w.nextId ∧ f.instr = i ∧ f.counted = true ∧
            f.done = false ∧ t.warp? x.wid = some (addFlight x.w f) ∧ (∀ a, t.mem.read a = s.mem.read a) ∧
            ∃ c : MtxCmd, c.instr = i ∧ c.fid = f.id ∧ c.w = x.wid ∧ (t.core x.core).mtx = (s.core x.core).mtx ++ [c]) ∧
        (16 ≤ (s.core x.core).mtx.length ∨ 8 ≤ x.w.countedFlights → Waits i s)) ∧
      ∀ g, x.w.flights.find? mine = some g →
        (g.done = true → ends { x.done with flights := x.w.flights.filter (·.id != g.id) }) ∧ (g.done = false → Waits i s)
    (r.d.toNat < x.w.tiles → waits (.mwait r) (fun f => tileNamed f.instr = some r.d.toNat) fun base =>
      CompletesFrom (.mwait r) s s x 1 none base [] [] [] fun _ => True) ∧
    (r.d.toNat < 64 → waits (.mstat r) (fun f => tileNamed f.instr ≠ none) fun base =>
      CompletesFrom (.mstat r) s s x 1 none { base with mxs := 0 } [r.d.toNat] [] [] fun w => w.sreg r.d.toNat = x.w.mxs &&& 0xF)

/-- TCOPY, CFILL and CBLOAD issue in every state in which their operands are legal and the queue has room: the command is the
queue's last, a copy joins the open batch, and a codebook load is the block's codebook from then on (R387, R388, R391, R392).
Rests on the model's choices of log 37, 38. -/
def Obligations.CopyIssue : Prop :=
  ∀ (r : Reg) (e : Xm) s x, s.siteOf = some x → (s.core x.core).porter.length < 16 → x.w.countedFlights < 8 →
    let d := r.d.toNat
    let a := r.a.toNat
    let b := r.b.toNat
    let queued : Instr → Nat → State → Warp → List Nat → Option Xm → Option Nat → List Word → DWord → List Word → List (Nat × Nat × Nat) → Prop :=
      fun i n s' base dest xm bar dg src sg left =>
        ∃ (f : Flight) (c : PorterCmd), f.id = x.w.nextId ∧ f.instr = i ∧ f.active = x.sl.mask ∧ f.dest = dest ∧ f.counted = true ∧
          c = { id := (s.core x.core).nextCmd, w := x.wid, instr := i, addr := x.addr, fid := f.id, by_ := x.sel
                scope := (xm.map (·.scope.toNat)).getD 0, order := (xm.map (·.order.toNat)).getD 0, bar := bar, dg := dg, src := src
                sg := sg, deps := f.deps, left := left, bad := none, owed := 0 } ∧
          CompletesIn eraseEngine i s s' x n none (commitHeld (addFlight base f) x.sel) [] [] [] fun t _ =>
            (t.core x.core).porter = (s.core x.core).porter ++ [c] ∧ (.porterCommandComplete, { c := x.core }) ∈ t.inflight
    (∀ (i : Instr) (xm : Option Xm) (fill : Bool),
      (xm = none ∧ (i = .tcopy r ∧ fill = false ∨ i = .cfill r ∧ fill = true)) ∨
        (xm = some e ∧ (i = .tcopyXm r e ∧ fill = false ∨ i = .cfillXm r e ∧ fill = true)) →
      let dg := State.group4 x.w d
      let sg := State.group4 x.w b
      let src := if fill then (x.w.sreg a).setWidth 64 else x.w.spair a
      let cp := copyOf fill dg sg src
      let bar := if xm = some e ∧ e.minor = 1 then some (e.low.extractLsb' 11 4).toNat else none
      let regs := if cp.space = 2 then regsFrom cp.firstReg cp.rows else []
      [d, a, b].all scalarOk → cp.illegal dg sg (cbSize x.b) = false → longReady s x regs → (regs = [] ∨ x.w.longFlights < 8) →
      cp.badScratch x.b (cbSize x.b) = none → cp.badAddress = none → cp.ctr.toNat % 8 = 0 →
      (∀ k, bar = some k → k < x.b.bars ∧ s.barHome x.w.block x.b k ≠ .fault) →
      queued i (if xm.isSome then 2 else 1) s { x.w with openCmds := x.w.openCmds ++ [(s.core x.core).nextCmd] } regs xm bar dg src sg
        ((List.range cp.rows).map fun k => (k, 0, cp.len))) ∧
    ∀ (i : Instr) (xm : Option Xm), (i = .cbload r ∧ xm = none) ∨ (i = .cbloadXm r e ∧ xm = some e) →
      let k := x.w.sreg b
      let n := (k.extractLsb' 16 9).toNat
      let size := (k.extractLsb' 0 16).toNat
      [a, b].all scalarOk → k.extractLsb' 25 7 = 0 → n ≠ 0 → n ≤ 256 → size ≠ 0 → n * size ≤ 16384 →
      (x.w.spair a).toNat < 2 ^ 57 → s.cbBusy x.core x.w.block false = false →
      queued i (if xm.isSome then 2 else 1)
        (s.setBlock x.w.block { x.b with cbAddr := x.w.spair a, cbLen := k, cbData := none, cbUse := s.now }) x.w [] xm none [] (x.w.spair a) [k] []

/-- CCLOSE closes the open batch under the next number, CBFREE drops the block's codebook, CSTAT reads a channel's state and count
of records, and CCHAIN starts a channel at its first record, or is in flight until the channel's record in progress is done and
what it must follow is performed (R390-R392, R394, R396). Rests on the model's choices of log 38, 42. -/
def Obligations.BatchesAndChains : Prop :=
  ∀ (r : Reg) (e : Xm) s x, s.siteOf = some x →
    let d := r.d.toNat
    let a := r.a.toNat
    (d < 64 →
      let n := x.w.lastBatch + 1
      let bs := (x.w.batches ++ [{ num := n, cmds := x.w.openCmds }]).dropWhile fun b => b.cmds.isEmpty
      ∃ evp events, CompletesFrom (.cclose r) s s x 1 none
        { x.done with lastBatch := n, openCmds := [], batches := bs, evp := evp, events := events } [d] [] [] fun w => w.sreg d = n) ∧
    (s.cbBusy x.core x.w.block false = false →
      CompletesFrom (.cbfree r) s (s.setBlock x.w.block { x.b with cbAddr := 0, cbLen := 0, cbData := none }) x 1 none x.done [] [] []
        fun _ => True) ∧
    (d < 64 → x.w.flights.any (fun g => chainsTo a g.instr) = false → let c := State.chan x.b a
      Completes (.cstat r) s x 1 [d] [] [] fun w => w.sreg d = BitVec.ofNat 32 (c.state * 2 ^ 30 + min c.records (2 ^ 24 - 1))) ∧
    ∀ (i : Instr) (xm : Option Xm), (i = .cchain r ∧ xm = none) ∨ (i = .cchainXm r e ∧ xm = some e) →
      let va := x.w.spair a
      let order := (xm.map (·.order.toNat)).getD 0
      let n := if xm.isSome then 2 else 1
      let f := { Flight.issue x i x.sl.mask [] true with
        scope := (xm.map (·.scope.toNat)).getD 0, order := order, waiting := 1
        x := [(x.w.sreg a).setWidth 64, (x.w.sreg (a + 1)).setWidth 64] }
      let free : Prop := (State.chan x.b d).doing = none ∧ depsOf x.w f = [] ∧ x.w.flights.any (fun g => chainsTo d g.instr) = false
      let after := (x.w.flights.filter fun g => decide (g.id < f.id) && !g.done && sameThread g f && isPosted g.instr).map (·.id)
      let c : Chan := { state := 1, head := va, records := 0, warp := x.w.num, origin := x.addr
                        scope := (xm.map (·.scope.toNat)).getD 0, order := order, doing := none, left := [], bad := none, after := after }
      a < 64 → va.toNat < 2 ^ 57 → va.toNat % 64 = 0 →
      (free → CompletesWith i s (s.setBlock x.w.block { x.b with chans := lput x.b.chans d c Chan.idle }) x n none x.done
        [] [] [] fun t _ => (.chainRecord, { b := x.w.block, i := d }) ∈ t.inflight) ∧
      (¬free → x.w.countedFlights < 8 →
        CompletesWith i s s x n none (commitHeld (addFlight x.w { f with deps := depsOf x.w f }) x.sel) [] [] [] fun t _ =>
          (.missSlotFill, { w := x.wid, i := f.id }) ∈ t.inflight)

/-! Synchronisation (R397-R407, R185-R187). -/

/-- What a BARA or a BAR does to the object that it arrives at: it counts itself and its bytes, records its mask, and the phase ends
when every expected arrival has come and no byte is outstanding (R398); the warp notes the phase. BAR then waits for the end of
that phase, and BARA does not (R399); with order 3 its arrival and its wait take their places in the SC order one after the
other (R400). Rests on the model's choices of log 49. -/
def Obligations.BarrierArrival : Prop :=
  ∀ (r : Reg) (e : Xm) (xm : Option Xm) s x t tb, s.siteOf = some x → barsCalm s → (xm = none ∨ xm = some e) →
    let k := r.d.toNat
    let one : BitVec 16 := 1 <<< k
    let mask := x.w.sreg r.a.toNat
    let se := effScope x.b k xm
    let n := if xm.isSome then 2 else 1
    let o := barOf (s.scratchBytes tb (16 * k) 16)
    let me := if k < 8 then x.w.num else x.w.block.j
    r.a.toNat < 64 → r.b.toNat < 64 → k < x.b.bars → s.barHome x.w.block x.b k = .at_ t (16 * k) → s.block? t = some tb →
    (k < 8 ∨ tb.straddled = false) → o.broken = false → s.lostMember t k mask = false → o.expected ≠ 0 → mask.getLsbD me = true →
    (o.maskrec = true → mask = o.mask) → s.releaseAt x se = none → (se = 4 → s.rackGate x = none) →
    let after := fun bytes => { o with mask := mask, maskrec := true, pending := (o.pending + bytes) % 2 ^ 40, arrivals := (o.arrivals + 1) % 2 ^ 16 }
    let put := fun o => s.setBar t (16 * k) o
    let arrF := if o.phase then x.w.arrF ||| one else x.w.arrF &&& ~~~one
    let bara := if xm.isSome then Instr.baraXm r e else .bara r
    let bar := if xm.isSome then Instr.barXm r e else .bar r
    let sc : Bool := (xm.map (·.order.toNat)).getD 0 == 3
    (sc = true → s.scReady x.sl false = true) →
    (let o' := after (x.w.sreg r.b.toNat).toNat
     CompletesIn eraseSc bara s (put (if o'.complete then o'.flip else o')) x n none
       { x.done with arrA := x.w.arrA ||| one, arrF := arrF } [] [] [] fun _ _ => True) ∧
    (x.w.arrA.getLsbD k = false →
      let o' := after 0
      (o'.complete = true → sc = false → CompletesIn eraseSc bar s ((put o'.flip).acquireAt x se) x n none
        { x.done with arrA := x.w.arrA &&& ~~~one, arrF := arrF } [] [] [] fun _ _ => True) ∧
      (o'.complete = false ∨ sc = true → ∃ u w, exec bar s = .next u ∧ u.stalled = true ∧
        (∀ a, u.mem.read a = (put (if o'.complete then o'.flip else o')).mem.read a) ∧ u.warp? x.wid = some w ∧
        w = { x.w with arrA := x.w.arrA ||| one, arrF := arrF, a := w.a, b := w.b } ∧ (sc = false → w.a = x.w.a ∧ w.b = x.w.b) ∧
        ∀ v, v ≠ x.wid → u.warp? v = s.warp? v))

/-- A wait at a barrier slot ends at once where the warp has not arrived, and where it has, when the phase that it arrived in has
ended; until then it waits (R399, R400). BAR's second look is such a wait. BARINIT sets the object's expected count, clears its
other counts, and leaves its phase (R399); every other byte stays. Rests on the model's choices of log 44. -/
def Obligations.BarrierWaits : Prop :=
  (∀ (r : Reg) (e : Xm) (xm : Option Xm) s x, s.siteOf = some x → (xm = none ∨ xm = some e) →
     let k := r.d.toNat
     let se := effScope x.b k xm
     let n := if xm.isSome then 2 else 1
     let barw := if xm.isSome then Instr.barwXm r e else .barw r
     let bar := if xm.isSome then Instr.barXm r e else .bar r
     r.a.toNat < 64 → k < x.b.bars → s.barHome x.w.block x.b k ≠ .fault → (se = 4 → s.rackGate x = none) →
     ((xm.map (·.order.toNat)).getD 0 = 3 → s.scReady x.sl false = true) →
     let released := hasRelease ((xm.map (·.order.toNat)).getD 0) = true → s.releaseAt x se = none
     let ends := fun i => CompletesIn eraseSc i s (s.acquireAt x se) x n none
       { x.done with arrA := x.w.arrA &&& ~~~((1 : BitVec 16) <<< k) } [] [] [] fun _ _ => True
     (x.w.arrA.getLsbD k = false → released → ends barw) ∧
     (x.w.arrA.getLsbD k = true → ∀ o, s.barObj x.w.block x.b k = some o →
       (o.broken = true ∨ o.phase ≠ x.w.arrF.getLsbD k → ends bar ∧ (released → ends barw)) ∧
       (o.broken = false → o.phase = x.w.arrF.getLsbD k → (o.maskrec = true → x.w.sreg r.a.toNat = o.mask) →
         Waits bar s ∧ (released → Waits barw s)))) ∧
  (∀ (r : Reg) s x t tb, s.siteOf = some x → s.mem.wf →
     let k := r.d.toNat
     let o := barOf (s.scratchBytes tb (16 * k) 16)
     r.a.toNat < 64 → k < x.b.bars → s.barHome x.w.block x.b k = .at_ t (16 * k) → s.block? t = some tb →
     ∃ s', CompletesFrom (.barinit r) s s' x 1 none x.done [] [] [] (fun _ => True) ∧
       barOf (s'.scratchBytes tb (16 * k) 16) = { o with expected := (x.w.sreg r.a.toNat).toNat % 2 ^ 16, arrivals := 0, pending := 0
                                                         maskrec := false, broken := false } ∧
       ∀ a, (∀ j, j < 16 → a ≠ arrayKey tb.core (tb.arrayByte (16 * k + j))) → s'.mem.read a = s.mem.read a)

/-- FENCE, WAITB, WAITC and YIELD (R212, R220, R245, R393, R401, R402, R407): each completes when what it waits for is so, and
changes no register; WAITC translates its address once, and ends when its home has found the condition true after any write
(R402); FENCE and WAITC of a wider scope drop the clean lines of the core's cache. A FENCE that has to wait is in flight until
then, and an SC FENCE that takes effect gets its place in the SC order. Rests on the model's choices of log 23, 45. -/
def Obligations.SyncWaits : Prop :=
  ∀ (r : Reg) (e : Xm) s x, s.siteOf = some x →
    let plain := fun i s' n => CompletesFrom i s s' x n none x.done [] [] [] fun _ => True
    plain (.fence r) s 1 ∧ plain (.yield r) s 1 ∧
    (let scope := e.scope.toNat
     let order := e.order.toNat
     let held : Prop := (hasRelease order = true ∧ (s.releaseAt x scope).isSome = true) ∨
       (hasAcquire order = true ∧ State.threadHas x.w x.sel (fun g => (roles g.instr).1) = true) ∨
       (order = 3 ∧ s.scReady x.sl false = false)
     (scope = 4 → s.rackGate x = none) →
     (¬held → CompletesIn eraseSc (.fenceXm r e) s (if hasAcquire order then s.acquireAt x scope else s) x 2 none x.done [] [] [] fun t _ =>
       (t.core x.core).scFence = if order = 3 then some ((s.timeAt x.core.pkg).toNat, issuerNumber (coreEndpoint x.core))
         else (s.core x.core).scFence) ∧
     (held → x.w.countedFlights < 8 →
       ∃ f : Flight, f.id = x.w.nextId ∧ f.instr = .fenceXm r e ∧ f.scope = scope ∧ f.order = order ∧ f.dest = [] ∧ f.counted = true ∧
         f.done = false ∧ f.waiting = BitVec.allOnes 32 ∧
         CompletesWith (.fenceXm r e) s s x 2 none (commitHeld (addFlight x.w f) x.sel) [] [] [] fun t _ =>
           (.missSlotFill, { w := x.wid, i := f.id }) ∈ t.inflight)) ∧
    (r.a.toNat < 64 →
      let n := x.w.sreg r.a.toNat
      ((∀ b, b ∈ x.w.batches → 2 ^ 31 ≤ (n - b.num).toNat) → plain (.waitb r) s 1) ∧
      ((∃ b, b ∈ x.w.batches ∧ (n - b.num).toNat < 2 ^ 31) → Waits (.waitb r) s)) ∧
    ∀ (i : Instr) (xm : Option Xm), (i = .waitc r ∧ xm = none) ∨ (i = .waitcXm r e ∧ xm = some e) →
      let va := (x.w.spair r.a.toNat).toNat
      let scope := (xm.map (·.scope.toNat)).getD 0
      let n := if xm.isSome then 2 else 1
      let looks : State → Await → Prop := fun s1 a => ∀ bs s2, s1.homeRead 0 x.core a.pa 8 = .ok bs s2 →
        (a.target.toNat ≤ leVal bs → plain i (s2.acquireAt x scope) n) ∧
        (leVal bs < a.target.toNat → exec i s = .next { s2 with stalled := true })
      r.a.toNat < 64 → r.b.toNat < 64 → va < 2 ^ 57 → va % 8 = 0 →
      (∀ a, x.sl.await = some a → (a.hit = true → plain i (s.acquireAt x scope) n) ∧ (a.hit = false → a.sc = false → looks s a)) ∧
      ∀ t s1, x.sl.await = none → s.translate x.core va = .ok t s1 → permitted t false false = true →
        (xm.map (·.order.toNat)).getD 0 ≠ 3 →
        let a : Await := { pa := t.phys va, target := x.w.spair r.b.toNat, sc := false, hit := false }
        looks (s1.setWarp x.wid (x.w.setSlot x.sel { x.sl with await := some a })) a

/-- EVBIND binds its slot, which fires at once where its condition already holds; EVMASK and EVCLR write what they name; WAITANY
goes to the handler of the lowest pending slot that EVM admits, or parks (R185-R187, R403, R404). -/
def Obligations.EventInstructions : Prop :=
  ∀ s x, s.siteOf = some x →
    (∀ (r : Reg) (xi : Word),
      let i := r.d.toNat
      let a := r.a.toNat
      let one : BitVec 8 := 1 <<< i
      let e : EventSlot := { EventSlot.unbound with kind := r.b.toNat, handler := x.wordAddr + sext64 xi * 4 }
      let binds : EventSlot → State → Prop := fun e s' =>
        let fire := s'.eventHolds x.wid x.w x.b e
        CompletesFrom (.evbind r xi) s s' x 2 none
          { x.done with evp := if fire then x.w.evp ||| one else x.w.evp &&& ~~~one
                        events := lput x.w.events i { e with armed := !fire, fired := fire } EventSlot.unbound } [] [] [] fun _ => True
      (e.kind = 6 → binds e s) ∧
      (a < 64 →
        (e.kind = 2 → binds { e with source := (x.w.sreg a).setWidth 64 } s) ∧
        (e.kind = 4 → (x.w.sreg a).toNat < 16 → binds { e with source := (x.w.sreg a).setWidth 64 } s) ∧
        (e.kind = 5 → binds { e with source := x.w.spair a, target := x.w.spair a } s) ∧
        (e.kind = 1 ∨ e.kind = 7 → (x.w.sreg a).toNat < 16 → (x.w.sreg a).toNat < x.b.bars → ∀ o,
          s.barObj x.w.block x.b (x.w.sreg a).toNat = some o → binds { e with source := (x.w.sreg a).setWidth 64, phase := o.phase } s) ∧
        (e.kind = 3 → ∀ t s', (x.w.spair a).toNat < 2 ^ 57 → (x.w.spair a).toNat % 8 = 0 →
          s.translate x.core (x.w.spair a).toNat = .ok t s' → permitted t false false = true →
          ∀ h, s'.homeAt x.core.dieId (t.phys (x.w.spair a).toNat) = some h → s'.shut 0 x.core h = false →
          binds { e with source := x.w.spair a, target := x.w.spair (a + 2), pa := t.phys (x.w.spair a).toNat } s'))) ∧
    (∀ r : Ri,
      let m : BitVec 8 := r.imm.extractLsb' 0 8
      CompletesFrom (.evmask r) s s x 1 none (commitHeld { x.w with evm := m } x.sel) [] [] [] (fun _ => True) ∧
      CompletesFrom (.evclr r) s s x 1 none
        { x.done with evp := x.w.evp &&& ~~~m
                      events := (List.range 8).map fun i => if m.getLsbD i then EventSlot.unbound else x.w.events.getD i EventSlot.unbound }
        [] [] [] fun _ => True) ∧
    ∀ r : Reg,
      (x.w.evp &&& x.w.evm = 0 → exec (.waitany r) s = .next (s.setWarp x.wid (x.w.setSlot x.sel { x.sl with parkedWait := true }))) ∧
      ∀ i, i < 8 → (x.w.evp &&& x.w.evm).getLsbD i = true → (∀ j, j < i → (x.w.evp &&& x.w.evm).getLsbD j = false) →
        CompletesFrom (.waitany r) s s x 1 (some (x.w.events.getD i EventSlot.unbound).handler)
          { x.done with evp := x.w.evp &&& ~~~((1 : BitVec 8) <<< i) } [] [] [] fun _ => True

/-- MBXSEND issues with the first four lanes of its register; MBXRECV waits in its mailbox's queue for the next message, and takes a
message that is there (R405, R406). A warp that reaches a REGROUP or an UNGROUP notes its arrival and stops; with the last
warp's arrival the move is due (R181, R407). Rests on the model's choices of log 46, 153. -/
def Obligations.Mail : Prop :=
  (∀ (r : Reg) s x, s.siteOf = some x →
     (sourcesReady x 0xF [(r.a.toNat, r.fa)] [r.b.toNat] → (x.w.sreg r.b.toNat).extractLsb' 4 10 = 0 → x.w.countedFlights < 8 →
       let v := (x.w.sreg r.b.toNat).toNat
       let need := if s.isMember (v / 2 ^ 23) = true ∧ v / 2 ^ 20 % 8 ≤ 3 then 1 else 0
       need ≤ s.freeTags x.core →
       ∃ f : Flight, f.tags = (s.allocTags x.core need).1 ∧ f.id = x.w.nextId ∧ f.instr = .mbxsend r ∧ f.dest = [] ∧ f.counted = true ∧ f.scope = 4 ∧ f.order = 2 ∧
         f.x = [(x.w.sreg r.b.toNat).setWidth 64] ∧
         (∀ l, l < 4 → f.y.getD l 0 = (lane (readLanes x.w r.a.toNat) l).setWidth 64) ∧
         CompletesWith (.mbxsend r) s (s.allocTags x.core need).2 x 1 none (commitHeld (addFlight (x.stepped [r.a.toNat]) f) x.sel) [] [] [] fun t _ =>
           (.missSlotFill, { w := x.wid, i := f.id }) ∈ t.inflight) ∧
     (longReady s x [r.d.toNat] → x.w.longFlights < 8 →
       let box := r.b.toNat
       ∃ f : Flight, f.id = x.w.nextId ∧ f.instr = .mbxrecv r ∧ f.dest = [r.d.toNat] ∧ f.counted = false ∧ f.scope = 4 ∧ f.order = 1 ∧
         f.done = false ∧
         ((∀ m, tget (s.core x.core).mbox m [] = []) →
           CompletesIn eraseEngine (.mbxrecv r) s s x 1 none (commitHeld (addFlight x.w f) x.sel) [] [] [] fun t _ =>
             (box, x.wid, f.id) ∈ (t.core x.core).recv) ∧
         ∀ msg rest, (s.core x.core).recv = [] → tget (s.core x.core).mbox box [] = msg :: rest →
           ∃ t w, exec (.mbxrecv r) s = .next t ∧ (∀ a, t.mem.read a = s.mem.read a) ∧ (∀ v, v ≠ x.wid → t.warp? v = s.warp? v) ∧
             t.warp? x.wid = some w ∧ x.Moves 1 none w ∧ tget (t.core x.core).mbox box [] = rest ∧
             (.registerFill, { w := x.wid, i := f.id }) ∈ t.inflight ∧
             ∃ g, w.flight? f.id = some g ∧ g.done = true ∧ g.dest = [r.d.toNat] ∧
               ∀ l, l < 4 → tget? g.got l = some ((msg.extractLsb' (32 * l) 32).setWidth 64))) ∧
  (∀ (r : Reg) (re : Bool) s x, s.siteOf = some x →
     let me := (re, if re then r.a.toNat else 0)
     let i := if re then Instr.regroup r else .ungroup r
     let w := { x.w with regrouping := some me }
     let s' := s.setWarp x.wid w
     r.b.toNat < 64 → x.w.b.live = false → x.sel = .a → x.w.j = none → x.w.dsp = 0 → (∀ v, v ∈ x.w.walkers → v.bound = 0) →
     (∀ y, y ∈ s.warps → y.2.block = x.w.block → y.2.exited = false → y.2.regrouping = none ∨ y.2.regrouping = some me) →
     (x.w.sreg r.b.toNat).toNat + 1 = 2 ^ x.b.warps →
     ∃ t, exec i s = .next t ∧ Untouched id s t x.wid ∧ t.warp? x.wid = some w ∧
       ((∀ y, y ∈ s'.warps → y.2.block = x.w.block → y.2.exited = false → y.2.regrouping ≠ none ∨ y.2.laneless = true) →
         (.regroupComplete, { b := x.w.block }) ∈ t.inflight))


/-! Divergence, exit and TAKE (R176-R179, R314, R318, R319). -/

/-- BRD at the end of a clause goes as a whole where its true lanes are all or none, else it splits its slot; where J is valid it
first pushes the other slot, once that has ended its clause, or J with k = 0, onto the divergence stack, whose entry of R178 is
the only memory that changes; with a full stack it raises Divergence (R176, R314). -/
def Obligations.DivergentBranch : Prop :=
  ∀ (r : Br) (xi : Word) s x, s.siteOf = some x → x.n = x.k + 1 →
    let m := x.sl.mask
    let yes := m &&& x.w.preg r.c.toNat
    let target := x.wordAddr + r.off.signExtend 64 * 4
    let join := x.wordAddr + xi.signExtend 64 * 4
    let y := x.w.slot x.sel.other
    let splits : State → Nat → Prop := fun s' dsp =>
      ∃ t w, exec (.brd r xi) s = .next t ∧ Untouched eraseStamp s' t x.wid ∧ t.warp? x.wid = some w ∧
        (w.slot x.sel).mask = m &&& ~~~yes ∧ (w.slot x.sel).pc = x.nextClause ∧ (w.slot x.sel).k = 0 ∧
        (w.slot x.sel.other).mask = yes ∧ (w.slot x.sel.other).pc = target ∧ (w.slot x.sel.other).k = 0 ∧
        w.j = some join ∧ w.dsp = dsp ∧ AgreeBut [] [] [] x.done (commitHeld w x.sel)
    (yes = m → CompletesFrom (.brd r xi) s s x 2 (some target) x.done [] [] [] fun _ => True) ∧
    (yes = 0 → m ≠ 0 → CompletesFrom (.brd r xi) s s x 2 none x.done [] [] [] fun _ => True) ∧
    (yes ≠ m → yes ≠ 0 → join ≠ target → join ≠ x.nextClause →
      (x.w.j = none → splits s x.w.dsp) ∧
      ∀ j, x.w.j = some j →
        (x.b.stack ≤ x.w.dsp → Raises (.brd r xi) s x (x.trapOf 9 0 m)) ∧
        (x.w.dsp < x.b.stack → (y.live = true ∧ (y.k ≠ 0 ∧ y.parkedWait = false ∨ y.blocked ≠ none)) → Waits (.brd r xi) s) ∧
        (x.w.dsp < x.b.stack → (y.live = true → (y.k = 0 ∨ y.parkedWait = true) ∧ y.blocked = none) →
          let pc := if y.live then y.pc else j
          ∀ off, joinOffset pc j = some off →
            let form := if y.live then slotForm { y with k := 0 } else instrForm j 0
            splits (s.deviceWrite x.core (s.stackPool x.b x.w x.w.dsp) (stackEntry form off (if y.live then y.mask else 0)))
              (x.w.dsp + 1)))

/-- EXIT removes the active lanes whose guard is true from its slot; the others go on in sequence. With the warp's last lane the
warp has exited, and with the block's last warp the block's retirement is due (R179, R191, R318). A slot whose next clause is at
J has reached the join: it parks while the other slot is live and has not reached it; else slot A takes J with both masks, slot
B is empty, and with an empty stack J is invalid (R177). -/
def Obligations.ExitAndJoin : Prop :=
  (∀ (r : Reg) s x, s.siteOf = some x → x.n = x.k →
     let rest := x.sl.mask &&& ~~~(x.w.preg r.g.toNat)
     ∃ t w, exec (.exit r) s = .next t ∧ Untouched eraseStamp s t x.wid ∧ t.warp? x.wid = some w ∧
       AgreeBut [] [] [] x.done (commitHeld w x.sel) ∧
       (rest ≠ 0 → x.w.j ≠ some x.nextClause → x.sl.parkedJoin = false →
         (w.slot x.sel).mask = rest ∧ (w.slot x.sel).pc = x.nextClause ∧ w.exited = x.w.exited) ∧
       (rest = 0 → (x.w.slot x.sel.other).mask = 0 → x.w.dsp = 0 ∨ x.w.j = none →
         w.exited = true ∧
         ((∀ y, y ∈ t.warps → y.2.block = x.w.block → y.2.laneless = true) →
           (.blockRetire, { b := x.w.block }) ∈ t.inflight))) ∧
  (∀ (r : Br) s x j, s.siteOf = some x → x.w.j = some j → x.wordAddr + r.off.signExtend 64 * 4 = j → x.sl.live = true →
     x.sl.parkedJoin = false →
     let y := x.w.slot x.sel.other
     ∃ t w, exec (.bra r) s = .next t ∧ t.warp? x.wid = some w ∧
       (y.live = true → y.parkedJoin = false → (y.k ≠ 0 ∨ y.pc ≠ j ∨ y.parkedWait = true) →
         (w.slot x.sel).parkedJoin = true ∧ (w.slot x.sel).mask = x.sl.mask ∧ w.slot x.sel.other = y ∧ w.j = some j) ∧
       ((y.live = true → y.parkedJoin = true) → x.w.dsp = 0 →
         w.a.mask = x.sl.mask ||| y.mask ∧ w.a.pc = j ∧ w.a.k = 0 ∧ w.b.mask = 0 ∧ w.j = none))

/-- TAKE of a grid whose die Broker holds unstarted gangs gives one of them: its index is written to d, it leaves the Broker's runs,
and gang FFFFFFFFh is never given (R152, R319). TAKE of a grid that has gone, or of a child grid that the die's Broker holds no
gang of, writes FFFFFFFFh and goes on (R319). -/
def Obligations.TakeGang : Prop :=
  (∀ (r : Reg) s x l, s.siteOf = some x → r.d.toNat < 64 →
     let k := State.dieBroker x.core.dieId
     let h := x.w.block.grid
     s.launch? h = some l → (l.isChild = true → ∀ y, y ∈ s.warps → ∀ e, e ∈ y.2.events → e.kind = 3 → e.armed = false) →
     (s.share k h).takers = [] → (s.takeRuns k h) ≠ [] → (∀ q, q ∈ (s.share k h).runs → 0 < q.2) →
     (s.share k h).runs.Pairwise (fun p q => p.1 + p.2 ≤ q.1) →
     ∃ t w g, exec (.take r) s = .next t ∧ (l.isChild = false → ∀ a, t.mem.read a = s.mem.read a) ∧ (∀ v, v ≠ x.wid → t.warp? v = s.warp? v) ∧
       t.warp? x.wid = some w ∧ x.Moves 1 none w ∧ AgreeBut [r.d.toNat] [] [] x.done (commitHeld w x.sel) ∧
       (commitHeld w x.sel).sreg r.d.toNat = BitVec.ofNat 32 g ∧ (∃ q, q ∈ (s.share k h).runs ∧ q.1 ≤ g ∧ g < q.1 + q.2) ∧ g ≠ 2 ^ 32 - 1) ∧
  (∀ (r : Reg) s x, s.siteOf = some x → r.d.toNat < 64 →
     let k := State.dieBroker x.core.dieId
     let h := x.w.block.grid
     (s.launch? h = none ∨ ∃ l, s.launch? h = some l ∧ l.isChild = true ∧ (s.share k h).runs = []) → (s.share k h).takers = [] →
     ∃ t w, exec (.take r) s = .next t ∧ (∀ a, t.mem.read a = s.mem.read a) ∧ (∀ v, v ≠ x.wid → t.warp? v = s.warp? v) ∧
       t.warp? x.wid = some w ∧ x.Moves 1 none w ∧ AgreeBut [r.d.toNat] [] [] x.done (commitHeld w x.sel) ∧
       (commitHeld w x.sel).sreg r.d.toNat = 0xFFFFFFFF)

/-! Traps (R241-R253, R408, R409). -/

/-- Issue traps in the order of their causes: a register out of range (04h), an empty source whose empty bit is set (05h), a
poisoned source, whose trap names the instruction that made the poison (06h), a RET beyond the address space (0Ch), a condition
that is not uniform (07h). Nothing else changes (R174, R241, R242, R313, R316). The posted-store fault that RFF holds is taken
by a FENCE of rack scope, where no RFAULT slot is bound, as Posted-remote (18h), before the FENCE does anything else (R220,
R221, R248). Rests on the model's choices of log 22, 57. -/
def Obligations.IssueTraps : Prop :=
  (∀ s x, s.siteOf = some x →
     (∀ r : Reg, 64 ≤ r.a.toNat → Raises (.sadd r) s x (x.trapOf 4 0 x.sl.mask)) ∧
     (∀ r : Reg, vectorOk x.w r.a.toNat = false → Raises (.vmov r) s x (x.trapOf 4 0 (x.sl.mask &&& x.w.preg r.g.toNat))) ∧
     (∀ r : Reg, let act := x.sl.mask &&& x.w.preg r.g.toNat
       vectorOk x.w r.a.toNat = true → vectorOk x.w r.d.toNat = true → x.w.boundWalker r.a.toNat = none →
       (r.fa = true → (x.w.vreg r.a.toNat).full = false → Raises (.vmov r) s x (x.trapOf 5 0 act)) ∧
       (r.fa = false → (x.w.vreg r.a.toNat).full = false → orphaned x.w r.a.toNat = false → Waits (.vmov r) s) ∧
       (∀ p, (x.w.vreg r.a.toNat).full = true → destReady s x r.d.toNat → (x.w.vreg r.a.toNat).poison = some p →
         Raises (.vmov r) s x { x.trapOf 6 0 act with instr := p.origin, aux := p.aux })) ∧
     (∀ r : Reg, 2 ^ 57 ≤ (x.w.spair 62).toNat → Raises (.ret r) s x (x.trapOf 0xC (x.w.spair 62) x.sl.mask)) ∧
     ∀ (r : Br) l, lowestLane x.sl.mask = some l → (∃ k, k < 32 ∧ x.sl.mask.getLsbD k = true ∧
         (x.w.preg r.c.toNat).getLsbD k ≠ (x.w.preg r.c.toNat).getLsbD l) →
       Raises (.bru r) s x (x.trapOf 7 0 (x.sl.mask &&& maskOf fun k => (x.w.preg r.c.toNat).getLsbD k != (x.w.preg r.c.toNat).getLsbD l))) ∧
  (∀ (r : Reg) (e : Xm) s x, s.siteOf = some x → e.scope = 4 → (∀ f, f ∈ x.w.flights → f.done = true) →
     x.w.rff.extractLsb' 16 8 ≠ 0 → (∀ v, v ∈ x.w.events → v.kind ≠ 6 ∨ (v.armed = false ∧ v.fired = false)) →
     Raises (.fenceXm r e) s x { x.trapOf 0x18 (pairVal x.w.rffol x.w.rffoh) x.sl.mask with aux := x.w.rff.setWidth 64 })

/-- TRAP raises Software (20h) with its code in the auxiliary word, BKPT raises Breakpoint (21h); both leave the slot behind
themselves, so that the handler's return resumes after them (R250, R409). Rests on the model's choices of log 68. -/
def Obligations.TrapInstructions : Prop :=
  ∀ s x, s.siteOf = some x → x.w.trap = none →
    let raises : Instr → Nat → Nat → DWord → Prop := fun i n cause aux =>
      ∃ t w, exec i s = .next t ∧ Untouched eraseStamp s t x.wid ∧ t.warp? x.wid = some w ∧
        w.trap = some { x.trapOf cause 0 x.sl.mask with aux := aux } ∧ (.trapTake, { w := x.wid }) ∈ t.inflight ∧
        (w.slot x.sel).mask = x.sl.mask ∧
        (if x.k + n ≤ x.n then (w.slot x.sel).k = x.k + n ∧ (w.slot x.sel).pc = x.sl.pc
         else (w.slot x.sel).k = 0 ∧ (w.slot x.sel).pc = x.nextClause) ∧
        AgreeBut [] [] [] x.done (commitHeld { w with trap := none } x.sel)
    (∀ r : Ri, raises (.trap r) 1 0x20 (r.imm.setWidth 64)) ∧
    (∀ (r : Ri) (xi : Word), raises (.trapXi r xi) 2 0x20 ((xi.extractLsb' 0 16).setWidth 64)) ∧
    ∀ r : Reg, raises (.bkpt r) 1 0x21 0

/-- TRAP_TAKE in a warp that is quiet: the held results are committed, the frame of R249 is written, and the warp is in handler mode
at TVEC, in slot A with every lane that has not exited, with its record of R260 written (R244, R246, R247, R261). Without a
handler, or in handler mode, the block is lost, and its header says so (R259). Rests on the model's choices of log 65. -/
def Obligations.TrapEntry : Prop :=
  ∀ s w b t, s.warp? s.arg.w = some w → s.block? w.block = some b → w.trap = some t → w.exited = false → b.state ≠ 3 →
    s.frozen = false → (s.core s.arg.w.core).frozen = false → w.flights = [] → w.a.blocked = none → w.b.blocked = none →
    (∀ c, c ∈ (s.core s.arg.w.core).mtx → c.w ≠ s.arg.w) → (∀ c, c ∈ (s.core s.arg.w.core).porter → c.w ≠ s.arg.w) →
    t.cause ≠ 0x10 → t.cause ≠ 0x18 → t.cause ≠ 0x19 →
    let quiet := commitHeld (commitHeld { w with parked := [], regrouping := none } .a) .b
    (w.handler = false →
      let s' := s.deviceWrite b.core (s.framePool b w) (frameBytes quiet t [] false)
      ∃ u v, exec .trapTake s = .next u ∧
        (∀ a, u.mem.read a = (if quiet.tvec = 0 then s'.deviceWrite b.core (s.slotPool b + 2) [3] else s'.writeWarp b v).mem.read a) ∧ (∀ i, i ≠ s.arg.w → u.warp? i = s.warp? i) ∧
        u.warp? s.arg.w = some v ∧ v.trap = none ∧ (∀ r, v.sreg r = quiet.sreg r ∧ v.vreg r = quiet.vreg r ∧ v.preg r = quiet.preg r) ∧
        (quiet.tvec ≠ 0 → v.handler = true ∧ v.a.pc = quiet.tvec ∧ v.a.k = 0 ∧ v.b.mask = 0 ∧ v.j = none ∧ v.dsp = w.dsp ∧
          v.a.mask = w.a.mask ||| w.b.mask ||| s'.stackMasks b w ∧ u.block? w.block = s.block? w.block) ∧
        (quiet.tvec = 0 → u.block? w.block = some { b with state := 3 } ∧ (.blockRetire, { b := w.block, flag := true }) ∈ u.inflight)) ∧
    (w.handler = true → ∃ u, exec .trapTake s = .next u ∧ u.block? w.block = some { b with state := 3 } ∧
      (.blockRetire, { b := w.block, flag := true }) ∈ u.inflight)

/-- The frame holds the cause, the faulting lanes, address and instruction, the auxiliary word, and the slots, J and DSP as they
were (R249), in 8,192 bytes. -/
def Obligations.FrameFields : Prop :=
  ∀ (w : Warp) (t : TrapRec) (served : Bool), t.cause < 256 → w.dsp < 2 ^ 16 →
    let f := frameBytes w t [] served
    f.length = 8192 ∧ field f 0 1 = 1 ∧ field f 1 1 = t.cause ∧ bits (field f 2 1) 1 1 = (if t.slot = .b then 1 else 0) ∧
    field f 3 1 = 0 ∧ field f 4 4 = t.lanes.toNat ∧ field f 8 8 = t.addr.toNat ∧ field f 16 8 = t.instr.toNat ∧ field f 24 8 = t.aux.toNat ∧
    field f 40 4 = w.a.mask.toNat ∧ field f 44 4 = w.b.mask.toNat ∧ field f 64 2 = w.dsp ∧
    (w.a.k < 16 → field f 32 8 % 2 ^ 57 / 4 * 4 = w.a.pc.toNat % 2 ^ 57 / 4 * 4 ∧ bits (field f 32 8) 61 58 = w.a.k) ∧
    field f 88 8 = 0

/-- RTT in handler mode, with nothing of the warp in flight and a frame that is well formed and whose fault was not one to be
served, returns to the frame's slot A, restores J, and leaves handler mode (R253); outside handler mode it raises
Illegal-instruction. -/
def Obligations.TrapReturn : Prop :=
  ∀ (r : Reg) s x, s.siteOf = some x → x.w.flights = [] → x.w.trap = none →
    (∀ c, c ∈ (s.core x.core).mtx → c.w ≠ x.wid) → (∀ c, c ∈ (s.core x.core).porter → c.w ≠ x.wid) →
    let f := s.coreBytes x.core (s.framePool x.b x.w) 8192
    (x.w.handler = false → Raises (.rtt r) s x (x.trapOf 2 0 x.sl.mask)) ∧
    (x.w.handler = true → x.b.core = x.core → x.sel = .a → x.w.b.live = false → x.w.j = none → x.w.dsp = field f 64 2 →
      (∀ s', s.frameOf x.core f = .ok [] s' → field f 2 1 / 4 % 2 = 0 → field f 40 4 ≠ 0 → field f 44 4 = 0 → field f 56 8 = 0 →
        ∃ t w, exec (.rtt r) s = .next t ∧ Untouched eraseStamp s' t x.wid ∧ t.warp? x.wid = some w ∧ w.handler = false ∧
          w.a.mask.toNat = field f 40 4 ∧ w.a.pc.toNat = field f 32 8 % 2 ^ 57 / 4 * 4 ∧ w.a.k = bits (field f 32 8) 61 58 ∧
          w.b.mask = 0 ∧ w.j = none ∧
          AgreeBut [] [] [] { x.done with parked := [], serving := false } (commitHeld { w with handler := true } .a)) ∧
      (s.frameOf x.core f = .bad → Raises (.rtt r) s x (x.trapOf 0xF 0 x.sl.mask)))

/-- CSRR and CSRW in a privileged launch read and write the registers of R411; in any other launch they raise Privilege (03h), and a
number that names no register raises Illegal-instruction (02h) in either (R408). TLBINV drops a page's translations from every
tier within its scope, those that filled miss slots hold among them (R64), and LAUNCH hands its packet to the die's Broker, once
the thread's earlier writes are performed (R410, R412). Rests on the model's choices of log 51. -/
def Obligations.SystemInstructions : Prop :=
  (∀ (r : Ri) s x, s.siteOf = some x →
     let n := r.imm.toNat
     let die := s.die x.core.dieId
     let reads : Word → Prop := fun v => Completes (.csrr r) s x 1 [r.d.toNat] [] [] fun w => w.sreg r.d.toNat = v
     (x.b.priv = true → r.d.toNat < 64 →
       (n = 0 → reads (BitVec.ofNat 32 (s.workingCount x.core.dieId * 2 ^ 16 + s.dom.ncol % 256 * 2 ^ 8 + s.dom.nrow % 256))) ∧
       (n = 1 → reads (die.cur.version.setWidth 32)) ∧ (n = 2 → reads (BitVec.ofNat 32 s.dom.timeout)) ∧
       (n = 3 → reads (BitVec.ofNat 32 s.dom.symSize)) ∧
       (∀ k, k < 4 → n = 0x10 + k → reads (die.dscr.getD k 0))) ∧
     (∀ k, x.b.priv = true → r.a.toNat < 64 → k < 4 → n = 0x10 + k →
       CompletesFrom (.csrw r) s (s.setDie x.core.dieId { die with dscr := lput die.dscr k (x.w.sreg r.a.toNat) 0 }) x 1 none x.done [] [] []
         fun _ => True) ∧
     (x.b.priv = false → (n < 4 ∨ (0x10 ≤ n ∧ n < 0x14)) → Raises (.csrr r) s x (x.trapOf 3 0 x.sl.mask)) ∧
     (x.b.priv = false → 0x10 ≤ n → n < 0x14 → Raises (.csrw r) s x (x.trapOf 3 0 x.sl.mask)) ∧
     ((4 ≤ n ∧ n < 0x10) ∨ 0x14 ≤ n → Raises (.csrr r) s x (x.trapOf 2 0 x.sl.mask)) ∧
     (n < 0x10 ∨ 0x14 ≤ n → Raises (.csrw r) s x (x.trapOf 2 0 x.sl.mask))) ∧
  (∀ (r : Reg) (e : Xm) s x, s.siteOf = some x → r.a.toNat < 64 →
     let va := x.w.spair r.a.toNat
     va.toNat < 2 ^ 57 →
     (∀ (i : Instr) (scope n : Nat), (i = .tlbinv r ∧ scope = 0 ∧ n = 1) ∨ (i = .tlbinvXm r e ∧ scope = e.scope.toNat ∧ n = 2) →
       State.threadHas x.w x.sel (fun g => (roles g.instr).2) = false → s.releaseReady x.core x.w scope = true →
       let drop := fun w : Warp => { w with flights := w.flights.map fun f : Flight => ({ f with found := tlbDrop f.found va.toNat } : Flight) }
       let rest := fun w : Warp => { w with flights := w.flights.map fun f : Flight => ({ f with found := [] } : Flight) }
       ∃ s', CompletesFrom i s s' x n none (drop x.done) [] [] [] (fun _ => True) ∧ s'.mem = s.mem ∧
         (∀ v, v.core = x.core ∨ (scope ≠ 0 ∧ v.core.dieId ∈ s.diesIn x.core scope) → s'.warp? v = (s.warp? v).map drop) ∧
         (∀ v, (s'.warp? v).map rest = (s.warp? v).map rest) ∧
         tlbFind (s'.core x.core).tlb va.toNat = none ∧
         (scope ≠ 0 → ∀ d, d ∈ s.diesIn x.core scope →
           tlbFind (s'.die d).tlb va.toNat = none ∧ ∀ c : CoreId, c.dieId = d → tlbFind (s'.core c).tlb va.toNat = none)) ∧
     (∀ e s1 bs s', va.toNat % 64 = 0 → s.translate x.core va.toNat = .ok e s1 → permitted e false false = true →
       (s1.homeAt x.core.dieId (e.phys va.toNat)).isSome = true → s1.releaseAt x 1 = none → s1.childCount x.core.dieId < 16 →
       s1.readVirtual 0 x.core 0 va.toNat 64 2 = .ok bs s' →
       CompletesWith (.launch r) s s' x 1 none x.done [] [] [] fun t _ =>
         (.launchPacket, { src := .child x.core.dieId, bytes := bs, flag := x.b.priv }) ∈ t.inflight))

/-- The stores of an instruction through output walkers, once each lane's place is open, are all performed, and change no byte of
memory but those that `walkTargets` names: the bytes of each active lane's element at the walker's address, where no pin holds
the line (R183, R184, R206). With a lane's place shut, none is performed. -/
def Obligations.WalkerStores : Prop :=
  ∀ (s : State) (x : Site) (act : Mask) (ys : List (Nat × Lanes)), s.mem.wf → (∀ y, y ∈ ys → walkDescOk (x.w.walker y.1).desc = true) →
    (s.walkOpen x act ys = true → s.walkStore x act ys = .ok (s.walkEnd x act ys) ∧
      ∀ a, a ∉ s.walkTargets x act ys → (s.walkEnd x act ys).mem.read a = s.mem.read a) ∧
    (s.walkOpen x act ys = false → ∃ r, s.walkStore x act ys = .error r ∧ ∀ t, r = .next t → SameMem s t)

/-! Device events. An event acts on the operands in `arg`; each clause says that the event answers a next state, and what it does. -/

/-- REGISTER_FILL writes a result and makes its registers full (R173); MISS_SLOT_FILL performs a scratchpad load and store of one
lane (R66, R200, R344, R349); WALK_COMPLETE fills every attached miss slot's TLB (R67); WALKER_FETCH reads a vector ahead
(R184); IFETCH_FILL gives a line to every core that waits for it, with the pages that they fetch it through, and asks for one of
another package with a LINE-READ (R299, R301, R428). Rests on the model's choices of log 13. -/
def Obligations.FillEvents : Prop :=
  (∀ s w f d, s.warp? s.arg.w = some w → w.flight? s.arg.i = some f → f.done = true → (f.dest = [d] ∨ f.dest = [d, d + 1]) →
    Yields .registerFill s fun t => SameMem s t ∧ OtherWarps s t s.arg.w ∧ ∃ v, t.warp? s.arg.w = some v ∧
      v.flights = w.flights.filter (·.id != f.id) ∧ (∀ r, r ∉ f.dest → v.vreg r = w.vreg r) ∧
      ∀ k r, f.dest[k]? = some r → (v.vreg r).full = true ∧ (v.vreg r).poison = (if f.bad.isSome then f.bad else (w.vreg r).poison) ∧
        ∀ l, l < 32 → lane (v.vreg r).lanes l = ((tget? f.got l).map (·.extractLsb' (32 * k) 32)).getD (lane (w.vreg r).lanes l)) ∧
  (∀ s w b f m l t off tb, s.warp? s.arg.w = some w → w.flights = [f] → f.id = s.arg.i → s.block? w.block = some b →
    f.waiting = (1 : Mask) <<< l → l < 32 → f.remaining = 0 → f.sent = 0 → f.deps = [] → f.done = false → f.fault = none → f.order = 0 →
    s.scratchAt w.block b (f.addrOf l) 4 = .at_ t off → s.block? t = some tb →
    (∀ d, f.instr = .ldl m → f.dest = [d] → Yields .missSlotFill s fun u => SameMem s u ∧ OtherWarps s u s.arg.w ∧
      (.registerFill, { w := s.arg.w, i := f.id }) ∈ u.inflight ∧ ∃ g, u.flight? s.arg.w f.id = some g ∧ g.done = true ∧
        tget? g.got l = some (BitVec.ofNat 64 (leVal (s.scratchBytes tb off 4)))) ∧
    (f.instr = .stl m → f.dest = [] → s.mem.wf → off % 4 = 0 → Yields .missSlotFill s fun u => SameMemBut (tb.keys off 4) s u ∧
      OtherWarps s u s.arg.w ∧ (∃ v, u.warp? s.arg.w = some v ∧ v.flights = []) ∧
      leVal (u.scratchBytes tb off 4) = (f.y.getD l 0).toNat % 2 ^ 32)) ∧
  (∀ s e, State.walkRuns (s.die s.arg.d) s.arg.n = true → s.walk s.arg.d (s.arg.n * 2 ^ 16) = .ok e → Yields .walkComplete s fun t => SameMem s t ∧
    tget? (t.die s.arg.d).walks s.arg.n = none ∧ e ∈ (t.die s.arg.d).tlb ∧
    ∀ q, q ∈ tget (s.die s.arg.d).walks s.arg.n [] → (.missSlotFill, { w := q.1, i := q.2 }) ∈ t.inflight) ∧
  (∀ s w lanes bad s', s.warp? s.arg.w = some w →
    let v := w.walker s.arg.n
    let p := aheadOf v.desc (v.i0, v.i1, v.i2) v.pre.length
    let base := walkAddr v.desc p.1 p.2.1 p.2.2
    v.bound ≠ 0 → walkOutput v.desc = false → v.pre.length < 4 → (∀ b d, Held.walk s.arg.n b d ∉ w.a.held ++ w.b.held) →
    s.fetchLanes s.arg.w.core v.desc base laneNums [] 0 = some (lanes, bad, s') →
    Yields .walkerFetch s fun t => SameMem s t ∧ OtherWarps s t s.arg.w ∧ ∃ u, t.warp? s.arg.w = some u ∧
      u.walker s.arg.n = { v with pre := v.pre ++ [{ lanes := lanes, bad := bad, base := base }] }) ∧
  ∀ s h, s.homeAt s.arg.d (s.arg.n * 128) = some h →
    let on := tget (s.die s.arg.d).attached s.arg.n []
    let asked := s.cores.any fun k => k.1.dieId == s.arg.d && k.2.tags.any fun t => t.2.held && !t.2.stale && t.2.use == .ifetch s.arg.n
    (∀ c cs t, h.pkg ≠ s.arg.d.pkg → on = c :: cs → asked = false →
      s.lineRequest c.1 h 1 (s.arg.n * 128) (.ifetch s.arg.n) = some t → exec .ifetchFill s = .next t) ∧
    (h.pkg = s.arg.d.pkg → s.pinHolder h = none → (∀ c, c ∈ on → s.shut 0 c.1 h = false) → ∀ g pa s',
      s.reach s.arg.d (s.arg.n * 128) = .at_ g pa s' → (s'.die g.dieId).lost = false → s'.isPoisoned g = false →
      Yields .ifetchFill s fun t => SameMem s' t ∧ t.warps = s'.warps ∧
        ∀ c, c ∈ on → ∃ l, tget? (t.core c.1).icache s.arg.n = some l ∧ l.data = s'.homeBytes g.dieId pa 128 ∧ c.2 ∈ l.pages)

/-- MATRIX_COMMAND_COMPLETE performs the first command of its queue: MZERO, MWR and MLOOP give the tile its new elements, MRD the
registers their elements (R371, R376). An MWAIT or MSTAT ends there (R363, R381, R382). Rests on the model's choices of log 14. -/
def Obligations.MatrixEvents : Prop :=
  ∀ s w bk f c cs, (s.core s.arg.c).mtx = c :: cs → (∀ o, o ∈ cs → o.id ≠ c.id) → c.w.core = s.arg.c → s.warp? c.w = some w →
    s.block? w.block = some bk → w.flights = [f] → f.id = c.fid → f.deps = [] → f.done = false → f.fault = none →
    let gives : Nat → (List Word → Prop) → Prop := fun z good => f.dest = [] → z < w.tiles → w.z.length = w.tiles →
      Yields .matrixCommandComplete s fun t => SameMem s t ∧ OtherWarps s t c.w ∧ (t.core s.arg.c).mtx = cs ∧
        ∃ v, t.warp? c.w = some v ∧ v.flights = [] ∧ good (v.tile z) ∧ (∀ y, y ≠ z → v.tile y = w.tile y) ∧
          ∀ r, v.vreg r = w.vreg r ∧ v.sreg r = w.sreg r ∧ v.preg r = w.preg r
    (∀ r : Reg, c.instr = .mzero r → gives r.d.toNat fun t => ∀ i j, elem t i j = 0) ∧
    (∀ (r : Reg) (x : Xr), c.instr = .mwr r ∨ c.instr = .mwrXr r x →
      gives r.d.toNat fun t => ∀ i j, i < 32 → j < 32 → elem t i j = lane (c.rows.getD j []) i) ∧
    (∀ (r : Reg) (x : Xr), c.instr = .mloop r x →
      let m := mloopOf x.minor.toNat c.sg c.fg
      let b := c.stream.getD (s.scratchRuns bk m.steps 1024, if m.readsB then s.scratchRuns bk (m.metas m.bMeta) 128 else [])
      let a := if m.readsA then s.scratchRuns bk (m.metas m.aMeta) 128 else []
      gives r.d.toNat fun t => t = (mloopTile m c.rows b.1 a b.2 (w.tile r.d.toNat)).1) ∧
    (∀ (r : Reg) (x : Xr), c.instr = .mrd r ∨ c.instr = .mrdXr r x → f.dest = regsFrom r.d.toNat 32 →
      Yields .matrixCommandComplete s fun t => SameMem s t ∧ OtherWarps s t c.w ∧ (t.core s.arg.c).mtx = cs ∧
        (.registerFill, { w := c.w, i := f.id }) ∈ t.inflight ∧ ∃ v, t.warp? c.w = some v ∧
          (∀ d, d ∉ f.dest → v.vreg d = w.vreg d) ∧ ∀ j i, j < 32 → i < 32 →
            lane (v.vreg (r.d.toNat + j)).lanes i =
              if c.mask.getLsbD i then elem (w.tile r.a.toNat) i j else lane (w.vreg (r.d.toNat + j)).lanes i) ∧
    ∀ r : Reg, c.instr = .mwait r ∨ c.instr = .mstat r →
      Yields .matrixCommandComplete s fun t => SameMem s t ∧ OtherWarps s t c.w ∧ (t.core s.arg.c).mtx = cs ∧
        t.warp? c.w = some { w with flights := [{ f with done := true, counted := false }] }

/-- The stream event of a broadcast MLOOP gives every participant the same B, core 0's, with which it may issue; with another K or B
width class all of them raise Membership (R374). PORTER_COMMAND_COMPLETE performs a run of bytes of a CFILL into the scratchpad,
any that is left, and completes the command with the last (R219, R388-R390); CHAIN_RECORD takes up a record, performs its rows
by runs of bytes, then counts it and gives the record back, and waits at a record that software owns, which CHAIN_POLL reads
again (R395). Rests on the model's choices of log 14, 33. -/
def Obligations.EngineEvents : Prop :=
  (∀ s p q i j, s.castWarps s.arg.g s.arg.n = [i, j] → s.atCast i.1 = some p → s.atCast j.1 = some q →
    p.1.wid = i.1 → q.1.wid = j.1 → i.1 ≠ j.1 → i.2.block.j < j.2.block.j →
    let group := fun (y : Site × Reg × Xr) (r : Nat) => State.group4 y.1.w r
    let loop := fun y : Site × Reg × Xr => mloopOf y.2.2.minor.toNat (group y y.2.1.b.toNat) (group y y.2.2.c.toNat)
    let m := loop p
    (m.k = (loop q).k → fmtWidth m.bFmt = fmtWidth (loop q).bFmt →
      let g : Grant := { sg := group p p.2.1.b.toNat, fg := group p p.2.2.c.toNat, steps := s.scratchRuns p.1.b m.steps 1024
                         metas := if m.readsB then s.scratchRuns p.1.b (m.metas m.bMeta) 128 else [] }
      Yields .broadcastStreamEvent s fun t => SameMem s t ∧ t.cores = s.cores ∧ (∀ v, v ≠ i.1 → v ≠ j.1 → t.warp? v = s.warp? v) ∧
        ∀ v, v = i.1 ∨ v = j.1 → t.warp? v = (s.warp? v).map fun w => { w with granted := some g }) ∧
    (m.k ≠ (loop q).k ∨ fmtWidth m.bFmt ≠ fmtWidth (loop q).bFmt →
      Yields .broadcastStreamEvent s fun t => SameMem s t ∧ t.cores = s.cores ∧
        ∀ y, y = p ∨ y = q → ∀ w, s.warp? y.1.wid = some w → w.trap = none →
          ∃ v, t.warp? y.1.wid = some v ∧ v.trap = some (y.1.trapOf 8 0 y.1.sl.mask))) ∧
  (∀ s w bk f r c cs, (s.core s.arg.c).porter = c :: cs → (∀ o, o ∈ cs → o.id ≠ c.id) → c.w.core = s.arg.c → s.warp? c.w = some w →
    s.block? w.block = some bk → w.flights = [f] → f.id = c.fid → f.deps = [] → f.sent = 0 → c.instr = .cfill r → c.order = 0 →
    c.bar = none → c.bad = none → c.owed = 0 → (s.core s.arg.c).porterFrozen = false →
    let cp := copyOf true c.dg c.sg c.src
    cp.space = 1 → cp.expand = false → cp.ctr = 0 → s.mem.wf →
    (∀ x, x ∈ c.left → 0 < x.2.2 ∧ x.2.1 + x.2.2 ≤ cp.len) →
    (∀ x, x ∈ c.left → ∀ i k, i < cp.len → k < cp.len →
      bk.arrayByte ((cp.dstScratch x.1).toNat + i) = bk.arrayByte ((cp.dstScratch x.1).toNat + k) → i = k) →
    (c.left ≠ [] → Yields .porterCommandComplete s fun t => OtherWarps s t c.w ∧ ∃ (x : Nat × Nat × Nat) (o n : Nat) (c' : PorterCmd),
      x ∈ c.left ∧ 0 < n ∧ x.2.1 ≤ o ∧ o + n ≤ x.2.1 + x.2.2 ∧ c' = { c with left := c'.left } ∧ (t.core s.arg.c).porter = c' :: cs ∧
      SameMemBut (bk.keys ((cp.dstScratch x.1).toNat + o) n) s t ∧
      ∀ i, i < n → t.scratchByte bk ((cp.dstScratch x.1).toNat + o + i) = c.src.extractLsb' (8 * ((o + i) % 4)) 8) ∧
    (c.left = [] → Yields .porterCommandComplete s fun t => SameMem s t ∧ OtherWarps s t c.w ∧ (t.core s.arg.c).porter = cs)) ∧
  (∀ s b k w rec s', s.arg.b = b → s.block? b = some k →
    let ch := s.arg.i
    let c := State.chan k ch
    let wid := s.chanWarp b c
    s.warp? wid = some w → (c.state = 1 ∨ c.state = 2) → c.doing = none → k.state = 0 → c.order = 0 → (s.core wid.core).porterFrozen = false →
    s.readVirtual 1 wid.core c.scope c.head.toNat 64 2 = .ok rec s' →
    let cp := recordCopy rec
    (field rec 36 4 % 2 = 0 → Yields .chainRecord s fun t => SameMem s' t ∧ ∃ k', t.block? b = some k' ∧ (State.chan k' ch).state = 2 ∧
      ∃ n, (n, .chainPoll, { b := b, i := ch }) ∈ t.timers) ∧
    (recordBad rec = false → field rec 36 4 = 1 → recordOutside cp k = none →
      let c' := { c with state := 1, doing := some rec, left := (List.range cp.rows).map fun r => (r, 0, cp.len), bad := none }
      exec .chainRecord s = .next ((s'.setChan b ch c').chainRow b k ch c' rec w))) ∧
  (∀ s b k w rec, s.arg.b = b → s.block? b = some k →
    let ch := s.arg.i
    let c := State.chan k ch
    let wid := s.chanWarp b c
    let cp := recordCopy rec
    let run := s.copyRun (s.chainCmd b c cp) b k cp 0 0 [] fun s pa n =>
      w.flights.any fun g => c.after.contains g.id && !g.done && s.postedByte wid.core g pa n
    let on := fun (s' : State) (left : List (Nat × Nat × Nat)) (bad : Option (Nat × Nat)) => (s'.block? b).isSome = true →
      Yields .chainRecord s fun t => SameMem s' t ∧ (.chainRecord, { b := b, i := ch }) ∈ t.inflight ∧ ∃ k', t.block? b = some k' ∧
        State.chan k' ch = { c with left := left, bad := bad }
    s.warp? wid = some w → c.doing = some rec → (s.core wid.core).porterFrozen = false → c.left ≠ [] →
    (∀ s' r left, run = .went s' r left → on s' left c.bad) ∧
    ∀ s' r row cause left, run = .fault s' r row cause left → on s' left (State.lowRow c.bad row cause)) ∧
  (∀ s b k w rec t2 k2, s.arg.b = b → s.block? b = some k →
    let ch := s.arg.i
    let c := State.chan k ch
    let wid := s.chanWarp b c
    let cp := recordCopy rec
    s.warp? wid = some w → c.doing = some rec → (s.core wid.core).porterFrozen = false → c.left = [] → c.bad = none → c.order = 0 → cp.ctr = 0 →
    s.writeVirtual 1 wid.core b c.scope (c.head.toNat + 36) (leBytes 4 0) 2 = .ok [] t2 → t2.block? b = some k2 →
    Yields .chainRecord s fun t => SameMem t2 t ∧ ∃ k', t.block? b = some k' ∧ (State.chan k' ch).records = c.records + 1 ∧
      (State.chan k' ch).doing = none ∧
      (if field rec 0 8 = 0 then (State.chan k' ch).state = 0
       else (State.chan k' ch).head = BitVec.ofNat 64 (field rec 0 8) ∧ (.chainRecord, { b := b, i := ch }) ∈ t.inflight)) ∧
  ∀ s k, s.block? s.arg.b = some k → (State.chan k s.arg.i).state = 2 → ∃ t, exec .chainPoll s = .next t ∧ exec .chainRecord s = .next t

/-- EVENT_TIMER_FIRE fires the slots whose target the timer has reached (R186); REGROUP_COMPLETE orders a block's lanes by the
predicate (R181); BLOCK_RETIRE frees a block whose warps have exited (R191); SERVICE_WORD_CHANGE lets a saved gang return
(R157). -/
def Obligations.WarpEvents : Prop :=
  (∀ s w, s.warp? s.arg.w = some w → Yields .eventTimerFire s fun t => SameMem s t ∧ OtherWarps s t s.arg.w ∧
    ∃ v, t.warp? s.arg.w = some v ∧ ∀ i, i < 8 → let e := w.events.getD i default
      if e.armed = true ∧ e.kind = 5 ∧ e.target.toNat ≤ w.timer.toNat then
        v.evp.getLsbD i = true ∧ v.events.getD i default = { e with armed := false, fired := true }
      else v.evp.getLsbD i = w.evp.getLsbD i ∧ v.events.getD i default = e) ∧
  (∀ s wid w k p, s.block? s.arg.b = some k → k.warps = 1 → s.warp? wid = some w →
    (∀ y, y ∈ s.warps → y.2.block = s.arg.b → y = (wid, w)) → w.block = s.arg.b → w.num = 0 → w.exited = false →
    w.regrouping = some (true, p) → w.a.held = [] → k.bars = 0 → (s.core wid.core).mtx = [] → (∀ v, v ∈ w.v → v.full = true) →
    let m := w.a.mask
    let q := w.preg p
    let order := laneNums.filter (fun l => m.getLsbD l && q.getLsbD l) ++ laneNums.filter (fun l => m.getLsbD l && !q.getLsbD l) ++
      laneNums.filter fun l => !m.getLsbD l
    Yields .regroupComplete s fun t => SameMem s t ∧ OtherWarps s t wid ∧ ∃ v, t.warp? wid = some v ∧ v.regrouping = none ∧
      (∀ r, r < w.v.length → ∀ l, l < 32 → lane (v.vreg r).lanes l = lane (w.vreg r).lanes (order.getD l l)) ∧
      (∀ r, r < w.p.length → ∀ l, l < 32 → (v.p.getD r 0).getLsbD l = (w.p.getD r 0).getLsbD (order.getD l l)) ∧
      (∀ l, l < 32 → v.a.mask.getLsbD l = m.getLsbD (order.getD l l)) ∧ v.s = w.s ∧ v.z = w.z ∧ v.events = w.events ∧
      v.a.pc = w.a.pc + BitVec.ofNat 64 (4 * ((w.a.clause.map (·.hdr.n)).getD 0 + 1))) ∧
  (∀ s k, s.block? s.arg.b = some k → s.arg.flag = false → k.state = 0 → (s.die k.core.dieId).lost = false →
    (∀ y, y ∈ s.warps → y.2.block = s.arg.b → y.2.exited = true ∧ y.2.trap = none ∧ y.2.a.blocked = none ∧ y.2.b.blocked = none ∧
      y.2.flights = [] ∧ y.2.narrow = []) → (s.core k.core).mtx = [] → (s.core k.core).porter = [] → (s.core k.core).lines = [] → (s.core k.core).tags = [] →
    (∀ c, c ∈ k.chans → c.doing = none) →
    Yields .blockRetire s fun t => t.block? s.arg.b = none ∧ ∀ y, y ∈ t.warps → y.2.block ≠ s.arg.b) ∧
  ∀ s k, s.block? s.arg.b = some k → s.arg.flag = false → k.state = 2 →
    (∀ n, n < k.warps → let a := s.slotPool k + 4096 + n * warpArea k.units k.tiles k.stack
      leVal (s.homeBytes k.core.dieId (a + 3160) 8) ≠ 0) →
    Yields .serviceWordChange s fun t => ∃ k', t.block? s.arg.b = some k' ∧ k'.state = 1

/-- A request at its home (R41, R43, R72, R204-R210, R351, R352, R405, R428), from an initiator of the same package, under the die's
current version, to a line that no core pins: the bytes that it names are read or written, no other byte changes, and its reply
is due; a message joins its mailbox, or is turned away with RETRY when four wait; a misaligned request is answered with ERROR
07h. -/
def Obligations.HomeRequests : Prop :=
  (∀ s : State,
    let q := s.arg.q
    let d := q.dst.dieId
    let n := 2 ^ q.size
    let old := s.homeBytes d q.addr n
    let keys := (List.range n).filterMap fun j => (s.homeAt d (q.addr + j)).map physKey
    let reply : Instr → (Packet → Prop) → State → Prop := fun i good t => ∃ r, (i, { q := r }) ∈ t.inflight ∧ r.tag = q.tag ∧
      r.round = q.round ∧ r.dst = q.issuer ∧ good r
    let put : Nat → State → Prop := fun v t => SameMemBut keys s t ∧ leVal (t.homeBytes d q.addr n) = v % 2 ^ (8 * n)
    ∀ h, q.issuer.pkg = q.dst.pkg → q.sym = false → q.scope ≤ 2 → q.order ≠ 3 → (s.die d).lost = false → (s.die d).pend = none →
      (s.die d).cur.version = q.version → (s.die d).migr = [] → s.homeAt d q.addr = some h → h.dieId = d → keys.Nodup → keys.length = n →
      s.barred h q.issuer = false → s.outsideWindow q = false →
      (q.size ≤ 4 → q.addr % n ≠ 0 → Yields .readRequest s fun t => SameMem s t ∧ reply .errorReply (fun r => r.data0 = 7) t) ∧
      (q.addr % n = 0 → (s.pinHolder h).isSome → q.issuer.unit ≠ 0 → q.size ≤ 4 →
        Yields .writeRequest s fun t => SameMem s t ∧ reply .retryReply (fun _ => True) t) ∧
      (q.addr % n = 0 → s.pinHolder h = none → s.isPoisoned h = false →
        (q.size ≤ 4 → Yields .readRequest s fun t => SameMem s t ∧ reply .readData (fun r => r.data0.toNat = leVal old) t) ∧
        (q.size ≤ 4 → s.mem.wf → Yields .writeRequest s fun t => put q.data0.toNat t ∧ reply .writeAck (fun _ => True) t) ∧
        (q.size = 2 ∨ q.size = 3 → s.mem.wf →
          (q.atom / 4 = 0 → Yields .atomicRequest s fun t => put (leVal old + q.data0.toNat) t ∧
            reply .atomicData (fun r => r.data0.toNat = leVal old) t) ∧
          Yields .casRequest s fun t => reply .casData (fun r => r.data0.toNat = leVal old) t ∧
            (if leVal old = q.data0.toNat % 2 ^ (8 * n) then put q.data1.toNat t else SameMem s t)) ∧
        (q.addr % 128 = 0 → Yields .lineRead s fun t => SameMem s t ∧ (q.scope = 0 → s.pinHolder h = none →
            t.pinHolder h = some q.issuer.core) ∧ ∃ l, (.lineData, { p := q.issuer.pkg, l := l }) ∈ t.inflight ∧ l.tag = q.tag ∧
            l.data = s.homeBytes d q.addr 128))) ∧
  (∀ s : State,
    let l := s.arg.l
    let d := l.dst.dieId
    let keys := (List.range 128).filterMap fun j => (s.homeAt d (l.addr + j)).map physKey
    ∀ h, keys.Nodup → keys.length = 128 → l.issuer.pkg = l.dst.pkg → l.addr % 128 = 0 → l.scope ≤ 2 → (s.die d).lost = false → (s.die d).pend = none →
      (s.die d).cur.version = l.version → (s.die d).migr = [] → s.homeAt d l.addr = some h → h.dieId = d → s.pinHolder h = none →
      s.barred h l.issuer = false → l.mask = BitVec.allOnes 128 → l.data.length = 128 → l.poison = false → s.mem.wf →
      Yields .lineWrite s fun t => t.homeBytes d l.addr 128 = l.data ∧ t.isPoisoned h = false ∧
        SameMemBut keys s t ∧
        ∃ r, (.writeAck, { q := r }) ∈ t.inflight ∧ r.tag = l.tag ∧ r.round = l.round ∧ r.dst = l.issuer) ∧
  (∀ s : State, let l := s.arg.l
    let d := l.dst.dieId
    l.issuer.pkg = l.dst.pkg → (s.die d).lost = false → (tget? (s.die d).visitors (lineOf l.addr)).isSome →
    Yields .linePush s fun t => SameMem s t ∧ (∃ r, (.writeAck, { q := r }) ∈ t.inflight ∧ r.dst = l.issuer) ∧
      tget? (t.die d).visitors (lineOf l.addr) = if l.mask = 0 ∨ l.poison = true then none else some l.data) ∧
  ∀ s : State, let q := s.arg.q
    let c : CoreId := { pkg := q.dst.pkg, die := q.dst.die, pos := q.addr / 2 ^ 12 % 64 }
    let box := tget (s.core c).mbox (q.addr % 16) []
    q.issuer.pkg = q.dst.pkg → q.sym = false → q.size = 4 → q.addr < 2 ^ 18 → q.addr / 16 % 2 ^ 8 = 0 → q.dst.die ≤ 3 →
    (s.die q.dst.dieId).lost = false → (s.die q.dst.dieId).working.getLsbD c.pos = true →
    (4 ≤ box.length → Yields .mailboxRequest s fun t => t.cores = s.cores ∧ ∃ r, (.retryReply, { q := r }) ∈ t.inflight ∧ r.tag = q.tag) ∧
    (box.length < 4 → (s.core c).recv = [] → Yields .mailboxRequest s fun t => SameMem s t ∧
      tget (t.core c).mbox (q.addr % 16) [] = box ++ [q.data0] ∧ ∃ r, (.writeAck, { q := r }) ∈ t.inflight ∧ r.tag = q.tag)

/-- A reply that its tag accepts ends what the tag was taken for (R41-R46, R221): a value goes to its lane, an acknowledgement ends
a store, a line fills the lane that asked, an ERROR or a timeout poisons the destination, RETRY sends the request again after 1
us; a reply that no tag accepts is recorded as event 0021h and changes nothing else. Rests on the model's choices of log 26, 27. -/
def Obligations.Replies : Prop :=
  let lane : State → CoreId → Nat → WarpId → Nat → Nat → Flight → Prop := fun s c n w id l f =>
    (s.tag c n).use = .lane w id l ∧ s.flight? w id = some f ∧ l < 32 ∧ f.sent = (1 : Mask) <<< l ∧ f.remaining = 0 ∧ f.waiting = 0 ∧
      f.done = false ∧ f.fault = none ∧ f.order = 0 ∧ f.dest ≠ [] ∧ f.tags = [] ∧ (s.tag c n).held = true
  let filled : State → State → WarpId → Nat → Nat → Option DWord → Option Poison → Prop := fun s t w id l v p =>
    SameMem s t ∧ (.registerFill, { w := w, i := id }) ∈ t.inflight ∧ ∃ g, t.flight? w id = some g ∧ g.done = true ∧
      (∀ x, v = some x → tget? g.got l = some x) ∧ g.bad = p
  (∀ s i w id l f o m e, (i = .readData ∨ i = .atomicData ∨ i = .casData) → s.arg.q.issuer.unit = 0 →
    let q := s.arg.q
    let c := q.issuer.core
    ((s.tag c q.tag).held = false ∨ (s.tag c q.tag).round ≠ q.round →
      Yields i s fun t => SameMem s t ∧ t.warps = s.warps ∧ t.cores = s.cores ∧
        ((t.pkg c.pkg).events.getLast?.map (·.code)) = some 0x21) ∧
    (lane s c q.tag w id l f → (s.tag c q.tag).round = q.round → memOf f.instr = some (o, m, e) →
      Yields i s fun t => filled s t w id l (some (o.loaded (leBytes o.width q.data0.toNat))) f.bad ∧ (t.tag c q.tag).held = false)) ∧
  (∀ s, s.arg.q.issuer.unit = 0 →
    let q := s.arg.q
    let c := q.issuer.core
    (s.tag c q.tag).held = true → (s.tag c q.tag).round = q.round →
    (∀ w id l f, (s.tag c q.tag).use = .post w id l → s.flight? w id = some f → l < 32 → f.sent = (1 : Mask) <<< l → f.remaining = 0 →
      f.waiting = 0 → f.done = false → f.fault = none → f.order = 0 → f.dest = [] →
      Yields .writeAck s fun t => SameMem s t ∧ t.flight? w id = none ∧ (t.tag c q.tag).held = false) ∧
    (∀ pa k, (s.tag c q.tag).use = .writeback pa → s.cached c pa = some k → k.use = 0 →
      Yields .writeAck s fun t => SameMem s t ∧ (t.cached c pa).map (·.pin) = some .no ∧ (t.tag c q.tag).held = false) ∧
    (∀ w id l f, lane s c q.tag w id l f → (s.tag c q.tag).line = none → (memOf f.instr).map (·.1.space) = some .pool → f.bad = none →
      Yields .errorReply s fun t => filled s t w id l none
        (some { origin := f.addr, aux := BitVec.ofNat 64 (q.data0.toNat % 256) })) ∧
    Yields .retryReply s fun t => SameMem s t ∧ t.warps = s.warps ∧ (s.now + 1000, .retryResend, { c := c, n := q.tag, i := q.round }) ∈ t.timers ∧
      (t.tag c q.tag).deadline = (s.timeAt c.pkg).toNat + s.timeoutNs) ∧
  (∀ s w id n f o m e, let l := s.arg.l
    let c := l.dst.core
    lane s c l.tag w id n f → (s.tag c l.tag).round = l.round → l.poison = false → memOf f.instr = some (o, m, e) →
    Yields .lineData s fun t => filled s t w id n (some (o.loaded ((l.data.drop (f.addrOf n % 128)).take o.width))) f.bad) ∧
  (∀ s, let c := s.arg.c
    let n := s.arg.n
    let k := s.tag c n
    let sent := { k.req with version := (s.die c.dieId).cur.version }
    s.arg.flag = false →
    (k.held = true → k.round = s.arg.i → k.line = none → ∀ i, packetEvent k.req.opcode = some i →
      (k.req.src.pkg = k.req.dst.pkg → k.req.dst.unit ≠ 2 → Yields .retryResend s fun t => SameMem s t ∧ (i, { q := sent }) ∈ t.inflight) ∧
      (∀ h, k.req.dst.unit = 2 → k.req.opcode ≠ 5 → s.homeAt c.dieId k.req.addr = some h → k.req.src.pkg = h.pkg →
        Yields .retryResend s fun t => SameMem s t ∧ (i, { q := { sent with dst := homeEndpoint h } }) ∈ t.inflight)) ∧
    (∀ w id l f, lane s c n w id l f → k.line = none → k.deadline ≤ (s.timeAt c.pkg).toNat → (memOf f.instr).map (·.1.space) = some .pool → f.bad = none →
      Yields .tagTimeout s fun t => filled s t w id l none (some { origin := f.addr, aux := 0xFF }) ∧ (t.tag c n).held = false ∧
        (t.tag c n).quarantine = true ∧ (s.now + s.timeoutNs, .tagQuarantineEnd, { c := c, n := n }) ∈ t.timers) ∧
    Yields .tagQuarantineEnd s fun t => SameMem s t ∧ (t.tag c n).quarantine = false ∧ t.warps = s.warps)

/-- Combining and multicast at a router (R50-R55, R360): integer and bit elements fold by the operator; a lone contribution comes
back as it was sent, one without an entry is answered with ERROR 05h, a result fills its contributor's register, a held sequence
enters when there is room, an incomplete one is abandoned, and a multicast line is written at a member's own symmetric place.
Rests on the model's choices of log 86, 87. -/
def Obligations.Routers : Prop :=
  (∀ (a x : Vec32) i, i < 32 → a.present.getD i false = true → x.present.getD i false = true →
    let e := fun op => (foldVec op a x).elems.getD i 0
    let p := a.elems.getD i 0
    let q := x.elems.getD i 0
    e 0 = fadd .rne p q ∧ e 1 = p + q ∧ e 2 = fmax p q ∧ e 3 = fmin p q ∧ e 4 = p &&& q ∧ e 5 = p ||| q) ∧
  (∀ s : State, let l := s.arg.l
    let p := s.arg.p
    l.src.pkg = p → l.issuer.pkg = p →
    (tget? (s.pkg p).groups l.group = none → Yields .combineUp s fun t => SameMem s t ∧
      ∃ r, (.errorReply, { q := r }) ∈ t.inflight ∧ r.dst = l.issuer ∧ r.tag = l.tag ∧ r.data0 = 5) ∧
    ∀ g, tget? (s.pkg p).groups l.group = some g → g.root = true → g.local_ = true → g.children = 0 → l.operator = g.operator →
      l.operator ≤ 6 → l.index < g.lines → (s.pkg p).seqs = [] → l.data.length = 128 → l.mask = BitVec.allOnes 128 →
      Yields .combineUp s fun t => SameMem s t ∧ ∃ r, (.combineDown, { p := p, l := r }) ∈ t.inflight ∧ r.dst = l.issuer ∧ r.tag = l.tag ∧
        r.round = l.round ∧ r.data = l.data ∧ r.mask = l.mask ∧ r.folded = l.folded ∧ r.poison = l.poison) ∧
  (∀ s w id f d, let l := s.arg.l
    let c := l.dst.core
    l.dst.unit = 0 → (s.tag c l.tag).held = true → (s.tag c l.tag).round = l.round → (s.tag c l.tag).use = .combine w id →
    l.poison = false → l.mask = BitVec.allOnes 128 → s.flight? w id = some f → f.dest = [d] → f.done = false → f.fault = none → f.order = 0 →
    Yields .combineDown s fun t => SameMem s t ∧ (.registerFill, { w := w, i := id }) ∈ t.inflight ∧ ∃ g, t.flight? w id = some g ∧
      g.done = true ∧ ∀ i, i < 32 → f.active.getLsbD i = true → tget? g.got i = some (BitVec.ofNat 64 (field l.data (4 * i) 4))) ∧
  (∀ s g i l, let p := s.arg.p
    (s.pkg p).queued = [(i, l)] → l.group = s.arg.i → tget? (s.pkg p).groups l.group = some g → l.operator ≤ 6 → l.operator = g.operator →
    (State.Group.inputs g).contains i = true → l.index < g.lines → (s.pkg p).seqs = [] → (∃ j, j ∈ State.Group.inputs g ∧ j ≠ i) →
    Yields .combineSequenceAdmit s fun t => SameMem s t ∧ (t.pkg p).queued = [] ∧
      ∃ c, (t.pkg p).seqs = [c] ∧ c.group = l.group ∧ c.seq = l.seq ∧ c.index = l.index ∧ tget? c.inputs i = some l) ∧
  (∀ s c, let p := s.arg.p
    s.arg.flag = false → (s.pkg p).seqs = [c] → c.group = s.arg.i → c.seq = s.arg.n → c.abandoned = false →
    Yields .combineSequenceAbandon s fun t => SameMem s t ∧ (.combineSequenceAdmit, { p := p, i := c.group }) ∈ t.inflight ∧
      ∃ m, (t.pkg p).seqs = [m] ∧ m.group = c.group ∧ m.seq = c.seq ∧ m.abandoned = true) ∧
  ∀ s pa h, let p := s.arg.p
    let l := s.arg.l
    let d : DieId := { pkg := p, die := 0 }
    let keys := (List.range 128).filterMap fun j => (s.homeAt d (pa + j)).map physKey
    s.arg.flag = true → s.arg.q.opcode = 0 → s.symResolve p l.addr = some pa → pa % 128 = 0 → s.homeAt d pa = some h →
    (s.die h.dieId).lost = false → (s.die h.dieId).migr = [] → s.barred h l.issuer = false → s.pinHolder h = none → l.scope ≤ 2 → l.mask = BitVec.allOnes 128 → l.data.length = 128 →
    s.mem.wf → keys.Nodup → keys.length = 128 →
    Yields .mcastLine s fun t => SameMemBut keys s t ∧ t.homeBytes d pa 128 = l.data

/-- Ports (R18, R27-R39), module links (R13), the region switch (R70, R72) and page migration (R74-R78). Rests on the model's
choices of log 88, 89, 115, 116, 117. -/
def Obligations.PortsAndPages : Prop :=
  (∀ m f, laneCount m ≠ 0 → overLanes m f = f) ∧
  (∀ s i, let p := s.arg.p
    let n := s.arg.port
    let v := s.port p n
    let q := farEnd p n
    v.state = 1 → s.isMember p = true → s.isMember q = true → State.pickFlit v (v.slots % 64 == 63) = some i →
    Yields .flitTransmit s fun t => SameMem s t ∧ (t.port p n).seqOut = (v.seqOut + 1) % 2 ^ 16 ∧ (t.port p n).queue = v.queue.eraseIdx i ∧
      ∃ f, (.flitReceive, { p := q, port := portTo q p, bytes := overLanes v.txLanes f }) ∈ t.inflight ∧ (t.port p n).retry.getLast? = some f ∧
        ((v.queue.getD i []).length = 256 → f.drop 32 = (v.queue.getD i []).drop 32)) ∧
  (∀ s i, let p := s.arg.p
    let n := s.arg.port
    let f := s.arg.bytes
    let h := flitHdr f
    s.arg.flag = false → s.earlierFlit p n h.seq = false → (s.port p n).state = 1 →
    (flitOk f = false → Yields .flitReceive s fun t => SameMem s t ∧ ((t.pkg p).events.getLast?.map (·.code)) = some 0x20 ∧
      t.inflight = s.inflight ∧ t.port p n = { s.port p n with seqIn := State.seqPast (s.port p n) f }) ∧
    (flitOk f = true → seqAfter h.seq (s.port p n).seqIn = true → h.kind = 3 → Yields .flitReceive s fun t => SameMem s t ∧
      (t.port p n).state = 2 ∧ (t.port p n).seqIn = h.seq) ∧
    (flitOk f = true → seqAfter h.seq (s.port p n).seqIn = true → h.kind = 1 → h.slots = 1 → h.dst.pkg = p → h.src.unit ≠ 4 →
      s.behind p (farEnd p n) h.src.pkg = true → (s.pkg p).frozen = [] → packetEvent (slotOf h (flitBody f)).opcode = some i →
      Yields .flitReceive s fun t => SameMem s t ∧ (i, { q := slotOf h (flitBody f) }) ∈ t.inflight ∧ (t.port p n).seqIn = h.seq ∧
        (t.port p n).ackIn = h.ack)) ∧
  (∀ s, let p := s.arg.p
    let n := s.arg.port
    let q := farEnd p n
    let m := portTo q p
    p < 512 → n < 46 → s.isMember p = true → s.isMember q = true →
    ((s.port p n).state = 1 → s.arg.flag = false ∨ (s.pkg p).record.laneThreshold.toNat < s.arg.n →
      let f := s.controlFlit p q (s.port p n) ((s.port p n).rxLanes &&& ~~~s.arg.rx)
      Yields .portRetrain s fun t => SameMem s t ∧ (t.port p n).state = 2 ∧ (s.now + 25000, .portRetrainEnd, s.arg) ∈ t.timers ∧
        (.flitReceive, { p := q, port := m, bytes := overLanes (s.port p n).txLanes f }) ∈ t.inflight) ∧
    ((s.port p n).state = 2 → s.arg.rx ≠ 0 → s.arg.tx ≠ 0 → Yields .portRetrainEnd s fun t => SameMem s t ∧
      (t.port p n).state = 1 ∧ (t.port p n).rxLanes = s.arg.rx ∧ (t.port p n).txLanes = s.arg.tx ∧ (t.port q m).state = 1 ∧
      ((t.pkg p).events.getLast?.map (·.code)) = some 0x11) ∧
    ((s.port p n).state = 2 → s.arg.rx = 0 ∨ s.arg.tx = 0 → (s.port p n).queue = [] → (s.port q m).queue = [] →
      Yields .portRetrainEnd s fun t => (t.port p n).state = 3 ∧ (t.port q m).state = 3) ∧
    ((s.port p n).state = 3 → Yields .portReenable s fun t => SameMem s t ∧ (t.port p n).state = 1 ∧ (t.port q m).state = 1)) ∧
  (∀ s, let l := s.arg.link
    (s.arg.i < linkModules l.a l.b → s.arg.i ∉ tget (s.pkg l.pkg).modules l [] → Yields .moduleRetrain s fun t => SameMem s t ∧
      (s.now + 20000, .moduleRetrainEnd, s.arg) ∈ t.timers) ∧
    (s.arg.flag = true → s.arg.i ∉ tget (s.pkg l.pkg).modules l [] → Yields .moduleRetrainEnd s fun t => SameMem s t ∧
      tget (t.pkg l.pkg).modules l [] = tget (s.pkg l.pkg).modules l [] ++ [s.arg.i] ∧
      ((t.pkg l.pkg).events.getLast?.map (·.code)) = some 0x10)) ∧
  (∀ s b, (s.die s.arg.d).pend = some b → Yields .regionSwitch s fun t => SameMem s t ∧ (t.die s.arg.d).cur = b ∧
    (t.die s.arg.d).prev = some (s.die s.arg.d).cur ∧ (t.die s.arg.d).pend = none) ∧
  ∀ s, let d := s.arg.d
    let keysAt := fun a n => (List.range n).filterMap fun j => (s.homeAt d (a + j)).map physKey
    (∀ m ms, (s.die d).waitq = m :: ms → (s.die d).migr = [] → s.commit = none → 16 ≤ m.log → s.mem.wf → (keysAt m.leaf 8).Nodup →
      (keysAt m.leaf 8).length = 8 → s.leafHeld d m = false → s.leafOf d m / 2 ^ 59 % 2 = 0 →
      Yields .migrationStart s fun t => SameMemBut (keysAt m.leaf 8) s t ∧ t.leafOf d m = s.leafOf d m + 2 ^ 59 ∧
        (t.die d).waitq = ms ∧ (∃ m', m' ∈ (t.die d).migr ∧ m'.desc = m.desc ∧ m'.phase = 1 ∧ m'.dirty = List.range m.lines) ∧
        (.copyPassEnd, { d := d, i := m.desc }) ∈ t.inflight) ∧
    (∀ m i h, s.arg.flag = false → (s.die d).migr = [m] → m.desc = s.arg.i → m.phase = 1 → s.homeAt d m.newPa = some h →
      (s.die h.dieId).lost = false → (m.passes = 0 → s.arg.n = 0 → s.leafPushing d m = false) → i ∈ m.dirty → s.arg.n ≤ i → (∀ j, j ∈ m.dirty → s.arg.n ≤ j → i ≤ j) → s.mem.wf →
      m.newPa % 128 = 0 → m.oldPa % 128 = 0 → (keysAt (m.newPa + 128 * i) 128).Nodup → (keysAt (m.newPa + 128 * i) 128).length = 128 →
      (s.homeAt d (m.oldPa + 128 * i)).isSome →
      Yields .copyPassEnd s fun t => SameMemBut (keysAt (m.newPa + 128 * i) 128) s t ∧
        t.homeBytes d (m.newPa + 128 * i) 128 = s.homeBytes d (m.oldPa + 128 * i) 128 ∧
        (.copyPassEnd, { s.arg with n := i + 1 }) ∈ t.inflight) ∧
    (∀ m, (s.die d).migr = [m] → m.desc = s.arg.i →
      (m.phase = 2 → Yields .migrationPinWaitEnd s fun t => SameMem s t ∧ (t.die d).migr = [{ m with phase := 1 }] ∧
        (.copyPassEnd, { d := d, i := m.desc }) ∈ t.inflight) ∧
      (m.phase = 3 → Yields .migrationWindowEnd s fun t => SameMem s t ∧ (t.die d).migr = []))

/-- The command queue (R82-R84, R87, R90-R95, R98, R99, R102). The next packet is read and mirrored; it starts when the standby has
it, its turn has come, and its body is well formed, and else it halts the queue, which a status of 0 restarts. Each kind then
does what it says: an atomic at a signal's home, a wait for a condition with its timeout, a fence, a new table and its slots,
combining groups, a launch that starts or is rejected. Rests on the model's choices of log 90, 91, 92, 93, 130. -/
def Obligations.Queue : Prop :=
  let ready : State → Prop := fun s => s.arg.src = .queue ∧ s.packetReady = true
  let started : State → State → Prop := fun s t => t.queue.confirmed = s.arg.n + 1 ∧ t.queue.cur = none ∧ t.queue.status = s.queue.status
  (∀ s bs w, let r := (s.afterOnce 10000 .queuePoll {}).watchQueue
    s.dom.configured = true → s.queue.status = 0 → s.frozen = false → s.queue.cur = none → s.queue.waiting = none →
    r.queueWord 16 = some s.queue.confirmed → r.queueWord 8 = some w → s.queue.confirmed < w →
    r.fwBytes r.lead (r.queueSlot s.queue.confirmed) 64 = .ok bs r →
    Yields .queuePoll s fun t => SameMem s t ∧ t.queue.cur = some (s.queue.confirmed, bs) ∧ t.queue.acked = false ∧
      (.mirrorAck, { n := s.queue.confirmed }) ∈ t.inflight ∧
      (field bs 0 1 = 0x11 → t.queue.serial = s.serial ∧ t.serial = s.serial + 1)) ∧
  (∀ s i bs, s.queue.cur = some (i, bs) → s.queue.acked = false → s.queue.status = 0 → s.frozen = false → s.packetDue i = false →
    s.arg.n = i →
    (∀ e, packetStart (packetKind bs) = some e → packetVersion bs = 1 → packetKind bs = 1 ∨ headerClean bs = true →
      (packetBarrier bs = true ∧ s.queue.grids ≠ [] ∨ packetKind bs = 1 ∧ 64 ≤ s.gridsInFlight →
        Yields .mirrorAck s fun t => SameMem s t ∧ t.inflight = s.inflight ∧ t.queue.cur = s.queue.cur) ∧
      (packetBarrier bs = false ∨ s.queue.grids = [] → packetKind bs ≠ 1 ∨ s.gridsInFlight < 64 →
        Yields .mirrorAck s fun t => SameMem s t ∧ t.inflight = s.inflight ++ [(e, { n := i, src := .queue, bytes := bs, flag := s.queue.again && packetKind bs = 6 })])) ∧
    (packetStart (packetKind bs) = none ∨ packetVersion bs ≠ 1 ∨ packetKind bs ≠ 1 ∧ headerClean bs = false →
      Yields .mirrorAck s fun t => Halted s t 1)) ∧
  (∀ s, s.arg.flag = false → s.queue.status ≠ 0 → (∀ a, (.queueRestart, a) ∈ s.inflight → a.flag = false) →
    (∀ n a, (n, .queueRestart, a) ∈ s.timers → a.flag = false) → s.fwBytes s.lead (s.dom.queueBase + 24) 1 = .ok [0] s →
    Yields .queueRestart s fun t => SameMem s t ∧ t.queue.status = 0 ∧ t.queue.cur = none ∧ (.queuePoll, {}) ∈ t.inflight) ∧
  (∀ s, ready s → let bs := s.arg.bytes
    let va := BitVec.ofNat 64 (field bs 8 8)
    (bodyBad bs = true → ∀ i, i = .nopPacket ∨ i = .signalPacket ∨ i = .waitPacket ∨ i = .tablePacket ∨ i = .combineConfig ∨
        i = .fencePacket ∧ s.arg.flag = false → Yields i s fun t => Halted s t 1) ∧
    (bodyBad bs = false →
      Yields .nopPacket s (fun t => SameMem s t ∧ started s t) ∧
      (field bs 8 8 % 8 ≠ 0 → ∀ i, i = .signalPacket ∨ i = .waitPacket → Yields i s fun t => Halted s t 4) ∧
      (field bs 8 8 % 8 = 0 →
        (∀ e h pa s', s.fwTranslate s.lead (field bs 8 8) true = .ok e →
          s.reach (State.feDie s.lead) (e.phys (field bs 8 8)) = .at_ h pa s' →
          let old := leVal (s'.homeBytes h.dieId pa 8)
          let n := if bits (field bs 24 1) 1 0 = 0 then field bs 16 8 else
            if bits (field bs 24 1) 1 0 = 1 then old + field bs 16 8 else old + 2 ^ 64 - field bs 16 8
          let keys := (List.range 8).filterMap fun j => (s'.homeAt h.dieId (pa + j)).map physKey
          (s'.die h.dieId).lost = false → s'.pinHolder h = none → s'.isPoisoned h = false → s.mem.wf → keys.Nodup → keys.length = 8 →
          bits (field bs 24 1) 4 2 < 3 ∨ s.noPushes = true →
          if BitVec.ofNat 64 (2 ^ 63 + s.arg.n) ∈ (s'.die h.dieId).tagged then Yields .signalPacket s fun t => SameMem s t ∧ started s t
          else Yields .signalPacket s fun t => SameMemBut keys s t ∧ leVal (t.homeBytes h.dieId pa 8) = n % 2 ^ 64 ∧
            started s t ∧ BitVec.ofNat 64 (2 ^ 63 + s.arg.n) ∈ (t.die h.dieId).tagged) ∧
        (∀ e, s.fwTranslate s.lead (field bs 8 8) false = .ok e → Yields .waitPacket s fun t => SameMem s t ∧
          t.queue.waiting = some (s.arg.n, bs, (s.timeAt s.lead).toNat) ∧ t.queue.cur = none ∧ t.queue.confirmed = s.queue.confirmed ∧
          (.waitConditionTrue, { n := s.arg.n }) ∈ t.inflight ∧
          (field bs 28 4 ≠ 0 → (s.now + 1000 * field bs 28 4, .waitTimeout, { n := s.arg.n }) ∈ t.timers))) ∧
      (s.arg.flag = false → Yields .fencePacket s fun t => SameMem s t ∧ started s t ∧ t.queue.waiting = some (s.arg.n, bs, 0) ∧
        (.fencePacket, { n := s.arg.n, flag := true }) ∈ t.inflight) ∧
      (∀ tb, let entry := fun j => (tb.drop (32 * j)).take 32
        field bs 8 8 % 32 = 0 → s.fwBytes s.lead va (32 * field bs 16 2) = .ok tb s →
        ((∃ j, j < field bs 16 2 ∧ entryBad (entry j) = true) → Yields .tablePacket s fun t => Halted s t 1 ∧ t.queue.tt = s.queue.tt) ∧
        ((∀ j, j < field bs 16 2 → entryBad (entry j) = false) → Yields .tablePacket s fun t => SameMem s t ∧ started s t ∧
          t.queue.tt.length = field bs 16 2 ∧ ∀ j, j < field bs 16 2 → let v := t.ttEntry j
            let now := (s.timeAt s.lead).toNat
            v.period = field (entry j) 0 8 ∧ v.offset = field (entry j) 8 8 ∧ v.launch.toNat = field (entry j) 16 8 ∧
              v.rule = bits (field (entry j) 24 1) 1 0 ∧ v.enable = (field (entry j) 24 1).testBit 7 ∧ v.running = none ∧ v.pending = false ∧
              now + 10000 ≤ v.offset + v.slot * v.period ∧ ∀ k, now + 10000 ≤ v.offset + k * v.period → v.slot ≤ k)) ∧
      ∀ tb, let es := (List.range 512).map fun p => field tb (8 * p) 8
        field bs 16 8 % 8 = 0 → s.fwBytes s.lead (BitVec.ofNat 64 (field bs 16 8)) 4096 = .ok tb s →
        (treeOk s.isMember es = false → Yields .combineConfig s fun t => Halted s t 3) ∧
        (treeOk s.isMember es = true → s.arg.flag = false → Yields .combineConfig s fun t => SameMem s t ∧ started s t ∧
          ∀ p, p < 512 → s.isMember p = true → let e := es.getD p 0
            ((∀ m, m < 512 → (es.getD m 0).testBit 63 = false) → tget? (t.pkg p).groups (field bs 8 2 % 2 ^ 10) = none) ∧
            (∀ m, m < 512 → (es.getD m 0).testBit 63 = true → ∃ g, tget? (t.pkg p).groups (field bs 8 2 % 2 ^ 10) = some g ∧ g.operator = field bs 10 1 ∧ g.lines = field bs 11 1 ∧
              g.valid = e.testBit 63 ∧ (g.valid = true → g.local_ = e.testBit 62 ∧ g.root = e.testBit 61 ∧ g.parent = bits e 59 54 ∧
                g.children = BitVec.ofNat 46 e))))) ∧
  (∀ s i bs t0, s.queue.waiting = some (i, bs, t0) → s.arg.n = i →
    (packetKind bs = 3 → s.frozen = false → ∀ v, s.fwBytes s.lead (BitVec.ofNat 64 (field bs 8 8)) 8 = .ok v s →
      let holds : Prop := match bits (field bs 24 1) 1 0 with
        | 0 => leVal v = field bs 16 8
        | 1 => leVal v ≠ field bs 16 8
        | 2 => field bs 16 8 ≤ leVal v
        | _ => leVal v < field bs 16 8
      (holds → Yields .waitConditionTrue s fun t => SameMem s t ∧ started s t ∧ t.queue.waiting = none) ∧
      (¬ holds → Yields .waitConditionTrue s fun t => SameMem s t ∧ t.queue = s.queue)) ∧
    (packetKind bs = 3 → s.frozen = false → t0 + 1000 * field bs 28 4 ≤ (s.timeAt s.lead).toNat →
      Yields .waitTimeout s fun t => Halted s t 2) ∧
    (packetKind bs = 4 → s.arg.flag = true → s.queue.grids = [] → bits (field bs 8 1) 2 0 < 3 ∨ s.noPushes = true →
      Yields .fencePacket s fun t => SameMem s t ∧ t.queue.waiting = none ∧ (.queuePoll, {}) ∈ t.inflight)) ∧
  (∀ s, let e := s.arg.i
    let v := s.ttEntry e
    let skipped : State → Prop := fun t => (t.ttEntry e).slot = v.slot + 1 ∧ (t.ttEntry e).skipped = v.skipped + 1 ∧
      (t.ttEntry e).running = v.running
    s.arg.flag = false → v.enable = true → v.slot = s.arg.n → v.offset + v.slot * v.period ≤ (s.timeAt s.lead).toNat →
    (s.frozen = true ∨ 64 ≤ s.gridsInFlight → Yields .ttSlot s skipped) ∧
    (∀ c a, s.frozen = false → s.gridsInFlight < 64 → s.slotPacket v = .fault c a → Yields .ttSlot s fun t => skipped t ∧
      ∃ u : State, ((u.pkg s.lead).events.getLast?.map (·.code)) = some 0x31 ∧ t = u.skipSlot e) ∧
    ∀ p, s.frozen = false → s.gridsInFlight < 64 → s.slotPacket v = .ok p s →
    (v.running = none → Yields .ttSlot s fun t => SameMem s t ∧ (t.ttEntry e).slot = v.slot + 1 ∧
      (.launchPacket, { src := .table e, bytes := p }) ∈ t.inflight) ∧
    (∀ h, v.running = some h →
      (v.rule = 0 ∨ v.rule = 1 ∧ v.pending = true → Yields .ttSlot s skipped) ∧
      (v.rule = 1 → v.pending = false → Yields .ttSlot s fun t => SameMem s t ∧ (t.ttEntry e).slot = v.slot + 1 ∧
        (t.ttEntry e).pending = true ∧ (t.ttEntry e).packet = p) ∧
      (v.rule = 2 → Yields .ttSlot s fun t => (t.ttEntry e).preempted = v.preempted + 1 ∧
        (.launchPacket, { src := .table e, bytes := p }) ∈ t.inflight ∧
        ∀ k, k ∈ s.children .rack → t.told .brokerVacate .rack k h (0, 0) fun w => w.toNat % 2 ^ 8 = 1))) ∧
  (∀ s, let p := s.arg.bytes
    ready s → s.arg.port = 0 → s.writable s.lead (field p 40 8) 64 = some true →
    (∀ l h d, s.check .queue s.queue.serial (BitVec.ofNat 64 s.arg.n) p s.arg.flag = .accept l → s.freeHandle .queue = some h →
      s.fwBytes s.lead (BitVec.ofNat 64 (field p 8 8)) 128 = .ok d s →
      Yields .launchPacket s fun t => started s t ∧ t.launch? h = some l ∧ h ∈ t.queue.grids ∧ l.serial = s.queue.serial) ∧
    ∀ status l, s.check .queue s.queue.serial (BitVec.ofNat 64 s.arg.n) p s.arg.flag = .reject status → field p 32 8 % 8 = 0 →
      l = launchOf .queue s.queue.serial 0 (s.timeAt s.lead) p [] false → ∀ r u v, s.writeRecord l status = some (u, r) →
      u.completeSignal l r = some v → Yields .launchPacket s fun t => t.mem = v.mem ∧ started s t ∧ t.launches = s.launches) ∧
  (∀ (s : State) p e d, let va := field p 8 8
    let verdict := s.check .queue 0 0 p false
    (∀ c, s.fwTranslate s.lead va false = .fault c → verdict = .reject 5) ∧ (s.fwTranslate s.lead va false = .ok e → s.fwBytes s.lead (BitVec.ofNat 64 va) 128 = .ok d s → ∀ ok,
    s.writable s.lead (field p 32 8) 8 = some ok →
    (launchBad p = true ∨ descriptorBad d = true ∨ ok = false → verdict = .reject 4) ∧
    (launchBad p = false → descriptorBad d = false → ok = true →
      (256 < field d 10 2 → verdict = .reject 2) ∧
      (field d 10 2 ≤ 256 → 16 < field d 8 1 * bits (field d 13 1) 3 0 → verdict = .reject 3)))) ∧
  ∀ s i bs, s.queue.cur = some (i, bs) →
    (s.queue.acked = false → Yields .standbyTakeover s fun t => SameMem s t ∧ t.queue.cur = none ∧ t.queue.confirmed = s.queue.confirmed ∧
      (.queuePoll, {}) ∈ t.inflight) ∧
    ∀ h, s.queue.acked = true → field bs 0 1 = 0x11 → h < 64 → let e := s.regBytes (s.entryPool h) 256
      field e 192 1 = 1 ∨ field e 192 1 = 2 → field e 232 8 = i →
      Yields .standbyTakeover s fun t => SameMem s t ∧ t.queue.confirmed = i + 1 ∧ t.queue.cur = none

/-- Between Brokers (R130-R140, R148-R157): a message goes internally or as a BROKER request under a tag of its sender, which an
answer frees and a timeout replaces; messages are acted on once and in order, and answered; a range is split by weight and goes
down; a scan sends each gang to its home; a STEAL is served with the upper half, or refused, and goes round the ring; VACATE
goes down to the dies, REMAP gives gangs back, SAVED makes a gang wait for its restore; DONE adds the counts up until the grid
is complete. Rests on the model's choices of log 12, 73, 76, 78, 137. -/
def Obligations.Brokers : Prop :=
  let messages : List Instr := [.brokerRange, .brokerDone, .brokerSteal, .brokerGrant, .brokerNone, .brokerScan, .brokerReserve,
    .brokerCommit, .brokerRollback, .brokerVacate, .brokerRemap, .brokerSaved]
  (∀ (s : State) i m n, let old := s.brokerTag m.src
    let free := fun j => (old j).held = false ∧ (old j).quarantine = false
    s.departed m.src = false → s.departed m.dst = false →
    (s.sameSeat m.src m.dst = true ∨ 64 ≤ m.grid → (i, { k := m.dst, m := m }) ∈ (s.passMsg i m).inflight) ∧
    (s.sameSeat m.src m.dst = false → m.grid < 64 → n < 256 → free n → (∀ j, j < n → ¬ free j) →
      let t := (s.passMsg i m).brokerTag m.src n
      t.held = true ∧ t.use = .broker i m ∧ t.round = ((old n).round + 1) % 16 ∧ t.req.opcode = 6 ∧ t.req.tag = n ∧ t.req.round = t.round ∧
        t.req.issuer = s.brokerEndpoint m.src ∧ t.req.dst = s.brokerEndpoint m.dst ∧ t.req.atom = kindOf i ∧ t.req.data1 = m.data1 ∧
        (s.now + s.timeoutNs, .tagTimeout, { k := m.src, n := n, flag := true }) ∈ (s.passMsg i m).timers)) ∧
  (∀ s i m, let k := s.arg.k
    let n := s.arg.n
    let t := s.brokerTag k n
    s.arg.flag = true → t.held = true → t.use = .broker i m → m.src = k → s.departed k = false → s.departed m.dst = false →
      t.deadline ≤ (s.timeAt (s.brokerEndpoint k).pkg).toNat → Yields .tagTimeout s fun u => SameMem s u ∧ u.sent i m ∧
        (u.brokerTag k n).held = false ∧ (u.brokerTag k n).quarantine = true ∧
        (s.now + s.timeoutNs, .tagQuarantineEnd, { k := k, n := n, flag := true }) ∈ u.timers) ∧
  (∀ s k b i, let q := s.arg.q
    let t := tget b.tags q.tag default
    i = .writeAck ∨ i = .errorReply → s.brokers = [(k, b)] → s.brokerEndpoint k = q.issuer → q.issuer.unit = 3 → q.lane = 0 → t.held = true →
      t.round = q.round → t.req.dst = q.src → b.sendq = [] → Yields i s fun u => SameMem s u ∧ (u.brokerTag k q.tag).held = false) ∧
  (∀ s i, i ∈ messages → s.arg.flag = false →
    let m := s.arg.m
    let q := s.arg.q
    let due := tget (s.broker m.dst).seqIn m.src 0
    let answered : State → Nat → Nat → Prop := fun t op v => ∃ r, r.tag = q.tag ∧ r.round = q.round ∧ r.dst = q.issuer ∧ r.opcode = op ∧
      r.data0.toNat = v ∧ t.inflight = s.inflight ++ [(if op = 0x82 then .writeAck else .errorReply, { q := r })]
    (s.departed m.dst = true → Yields i s fun t => t = s) ∧
    (s.departed m.dst = false → due < 2 ^ 16 → m.seq < 2 ^ 16 →
    ((m.seq + 2 ^ 16 - due) % 2 ^ 16 < 2 ^ 15 → m.seq ≠ due → (∀ e, e ∈ (s.broker m.dst).early → (e.1, e.2.1) ≠ (i, m)) →
      Yields i s fun t => t.broker m.dst = { s.broker m.dst with early := (s.broker m.dst).early ++ [(i, m, q)] } ∧
        SameMem s t ∧ t.inflight = s.inflight ∧ t.launches = s.launches ∧ ∀ k, k ≠ m.dst → t.broker k = s.broker k) ∧
    (2 ^ 15 ≤ (m.seq + 2 ^ 16 - due) % 2 ^ 16 → (q.opcode ≠ 6 → Yields i s fun t => t = s) ∧
      (q.opcode = 6 → q.dst.pkg = q.issuer.pkg → Yields i s fun t => SameMem s t ∧ t.brokers = s.brokers ∧ t.launches = s.launches ∧ answered t 0x82 0)) ∧
    (m.seq = due → (s.broker m.dst).early = [] → s.launch? m.grid = none →
      let heard : State → Prop := fun t => SameMem s t ∧
        t.broker m.dst = { s.broker m.dst with seqIn := tset (s.broker m.dst).seqIn m.src ((due + 1) % 2 ^ 16) }
      (q.opcode ≠ 6 → Yields i s fun t => heard t ∧ t.inflight = s.inflight) ∧
      (q.opcode = 6 → q.dst.pkg = q.issuer.pkg → Yields i s fun t => heard t ∧ answered t 0x86 7)))) ∧
  (∀ l ks r, let w := sumList (ks.map l.weight)
    (w ≠ 0 → sumList ((splitAmong l ks r).map (·.2.2)) = r.2) ∧
    (splitAmong l ks r).Pairwise (fun a b => a.2.1 + a.2.2 ≤ b.2.1) ∧
    ∀ x, x ∈ splitAmong l ks r → x.1 ∈ ks ∧ r.1 ≤ x.2.1 ∧ 0 < x.2.2 ∧ x.2.1 + x.2.2 ≤ r.1 + r.2 ∧ l.weight x.1 ≠ 0) ∧
  (∀ s l, s.inTurn l → s.arg.flag = false → let m := s.arg.m
    let k := m.dst
    let h := m.grid
    let here := fun b : BrokerId => s.departed b = false
    (∀ p d i, k = .die p d → (s.die { pkg := p, die := d }).lost = false → s.openReservations { pkg := p, die := d } = [] → (s.share k h).takers = [] → m.copyOf = none →
      (i = .brokerRange ∨ i = .brokerGrant ∧ m.data1.getLsbD 63 = false) → Yields i s fun t => SameMem s t ∧
        (t.share k h).runs = putRun (s.share k h).runs (m.first, m.count) ∧ (.coreReserve, { d := { pkg := p, die := d } }) ∈ t.inflight) ∧
    (∀ i, (i = .brokerRange ∧ (∀ p q, k = .pkg p → m.src ≠ .pkg q) ∨ i = .brokerGrant ∧ m.data1.getLsbD 63 = false) → m.copyOf = none →
      (∃ u, k = .tray u) ∨ (∃ p, k = .pkg p ∧ s.isMember p = true) → Yields i s fun t => SameMem s t ∧
        ∀ x, x ∈ splitAmong l (s.children k) (m.first, m.count) → t.told .brokerRange k x.1 h x.2 (· = 0)) ∧
    (∀ p, k = .pkg p → s.isMember p = true → (∀ q, m.src = .pkg q → m.copyOf = none → Yields .brokerRange s fun t => SameMem s t ∧
        ∀ x, x ∈ State.homeRuns l p (m.first, m.count) → here x.1 → t.told .brokerRange k x.1 h x.2 (· = 0)) ∧
      ∀ r, State.ownedRun l p = some r → Yields .brokerScan s fun t => SameMem s t ∧ ∃ a : Arg, (.brokerScan, a) ∈ t.inflight ∧
        a.flag = true ∧ a.k = k ∧ a.i = r.1 ∧ a.n = r.1 + r.2 ∧ a.m.count = 0 ∧ a.m.grid = h ∧ a.m.data1 = m.data1) ∧
    (∀ u, k = .tray u → Yields .brokerScan s fun t => SameMem s t ∧
      ∀ c, c ∈ l.kids k → here c → t.told .brokerScan k c h (m.first, m.count) (· = m.data1)) ∧
    (∀ p d, k = .die p d → let n := if (s.die { pkg := p, die := d }).lost then 0 else runCount (s.share k h).runs
      (n = 0 ∨ n = 1 ∧ m.data1.getLsbD 32 = false → here m.src → Yields .brokerSteal s fun t => SameMem s t ∧
        (t.share k h).runs = (s.share k h).runs ∧ t.told .brokerNone k m.src h (0, 0) (· = 0)) ∧
      (2 ≤ n → (∀ x, x ∈ s.brokers → x.2.hunts = [] ∧ (tget x.2.shares h Share.empty).rollbacks = []) → (s.share k h).dExited = 0 →
        (s.share k h).dLost = 0 → here (thiefOf k m.data1) → Yields .brokerSteal s fun t =>
        SameMem s t ∧ (t.share k h).runs = firstGangs (s.share k h).runs ((n + 1) / 2) ∧
        (∀ r, r ∈ otherGangs (s.share k h).runs ((n + 1) / 2) → t.told .brokerGrant k (thiefOf k m.data1) h r fun _ => True) ∧
        ∀ r, (otherGangs (s.share k h).runs ((n + 1) / 2)).getLast? = some r →
          t.told .brokerGrant k (thiefOf k m.data1) h r fun v => v.getLsbD 63 = true)) ∧
    (k = .rack → here m.src → Yields .brokerSteal s fun t => SameMem s t ∧ t.told .brokerNone k m.src h (0, 0) (· = 0)) ∧
    (∀ x xs, (∃ u, k = .tray u) ∨ (∃ p, k = .pkg p) → State.parent m.src ≠ some k → (s.broker k).hunts = [] → s.ring k = x :: xs → here x →
      Yields .brokerSteal s fun t => SameMem s t ∧ t.told .brokerSteal k x h (0, 0) (fun v => v.getLsbD 32 = m.data1.getLsbD 32)) ∧
    (∀ q a, (s.broker k).hunts = [q] → q.grid = h → q.now = m.src → q.asker = some a →
      (∀ x xs, q.todo = x :: xs → here x → Yields .brokerNone s fun t => SameMem s t ∧ t.told .brokerSteal k x h (0, 0) fun _ => True) ∧
      (q.todo = [] → here a → Yields .brokerNone s fun t => SameMem s t ∧ (t.broker k).hunts = [] ∧ t.told .brokerNone k a h (0, 0) (· = 0))) ∧
    ((∀ p d, k ≠ .die p d) → Yields .brokerVacate s fun t => SameMem s t ∧
      ∀ c, c ∈ s.children k → t.told .brokerVacate k c h (m.first, m.count) (· = m.data1)) ∧
    (∀ p d b v, k = .die p d → s.block? b = some v → b.grid = h → v.core.dieId = { pkg := p, die := d } → v.core.pos < 64 →
      v.slots ≠ [] → v.state = 0 → l.placement = true → Yields .brokerVacate s fun t => SameMem s t ∧ t.block? b = some { v with state := 5 } ∧
        (.gangSaveComplete, { g := { grid := h, gang := b.gang } }) ∈ t.inflight) ∧
    (let ws := (s.children k).map fun c => (c, if c = m.src then l.weight c - (s.share c h).vacated else l.weight c)
     here m.src → Yields .brokerRemap s fun t => SameMem s t ∧
        (sumList (ws.map (·.2)) ≠ 0 → ∀ x, x ∈ splitRun m.first m.count (sumList (ws.map (·.2))) ws 0 →
          t.told .brokerRange k x.1 h x.2 (· = 0)) ∧
        (sumList (ws.map (·.2)) = 0 → t.told .brokerRange k m.src h (m.first, m.count) (· = 0))) ∧
    (∀ x xs, s.gangOf { grid := h, gang := m.first } = x :: xs → (∀ y, y ∈ x :: xs → y.2.state = 1 ∨ y.2.state = 3) →
      (∀ d, s.reservations (.die x.2.core.pkg d) = []) → Yields .brokerSaved s fun t => SameMem s t ∧
        { grid := h, gang := m.first } ∈ (t.broker (.pkg x.2.core.pkg)).restore) ∧
    (k = .rack → let e := l.exited + m.count
      let n := l.lost + m.data1.toNat % 2 ^ 32
      (e + n < l.blocks → Yields .brokerDone s fun t => SameMem s t ∧ t.launch? h = some { l with exited := e, lost := n }) ∧
      (l.blocks ≤ e + n → l.record = 0 → l.signal = 0 → l.recorded = none → Yields .brokerDone s fun t => t.launch? h = none)) ∧
    (∀ p, k = .pkg p → l.isChild = false → (∀ q, m.src ≠ .pkg q) → let v := s.share k h
      v.lastDone = 0 → 0 < m.count → Yields .brokerDone s fun t => SameMem s t ∧ (t.share k h).exited = v.exited + m.count ∧
        (t.share k h).dExited = 0 ∧ t.told .brokerDone k (.tray (trayOf p)) h (0, v.dExited + m.count)
          (·.toNat = (v.dLost + m.data1.toNat % 2 ^ 32) % 2 ^ 64)) ∧
    (∀ p, k = .tray (trayOf p) → m.src = .pkg p → l.isChild = false → let v := s.share k h
      let n := m.data1.toNat % 2 ^ 32
      Yields .brokerDone s fun t => SameMem s t ∧ tget (t.share k h).gone p 0 = tget v.gone p 0 + m.count + n ∧
        (t.share k h).exited = v.exited + m.count ∧ (t.share k h).lost = v.lost + n)) ∧
  (∀ s l p, let a := s.arg
    let m := a.m
    a.flag = true → a.k = .pkg p → s.launch? m.grid = some l → s.isMember p = true →
    (a.n ≤ a.i → m.count ≠ 0 → s.departed m.src = false → Yields .brokerScan s fun t => SameMem s t ∧
      t.told .brokerRange m.dst m.src m.grid (m.first, m.count) (· = 0)) ∧
    ∀ q d, a.i < a.n → s.gangHome p l a.i (m.data1.setWidth 16) = some (.die q d) →
      let dest : BrokerId := if q = p then .die q d else .pkg q
      let noted : State → Prop := fun t => q ≠ p → ∃ v, t.launch? m.grid = some v ∧ tget? v.homes a.i = some (.die q d)
      (m.count ≠ 0 → m.src = dest → Yields .brokerScan s fun t => SameMem s t ∧ noted t ∧
        (.brokerScan, { a with m := { m with count := m.count + 1 }, i := a.i + 1 }) ∈ t.inflight) ∧
      (m.count = 0 ∨ m.src ≠ dest → Yields .brokerScan s fun t => SameMem s t ∧ noted t ∧
        (.brokerScan, { a with m := { m with src := dest, first := a.i, count := 1 }, i := a.i + 1 }) ∈ t.inflight ∧
        (m.count ≠ 0 → s.departed m.src = false → t.told .brokerRange m.dst m.src m.grid (m.first, m.count) (· = 0)))) ∧
  (∀ (s : State) p (l : Launch) g v, let a := (l.placeBase.toNat + g * l.cores * l.placeStride) % 2 ^ 64
    let own := (State.rangeOwner l g).getD (.die p 0)
    s.gangHome p l g v = (match s.feWalk p a with
      | .ok e => match homeOf (s.tablesAt p v) (e.phys a) with
        | some x => if a < 2 ^ 57 ∧ permitted e false false = true ∧ s.isMember x.pkg = true ∧ (s.die x.dieId).lost = false ∧
            l.weight (.die x.pkg x.die) ≠ 0 then some (.die x.pkg x.die) else some own
        | none => some own
      | .busy => if a < 2 ^ 57 then none else some own
      | .fault _ => some own)) ∧
  ∀ s, let h := s.arg.i
    (∀ p d l, let v := s.share s.arg.k h
      s.arg.k = .die p d → s.isMember p = true → v.dExited + v.dLost ≠ 0 → v.lastDone + 1000 ≤ s.now → s.launch? h = some l → l.isChild = false →
      Yields .doneTimer s fun t => SameMem s t ∧ (t.share s.arg.k h).dExited = 0 ∧ (t.share s.arg.k h).dLost = 0 ∧
        (t.share s.arg.k h).lastDone = s.now ∧ t.told .brokerDone s.arg.k (.pkg p) h (0, v.dExited) (· = BitVec.ofNat 64 v.dLost)) ∧
    ∀ l u v r, s.arg.k = .rack → s.launch? h = some l → l.blocks ≤ l.exited + l.lost →
      s.writeRecord l (if l.lost ≠ 0 ∨ l.failed = true then 1 else 0) = some (u, r) →
      u.completeSignal { l with record := 0, recorded := r.or l.recorded } (r.or l.recorded) = some v →
      Yields .doneTimer s fun t => t.launch? h = none

/-- Placement at the Brokers (R134, R141-R147, R153, R155, R158, R160, R194, R257): legal rectangles, the order of a die's gangs,
the reservation of the rectangle with the most room, the preparation of its cores, the commit that starts every block, straddled
gangs over RESERVE, COMMIT and ROLLBACK, priority pre-emption, the save of a gang and its restore. Rests on the model's choices
of log 79, 81, 82, 127. -/
def Obligations.Placement : Prop :=
  let starts : State → GangRef → Launch → List (CoreId × Nat) → Prop := fun t g l cores =>
    ∀ x, x ∈ cores → x.2 < l.gangBlocks g.gang → let i := g.gang * l.cores + x.2
      ∃ b, t.block? { grid := g.grid, gang := g.gang, j := x.2 } = some b ∧ b.core = x.1 ∧ b.state = 0 ∧ b.warps = l.warps ∧
        b.x = i % l.gx ∧ b.y = i / l.gx % l.gy ∧ b.z = i / (l.gx * l.gy) ∧ (t.core x.1).reserved = none ∧
        ∀ n, n ∈ b.slots → ∃ w, t.warp? { core := x.1, slot := n } = some w ∧
          w.block = { grid := g.grid, gang := g.gang, j := x.2 } ∧ w.a.pc = l.entry ∧ w.a.mask = BitVec.allOnes 32
  let distinct : Reservation → Prop := fun r => (r.cores.map (·.1)).Nodup ∧ (r.cores.map (·.2)).Nodup
  let places : State → Reservation → Launch → Prop := fun s r l => (s.heapPlaces r.owner.pkg l.slotSize (s.goCores l r).length []).isSome
  let heap : State → Reservation → Launch → Prop := fun s r l =>
    if r.slots = [] then places s r l else (s.goCores l r).length ≤ r.slots.length
  (∀ w h c o, o ∈ rectOrigins w h c ↔ o < 64 ∧ o / 8 % h = 0 ∧ o % 8 % c = 0 ∧ o / 8 + h ≤ 8 ∧ o % 8 + c ≤ 8 ∧
    ∀ i, i < h * c → w.getLsbD (o + 8 * (i / c) + i % c) = true) ∧
  (∀ (s : State) d (c : Cand) cs, s.order d = c :: cs → ∀ e, e ∈ cs → c.before e = true) ∧
  (∀ (s : State) l rs r, s.bestRect l rs = some r → r ∈ rs ∧ ∀ q : List (CoreId × Nat), q ∈ rs →
    (q.filter fun x => s.openRoom x.1 l).length ≤ (r.filter fun x => s.openRoom x.1 l).length) ∧
  (∀ s, let d := s.arg.d
    let k := State.dieBroker d
    (s.frozen = true ∨ (s.die d).lost = true → Yields .coreReserve s fun t => t = s) ∧
    ∀ c cs l r, s.frozen = false → (s.die d).lost = false → (∀ x, x ∈ s.launches → (s.share k x.1).takers = []) →
      s.reservations k = [] → s.reserving d = false → s.restoreDue d = false → s.order d = c :: cs → c.saved = false →
      s.launch? c.ref.grid = some l → l.straddle = false → s.bestRect l (s.freeRects d l) = some r →
      Yields .coreReserve s fun t => SameMem s t ∧
        ∃ v, t.reservations k = [v] ∧ v.gang = c.ref ∧ v.cores = r ∧ v.restoring = false ∧ v.straddled = false ∧ v.owner = d ∧
          ∀ x, x ∈ r → s.openRoom x.1 l = true → (t.core x.1).reserved = some c.ref ∧
            if x.2 < l.gangBlocks c.ref.gang ∧ l.granules ≠ 0 then (.preparationComplete, { c := x.1, g := c.ref, k := k }) ∈ t.inflight
            else x.1 ∈ v.got) ∧
  (∀ s r, let c := s.arg.c
    let g := s.arg.g
    let k := s.arg.k
    (s.reservations k).find? (·.gang == g) = some r → c ∈ r.begun → c ∉ r.got → r.restoring = false → r.straddled = false → s.mem.wf →
    (∀ v, v ∈ (s.core c).lines → v.gran < s.boundary c → v.pin = .no) →
    Yields .preparationComplete s fun t =>
      (∀ a, t.mem.read a = if (s.core c).reservedGrans.any (fun n => decide (arrayKey c (16384 * n) ≤ a) &&
        decide (a < arrayKey c (16384 * (n + 1)))) then 0 else s.mem.read a) ∧
      (∀ v, v ∈ (t.core c).lines → s.boundary c ≤ v.gran) ∧ (∃ v, v ∈ t.reservations k ∧ v.gang = g ∧ c ∈ v.got) ∧
      ((∀ x, x ∈ r.cores → x.1 ∈ r.got ∨ x.1 = c) → (.gangCommit, { g := g, k := k }) ∈ t.inflight)) ∧
  (∀ s r l, let g := s.arg.g
    let k := s.arg.k
    (s.reservations k).find? (·.gang == g) = some r → r.complete = true → s.frozen = false → s.launch? g.grid = some l →
    r.restoring = false →
    (∀ p d, k = .die p d → heap s r l → distinct r → Yields .gangCommit s fun t => starts t g l r.cores ∧ ∀ v, v ∈ t.reservations k → v.gang ≠ g) ∧
    ∀ p, k = .pkg p → places s r l → r.owner.pkg = p → Yields .gangCommit s fun t => SameMem s t ∧ (∀ v, v ∈ t.reservations k → v.gang ≠ g) ∧
      ∀ x, x ∈ r.cores → s.isMember x.1.pkg = true → t.told .brokerCommit k (State.dieBroker x.1.dieId) g.grid (g.gang, 1) fun _ => True) ∧
  (∀ s l p d, s.inTurn l → let m := s.arg.m
    let g : GangRef := { grid := m.grid, gang := m.first }
    let die : DieId := { pkg := p, die := d }
    let v := m.data1.toNat
    let half : Straddle := { a := d, b := d, h := bits v 13 11 + 1, w := bits v 10 8 + 1, oa := bits v 5 0, ob := bits v 5 0 }
    let mine := (half.half l.cols (if half.w < l.cols then d % 2 = 1 else 2 ≤ d)).map fun q => (State.coreAt die q.1, q.2)
    m.dst = .die p d →
    (∀ r, (s.reservations (.pkg p)).find? (·.gang == g) = some r → (∀ q, q ∈ s.reservations m.dst → q.gang ≠ g) → (∀ x, x ∈ mine → x ∈ r.cores) →
      Yields .brokerReserve s fun t => SameMem s t ∧ ∃ q, q ∈ t.reservations m.dst ∧ q.gang = g ∧ q.straddled = r.straddled ∧
        q.cores.map (·.1) = (List.range ((bits v 13 11 + 1) * (bits v 10 8 + 1))).map fun i =>
          State.coreAt die (bits v 5 0 + 8 * (i / (bits v 10 8 + 1)) + i % (bits v 10 8 + 1))) ∧
    (∀ r, (s.reservations m.dst).find? (·.gang == g) = some r →
      (r.restoring = false → r.complete = true → heap s r l → distinct r → s.frozen = false → Yields .brokerCommit s fun t => starts t g l r.cores ∧
        ∀ q, q ∈ t.reservations m.dst → q.gang ≠ g) ∧
      (r.straddled = true → BitVec.ofNat 64 (s.halfOf die g r.cores) = m.data1 → Yields .brokerRollback s fun t => SameMem s t ∧ t.reservations m.dst = (s.reservations m.dst).filter (·.gang != g) ∧
        (∀ c, c ∈ r.begun → (s.core c).reserved = some g → (t.core c).reserved = none ∧ (t.core c).reservedGrans = []) ∧
        (.coreReserve, { d := die }) ∈ t.inflight))) ∧
  (∀ s b k, let g := s.arg.g
    s.gangOf g = [(b, k)] → k.state = 5 → (s.warps.map (·.1)).Nodup →
    (∀ y, y ∈ s.warps → y.2.block = b → y.2.engine = none ∧ y.2.regrouping = none ∧ ∀ f, f ∈ y.2.flights → isEngineWait f.instr = false) →
    (∀ v, v ∈ (s.core k.core).lines → v.pin = .no) → s.isMember k.core.pkg = true →
    (s.drained b k (s.warpsOf b) = false → Yields .gangSaveComplete s fun t => SameMem s t ∧ t.blocks = s.blocks ∧
      ∃ n, (n, .gangSaveComplete, s.arg) ∈ t.timers) ∧
    (s.drained b k (s.warpsOf b) = true → Yields .gangSaveComplete s fun t => (∀ y, y ∈ t.warps → y.2.block ≠ b) ∧
      (∃ v, t.block? b = some v ∧ v.slots = [] ∧ v.grans = [] ∧ v.state =
        if (s.warpsOf b).any (fun x => s.unserviced k x.2) then 2 else 1) ∧
      t.told .brokerSaved (.die k.core.pkg k.core.die) (.pkg k.core.pkg) g.grid (g.gang, 1) (· = 0))) ∧
  (∀ s e l r, let d := s.arg.d
    let g := s.arg.g
    let at_ : Nat → DieId := fun e => { pkg := d.pkg, die := e }
    s.arg.flag = false → s.launch? g.grid = some l → l.isChild = false → g ∈ (s.broker (.pkg d.pkg)).restore → s.frozen = false →
    (∀ x, x ∈ s.gangOf g → x.2.straddled = false) → e < 4 → s.fullRect (at_ e) l = some r → (s.die (at_ e)).lost = false → s.mayReserve (at_ e) l = true →
    (∀ i, i < e → s.fullRect (at_ i) l = none ∨ (s.die (at_ i)).lost = true) → s.reservations (State.dieBroker (at_ e)) = [] →
    Yields .gangRestore s fun t => SameMem s t ∧ g ∉ (t.broker (.pkg d.pkg)).restore ∧
      ∃ v, t.reservations (State.dieBroker (at_ e)) = [v] ∧ v.gang = g ∧ v.cores = r ∧ v.restoring = true) ∧
  (∀ s w b, let wid := s.arg.w
    s.arg.flag = true → s.warp? wid = some w → s.block? w.block = some b → (∀ e, e ∈ w.events → e.kind ≠ 3 ∧ e.armed = false) →
    (w.exited = true ∨ w.serving = false → Yields .gangRestore s fun t => t = s) ∧
    (w.exited = false → w.serving = true → s.serviceWord b w ≠ 2 →
      (∀ u, s.frameOf wid.core (s.frameBytesOf b w) = .ok [] u → Yields .gangRestore s fun t =>
        ∃ v, t.warp? wid = some v ∧ v.handler = false ∧ v.serving = false) ∧
      (s.frameOf wid.core (s.frameBytesOf b w) = .bad → Yields .gangRestore s fun t => ∃ v, t.block? w.block = some v ∧ v.state = 3))) ∧
  ∀ s l, let d := s.arg.d
    let g := s.arg.g
    let k := State.dieBroker d
    s.launch? g.grid = some l → s.waiting d = some g → s.frozen = false → (s.die d).lost = false →
    (s.now < s.waitEnd d g → Yields .priorityPreempt s fun t => t = s) ∧
    ∀ r b v lb, s.waitEnd d g ≤ s.now → s.reservations k = [] → s.reservations (.pkg d.pkg) = [] → (∀ x, x ∈ s.blocks → x.1.grid ≠ g.grid) →
      (s.rects d l).find? (fun r => r.all fun x => s.yields x.1 l g (s.effPrio l g)) = some r →
      s.block? b = some v → v.slots ≠ [] → v.state = 0 → v.core ∈ r.map (·.1) → s.roomFor v.core l g = false → s.launch? b.grid = some lb →
      Yields .priorityPreempt s fun t => t.block? b = some { v with state := 5 } ∧
        (.gangSaveComplete, { g := { grid := b.grid, gang := b.gang } }) ∈ t.inflight ∧
        ((t.launch? b.grid).map (·.preempts)) = some (lb.preempts + 1) ∧ ∃ q, q ∈ t.reservations k ∧ q.gang = g ∧ q.cores = r

/-- The requests of the firmware's ring (R35, R70, R71, R74, R94, R103, R106, R107, R113-R116, R123, R126): the next request of the
ring is served by its code; its effect comes about, its status and result are written, and the read index moves on. A malformed
one ends with status 3. The SPDM responder answers what it supports. Rests on the model's choices of log 95, 96, 97, 99, 101,
131. -/
def Obligations.FirmwareRequests : Prop :=
  let Req := Nat × Nat × List Byte
  let serves : State → Nat → Nat → Req → List Byte → Prop := fun s code n r b => s.nextRequest s.arg.p = some r ∧
    requestOk r.2.2 = true ∧ field r.2.2 1 1 = code ∧ s.fwGet s.arg.p (field r.2.2 8 8) n = .ok b s
  let ends : Instr → State → Req → Nat → Nat → (State → Prop) → Prop := fun i s r status result good =>
    Yields i s fun t => ∃ u : State, u.mem = s.mem ∧ good u ∧ t = u.endReq s.arg.p r status result
  let lastCode : State → Nat → Option Nat := fun u p => (u.pkg p).events.getLast?.map (·.code)
  (∀ (s : State) p base k c bs, let n := field c 8 8
    let a := base + 128 + 64 * (n % 2 ^ k)
    s.ringOf p = some (base, k) → s.ringBusy p = false → s.fwGet p (base + 8) 16 = .ok c s → s.fwGet p a 64 = .ok bs s →
    s.nextRequest p = if n < field c 0 8 then some (n, a, bs) else none) ∧
  (∀ (s : State) p status result (u v w : State), ∀ r : Req, let sig := field r.2.2 16 8
    (s.ringOf p).isSome → s.fwSet p (r.2.1 + 2) (leBytes 2 (status + 256 * (result % 256))) = .ok [] u →
    (if sig = 0 then v = u else sig % 8 = 0 ∧ u.noPushes = true ∧ u.fwSignal p sig = .ok [] v) →
    ∀ base k, v.ringOf p = some (base, k) → v.fwSet p (base + 16) (leBytes 8 (r.1 + 1)) = .ok [] w → s.endReq p r status result = w.mirrorTable p (r.1 + 1)) ∧
  (∀ s r, s.nextRequest s.arg.p = some r → s.arg.flag = false →
    (requestOk r.2.2 = false ∨ knownCode (field r.2.2 1 1) = false → ends .unknownFirmwareRequest s r 3 0 fun _ => True) ∧
    ∀ i c, (i, c) ∈ ([(.configureDomain, 1), (.regionCommit, 2), (.migratePage, 3), (.relaySignal, 4), (.releaseFrozenMaster, 5),
      (.killFrozenMaster, 6), (.readEvents, 7), (.firmwareUpdate, 8), (.thawContexts, 9), (.setPowerCap, 10), (.spdmMessage, 11),
      (.setSecondaryHostDie, 12), (.setDetourBias, 13)] : List (Instr × Nat)) → requestOk r.2.2 = false ∨ field r.2.2 1 1 ≠ c → Yields i s fun t => t = s) ∧
  (∀ s r b, serves s 1 192 r b → let p := s.arg.p
    let rel := s.releasedBy b
    let regions := s.bootBytes p (field b 8 8) 32768
    let tables := tablesOf (BitVec.ofNat 16 (field b 128 2)) regions (s.bootBytes p (field b 8 8 + 32768) 16384)
    let bad := (List.range 1024).any fun i => regionBad ((regions.drop (32 * i)).take 32)
    let homed := rangeHomed tables (field b 0 8) (2 ^ 19) && rangeHomed tables (field b 56 8) registryBytes &&
      rel.all fun q => s.chunksHomed tables q (field b 48 8) (min (field b 40 8) 32768)
    let n := tablesStatus rel.contains (field b 31 1) tables bad homed
    (s.launches ≠ [] → ends .configureDomain s r 2 1 (· = s)) ∧
    (s.launches = [] → n ≠ 0 → ends .configureDomain s r 2 2 (· = s)) ∧
    (s.launches = [] → n = 0 → s.domainBad p b = true → ends .configureDomain s r 2 3 (· = s)) ∧
    (s.launches = [] → n = 0 → s.domainBad p b = false → Yields .configureDomain s fun t => let d := t.dom
      d.configured = true ∧ d.root = field b 0 8 ∧ d.queueBase.toNat = field b 16 8 ∧ d.queueK = field b 24 4 ∧ d.nrow = field b 28 1 ∧
      d.ncol = field b 29 1 ∧ d.ptp = field b 30 1 ∧ d.carve = field b 31 1 ∧ d.primary = field b 32 2 / 128 ∧ d.timeout = field b 36 4 ∧
      d.symSize = field b 40 8 ∧ d.symMap = field b 48 8 ∧ d.registry = field b 56 8 ∧ d.release = rel ∧ d.ringBase.toNat = field b 136 8 ∧
      d.secondary = (if field b 34 2 / 128 = field b 32 2 / 128 then none else some (field b 34 2 / 128)) ∧
      t.queue.confirmed = 0 ∧ t.queue.status = 0 ∧ (.queuePoll, {}) ∈ t.inflight ∧
      ∀ q, q ∈ rel → (t.pkg q).bootState = 2 ∧ ((t.pkg q).host.running = true → q = d.primary) ∧ ∀ e, e < 4 → (t.die { pkg := q, die := e }).cur = tables ∧
        (t.die { pkg := q, die := e }).prev = none)) ∧
  (∀ f carve t bad homed, tablesStatus f carve t bad homed = 0 → bad = false ∧ homed = true ∧
    (t.regions.filter (·.mode != 0)).Pairwise fun a b => meets a.base a.size b.base b.size = false) ∧
  (∀ s r b x y, serves s 2 24 r b → let p := s.arg.p
    s.fwGet p (field b 0 8) 32768 = .ok x s → s.fwGet p (field b 8 8) 16384 = .ok y s →
    let v : BitVec 16 := BitVec.ofNat 16 (field b 16 2)
    let tables := tablesOf v x y
    let n := tablesStatus s.isMember s.dom.carve tables ((List.range 1024).any fun i => regionBad ((x.drop (32 * i)).take 32)) (s.staysHomed tables)
    let cur := (s.die (State.feDie p)).cur.version
    (v ≠ cur + 1 → ends .regionCommit s r 2 1 (· = s)) ∧
    (v = cur + 1 → n ≠ 0 → n ≠ 6 → ends .regionCommit s r 2 n (· = s)) ∧
    (v = cur + 1 → n = 0 ∨ n = 6 → s.moving = true → ends .regionCommit s r 2 5 (· = s)) ∧
    (v = cur + 1 → n = 6 ∨ n = 0 ∧ s.isMember p = false → s.moving = false → ends .regionCommit s r 2 6 (· = s)) ∧
    (v = cur + 1 → n = 0 → s.moving = false → s.isMember p = true → Yields .regionCommit s fun t => SameMem s t ∧
      t.commit = some { pkg := p, idx := r.1, next := tables } ∧
      ∀ d, d ∈ s.memberDies → (t.die d).pend = some tables ∧ (.regionSwitch, { d := d }) ∈ t.inflight)) ∧
  (∀ s c, s.commit = some c →
    (s.allSwitched c.next = false → Yields .regionDrainComplete s fun t => t = s) ∧
    (s.allSwitched c.next = true →
      (s.outstanding (c.next.version - 1) = true → Yields .regionDrainComplete s fun t => SameMem s t ∧ t.commit = some c ∧ t.dies = s.dies) ∧
      (s.outstanding (c.next.version - 1) = false → s.ringOf s.lead = none → Yields .regionDrainComplete s fun t => SameMem s t ∧
        t.commit = none ∧ ∀ d, d ∈ s.memberDies → (t.die d).prev = none ∧ (t.die d).cur = (s.die d).cur) ∧
      ∀ base k x, let u : State := { s.memberDies.foldl (fun (s : State) d => s.updDie d fun k => { k with prev := none }) s with commit := none }
        let a := base + 128 + 64 * (c.idx % 2 ^ k)
        s.outstanding (c.next.version - 1) = false → u.ringOf u.lead = some (base, k) → u.fwGet u.lead a 64 = .ok x u →
        Yields .regionDrainComplete s fun t => t = u.endReq u.lead (c.idx, a, x) 1 0)) ∧
  (∀ s r b, serves s 3 32 r b → s.isMember s.arg.p = true → let u := s.endWith s.arg.p r 0
    let d := State.feDie s.arg.p
    let leaf := field b 8 8
    let size := bits (field b 24 4) 1 0
    let log := if size = 0 then 16 else 21
    let v := leVal (s.homeBytes d leaf 8)
    let old := bits v 49 8 * 256
    let single : Nat → Prop := fun a => ∃ g, findRegion (s.die d).cur a = some g ∧ g.mode ≠ 1
    let aligned : Prop := size < 2 ∧ field b 0 8 % 2 ^ log = 0 ∧ field b 16 8 % 2 ^ log = 0 ∧ leaf % 8 = 0
    (¬ aligned → Yields .migratePage s fun t => t = u.noteStatus (field r.2.2 8 8) 4) ∧
    (aligned → (¬ single old ∨ ¬ single (field b 16 8)) → Yields .migratePage s fun t => t = u.noteStatus (field r.2.2 8 8) 5) ∧
    (aligned → (u.homeAt d leaf).isSome → old % 2 ^ log = 0 → single old → single (field b 16 8) →
      (v.testBit 59 = true ∨ u.commit.isSome → Yields .migratePage s fun t => t = u.noteStatus (field r.2.2 8 8) 6) ∧
      ∀ h, v.testBit 59 = false → u.commit = none → u.homeAt d old = some h → let w := u.noteStatus (field r.2.2 8 8) 0
        Yields .migratePage s fun t => t.mem = w.mem ∧
        (.migrationStart, { d := h.dieId }) ∈ t.inflight ∧ ∃ m, (t.die h.dieId).waitq = (w.die h.dieId).waitq ++ [m] ∧
          m.va = field b 0 8 ∧ m.leaf = leaf ∧ m.oldPa = old ∧ m.newPa = field b 16 8 ∧ m.log = log ∧ m.desc = field r.2.2 8 8)) ∧
  (∀ s r b e h, serves s 4 24 r b → let p := s.arg.p
    let va := field b 0 8
    s.fwTranslate p va false = .ok e → s.homeAt (State.feDie p) (e.phys va) = some h →
    (va % 8 ≠ 0 ∨ 3 < field b 16 1 ∨ 31 < field b 17 1 → ends .relaySignal s r 3 0 (· = s)) ∧
    (va % 8 = 0 → field b 16 1 ≤ 3 → field b 17 1 ≤ 31 → 1024 ≤ (s.pkg h.pkg).watches.length → ends .relaySignal s r 2 0 (· = s)) ∧
    (va % 8 = 0 → field b 16 1 ≤ 3 → field b 17 1 ≤ 31 →
      let w : Watch := { addr := e.phys va, kind := 1, cond := field b 16 1, value := BitVec.ofNat 64 (field b 8 8), host := field b 17 1
                         vector := field b 18 2 }
      State.watchHolds w.cond (BitVec.ofNat 64 (leVal (s.homeBytes h.dieId w.addr 8))) w.value = false → (s.pkg h.pkg).watches = [] →
      ends .relaySignal s r 1 0 fun u => (u.pkg h.pkg).watches = [w])) ∧
  (∀ s r b, serves s 5 4 r b → let e := endpointOf (field b 0 4)
    (s.frozenAt e = none → ends .releaseFrozenMaster s r 2 1 (· = s)) ∧
    ∀ q m, s.frozenAt e = some (q, m) → s.isMember s.arg.p = true ∨ q = s.arg.p →
      let free : State → Prop := fun u => (∀ x, x ∈ (u.pkg q).frozen → x.who ≠ e) ∧ lastCode u q = some 0x42 ∧
        (e.unit = 0 → e.die < 4 → (u.core e.core).frozen = false)
      (m.held = [] → ends .releaseFrozenMaster s r 1 0 free) ∧
      ∀ i a, m.held = [(i, a)] → i ≠ .flitReceive → ends .releaseFrozenMaster s r 1 0 fun u => free u ∧
        (i, { a with port := 1 }) ∈ u.inflight) ∧
  (∀ s r b, serves s 6 4 r b → let e := endpointOf (field b 0 4)
    let mine : Nat → Prop := fun q => s.isMember s.arg.p = true ∨ q = s.arg.p
    let taking : Prop := e.unit = 0 ∧ e.die < 4 ∧ ∃ x, x ∈ s.warps ∧ x.1.core = e.core ∧ x.2.taking = true
    let core : Prop := s.isMember e.pkg = true ∧ e.unit = 0 ∧ e.die < 4 ∧ (s.frozen = true ∨ (s.core e.core).frozen = true)
    let dead : Nat → State → Prop := fun q u => (u.core e.core).frozen = false ∧
      (∃ v : State, lastCode v q = some 0x43 ∧ u = v.loseCore e.core) ∧
      ∀ x k, s.block? x = some k → k.core = e.core → k.slots ≠ [] → (u.block? x).map (·.state) = some 3
    (taking → Yields .killFrozenMaster s fun t => t = s) ∧
    (∀ q m, ¬ taking → s.frozenAt e = some (q, m) → mine q → e.unit = 0 → e.die < 4 → ends .killFrozenMaster s r 1 0 (dead q)) ∧
    (∀ q m, s.frozenAt e = some (q, m) → mine q → e.unit = 3 → (s.port q e.pos).queue = [] → (s.port (farEnd q e.pos) (portTo (farEnd q e.pos) q)).queue = [] →
      q ≠ farEnd q e.pos → ends .killFrozenMaster s r 1 0 fun u => (∀ x, x ∈ (u.pkg q).frozen → x.who ≠ e) ∧ (u.port q e.pos).state = 3 ∧
        (u.port (farEnd q e.pos) (portTo (farEnd q e.pos) q)).state = 3 ∧ lastCode u q = some 0x43) ∧
    (¬ taking → s.frozenAt e = none → ¬ core → ends .killFrozenMaster s r 2 1 (· = s)) ∧
    (¬ taking → s.frozenAt e = none → core → ends .killFrozenMaster s r 1 0 (dead e.pkg))) ∧
  (∀ s r b, serves s 7 16 r b → let ev := (((s.pkg s.arg.p).events.dropWhile fun e => e.seq != field b 0 4).take (field b 4 4))
    ∀ u, s.fwSet s.arg.p (field b 8 8) (ev.flatMap recorderBytes) = .ok [] u →
      Yields .readEvents s fun t => t = u.endReq s.arg.p r 1 (min ev.length 255)) ∧
  (∀ s r b, serves s 8 8 r b → let p := s.arg.p
    let k := s.pkg p
    (s.moving = true ∨ s.frozen = true ∨ k.updating.isSome → ends .firmwareUpdate s r 2 2 (· = s)) ∧
    ∀ im, s.moving = false → s.frozen = false → k.updating = none → s.objectAt p (field b 0 8) = .ok im s →
      (k.standbyOk = false ∨ objectOk 1 k.record.minFw im = false ∨ Config.importOk im k.mirror.format = false →
        ends .firmwareUpdate s r 2 1 fun u => lastCode u p = some 0x51 ∧ (u.pkg p).activeB = k.activeB ∧ (u.pkg p).updating = none) ∧
      (k.standbyOk = true → objectOk 1 k.record.minFw im = true → Config.importOk im k.mirror.format = true → Yields .firmwareUpdate s fun t =>
        SameMem s t ∧ (∃ u, (t.pkg p).updating = some u ∧ u.version = field im 4 4 ∧ u.idx = r.1 ∧ u.addr = r.2.1 ∧ u.request = r.2.2) ∧
        s.ringBusy p = false ∧ t.ringBusy p = true ∧ (.updateTakeover, { p := p }) ∈ t.inflight)) ∧
  (∀ s v, let p := s.arg.p
    (s.pkg p).updating = some v → s.ringEnding p = false → (s.isMember p = false ∨ p ≠ s.lead ∨ s.queue.cur = none ∧ s.queue.waiting = none) →
    ends .updateTakeover s (v.idx, v.addr, v.request) 1 0 fun u => (u.pkg p).activeB = !(s.pkg p).activeB ∧ (u.pkg p).fwVersion = v.version ∧
      (u.pkg p).standbyVersion = v.version ∧ (u.pkg p).standbyOk = true ∧ (u.pkg p).updating = none ∧ lastCode u p = some 0x51) ∧
  (∀ s r b, serves s 9 8 r b →
    (s.frozen = false → ends .thawContexts s r 1 0 (· = s)) ∧
    (s.frozen = true → field b 0 8 ≠ s.dom.registry ∨ s.registryMatches = false → ends .thawContexts s r 2 1 (· = s)) ∧
    (s.frozen = true → field b 0 8 = s.dom.registry → s.registryMatches = true → ends .thawContexts s r 1 0 fun u => u.frozen = false ∧
      lastCode u s.arg.p = some 0x61 ∧ (.queuePoll, {}) ∈ u.inflight ∧
      ∀ p d, s.isMember p = true → p < 512 → d < 4 → (.coreReserve, { d := { pkg := p, die := d } }) ∈ u.inflight)) ∧
  (∀ s r b, let p := s.arg.p
    let w := field b 0 8
    let q := w % 2 ^ 9
    (serves s 10 8 r b → (1600 ≤ w ∧ w ≤ 2800 ∧ w % 50 = 0 → ends .setPowerCap s r 1 0 fun u => (u.pkg p).powerCap.toNat = w) ∧
      (w < 1600 ∨ 2800 < w ∨ w % 50 ≠ 0 → ends .setPowerCap s r 2 1 (· = s))) ∧
    (serves s 12 8 r b →
      (s.isMember q = true → q ≠ s.dom.primary → (s.pkg q).host.imageOk = true →
        ends .setSecondaryHostDie s r 1 0 fun u => u.dom = { s.dom with secondary := some q } ∧
          (u.pkg q).host.running = false) ∧
      (s.isMember q = false ∨ q = s.dom.primary ∨ (s.pkg q).host.imageOk = false → ends .setSecondaryHostDie s r 2 1 (· = s))) ∧
    (serves s 13 8 r b → (1023 < w → ends .setDetourBias s r 2 1 (· = s)) ∧
      (w ≤ 1023 → ends .setDetourBias s r 1 0 fun u => ∀ m, m ∈ (if s.isMember p then s.members else [p]) → (u.pkg m).bias = w))) ∧
  (∀ (s : State) p m, let a := s.spdmAnswer p m
    let code := field m 1 1
    (s.spdmRespond p m).1 = a ∧
    (code = 0x84 → field m 0 1 = 0x10 → a = [0x10, 4, 0, 0, 0, 1, 0, 0x13]) ∧
    (code ≠ 0x84 → field m 0 1 ≠ 0x13 → a = [0x13, 0x7F, 0x41, 0]) ∧
    (field m 0 1 = 0x13 → code ∉ [0x84, 0xE1, 0xE3, 0x81, 0x82, 0x83, 0xE0] → code < 256 → a = [0x13, 0x7F, 7, BitVec.ofNat 8 code]) ∧
    (∀ c, field m 0 1 = 0x13 → s.certChain p = some c → (code = 0x81 → a = [0x13, 0x01, 0, 1] ++ Config.sha384 c) ∧
      (code = 0x82 → field m 2 1 % 16 = 0 → field m 4 2 < c.length → a.drop 8 = (c.drop (field m 4 2)).take (field m 6 2))) ∧
    (field m 0 1 = 0x13 → code = 0xE0 → field m 3 1 = 0 → (a.drop 2).take 1 = [5]) ∧
    ∀ i, field m 0 1 = 0x13 → code = 0xE0 → field m 3 1 = i → 1 ≤ i → i ≤ 5 →
      ((a.drop 8).take (s.measureBlock p i).length) = s.measureBlock p i) ∧
  ∀ s, (s.arg.flag = true → s.healthy s.arg.p = true → Yields .spdmMessage s fun t => SameMem s t ∧
      t.outbox = s.outbox ++ [(s.arg.p, s.spdmAnswer s.arg.p s.arg.bytes)]) ∧
    ∀ r b q u, s.arg.flag = false → serves s 11 24 r b → field b 8 8 ≤ Config.maxImage →
      s.fwGet s.arg.p (field b 0 8) (field b 8 8) = .ok q s → (s.spdmRespond s.arg.p q).2.fwSet s.arg.p (field b 16 8) (s.spdmAnswer s.arg.p q) = .ok [] u →
      Yields .spdmMessage s fun t => t = u.endReq s.arg.p r 1 0

/-- Boot, failures and time (R11, R20, R21, R69, R96, R97, R102-R105, R111, R119, R124-R129, R162, R262): what each leaves, with its
event record. Rests on the model's choices of log 92, 98, 99, 100, 102, 104, 108, 129, 132. -/
def Obligations.BootAndFailures : Prop :=
  let logged : State → Nat → Nat → Prop := fun t p c => (t.pkg p).events.getLast?.map (·.code) = some c
  (∀ kind n bs, objectOk kind n bs = true ↔ field bs 0 2 = kind ∧ Config.formatOk kind (field bs 2 2) = true ∧ field bs 16 48 = 0 ∧
    16720 + field bs 8 8 ≤ bs.length ∧ n ≤ field bs 4 4 ∧
    let digest := Config.sha384 (bs.take 64 ++ (bs.drop 16720).take (field bs 8 8))
    (bs.drop 64).take 48 = digest ∧ Config.rsaOk digest ((bs.drop 112).take 384) = true ∧
      Config.slhOk digest ((bs.drop 496).take 16224) = true) ∧
  (∀ s i, let p := s.arg.p
    let old := s.flashObject p 2
    let new := s.arg.bytes
    let newer := i = .packageBoot ∧ objectOk 2 (recordOf old).minRecord new = true ∧ (recordOf new).follows (recordOf old) = true
    p < 512 → i = .packageBoot ∨ i = .warmReset → ∀ obj, (newer → obj = new) → (¬ newer → obj = old) → let rec_ := recordOf obj
    let a := checkObject 1 rec_.minFw (s.flashObject p 0)
    let b := checkObject 1 rec_.minFw (s.flashObject p 1)
    let measured : State → Nat → Option (List Byte) := fun t n => tget? (t.pkg p).enclave.measures n
    (checkObject 2 rec_.minRecord obj ≠ 0 → Yields i s fun t => (t.pkg p).bootState = 3 ∧ (t.pkg p).bootFail = 1 ∧ logged t p 0x81) ∧
    (checkObject 2 rec_.minRecord obj = 0 → a ≠ 0 → b ≠ 0 → Yields i s fun t => (t.pkg p).bootState = 3 ∧ (t.pkg p).bootFail = 2 ∧
      logged t p 0x81) ∧
    (checkObject 2 rec_.minRecord obj = 0 → a = 0 ∨ b = 0 → ∀ im,
      (pairVal (s.pkg p).kimageL (s.pkg p).kimageH = 0 ∧ im = s.flashObject p 3 ∨
        s.isMember p = false ∧ i = .warmReset ∧ s.kernelImage p = some im) →
      (checkObject 3 rec_.minKernel im = 0 → Yields i s fun t =>
        (t.pkg p).bootState = 1 ∧ (t.pkg p).bootFail = 0 ∧ (t.pkg p).host.running = true ∧ (t.pkg p).powerCap = 2800 ∧
        (t.pkg p).activeB = decide (a ≠ 0) ∧ (t.pkg p).standbyOk = decide (a = 0 ∧ b = 0) ∧ p ∉ t.dom.release ∧ (t.pkg p).record = rec_ ∧
        (t.pkg p).fwVersion = field (s.flashObject p (if a = 0 then 0 else 1)) 4 4 ∧
        measured t 1 = some (Config.sha384 Config.rom) ∧ measured t 2 = some (Config.sha384 obj) ∧
        measured t 3 = some (Config.sha384 (s.flashObject p (if a = 0 then 0 else 1))) ∧ measured t 5 = some (Config.sha384 im) ∧
        (i = .packageBoot → ∀ n, (State.linesOf p).1 ≤ n → n < (State.linesOf p).2 → n ∉ t.poisoned) ∧
        (∀ d, d < 4 → (t.die { pkg := p, die := d }).released = true ∧
          (t.die { pkg := p, die := d }).working = rec_.working.getD d allPositions) ∧
        (i = .warmReset → s.isMember p = false → (t.pkg p).events = (s.pkg p).events ∧ (t.pkg p).evNext = (s.pkg p).evNext ∧
          ∀ d, d < 4 → (t.die { pkg := p, die := d }).tagged = (s.die { pkg := p, die := d }).tagged ∧
            (t.die { pkg := p, die := d }).lost = (s.die { pkg := p, die := d }).lost)) ∧
      (checkObject 3 rec_.minKernel im ≠ 0 → Yields i s fun t =>
        (t.pkg p).bootState = 1 ∧ (t.pkg p).bootFail = 5 ∧ (t.pkg p).host.running = false ∧ logged t p 0x82))) ∧
  (∀ s, let d := s.arg.d
    d.pkg < 512 → d.die < 4 →
    ((s.die d).lost = true → Yields .fatalDieError s fun t => t = s) ∧
    ((s.die d).lost = false → Yields .fatalDieError s fun t => (t.die d).lost = true ∧ (∀ x, x ∈ t.cores → x.1.dieId ≠ d) ∧
      (∃ v, logged v d.pkg 0x80 ∧ t = (v.stopDie d).toFlash d.pkg) ∧ (t.pkg d.pkg).flash.length ≤ 2 ∧ (t.pkg d.pkg).flash ≠ []) ∧
    (let clk := if s.arg.flag then max 500 ((s.die d).clk - 50) else min 1000 ((s.die d).clk + 50)
     Yields .thermalThrottleStep s fun t => SameMem s t ∧ (t.die d).clk = clk ∧
       (clk ≠ (s.die d).clk → logged t d.pkg 0x90) ∧ (clk = (s.die d).clk → t = s))) ∧
  (∀ s, let p := s.arg.p
    (s.arg.flag = false → s.isMember p = false → Yields .packageLoss s fun t => t = s) ∧
    (∀ h x l, let k := BrokerId.tray (trayOf p)
      let n := tget x.given p 0 - tget x.gone p 0
      s.arg.flag = true → s.stillHeard p = false → s.isMember p = false → (s.broker k).shares = [(h, x)] → s.launch? h = some l →
        l.isChild = false → n ≠ 0 → Yields .packageLoss s fun t => SameMem s t ∧ (t.share k h).lost = x.lost + n ∧
          tget (t.share k h).gone p 0 = tget x.given p 0) ∧
    (s.arg.flag = false → s.isMember p = true → Yields .packageLoss s fun t => p ∈ t.lost ∧ (s.lead = p → (.standbyTakeover, {}) ∈ t.inflight) ∧
      (s.dom.primary = p → t.frozen = true) ∧ (s.dom.secondary = some p → t.dom.secondary = none)) ∧
    (p < 512 → Yields .emergencyShutdown s fun t => (∃ v : State, logged v p 0x91 ∧ t = (v.loseDies p).toFlash p) ∧
      ∀ d, d < 4 → (t.die { pkg := p, die := d }).lost = true) ∧
    (p < 512 → (s.pkg p).vin = false → Yields .vinLoss s fun t => t = s) ∧
    (p < 512 → (s.pkg p).vin = true → Yields .vinLoss s fun t => (t.pkg p).vin = false ∧ (t.pkg p).bootState = 0 ∧
      (t.pkg p).host.running = false ∧ ∀ d, d < 4 → (t.die { pkg := p, die := d }).lost = true) ∧
    (s.healthy p = false → Yields .heartbeatMiss s fun t => t = s) ∧
    (s.healthy p = true → s.arg.flag = true ∨ (s.pkg p).missed < 2 → Yields .heartbeatMiss s fun t => SameMem s t ∧
      t.pkg p = { s.pkg p with missed := if s.arg.flag then 0 else (s.pkg p).missed + 1 }) ∧
    (s.healthy p = true → s.arg.flag = false → 2 ≤ (s.pkg p).missed → (s.pkg p).standbyOk = true → Yields .heartbeatMiss s fun t =>
      SameMem s t ∧ (t.pkg p).activeB = !(s.pkg p).activeB ∧ (t.pkg p).standbyOk = false ∧ (t.pkg p).missed = 0 ∧
      (t.pkg p).bootState = (s.pkg p).bootState ∧ logged t p 0x50 ∧ (t.pkg p).fwVersion = (s.pkg p).standbyVersion ∧
      ∀ e, e ∈ t.inflight → State.endsReq p e = true → (s.pkg p).mirror.served ≤ e.2.i → e.2.n / 2 ^ 16 = 2 ∨ e.2.n / 2 ^ 16 = 3) ∧
    (s.healthy p = true → s.arg.flag = false → 2 ≤ (s.pkg p).missed → (s.pkg p).standbyOk = false → Yields .heartbeatMiss s fun t =>
      (t.pkg p).bootState = 3 ∧ (s.isMember p = true → p ∈ t.lost))) ∧
  (∀ s i n, (i, n) ∈ ([(.hostWatchdogExpire, 1), (.hostMachineCheck, 2), (.kernelPanicReport, 3)] : List (Instr × Nat)) →
    let due := i ≠ .hostWatchdogExpire ∨ 1000000 ≤ s.arg.n ∧ s.arg.n ≤ 10000000000 ∧ (s.pkg s.arg.p).host.since + s.arg.n ≤ s.now
    (s.hosting s.arg.p = false ∨ ¬ due → Yields i s fun t => t = s) ∧
    (s.hosting s.arg.p = true → due → Yields i s fun t => SameMem s t ∧ t.frozen = true ∧ (t.pkg s.dom.primary).host.running = false ∧
      (t.pkg s.dom.primary).host.failed = true ∧ (.warmReboot, { p := s.dom.primary, flag := !s.frozen }) ∈ t.inflight ∧
      (s.frozen = false → t.freezeCause = n) ∧ (t.pkg s.dom.primary).events = (s.pkg s.dom.primary).events)) ∧
  (∀ s, let p := s.arg.p
    s.isMember p = true → p = s.dom.primary → s.frozen = true →
    ((∃ x, x ∈ s.warps ∧ x.2.taking = true) → Yields .warmReboot s fun t => SameMem s t ∧ t.pkgs = s.pkgs ∧ t.inflight = s.inflight ∧
      ∃ n, (n, .warmReboot, s.arg) ∈ t.timers) ∧
    ((∀ x, x ∈ s.warps → x.2.taking = false) →
    (s.arg.flag = true → Yields .warmReboot s fun t => SameMem s t ∧ (.warmReboot, { p := p }) ∈ t.inflight ∧
      ∃ e, (t.pkg p).events.getLast? = some e ∧ e.code = 0x60 ∧ e.data.toNat % 2 ^ 8 = s.freezeCause % 2 ^ 8) ∧
    (s.arg.flag = false → s.kernelOk p = true → Yields .warmReboot s fun t => SameMem s t ∧ (t.pkg p).host.running = true ∧ (t.pkg p).host.imageOk = true ∧
      t.frozen = true) ∧
    (s.arg.flag = false → s.kernelOk p = false → Yields .warmReboot s fun t => SameMem s t ∧ (t.pkg p).host.running = false ∧ t.frozen = true ∧
      ∃ e, (t.pkg p).events.getLast? = some e ∧ e.code = 0x82 ∧ e.data.toNat = 6 + 2 ^ 8 * s.kernelCheck p))) ∧
  (∀ s h, s.homeAt s.arg.d s.arg.i = some h → Yields .softError s fun t => SameMem s t ∧
    (s.arg.flag = false → t.poisoned = s.poisoned ∧ logged t h.pkg 1) ∧
    (s.arg.flag = true → t.isPoisoned h = true ∧ logged t h.pkg 2)) ∧
  ∀ s, let p := s.arg.p
    (s.follows p = true → (s.pkg s.lead).gmLost = true → Yields .domainTimeSync s (fun t => t = s) ∧ Yields .ppsInPulse s fun t => t = s) ∧
    ((s.pkg p).gmLost = true → Yields .ppsInPulse s fun t => t = s) ∧
    (s.isMember p = true → -500 ≤ s.arg.ppm → s.arg.ppm ≤ 500 → s.follows p = false ∨ (s.pkg s.lead).gmLost = false → ∀ i, i = .domainTimeSync ∨
        i = .ppsInPulse ∧ (s.pkg p).gmLost = false → Yields i s fun t =>
      SameMem s t ∧ (t.pkg p).ppm = s.arg.ppm ∧ (t.pkg p).time = (s.pkg p).time ∧ (i = .domainTimeSync → (t.pkg p).gmLost = false)) ∧
    (s.isMember p = true → (s.pkg p).gmLost = false → Yields .grandmasterLost s fun t => SameMem s t ∧ (t.pkg p).gmLost = true ∧
      (t.pkg p).time = (s.pkg p).time ∧ (t.pkg p).ppm = (s.pkg p).ppm ∧ logged t p 0x70)

/-- The management registers (R117), their messages (R118), the BAR1 window, and KBOOT (R127). Rests on the model's choices of log
103. -/
def Obligations.Management : Prop :=
  (∀ s, let p := s.arg.p
    let m := s.arg.bytes
    let n := field m 12 4
    p < 512 →
    (s.arg.flag = true → Yields .mgmtRead s fun t =>
      t = { s with outbox := s.outbox ++ [(p, leBytes 4 ((s.mgmtReg p s.arg.n).getD 0).toNat)] }) ∧
    (s.arg.flag = false → field m 2 1 ≠ 2 → messageOk m = false → Yields .mgmtRead s fun t => t = { s with outbox := s.outbox ++ [(p, replyHead m 1)] }) ∧
    (s.arg.flag = false → field m 2 1 = 1 → messageOk m = true → Yields .mgmtRead s fun t => SameMem s t ∧ t.pkgs = s.pkgs ∧ ∃ bs, t.outbox = s.outbox ++ [(p, bs)] ∧
      bs.length = 16 + 4 * n ∧ field bs 2 1 = 0x81 ∧ (bs.drop 4).take 12 = (m.drop 4).take 12 ∧
      (∀ i, i < n → field bs (16 + 4 * i) 4 = ((s.mgmtReg p (field m 8 4 + i)).getD 0).toNat) ∧
      (field bs 3 1 = 0 ↔ ∀ i, i < n → (s.mgmtReg p (field m 8 4 + i)).isSome) ∧ (field bs 3 1 = 0 ∨ field bs 3 1 = 2)) ∧
    (field m 2 1 = 2 → messageOk m = false → Yields .mgmtWrite s fun t => t = { s with outbox := s.outbox ++ [(p, replyHead m 1)] }) ∧
    (field m 2 1 = 2 → messageOk m = true → n = 1 → let v : Word := BitVec.ofNat 32 (field m 16 4)
      (∀ u, s.regWrite p (field m 8 4) v = some u → Yields .mgmtWrite s fun t => t = { u with outbox := u.outbox ++ [(p, replyHead m 0)] }) ∧
      (s.regWrite p (field m 8 4) v = none → Yields .mgmtWrite s fun t => t = { s with outbox := s.outbox ++ [(p, replyHead m 2)] }))) ∧
  (∀ (s : State) p, let k := s.pkg p
    let reg := s.mgmtReg p
    reg 0 = some (BitVec.ofNat 32 (k.bootState + 2 ^ 8 * k.bootFail)) ∧ reg 4 = some k.ringL ∧ reg 5 = some k.ringH ∧ reg 6 = some k.ringK ∧
    reg 8 = some k.powerCap ∧ reg 0xC = some (BitVec.ofNat 32 k.evNext) ∧ reg 0xD = some k.evSel ∧ reg 0x1C = some k.kimageL ∧
    reg 0x1D = some k.kimageH ∧
    reg 0x18 = some (BitVec.ofNat 32 (bit01 k.activeB 0 + bit01 k.standbyOk 1 + 2 ^ 16 * (k.fwVersion % 2 ^ 16))) ∧ (∀ i e, i < 8 → k.events.find? (fun e => e.seq == k.evSel.toNat) = some e →
      reg (0x10 + i) = some (BitVec.ofNat 32 (field (recorderBytes e) (4 * i) 4))) ∧
    (∀ i, i < 8 → (∀ e, e ∈ k.events → e.seq ≠ k.evSel.toNat) → reg (0x10 + i) = some 0) ∧
    ∀ n, n = 3 ∨ n = 7 ∨ 0x19 ≤ n ∧ n < 0x1C ∨ 0x1E < n → reg n = none) ∧
  (∀ s, let p := s.arg.p
    let k := s.pkg p
    let n := s.arg.n
    let v := s.arg.word
    let to_ : (State → Prop) → Prop := Yields .mgmtRegisterWrite s
    p < 512 →
    (n = 4 → to_ fun t => SameMem s t ∧ (t.pkg p).ringL = if k.bootState = 2 then k.ringL else v) ∧
    (n = 5 → to_ fun t => SameMem s t ∧ (t.pkg p).ringH = if k.bootState = 2 then k.ringH else v) ∧
    (n = 6 → to_ fun t => SameMem s t ∧ (t.pkg p).ringK = if 6 ≤ v.toNat ∧ v.toNat ≤ 16 then v else k.ringK) ∧
    (n = 0xD → to_ fun t => SameMem s t ∧ (t.pkg p).evSel = v) ∧
    (n = 0x1C → to_ fun t => SameMem s t ∧ (t.pkg p).kimageL = v) ∧ (n = 0x1D → to_ fun t => SameMem s t ∧ (t.pkg p).kimageH = v) ∧
    (n ∉ [4, 5, 6, 0xD, 0x1C, 0x1D] → to_ fun t => t = s) ∧
    (Yields .powercapWrite s fun t => SameMem s t ∧
      (t.pkg p).powerCap = if 1600 ≤ v.toNat ∧ v.toNat ≤ 2800 ∧ v.toNat % 50 = 0 then v else k.powerCap) ∧
    (v ≠ 1 ∨ k.host.running = true ∨ s.isMember p = true ∧ s.dom.secondary = some p ∨ k.bootState ≠ 1 ∧ k.bootState ≠ 2 → Yields .kboot s fun t => t = s) ∧
    (v = 1 → k.host.running = false → s.isMember p = false ∨ s.dom.secondary ≠ some p → k.bootState = 1 ∨ k.bootState = 2 →
      (s.kernelOk p = true → Yields .kboot s fun t => SameMem s t ∧ (t.pkg p).host.running = true ∧ (t.pkg p).host.imageOk = true) ∧
      (s.kernelOk p = false → Yields .kboot s fun t => SameMem s t ∧ (t.pkg p).host.running = false ∧
        ((t.pkg p).events.getLast?.map (·.code)) = some 0x82))) ∧
  ∀ s, let a := s.arg
    let keys := (List.range a.bytes.length).map fun j => physKey (bootHome a.p (a.i + j))
    a.p < 512 →
    (a.flag = false → a.i + a.n ≤ 2 ^ 32 → Yields .bar1Access s fun t => SameMem s t ∧ t.outbox = s.outbox ++ [(a.p, s.bootBytes a.p a.i a.n)]) ∧
    (a.flag = true → a.i + a.bytes.length ≤ 2 ^ 32 → s.mem.wf → Yields .bar1Access s fun t => SameMemBut keys s t ∧
      t.bootBytes a.p a.i a.bytes.length = a.bytes)

/-- Every well-formed instruction comes back from its words, and from its bytes whatever follows them (R276-R298); a header comes
back from its word. -/
def Obligations.DecodeEncode : Prop :=
  (∀ i c ws, wellFormed i = true → encode i = some (c, ws) → ∃ w, ws.head? = some w ∧ longBit w = decide (ws.length = 2) ∧
    decode c w ws[1]? = .ok i) ∧
  (∀ i c bs rest, wellFormed i = true → encodeBytes i = some (c, bs) → decodeBytes c (bs ++ rest) = .ok (i, rest)) ∧
  ∀ h : Header, 1 ≤ h.n → h.n ≤ 15 → h.hold.toNat < 2 ^ h.n → decodeHeader (encodeHeader h) = some h

/-- What decodes is well-formed, and its words are the words it was read from: decoding drops no bit and accepts no unused bit
(R288, R298). -/
def Obligations.EncodeDecode : Prop :=
  (∀ c w x i, decode c w x = .ok i → wellFormed i = true ∧ if longBit w then ∃ e, x = some e ∧ encode i = some (c, [w, e])
    else encode i = some (c, [w])) ∧
  (∀ c bs i rest, decodeBytes c bs = .ok (i, rest) → ∃ ws, encodeBytes i = some (c, ws) ∧ bs = ws ++ rest) ∧
  ∀ w h, decodeHeader w = some h → encodeHeader h = w ∧ 1 ≤ h.n ∧ h.n ≤ 15

/-- Words that the spec writes out, one or more of each class, decode to the instructions they stand for (R276-R298). -/
def Obligations.DecodeWords : Prop :=
  let r : Nat → Nat → Nat → Reg := fun d a b => { d := d, a := a, b := b, g := 0, fa := false, fb := false }
  let m : Nat → Nat → Nat → Mm := fun d a base => { d := d, a := a, base := base, pair := false, g := 0, fa := false, fb := false }
  let e : Nat → Nat → Nat → Nat → Xm := fun minor scope order low =>
    { minor := minor, scope := scope, order := order, g := 0, neg := false, low := low }
  let x : Nat → Nat → Xr := fun minor c =>
    { minor := minor, c := c, g := 0, neg := false, fc := false, bs := false, mode := 0, amt := 0, clamp := false, rnd := 0 }
  decodeHeader 0x00000002 = some { n := 2, cls := .ctrl, yield := false, hold := 0 } ∧
  decodeHeader 0x02A8001A = some { n := 10, cls := .vec, yield := false, hold := 0x154 } ∧
  decode .ctrl 0x44000000 none = .ok (.exit (r 0 0 0)) ∧
  decode .ctrl 0xB8040006 (some 0x00000008) = .ok (.brd { c := 1, off := 6 } 8) ∧
  decode .vec 0x02100000 none = .ok (.vmovi { d := 4, a := 0, imm := 0 }) ∧
  decode .vec 0x04006800 none = .ok (.vmovs (r 0 13 0)) ∧
  decode .vec 0xCE001820 (some 0x00020000) = .ok (.sel (r 0 3 2) (x 0 1)) ∧
  decode .vec 0xD00C3800 (some 0x62000000) = .ok (.cvt (r 3 7 0) (x 0x62 0)) ∧
  decode .mem 0x00200080 none = .ok (.ld (m 8 0 4)) ∧
  decode .mem 0x840C08C0 (some 0x05000010) = .ok (.ldlXm (m 3 1 6) (e 5 0 0 0x10)) ∧
  decode .mem 0x94241080 (some 0x1C980600) = .ok (.ratom (m 9 2 4) (e 0x1C 4 3 0x600)) ∧
  decode .mem 0x96100880 (some 0x00900900) = .ok (.mcast (m 4 1 4) (e 0 4 2 0x900)) ∧
  decode .mem 0x98500000 (some 0x06900900) = .ok (.combine (m 20 0 0) (e 6 4 2 0x900)) ∧
  decode .mtx 0x06090000 none = .ok (.mwr (r 2 32 0)) ∧
  decode .cpy 0x804020C0 (some 0x01000000) = .ok (.tcopyXm (r 16 4 12) (e 1 0 0 0)) ∧
  decode .sync 0x16002870 none = .ok (.mbxsend (r 0 5 7)) ∧
  decode .sys 0x8A002000 (some 0x00200000) = .ok (.tlbinvXm (r 0 4 0) (e 0 1 0 0)) ∧
  decode .vec 0x02100001 none = .ok (.vmovi { d := 4, a := 0, imm := 1 }) ∧
  decode .ctrl 0x44000001 none = .error .badField

/-- Two bytes of one region have two places (R60): a region's home function is injective. An address that no valid region holds has
no home (R57). -/
def Obligations.HomesDistinct : Prop :=
  (∀ m r a b, m.Nodup → m ≠ [] → 1 ≤ r.mode → r.mode ≤ 4 → homeIn m r a = homeIn m r b → a = b) ∧
  ∀ t pa, homeOf t pa = none ↔ ∀ r, r ∈ t.regions → r.mode = 0 ∨ pa < r.base ∨ r.base + r.size ≤ pa

/-- Every step keeps memory in its canonical form: addresses strictly rise, and no entry equals what an unlisted address reads as.
Rests on the model's choices of log 8. -/
def Obligations.MemoryCanonical : Prop := ∀ s t, s.mem.wf = true → step s = .next t → t.mem.wf = true

/-- The machine after reset: memory is canonical, and every value is the one the spec states (R8, R21, R35, R45, R85, R91, R96,
R117, R119, R120, R256, R408, R411); a warp, a block and a tile start as R166, R175, R180, R284, R362 and R398 say. Rests on the
model's choices of log 7, 8. -/
def Obligations.ResetState : Prop :=
  let s := State.reset
  (s.mem.wf = true ∧ s.warps = [] ∧ s.blocks = [] ∧ s.launches = [] ∧ s.dom.configured = false ∧ s.dom.timeout = 10 ∧
    s.frozen = false ∧ s.queue.status = 0 ∧ s.lost = [] ∧ s.inflight = [(.packageBoot, {})] ∧ (∀ p, s.isMember p = false) ∧
    (∀ p, (s.pkg p).bootState = 0 ∧ (s.pkg p).bias = 32 ∧ (s.pkg p).evNext = 0 ∧ (s.pkg p).events = [] ∧ (s.pkg p).host.running = false ∧
      (s.pkg p).groups = [] ∧ (s.pkg p).watches = []) ∧
    (∀ d, (s.die d).released = false ∧ (s.die d).lost = false ∧ (s.die d).tagged = [] ∧ (s.die d).clk = 1000 ∧ (s.die d).tlb = []) ∧
    ∀ c, (s.core c).lines = [] ∧ (s.core c).mtx = [] ∧ (s.core c).porter = [] ∧ (s.core c).reserved = none ∧
      ∀ n, n < 256 → (s.tag c n).held = false) ∧
  (∀ b num units tiles entry, let w := Warp.start b num units tiles entry
    (∀ r, (w.vreg r).full = true ∧ (w.vreg r).poison = none ∧ ∀ l, l < 32 → lane (w.vreg r).lanes l = 0) ∧ (∀ r, w.sreg r = 0) ∧
    w.preg 0 = BitVec.allOnes 32 ∧ (∀ k, 0 < k → w.preg k = 0) ∧ w.a.pc = entry ∧ w.a.mask = BitVec.allOnes 32 ∧ w.b.mask = 0 ∧ w.j = none ∧
    w.dsp = 0 ∧ w.evp = 0 ∧ w.evm = 0 ∧ w.wef = 0 ∧ w.tvec = 0 ∧ w.rff = 0 ∧ w.handler = false ∧ w.timer = 0 ∧ w.arrA = 0 ∧ w.arrF = 0 ∧
    (∀ k, k < 8 → (w.events.getD k EventSlot.unbound).kind = 0 ∧ (w.walker k).bound = 0) ∧
    (∀ z e, z < tiles → e < 1024 → (w.z.getD z []).getD e 1 = 0)) ∧
  ∀ c warps units tiles bars stack kib grans slots, (Block.start c warps units tiles bars stack kib grans slots).laneMap = List.range (32 * warps)

/-- A step runs the instruction that it decodes (R167, R168, R298, R299). An event whose turn it is, and a quadrant whose first slot
in issue order has a word that may issue there, perform `exec` of it: on the state in which it is due no more, and the site is
the slot. The records of contexts that are frozen follow an event's change (R261). A slot without a clause fetches it first. A
unit that the quadrants share takes the next one in rotation (R169). When the instruction waits, the next slot of the order is
tried in its place. Rests on the model's choices of log 1, 5. -/
def Obligations.StepRunsDecoded : Prop :=
  (∀ s i arg, s.turn = some (.event i arg) → (i, arg) ∈ s.inflight →
    step s = match exec i { s with turn := none, inflight := s.inflight.erase (i, arg), arg := arg } with
      | .next t => .next (({ t with arg := {}, stalled := false } : State).recordsSince { s with turn := none })
      | r => r) ∧
  (∀ s c q p ps x, let s0 : State := { s with turn := none }
    s.turn = some (.issue c q) → s0.issueOrder c q = p :: ps → ({ s0 with site := some p } : State).siteOf = some x → x.w.engine = none →
    (∀ r, r < 4 → r ≠ q → s0.candidates c r = []) ∨ s0.refused exec c q = false →
    let runs : State → Site → Clause → Prop := fun s1 y cl => ∀ i,
      let w0 := cl.words.getD (y.k - 1) 0
      let ext := if longBit w0 then cl.words[y.k]? else none
      let last := y.k + (if ext.isSome then 1 else 0)
      decode cl.hdr.cls w0 ext = .ok i → y.sl.parkedWait = false → (ext.isSome = true → cl.hdr.hold.getLsbD y.k = false) →
      (isTransfer i = true → last = cl.hdr.n) → cl.hdr.hold.getLsbD (y.k - 1) = false ∨ y.k = 1 →
      let s2 : State := { s1 with site := some p }
      step s = match exec i (if s0.holdsPass p && x.sl.k != 0 && s0.alone exec c q p then s2.endPasses [p.1] else s2) with
        | .next t => if t.stalled then State.issueFirst exec c q ps { t with stalled := false, site := none }
          else .next { (((t.endPasses (if x.sl.k = 0 then s0.passedOver exec c q p else [])).dropLatch p.1 i).noteServed c q i) with site := none }
        | r => r
    (∀ cl, x.sl.clause = some cl → runs s0 x cl) ∧
    (∀ ws hw h s1 s2, x.sl.clause = none → x.sl.pc.toNat % 4 = 0 → s0.fetchWords x.core x.sl.pc.toNat 1 = .ok (hw, s1) →
      decodeHeader (hw.getD 0 0) = some h → s1.fetchWords x.core (x.sl.pc.toNat + 4) h.n = .ok (ws, s2) → longAtEnd ws = false →
      let sl := { x.sl with clause := some { hdr := h, words := ws } }
      let w := x.w.setSlot x.sel sl
      runs (s2.setWarp x.wid w) { x with w := w, sl := sl } { hdr := h, words := ws })) ∧
  ∀ nbits w cls i, decodeTable nbits w = some (cls, i) →
    let s := State.reset.withFetchWord nbits w
    let s0 : State := { s with turn := none }
    ∃ p ps x, s.turn = some (.issue placeCore 0) ∧ s0.issueOrder placeCore 0 = p :: ps ∧
      ({ s0 with site := some p } : State).siteOf = some x ∧ x.w.engine = none ∧ x.sl.clause = none ∧ x.sl.pc.toNat % 4 = 0 ∧ x.k = 1 ∧
      x.core = placeCore ∧ (∀ r, r < 4 → r ≠ 0 → s0.candidates placeCore r = []) ∧ ∃ hw h ws s1 s2, encode i = some (cls, ws) ∧ h = { n := ws.length, cls := cls, yield := false, hold := 0 } ∧
        s0.fetchWords placeCore x.sl.pc.toNat 1 = .ok (hw, s1) ∧ decodeHeader (hw.getD 0 0) = some h ∧
        s1.fetchWords placeCore (x.sl.pc.toNat + 4) h.n = .ok (ws, s2) ∧ longAtEnd ws = false
end

