-- ==== Sys2Proof/Laws/State.lean ====
section
/-! SUPPORT. One lemma per field and update of the state and of a warp: what an update leaves as it was. -/

namespace Sys2Proof.Machine

namespace State

/-! setCore -/

@[simp] theorem setCore_mem (s : State) (c : CoreId) (v : Core) : (s.setCore c v).mem = s.mem := rfl
@[simp] theorem setCore_poisoned (s : State) (c : CoreId) (v : Core) : (s.setCore c v).poisoned = s.poisoned := rfl
@[simp] theorem setCore_warps (s : State) (c : CoreId) (v : Core) : (s.setCore c v).warps = s.warps := rfl
@[simp] theorem setCore_blocks (s : State) (c : CoreId) (v : Core) : (s.setCore c v).blocks = s.blocks := rfl
@[simp] theorem setCore_dies (s : State) (c : CoreId) (v : Core) : (s.setCore c v).dies = s.dies := rfl
@[simp] theorem setCore_pkgs (s : State) (c : CoreId) (v : Core) : (s.setCore c v).pkgs = s.pkgs := rfl
@[simp] theorem setCore_dom (s : State) (c : CoreId) (v : Core) : (s.setCore c v).dom = s.dom := rfl
@[simp] theorem setCore_lost (s : State) (c : CoreId) (v : Core) : (s.setCore c v).lost = s.lost := rfl
@[simp] theorem setCore_launches (s : State) (c : CoreId) (v : Core) : (s.setCore c v).launches = s.launches := rfl
@[simp] theorem setCore_brokers (s : State) (c : CoreId) (v : Core) : (s.setCore c v).brokers = s.brokers := rfl
@[simp] theorem setCore_queue (s : State) (c : CoreId) (v : Core) : (s.setCore c v).queue = s.queue := rfl
@[simp] theorem setCore_commit (s : State) (c : CoreId) (v : Core) : (s.setCore c v).commit = s.commit := rfl
@[simp] theorem setCore_serial (s : State) (c : CoreId) (v : Core) : (s.setCore c v).serial = s.serial := rfl
@[simp] theorem setCore_frozen (s : State) (c : CoreId) (v : Core) : (s.setCore c v).frozen = s.frozen := rfl
@[simp] theorem setCore_freezeCause (s : State) (c : CoreId) (v : Core) : (s.setCore c v).freezeCause = s.freezeCause := rfl
@[simp] theorem setCore_inflight (s : State) (c : CoreId) (v : Core) : (s.setCore c v).inflight = s.inflight := rfl
@[simp] theorem setCore_timers (s : State) (c : CoreId) (v : Core) : (s.setCore c v).timers = s.timers := rfl
@[simp] theorem setCore_outbox (s : State) (c : CoreId) (v : Core) : (s.setCore c v).outbox = s.outbox := rfl
@[simp] theorem setCore_now (s : State) (c : CoreId) (v : Core) : (s.setCore c v).now = s.now := rfl
@[simp] theorem setCore_turn (s : State) (c : CoreId) (v : Core) : (s.setCore c v).turn = s.turn := rfl
@[simp] theorem setCore_stalled (s : State) (c : CoreId) (v : Core) : (s.setCore c v).stalled = s.stalled := rfl
@[simp] theorem setCore_site (s : State) (c : CoreId) (v : Core) : (s.setCore c v).site = s.site := rfl
@[simp] theorem setCore_arg (s : State) (c : CoreId) (v : Core) : (s.setCore c v).arg = s.arg := rfl
@[simp] theorem setCore_picks (s : State) (c : CoreId) (v : Core) : (s.setCore c v).picks = s.picks := rfl
@[simp] theorem setCore_free (s : State) (c : CoreId) (v : Core) : (s.setCore c v).free = s.free := rfl

/-! setDie -/

@[simp] theorem setDie_mem (s : State) (d : DieId) (v : Die) : (s.setDie d v).mem = s.mem := rfl
@[simp] theorem setDie_poisoned (s : State) (d : DieId) (v : Die) : (s.setDie d v).poisoned = s.poisoned := rfl
@[simp] theorem setDie_warps (s : State) (d : DieId) (v : Die) : (s.setDie d v).warps = s.warps := rfl
@[simp] theorem setDie_blocks (s : State) (d : DieId) (v : Die) : (s.setDie d v).blocks = s.blocks := rfl
@[simp] theorem setDie_cores (s : State) (d : DieId) (v : Die) : (s.setDie d v).cores = s.cores := rfl
@[simp] theorem setDie_pkgs (s : State) (d : DieId) (v : Die) : (s.setDie d v).pkgs = s.pkgs := rfl
@[simp] theorem setDie_dom (s : State) (d : DieId) (v : Die) : (s.setDie d v).dom = s.dom := rfl
@[simp] theorem setDie_lost (s : State) (d : DieId) (v : Die) : (s.setDie d v).lost = s.lost := rfl
@[simp] theorem setDie_launches (s : State) (d : DieId) (v : Die) : (s.setDie d v).launches = s.launches := rfl
@[simp] theorem setDie_brokers (s : State) (d : DieId) (v : Die) : (s.setDie d v).brokers = s.brokers := rfl
@[simp] theorem setDie_queue (s : State) (d : DieId) (v : Die) : (s.setDie d v).queue = s.queue := rfl
@[simp] theorem setDie_commit (s : State) (d : DieId) (v : Die) : (s.setDie d v).commit = s.commit := rfl
@[simp] theorem setDie_serial (s : State) (d : DieId) (v : Die) : (s.setDie d v).serial = s.serial := rfl
@[simp] theorem setDie_frozen (s : State) (d : DieId) (v : Die) : (s.setDie d v).frozen = s.frozen := rfl
@[simp] theorem setDie_freezeCause (s : State) (d : DieId) (v : Die) : (s.setDie d v).freezeCause = s.freezeCause := rfl
@[simp] theorem setDie_inflight (s : State) (d : DieId) (v : Die) : (s.setDie d v).inflight = s.inflight := rfl
@[simp] theorem setDie_timers (s : State) (d : DieId) (v : Die) : (s.setDie d v).timers = s.timers := rfl
@[simp] theorem setDie_outbox (s : State) (d : DieId) (v : Die) : (s.setDie d v).outbox = s.outbox := rfl
@[simp] theorem setDie_now (s : State) (d : DieId) (v : Die) : (s.setDie d v).now = s.now := rfl
@[simp] theorem setDie_turn (s : State) (d : DieId) (v : Die) : (s.setDie d v).turn = s.turn := rfl
@[simp] theorem setDie_stalled (s : State) (d : DieId) (v : Die) : (s.setDie d v).stalled = s.stalled := rfl
@[simp] theorem setDie_site (s : State) (d : DieId) (v : Die) : (s.setDie d v).site = s.site := rfl
@[simp] theorem setDie_arg (s : State) (d : DieId) (v : Die) : (s.setDie d v).arg = s.arg := rfl
@[simp] theorem setDie_picks (s : State) (d : DieId) (v : Die) : (s.setDie d v).picks = s.picks := rfl
@[simp] theorem setDie_free (s : State) (d : DieId) (v : Die) : (s.setDie d v).free = s.free := rfl

/-! setPkg -/

@[simp] theorem setPkg_mem (s : State) (p : Nat) (v : Package) : (s.setPkg p v).mem = s.mem := rfl
@[simp] theorem setPkg_poisoned (s : State) (p : Nat) (v : Package) : (s.setPkg p v).poisoned = s.poisoned := rfl
@[simp] theorem setPkg_warps (s : State) (p : Nat) (v : Package) : (s.setPkg p v).warps = s.warps := rfl
@[simp] theorem setPkg_blocks (s : State) (p : Nat) (v : Package) : (s.setPkg p v).blocks = s.blocks := rfl
@[simp] theorem setPkg_cores (s : State) (p : Nat) (v : Package) : (s.setPkg p v).cores = s.cores := rfl
@[simp] theorem setPkg_dies (s : State) (p : Nat) (v : Package) : (s.setPkg p v).dies = s.dies := rfl
@[simp] theorem setPkg_dom (s : State) (p : Nat) (v : Package) : (s.setPkg p v).dom = s.dom := rfl
@[simp] theorem setPkg_lost (s : State) (p : Nat) (v : Package) : (s.setPkg p v).lost = s.lost := rfl
@[simp] theorem setPkg_launches (s : State) (p : Nat) (v : Package) : (s.setPkg p v).launches = s.launches := rfl
@[simp] theorem setPkg_brokers (s : State) (p : Nat) (v : Package) : (s.setPkg p v).brokers = s.brokers := rfl
@[simp] theorem setPkg_queue (s : State) (p : Nat) (v : Package) : (s.setPkg p v).queue = s.queue := rfl
@[simp] theorem setPkg_commit (s : State) (p : Nat) (v : Package) : (s.setPkg p v).commit = s.commit := rfl
@[simp] theorem setPkg_serial (s : State) (p : Nat) (v : Package) : (s.setPkg p v).serial = s.serial := rfl
@[simp] theorem setPkg_frozen (s : State) (p : Nat) (v : Package) : (s.setPkg p v).frozen = s.frozen := rfl
@[simp] theorem setPkg_freezeCause (s : State) (p : Nat) (v : Package) : (s.setPkg p v).freezeCause = s.freezeCause := rfl
@[simp] theorem setPkg_inflight (s : State) (p : Nat) (v : Package) : (s.setPkg p v).inflight = s.inflight := rfl
@[simp] theorem setPkg_timers (s : State) (p : Nat) (v : Package) : (s.setPkg p v).timers = s.timers := rfl
@[simp] theorem setPkg_outbox (s : State) (p : Nat) (v : Package) : (s.setPkg p v).outbox = s.outbox := rfl
@[simp] theorem setPkg_now (s : State) (p : Nat) (v : Package) : (s.setPkg p v).now = s.now := rfl
@[simp] theorem setPkg_turn (s : State) (p : Nat) (v : Package) : (s.setPkg p v).turn = s.turn := rfl
@[simp] theorem setPkg_stalled (s : State) (p : Nat) (v : Package) : (s.setPkg p v).stalled = s.stalled := rfl
@[simp] theorem setPkg_site (s : State) (p : Nat) (v : Package) : (s.setPkg p v).site = s.site := rfl
@[simp] theorem setPkg_arg (s : State) (p : Nat) (v : Package) : (s.setPkg p v).arg = s.arg := rfl
@[simp] theorem setPkg_picks (s : State) (p : Nat) (v : Package) : (s.setPkg p v).picks = s.picks := rfl
@[simp] theorem setPkg_free (s : State) (p : Nat) (v : Package) : (s.setPkg p v).free = s.free := rfl

/-! setWarp -/

@[simp] theorem setWarp_mem (s : State) (w : WarpId) (v : Warp) : (s.setWarp w v).mem = s.mem := rfl
@[simp] theorem setWarp_poisoned (s : State) (w : WarpId) (v : Warp) : (s.setWarp w v).poisoned = s.poisoned := rfl
@[simp] theorem setWarp_blocks (s : State) (w : WarpId) (v : Warp) : (s.setWarp w v).blocks = s.blocks := rfl
@[simp] theorem setWarp_cores (s : State) (w : WarpId) (v : Warp) : (s.setWarp w v).cores = s.cores := rfl
@[simp] theorem setWarp_dies (s : State) (w : WarpId) (v : Warp) : (s.setWarp w v).dies = s.dies := rfl
@[simp] theorem setWarp_pkgs (s : State) (w : WarpId) (v : Warp) : (s.setWarp w v).pkgs = s.pkgs := rfl
@[simp] theorem setWarp_dom (s : State) (w : WarpId) (v : Warp) : (s.setWarp w v).dom = s.dom := rfl
@[simp] theorem setWarp_lost (s : State) (w : WarpId) (v : Warp) : (s.setWarp w v).lost = s.lost := rfl
@[simp] theorem setWarp_launches (s : State) (w : WarpId) (v : Warp) : (s.setWarp w v).launches = s.launches := rfl
@[simp] theorem setWarp_brokers (s : State) (w : WarpId) (v : Warp) : (s.setWarp w v).brokers = s.brokers := rfl
@[simp] theorem setWarp_queue (s : State) (w : WarpId) (v : Warp) : (s.setWarp w v).queue = s.queue := rfl
@[simp] theorem setWarp_commit (s : State) (w : WarpId) (v : Warp) : (s.setWarp w v).commit = s.commit := rfl
@[simp] theorem setWarp_serial (s : State) (w : WarpId) (v : Warp) : (s.setWarp w v).serial = s.serial := rfl
@[simp] theorem setWarp_frozen (s : State) (w : WarpId) (v : Warp) : (s.setWarp w v).frozen = s.frozen := rfl
@[simp] theorem setWarp_freezeCause (s : State) (w : WarpId) (v : Warp) : (s.setWarp w v).freezeCause = s.freezeCause := rfl
@[simp] theorem setWarp_inflight (s : State) (w : WarpId) (v : Warp) : (s.setWarp w v).inflight = s.inflight := rfl
@[simp] theorem setWarp_timers (s : State) (w : WarpId) (v : Warp) : (s.setWarp w v).timers = s.timers := rfl
@[simp] theorem setWarp_outbox (s : State) (w : WarpId) (v : Warp) : (s.setWarp w v).outbox = s.outbox := rfl
@[simp] theorem setWarp_now (s : State) (w : WarpId) (v : Warp) : (s.setWarp w v).now = s.now := rfl
@[simp] theorem setWarp_turn (s : State) (w : WarpId) (v : Warp) : (s.setWarp w v).turn = s.turn := rfl
@[simp] theorem setWarp_stalled (s : State) (w : WarpId) (v : Warp) : (s.setWarp w v).stalled = s.stalled := rfl
@[simp] theorem setWarp_site (s : State) (w : WarpId) (v : Warp) : (s.setWarp w v).site = s.site := rfl
@[simp] theorem setWarp_arg (s : State) (w : WarpId) (v : Warp) : (s.setWarp w v).arg = s.arg := rfl
@[simp] theorem setWarp_picks (s : State) (w : WarpId) (v : Warp) : (s.setWarp w v).picks = s.picks := rfl
@[simp] theorem setWarp_free (s : State) (w : WarpId) (v : Warp) : (s.setWarp w v).free = s.free := rfl

/-! setBlock -/

@[simp] theorem setBlock_mem (s : State) (b : BlockId) (v : Block) : (s.setBlock b v).mem = s.mem := rfl
@[simp] theorem setBlock_poisoned (s : State) (b : BlockId) (v : Block) : (s.setBlock b v).poisoned = s.poisoned := rfl
@[simp] theorem setBlock_warps (s : State) (b : BlockId) (v : Block) : (s.setBlock b v).warps = s.warps := rfl
@[simp] theorem setBlock_cores (s : State) (b : BlockId) (v : Block) : (s.setBlock b v).cores = s.cores := rfl
@[simp] theorem setBlock_dies (s : State) (b : BlockId) (v : Block) : (s.setBlock b v).dies = s.dies := rfl
@[simp] theorem setBlock_pkgs (s : State) (b : BlockId) (v : Block) : (s.setBlock b v).pkgs = s.pkgs := rfl
@[simp] theorem setBlock_dom (s : State) (b : BlockId) (v : Block) : (s.setBlock b v).dom = s.dom := rfl
@[simp] theorem setBlock_lost (s : State) (b : BlockId) (v : Block) : (s.setBlock b v).lost = s.lost := rfl
@[simp] theorem setBlock_launches (s : State) (b : BlockId) (v : Block) : (s.setBlock b v).launches = s.launches := rfl
@[simp] theorem setBlock_brokers (s : State) (b : BlockId) (v : Block) : (s.setBlock b v).brokers = s.brokers := rfl
@[simp] theorem setBlock_queue (s : State) (b : BlockId) (v : Block) : (s.setBlock b v).queue = s.queue := rfl
@[simp] theorem setBlock_commit (s : State) (b : BlockId) (v : Block) : (s.setBlock b v).commit = s.commit := rfl
@[simp] theorem setBlock_serial (s : State) (b : BlockId) (v : Block) : (s.setBlock b v).serial = s.serial := rfl
@[simp] theorem setBlock_frozen (s : State) (b : BlockId) (v : Block) : (s.setBlock b v).frozen = s.frozen := rfl
@[simp] theorem setBlock_freezeCause (s : State) (b : BlockId) (v : Block) : (s.setBlock b v).freezeCause = s.freezeCause := rfl
@[simp] theorem setBlock_inflight (s : State) (b : BlockId) (v : Block) : (s.setBlock b v).inflight = s.inflight := rfl
@[simp] theorem setBlock_timers (s : State) (b : BlockId) (v : Block) : (s.setBlock b v).timers = s.timers := rfl
@[simp] theorem setBlock_outbox (s : State) (b : BlockId) (v : Block) : (s.setBlock b v).outbox = s.outbox := rfl
@[simp] theorem setBlock_now (s : State) (b : BlockId) (v : Block) : (s.setBlock b v).now = s.now := rfl
@[simp] theorem setBlock_turn (s : State) (b : BlockId) (v : Block) : (s.setBlock b v).turn = s.turn := rfl
@[simp] theorem setBlock_stalled (s : State) (b : BlockId) (v : Block) : (s.setBlock b v).stalled = s.stalled := rfl
@[simp] theorem setBlock_site (s : State) (b : BlockId) (v : Block) : (s.setBlock b v).site = s.site := rfl
@[simp] theorem setBlock_arg (s : State) (b : BlockId) (v : Block) : (s.setBlock b v).arg = s.arg := rfl
@[simp] theorem setBlock_picks (s : State) (b : BlockId) (v : Block) : (s.setBlock b v).picks = s.picks := rfl
@[simp] theorem setBlock_free (s : State) (b : BlockId) (v : Block) : (s.setBlock b v).free = s.free := rfl

/-! setLaunch -/

@[simp] theorem setLaunch_mem (s : State) (n : Nat) (v : Launch) : (s.setLaunch n v).mem = s.mem := rfl
@[simp] theorem setLaunch_poisoned (s : State) (n : Nat) (v : Launch) : (s.setLaunch n v).poisoned = s.poisoned := rfl
@[simp] theorem setLaunch_warps (s : State) (n : Nat) (v : Launch) : (s.setLaunch n v).warps = s.warps := rfl
@[simp] theorem setLaunch_blocks (s : State) (n : Nat) (v : Launch) : (s.setLaunch n v).blocks = s.blocks := rfl
@[simp] theorem setLaunch_cores (s : State) (n : Nat) (v : Launch) : (s.setLaunch n v).cores = s.cores := rfl
@[simp] theorem setLaunch_dies (s : State) (n : Nat) (v : Launch) : (s.setLaunch n v).dies = s.dies := rfl
@[simp] theorem setLaunch_pkgs (s : State) (n : Nat) (v : Launch) : (s.setLaunch n v).pkgs = s.pkgs := rfl
@[simp] theorem setLaunch_dom (s : State) (n : Nat) (v : Launch) : (s.setLaunch n v).dom = s.dom := rfl
@[simp] theorem setLaunch_lost (s : State) (n : Nat) (v : Launch) : (s.setLaunch n v).lost = s.lost := rfl
@[simp] theorem setLaunch_brokers (s : State) (n : Nat) (v : Launch) : (s.setLaunch n v).brokers = s.brokers := rfl
@[simp] theorem setLaunch_queue (s : State) (n : Nat) (v : Launch) : (s.setLaunch n v).queue = s.queue := rfl
@[simp] theorem setLaunch_commit (s : State) (n : Nat) (v : Launch) : (s.setLaunch n v).commit = s.commit := rfl
@[simp] theorem setLaunch_serial (s : State) (n : Nat) (v : Launch) : (s.setLaunch n v).serial = s.serial := rfl
@[simp] theorem setLaunch_frozen (s : State) (n : Nat) (v : Launch) : (s.setLaunch n v).frozen = s.frozen := rfl
@[simp] theorem setLaunch_freezeCause (s : State) (n : Nat) (v : Launch) : (s.setLaunch n v).freezeCause = s.freezeCause := rfl
@[simp] theorem setLaunch_inflight (s : State) (n : Nat) (v : Launch) : (s.setLaunch n v).inflight = s.inflight := rfl
@[simp] theorem setLaunch_timers (s : State) (n : Nat) (v : Launch) : (s.setLaunch n v).timers = s.timers := rfl
@[simp] theorem setLaunch_outbox (s : State) (n : Nat) (v : Launch) : (s.setLaunch n v).outbox = s.outbox := rfl
@[simp] theorem setLaunch_now (s : State) (n : Nat) (v : Launch) : (s.setLaunch n v).now = s.now := rfl
@[simp] theorem setLaunch_turn (s : State) (n : Nat) (v : Launch) : (s.setLaunch n v).turn = s.turn := rfl
@[simp] theorem setLaunch_stalled (s : State) (n : Nat) (v : Launch) : (s.setLaunch n v).stalled = s.stalled := rfl
@[simp] theorem setLaunch_site (s : State) (n : Nat) (v : Launch) : (s.setLaunch n v).site = s.site := rfl
@[simp] theorem setLaunch_arg (s : State) (n : Nat) (v : Launch) : (s.setLaunch n v).arg = s.arg := rfl
@[simp] theorem setLaunch_picks (s : State) (n : Nat) (v : Launch) : (s.setLaunch n v).picks = s.picks := rfl
@[simp] theorem setLaunch_free (s : State) (n : Nat) (v : Launch) : (s.setLaunch n v).free = s.free := rfl

/-! updCore -/

@[simp] theorem updCore_mem (s : State) (c : CoreId) (f : Core → Core) : (s.updCore c f).mem = s.mem := rfl
@[simp] theorem updCore_poisoned (s : State) (c : CoreId) (f : Core → Core) : (s.updCore c f).poisoned = s.poisoned := rfl
@[simp] theorem updCore_warps (s : State) (c : CoreId) (f : Core → Core) : (s.updCore c f).warps = s.warps := rfl
@[simp] theorem updCore_blocks (s : State) (c : CoreId) (f : Core → Core) : (s.updCore c f).blocks = s.blocks := rfl
@[simp] theorem updCore_dies (s : State) (c : CoreId) (f : Core → Core) : (s.updCore c f).dies = s.dies := rfl
@[simp] theorem updCore_pkgs (s : State) (c : CoreId) (f : Core → Core) : (s.updCore c f).pkgs = s.pkgs := rfl
@[simp] theorem updCore_dom (s : State) (c : CoreId) (f : Core → Core) : (s.updCore c f).dom = s.dom := rfl
@[simp] theorem updCore_lost (s : State) (c : CoreId) (f : Core → Core) : (s.updCore c f).lost = s.lost := rfl
@[simp] theorem updCore_launches (s : State) (c : CoreId) (f : Core → Core) : (s.updCore c f).launches = s.launches := rfl
@[simp] theorem updCore_brokers (s : State) (c : CoreId) (f : Core → Core) : (s.updCore c f).brokers = s.brokers := rfl
@[simp] theorem updCore_queue (s : State) (c : CoreId) (f : Core → Core) : (s.updCore c f).queue = s.queue := rfl
@[simp] theorem updCore_commit (s : State) (c : CoreId) (f : Core → Core) : (s.updCore c f).commit = s.commit := rfl
@[simp] theorem updCore_serial (s : State) (c : CoreId) (f : Core → Core) : (s.updCore c f).serial = s.serial := rfl
@[simp] theorem updCore_frozen (s : State) (c : CoreId) (f : Core → Core) : (s.updCore c f).frozen = s.frozen := rfl
@[simp] theorem updCore_freezeCause (s : State) (c : CoreId) (f : Core → Core) : (s.updCore c f).freezeCause = s.freezeCause := rfl
@[simp] theorem updCore_inflight (s : State) (c : CoreId) (f : Core → Core) : (s.updCore c f).inflight = s.inflight := rfl
@[simp] theorem updCore_timers (s : State) (c : CoreId) (f : Core → Core) : (s.updCore c f).timers = s.timers := rfl
@[simp] theorem updCore_outbox (s : State) (c : CoreId) (f : Core → Core) : (s.updCore c f).outbox = s.outbox := rfl
@[simp] theorem updCore_now (s : State) (c : CoreId) (f : Core → Core) : (s.updCore c f).now = s.now := rfl
@[simp] theorem updCore_turn (s : State) (c : CoreId) (f : Core → Core) : (s.updCore c f).turn = s.turn := rfl
@[simp] theorem updCore_stalled (s : State) (c : CoreId) (f : Core → Core) : (s.updCore c f).stalled = s.stalled := rfl
@[simp] theorem updCore_site (s : State) (c : CoreId) (f : Core → Core) : (s.updCore c f).site = s.site := rfl
@[simp] theorem updCore_arg (s : State) (c : CoreId) (f : Core → Core) : (s.updCore c f).arg = s.arg := rfl
@[simp] theorem updCore_picks (s : State) (c : CoreId) (f : Core → Core) : (s.updCore c f).picks = s.picks := rfl
@[simp] theorem updCore_free (s : State) (c : CoreId) (f : Core → Core) : (s.updCore c f).free = s.free := rfl

/-! updDie -/

@[simp] theorem updDie_mem (s : State) (d : DieId) (f : Die → Die) : (s.updDie d f).mem = s.mem := rfl
@[simp] theorem updDie_poisoned (s : State) (d : DieId) (f : Die → Die) : (s.updDie d f).poisoned = s.poisoned := rfl
@[simp] theorem updDie_warps (s : State) (d : DieId) (f : Die → Die) : (s.updDie d f).warps = s.warps := rfl
@[simp] theorem updDie_blocks (s : State) (d : DieId) (f : Die → Die) : (s.updDie d f).blocks = s.blocks := rfl
@[simp] theorem updDie_cores (s : State) (d : DieId) (f : Die → Die) : (s.updDie d f).cores = s.cores := rfl
@[simp] theorem updDie_pkgs (s : State) (d : DieId) (f : Die → Die) : (s.updDie d f).pkgs = s.pkgs := rfl
@[simp] theorem updDie_dom (s : State) (d : DieId) (f : Die → Die) : (s.updDie d f).dom = s.dom := rfl
@[simp] theorem updDie_lost (s : State) (d : DieId) (f : Die → Die) : (s.updDie d f).lost = s.lost := rfl
@[simp] theorem updDie_launches (s : State) (d : DieId) (f : Die → Die) : (s.updDie d f).launches = s.launches := rfl
@[simp] theorem updDie_brokers (s : State) (d : DieId) (f : Die → Die) : (s.updDie d f).brokers = s.brokers := rfl
@[simp] theorem updDie_queue (s : State) (d : DieId) (f : Die → Die) : (s.updDie d f).queue = s.queue := rfl
@[simp] theorem updDie_commit (s : State) (d : DieId) (f : Die → Die) : (s.updDie d f).commit = s.commit := rfl
@[simp] theorem updDie_serial (s : State) (d : DieId) (f : Die → Die) : (s.updDie d f).serial = s.serial := rfl
@[simp] theorem updDie_frozen (s : State) (d : DieId) (f : Die → Die) : (s.updDie d f).frozen = s.frozen := rfl
@[simp] theorem updDie_freezeCause (s : State) (d : DieId) (f : Die → Die) : (s.updDie d f).freezeCause = s.freezeCause := rfl
@[simp] theorem updDie_inflight (s : State) (d : DieId) (f : Die → Die) : (s.updDie d f).inflight = s.inflight := rfl
@[simp] theorem updDie_timers (s : State) (d : DieId) (f : Die → Die) : (s.updDie d f).timers = s.timers := rfl
@[simp] theorem updDie_outbox (s : State) (d : DieId) (f : Die → Die) : (s.updDie d f).outbox = s.outbox := rfl
@[simp] theorem updDie_now (s : State) (d : DieId) (f : Die → Die) : (s.updDie d f).now = s.now := rfl
@[simp] theorem updDie_turn (s : State) (d : DieId) (f : Die → Die) : (s.updDie d f).turn = s.turn := rfl
@[simp] theorem updDie_stalled (s : State) (d : DieId) (f : Die → Die) : (s.updDie d f).stalled = s.stalled := rfl
@[simp] theorem updDie_site (s : State) (d : DieId) (f : Die → Die) : (s.updDie d f).site = s.site := rfl
@[simp] theorem updDie_arg (s : State) (d : DieId) (f : Die → Die) : (s.updDie d f).arg = s.arg := rfl
@[simp] theorem updDie_picks (s : State) (d : DieId) (f : Die → Die) : (s.updDie d f).picks = s.picks := rfl
@[simp] theorem updDie_free (s : State) (d : DieId) (f : Die → Die) : (s.updDie d f).free = s.free := rfl

/-! updPkg -/

@[simp] theorem updPkg_mem (s : State) (p : Nat) (f : Package → Package) : (s.updPkg p f).mem = s.mem := rfl
@[simp] theorem updPkg_poisoned (s : State) (p : Nat) (f : Package → Package) : (s.updPkg p f).poisoned = s.poisoned := rfl
@[simp] theorem updPkg_warps (s : State) (p : Nat) (f : Package → Package) : (s.updPkg p f).warps = s.warps := rfl
@[simp] theorem updPkg_blocks (s : State) (p : Nat) (f : Package → Package) : (s.updPkg p f).blocks = s.blocks := rfl
@[simp] theorem updPkg_cores (s : State) (p : Nat) (f : Package → Package) : (s.updPkg p f).cores = s.cores := rfl
@[simp] theorem updPkg_dies (s : State) (p : Nat) (f : Package → Package) : (s.updPkg p f).dies = s.dies := rfl
@[simp] theorem updPkg_dom (s : State) (p : Nat) (f : Package → Package) : (s.updPkg p f).dom = s.dom := rfl
@[simp] theorem updPkg_lost (s : State) (p : Nat) (f : Package → Package) : (s.updPkg p f).lost = s.lost := rfl
@[simp] theorem updPkg_launches (s : State) (p : Nat) (f : Package → Package) : (s.updPkg p f).launches = s.launches := rfl
@[simp] theorem updPkg_brokers (s : State) (p : Nat) (f : Package → Package) : (s.updPkg p f).brokers = s.brokers := rfl
@[simp] theorem updPkg_queue (s : State) (p : Nat) (f : Package → Package) : (s.updPkg p f).queue = s.queue := rfl
@[simp] theorem updPkg_commit (s : State) (p : Nat) (f : Package → Package) : (s.updPkg p f).commit = s.commit := rfl
@[simp] theorem updPkg_serial (s : State) (p : Nat) (f : Package → Package) : (s.updPkg p f).serial = s.serial := rfl
@[simp] theorem updPkg_frozen (s : State) (p : Nat) (f : Package → Package) : (s.updPkg p f).frozen = s.frozen := rfl
@[simp] theorem updPkg_freezeCause (s : State) (p : Nat) (f : Package → Package) : (s.updPkg p f).freezeCause = s.freezeCause := rfl
@[simp] theorem updPkg_inflight (s : State) (p : Nat) (f : Package → Package) : (s.updPkg p f).inflight = s.inflight := rfl
@[simp] theorem updPkg_timers (s : State) (p : Nat) (f : Package → Package) : (s.updPkg p f).timers = s.timers := rfl
@[simp] theorem updPkg_outbox (s : State) (p : Nat) (f : Package → Package) : (s.updPkg p f).outbox = s.outbox := rfl
@[simp] theorem updPkg_now (s : State) (p : Nat) (f : Package → Package) : (s.updPkg p f).now = s.now := rfl
@[simp] theorem updPkg_turn (s : State) (p : Nat) (f : Package → Package) : (s.updPkg p f).turn = s.turn := rfl
@[simp] theorem updPkg_stalled (s : State) (p : Nat) (f : Package → Package) : (s.updPkg p f).stalled = s.stalled := rfl
@[simp] theorem updPkg_site (s : State) (p : Nat) (f : Package → Package) : (s.updPkg p f).site = s.site := rfl
@[simp] theorem updPkg_arg (s : State) (p : Nat) (f : Package → Package) : (s.updPkg p f).arg = s.arg := rfl
@[simp] theorem updPkg_picks (s : State) (p : Nat) (f : Package → Package) : (s.updPkg p f).picks = s.picks := rfl
@[simp] theorem updPkg_free (s : State) (p : Nat) (f : Package → Package) : (s.updPkg p f).free = s.free := rfl

/-! post -/

@[simp] theorem post_mem (s : State) (i : Instr) (a : Arg) : (s.post i a).mem = s.mem := rfl
@[simp] theorem post_poisoned (s : State) (i : Instr) (a : Arg) : (s.post i a).poisoned = s.poisoned := rfl
@[simp] theorem post_warps (s : State) (i : Instr) (a : Arg) : (s.post i a).warps = s.warps := rfl
@[simp] theorem post_blocks (s : State) (i : Instr) (a : Arg) : (s.post i a).blocks = s.blocks := rfl
@[simp] theorem post_cores (s : State) (i : Instr) (a : Arg) : (s.post i a).cores = s.cores := rfl
@[simp] theorem post_dies (s : State) (i : Instr) (a : Arg) : (s.post i a).dies = s.dies := rfl
@[simp] theorem post_pkgs (s : State) (i : Instr) (a : Arg) : (s.post i a).pkgs = s.pkgs := rfl
@[simp] theorem post_dom (s : State) (i : Instr) (a : Arg) : (s.post i a).dom = s.dom := rfl
@[simp] theorem post_lost (s : State) (i : Instr) (a : Arg) : (s.post i a).lost = s.lost := rfl
@[simp] theorem post_launches (s : State) (i : Instr) (a : Arg) : (s.post i a).launches = s.launches := rfl
@[simp] theorem post_brokers (s : State) (i : Instr) (a : Arg) : (s.post i a).brokers = s.brokers := rfl
@[simp] theorem post_queue (s : State) (i : Instr) (a : Arg) : (s.post i a).queue = s.queue := rfl
@[simp] theorem post_commit (s : State) (i : Instr) (a : Arg) : (s.post i a).commit = s.commit := rfl
@[simp] theorem post_serial (s : State) (i : Instr) (a : Arg) : (s.post i a).serial = s.serial := rfl
@[simp] theorem post_frozen (s : State) (i : Instr) (a : Arg) : (s.post i a).frozen = s.frozen := rfl
@[simp] theorem post_freezeCause (s : State) (i : Instr) (a : Arg) : (s.post i a).freezeCause = s.freezeCause := rfl
@[simp] theorem post_timers (s : State) (i : Instr) (a : Arg) : (s.post i a).timers = s.timers := rfl
@[simp] theorem post_outbox (s : State) (i : Instr) (a : Arg) : (s.post i a).outbox = s.outbox := rfl
@[simp] theorem post_now (s : State) (i : Instr) (a : Arg) : (s.post i a).now = s.now := rfl
@[simp] theorem post_turn (s : State) (i : Instr) (a : Arg) : (s.post i a).turn = s.turn := rfl
@[simp] theorem post_stalled (s : State) (i : Instr) (a : Arg) : (s.post i a).stalled = s.stalled := rfl
@[simp] theorem post_site (s : State) (i : Instr) (a : Arg) : (s.post i a).site = s.site := rfl
@[simp] theorem post_arg (s : State) (i : Instr) (a : Arg) : (s.post i a).arg = s.arg := rfl
@[simp] theorem post_picks (s : State) (i : Instr) (a : Arg) : (s.post i a).picks = s.picks := rfl
@[simp] theorem post_free (s : State) (i : Instr) (a : Arg) : (s.post i a).free = s.free := rfl

/-! after -/

@[simp] theorem after_mem (s : State) (ns : Nat) (i : Instr) (a : Arg) : (s.after ns i a).mem = s.mem := rfl
@[simp] theorem after_poisoned (s : State) (ns : Nat) (i : Instr) (a : Arg) : (s.after ns i a).poisoned = s.poisoned := rfl
@[simp] theorem after_warps (s : State) (ns : Nat) (i : Instr) (a : Arg) : (s.after ns i a).warps = s.warps := rfl
@[simp] theorem after_blocks (s : State) (ns : Nat) (i : Instr) (a : Arg) : (s.after ns i a).blocks = s.blocks := rfl
@[simp] theorem after_cores (s : State) (ns : Nat) (i : Instr) (a : Arg) : (s.after ns i a).cores = s.cores := rfl
@[simp] theorem after_dies (s : State) (ns : Nat) (i : Instr) (a : Arg) : (s.after ns i a).dies = s.dies := rfl
@[simp] theorem after_pkgs (s : State) (ns : Nat) (i : Instr) (a : Arg) : (s.after ns i a).pkgs = s.pkgs := rfl
@[simp] theorem after_dom (s : State) (ns : Nat) (i : Instr) (a : Arg) : (s.after ns i a).dom = s.dom := rfl
@[simp] theorem after_lost (s : State) (ns : Nat) (i : Instr) (a : Arg) : (s.after ns i a).lost = s.lost := rfl
@[simp] theorem after_launches (s : State) (ns : Nat) (i : Instr) (a : Arg) : (s.after ns i a).launches = s.launches := rfl
@[simp] theorem after_brokers (s : State) (ns : Nat) (i : Instr) (a : Arg) : (s.after ns i a).brokers = s.brokers := rfl
@[simp] theorem after_queue (s : State) (ns : Nat) (i : Instr) (a : Arg) : (s.after ns i a).queue = s.queue := rfl
@[simp] theorem after_commit (s : State) (ns : Nat) (i : Instr) (a : Arg) : (s.after ns i a).commit = s.commit := rfl
@[simp] theorem after_serial (s : State) (ns : Nat) (i : Instr) (a : Arg) : (s.after ns i a).serial = s.serial := rfl
@[simp] theorem after_frozen (s : State) (ns : Nat) (i : Instr) (a : Arg) : (s.after ns i a).frozen = s.frozen := rfl
@[simp] theorem after_freezeCause (s : State) (ns : Nat) (i : Instr) (a : Arg) : (s.after ns i a).freezeCause = s.freezeCause := rfl
@[simp] theorem after_inflight (s : State) (ns : Nat) (i : Instr) (a : Arg) : (s.after ns i a).inflight = s.inflight := rfl
@[simp] theorem after_outbox (s : State) (ns : Nat) (i : Instr) (a : Arg) : (s.after ns i a).outbox = s.outbox := rfl
@[simp] theorem after_now (s : State) (ns : Nat) (i : Instr) (a : Arg) : (s.after ns i a).now = s.now := rfl
@[simp] theorem after_turn (s : State) (ns : Nat) (i : Instr) (a : Arg) : (s.after ns i a).turn = s.turn := rfl
@[simp] theorem after_stalled (s : State) (ns : Nat) (i : Instr) (a : Arg) : (s.after ns i a).stalled = s.stalled := rfl
@[simp] theorem after_site (s : State) (ns : Nat) (i : Instr) (a : Arg) : (s.after ns i a).site = s.site := rfl
@[simp] theorem after_arg (s : State) (ns : Nat) (i : Instr) (a : Arg) : (s.after ns i a).arg = s.arg := rfl
@[simp] theorem after_picks (s : State) (ns : Nat) (i : Instr) (a : Arg) : (s.after ns i a).picks = s.picks := rfl
@[simp] theorem after_free (s : State) (ns : Nat) (i : Instr) (a : Arg) : (s.after ns i a).free = s.free := rfl

/-! updWarp -/

@[simp] theorem updWarp_mem (s : State) (w : WarpId) (f : Warp → Warp) : (s.updWarp w f).mem = s.mem := by unfold updWarp; split <;> rfl
@[simp] theorem updWarp_poisoned (s : State) (w : WarpId) (f : Warp → Warp) : (s.updWarp w f).poisoned = s.poisoned := by unfold updWarp; split <;> rfl
@[simp] theorem updWarp_blocks (s : State) (w : WarpId) (f : Warp → Warp) : (s.updWarp w f).blocks = s.blocks := by unfold updWarp; split <;> rfl
@[simp] theorem updWarp_cores (s : State) (w : WarpId) (f : Warp → Warp) : (s.updWarp w f).cores = s.cores := by unfold updWarp; split <;> rfl
@[simp] theorem updWarp_dies (s : State) (w : WarpId) (f : Warp → Warp) : (s.updWarp w f).dies = s.dies := by unfold updWarp; split <;> rfl
@[simp] theorem updWarp_pkgs (s : State) (w : WarpId) (f : Warp → Warp) : (s.updWarp w f).pkgs = s.pkgs := by unfold updWarp; split <;> rfl
@[simp] theorem updWarp_dom (s : State) (w : WarpId) (f : Warp → Warp) : (s.updWarp w f).dom = s.dom := by unfold updWarp; split <;> rfl
@[simp] theorem updWarp_lost (s : State) (w : WarpId) (f : Warp → Warp) : (s.updWarp w f).lost = s.lost := by unfold updWarp; split <;> rfl
@[simp] theorem updWarp_launches (s : State) (w : WarpId) (f : Warp → Warp) : (s.updWarp w f).launches = s.launches := by unfold updWarp; split <;> rfl
@[simp] theorem updWarp_brokers (s : State) (w : WarpId) (f : Warp → Warp) : (s.updWarp w f).brokers = s.brokers := by unfold updWarp; split <;> rfl
@[simp] theorem updWarp_queue (s : State) (w : WarpId) (f : Warp → Warp) : (s.updWarp w f).queue = s.queue := by unfold updWarp; split <;> rfl
@[simp] theorem updWarp_commit (s : State) (w : WarpId) (f : Warp → Warp) : (s.updWarp w f).commit = s.commit := by unfold updWarp; split <;> rfl
@[simp] theorem updWarp_serial (s : State) (w : WarpId) (f : Warp → Warp) : (s.updWarp w f).serial = s.serial := by unfold updWarp; split <;> rfl
@[simp] theorem updWarp_frozen (s : State) (w : WarpId) (f : Warp → Warp) : (s.updWarp w f).frozen = s.frozen := by unfold updWarp; split <;> rfl
@[simp] theorem updWarp_freezeCause (s : State) (w : WarpId) (f : Warp → Warp) : (s.updWarp w f).freezeCause = s.freezeCause := by unfold updWarp; split <;> rfl
@[simp] theorem updWarp_inflight (s : State) (w : WarpId) (f : Warp → Warp) : (s.updWarp w f).inflight = s.inflight := by unfold updWarp; split <;> rfl
@[simp] theorem updWarp_timers (s : State) (w : WarpId) (f : Warp → Warp) : (s.updWarp w f).timers = s.timers := by unfold updWarp; split <;> rfl
@[simp] theorem updWarp_outbox (s : State) (w : WarpId) (f : Warp → Warp) : (s.updWarp w f).outbox = s.outbox := by unfold updWarp; split <;> rfl
@[simp] theorem updWarp_now (s : State) (w : WarpId) (f : Warp → Warp) : (s.updWarp w f).now = s.now := by unfold updWarp; split <;> rfl
@[simp] theorem updWarp_turn (s : State) (w : WarpId) (f : Warp → Warp) : (s.updWarp w f).turn = s.turn := by unfold updWarp; split <;> rfl
@[simp] theorem updWarp_stalled (s : State) (w : WarpId) (f : Warp → Warp) : (s.updWarp w f).stalled = s.stalled := by unfold updWarp; split <;> rfl
@[simp] theorem updWarp_site (s : State) (w : WarpId) (f : Warp → Warp) : (s.updWarp w f).site = s.site := by unfold updWarp; split <;> rfl
@[simp] theorem updWarp_arg (s : State) (w : WarpId) (f : Warp → Warp) : (s.updWarp w f).arg = s.arg := by unfold updWarp; split <;> rfl
@[simp] theorem updWarp_picks (s : State) (w : WarpId) (f : Warp → Warp) : (s.updWarp w f).picks = s.picks := by unfold updWarp; split <;> rfl
@[simp] theorem updWarp_free (s : State) (w : WarpId) (f : Warp → Warp) : (s.updWarp w f).free = s.free := by unfold updWarp; split <;> rfl

/-! updBlock -/

@[simp] theorem updBlock_mem (s : State) (b : BlockId) (f : Block → Block) : (s.updBlock b f).mem = s.mem := by unfold updBlock; split <;> rfl
@[simp] theorem updBlock_poisoned (s : State) (b : BlockId) (f : Block → Block) : (s.updBlock b f).poisoned = s.poisoned := by unfold updBlock; split <;> rfl
@[simp] theorem updBlock_warps (s : State) (b : BlockId) (f : Block → Block) : (s.updBlock b f).warps = s.warps := by unfold updBlock; split <;> rfl
@[simp] theorem updBlock_cores (s : State) (b : BlockId) (f : Block → Block) : (s.updBlock b f).cores = s.cores := by unfold updBlock; split <;> rfl
@[simp] theorem updBlock_dies (s : State) (b : BlockId) (f : Block → Block) : (s.updBlock b f).dies = s.dies := by unfold updBlock; split <;> rfl
@[simp] theorem updBlock_pkgs (s : State) (b : BlockId) (f : Block → Block) : (s.updBlock b f).pkgs = s.pkgs := by unfold updBlock; split <;> rfl
@[simp] theorem updBlock_dom (s : State) (b : BlockId) (f : Block → Block) : (s.updBlock b f).dom = s.dom := by unfold updBlock; split <;> rfl
@[simp] theorem updBlock_lost (s : State) (b : BlockId) (f : Block → Block) : (s.updBlock b f).lost = s.lost := by unfold updBlock; split <;> rfl
@[simp] theorem updBlock_launches (s : State) (b : BlockId) (f : Block → Block) : (s.updBlock b f).launches = s.launches := by unfold updBlock; split <;> rfl
@[simp] theorem updBlock_brokers (s : State) (b : BlockId) (f : Block → Block) : (s.updBlock b f).brokers = s.brokers := by unfold updBlock; split <;> rfl
@[simp] theorem updBlock_queue (s : State) (b : BlockId) (f : Block → Block) : (s.updBlock b f).queue = s.queue := by unfold updBlock; split <;> rfl
@[simp] theorem updBlock_commit (s : State) (b : BlockId) (f : Block → Block) : (s.updBlock b f).commit = s.commit := by unfold updBlock; split <;> rfl
@[simp] theorem updBlock_serial (s : State) (b : BlockId) (f : Block → Block) : (s.updBlock b f).serial = s.serial := by unfold updBlock; split <;> rfl
@[simp] theorem updBlock_frozen (s : State) (b : BlockId) (f : Block → Block) : (s.updBlock b f).frozen = s.frozen := by unfold updBlock; split <;> rfl
@[simp] theorem updBlock_freezeCause (s : State) (b : BlockId) (f : Block → Block) : (s.updBlock b f).freezeCause = s.freezeCause := by unfold updBlock; split <;> rfl
@[simp] theorem updBlock_inflight (s : State) (b : BlockId) (f : Block → Block) : (s.updBlock b f).inflight = s.inflight := by unfold updBlock; split <;> rfl
@[simp] theorem updBlock_timers (s : State) (b : BlockId) (f : Block → Block) : (s.updBlock b f).timers = s.timers := by unfold updBlock; split <;> rfl
@[simp] theorem updBlock_outbox (s : State) (b : BlockId) (f : Block → Block) : (s.updBlock b f).outbox = s.outbox := by unfold updBlock; split <;> rfl
@[simp] theorem updBlock_now (s : State) (b : BlockId) (f : Block → Block) : (s.updBlock b f).now = s.now := by unfold updBlock; split <;> rfl
@[simp] theorem updBlock_turn (s : State) (b : BlockId) (f : Block → Block) : (s.updBlock b f).turn = s.turn := by unfold updBlock; split <;> rfl
@[simp] theorem updBlock_stalled (s : State) (b : BlockId) (f : Block → Block) : (s.updBlock b f).stalled = s.stalled := by unfold updBlock; split <;> rfl
@[simp] theorem updBlock_site (s : State) (b : BlockId) (f : Block → Block) : (s.updBlock b f).site = s.site := by unfold updBlock; split <;> rfl
@[simp] theorem updBlock_arg (s : State) (b : BlockId) (f : Block → Block) : (s.updBlock b f).arg = s.arg := by unfold updBlock; split <;> rfl
@[simp] theorem updBlock_picks (s : State) (b : BlockId) (f : Block → Block) : (s.updBlock b f).picks = s.picks := by unfold updBlock; split <;> rfl
@[simp] theorem updBlock_free (s : State) (b : BlockId) (f : Block → Block) : (s.updBlock b f).free = s.free := by unfold updBlock; split <;> rfl

/-! updLaunch -/

@[simp] theorem updLaunch_mem (s : State) (n : Nat) (f : Launch → Launch) : (s.updLaunch n f).mem = s.mem := by unfold updLaunch; split <;> rfl
@[simp] theorem updLaunch_poisoned (s : State) (n : Nat) (f : Launch → Launch) : (s.updLaunch n f).poisoned = s.poisoned := by unfold updLaunch; split <;> rfl
@[simp] theorem updLaunch_warps (s : State) (n : Nat) (f : Launch → Launch) : (s.updLaunch n f).warps = s.warps := by unfold updLaunch; split <;> rfl
@[simp] theorem updLaunch_blocks (s : State) (n : Nat) (f : Launch → Launch) : (s.updLaunch n f).blocks = s.blocks := by unfold updLaunch; split <;> rfl
@[simp] theorem updLaunch_cores (s : State) (n : Nat) (f : Launch → Launch) : (s.updLaunch n f).cores = s.cores := by unfold updLaunch; split <;> rfl
@[simp] theorem updLaunch_dies (s : State) (n : Nat) (f : Launch → Launch) : (s.updLaunch n f).dies = s.dies := by unfold updLaunch; split <;> rfl
@[simp] theorem updLaunch_pkgs (s : State) (n : Nat) (f : Launch → Launch) : (s.updLaunch n f).pkgs = s.pkgs := by unfold updLaunch; split <;> rfl
@[simp] theorem updLaunch_dom (s : State) (n : Nat) (f : Launch → Launch) : (s.updLaunch n f).dom = s.dom := by unfold updLaunch; split <;> rfl
@[simp] theorem updLaunch_lost (s : State) (n : Nat) (f : Launch → Launch) : (s.updLaunch n f).lost = s.lost := by unfold updLaunch; split <;> rfl
@[simp] theorem updLaunch_brokers (s : State) (n : Nat) (f : Launch → Launch) : (s.updLaunch n f).brokers = s.brokers := by unfold updLaunch; split <;> rfl
@[simp] theorem updLaunch_queue (s : State) (n : Nat) (f : Launch → Launch) : (s.updLaunch n f).queue = s.queue := by unfold updLaunch; split <;> rfl
@[simp] theorem updLaunch_commit (s : State) (n : Nat) (f : Launch → Launch) : (s.updLaunch n f).commit = s.commit := by unfold updLaunch; split <;> rfl
@[simp] theorem updLaunch_serial (s : State) (n : Nat) (f : Launch → Launch) : (s.updLaunch n f).serial = s.serial := by unfold updLaunch; split <;> rfl
@[simp] theorem updLaunch_frozen (s : State) (n : Nat) (f : Launch → Launch) : (s.updLaunch n f).frozen = s.frozen := by unfold updLaunch; split <;> rfl
@[simp] theorem updLaunch_freezeCause (s : State) (n : Nat) (f : Launch → Launch) : (s.updLaunch n f).freezeCause = s.freezeCause := by unfold updLaunch; split <;> rfl
@[simp] theorem updLaunch_inflight (s : State) (n : Nat) (f : Launch → Launch) : (s.updLaunch n f).inflight = s.inflight := by unfold updLaunch; split <;> rfl
@[simp] theorem updLaunch_timers (s : State) (n : Nat) (f : Launch → Launch) : (s.updLaunch n f).timers = s.timers := by unfold updLaunch; split <;> rfl
@[simp] theorem updLaunch_outbox (s : State) (n : Nat) (f : Launch → Launch) : (s.updLaunch n f).outbox = s.outbox := by unfold updLaunch; split <;> rfl
@[simp] theorem updLaunch_now (s : State) (n : Nat) (f : Launch → Launch) : (s.updLaunch n f).now = s.now := by unfold updLaunch; split <;> rfl
@[simp] theorem updLaunch_turn (s : State) (n : Nat) (f : Launch → Launch) : (s.updLaunch n f).turn = s.turn := by unfold updLaunch; split <;> rfl
@[simp] theorem updLaunch_stalled (s : State) (n : Nat) (f : Launch → Launch) : (s.updLaunch n f).stalled = s.stalled := by unfold updLaunch; split <;> rfl
@[simp] theorem updLaunch_site (s : State) (n : Nat) (f : Launch → Launch) : (s.updLaunch n f).site = s.site := by unfold updLaunch; split <;> rfl
@[simp] theorem updLaunch_arg (s : State) (n : Nat) (f : Launch → Launch) : (s.updLaunch n f).arg = s.arg := by unfold updLaunch; split <;> rfl
@[simp] theorem updLaunch_picks (s : State) (n : Nat) (f : Launch → Launch) : (s.updLaunch n f).picks = s.picks := by unfold updLaunch; split <;> rfl
@[simp] theorem updLaunch_free (s : State) (n : Nat) (f : Launch → Launch) : (s.updLaunch n f).free = s.free := by unfold updLaunch; split <;> rfl

/-! postOnce -/

@[simp] theorem postOnce_mem (s : State) (i : Instr) (a : Arg) : (s.postOnce i a).mem = s.mem := by unfold postOnce; split <;> rfl
@[simp] theorem postOnce_poisoned (s : State) (i : Instr) (a : Arg) : (s.postOnce i a).poisoned = s.poisoned := by unfold postOnce; split <;> rfl
@[simp] theorem postOnce_warps (s : State) (i : Instr) (a : Arg) : (s.postOnce i a).warps = s.warps := by unfold postOnce; split <;> rfl
@[simp] theorem postOnce_blocks (s : State) (i : Instr) (a : Arg) : (s.postOnce i a).blocks = s.blocks := by unfold postOnce; split <;> rfl
@[simp] theorem postOnce_cores (s : State) (i : Instr) (a : Arg) : (s.postOnce i a).cores = s.cores := by unfold postOnce; split <;> rfl
@[simp] theorem postOnce_dies (s : State) (i : Instr) (a : Arg) : (s.postOnce i a).dies = s.dies := by unfold postOnce; split <;> rfl
@[simp] theorem postOnce_pkgs (s : State) (i : Instr) (a : Arg) : (s.postOnce i a).pkgs = s.pkgs := by unfold postOnce; split <;> rfl
@[simp] theorem postOnce_dom (s : State) (i : Instr) (a : Arg) : (s.postOnce i a).dom = s.dom := by unfold postOnce; split <;> rfl
@[simp] theorem postOnce_lost (s : State) (i : Instr) (a : Arg) : (s.postOnce i a).lost = s.lost := by unfold postOnce; split <;> rfl
@[simp] theorem postOnce_launches (s : State) (i : Instr) (a : Arg) : (s.postOnce i a).launches = s.launches := by unfold postOnce; split <;> rfl
@[simp] theorem postOnce_brokers (s : State) (i : Instr) (a : Arg) : (s.postOnce i a).brokers = s.brokers := by unfold postOnce; split <;> rfl
@[simp] theorem postOnce_queue (s : State) (i : Instr) (a : Arg) : (s.postOnce i a).queue = s.queue := by unfold postOnce; split <;> rfl
@[simp] theorem postOnce_commit (s : State) (i : Instr) (a : Arg) : (s.postOnce i a).commit = s.commit := by unfold postOnce; split <;> rfl
@[simp] theorem postOnce_serial (s : State) (i : Instr) (a : Arg) : (s.postOnce i a).serial = s.serial := by unfold postOnce; split <;> rfl
@[simp] theorem postOnce_frozen (s : State) (i : Instr) (a : Arg) : (s.postOnce i a).frozen = s.frozen := by unfold postOnce; split <;> rfl
@[simp] theorem postOnce_freezeCause (s : State) (i : Instr) (a : Arg) : (s.postOnce i a).freezeCause = s.freezeCause := by unfold postOnce; split <;> rfl
@[simp] theorem postOnce_timers (s : State) (i : Instr) (a : Arg) : (s.postOnce i a).timers = s.timers := by unfold postOnce; split <;> rfl
@[simp] theorem postOnce_outbox (s : State) (i : Instr) (a : Arg) : (s.postOnce i a).outbox = s.outbox := by unfold postOnce; split <;> rfl
@[simp] theorem postOnce_now (s : State) (i : Instr) (a : Arg) : (s.postOnce i a).now = s.now := by unfold postOnce; split <;> rfl
@[simp] theorem postOnce_turn (s : State) (i : Instr) (a : Arg) : (s.postOnce i a).turn = s.turn := by unfold postOnce; split <;> rfl
@[simp] theorem postOnce_stalled (s : State) (i : Instr) (a : Arg) : (s.postOnce i a).stalled = s.stalled := by unfold postOnce; split <;> rfl
@[simp] theorem postOnce_site (s : State) (i : Instr) (a : Arg) : (s.postOnce i a).site = s.site := by unfold postOnce; split <;> rfl
@[simp] theorem postOnce_arg (s : State) (i : Instr) (a : Arg) : (s.postOnce i a).arg = s.arg := by unfold postOnce; split <;> rfl
@[simp] theorem postOnce_picks (s : State) (i : Instr) (a : Arg) : (s.postOnce i a).picks = s.picks := by unfold postOnce; split <;> rfl
@[simp] theorem postOnce_free (s : State) (i : Instr) (a : Arg) : (s.postOnce i a).free = s.free := by unfold postOnce; split <;> rfl

end State

namespace Warp

/-! setS -/

@[simp] theorem setS_block (w : Warp) (r : Nat) (v : Word) : (w.setS r v).block = w.block := rfl
@[simp] theorem setS_num (w : Warp) (r : Nat) (v : Word) : (w.setS r v).num = w.num := rfl
@[simp] theorem setS_units (w : Warp) (r : Nat) (v : Word) : (w.setS r v).units = w.units := rfl
@[simp] theorem setS_tiles (w : Warp) (r : Nat) (v : Word) : (w.setS r v).tiles = w.tiles := rfl
@[simp] theorem setS_v (w : Warp) (r : Nat) (v : Word) : (w.setS r v).v = w.v := rfl
@[simp] theorem setS_p (w : Warp) (r : Nat) (v : Word) : (w.setS r v).p = w.p := rfl
@[simp] theorem setS_z (w : Warp) (r : Nat) (v : Word) : (w.setS r v).z = w.z := rfl
@[simp] theorem setS_a (w : Warp) (r : Nat) (v : Word) : (w.setS r v).a = w.a := rfl
@[simp] theorem setS_b (w : Warp) (r : Nat) (v : Word) : (w.setS r v).b = w.b := rfl
@[simp] theorem setS_j (w : Warp) (r : Nat) (v : Word) : (w.setS r v).j = w.j := rfl
@[simp] theorem setS_dsp (w : Warp) (r : Nat) (v : Word) : (w.setS r v).dsp = w.dsp := rfl
@[simp] theorem setS_scStack (w : Warp) (r : Nat) (v : Word) : (w.setS r v).scStack = w.scStack := rfl
@[simp] theorem setS_events (w : Warp) (r : Nat) (v : Word) : (w.setS r v).events = w.events := rfl
@[simp] theorem setS_evp (w : Warp) (r : Nat) (v : Word) : (w.setS r v).evp = w.evp := rfl
@[simp] theorem setS_evm (w : Warp) (r : Nat) (v : Word) : (w.setS r v).evm = w.evm := rfl
@[simp] theorem setS_walkers (w : Warp) (r : Nat) (v : Word) : (w.setS r v).walkers = w.walkers := rfl
@[simp] theorem setS_wef (w : Warp) (r : Nat) (v : Word) : (w.setS r v).wef = w.wef := rfl
@[simp] theorem setS_rff (w : Warp) (r : Nat) (v : Word) : (w.setS r v).rff = w.rff := rfl
@[simp] theorem setS_rffMore (w : Warp) (r : Nat) (v : Word) : (w.setS r v).rffMore = w.rffMore := rfl
@[simp] theorem setS_rffol (w : Warp) (r : Nat) (v : Word) : (w.setS r v).rffol = w.rffol := rfl
@[simp] theorem setS_rffoh (w : Warp) (r : Nat) (v : Word) : (w.setS r v).rffoh = w.rffoh := rfl
@[simp] theorem setS_tvec (w : Warp) (r : Nat) (v : Word) : (w.setS r v).tvec = w.tvec := rfl
@[simp] theorem setS_handler (w : Warp) (r : Nat) (v : Word) : (w.setS r v).handler = w.handler := rfl
@[simp] theorem setS_timer (w : Warp) (r : Nat) (v : Word) : (w.setS r v).timer = w.timer := rfl
@[simp] theorem setS_mxs (w : Warp) (r : Nat) (v : Word) : (w.setS r v).mxs = w.mxs := rfl
@[simp] theorem setS_lastBatch (w : Warp) (r : Nat) (v : Word) : (w.setS r v).lastBatch = w.lastBatch := rfl
@[simp] theorem setS_openCmds (w : Warp) (r : Nat) (v : Word) : (w.setS r v).openCmds = w.openCmds := rfl
@[simp] theorem setS_batches (w : Warp) (r : Nat) (v : Word) : (w.setS r v).batches = w.batches := rfl
@[simp] theorem setS_bcast (w : Warp) (r : Nat) (v : Word) : (w.setS r v).bcast = w.bcast := rfl
@[simp] theorem setS_arrA (w : Warp) (r : Nat) (v : Word) : (w.setS r v).arrA = w.arrA := rfl
@[simp] theorem setS_arrF (w : Warp) (r : Nat) (v : Word) : (w.setS r v).arrF = w.arrF := rfl
@[simp] theorem setS_flights (w : Warp) (r : Nat) (v : Word) : (w.setS r v).flights = w.flights := rfl
@[simp] theorem setS_narrow (w : Warp) (r : Nat) (v : Word) : (w.setS r v).narrow = w.narrow := rfl
@[simp] theorem setS_nextId (w : Warp) (r : Nat) (v : Word) : (w.setS r v).nextId = w.nextId := rfl
@[simp] theorem setS_trap (w : Warp) (r : Nat) (v : Word) : (w.setS r v).trap = w.trap := rfl
@[simp] theorem setS_engine (w : Warp) (r : Nat) (v : Word) : (w.setS r v).engine = w.engine := rfl
@[simp] theorem setS_parked (w : Warp) (r : Nat) (v : Word) : (w.setS r v).parked = w.parked := rfl
@[simp] theorem setS_yieldPass (w : Warp) (r : Nat) (v : Word) : (w.setS r v).yieldPass = w.yieldPass := rfl
@[simp] theorem setS_exited (w : Warp) (r : Nat) (v : Word) : (w.setS r v).exited = w.exited := rfl
@[simp] theorem setS_regrouping (w : Warp) (r : Nat) (v : Word) : (w.setS r v).regrouping = w.regrouping := rfl
@[simp] theorem setS_serving (w : Warp) (r : Nat) (v : Word) : (w.setS r v).serving = w.serving := rfl
@[simp] theorem setS_mstLines (w : Warp) (r : Nat) (v : Word) : (w.setS r v).mstLines = w.mstLines := rfl
@[simp] theorem setS_granted (w : Warp) (r : Nat) (v : Word) : (w.setS r v).granted = w.granted := rfl

/-! setV -/

@[simp] theorem setV_block (w : Warp) (r : Nat) (v : VReg) : (w.setV r v).block = w.block := rfl
@[simp] theorem setV_num (w : Warp) (r : Nat) (v : VReg) : (w.setV r v).num = w.num := rfl
@[simp] theorem setV_units (w : Warp) (r : Nat) (v : VReg) : (w.setV r v).units = w.units := rfl
@[simp] theorem setV_tiles (w : Warp) (r : Nat) (v : VReg) : (w.setV r v).tiles = w.tiles := rfl
@[simp] theorem setV_s (w : Warp) (r : Nat) (v : VReg) : (w.setV r v).s = w.s := rfl
@[simp] theorem setV_p (w : Warp) (r : Nat) (v : VReg) : (w.setV r v).p = w.p := rfl
@[simp] theorem setV_z (w : Warp) (r : Nat) (v : VReg) : (w.setV r v).z = w.z := rfl
@[simp] theorem setV_a (w : Warp) (r : Nat) (v : VReg) : (w.setV r v).a = w.a := rfl
@[simp] theorem setV_b (w : Warp) (r : Nat) (v : VReg) : (w.setV r v).b = w.b := rfl
@[simp] theorem setV_j (w : Warp) (r : Nat) (v : VReg) : (w.setV r v).j = w.j := rfl
@[simp] theorem setV_dsp (w : Warp) (r : Nat) (v : VReg) : (w.setV r v).dsp = w.dsp := rfl
@[simp] theorem setV_scStack (w : Warp) (r : Nat) (v : VReg) : (w.setV r v).scStack = w.scStack := rfl
@[simp] theorem setV_events (w : Warp) (r : Nat) (v : VReg) : (w.setV r v).events = w.events := rfl
@[simp] theorem setV_evp (w : Warp) (r : Nat) (v : VReg) : (w.setV r v).evp = w.evp := rfl
@[simp] theorem setV_evm (w : Warp) (r : Nat) (v : VReg) : (w.setV r v).evm = w.evm := rfl
@[simp] theorem setV_walkers (w : Warp) (r : Nat) (v : VReg) : (w.setV r v).walkers = w.walkers := rfl
@[simp] theorem setV_wef (w : Warp) (r : Nat) (v : VReg) : (w.setV r v).wef = w.wef := rfl
@[simp] theorem setV_rff (w : Warp) (r : Nat) (v : VReg) : (w.setV r v).rff = w.rff := rfl
@[simp] theorem setV_rffMore (w : Warp) (r : Nat) (v : VReg) : (w.setV r v).rffMore = w.rffMore := rfl
@[simp] theorem setV_rffol (w : Warp) (r : Nat) (v : VReg) : (w.setV r v).rffol = w.rffol := rfl
@[simp] theorem setV_rffoh (w : Warp) (r : Nat) (v : VReg) : (w.setV r v).rffoh = w.rffoh := rfl
@[simp] theorem setV_tvec (w : Warp) (r : Nat) (v : VReg) : (w.setV r v).tvec = w.tvec := rfl
@[simp] theorem setV_handler (w : Warp) (r : Nat) (v : VReg) : (w.setV r v).handler = w.handler := rfl
@[simp] theorem setV_timer (w : Warp) (r : Nat) (v : VReg) : (w.setV r v).timer = w.timer := rfl
@[simp] theorem setV_mxs (w : Warp) (r : Nat) (v : VReg) : (w.setV r v).mxs = w.mxs := rfl
@[simp] theorem setV_lastBatch (w : Warp) (r : Nat) (v : VReg) : (w.setV r v).lastBatch = w.lastBatch := rfl
@[simp] theorem setV_openCmds (w : Warp) (r : Nat) (v : VReg) : (w.setV r v).openCmds = w.openCmds := rfl
@[simp] theorem setV_batches (w : Warp) (r : Nat) (v : VReg) : (w.setV r v).batches = w.batches := rfl
@[simp] theorem setV_bcast (w : Warp) (r : Nat) (v : VReg) : (w.setV r v).bcast = w.bcast := rfl
@[simp] theorem setV_arrA (w : Warp) (r : Nat) (v : VReg) : (w.setV r v).arrA = w.arrA := rfl
@[simp] theorem setV_arrF (w : Warp) (r : Nat) (v : VReg) : (w.setV r v).arrF = w.arrF := rfl
@[simp] theorem setV_flights (w : Warp) (r : Nat) (v : VReg) : (w.setV r v).flights = w.flights := rfl
@[simp] theorem setV_narrow (w : Warp) (r : Nat) (v : VReg) : (w.setV r v).narrow = w.narrow := rfl
@[simp] theorem setV_nextId (w : Warp) (r : Nat) (v : VReg) : (w.setV r v).nextId = w.nextId := rfl
@[simp] theorem setV_trap (w : Warp) (r : Nat) (v : VReg) : (w.setV r v).trap = w.trap := rfl
@[simp] theorem setV_engine (w : Warp) (r : Nat) (v : VReg) : (w.setV r v).engine = w.engine := rfl
@[simp] theorem setV_parked (w : Warp) (r : Nat) (v : VReg) : (w.setV r v).parked = w.parked := rfl
@[simp] theorem setV_yieldPass (w : Warp) (r : Nat) (v : VReg) : (w.setV r v).yieldPass = w.yieldPass := rfl
@[simp] theorem setV_exited (w : Warp) (r : Nat) (v : VReg) : (w.setV r v).exited = w.exited := rfl
@[simp] theorem setV_regrouping (w : Warp) (r : Nat) (v : VReg) : (w.setV r v).regrouping = w.regrouping := rfl
@[simp] theorem setV_serving (w : Warp) (r : Nat) (v : VReg) : (w.setV r v).serving = w.serving := rfl
@[simp] theorem setV_mstLines (w : Warp) (r : Nat) (v : VReg) : (w.setV r v).mstLines = w.mstLines := rfl
@[simp] theorem setV_granted (w : Warp) (r : Nat) (v : VReg) : (w.setV r v).granted = w.granted := rfl

/-! putLanes -/

@[simp] theorem putLanes_block (w : Warp) (r : Nat) (m : Mask) (l : Lanes) : (w.putLanes r m l).block = w.block := rfl
@[simp] theorem putLanes_num (w : Warp) (r : Nat) (m : Mask) (l : Lanes) : (w.putLanes r m l).num = w.num := rfl
@[simp] theorem putLanes_units (w : Warp) (r : Nat) (m : Mask) (l : Lanes) : (w.putLanes r m l).units = w.units := rfl
@[simp] theorem putLanes_tiles (w : Warp) (r : Nat) (m : Mask) (l : Lanes) : (w.putLanes r m l).tiles = w.tiles := rfl
@[simp] theorem putLanes_s (w : Warp) (r : Nat) (m : Mask) (l : Lanes) : (w.putLanes r m l).s = w.s := rfl
@[simp] theorem putLanes_p (w : Warp) (r : Nat) (m : Mask) (l : Lanes) : (w.putLanes r m l).p = w.p := rfl
@[simp] theorem putLanes_z (w : Warp) (r : Nat) (m : Mask) (l : Lanes) : (w.putLanes r m l).z = w.z := rfl
@[simp] theorem putLanes_a (w : Warp) (r : Nat) (m : Mask) (l : Lanes) : (w.putLanes r m l).a = w.a := rfl
@[simp] theorem putLanes_b (w : Warp) (r : Nat) (m : Mask) (l : Lanes) : (w.putLanes r m l).b = w.b := rfl
@[simp] theorem putLanes_j (w : Warp) (r : Nat) (m : Mask) (l : Lanes) : (w.putLanes r m l).j = w.j := rfl
@[simp] theorem putLanes_dsp (w : Warp) (r : Nat) (m : Mask) (l : Lanes) : (w.putLanes r m l).dsp = w.dsp := rfl
@[simp] theorem putLanes_scStack (w : Warp) (r : Nat) (m : Mask) (l : Lanes) : (w.putLanes r m l).scStack = w.scStack := rfl
@[simp] theorem putLanes_events (w : Warp) (r : Nat) (m : Mask) (l : Lanes) : (w.putLanes r m l).events = w.events := rfl
@[simp] theorem putLanes_evp (w : Warp) (r : Nat) (m : Mask) (l : Lanes) : (w.putLanes r m l).evp = w.evp := rfl
@[simp] theorem putLanes_evm (w : Warp) (r : Nat) (m : Mask) (l : Lanes) : (w.putLanes r m l).evm = w.evm := rfl
@[simp] theorem putLanes_walkers (w : Warp) (r : Nat) (m : Mask) (l : Lanes) : (w.putLanes r m l).walkers = w.walkers := rfl
@[simp] theorem putLanes_wef (w : Warp) (r : Nat) (m : Mask) (l : Lanes) : (w.putLanes r m l).wef = w.wef := rfl
@[simp] theorem putLanes_rff (w : Warp) (r : Nat) (m : Mask) (l : Lanes) : (w.putLanes r m l).rff = w.rff := rfl
@[simp] theorem putLanes_rffMore (w : Warp) (r : Nat) (m : Mask) (l : Lanes) : (w.putLanes r m l).rffMore = w.rffMore := rfl
@[simp] theorem putLanes_rffol (w : Warp) (r : Nat) (m : Mask) (l : Lanes) : (w.putLanes r m l).rffol = w.rffol := rfl
@[simp] theorem putLanes_rffoh (w : Warp) (r : Nat) (m : Mask) (l : Lanes) : (w.putLanes r m l).rffoh = w.rffoh := rfl
@[simp] theorem putLanes_tvec (w : Warp) (r : Nat) (m : Mask) (l : Lanes) : (w.putLanes r m l).tvec = w.tvec := rfl
@[simp] theorem putLanes_handler (w : Warp) (r : Nat) (m : Mask) (l : Lanes) : (w.putLanes r m l).handler = w.handler := rfl
@[simp] theorem putLanes_timer (w : Warp) (r : Nat) (m : Mask) (l : Lanes) : (w.putLanes r m l).timer = w.timer := rfl
@[simp] theorem putLanes_mxs (w : Warp) (r : Nat) (m : Mask) (l : Lanes) : (w.putLanes r m l).mxs = w.mxs := rfl
@[simp] theorem putLanes_lastBatch (w : Warp) (r : Nat) (m : Mask) (l : Lanes) : (w.putLanes r m l).lastBatch = w.lastBatch := rfl
@[simp] theorem putLanes_openCmds (w : Warp) (r : Nat) (m : Mask) (l : Lanes) : (w.putLanes r m l).openCmds = w.openCmds := rfl
@[simp] theorem putLanes_batches (w : Warp) (r : Nat) (m : Mask) (l : Lanes) : (w.putLanes r m l).batches = w.batches := rfl
@[simp] theorem putLanes_bcast (w : Warp) (r : Nat) (m : Mask) (l : Lanes) : (w.putLanes r m l).bcast = w.bcast := rfl
@[simp] theorem putLanes_arrA (w : Warp) (r : Nat) (m : Mask) (l : Lanes) : (w.putLanes r m l).arrA = w.arrA := rfl
@[simp] theorem putLanes_arrF (w : Warp) (r : Nat) (m : Mask) (l : Lanes) : (w.putLanes r m l).arrF = w.arrF := rfl
@[simp] theorem putLanes_flights (w : Warp) (r : Nat) (m : Mask) (l : Lanes) : (w.putLanes r m l).flights = w.flights := rfl
@[simp] theorem putLanes_narrow (w : Warp) (r : Nat) (m : Mask) (l : Lanes) : (w.putLanes r m l).narrow = w.narrow := rfl
@[simp] theorem putLanes_nextId (w : Warp) (r : Nat) (m : Mask) (l : Lanes) : (w.putLanes r m l).nextId = w.nextId := rfl
@[simp] theorem putLanes_trap (w : Warp) (r : Nat) (m : Mask) (l : Lanes) : (w.putLanes r m l).trap = w.trap := rfl
@[simp] theorem putLanes_engine (w : Warp) (r : Nat) (m : Mask) (l : Lanes) : (w.putLanes r m l).engine = w.engine := rfl
@[simp] theorem putLanes_parked (w : Warp) (r : Nat) (m : Mask) (l : Lanes) : (w.putLanes r m l).parked = w.parked := rfl
@[simp] theorem putLanes_yieldPass (w : Warp) (r : Nat) (m : Mask) (l : Lanes) : (w.putLanes r m l).yieldPass = w.yieldPass := rfl
@[simp] theorem putLanes_exited (w : Warp) (r : Nat) (m : Mask) (l : Lanes) : (w.putLanes r m l).exited = w.exited := rfl
@[simp] theorem putLanes_regrouping (w : Warp) (r : Nat) (m : Mask) (l : Lanes) : (w.putLanes r m l).regrouping = w.regrouping := rfl
@[simp] theorem putLanes_serving (w : Warp) (r : Nat) (m : Mask) (l : Lanes) : (w.putLanes r m l).serving = w.serving := rfl
@[simp] theorem putLanes_mstLines (w : Warp) (r : Nat) (m : Mask) (l : Lanes) : (w.putLanes r m l).mstLines = w.mstLines := rfl
@[simp] theorem putLanes_granted (w : Warp) (r : Nat) (m : Mask) (l : Lanes) : (w.putLanes r m l).granted = w.granted := rfl

/-! setSlot and putP -/

@[simp] theorem setSlot_block (w : Warp) (x : PcSel) (v : PcSlot) : (w.setSlot x v).block = w.block := by cases x <;> rfl
@[simp] theorem setSlot_num (w : Warp) (x : PcSel) (v : PcSlot) : (w.setSlot x v).num = w.num := by cases x <;> rfl
@[simp] theorem setSlot_units (w : Warp) (x : PcSel) (v : PcSlot) : (w.setSlot x v).units = w.units := by cases x <;> rfl
@[simp] theorem setSlot_tiles (w : Warp) (x : PcSel) (v : PcSlot) : (w.setSlot x v).tiles = w.tiles := by cases x <;> rfl
@[simp] theorem setSlot_v (w : Warp) (x : PcSel) (v : PcSlot) : (w.setSlot x v).v = w.v := by cases x <;> rfl
@[simp] theorem setSlot_s (w : Warp) (x : PcSel) (v : PcSlot) : (w.setSlot x v).s = w.s := by cases x <;> rfl
@[simp] theorem setSlot_p (w : Warp) (x : PcSel) (v : PcSlot) : (w.setSlot x v).p = w.p := by cases x <;> rfl
@[simp] theorem setSlot_z (w : Warp) (x : PcSel) (v : PcSlot) : (w.setSlot x v).z = w.z := by cases x <;> rfl
@[simp] theorem setSlot_j (w : Warp) (x : PcSel) (v : PcSlot) : (w.setSlot x v).j = w.j := by cases x <;> rfl
@[simp] theorem setSlot_dsp (w : Warp) (x : PcSel) (v : PcSlot) : (w.setSlot x v).dsp = w.dsp := by cases x <;> rfl
@[simp] theorem setSlot_scStack (w : Warp) (x : PcSel) (v : PcSlot) : (w.setSlot x v).scStack = w.scStack := by cases x <;> rfl
@[simp] theorem setSlot_events (w : Warp) (x : PcSel) (v : PcSlot) : (w.setSlot x v).events = w.events := by cases x <;> rfl
@[simp] theorem setSlot_evp (w : Warp) (x : PcSel) (v : PcSlot) : (w.setSlot x v).evp = w.evp := by cases x <;> rfl
@[simp] theorem setSlot_evm (w : Warp) (x : PcSel) (v : PcSlot) : (w.setSlot x v).evm = w.evm := by cases x <;> rfl
@[simp] theorem setSlot_walkers (w : Warp) (x : PcSel) (v : PcSlot) : (w.setSlot x v).walkers = w.walkers := by cases x <;> rfl
@[simp] theorem setSlot_wef (w : Warp) (x : PcSel) (v : PcSlot) : (w.setSlot x v).wef = w.wef := by cases x <;> rfl
@[simp] theorem setSlot_rff (w : Warp) (x : PcSel) (v : PcSlot) : (w.setSlot x v).rff = w.rff := by cases x <;> rfl
@[simp] theorem setSlot_rffMore (w : Warp) (x : PcSel) (v : PcSlot) : (w.setSlot x v).rffMore = w.rffMore := by cases x <;> rfl
@[simp] theorem setSlot_rffol (w : Warp) (x : PcSel) (v : PcSlot) : (w.setSlot x v).rffol = w.rffol := by cases x <;> rfl
@[simp] theorem setSlot_rffoh (w : Warp) (x : PcSel) (v : PcSlot) : (w.setSlot x v).rffoh = w.rffoh := by cases x <;> rfl
@[simp] theorem setSlot_tvec (w : Warp) (x : PcSel) (v : PcSlot) : (w.setSlot x v).tvec = w.tvec := by cases x <;> rfl
@[simp] theorem setSlot_handler (w : Warp) (x : PcSel) (v : PcSlot) : (w.setSlot x v).handler = w.handler := by cases x <;> rfl
@[simp] theorem setSlot_timer (w : Warp) (x : PcSel) (v : PcSlot) : (w.setSlot x v).timer = w.timer := by cases x <;> rfl
@[simp] theorem setSlot_mxs (w : Warp) (x : PcSel) (v : PcSlot) : (w.setSlot x v).mxs = w.mxs := by cases x <;> rfl
@[simp] theorem setSlot_lastBatch (w : Warp) (x : PcSel) (v : PcSlot) : (w.setSlot x v).lastBatch = w.lastBatch := by cases x <;> rfl
@[simp] theorem setSlot_openCmds (w : Warp) (x : PcSel) (v : PcSlot) : (w.setSlot x v).openCmds = w.openCmds := by cases x <;> rfl
@[simp] theorem setSlot_batches (w : Warp) (x : PcSel) (v : PcSlot) : (w.setSlot x v).batches = w.batches := by cases x <;> rfl
@[simp] theorem setSlot_bcast (w : Warp) (x : PcSel) (v : PcSlot) : (w.setSlot x v).bcast = w.bcast := by cases x <;> rfl
@[simp] theorem setSlot_arrA (w : Warp) (x : PcSel) (v : PcSlot) : (w.setSlot x v).arrA = w.arrA := by cases x <;> rfl
@[simp] theorem setSlot_arrF (w : Warp) (x : PcSel) (v : PcSlot) : (w.setSlot x v).arrF = w.arrF := by cases x <;> rfl
@[simp] theorem setSlot_flights (w : Warp) (x : PcSel) (v : PcSlot) : (w.setSlot x v).flights = w.flights := by cases x <;> rfl
@[simp] theorem setSlot_narrow (w : Warp) (x : PcSel) (v : PcSlot) : (w.setSlot x v).narrow = w.narrow := by cases x <;> rfl
@[simp] theorem setSlot_nextId (w : Warp) (x : PcSel) (v : PcSlot) : (w.setSlot x v).nextId = w.nextId := by cases x <;> rfl
@[simp] theorem setSlot_trap (w : Warp) (x : PcSel) (v : PcSlot) : (w.setSlot x v).trap = w.trap := by cases x <;> rfl
@[simp] theorem setSlot_engine (w : Warp) (x : PcSel) (v : PcSlot) : (w.setSlot x v).engine = w.engine := by cases x <;> rfl
@[simp] theorem setSlot_parked (w : Warp) (x : PcSel) (v : PcSlot) : (w.setSlot x v).parked = w.parked := by cases x <;> rfl
@[simp] theorem setSlot_yieldPass (w : Warp) (x : PcSel) (v : PcSlot) : (w.setSlot x v).yieldPass = w.yieldPass := by cases x <;> rfl
@[simp] theorem setSlot_exited (w : Warp) (x : PcSel) (v : PcSlot) : (w.setSlot x v).exited = w.exited := by cases x <;> rfl
@[simp] theorem setSlot_regrouping (w : Warp) (x : PcSel) (v : PcSlot) : (w.setSlot x v).regrouping = w.regrouping := by cases x <;> rfl
@[simp] theorem setSlot_serving (w : Warp) (x : PcSel) (v : PcSlot) : (w.setSlot x v).serving = w.serving := by cases x <;> rfl
@[simp] theorem setSlot_mstLines (w : Warp) (x : PcSel) (v : PcSlot) : (w.setSlot x v).mstLines = w.mstLines := by cases x <;> rfl
@[simp] theorem setSlot_granted (w : Warp) (x : PcSel) (v : PcSlot) : (w.setSlot x v).granted = w.granted := by cases x <;> rfl
@[simp] theorem putP_block (w : Warp) (r : Nat) (m b : Mask) : (w.putP r m b).block = w.block := by unfold putP; split <;> rfl
@[simp] theorem putP_num (w : Warp) (r : Nat) (m b : Mask) : (w.putP r m b).num = w.num := by unfold putP; split <;> rfl
@[simp] theorem putP_units (w : Warp) (r : Nat) (m b : Mask) : (w.putP r m b).units = w.units := by unfold putP; split <;> rfl
@[simp] theorem putP_tiles (w : Warp) (r : Nat) (m b : Mask) : (w.putP r m b).tiles = w.tiles := by unfold putP; split <;> rfl
@[simp] theorem putP_v (w : Warp) (r : Nat) (m b : Mask) : (w.putP r m b).v = w.v := by unfold putP; split <;> rfl
@[simp] theorem putP_s (w : Warp) (r : Nat) (m b : Mask) : (w.putP r m b).s = w.s := by unfold putP; split <;> rfl
@[simp] theorem putP_z (w : Warp) (r : Nat) (m b : Mask) : (w.putP r m b).z = w.z := by unfold putP; split <;> rfl
@[simp] theorem putP_a (w : Warp) (r : Nat) (m b : Mask) : (w.putP r m b).a = w.a := by unfold putP; split <;> rfl
@[simp] theorem putP_b (w : Warp) (r : Nat) (m b : Mask) : (w.putP r m b).b = w.b := by unfold putP; split <;> rfl
@[simp] theorem putP_j (w : Warp) (r : Nat) (m b : Mask) : (w.putP r m b).j = w.j := by unfold putP; split <;> rfl
@[simp] theorem putP_dsp (w : Warp) (r : Nat) (m b : Mask) : (w.putP r m b).dsp = w.dsp := by unfold putP; split <;> rfl
@[simp] theorem putP_scStack (w : Warp) (r : Nat) (m b : Mask) : (w.putP r m b).scStack = w.scStack := by unfold putP; split <;> rfl
@[simp] theorem putP_events (w : Warp) (r : Nat) (m b : Mask) : (w.putP r m b).events = w.events := by unfold putP; split <;> rfl
@[simp] theorem putP_evp (w : Warp) (r : Nat) (m b : Mask) : (w.putP r m b).evp = w.evp := by unfold putP; split <;> rfl
@[simp] theorem putP_evm (w : Warp) (r : Nat) (m b : Mask) : (w.putP r m b).evm = w.evm := by unfold putP; split <;> rfl
@[simp] theorem putP_walkers (w : Warp) (r : Nat) (m b : Mask) : (w.putP r m b).walkers = w.walkers := by unfold putP; split <;> rfl
@[simp] theorem putP_wef (w : Warp) (r : Nat) (m b : Mask) : (w.putP r m b).wef = w.wef := by unfold putP; split <;> rfl
@[simp] theorem putP_rff (w : Warp) (r : Nat) (m b : Mask) : (w.putP r m b).rff = w.rff := by unfold putP; split <;> rfl
@[simp] theorem putP_rffMore (w : Warp) (r : Nat) (m b : Mask) : (w.putP r m b).rffMore = w.rffMore := by unfold putP; split <;> rfl
@[simp] theorem putP_rffol (w : Warp) (r : Nat) (m b : Mask) : (w.putP r m b).rffol = w.rffol := by unfold putP; split <;> rfl
@[simp] theorem putP_rffoh (w : Warp) (r : Nat) (m b : Mask) : (w.putP r m b).rffoh = w.rffoh := by unfold putP; split <;> rfl
@[simp] theorem putP_tvec (w : Warp) (r : Nat) (m b : Mask) : (w.putP r m b).tvec = w.tvec := by unfold putP; split <;> rfl
@[simp] theorem putP_handler (w : Warp) (r : Nat) (m b : Mask) : (w.putP r m b).handler = w.handler := by unfold putP; split <;> rfl
@[simp] theorem putP_timer (w : Warp) (r : Nat) (m b : Mask) : (w.putP r m b).timer = w.timer := by unfold putP; split <;> rfl
@[simp] theorem putP_mxs (w : Warp) (r : Nat) (m b : Mask) : (w.putP r m b).mxs = w.mxs := by unfold putP; split <;> rfl
@[simp] theorem putP_lastBatch (w : Warp) (r : Nat) (m b : Mask) : (w.putP r m b).lastBatch = w.lastBatch := by unfold putP; split <;> rfl
@[simp] theorem putP_openCmds (w : Warp) (r : Nat) (m b : Mask) : (w.putP r m b).openCmds = w.openCmds := by unfold putP; split <;> rfl
@[simp] theorem putP_batches (w : Warp) (r : Nat) (m b : Mask) : (w.putP r m b).batches = w.batches := by unfold putP; split <;> rfl
@[simp] theorem putP_bcast (w : Warp) (r : Nat) (m b : Mask) : (w.putP r m b).bcast = w.bcast := by unfold putP; split <;> rfl
@[simp] theorem putP_arrA (w : Warp) (r : Nat) (m b : Mask) : (w.putP r m b).arrA = w.arrA := by unfold putP; split <;> rfl
@[simp] theorem putP_arrF (w : Warp) (r : Nat) (m b : Mask) : (w.putP r m b).arrF = w.arrF := by unfold putP; split <;> rfl
@[simp] theorem putP_flights (w : Warp) (r : Nat) (m b : Mask) : (w.putP r m b).flights = w.flights := by unfold putP; split <;> rfl
@[simp] theorem putP_narrow (w : Warp) (r : Nat) (m b : Mask) : (w.putP r m b).narrow = w.narrow := by unfold putP; split <;> rfl
@[simp] theorem putP_nextId (w : Warp) (r : Nat) (m b : Mask) : (w.putP r m b).nextId = w.nextId := by unfold putP; split <;> rfl
@[simp] theorem putP_trap (w : Warp) (r : Nat) (m b : Mask) : (w.putP r m b).trap = w.trap := by unfold putP; split <;> rfl
@[simp] theorem putP_engine (w : Warp) (r : Nat) (m b : Mask) : (w.putP r m b).engine = w.engine := by unfold putP; split <;> rfl
@[simp] theorem putP_parked (w : Warp) (r : Nat) (m b : Mask) : (w.putP r m b).parked = w.parked := by unfold putP; split <;> rfl
@[simp] theorem putP_yieldPass (w : Warp) (r : Nat) (m b : Mask) : (w.putP r m b).yieldPass = w.yieldPass := by unfold putP; split <;> rfl
@[simp] theorem putP_exited (w : Warp) (r : Nat) (m b : Mask) : (w.putP r m b).exited = w.exited := by unfold putP; split <;> rfl
@[simp] theorem putP_regrouping (w : Warp) (r : Nat) (m b : Mask) : (w.putP r m b).regrouping = w.regrouping := by unfold putP; split <;> rfl
@[simp] theorem putP_serving (w : Warp) (r : Nat) (m b : Mask) : (w.putP r m b).serving = w.serving := by unfold putP; split <;> rfl
@[simp] theorem putP_mstLines (w : Warp) (r : Nat) (m b : Mask) : (w.putP r m b).mstLines = w.mstLines := by unfold putP; split <;> rfl
@[simp] theorem putP_granted (w : Warp) (r : Nat) (m b : Mask) : (w.putP r m b).granted = w.granted := by unfold putP; split <;> rfl

end Warp

end Sys2Proof.Machine
end

