-- ==== Sys2Proof/Laws/Table.lean ====
section
/-! SUPPORT. Laws of sparse tables, register files and lanes. -/

namespace Sys2Proof.Machine

variable {κ α : Type} [DecidableEq κ]

@[simp] theorem tget?_tset_self (t : Tab κ α) (k : κ) (v : α) : tget? (tset t k v) k = some v := by
  induction t with
  | nil => simp [tset, tget?]
  | cons x t ih =>
    obtain ⟨k', v'⟩ := x
    unfold tset
    split <;> simp_all [tget?]

theorem tget?_tset_ne (t : Tab κ α) (k k' : κ) (v : α) (h : k' ≠ k) : tget? (tset t k v) k' = tget? t k' := by
  induction t with
  | nil => simp [tset, tget?, Ne.symm h]
  | cons x t ih =>
    obtain ⟨k'', v'⟩ := x
    unfold tset
    split
    · subst_vars; simp [tget?, Ne.symm h]
    · simp only [tget?, ih]

@[simp] theorem tget_tset_self (t : Tab κ α) (k : κ) (v d : α) : tget (tset t k v) k d = v := by simp [tget]

theorem tget_tset_ne (t : Tab κ α) (k k' : κ) (v d : α) (h : k' ≠ k) : tget (tset t k v) k' d = tget t k' d := by
  simp [tget, tget?_tset_ne t k k' v h]

@[simp] theorem tget?_tdel_self (t : Tab κ α) (k : κ) : tget? (tdel t k) k = none := by
  induction t with
  | nil => rfl
  | cons x t ih =>
    obtain ⟨k', v'⟩ := x
    unfold tdel
    split <;> simp_all [tget?]

theorem tget?_tdel_ne (t : Tab κ α) (k k' : κ) (h : k' ≠ k) : tget? (tdel t k) k' = tget? t k' := by
  induction t with
  | nil => rfl
  | cons x t ih =>
    obtain ⟨k'', v'⟩ := x
    unfold tdel
    split
    · subst_vars; simp [tget?, Ne.symm h, ih]
    · simp only [tget?, ih]

/-- Reading a register file behind a write, whatever its length. -/
theorem getD_lput (l : List α) (i j : Nat) (v d : α) : (lput l i v d).getD j d = if i = j then v else l.getD j d := by
  induction i generalizing l j with
  | zero => cases l <;> cases j <;> simp [lput]
  | succ i ih =>
    cases l <;> cases j <;> simp only [lput, List.getD_cons_zero, List.getD_cons_succ, List.getD_nil, ih, Nat.add_right_cancel_iff]
    · simp
    · simp

theorem getD_lput_self (l : List α) (i : Nat) (v d : α) : (lput l i v d).getD i d = v := by rw [getD_lput, if_pos rfl]

theorem getD_lput_ne (l : List α) (i j : Nat) (v d : α) (h : i ≠ j) : (lput l i v d).getD j d = l.getD j d := by
  rw [getD_lput, if_neg h]

theorem laneNums_getElem? (l : Nat) (h : l < 32) : laneNums[l]? = some l := by
  interval_cases l <;> rfl

theorem mem_laneNums (l : Nat) : l ∈ laneNums ↔ l < 32 := by
  constructor
  · intro h; simp [laneNums] at h; omega
  · intro h; exact List.mem_of_getElem? (laneNums_getElem? l h)

/-- A lane of lanes given by a function. -/
theorem lane_lanesOf (f : Nat → Word) (l : Nat) (h : l < 32) : lane (lanesOf f) l = f l := by
  simp [lane, lanesOf, List.getD, laneNums_getElem? l h]

theorem lane_mergeLanes (act : Mask) (old new : Lanes) (l : Nat) (h : l < 32) :
    lane (mergeLanes act old new) l = if act.getLsbD l then lane new l else lane old l := by
  rw [mergeLanes, lane_lanesOf _ _ h]

theorem maskOf_getLsbD (f : Nat → Bool) (l : Nat) (h : l < 32) : (maskOf f).getLsbD l = f l := by
  simp only [maskOf, laneNums, List.foldl_cons, List.foldl_nil]
  have e : ∀ (m : Word) (b : Bool) (i : Nat), (if b then m ||| ((1 : Word) <<< i) else m) = m ||| (if b then (1 : Word) <<< i else 0) := by
    intro m b i; cases b <;> simp
  simp only [e, BitVec.getLsbD_or]
  have g : ∀ i : Nat, i < 32 → ((if f i then (1 : Word) <<< i else 0) : Word).getLsbD l = (decide (i = l) && f i) := by
    intro i hi
    cases f i
    · simp
    · by_cases hil : i = l
      · subst hil; simp [hi]
      · simp [hil, h]; omega
  simp only [g, Nat.reduceLT]
  interval_cases l <;> simp

end Sys2Proof.Machine
end

