-- ==== Sys2Proof/Laws/Issue.lean ====
section
/-! SUPPORT. What the issue of a word does to the state (R168, R171, R177, R179): it leaves the registers, but for the results that
commit, and everything outside the warp as they were. -/

namespace Sys2Proof.Machine

/-! Registers behind a write. -/

namespace Warp

theorem sreg_setS (w : Warp) (r q : Nat) (v : Word) : (w.setS r v).sreg q = if r = q then v else w.sreg q := by
  simp only [sreg, setS, getD_lput]

theorem vreg_setV (w : Warp) (r q : Nat) (v : VReg) : (w.setV r v).vreg q = if r = q then v else w.vreg q := by
  simp only [vreg, setV, getD_lput]

theorem preg_putP (w : Warp) (r q : Nat) (m b : Mask) :
    (w.putP r m b).preg q = if r = q ∧ r ≠ 0 then mergeMask m (w.preg r) b else w.preg q := by
  unfold putP
  by_cases h : r = 0
  · simp [h]
  · by_cases e : r = q
    · subst e; simp only [h, if_false, preg, getD_lput]; simp [h]
    · simp only [h, if_false, preg, getD_lput, e, false_and]

@[simp] theorem sreg_setV (w : Warp) (r q : Nat) (v : VReg) : (w.setV r v).sreg q = w.sreg q := rfl
@[simp] theorem preg_setV (w : Warp) (r q : Nat) (v : VReg) : (w.setV r v).preg q = w.preg q := rfl
@[simp] theorem vreg_setS (w : Warp) (r q : Nat) (v : Word) : (w.setS r v).vreg q = w.vreg q := rfl
@[simp] theorem preg_setS (w : Warp) (r q : Nat) (v : Word) : (w.setS r v).preg q = w.preg q := rfl
@[simp] theorem sreg_putP (w : Warp) (r q : Nat) (m b : Mask) : (w.putP r m b).sreg q = w.sreg q := by
  unfold sreg; simp
@[simp] theorem vreg_putP (w : Warp) (r q : Nat) (m b : Mask) : (w.putP r m b).vreg q = w.vreg q := by
  unfold vreg; simp
@[simp] theorem sreg_setSlot (w : Warp) (x : PcSel) (v : PcSlot) (q : Nat) : (w.setSlot x v).sreg q = w.sreg q := by
  cases x <;> rfl
@[simp] theorem vreg_setSlot (w : Warp) (x : PcSel) (v : PcSlot) (q : Nat) : (w.setSlot x v).vreg q = w.vreg q := by
  cases x <;> rfl
@[simp] theorem preg_setSlot (w : Warp) (x : PcSel) (v : PcSlot) (q : Nat) : (w.setSlot x v).preg q = w.preg q := by
  cases x <;> rfl
@[simp] theorem slot_setSlot_self (w : Warp) (x : PcSel) (v : PcSlot) : (w.setSlot x v).slot x = v := by cases x <;> rfl
@[simp] theorem setSlot_setSlot (w : Warp) (x : PcSel) (v v' : PcSlot) : (w.setSlot x v).setSlot x v' = w.setSlot x v' := by
  cases x <;> rfl
@[simp] theorem setSlot_slot (w : Warp) (x : PcSel) : w.setSlot x (w.slot x) = w := by cases x <;> rfl

end Warp

/-! Warps that differ only in what the issue of a word moves. -/

/-- Warp w' is w but for its slots, join, divergence depth, the SC places of its stack, yield pass and the thread
marks of its flights. -/
def Light (w w' : Warp) : Prop :=
  ∃ a b j dsp y sk fl, w' = { w with a := a, b := b, j := j, dsp := dsp, yieldPass := y, scStack := sk, flights := fl } ∧
    (fl.map fun f => { f with inA := false, inB := false, stk := [] }) = w.flights.map fun f => { f with inA := false, inB := false, stk := [] }

theorem Light.refl (w : Warp) : Light w w := ⟨w.a, w.b, w.j, w.dsp, w.yieldPass, w.scStack, w.flights, rfl, rfl⟩

theorem Light.trans {u v w : Warp} (h : Light u v) (k : Light v w) : Light u w := by
  obtain ⟨a, b, j, d, y, sk, fl, rfl, e⟩ := h
  obtain ⟨a', b', j', d', y', sk', fl', rfl, e'⟩ := k
  exact ⟨a', b', j', d', y', sk', fl', rfl, e'.trans e⟩

theorem Light.symm {v w : Warp} (h : Light v w) : Light w v := by
  obtain ⟨a, b, j, d, y, sk, fl, rfl, e⟩ := h
  exact ⟨v.a, v.b, v.j, v.dsp, v.yieldPass, v.scStack, v.flights, rfl, e.symm⟩

theorem Light.setSlot (w : Warp) (x : PcSel) (v : PcSlot) : Light w (w.setSlot x v) := by
  cases x
  · exact ⟨v, w.b, w.j, w.dsp, w.yieldPass, w.scStack, w.flights, rfl, rfl⟩
  · exact ⟨w.a, v, w.j, w.dsp, w.yieldPass, w.scStack, w.flights, rfl, rfl⟩

theorem Light.commitOne {w w' : Warp} (h : Light w w') (x : Held) : Light (commitOne w x) (commitOne w' x) := by
  obtain ⟨a, b, j, d, y, sk, fl, rfl, e⟩ := h
  cases x with
  | s r v => exact ⟨a, b, j, d, y, sk, fl, rfl, e⟩
  | v r m l => exact ⟨a, b, j, d, y, sk, fl, rfl, e⟩
  | p r m b' =>
    by_cases h0 : r = 0
    · simp only [Machine.commitOne, Warp.putP, h0, if_true]; exact ⟨a, b, j, d, y, sk, fl, rfl, e⟩
    · simp only [Machine.commitOne, Warp.putP, h0, if_false]; exact ⟨a, b, j, d, y, sk, fl, rfl, e⟩
  | special n v =>
    simp only [Machine.commitOne]
    split <;> exact ⟨a, b, j, d, y, sk, fl, rfl, e⟩
  | walk k bd desc =>
    by_cases h0 : bd = 0 <;> by_cases h1 : 16 ≤ w.units <;> simp only [Machine.commitOne, h0, h1, if_true, if_false] <;>
      exact ⟨a, b, j, d, y, sk, fl, rfl, e⟩

theorem Light.commits {w w' : Warp} (h : Light w w') (l : List Held) : Light (l.foldl Machine.commitOne w) (l.foldl Machine.commitOne w') := by
  induction l generalizing w w' with
  | nil => exact h
  | cons x l ih => exact ih (h.commitOne x)

/-- Committing one slot's results leaves both slots' held results of the other slot. -/
theorem commitHeld_light (w : Warp) (x : PcSel) : Light ((w.slot x).held.foldl commitOne w) (commitHeld w x) :=
  Light.setSlot _ _ _

theorem Light.commitHeld {w w' : Warp} (h : Light w w') (x : PcSel) (e : (w'.slot x).held = (w.slot x).held) :
    Light (commitHeld w x) (commitHeld w' x) := by
  have := (h.commits (w.slot x).held)
  exact (commitHeld_light w x).symm.trans (this.trans (e ▸ commitHeld_light w' x))

theorem Light.agree {w w' : Warp} (h : Light w w') : AgreeBut [] [] [] w w' := by
  obtain ⟨a, b, j, d, y, sk, fl, rfl, e⟩ := h
  refine ⟨fun _ _ => rfl, fun _ _ => rfl, fun _ _ => rfl, ?_, .inl ⟨rfl, rfl, rfl⟩⟩
  simp only [eraseIssue, e]

theorem Light.sreg {w w' : Warp} (h : Light w w') (r : Nat) : w'.sreg r = w.sreg r := by
  obtain ⟨a, b, j, d, y, sk, fl, rfl, e⟩ := h; rfl
theorem Light.vreg {w w' : Warp} (h : Light w w') (r : Nat) : w'.vreg r = w.vreg r := by
  obtain ⟨a, b, j, d, y, sk, fl, rfl, e⟩ := h; rfl
theorem Light.preg {w w' : Warp} (h : Light w w') (r : Nat) : w'.preg r = w.preg r := by
  obtain ⟨a, b, j, d, y, sk, fl, rfl, e⟩ := h; rfl

theorem parkAtJoin_light (w : Warp) (x : PcSel) : Light w (parkAtJoin w x) := by
  unfold parkAtJoin
  dsimp only
  split
  · exact .setSlot _ _ _
  · exact .refl _

theorem parkAtJoin_held (w : Warp) (x y : PcSel) : ((parkAtJoin w x).slot y).held = (w.slot y).held := by
  unfold parkAtJoin
  dsimp only
  split
  · cases x <;> cases y <;> rfl
  · rfl

theorem mergeOrder_light (w : Warp) : Light w (mergeOrder w) := by
  refine ⟨w.a, w.b, w.j, w.dsp, w.yieldPass, w.scStack, _, rfl, ?_⟩
  simp [Function.comp_def]

theorem popStack_light (s : State) (b : Block) (w : Warp) : Light w (s.popStack b w) := by
  refine ⟨_, _, _, _, _, _, _, rfl, ?_⟩
  simp [Function.comp_def]

theorem slotOfForm_held (form : DWord) (m : Mask) : (slotOfForm form m).held = [] := by
  unfold slotOfForm; split <;> rfl

/-- The end of a clause changes a warp lightly, and a slot without held results stays without. -/
abbrev Keeps (w u : Warp) : Prop := Light w u ∧ ∀ x, (w.slot x).held = [] → (u.slot x).held = []

theorem Keeps.refl (w : Warp) : Keeps w w := ⟨.refl _, fun _ h => h⟩

theorem Keeps.trans {u v w : Warp} (h : Keeps u v) (k : Keeps v w) : Keeps u w := ⟨h.1.trans k.1, fun x hx => k.2 x (h.2 x hx)⟩

/-- A change of the slots alone, by which no slot comes to hold a result. -/
theorem Keeps.slots {w u : Warp} (h : Keeps w u) (a b : PcSlot) (j : Option DWord) (ha : a.held = [] ∨ a = u.a) (hb : b.held = [] ∨ b = u.b) :
    Keeps w { u with a := a, b := b, j := j } := by
  refine ⟨h.1.trans ⟨_, _, _, _, _, _, _, rfl, rfl⟩, fun x hx => ?_⟩
  have hu := h.2 x hx
  cases x
  · exact ha.elim id fun e => by subst e; exact hu
  · exact hb.elim id fun e => by subst e; exact hu

theorem popStack_keeps (s : State) (b : Block) (w : Warp) : Keeps w (s.popStack b w) :=
  ⟨popStack_light s b w, fun x hx => by
    cases x
    · exact hx
    · exact slotOfForm_held _ _⟩

theorem parkAtJoin_keeps (w : Warp) (x : PcSel) : Keeps w (parkAtJoin w x) :=
  ⟨parkAtJoin_light _ _, fun _ h => by rw [parkAtJoin_held, h]⟩

/-- What settling a clause's end changes, and that a slot without held results stays without. -/
theorem settle_light (s : State) (b : Block) (w : Warp) (fuel : Nat) : Keeps w (s.settle b w fuel) := by
  induction fuel generalizing w with
  | zero => exact .refl _
  | succ n ih =>
    have parked : Keeps w (parkAtJoin (parkAtJoin w .a) .b) := (parkAtJoin_keeps _ _).trans (parkAtJoin_keeps _ _)
    unfold State.settle
    extract_lets late u m e done
    have hm : Keeps w m := ⟨parked.1.trans (mergeOrder_light u), fun x hx => by
      have := parked.2 x hx
      cases x <;> exact this⟩
    have pop : ∀ v, Keeps w v → Keeps w (s.settle b (s.popStack b v) n) := fun v hv =>
      (hv.trans (popStack_keeps s b v)).trans (ih _)
    have merged : ∀ k j, Keeps w (done k j) := fun k j => by
      simp only [done]
      split
      · exact hm.slots _ _ _ (.inl rfl) (.inl rfl)
      · exact pop _ (hm.slots _ _ m.j (.inl rfl) (.inl rfl))
    have left : Keeps w { u with j := none } := parked.slots _ _ _ (.inr rfl) (.inr rfl)
    have last : Keeps w { u with a := PcSlot.empty, b := PcSlot.empty } := parked.slots _ _ u.j (.inl rfl) (.inl rfl)
    have popped := pop _ last
    change Keeps w u at parked
    clear_value done m u
    split
    · exact parked
    · cases u.a.live <;> cases u.b.live <;> cases u.a.parkedJoin <;> cases u.b.parkedJoin <;>
        simp only [Bool.and_true, Bool.and_false, if_true, if_false, Bool.false_eq_true] <;>
        first
          | exact parked
          | exact merged _ _
          | (split
             · exact left
             · exact popped)

/-- The registers of a warp whose slot holds nothing are its committed registers. -/
theorem commitHeld_of_empty (w : Warp) (x : PcSel) (h : (w.slot x).held = []) : Light w (commitHeld w x) := by
  simp only [commitHeld, h, List.foldl_nil]
  exact .setSlot _ _ _

@[simp] theorem slot_setSlot_held (w : Warp) (x y : PcSel) (v : PcSlot) (h : v.held = (w.slot x).held) :
    ((w.setSlot x v).slot y).held = (w.slot y).held := by
  cases x <;> cases y <;> first | exact h | rfl

theorem warp?_setWarp (s : State) (w : WarpId) (v : Warp) : (s.setWarp w v).warp? w = some v := by
  simp [State.warp?, State.setWarp]

theorem warp?_setWarp_ne (s : State) (w u : WarpId) (v : Warp) (h : u ≠ w) : (s.setWarp w v).warp? u = s.warp? u := by
  simp [State.warp?, State.setWarp, tget?_tset_ne _ _ _ _ h]

theorem core_setCore (s : State) (c d : CoreId) (v : Core) : (s.setCore c v).core d = if d = c then v else s.core d := by
  unfold State.core State.setCore
  split
  · subst_vars; simp
  · next h => simp [tget_tset_ne _ _ _ _ _ h]

/-- Posting an event once lengthens the list of what is due, or leaves it. -/
theorem postOnce_eq (s : State) (i : Instr) (a : Arg) : ∃ l, s.postOnce i a = { s with inflight := s.inflight ++ l } := by
  unfold State.postOnce
  split
  · exact ⟨[], by simp⟩
  · exact ⟨[(i, a)], rfl⟩

/-- What settling a clause's end does to the state: it stores the warp, and may post the retirement of the block. -/
theorem settled_spec (s : State) (wid : WarpId) (b : Block) (w : Warp) :
    ∃ u l, (s.settled wid b w) = { s.setWarp wid u with inflight := s.inflight ++ l } ∧
      (∀ x, (w.slot x).held = [] → (u.slot x).held = []) ∧
      (Light w u ∨ ∃ v, Light w v ∧ u = { v with exited := true, handler := false, trap := none }) := by
  have hs := settle_light s b w (w.dsp + 2)
  unfold State.settled
  extract_lets v t t'
  split
  · exact ⟨v, [], by simp [State.setWarp], hs.2, .inl hs.1⟩
  · have hv : ∀ x, (w.slot x).held = [] →
        ((({ v with exited := true, handler := false, trap := none } : Warp)).slot x).held = [] := by
      intro x hx
      have := hs.2 x hx
      cases x <;> exact this
    have ha : ∃ l, t' = { t with inflight := t.inflight ++ l } := by
      simp only [t']
      split
      · exact postOnce_eq t .blockRetire { b := v.block }
      · exact ⟨[], by simp⟩
    obtain ⟨l, hl⟩ := ha
    split
    · obtain ⟨k, hk⟩ := postOnce_eq t' .regroupComplete { b := v.block }
      exact ⟨_, l ++ k, by rw [hk, hl]; simp [t, State.setWarp], hv, .inr ⟨v, hs.1, rfl⟩⟩
    · exact ⟨_, l, by rw [hl]; rfl, hv, .inr ⟨v, hs.1, rfl⟩⟩

theorem AgreeBut.light_left {ds dv dp : List Nat} {u w w' : Warp} (h : AgreeBut ds dv dp w w') (l : Light u w) :
    AgreeBut ds dv dp u w' := by
  obtain ⟨a, b, j, d, y, sk, fl, rfl, e⟩ := l
  obtain ⟨h1, h2, h3, h4, h5⟩ := h
  refine ⟨h1, h2, h3, h4.trans ?_, h5⟩
  simp only [eraseIssue, e]

theorem AgreeBut.light_right {ds dv dp : List Nat} {w w' u : Warp} (h : AgreeBut ds dv dp w w') (l : Light w' u) :
    AgreeBut ds dv dp w u := by
  obtain ⟨a, b, j, d, y, sk, fl, rfl, e⟩ := l
  obtain ⟨h1, h2, h3, h4, h5⟩ := h
  refine ⟨h1, h2, h3, Eq.trans ?_ h4, h5⟩
  simp only [eraseIssue, e]

/-- A warp that has exited agrees with what it was. -/
theorem AgreeBut.exit {ds dv dp : List Nat} {w w' : Warp} (h : AgreeBut ds dv dp w w') :
    AgreeBut ds dv dp w { w' with exited := true, handler := false, trap := none } := by
  obtain ⟨h1, h2, h3, h4, -⟩ := h
  exact ⟨h1, h2, h3, h4, .inr rfl⟩

theorem Untouched.refl (er : Core → Core) (s : State) (wid : WarpId) : Untouched er s s wid :=
  ⟨fun _ => rfl, rfl, fun _ _ => rfl, rfl, fun _ => rfl, rfl, rfl, rfl, rfl, rfl, rfl, rfl, rfl, rfl, ⟨[], by simp⟩, rfl, rfl, rfl, rfl, rfl, rfl⟩

/-- The registers behind an issue, and what it leaves alone (R168, R171): the warp w of the instruction commits its results at the
clause's end, and keeps them held before it. -/
theorem advanceTo_spec (s : State) (x : Site) (n : Nat) (w : Warp) (target : Option DWord) :
    ∃ u, (s.advanceTo x n w target).warp? x.wid = some u ∧ Untouched eraseStamp s (s.advanceTo x n w target) x.wid ∧
      (∃ v, Light (commitHeld w x.sel) v ∧
        (commitHeld u x.sel = v ∨ commitHeld u x.sel = { v with exited := true, handler := false, trap := none })) := by
  have hst : ∀ (l : List (Instr × Arg)) (u : Warp),
      Untouched eraseStamp s { (s.stamp x).1.setWarp x.wid u with inflight := (s.stamp x).1.inflight ++ l } x.wid := by
    intro l u
    refine ⟨fun _ => rfl, rfl, fun v hv => ?_, rfl, fun c => ?_, rfl, rfl, rfl, rfl, rfl, rfl, rfl, rfl, rfl, ⟨l, rfl⟩, rfl, rfl, rfl, rfl, rfl, rfl⟩
    · exact warp?_setWarp_ne _ _ _ _ hv
    · show eraseStamp ((s.setCore x.core _).core c) = _
      rw [core_setCore]
      split
      · subst_vars; rfl
      · rfl
  unfold State.advanceTo
  generalize s.stamp x = p at hst
  obtain ⟨s', st⟩ := p
  dsimp -zeta only at hst ⊢
  extract_lets src sl w0 w1 w2 w3 src'
  have h0 : Light w w0 ∧ (w0.slot x.sel).held = (w.slot x.sel).held := by
    simp only [w0]
    split
    · exact ⟨⟨_, _, _, _, _, _, _, rfl, rfl⟩, by cases x.sel <;> rfl⟩
    · exact ⟨.refl _, rfl⟩
  split
  · refine ⟨_, warp?_setWarp _ _ _, ?_, ?_⟩
    · have := hst [] (w0.setSlot x.sel { sl with k := x.k + n })
      rw [List.append_nil] at this
      exact this
    · refine ⟨_, ?_, .inl rfl⟩
      refine (h0.1.trans (Light.setSlot w0 x.sel { sl with k := x.k + n })).commitHeld x.sel ?_
      rw [Warp.slot_setSlot_self]
  · obtain ⟨u, l, hu, hk, hl⟩ := settled_spec s' x.wid x.b
      (w3.setSlot x.sel { w3.slot x.sel with via := target.map fun _ => x.addr })
    rw [hu]
    refine ⟨u, warp?_setWarp _ _ _, hst l u, ?_⟩
    have h1 : Light w w1 := h0.1.trans (Light.setSlot _ _ _)
    have h2 : Light w w2 := by
      simp only [w2]
      split
      · exact h1.trans ⟨_, _, _, _, _, _, _, rfl, rfl⟩
      · exact h1
    have e2 : (w2.slot x.sel).held = (w.slot x.sel).held := by
      have : (w1.slot x.sel).held = (w.slot x.sel).held := by rw [Warp.slot_setSlot_self]
      simp only [w2]
      split
      · rw [← this]; cases x.sel <;> rfl
      · exact this
    have h3 : Light (commitHeld w x.sel) w3 :=
      (h2.commitHeld x.sel e2).trans (Light.setSlot _ _ _)
    have e3 : (w3.slot x.sel).held = [] := by
      simp only [w3, toClause, commitHeld, Warp.slot_setSlot_self]
    set w4 := w3.setSlot x.sel { w3.slot x.sel with via := target.map fun _ => x.addr } with hw4
    have h4 : Light (commitHeld w x.sel) w4 := h3.trans (Light.setSlot _ _ _)
    have e4 : (w4.slot x.sel).held = [] := by simp [hw4, e3]
    have eu := hk x.sel e4
    have hc := commitHeld_of_empty u x.sel eu
    rcases hl with hl | ⟨v, hv, rfl⟩
    · exact ⟨_, h4.trans (hl.trans hc), .inl rfl⟩
    · have ev : (v.slot x.sel).held = [] := by
        rw [← eu]; cases x.sel <;> rfl
      refine ⟨commitHeld v x.sel, h4.trans (hv.trans (commitHeld_of_empty v x.sel ev)), .inr ?_⟩
      simp only [commitHeld, ev, eu, List.foldl_nil]
      cases x.sel <;> rfl

/-- A live slot that is not at the join stays where it is when the clause's end is settled. -/
theorem settle_stays (s : State) (b : Block) (w : Warp) (x : PcSel) (fuel : Nat) (hl : (w.slot x).live = true)
    (hp : (w.slot x).parkedJoin = false) (hj : w.j ≠ some (w.slot x).pc) : (s.settle b w fuel).slot x = w.slot x := by
  cases fuel with
  | zero => rfl
  | succ n =>
    have h0 : ∀ (u : Warp) (y : PcSel), (u.slot x) = w.slot x → u.j = w.j →
        (parkAtJoin u y).slot x = w.slot x ∧ (parkAtJoin u y).j = w.j := by
      intro u y hu hj'
      unfold parkAtJoin
      dsimp only
      split
      · rename_i hc
        simp only [Bool.and_eq_true, decide_eq_true_eq] at hc
        cases x <;> cases y <;> simp_all [Warp.slot, Warp.setSlot]
      · exact ⟨hu, hj'⟩
    obtain ⟨a1, a2⟩ := h0 w .a rfl rfl
    obtain ⟨b1, b2⟩ := h0 _ .b a1 a2
    unfold State.settle
    extract_lets late u done
    have u1 : u.slot x = w.slot x := b1
    split
    · exact u1
    · cases x
      · have e1 : u.a.live = true := by rw [show u.a = _ from u1]; exact hl
        have e2 : u.a.parkedJoin = false := by rw [show u.a = _ from u1]; exact hp
        simp only [e1, e2, Bool.true_and, Bool.false_and, if_true]
        split <;> exact u1
      · have e1 : u.b.live = true := by rw [show u.b = _ from u1]; exact hl
        have e2 : u.b.parkedJoin = false := by rw [show u.b = _ from u1]; exact hp
        simp only [e1, e2, Bool.and_true, Bool.and_false, if_true]
        split
        · simp_all
        · split <;> first | exact u1 | simp_all

theorem commitOne_slot (w : Warp) (h : Held) (x : PcSel) : (commitOne w h).slot x = w.slot x := by
  cases h with
  | s r v => cases x <;> rfl
  | v r m l => cases x <;> rfl
  | p r m b => cases x <;> simp [commitOne, Warp.slot]
  | special n v => simp only [commitOne]; split <;> cases x <;> rfl
  | walk k b d =>
    by_cases h0 : b = 0 <;> by_cases h1 : 16 ≤ w.units <;> cases x <;>
      simp only [commitOne, h0, h1, if_true, if_false, Warp.slot, Warp.setV_a, Warp.setV_b]

theorem commitOne_j (w : Warp) (h : Held) : (commitOne w h).j = w.j := by
  cases h with
  | s r v => rfl
  | v r m l => rfl
  | p r m b => simp [commitOne]
  | special n v => simp only [commitOne]; split <;> rfl
  | walk k b d => by_cases h0 : b = 0 <;> by_cases h1 : 16 ≤ w.units <;>
      simp only [commitOne, h0, h1, if_true, if_false, Warp.setV_j]

theorem commits_slot (l : List Held) (w : Warp) (x : PcSel) : (l.foldl commitOne w).slot x = w.slot x ∧ (l.foldl commitOne w).j = w.j := by
  induction l generalizing w with
  | nil => exact ⟨rfl, rfl⟩
  | cons h l ih =>
    simp only [List.foldl_cons]
    exact ⟨((ih _).1).trans (commitOne_slot w h x), ((ih _).2).trans (commitOne_j w h)⟩

/-- Where the slot stands behind an issue. -/
theorem advanceTo_moves (s : State) (x : Site) (n : Nat) (w : Warp) (target : Option DWord)
    (hm : (w.slot x.sel).mask = x.sl.mask) (hpc : (w.slot x.sel).pc = x.sl.pc)
    (hp : (w.slot x.sel).parkedJoin = x.sl.parkedJoin) (hj : w.j = x.w.j) (u : Warp)
    (hu : (s.advanceTo x n w target).warp? x.wid = some u) : x.Moves n target u := by
  unfold Site.Moves
  unfold State.advanceTo at hu
  generalize s.stamp x = p at hu
  obtain ⟨s', st⟩ := p
  dsimp -zeta only at hu ⊢
  extract_lets src sl w0 w1 w2 w3 src' at hu
  extract_lets sl' pc'
  by_cases hc : (decide (x.k + n ≤ x.n) && target.isNone) = true
  · have hc' : x.k + n ≤ x.n ∧ target = none := by simpa using hc
    rw [if_pos hc, warp?_setWarp] at hu
    rw [if_pos hc']
    cases hu
    simp only [sl', Warp.slot_setSlot_self, sl, src, hm, hpc, and_self]
  · have hc' : ¬(x.k + n ≤ x.n ∧ target = none) := by simpa using hc
    rw [if_neg hc] at hu
    rw [if_neg hc']
    intro hl hpj hne
    set w4 := w3.setSlot x.sel { src' with via := target.map fun _ => x.addr } with hw4
    have m1 : (w1.slot x.sel) = sl := Warp.slot_setSlot_self _ _ _
    have m2 : (w2.slot x.sel) = sl := by
      simp only [w2]; split
      · rw [← m1]; cases x.sel <;> rfl
      · exact m1
    have j2 : w2.j = x.w.j := by
      have : w1.j = x.w.j := by rw [← hj]; simp only [w1, Warp.setSlot_j, w0]; split <;> rfl
      simp only [w2]; split <;> exact this
    have m3 : (commitHeld w2 x.sel).slot x.sel = { sl with held := [] } := by
      simp only [commitHeld, Warp.slot_setSlot_self, (commits_slot _ _ _).1, m2]
    have m4 : w4.slot x.sel =
        { sl with held := [], pc := pc', k := 0, clause := none, parkedWait := false, claimed := false, via := target.map fun _ => x.addr } := by
      simp only [hw4, Warp.slot_setSlot_self, src', w3, toClause, m3, pc']
    have j4 : w4.j = x.w.j := by
      simp only [hw4, Warp.setSlot_j, w3, toClause, commitHeld, (commits_slot _ w2 x.sel).2, j2]
    have k1 : (w4.slot x.sel).live = true := by rw [m4]; simpa [PcSlot.live, sl, src, hm] using hl
    have k2 : (w4.slot x.sel).parkedJoin = false := by rw [m4]; simpa [sl, src, hp] using hpj
    have k3 : w4.j ≠ some (w4.slot x.sel).pc := by rw [m4, j4]; exact hne
    have k4 := settle_stays s' x.b w4 x.sel (w4.dsp + 2) k1 k2 k3
    unfold State.settled at hu
    extract_lets v t t' at hu
    have kv : v.slot x.sel = w4.slot x.sel := k4
    have : (v.a.live || v.b.live) = true := by
      have : (v.slot x.sel).live = true := by rw [kv]; exact k1
      cases hx : x.sel <;> rw [hx] at this <;> simp only [Warp.slot] at this <;> simp [this]
    rw [if_pos this, warp?_setWarp] at hu
    have hu : v = u := by simpa using hu
    simp only [sl', ← hu, kv, m4, sl, src, hm, and_self]

/-- An instruction whose meaning advances past it completes: against the base, its warp writes only the listed registers, and what
holds of the registers behind it holds of `good`. -/
theorem completes_of_advance {i : Instr} {s s1 : State} {x : Site} {n : Nat} {w base : Warp} {target : Option DWord}
    {ds dv dp : List Nat} {good : Warp → Prop} (l : List (Instr × Arg))
    (he : exec i s = .next (({ s1 with inflight := s1.inflight ++ l } : State).advanceTo x n w target))
    (hm : (w.slot x.sel).mask = x.sl.mask) (hpc : (w.slot x.sel).pc = x.sl.pc)
    (hp : (w.slot x.sel).parkedJoin = x.sl.parkedJoin) (hj : w.j = x.w.j)
    (ha : AgreeBut ds dv dp base (commitHeld w x.sel))
    (hg : ∀ u : Warp, (∀ r, u.sreg r = (commitHeld w x.sel).sreg r) → (∀ r, u.vreg r = (commitHeld w x.sel).vreg r) →
      (∀ r, u.preg r = (commitHeld w x.sel).preg r) → good u) :
    CompletesFrom i s s1 x n target base ds dv dp good := by
  obtain ⟨u, hu, ht, v, hv, hc⟩ := advanceTo_spec { s1 with inflight := s1.inflight ++ l } x n w target
  refine ⟨_, u, he, ?_, hu, advanceTo_moves _ x n w target hm hpc hp hj u hu, ?_, ?_⟩
  · obtain ⟨h1, h2, h3, h4, h5, h6, h7, h8, h9, h10, h11, h12, h13, h14, ⟨m, h15⟩, h16⟩ := ht
    exact ⟨h1, h2, h3, h4, h5, h6, h7, h8, h9, h10, h11, h12, h13, h14, ⟨l ++ m, by rw [h15]; simp⟩, h16⟩
  · rcases hc with hc | hc <;> rw [hc]
    · exact ha.light_right hv
    · exact (ha.light_right hv).exit
  · rcases hc with hc | hc <;> rw [hc]
    · exact hg _ hv.sreg hv.vreg hv.preg
    · exact hg _ hv.sreg hv.vreg hv.preg

end Sys2Proof.Machine
end

