-- ==== Sys2Proof/Laws/Memory.lean ====
section
/-! SUPPORT. Laws of memory: what a write leaves, and that every operation keeps the canonical form, the operations over places too. -/

namespace Sys2Proof.Machine

/-- The canonical form, said with a lower bound for the addresses. -/
theorem Memory.wfCells_cons (r : Nat → Byte) (a : Nat) (v : Byte) (t : List Host.Cell) :
    Memory.wfCells r ((a, v) :: t) = true ↔ v ≠ r a ∧ (∀ c ∈ t, a < c.1) ∧ Memory.wfCells r t = true := by
  induction t generalizing a v with
  | nil => simp [Memory.wfCells]
  | cons c t ih =>
    obtain ⟨b, u⟩ := c
    simp only [Memory.wfCells, Bool.and_eq_true, bne_iff_ne, decide_eq_true_eq, List.mem_cons, forall_eq_or_imp]
    constructor
    · rintro ⟨⟨hv, hab⟩, hw⟩
      have hb := (ih b u).mp hw
      exact ⟨hv, ⟨hab, fun c hc => lt_trans hab (hb.2.1 c hc)⟩, hw⟩
    · rintro ⟨hv, ⟨hab, -⟩, hw⟩
      exact ⟨⟨hv, hab⟩, hw⟩

/-- An address below every listed one reads as unlisted. -/
theorem Memory.readCells_below (r : Nat → Byte) (t : List Host.Cell) (a : Nat) (h : ∀ c ∈ t, a < c.1) : Memory.readCells r t a = r a := by
  cases t with
  | nil => rfl
  | cons c t =>
    obtain ⟨b, u⟩ := c
    have hb : a < b := h (b, u) (by simp)
    simp [Memory.readCells, hb, hb.ne']

theorem Memory.mem_writeCells (r : Nat → Byte) (t : List Host.Cell) (a : Nat) (v : Byte) (c : Host.Cell) (h : c ∈ Memory.writeCells r t a v) :
    c.1 = a ∨ c ∈ t := by
  induction t with
  | nil =>
    unfold Memory.writeCells at h
    split at h <;> simp_all
  | cons d t ih =>
    obtain ⟨b, u⟩ := d
    unfold Memory.writeCells at h
    split_ifs at h <;> simp only [List.mem_cons] at h ⊢ <;> grind

/-- A write keeps the canonical form. -/
theorem Memory.writeCells_wf (r : Nat → Byte) (t : List Host.Cell) (a : Nat) (v : Byte) (h : Memory.wfCells r t = true) :
    Memory.wfCells r (Memory.writeCells r t a v) = true := by
  induction t with
  | nil =>
    unfold Memory.writeCells
    split <;> simp_all [Memory.wfCells]
  | cons d t ih =>
    obtain ⟨b, u⟩ := d
    obtain ⟨hu, hb, ht⟩ := (Memory.wfCells_cons r b u t).mp h
    unfold Memory.writeCells
    split_ifs with h1 h2 h3 h4
    · exact h
    · exact (Memory.wfCells_cons _ _ _ _).mpr ⟨h2, by
        intro c hc
        rcases List.mem_cons.mp hc with rfl | hc
        · exact h1
        · exact lt_trans h1 (hb c hc), h⟩
    · exact ht
    · exact (Memory.wfCells_cons _ _ _ _).mpr ⟨h4, h3 ▸ hb, ht⟩
    · refine (Memory.wfCells_cons _ _ _ _).mpr ⟨hu, fun c hc => ?_, ih ht⟩
      rcases Memory.mem_writeCells r t a v c hc with hca | hc
      · omega
      · exact hb c hc

theorem Memory.write_wf (m : Memory) (a : Nat) (v : Byte) (h : m.wf = true) : (m.write a v).wf = true :=
  Memory.writeCells_wf m.base m.cells a v h

/-- A read behind a write: the byte written, and every other as before. -/
theorem Memory.readCells_writeCells (r : Nat → Byte) (t : List Host.Cell) (a b : Nat) (v : Byte) (h : Memory.wfCells r t = true) :
    Memory.readCells r (Memory.writeCells r t a v) b = if a = b then v else Memory.readCells r t b := by
  induction t with
  | nil =>
    unfold Memory.writeCells
    split_ifs with h1 h2 h2 <;> simp_all [Memory.readCells]
  | cons d t ih =>
    obtain ⟨c, u⟩ := d
    obtain ⟨-, hc, ht⟩ := (Memory.wfCells_cons r c u t).mp h
    unfold Memory.writeCells
    have below := fun (x : Nat) (hx : x ≤ c) => Memory.readCells_below r t x fun e he => lt_of_le_of_lt hx (hc e he)
    split_ifs with h1 h2 h3 h4 h5 h6 h7 <;> (try simp only [Memory.readCells]) <;> grind

theorem Memory.read_write (m : Memory) (a b : Nat) (v : Byte) (h : m.wf = true) :
    (m.write a v).read b = if a = b then v else m.read b :=
  Memory.readCells_writeCells m.base m.cells a b v h

theorem Memory.read_write_self (m : Memory) (a : Nat) (v : Byte) (h : m.wf = true) : (m.write a v).read a = v := by
  rw [Memory.read_write m a a v h, if_pos rfl]

theorem Memory.read_write_ne (m : Memory) (a b : Nat) (v : Byte) (h : m.wf = true) (hab : a ≠ b) : (m.write a v).read b = m.read b := by
  rw [Memory.read_write m a b v h, if_neg hab]

theorem Memory.filter_wf (r : Nat → Byte) (p : Host.Cell → Bool) (t : List Host.Cell) (h : Memory.wfCells r t = true) :
    Memory.wfCells r (t.filter p) = true := by
  induction t with
  | nil => rfl
  | cons d t ih =>
    obtain ⟨b, u⟩ := d
    obtain ⟨hu, hb, ht⟩ := (Memory.wfCells_cons r b u t).mp h
    rw [List.filter_cons]
    split
    · exact (Memory.wfCells_cons _ _ _ _).mpr ⟨hu, fun c hc => hb c (List.mem_filter.mp hc).1, ih ht⟩
    · exact ih ht

/-- A read behind a filter of ranges: nothing in the range, and every other byte as before. -/
theorem Memory.readCells_filter (r : Nat → Byte) (lo hi a : Nat) (t : List Host.Cell) (h : Memory.wfCells r t = true) :
    Memory.readCells r (t.filter fun c => decide (c.1 < lo) || decide (hi ≤ c.1)) a =
      if lo ≤ a ∧ a < hi then r a else Memory.readCells r t a := by
  induction t with
  | nil => simp [Memory.readCells]
  | cons d t ih =>
    obtain ⟨c, u⟩ := d
    obtain ⟨-, hc, ht⟩ := (Memory.wfCells_cons r c u t).mp h
    have below := fun (hx : a ≤ c) => Memory.readCells_below r t a fun e he => lt_of_le_of_lt hx (hc e he)
    have ih := ih ht
    rw [List.filter_cons]
    split <;> simp only [Memory.readCells] at * <;> grind

/-- In a range that is cleared an unlisted address reads as one that has lost nothing, outside it as before. -/
theorem Memory.base_clear (m : Memory) (lo hi a : Nat) :
    (m.clear lo hi).base a = if lo ≤ a ∧ a < hi then unlisted else m.base a := by
  unfold Memory.base Memory.clear
  by_cases hany : m.wiped.any fun r => decide (r.1 < hi) && decide (lo < r.2.1)
  · simp only [hany, if_true, List.find?_cons]
    by_cases h1 : lo ≤ a <;> by_cases h2 : a < hi <;> simp [h1, h2]
  · simp only [hany, if_false, Bool.false_eq_true]
    by_cases hin : lo ≤ a ∧ a < hi
    · have none_ : m.wiped.find? (fun r => decide (r.1 ≤ a) && decide (a < r.2.1)) = none := by
        refine List.find?_eq_none.mpr fun r hr hx => hany (List.any_eq_true.mpr ⟨r, hr, ?_⟩)
        simp only [Bool.and_eq_true, decide_eq_true_eq] at hx ⊢
        omega
      rw [none_, if_pos hin]
    · rw [if_neg hin]

/-- Outside the bytes that lose their contents an unlisted address reads as before. -/
theorem Memory.base_wipe (m : Memory) (lo hi e a : Nat) :
    (m.wipe lo hi e).base a = if lo ≤ a ∧ a < hi then Config.lostByte e a else m.base a := by
  unfold Memory.base Memory.wipe
  simp only [List.find?_cons]
  by_cases h1 : lo ≤ a <;> by_cases h2 : a < hi <;> simp [h1, h2]

/-- Two readings of unlisted addresses that agree on the addresses of a list give it the same form. -/
theorem Memory.wfCells_congr (r q : Nat → Byte) (t : List Host.Cell) (h : ∀ c ∈ t, r c.1 = q c.1) : Memory.wfCells r t = Memory.wfCells q t := by
  induction t with
  | nil => rfl
  | cons d t ih =>
    have hd := h d (by simp)
    have ht := ih fun c hc => h c (List.mem_cons_of_mem _ hc)
    obtain ⟨c, u⟩ := d
    cases t with
    | nil => simpa [Memory.wfCells] using congrArg (u != ·) hd
    | cons e t =>
      obtain ⟨b, v⟩ := e
      simp only [Memory.wfCells, ht]
      rw [show r c = q c from hd]

/-- What stays listed when a range is taken out is listed canonically, where unlisted addresses outside the range read as before. -/
theorem Memory.cut_wf (m : Memory) (lo hi : Nat) (r : Nat → Byte) (h : m.wf = true) (hr : ∀ a, ¬(lo ≤ a ∧ a < hi) → r a = m.base a) :
    Memory.wfCells r (m.cells.filter fun c => decide (c.1 < lo) || decide (hi ≤ c.1)) = true := by
  have k := Memory.filter_wf m.base (fun c => decide (c.1 < lo) || decide (hi ≤ c.1)) m.cells h
  rw [← k]
  refine Memory.wfCells_congr _ _ _ fun c hc => hr c.1 ?_
  have := (List.mem_filter.mp hc).2
  simp only [Bool.or_eq_true, decide_eq_true_eq] at this
  omega

/-- Clearing a range keeps the canonical form. -/
theorem Memory.clear_wf (m : Memory) (lo hi : Nat) (h : m.wf = true) : (m.clear lo hi).wf = true :=
  Memory.cut_wf m lo hi _ h fun a ha => by rw [Memory.base_clear, if_neg ha]

/-- The loss of a range's contents keeps the canonical form (R69). -/
theorem Memory.wipe_wf (m : Memory) (lo hi e : Nat) (h : m.wf = true) : (m.wipe lo hi e).wf = true :=
  Memory.cut_wf m lo hi _ h fun a ha => by rw [Memory.base_wipe, if_neg ha]

/-- A read behind a clear: an unlisted byte in the range, and every other byte as before. -/
theorem Memory.read_clear (m : Memory) (lo hi a : Nat) (h : m.wf = true) :
    (m.clear lo hi).read a = if lo ≤ a ∧ a < hi then unlisted else m.read a := by
  have k := Memory.clear_wf m lo hi h
  have e : ∀ r q : Nat → Byte, ∀ t : List Host.Cell, (∀ x, ¬(lo ≤ x ∧ x < hi) → r x = q x) → ¬(lo ≤ a ∧ a < hi) →
      Memory.readCells r t a = Memory.readCells q t a := by
    intro r q t hx ha
    induction t with
    | nil => exact hx a ha
    | cons d t ih => simp only [Memory.readCells, ih, hx a ha]
  have f := Memory.readCells_filter m.base lo hi a m.cells h
  by_cases hin : lo ≤ a ∧ a < hi
  · rw [if_pos hin, ← if_pos (t := unlisted) (e := m.base a) hin, ← Memory.base_clear]
    have := Memory.readCells_filter _ lo hi a _ k
    simp only [hin, and_self, if_true] at this
    rw [← this]
    simp [Memory.read, Memory.clear, List.filter_filter]
  · rw [if_neg hin]
    rw [if_neg hin] at f
    exact (e _ _ _ (fun x hx => by rw [Memory.base_clear, if_neg hx]) hin).trans f

/-- Reset memory lists nothing. -/
theorem Memory.reset_wf : State.reset.mem.wf = true := rfl

namespace State

/-! The operations over places: runs at their homes, in a package's boot space, in an array. -/

theorem homePut_wf (s : State) (d : DieId) (pa : Nat) (b : Byte) (h : s.mem.wf = true) : (s.homePut d pa b).mem.wf = true := by
  unfold homePut
  split
  · exact Memory.write_wf _ _ _ h
  · exact h

/-- One byte at its home changes nothing but memory. -/
theorem homePut_homeAt (s : State) (d e : DieId) (pa qa : Nat) (b : Byte) : (s.homePut d pa b).homeAt e qa = s.homeAt e qa := by
  unfold homePut
  split <;> rfl

theorem homePuts_wf (bs : List Byte) : ∀ (s : State) (d : DieId) (pa : Nat), s.mem.wf = true → (s.homePuts d pa bs).mem.wf = true := by
  induction bs with
  | nil => exact fun s d pa h => h
  | cons b bs ih => exact fun s d pa h => ih _ _ _ (homePut_wf s d pa b h)

/-- A run at its homes leaves every byte but those of its places. -/
theorem homePuts_read (bs : List Byte) (a : Nat) : ∀ (s : State) (d : DieId) (pa : Nat), s.mem.wf = true →
    (∀ j, j < bs.length → (s.homeAt d (pa + j)).map physKey ≠ some a) → (s.homePuts d pa bs).mem.read a = s.mem.read a := by
  induction bs with
  | nil => exact fun s d pa _ _ => rfl
  | cons b bs ih =>
    intro s d pa h k
    have k0 := k 0 (by simp)
    rw [homePuts, ih _ _ _ (homePut_wf s d pa b h) fun j hj => by
      rw [homePut_homeAt, show pa + 1 + j = pa + (j + 1) by omega]
      exact k (j + 1) (by simpa using hj)]
    unfold homePut
    split
    · next e =>
      rw [Nat.add_zero, e] at k0
      exact Memory.read_write_ne _ _ _ _ h (by simpa using k0)
    · rfl

theorem bootPuts_wf (bs : List Byte) : ∀ (s : State) (p b : Nat), s.mem.wf = true → (s.bootPuts p b bs).mem.wf = true := by
  induction bs with
  | nil => exact fun s p b h => h
  | cons x bs ih => exact fun s p b h => ih _ _ _ (Memory.write_wf s.mem _ _ h)

theorem scratchPut_wf (bs : List Byte) : ∀ (s : State) (b : Block) (o : Nat), s.mem.wf = true → (s.scratchPut b o bs).mem.wf = true := by
  induction bs with
  | nil => exact fun s b o h => h
  | cons x bs ih => exact fun s b o h => ih _ _ _ (Memory.write_wf s.mem _ _ h)

/-- A run in a scratchpad leaves every byte but those of its places in the array. -/
theorem scratchPut_read (bs : List Byte) (a : Nat) : ∀ (s : State) (b : Block) (o : Nat), s.mem.wf = true →
    (∀ j, j < bs.length → arrayKey b.core (b.arrayByte (o + j)) ≠ a) → (s.scratchPut b o bs).mem.read a = s.mem.read a := by
  induction bs with
  | nil => exact fun s b o _ _ => rfl
  | cons x bs ih =>
    intro s b o h k
    rw [scratchPut, ih _ _ _ (Memory.write_wf s.mem _ _ h) fun j hj => by
      rw [show o + 1 + j = o + (j + 1) by omega]
      exact k (j + 1) (by simpa using hj)]
    exact Memory.read_write_ne _ _ _ _ h (k 0 (by simp))

theorem deviceWrite_wf (s : State) (c : CoreId) (pa : Nat) (bs : List Byte) (h : s.mem.wf = true) : (s.deviceWrite c pa bs).mem.wf = true :=
  homePuts_wf bs s c.dieId pa h

end State

end Sys2Proof.Machine
end

