-- ==== Sys2Proof/Laws/Operands.lean ====
section
/-! SUPPORT. The schemes of the scalar and vector instructions complete on operands that are ready. -/

namespace Sys2Proof.Machine

/-- A site is made of its state's warp and block. -/
theorem siteOf_spec {s : State} {x : Site} (h : s.siteOf = some x) :
    s.warp? x.wid = some x.w ∧ s.block? x.w.block = some x.b ∧ x.sl = x.w.slot x.sel ∧ s.site = some (x.wid, x.sel) := by
  unfold State.siteOf at h
  split at h
  · simp at h
  · split at h
    · simp at h
    · split at h
      · simp at h
      · rename_i h1 _ _ h2 _ _ h3
        simp only [Option.some.injEq] at h
        subst h
        exact ⟨h2, h3, rfl, h1⟩

theorem atSite_some {s : State} {x : Site} (h : s.siteOf = some x) (f : Site → Result) : s.atSite f = f x := by
  simp [State.atSite, h]

/-- Ready operands pass the checks of R242. -/
theorem regCheck_ready (s : State) (x : Site) (act : Mask) (vs : List (Nat × Bool)) (ss ds : List Nat) (long : Bool)
    (h : sourcesReady x act vs ss = true) (hd : ds.all (destReady s x) = true) : s.regCheck x act vs ss ds long = none := by
  simp only [sourcesReady, sourceReady, Bool.and_eq_true, List.all_eq_true, Prod.forall] at h
  obtain ⟨hv, hs⟩ := h
  simp only [List.all_eq_true, destReady, Bool.and_eq_true] at hd
  have h1 : (!((vs.map (·.1)) ++ ds).all (vectorOk x.w) || !ss.all scalarOk) = false := by
    simp only [Bool.or_eq_false_iff, Bool.not_eq_false', List.all_eq_true, List.mem_append, List.mem_map, Prod.exists]
    refine ⟨?_, hs⟩
    rintro r (⟨a, b, hm, rfl⟩ | hm)
    · exact (hv a b hm).1.1
    · exact (hd r hm).1.1.1
  have h2 : (vs.any fun v => isEmpty x.w v.1) = false := by
    simp only [List.any_eq_false, Prod.forall]
    intro a b hm
    simpa using (hv a b hm).1.2
  have h3 : (vs.any fun v => isEmpty x.w v.1 && (v.2 || orphaned x.w v.1)) = false := by
    simp only [List.any_eq_false, Prod.forall, List.any_eq_false] at h2 ⊢
    intro a b hm
    simp [h2 a b hm]
  have h4 : (ds.any fun r => (x.w.boundWalker r).isNone && (!(x.w.vreg r).full || s.readsReg x.wid r)) = false := by
    simp only [List.any_eq_false]
    intro r hm
    simpa [(hd r hm).1.2] using fun _ => (hd r hm).2
  have h5 : (vs.filterMap fun v => if (x.w.boundWalker v.1).isNone then (x.w.vreg v.1).poison else none) = [] := by
    simp only [List.filterMap_eq_nil_iff, Prod.forall]
    intro a b hm
    have := (hv a b hm).2
    cases hb : x.w.boundWalker a with
    | none => rw [hb] at this; simpa using this
    | some k => simp
  have h6 : ds.filterMap (fun r => x.w.boundWalker r) = [] := by
    simp only [List.filterMap_eq_nil_iff]
    intro r hm
    have := (hd r hm).1.1.2
    simpa using this
  have h7 : ∀ k ∈ vs.filterMap (fun v => x.w.boundWalker v.1), isInput x.w k = true ∧
      ∀ f l, (x.w.walker k).pre = f :: l → f.bad &&& act = 0 := by
    intro k hk
    simp only [List.mem_filterMap, Prod.exists] at hk
    obtain ⟨a, b, hm, he⟩ := hk
    have := (hv a b hm).2
    rw [he] at this
    simp only [Bool.and_eq_true] at this
    refine ⟨this.1, fun f l hp => ?_⟩
    have h8 := this.2
    rw [hp] at h8
    simpa using h8
  unfold State.regCheck
  dsimp only
  rw [if_neg (by simp only [h1]; decide), if_neg (by simp only [h3]; decide), if_neg (by simp only [h2, h4]; decide), h5, h6]
  dsimp only
  have h9 : (vs.filterMap fun v => x.w.boundWalker v.1).any (fun k => !isInput x.w k) = false := by
    simp only [List.any_eq_false]
    intro k hk
    simp [(h7 k hk).1]
  rw [if_neg (by simp [h9])]
  split
  · rename_i k hf
    have hk := List.mem_of_find?_eq_some hf
    have ht := List.find?_some hf
    cases hp : (x.w.walker k).pre with
    | nil => rfl
    | cons f l => rw [hp] at ht; simp [(h7 k hk).2 f l hp] at ht
  · rfl

/-! Held results behind a commit. -/

theorem commitHeld_hold (x : Site) (h : Held) (hs : x.sl = x.w.slot x.sel) :
    Light (commitOne x.done h) (commitHeld (x.hold h) x.sel) := by
  simp only [commitHeld, Site.hold, Warp.slot_setSlot_self, List.foldl_append, List.foldl_cons, List.foldl_nil]
  refine Light.trans ?_ (Light.setSlot _ _ _)
  refine Light.commitOne ?_ h
  rw [hs]
  exact (Light.setSlot _ _ _).symm.trans ((Light.setSlot x.w x.sel { x.w.slot x.sel with held := (x.w.slot x.sel).held ++ [h] }).commits _)

theorem AgreeBut.refl (w : Warp) : AgreeBut [] [] [] w w := ⟨fun _ _ => rfl, fun _ _ => rfl, fun _ _ => rfl, rfl, .inl ⟨rfl, rfl, rfl⟩⟩

theorem setS_agree (w : Warp) (d : Nat) (v : Word) : AgreeBut [d] [] [] w (w.setS d v) := by
  refine ⟨fun r hr => ?_, fun _ _ => rfl, fun _ _ => rfl, rfl, .inl ⟨rfl, rfl, rfl⟩⟩
  rw [Warp.sreg_setS, if_neg]; simpa [eq_comm] using hr

theorem setV_agree (w : Warp) (d : Nat) (v : VReg) : AgreeBut [] [d] [] w (w.setV d v) := by
  refine ⟨fun _ _ => rfl, fun r hr => ?_, fun _ _ => rfl, rfl, .inl ⟨rfl, rfl, rfl⟩⟩
  rw [Warp.vreg_setV, if_neg]; simpa [eq_comm] using hr

theorem putP_agree (w : Warp) (d : Nat) (m b : Mask) : AgreeBut [] [] [d] w (w.putP d m b) := by
  refine ⟨fun _ _ => by simp, fun _ _ => by simp, fun r hr => ?_, ?_, .inl ⟨by simp, by simp, by simp⟩⟩
  · rw [Warp.preg_putP, if_neg]; rintro ⟨rfl, -⟩; simp at hr
  · unfold Warp.putP; split <;> rfl

theorem hold_slot (x : Site) (h : Held) : ((x.hold h).slot x.sel) = { x.sl with held := x.sl.held ++ [h] } :=
  Warp.slot_setSlot_self _ _ _

/-- The scheme of the scalar instructions. -/
theorem scalarDone_of {i : Instr} {n : Nat} {rs : List Nat} {d : Nat} {f : Warp → Word}
    (he : ∀ s, exec i s = s.scalarOp n rs d f) : ScalarDone i n rs d f := by
  intro s x hx hr
  have hs := (siteOf_spec hx).2.2.1
  have hc := commitHeld_hold x (.s d (f x.w)) hs
  refine completes_of_advance (w := x.hold (.s d (f x.w))) [] ?_ (by rw [hold_slot]) (by rw [hold_slot]) (by rw [hold_slot])
    (by simp [Site.hold]) ((setS_agree _ _ _).light_right hc) ?_
  · rw [he, State.scalarOp, atSite_some hx, if_neg (by rw [hr]; decide)]
    simp [State.advance]
  · intro u h1 _ _
    rw [h1, hc.sreg]
    exact (Warp.sreg_setS _ _ _ _).trans (if_pos rfl)

/-! Input walkers. -/

theorem walker_stepWalker (w : Warp) (k q : Nat) :
    ((stepWalker w k).walker q).bound = (w.walker q).bound ∧ ((stepWalker w k).walker q).desc = (w.walker q).desc := by
  simp only [stepWalker, Warp.walker, getD_lput]
  split
  · subst_vars; exact ⟨rfl, rfl⟩
  · exact ⟨rfl, rfl⟩

theorem stepWalkers_spec (ks : List Nat) (w : Warp) :
    (∀ r, (ks.foldl stepWalker w).boundWalker r = w.boundWalker r) ∧ (∀ y, (ks.foldl stepWalker w).slot y = w.slot y) ∧
      (ks.foldl stepWalker w).j = w.j := by
  induction ks generalizing w with
  | nil => exact ⟨fun _ => rfl, fun _ => rfl, rfl⟩
  | cons k ks ih =>
    obtain ⟨h1, h2, h3⟩ := ih (stepWalker w k)
    refine ⟨fun r => (h1 r).trans ?_, fun y => (h2 y).trans (by cases y <;> rfl), h3.trans rfl⟩
    simp only [Warp.boundWalker, (walker_stepWalker w k _).1]

theorem posts_eq {α : Type} (ks : List α) (i : Instr) (g : α → Arg) (s : State) :
    ∃ l, ks.foldl (fun s k => s.postOnce i (g k)) s = { s with inflight := s.inflight ++ l } := by
  induction ks generalizing s with
  | nil => exact ⟨[], by simp⟩
  | cons k ks ih =>
    obtain ⟨l1, h1⟩ := postOnce_eq s i (g k)
    obtain ⟨l2, h2⟩ := ih (s.postOnce i (g k))
    refine ⟨l1 ++ l2, ?_⟩
    rw [List.foldl_cons, h2, h1]
    simp

theorem stepWalkers_vreg (ks : List Nat) (w : Warp) (r : Nat) : (ks.foldl stepWalker w).vreg r = w.vreg r := by
  induction ks generalizing w with
  | nil => rfl
  | cons k ks ih => exact (ih _).trans rfl

/-- No commit marks a register empty (R173). -/
theorem commitOne_full (w : Warp) (h : Held) (r : Nat) (hf : (w.vreg r).full = true) : ((commitOne w h).vreg r).full = true := by
  cases h with
  | v d m l =>
    simp only [commitOne, Warp.putLanes, Warp.vreg_setV]
    split
    · subst_vars; split <;> exact hf
    · exact hf
  | s d v => exact hf
  | p d m b => simpa [commitOne] using hf
  | special n v => simp only [commitOne]; split <;> exact hf
  | walk k b d =>
    have hz : ∀ q, ((w.setV q zeroReg).vreg r).full = true := fun q => by
      rw [Warp.vreg_setV]; split
      · rfl
      · exact hf
    by_cases h0 : b = 0 <;> by_cases h1 : 16 ≤ w.units <;> simp only [commitOne, h0, h1, if_true, if_false] <;>
      first | exact hf | exact hz _

theorem commitHeld_full (w : Warp) (x : PcSel) (r : Nat) (hf : (w.vreg r).full = true) : ((commitHeld w x).vreg r).full = true := by
  have h : ∀ l : List Held, ∀ w : Warp, (w.vreg r).full = true → ((l.foldl commitOne w).vreg r).full = true := by
    intro l
    induction l with
    | nil => exact fun _ h => h
    | cons h l ih => exact fun w hf => ih _ (commitOne_full w h r hf)
  have := h (w.slot x).held w hf
  simpa [commitHeld] using this

/-- Reading sources changes nothing of the state but what is due, and advances the walkers. -/
theorem stepInputs_spec (s : State) (x : Site) (rs : List Nat) :
    ∃ l, s.stepInputs x x.w rs = ({ s with inflight := s.inflight ++ l }, x.stepped rs) := by
  obtain ⟨l, h⟩ := posts_eq ((rs.filterMap x.w.boundWalker).eraseDups) .walkerFetch (fun k => { w := x.wid, n := k }) s
  exact ⟨l, by rw [State.stepInputs, h]; rfl⟩

theorem stepped_slot (x : Site) (rs : List Nat) (hs : x.sl = x.w.slot x.sel) : (x.stepped rs).slot x.sel = x.sl := by
  rw [hs]; exact (stepWalkers_spec _ _).2.1 _

theorem commitHeld_hold_withW (x : Site) (w : Warp) (h : Held) :
    Light (commitOne (commitHeld w x.sel) h) (commitHeld ((x.withW w).hold h) x.sel) :=
  commitHeld_hold (x.withW w) h rfl

theorem hold_withW_slot (x : Site) (w : Warp) (h : Held) :
    (((x.withW w).hold h).slot x.sel) = { w.slot x.sel with held := (w.slot x.sel).held ++ [h] } :=
  Warp.slot_setSlot_self _ _ _

/-- The scheme of the vector instructions with a vector result. -/
theorem registerDone_of {i : Instr} {v : VForm} {vs : List (Nat × Bool)} {ss : List Nat} {d : Nat} {f : Site → Nat → Word}
    (he : ∀ s x, s.siteOf = some x → ∃ g, exec i s = s.vectorOp v vs ss d g ∧ ∀ l, g x.w (v.act x) l = f x l) :
    RegisterDone i v vs ss d f := by
  intro s x hx hr hd
  obtain ⟨g, he, hg⟩ := he s x hx
  have hs := (siteOf_spec hx).2.2.1
  obtain ⟨l, hl⟩ := stepInputs_spec s x (vs.map (·.1))
  have hb : (x.stepped (vs.map (·.1))).boundWalker d = none := by
    simp only [destReady, Bool.and_eq_true] at hd
    rw [Site.stepped, (stepWalkers_spec _ _).1]
    simpa using hd.1.1.2
  have hsl := stepped_slot x (vs.map (·.1)) hs
  set w0 := x.stepped (vs.map (·.1)) with hw0
  have hc := commitHeld_hold_withW x w0 (.v d (v.act x) (lanesOf (g x.w (v.act x))))
  refine completes_of_advance (w := (x.withW w0).hold (.v d (v.act x) (lanesOf (g x.w (v.act x))))) l ?_ (by rw [hold_withW_slot, hsl])
    (by rw [hold_withW_slot, hsl]) (by rw [hold_withW_slot, hsl]) ?_ ((setV_agree _ _ _).light_right hc) ?_
  · rw [he, State.vectorOp, atSite_some hx]
    dsimp only
    rw [regCheck_ready s x (v.act x) vs ss [d] false hr (by simpa using hd)]
    dsimp only
    rw [hl]
    dsimp only
    rw [State.putResult, hb]
    rfl
  · simp only [Site.hold, Site.withW, Warp.setSlot_j]
    exact (stepWalkers_spec _ _).2.2
  · intro u _ h2 _
    have e : u.vreg d = if v.act x = 0 then (commitHeld w0 x.sel).vreg d else
        { (commitHeld w0 x.sel).vreg d with
          lanes := mergeLanes (v.act x) ((commitHeld w0 x.sel).vreg d).lanes (lanesOf (g x.w (v.act x))), poison := none } := by
      rw [h2, hc.vreg]
      exact (Warp.vreg_setV _ _ _ _).trans (if_pos rfl)
    have hf : ((commitHeld w0 x.sel).vreg d).full = true := by
      refine commitHeld_full _ _ _ ?_
      rw [hw0, Site.stepped, stepWalkers_vreg]
      simp only [destReady, Bool.and_eq_true] at hd
      exact hd.1.2
    by_cases h0 : v.act x = 0
    · rw [if_pos h0] at e
      exact ⟨by rw [e, hf], by rw [if_pos h0, e]; rfl, fun l _ => by rw [e, h0]; simp; rfl⟩
    · rw [if_neg h0] at e
      refine ⟨by rw [e]; exact hf, by rw [e, if_neg h0], fun l hl => ?_⟩
      rw [e]
      dsimp only
      rw [lane_mergeLanes _ _ _ _ hl, lane_lanesOf _ _ hl, hg]
      rfl

/-- Ready sources and an output walker in the place of the destination pass the checks of R242. -/
theorem regCheck_walker (s : State) (x : Site) (act : Mask) (vs : List (Nat × Bool)) (ss : List Nat) (d k : Nat)
    (h : sourcesReady x act vs ss = true) (hv : vectorOk x.w d = true) (hb : x.w.boundWalker d = some k) (hi : isInput x.w k = false) :
    s.regCheck x act vs ss [d] false = none := by
  have h0 := regCheck_ready s x act vs ss [] false h rfl
  unfold State.regCheck at h0 ⊢
  simp only [List.append_nil, List.any_nil, Bool.or_false, List.filterMap_nil, List.isEmpty_nil, Bool.not_true, Bool.and_false,
    List.all_append, List.all_cons, List.all_nil, hv, Bool.and_true, List.any_cons, hb, Option.isNone_some, Bool.false_and,
    List.filterMap_cons, hi, Bool.or_false] at h0 ⊢
  exact h0

theorem absorb_spec (s : State) (x : Site) (w : Warp) :
    (∀ y, (s.absorb x w).slot y = w.slot y) ∧ (s.absorb x w).j = w.j := by
  unfold State.absorb
  split
  · exact ⟨fun y => by cases y <;> rfl, rfl⟩
  · exact ⟨fun _ => rfl, rfl⟩

theorem putResult_walker {s s' : State} {x : Site} {w : Warp} {n d k : Nat} {act : Mask} {res : Lanes}
    (hb : w.boundWalker d = some k) (hw : s.walkStore (x.withW w) act [(k, res)] = .ok s') :
    s.putResult x w n d act res = .next (s'.advanceTo x n (s'.absorb x (stepWalker w k)) none) := by
  rw [State.putResult, hb]
  dsimp only
  rw [hw]
  rfl

theorem countP_not {α : Type} (p : α → Bool) (l : List α) : l.countP p + l.countP (fun y => !p y) = l.length := by
  rw [List.length_eq_countP_add_countP p]
  simp

/-- Stores whose places are all open are performed, and none faults (R184). -/
theorem walkStore_open {s : State} {x : Site} {act : Mask} {ys : List (Nat × Lanes)} (h : s.walkOpen x act ys = true) :
    s.walkStore x act ys = .ok (s.walkEnd x act ys) := by
  have hl : ((s.walkLooks x (State.walkLanes act ys)).2.walkPlaces x.core (s.walkLooks x (State.walkLanes act ys)).1).length =
      (s.walkLooks x (State.walkLanes act ys)).1.length := by
    simp only [State.walkOpen, Bool.and_eq_true, beq_iff_eq] at h
    exact h.1.1
  have hf : s.walkFaults x act ys = [] := by
    unfold State.walkFaults
    rw [List.filterMap_eq_nil_iff]
    intro y hy
    generalize (s.walkLooks x (State.walkLanes act ys)).2 = t at hl
    generalize (s.walkLooks x (State.walkLanes act ys)).1 = ls at hy hl
    simp only [State.walkPlaces, List.length_append, ← List.countP_eq_length_filter] at hl
    rw [countP_not] at hl
    have := (List.filterMap_length_eq_length.mp hl) y hy
    split at this <;> simp_all
  unfold State.walkStore
  simp only [hf, List.map_nil, List.min?_nil, h, if_true]

theorem walkerDone_of {i : Instr} {v : VForm} {vs : List (Nat × Bool)} {ss : List Nat} {d : Nat} {f : Site → Nat → Word}
    (he : ∀ s x, s.siteOf = some x → ∃ g, exec i s = s.vectorOp v vs ss d g ∧ ∀ l, g x.w (v.act x) l = f x l) :
    WalkerDone i v vs ss d f := by
  intro s x k hx hr hv hb hi at_ y res ho
  have hw : at_.walkStore y (v.act x) res = .ok (at_.walkEnd y (v.act x) res) := walkStore_open ho
  generalize at_.walkEnd y (v.act x) res = s' at hw ⊢
  simp only [at_, y, res] at hw ⊢
  obtain ⟨g, he, hg⟩ := he s x hx
  have hs := (siteOf_spec hx).2.2.1
  obtain ⟨l, hl⟩ := stepInputs_spec s x (vs.map (·.1))
  have hb' : (x.stepped (vs.map (·.1))).boundWalker d = some k := by
    rw [Site.stepped, (stepWalkers_spec _ _).1]; exact hb
  have hsl := stepped_slot x (vs.map (·.1)) hs
  have hj : (x.stepped (vs.map (·.1))).j = x.w.j := (stepWalkers_spec _ _).2.2
  have hfg : g x.w (v.act x) = f x := funext hg
  generalize x.stepped (vs.map (·.1)) = w0 at *
  have ha := absorb_spec s' x (stepWalker w0 k)
  have h1 := stepWalkers_spec [k] w0
  simp only [List.foldl_cons, List.foldl_nil] at h1
  have h2 : (s'.absorb x (stepWalker w0 k)).slot x.sel = x.sl := by rw [ha.1, h1.2.1, hsl]
  have h3 : (s'.absorb x (stepWalker w0 k)).j = x.w.j := by rw [ha.2, h1.2.2, hj]
  have h4 : exec i s = .next (s'.advanceTo x v.n (s'.absorb x (stepWalker w0 k)) none) := by
    rw [he, State.vectorOp, atSite_some hx]
    dsimp only
    rw [regCheck_walker s x (v.act x) vs ss d k hr hv hb hi]
    dsimp only
    rw [hl] at hw ⊢
    rw [hfg]
    exact putResult_walker hb' hw
  rw [show (x.withW w0).w = w0 from rfl]
  generalize hwe : s'.absorb x (stepWalker w0 k) = w at *
  exact completes_of_advance (w := w) [] (by simpa using h4) (by rw [h2]) (by rw [h2]) (by rw [h2]) h3 (AgreeBut.refl _) (fun _ _ _ _ => trivial)

theorem vectorDone_of {i : Instr} {v : VForm} {vs : List (Nat × Bool)} {ss : List Nat} {d : Nat} {f : Site → Nat → Word}
    (he : ∀ s x, s.siteOf = some x → ∃ g, exec i s = s.vectorOp v vs ss d g ∧ ∀ l, g x.w (v.act x) l = f x l) :
    VectorDone i v vs ss d f := ⟨registerDone_of he, walkerDone_of he⟩

theorem mergeMask_getLsbD (m a b : Mask) (l : Nat) (h : l < 32) :
    (mergeMask m a b).getLsbD l = if m.getLsbD l then b.getLsbD l else a.getLsbD l := by
  simp only [mergeMask, BitVec.getLsbD_or, BitVec.getLsbD_and, BitVec.getLsbD_not, h, decide_true, Bool.true_and]
  cases m.getLsbD l <;> simp

/-- The scheme of the vector instructions with a predicate result. -/
theorem predDone_of {i : Instr} {v : VForm} {vs : List (Nat × Bool)} {ss : List Nat} {d : Nat} {f : Site → Nat → Bool}
    (he : ∀ s x, s.siteOf = some x → ∃ g, exec i s = s.predOp v vs ss d g ∧ ∀ l, g x.w (v.act x) l = f x l) :
    PredDone i v vs ss d f := by
  intro s x hx hr
  obtain ⟨g, he, hg⟩ := he s x hx
  have hs := (siteOf_spec hx).2.2.1
  obtain ⟨l, hl⟩ := stepInputs_spec s x (vs.map (·.1))
  have hsl := stepped_slot x (vs.map (·.1)) hs
  set w0 := x.stepped (vs.map (·.1)) with hw0
  have hc := commitHeld_hold_withW x w0 (.p d (v.act x) (maskOf (g x.w (v.act x))))
  refine completes_of_advance (w := (x.withW w0).hold (.p d (v.act x) (maskOf (g x.w (v.act x))))) l ?_ (by rw [hold_withW_slot, hsl])
    (by rw [hold_withW_slot, hsl]) (by rw [hold_withW_slot, hsl]) ?_ ((putP_agree _ _ _ _).light_right hc) ?_
  · rw [he, State.predOp, atSite_some hx]
    dsimp only
    rw [regCheck_ready s x (v.act x) vs ss [] false hr rfl]
    dsimp only
    rw [hl]
    rfl
  · simp only [Site.hold, Site.withW, Warp.setSlot_j]
    exact (stepWalkers_spec _ _).2.2
  · intro u _ _ h3 l hl
    rw [h3, hc.preg]
    refine (congrArg (fun m : Mask => m.getLsbD l) (Warp.preg_putP _ _ _ _ _)).trans ?_
    by_cases h0 : d = 0
    · subst h0
      simp only [ne_eq, not_true_eq_false, and_false, if_false, if_true, Warp.preg, BitVec.getLsbD_allOnes, hl, decide_true]
    · simp only [h0, ne_eq, not_false_eq_true, and_self, if_true, if_false]
      rw [mergeMask_getLsbD _ _ _ _ hl, maskOf_getLsbD _ _ hl, hg]
      rfl

end Sys2Proof.Machine
end

