-- ==== Sys2Proof/Laws/PerInstr.lean ====
section
/-! SUPPORT. The families of LAWS.json: what holds of every instruction as syntax, one lemma for each constructor. -/

namespace Sys2Proof.Laws.Layout

/-- An instruction is one word without the bit L, or two words of which the first has it (R276, R279), and its class is one of those
that number its major so (R289-R296). A device event has no words. -/
def Statement (i : Instr) : Prop := ∀ c ws, encode i = some (c, ws) →
  ∃ w, c ∈ classOrder (majorOf w) ∧ ((ws = [w] ∧ longBit w = false) ∨ ∃ e, ws = [w, e] ∧ longBit w = true)

theorem longBit_first (l m : Nat) (low : BitVec 25) : longBit (first l m low) = (BitVec.ofNat 1 l).getLsbD 0 := by
  simp only [longBit, first, BitVec.getLsbD_append]; grind

theorem majorOf_first (l m : Nat) (low : BitVec 25) (h : m < 64) : majorOf (first l m low) = m := by
  have : majorOf (first l m low) = ((first l m low).extractLsb' 25 6).toNat := by
    simp [majorOf, BitVec.extractLsb'_toNat, Nat.shiftRight_eq_div_pow]
  have e : (first l m low).extractLsb' 25 6 = BitVec.ofNat 6 m := by
    apply BitVec.eq_of_getLsbD_eq
    intro j hj
    simp only [first, BitVec.getLsbD_extractLsb', BitVec.getLsbD_append]
    grind
  rw [this, e, BitVec.toNat_ofNat, Nat.mod_eq_of_lt h]

theorem event {i : Instr} (h : encode i = none) : Statement i := by
  intro c ws hs
  simp [h] at hs

theorem one {i : Instr} {c : Cls} {m : Nat} {low : BitVec 25} (h : encode i = some (c, [first 0 m low])) (hm : m < 64)
    (hc : c ∈ classOrder m) : Statement i := by
  intro c' ws hs
  obtain ⟨rfl, rfl⟩ : c = c' ∧ [first 0 m low] = ws := by simpa [h] using hs
  exact ⟨_, by rwa [majorOf_first _ _ _ hm], .inl ⟨Eq.refl _, by rw [longBit_first]; decide⟩⟩

theorem two {i : Instr} {c : Cls} {m : Nat} {low : BitVec 25} {e : Word} (h : encode i = some (c, [first 1 m low, e])) (hm : m < 64)
    (hc : c ∈ classOrder m) : Statement i := by
  intro c' ws hs
  obtain ⟨rfl, rfl⟩ : c = c' ∧ [first 1 m low, e] = ws := by simpa [h] using hs
  exact ⟨_, by rwa [majorOf_first _ _ _ hm], .inr ⟨e, Eq.refl _, by rw [longBit_first]; decide⟩⟩

theorem nop (r : Reg) : Statement (.nop r) := one (Eq.refl _) (by decide) (by decide)
theorem smov (r : Reg) : Statement (.smov r) := one (Eq.refl _) (by decide) (by decide)
theorem smovi (r : Ri) : Statement (.smovi r) := one (Eq.refl _) (by decide) (by decide)
theorem smoviXi (r : Ri) (x : Word) : Statement (.smoviXi r x) := two (Eq.refl _) (by decide) (by decide)
theorem sadd (r : Reg) : Statement (.sadd r) := one (Eq.refl _) (by decide) (by decide)
theorem ssub (r : Reg) : Statement (.ssub r) := one (Eq.refl _) (by decide) (by decide)
theorem smul (r : Reg) : Statement (.smul r) := one (Eq.refl _) (by decide) (by decide)
theorem smulhi (r : Reg) : Statement (.smulhi r) := one (Eq.refl _) (by decide) (by decide)
theorem sand (r : Reg) : Statement (.sand r) := one (Eq.refl _) (by decide) (by decide)
theorem sor (r : Reg) : Statement (.sor r) := one (Eq.refl _) (by decide) (by decide)
theorem sxor (r : Reg) : Statement (.sxor r) := one (Eq.refl _) (by decide) (by decide)
theorem sshl (r : Reg) : Statement (.sshl r) := one (Eq.refl _) (by decide) (by decide)
theorem sshr (r : Reg) : Statement (.sshr r) := one (Eq.refl _) (by decide) (by decide)
theorem ssar (r : Reg) : Statement (.ssar r) := one (Eq.refl _) (by decide) (by decide)
theorem saddi (r : Ri) : Statement (.saddi r) := one (Eq.refl _) (by decide) (by decide)
theorem saddiXi (r : Ri) (x : Word) : Statement (.saddiXi r x) := two (Eq.refl _) (by decide) (by decide)
theorem sandi (r : Ri) : Statement (.sandi r) := one (Eq.refl _) (by decide) (by decide)
theorem sandiXi (r : Ri) (x : Word) : Statement (.sandiXi r x) := two (Eq.refl _) (by decide) (by decide)
theorem smin (r : Reg) : Statement (.smin r) := one (Eq.refl _) (by decide) (by decide)
theorem smax (r : Reg) : Statement (.smax r) := one (Eq.refl _) (by decide) (by decide)
theorem sminn (r : Reg) : Statement (.sminn r) := one (Eq.refl _) (by decide) (by decide)
theorem smaxn (r : Reg) : Statement (.smaxn r) := one (Eq.refl _) (by decide) (by decide)
theorem scmp (r : Reg) : Statement (.scmp r) := one (Eq.refl _) (by decide) (by decide)
theorem scmpXr (r : Reg) (x : Xr) : Statement (.scmpXr r x) := two (Eq.refl _) (by decide) (by decide)
theorem sread (r : Reg) : Statement (.sread r) := one (Eq.refl _) (by decide) (by decide)
theorem swrite (r : Reg) : Statement (.swrite r) := one (Eq.refl _) (by decide) (by decide)
theorem bra (r : Br) : Statement (.bra r) := one (Eq.refl _) (by decide) (by decide)
theorem bz (r : Br) : Statement (.bz r) := one (Eq.refl _) (by decide) (by decide)
theorem bnz (r : Br) : Statement (.bnz r) := one (Eq.refl _) (by decide) (by decide)
theorem bltz (r : Br) : Statement (.bltz r) := one (Eq.refl _) (by decide) (by decide)
theorem bgez (r : Br) : Statement (.bgez r) := one (Eq.refl _) (by decide) (by decide)
theorem bru (r : Br) : Statement (.bru r) := one (Eq.refl _) (by decide) (by decide)
theorem brd (r : Br) (x : Word) : Statement (.brd r x) := two (Eq.refl _) (by decide) (by decide)
theorem brw (r : Br) : Statement (.brw r) := one (Eq.refl _) (by decide) (by decide)
theorem call (r : Br) : Statement (.call r) := one (Eq.refl _) (by decide) (by decide)
theorem callr (r : Reg) : Statement (.callr r) := one (Eq.refl _) (by decide) (by decide)
theorem ret (r : Reg) : Statement (.ret r) := one (Eq.refl _) (by decide) (by decide)
theorem jmpr (r : Reg) : Statement (.jmpr r) := one (Eq.refl _) (by decide) (by decide)
theorem exit (r : Reg) : Statement (.exit r) := one (Eq.refl _) (by decide) (by decide)
theorem take (r : Reg) : Statement (.take r) := one (Eq.refl _) (by decide) (by decide)
theorem vmov (r : Reg) : Statement (.vmov r) := one (Eq.refl _) (by decide) (by decide)
theorem vmovXr (r : Reg) (x : Xr) : Statement (.vmovXr r x) := two (Eq.refl _) (by decide) (by decide)
theorem vmovi (r : Ri) : Statement (.vmovi r) := one (Eq.refl _) (by decide) (by decide)
theorem vmoviXi (r : Ri) (x : Word) : Statement (.vmoviXi r x) := two (Eq.refl _) (by decide) (by decide)
theorem vmovs (r : Reg) : Statement (.vmovs r) := one (Eq.refl _) (by decide) (by decide)
theorem vmovsXr (r : Reg) (x : Xr) : Statement (.vmovsXr r x) := two (Eq.refl _) (by decide) (by decide)
theorem iadd (r : Reg) : Statement (.iadd r) := one (Eq.refl _) (by decide) (by decide)
theorem iaddXr (r : Reg) (x : Xr) : Statement (.iaddXr r x) := two (Eq.refl _) (by decide) (by decide)
theorem isub (r : Reg) : Statement (.isub r) := one (Eq.refl _) (by decide) (by decide)
theorem isubXr (r : Reg) (x : Xr) : Statement (.isubXr r x) := two (Eq.refl _) (by decide) (by decide)
theorem imul (r : Reg) : Statement (.imul r) := one (Eq.refl _) (by decide) (by decide)
theorem imulXr (r : Reg) (x : Xr) : Statement (.imulXr r x) := two (Eq.refl _) (by decide) (by decide)
theorem imulhi (r : Reg) : Statement (.imulhi r) := one (Eq.refl _) (by decide) (by decide)
theorem imulhiXr (r : Reg) (x : Xr) : Statement (.imulhiXr r x) := two (Eq.refl _) (by decide) (by decide)
theorem imad (r : Reg) (x : Xr) : Statement (.imad r x) := two (Eq.refl _) (by decide) (by decide)
theorem imin (r : Reg) : Statement (.imin r) := one (Eq.refl _) (by decide) (by decide)
theorem iminXr (r : Reg) (x : Xr) : Statement (.iminXr r x) := two (Eq.refl _) (by decide) (by decide)
theorem imax (r : Reg) : Statement (.imax r) := one (Eq.refl _) (by decide) (by decide)
theorem imaxXr (r : Reg) (x : Xr) : Statement (.imaxXr r x) := two (Eq.refl _) (by decide) (by decide)
theorem vand (r : Reg) : Statement (.vand r) := one (Eq.refl _) (by decide) (by decide)
theorem vandXr (r : Reg) (x : Xr) : Statement (.vandXr r x) := two (Eq.refl _) (by decide) (by decide)
theorem vor (r : Reg) : Statement (.vor r) := one (Eq.refl _) (by decide) (by decide)
theorem vorXr (r : Reg) (x : Xr) : Statement (.vorXr r x) := two (Eq.refl _) (by decide) (by decide)
theorem vxor (r : Reg) : Statement (.vxor r) := one (Eq.refl _) (by decide) (by decide)
theorem vxorXr (r : Reg) (x : Xr) : Statement (.vxorXr r x) := two (Eq.refl _) (by decide) (by decide)
theorem shl (r : Reg) : Statement (.shl r) := one (Eq.refl _) (by decide) (by decide)
theorem shlXr (r : Reg) (x : Xr) : Statement (.shlXr r x) := two (Eq.refl _) (by decide) (by decide)
theorem shr (r : Reg) : Statement (.shr r) := one (Eq.refl _) (by decide) (by decide)
theorem shrXr (r : Reg) (x : Xr) : Statement (.shrXr r x) := two (Eq.refl _) (by decide) (by decide)
theorem sar (r : Reg) : Statement (.sar r) := one (Eq.refl _) (by decide) (by decide)
theorem sarXr (r : Reg) (x : Xr) : Statement (.sarXr r x) := two (Eq.refl _) (by decide) (by decide)
theorem bfe (r : Reg) : Statement (.bfe r) := one (Eq.refl _) (by decide) (by decide)
theorem bfeXr (r : Reg) (x : Xr) : Statement (.bfeXr r x) := two (Eq.refl _) (by decide) (by decide)
theorem bfi (r : Reg) (x : Xr) : Statement (.bfi r x) := two (Eq.refl _) (by decide) (by decide)
theorem popc (r : Reg) : Statement (.popc r) := one (Eq.refl _) (by decide) (by decide)
theorem popcXr (r : Reg) (x : Xr) : Statement (.popcXr r x) := two (Eq.refl _) (by decide) (by decide)
theorem clz (r : Reg) : Statement (.clz r) := one (Eq.refl _) (by decide) (by decide)
theorem clzXr (r : Reg) (x : Xr) : Statement (.clzXr r x) := two (Eq.refl _) (by decide) (by decide)
theorem brev (r : Reg) : Statement (.brev r) := one (Eq.refl _) (by decide) (by decide)
theorem brevXr (r : Reg) (x : Xr) : Statement (.brevXr r x) := two (Eq.refl _) (by decide) (by decide)
theorem addi (r : Ri) : Statement (.addi r) := one (Eq.refl _) (by decide) (by decide)
theorem addiXi (r : Ri) (x : Word) : Statement (.addiXi r x) := two (Eq.refl _) (by decide) (by decide)
theorem andi (r : Ri) : Statement (.andi r) := one (Eq.refl _) (by decide) (by decide)
theorem andiXi (r : Ri) (x : Word) : Statement (.andiXi r x) := two (Eq.refl _) (by decide) (by decide)
theorem shli (r : Ri) : Statement (.shli r) := one (Eq.refl _) (by decide) (by decide)
theorem shliXi (r : Ri) (x : Word) : Statement (.shliXi r x) := two (Eq.refl _) (by decide) (by decide)
theorem shri (r : Ri) : Statement (.shri r) := one (Eq.refl _) (by decide) (by decide)
theorem shriXi (r : Ri) (x : Word) : Statement (.shriXi r x) := two (Eq.refl _) (by decide) (by decide)
theorem fadd (r : Reg) : Statement (.fadd r) := one (Eq.refl _) (by decide) (by decide)
theorem faddXr (r : Reg) (x : Xr) : Statement (.faddXr r x) := two (Eq.refl _) (by decide) (by decide)
theorem fsub (r : Reg) : Statement (.fsub r) := one (Eq.refl _) (by decide) (by decide)
theorem fsubXr (r : Reg) (x : Xr) : Statement (.fsubXr r x) := two (Eq.refl _) (by decide) (by decide)
theorem fmul (r : Reg) : Statement (.fmul r) := one (Eq.refl _) (by decide) (by decide)
theorem fmulXr (r : Reg) (x : Xr) : Statement (.fmulXr r x) := two (Eq.refl _) (by decide) (by decide)
theorem ffma (r : Reg) (x : Xr) : Statement (.ffma r x) := two (Eq.refl _) (by decide) (by decide)
theorem fmin (r : Reg) : Statement (.fmin r) := one (Eq.refl _) (by decide) (by decide)
theorem fminXr (r : Reg) (x : Xr) : Statement (.fminXr r x) := two (Eq.refl _) (by decide) (by decide)
theorem fmax (r : Reg) : Statement (.fmax r) := one (Eq.refl _) (by decide) (by decide)
theorem fmaxXr (r : Reg) (x : Xr) : Statement (.fmaxXr r x) := two (Eq.refl _) (by decide) (by decide)
theorem frcp (r : Reg) : Statement (.frcp r) := one (Eq.refl _) (by decide) (by decide)
theorem frcpXr (r : Reg) (x : Xr) : Statement (.frcpXr r x) := two (Eq.refl _) (by decide) (by decide)
theorem frsq (r : Reg) : Statement (.frsq r) := one (Eq.refl _) (by decide) (by decide)
theorem frsqXr (r : Reg) (x : Xr) : Statement (.frsqXr r x) := two (Eq.refl _) (by decide) (by decide)
theorem fsqrt (r : Reg) : Statement (.fsqrt r) := one (Eq.refl _) (by decide) (by decide)
theorem fsqrtXr (r : Reg) (x : Xr) : Statement (.fsqrtXr r x) := two (Eq.refl _) (by decide) (by decide)
theorem fex2 (r : Reg) : Statement (.fex2 r) := one (Eq.refl _) (by decide) (by decide)
theorem fex2Xr (r : Reg) (x : Xr) : Statement (.fex2Xr r x) := two (Eq.refl _) (by decide) (by decide)
theorem flg2 (r : Reg) : Statement (.flg2 r) := one (Eq.refl _) (by decide) (by decide)
theorem flg2Xr (r : Reg) (x : Xr) : Statement (.flg2Xr r x) := two (Eq.refl _) (by decide) (by decide)
theorem icmp (r : Reg) : Statement (.icmp r) := one (Eq.refl _) (by decide) (by decide)
theorem icmpXr (r : Reg) (x : Xr) : Statement (.icmpXr r x) := two (Eq.refl _) (by decide) (by decide)
theorem fcmp (r : Reg) : Statement (.fcmp r) := one (Eq.refl _) (by decide) (by decide)
theorem fcmpXr (r : Reg) (x : Xr) : Statement (.fcmpXr r x) := two (Eq.refl _) (by decide) (by decide)
theorem pset (r : Reg) : Statement (.pset r) := one (Eq.refl _) (by decide) (by decide)
theorem psetXr (r : Reg) (x : Xr) : Statement (.psetXr r x) := two (Eq.refl _) (by decide) (by decide)
theorem sel (r : Reg) (x : Xr) : Statement (.sel r x) := two (Eq.refl _) (by decide) (by decide)
theorem cvt (r : Reg) (x : Xr) : Statement (.cvt r x) := two (Eq.refl _) (by decide) (by decide)
theorem pack4 (r : Reg) : Statement (.pack4 r) := one (Eq.refl _) (by decide) (by decide)
theorem pack4Xr (r : Reg) (x : Xr) : Statement (.pack4Xr r x) := two (Eq.refl _) (by decide) (by decide)
theorem unpack4 (r : Reg) : Statement (.unpack4 r) := one (Eq.refl _) (by decide) (by decide)
theorem unpack4Xr (r : Reg) (x : Xr) : Statement (.unpack4Xr r x) := two (Eq.refl _) (by decide) (by decide)
theorem ballot (r : Reg) : Statement (.ballot r) := one (Eq.refl _) (by decide) (by decide)
theorem ballotXr (r : Reg) (x : Xr) : Statement (.ballotXr r x) := two (Eq.refl _) (by decide) (by decide)
theorem vote (r : Reg) : Statement (.vote r) := one (Eq.refl _) (by decide) (by decide)
theorem voteXr (r : Reg) (x : Xr) : Statement (.voteXr r x) := two (Eq.refl _) (by decide) (by decide)
theorem rfl (r : Reg) : Statement (.rfl r) := one (Eq.refl _) (by decide) (by decide)
theorem rflXr (r : Reg) (x : Xr) : Statement (.rflXr r x) := two (Eq.refl _) (by decide) (by decide)
theorem laneid (r : Reg) : Statement (.laneid r) := one (Eq.refl _) (by decide) (by decide)
theorem laneidXr (r : Reg) (x : Xr) : Statement (.laneidXr r x) := two (Eq.refl _) (by decide) (by decide)
theorem ld (r : Mm) : Statement (.ld r) := one (Eq.refl _) (by decide) (by decide)
theorem ldXm (r : Mm) (x : Xm) : Statement (.ldXm r x) := two (Eq.refl _) (by decide) (by decide)
theorem st (r : Mm) : Statement (.st r) := one (Eq.refl _) (by decide) (by decide)
theorem stXm (r : Mm) (x : Xm) : Statement (.stXm r x) := two (Eq.refl _) (by decide) (by decide)
theorem ldl (r : Mm) : Statement (.ldl r) := one (Eq.refl _) (by decide) (by decide)
theorem ldlXm (r : Mm) (x : Xm) : Statement (.ldlXm r x) := two (Eq.refl _) (by decide) (by decide)
theorem stl (r : Mm) : Statement (.stl r) := one (Eq.refl _) (by decide) (by decide)
theorem stlXm (r : Mm) (x : Xm) : Statement (.stlXm r x) := two (Eq.refl _) (by decide) (by decide)
theorem atom (r : Mm) : Statement (.atom r) := one (Eq.refl _) (by decide) (by decide)
theorem atomXm (r : Mm) (x : Xm) : Statement (.atomXm r x) := two (Eq.refl _) (by decide) (by decide)
theorem atoml (r : Mm) : Statement (.atoml r) := one (Eq.refl _) (by decide) (by decide)
theorem atomlXm (r : Mm) (x : Xm) : Statement (.atomlXm r x) := two (Eq.refl _) (by decide) (by decide)
theorem cas (r : Mm) : Statement (.cas r) := one (Eq.refl _) (by decide) (by decide)
theorem casXm (r : Mm) (x : Xm) : Statement (.casXm r x) := two (Eq.refl _) (by decide) (by decide)
theorem pref (r : Mm) : Statement (.pref r) := one (Eq.refl _) (by decide) (by decide)
theorem prefXm (r : Mm) (x : Xm) : Statement (.prefXm r x) := two (Eq.refl _) (by decide) (by decide)
theorem rld (r : Mm) (x : Xm) : Statement (.rld r x) := two (Eq.refl _) (by decide) (by decide)
theorem rst (r : Mm) (x : Xm) : Statement (.rst r x) := two (Eq.refl _) (by decide) (by decide)
theorem ratom (r : Mm) (x : Xm) : Statement (.ratom r x) := two (Eq.refl _) (by decide) (by decide)
theorem mcast (r : Mm) (x : Xm) : Statement (.mcast r x) := two (Eq.refl _) (by decide) (by decide)
theorem combine (r : Mm) (x : Xm) : Statement (.combine r x) := two (Eq.refl _) (by decide) (by decide)
theorem mloop (r : Reg) (x : Xr) : Statement (.mloop r x) := two (Eq.refl _) (by decide) (by decide)
theorem mzero (r : Reg) : Statement (.mzero r) := one (Eq.refl _) (by decide) (by decide)
theorem mrd (r : Reg) : Statement (.mrd r) := one (Eq.refl _) (by decide) (by decide)
theorem mrdXr (r : Reg) (x : Xr) : Statement (.mrdXr r x) := two (Eq.refl _) (by decide) (by decide)
theorem mwr (r : Reg) : Statement (.mwr r) := one (Eq.refl _) (by decide) (by decide)
theorem mwrXr (r : Reg) (x : Xr) : Statement (.mwrXr r x) := two (Eq.refl _) (by decide) (by decide)
theorem mst (r : Mm) : Statement (.mst r) := one (Eq.refl _) (by decide) (by decide)
theorem mstXm (r : Mm) (x : Xm) : Statement (.mstXm r x) := two (Eq.refl _) (by decide) (by decide)
theorem mld (r : Mm) : Statement (.mld r) := one (Eq.refl _) (by decide) (by decide)
theorem mldXm (r : Mm) (x : Xm) : Statement (.mldXm r x) := two (Eq.refl _) (by decide) (by decide)
theorem mwait (r : Reg) : Statement (.mwait r) := one (Eq.refl _) (by decide) (by decide)
theorem mstat (r : Reg) : Statement (.mstat r) := one (Eq.refl _) (by decide) (by decide)
theorem tcopy (r : Reg) : Statement (.tcopy r) := one (Eq.refl _) (by decide) (by decide)
theorem tcopyXm (r : Reg) (x : Xm) : Statement (.tcopyXm r x) := two (Eq.refl _) (by decide) (by decide)
theorem cclose (r : Reg) : Statement (.cclose r) := one (Eq.refl _) (by decide) (by decide)
theorem cbload (r : Reg) : Statement (.cbload r) := one (Eq.refl _) (by decide) (by decide)
theorem cbloadXm (r : Reg) (x : Xm) : Statement (.cbloadXm r x) := two (Eq.refl _) (by decide) (by decide)
theorem cbfree (r : Reg) : Statement (.cbfree r) := one (Eq.refl _) (by decide) (by decide)
theorem cchain (r : Reg) : Statement (.cchain r) := one (Eq.refl _) (by decide) (by decide)
theorem cchainXm (r : Reg) (x : Xm) : Statement (.cchainXm r x) := two (Eq.refl _) (by decide) (by decide)
theorem cfill (r : Reg) : Statement (.cfill r) := one (Eq.refl _) (by decide) (by decide)
theorem cfillXm (r : Reg) (x : Xm) : Statement (.cfillXm r x) := two (Eq.refl _) (by decide) (by decide)
theorem cstat (r : Reg) : Statement (.cstat r) := one (Eq.refl _) (by decide) (by decide)
theorem bar (r : Reg) : Statement (.bar r) := one (Eq.refl _) (by decide) (by decide)
theorem barXm (r : Reg) (x : Xm) : Statement (.barXm r x) := two (Eq.refl _) (by decide) (by decide)
theorem bara (r : Reg) : Statement (.bara r) := one (Eq.refl _) (by decide) (by decide)
theorem baraXm (r : Reg) (x : Xm) : Statement (.baraXm r x) := two (Eq.refl _) (by decide) (by decide)
theorem barw (r : Reg) : Statement (.barw r) := one (Eq.refl _) (by decide) (by decide)
theorem barwXm (r : Reg) (x : Xm) : Statement (.barwXm r x) := two (Eq.refl _) (by decide) (by decide)
theorem barinit (r : Reg) : Statement (.barinit r) := one (Eq.refl _) (by decide) (by decide)
theorem fence (r : Reg) : Statement (.fence r) := one (Eq.refl _) (by decide) (by decide)
theorem fenceXm (r : Reg) (x : Xm) : Statement (.fenceXm r x) := two (Eq.refl _) (by decide) (by decide)
theorem waitb (r : Reg) : Statement (.waitb r) := one (Eq.refl _) (by decide) (by decide)
theorem waitc (r : Reg) : Statement (.waitc r) := one (Eq.refl _) (by decide) (by decide)
theorem waitcXm (r : Reg) (x : Xm) : Statement (.waitcXm r x) := two (Eq.refl _) (by decide) (by decide)
theorem evbind (r : Reg) (x : Word) : Statement (.evbind r x) := two (Eq.refl _) (by decide) (by decide)
theorem evmask (r : Ri) : Statement (.evmask r) := one (Eq.refl _) (by decide) (by decide)
theorem evclr (r : Ri) : Statement (.evclr r) := one (Eq.refl _) (by decide) (by decide)
theorem waitany (r : Reg) : Statement (.waitany r) := one (Eq.refl _) (by decide) (by decide)
theorem mbxsend (r : Reg) : Statement (.mbxsend r) := one (Eq.refl _) (by decide) (by decide)
theorem mbxrecv (r : Reg) : Statement (.mbxrecv r) := one (Eq.refl _) (by decide) (by decide)
theorem regroup (r : Reg) : Statement (.regroup r) := one (Eq.refl _) (by decide) (by decide)
theorem ungroup (r : Reg) : Statement (.ungroup r) := one (Eq.refl _) (by decide) (by decide)
theorem yield (r : Reg) : Statement (.yield r) := one (Eq.refl _) (by decide) (by decide)
theorem trap (r : Ri) : Statement (.trap r) := one (Eq.refl _) (by decide) (by decide)
theorem trapXi (r : Ri) (x : Word) : Statement (.trapXi r x) := two (Eq.refl _) (by decide) (by decide)
theorem rtt (r : Reg) : Statement (.rtt r) := one (Eq.refl _) (by decide) (by decide)
theorem launch (r : Reg) : Statement (.launch r) := one (Eq.refl _) (by decide) (by decide)
theorem csrr (r : Ri) : Statement (.csrr r) := one (Eq.refl _) (by decide) (by decide)
theorem csrw (r : Ri) : Statement (.csrw r) := one (Eq.refl _) (by decide) (by decide)
theorem tlbinv (r : Reg) : Statement (.tlbinv r) := one (Eq.refl _) (by decide) (by decide)
theorem tlbinvXm (r : Reg) (x : Xm) : Statement (.tlbinvXm r x) := two (Eq.refl _) (by decide) (by decide)
theorem bkpt (r : Reg) : Statement (.bkpt r) := one (Eq.refl _) (by decide) (by decide)
theorem packageBoot : Statement .packageBoot := event (Eq.refl _)
theorem softError : Statement .softError := event (Eq.refl _)
theorem moduleRetrain : Statement .moduleRetrain := event (Eq.refl _)
theorem moduleRetrainEnd : Statement .moduleRetrainEnd := event (Eq.refl _)
theorem flitReceive : Statement .flitReceive := event (Eq.refl _)
theorem flitTransmit : Statement .flitTransmit := event (Eq.refl _)
theorem thermalThrottleStep : Statement .thermalThrottleStep := event (Eq.refl _)
theorem emergencyShutdown : Statement .emergencyShutdown := event (Eq.refl _)
theorem vinLoss : Statement .vinLoss := event (Eq.refl _)
theorem portRetrain : Statement .portRetrain := event (Eq.refl _)
theorem portRetrainEnd : Statement .portRetrainEnd := event (Eq.refl _)
theorem readRequest : Statement .readRequest := event (Eq.refl _)
theorem writeRequest : Statement .writeRequest := event (Eq.refl _)
theorem atomicRequest : Statement .atomicRequest := event (Eq.refl _)
theorem casRequest : Statement .casRequest := event (Eq.refl _)
theorem mailboxRequest : Statement .mailboxRequest := event (Eq.refl _)
theorem lineRead : Statement .lineRead := event (Eq.refl _)
theorem lineData : Statement .lineData := event (Eq.refl _)
theorem lineWrite : Statement .lineWrite := event (Eq.refl _)
theorem linePush : Statement .linePush := event (Eq.refl _)
theorem readData : Statement .readData := event (Eq.refl _)
theorem writeAck : Statement .writeAck := event (Eq.refl _)
theorem atomicData : Statement .atomicData := event (Eq.refl _)
theorem casData : Statement .casData := event (Eq.refl _)
theorem retryReply : Statement .retryReply := event (Eq.refl _)
theorem retryResend : Statement .retryResend := event (Eq.refl _)
theorem errorReply : Statement .errorReply := event (Eq.refl _)
theorem tagTimeout : Statement .tagTimeout := event (Eq.refl _)
theorem tagQuarantineEnd : Statement .tagQuarantineEnd := event (Eq.refl _)
theorem combineUp : Statement .combineUp := event (Eq.refl _)
theorem combineDown : Statement .combineDown := event (Eq.refl _)
theorem combineSequenceAdmit : Statement .combineSequenceAdmit := event (Eq.refl _)
theorem combineSequenceAbandon : Statement .combineSequenceAbandon := event (Eq.refl _)
theorem mcastLine : Statement .mcastLine := event (Eq.refl _)
theorem walkComplete : Statement .walkComplete := event (Eq.refl _)
theorem missSlotFill : Statement .missSlotFill := event (Eq.refl _)
theorem regionSwitch : Statement .regionSwitch := event (Eq.refl _)
theorem regionDrainComplete : Statement .regionDrainComplete := event (Eq.refl _)
theorem migrationStart : Statement .migrationStart := event (Eq.refl _)
theorem copyPassEnd : Statement .copyPassEnd := event (Eq.refl _)
theorem migrationPinWaitEnd : Statement .migrationPinWaitEnd := event (Eq.refl _)
theorem migrationWindowEnd : Statement .migrationWindowEnd := event (Eq.refl _)
theorem queuePoll : Statement .queuePoll := event (Eq.refl _)
theorem mirrorAck : Statement .mirrorAck := event (Eq.refl _)
theorem launchPacket : Statement .launchPacket := event (Eq.refl _)
theorem signalPacket : Statement .signalPacket := event (Eq.refl _)
theorem waitPacket : Statement .waitPacket := event (Eq.refl _)
theorem waitConditionTrue : Statement .waitConditionTrue := event (Eq.refl _)
theorem waitTimeout : Statement .waitTimeout := event (Eq.refl _)
theorem fencePacket : Statement .fencePacket := event (Eq.refl _)
theorem tablePacket : Statement .tablePacket := event (Eq.refl _)
theorem combineConfig : Statement .combineConfig := event (Eq.refl _)
theorem nopPacket : Statement .nopPacket := event (Eq.refl _)
theorem queueRestart : Statement .queueRestart := event (Eq.refl _)
theorem ttSlot : Statement .ttSlot := event (Eq.refl _)
theorem domainTimeSync : Statement .domainTimeSync := event (Eq.refl _)
theorem grandmasterLost : Statement .grandmasterLost := event (Eq.refl _)
theorem standbyTakeover : Statement .standbyTakeover := event (Eq.refl _)
theorem packageLoss : Statement .packageLoss := event (Eq.refl _)
theorem heartbeatMiss : Statement .heartbeatMiss := event (Eq.refl _)
theorem updateTakeover : Statement .updateTakeover := event (Eq.refl _)
theorem configureDomain : Statement .configureDomain := event (Eq.refl _)
theorem regionCommit : Statement .regionCommit := event (Eq.refl _)
theorem migratePage : Statement .migratePage := event (Eq.refl _)
theorem relaySignal : Statement .relaySignal := event (Eq.refl _)
theorem releaseFrozenMaster : Statement .releaseFrozenMaster := event (Eq.refl _)
theorem killFrozenMaster : Statement .killFrozenMaster := event (Eq.refl _)
theorem readEvents : Statement .readEvents := event (Eq.refl _)
theorem firmwareUpdate : Statement .firmwareUpdate := event (Eq.refl _)
theorem thawContexts : Statement .thawContexts := event (Eq.refl _)
theorem setPowerCap : Statement .setPowerCap := event (Eq.refl _)
theorem spdmMessage : Statement .spdmMessage := event (Eq.refl _)
theorem setSecondaryHostDie : Statement .setSecondaryHostDie := event (Eq.refl _)
theorem setDetourBias : Statement .setDetourBias := event (Eq.refl _)
theorem unknownFirmwareRequest : Statement .unknownFirmwareRequest := event (Eq.refl _)
theorem mgmtRead : Statement .mgmtRead := event (Eq.refl _)
theorem mgmtWrite : Statement .mgmtWrite := event (Eq.refl _)
theorem mgmtRegisterWrite : Statement .mgmtRegisterWrite := event (Eq.refl _)
theorem powercapWrite : Statement .powercapWrite := event (Eq.refl _)
theorem kboot : Statement .kboot := event (Eq.refl _)
theorem bar1Access : Statement .bar1Access := event (Eq.refl _)
theorem hostWatchdogExpire : Statement .hostWatchdogExpire := event (Eq.refl _)
theorem hostMachineCheck : Statement .hostMachineCheck := event (Eq.refl _)
theorem kernelPanicReport : Statement .kernelPanicReport := event (Eq.refl _)
theorem warmReboot : Statement .warmReboot := event (Eq.refl _)
theorem brokerRange : Statement .brokerRange := event (Eq.refl _)
theorem brokerDone : Statement .brokerDone := event (Eq.refl _)
theorem doneTimer : Statement .doneTimer := event (Eq.refl _)
theorem brokerSteal : Statement .brokerSteal := event (Eq.refl _)
theorem brokerGrant : Statement .brokerGrant := event (Eq.refl _)
theorem brokerNone : Statement .brokerNone := event (Eq.refl _)
theorem brokerScan : Statement .brokerScan := event (Eq.refl _)
theorem brokerReserve : Statement .brokerReserve := event (Eq.refl _)
theorem brokerCommit : Statement .brokerCommit := event (Eq.refl _)
theorem brokerRollback : Statement .brokerRollback := event (Eq.refl _)
theorem brokerVacate : Statement .brokerVacate := event (Eq.refl _)
theorem brokerRemap : Statement .brokerRemap := event (Eq.refl _)
theorem brokerSaved : Statement .brokerSaved := event (Eq.refl _)
theorem coreReserve : Statement .coreReserve := event (Eq.refl _)
theorem preparationComplete : Statement .preparationComplete := event (Eq.refl _)
theorem gangCommit : Statement .gangCommit := event (Eq.refl _)
theorem priorityPreempt : Statement .priorityPreempt := event (Eq.refl _)
theorem gangSaveComplete : Statement .gangSaveComplete := event (Eq.refl _)
theorem serviceWordChange : Statement .serviceWordChange := event (Eq.refl _)
theorem gangRestore : Statement .gangRestore := event (Eq.refl _)
theorem fatalDieError : Statement .fatalDieError := event (Eq.refl _)
theorem ifetchFill : Statement .ifetchFill := event (Eq.refl _)
theorem registerFill : Statement .registerFill := event (Eq.refl _)
theorem walkerFetch : Statement .walkerFetch := event (Eq.refl _)
theorem eventTimerFire : Statement .eventTimerFire := event (Eq.refl _)
theorem regroupComplete : Statement .regroupComplete := event (Eq.refl _)
theorem blockRetire : Statement .blockRetire := event (Eq.refl _)
theorem trapTake : Statement .trapTake := event (Eq.refl _)
theorem porterCommandComplete : Statement .porterCommandComplete := event (Eq.refl _)
theorem chainRecord : Statement .chainRecord := event (Eq.refl _)
theorem chainPoll : Statement .chainPoll := event (Eq.refl _)
theorem matrixCommandComplete : Statement .matrixCommandComplete := event (Eq.refl _)
theorem broadcastStreamEvent : Statement .broadcastStreamEvent := event (Eq.refl _)
theorem warmReset : Statement .warmReset := event (Eq.refl _)
theorem portReenable : Statement .portReenable := event (Eq.refl _)
theorem ppsInPulse : Statement .ppsInPulse := event (Eq.refl _)

/-- The law of every instruction. -/
theorem all (i : Instr) : Statement i := by
  cases i
  · exact nop _
  · exact smov _
  · exact smovi _
  · exact smoviXi _ _
  · exact sadd _
  · exact ssub _
  · exact smul _
  · exact smulhi _
  · exact sand _
  · exact sor _
  · exact sxor _
  · exact sshl _
  · exact sshr _
  · exact ssar _
  · exact saddi _
  · exact saddiXi _ _
  · exact sandi _
  · exact sandiXi _ _
  · exact smin _
  · exact smax _
  · exact sminn _
  · exact smaxn _
  · exact scmp _
  · exact scmpXr _ _
  · exact sread _
  · exact swrite _
  · exact bra _
  · exact bz _
  · exact bnz _
  · exact bltz _
  · exact bgez _
  · exact bru _
  · exact brd _ _
  · exact brw _
  · exact call _
  · exact callr _
  · exact ret _
  · exact jmpr _
  · exact exit _
  · exact take _
  · exact vmov _
  · exact vmovXr _ _
  · exact vmovi _
  · exact vmoviXi _ _
  · exact vmovs _
  · exact vmovsXr _ _
  · exact iadd _
  · exact iaddXr _ _
  · exact isub _
  · exact isubXr _ _
  · exact imul _
  · exact imulXr _ _
  · exact imulhi _
  · exact imulhiXr _ _
  · exact imad _ _
  · exact imin _
  · exact iminXr _ _
  · exact imax _
  · exact imaxXr _ _
  · exact vand _
  · exact vandXr _ _
  · exact vor _
  · exact vorXr _ _
  · exact vxor _
  · exact vxorXr _ _
  · exact shl _
  · exact shlXr _ _
  · exact shr _
  · exact shrXr _ _
  · exact sar _
  · exact sarXr _ _
  · exact bfe _
  · exact bfeXr _ _
  · exact bfi _ _
  · exact popc _
  · exact popcXr _ _
  · exact clz _
  · exact clzXr _ _
  · exact brev _
  · exact brevXr _ _
  · exact addi _
  · exact addiXi _ _
  · exact andi _
  · exact andiXi _ _
  · exact shli _
  · exact shliXi _ _
  · exact shri _
  · exact shriXi _ _
  · exact fadd _
  · exact faddXr _ _
  · exact fsub _
  · exact fsubXr _ _
  · exact fmul _
  · exact fmulXr _ _
  · exact ffma _ _
  · exact fmin _
  · exact fminXr _ _
  · exact fmax _
  · exact fmaxXr _ _
  · exact frcp _
  · exact frcpXr _ _
  · exact frsq _
  · exact frsqXr _ _
  · exact fsqrt _
  · exact fsqrtXr _ _
  · exact fex2 _
  · exact fex2Xr _ _
  · exact flg2 _
  · exact flg2Xr _ _
  · exact icmp _
  · exact icmpXr _ _
  · exact fcmp _
  · exact fcmpXr _ _
  · exact pset _
  · exact psetXr _ _
  · exact sel _ _
  · exact cvt _ _
  · exact pack4 _
  · exact pack4Xr _ _
  · exact unpack4 _
  · exact unpack4Xr _ _
  · exact ballot _
  · exact ballotXr _ _
  · exact vote _
  · exact voteXr _ _
  · exact rfl _
  · exact rflXr _ _
  · exact laneid _
  · exact laneidXr _ _
  · exact ld _
  · exact ldXm _ _
  · exact st _
  · exact stXm _ _
  · exact ldl _
  · exact ldlXm _ _
  · exact stl _
  · exact stlXm _ _
  · exact atom _
  · exact atomXm _ _
  · exact atoml _
  · exact atomlXm _ _
  · exact cas _
  · exact casXm _ _
  · exact pref _
  · exact prefXm _ _
  · exact rld _ _
  · exact rst _ _
  · exact ratom _ _
  · exact mcast _ _
  · exact combine _ _
  · exact mloop _ _
  · exact mzero _
  · exact mrd _
  · exact mrdXr _ _
  · exact mwr _
  · exact mwrXr _ _
  · exact mst _
  · exact mstXm _ _
  · exact mld _
  · exact mldXm _ _
  · exact mwait _
  · exact mstat _
  · exact tcopy _
  · exact tcopyXm _ _
  · exact cclose _
  · exact cbload _
  · exact cbloadXm _ _
  · exact cbfree _
  · exact cchain _
  · exact cchainXm _ _
  · exact cfill _
  · exact cfillXm _ _
  · exact cstat _
  · exact bar _
  · exact barXm _ _
  · exact bara _
  · exact baraXm _ _
  · exact barw _
  · exact barwXm _ _
  · exact barinit _
  · exact fence _
  · exact fenceXm _ _
  · exact waitb _
  · exact waitc _
  · exact waitcXm _ _
  · exact evbind _ _
  · exact evmask _
  · exact evclr _
  · exact waitany _
  · exact mbxsend _
  · exact mbxrecv _
  · exact regroup _
  · exact ungroup _
  · exact yield _
  · exact trap _
  · exact trapXi _ _
  · exact rtt _
  · exact launch _
  · exact csrr _
  · exact csrw _
  · exact tlbinv _
  · exact tlbinvXm _ _
  · exact bkpt _
  · exact packageBoot
  · exact softError
  · exact moduleRetrain
  · exact moduleRetrainEnd
  · exact flitReceive
  · exact flitTransmit
  · exact thermalThrottleStep
  · exact emergencyShutdown
  · exact vinLoss
  · exact portRetrain
  · exact portRetrainEnd
  · exact readRequest
  · exact writeRequest
  · exact atomicRequest
  · exact casRequest
  · exact mailboxRequest
  · exact lineRead
  · exact lineData
  · exact lineWrite
  · exact linePush
  · exact readData
  · exact writeAck
  · exact atomicData
  · exact casData
  · exact retryReply
  · exact retryResend
  · exact errorReply
  · exact tagTimeout
  · exact tagQuarantineEnd
  · exact combineUp
  · exact combineDown
  · exact combineSequenceAdmit
  · exact combineSequenceAbandon
  · exact mcastLine
  · exact walkComplete
  · exact missSlotFill
  · exact regionSwitch
  · exact regionDrainComplete
  · exact migrationStart
  · exact copyPassEnd
  · exact migrationPinWaitEnd
  · exact migrationWindowEnd
  · exact queuePoll
  · exact mirrorAck
  · exact launchPacket
  · exact signalPacket
  · exact waitPacket
  · exact waitConditionTrue
  · exact waitTimeout
  · exact fencePacket
  · exact tablePacket
  · exact combineConfig
  · exact nopPacket
  · exact queueRestart
  · exact ttSlot
  · exact domainTimeSync
  · exact grandmasterLost
  · exact standbyTakeover
  · exact packageLoss
  · exact heartbeatMiss
  · exact updateTakeover
  · exact configureDomain
  · exact regionCommit
  · exact migratePage
  · exact relaySignal
  · exact releaseFrozenMaster
  · exact killFrozenMaster
  · exact readEvents
  · exact firmwareUpdate
  · exact thawContexts
  · exact setPowerCap
  · exact spdmMessage
  · exact setSecondaryHostDie
  · exact setDetourBias
  · exact unknownFirmwareRequest
  · exact mgmtRead
  · exact mgmtWrite
  · exact mgmtRegisterWrite
  · exact powercapWrite
  · exact kboot
  · exact bar1Access
  · exact hostWatchdogExpire
  · exact hostMachineCheck
  · exact kernelPanicReport
  · exact warmReboot
  · exact brokerRange
  · exact brokerDone
  · exact doneTimer
  · exact brokerSteal
  · exact brokerGrant
  · exact brokerNone
  · exact brokerScan
  · exact brokerReserve
  · exact brokerCommit
  · exact brokerRollback
  · exact brokerVacate
  · exact brokerRemap
  · exact brokerSaved
  · exact coreReserve
  · exact preparationComplete
  · exact gangCommit
  · exact priorityPreempt
  · exact gangSaveComplete
  · exact serviceWordChange
  · exact gangRestore
  · exact fatalDieError
  · exact ifetchFill
  · exact registerFill
  · exact walkerFetch
  · exact eventTimerFire
  · exact regroupComplete
  · exact blockRetire
  · exact trapTake
  · exact porterCommandComplete
  · exact chainRecord
  · exact chainPoll
  · exact matrixCommandComplete
  · exact broadcastStreamEvent
  · exact warmReset
  · exact portReenable
  · exact ppsInPulse

end Sys2Proof.Laws.Layout
end

