-- ==== Sys2Proof/Machine/Assembler.lean ====
section
/-! DEFINITION. The bireth assembler: clauses and hold bits (R268-R270), directives and kernel descriptors (R271, R86),
and the sources it rejects (R272). -/

namespace Sys2Proof.Machine.Bireth

/-- The kernel between `.kernel` and `.end`: where its descriptor stands in the data section, what the directives gave,
and one past the highest vector register and tile that its instructions name. -/
structure Kernel where
  desc : Nat
  warps : Nat
  slots : Nat
  stack : Nat
  regs : Option Nat := none
  scratch : Nat := 0
  shape : Nat := 0
  straddle : Bool := false
  ztiles : Nat := 0
  cont : Option (List Tok) := none
  hash : Bool := false
  entry : Option Nat := none
  vTop : Nat := 0
  zTop : Nat := 0
  deriving DecidableEq, Repr

/-- The assembler in the middle of a source: the addresses of its sections, the names known before this pass and those
defined in it, labels that wait for their item, both sections, and the open clause. -/
structure Pass where
  codeBase : Nat
  dataBase : Nat
  env : Env
  names : List Entry := []
  pending : List String := []
  code : List Byte := []
  data : List Byte := []
  inData : Bool := false
  cls : Cls := .ctrl
  words : List Word := []
  holds : List Nat := []
  written : List Nat := []
  ended : Bool := false
  /-- Between `.clause` and `.endclause`, and its yield hint. -/
  explicit : Option Bool := none
  kernel : Option Kernel := none
  deriving DecidableEq, Repr

namespace Pass

/-- The next address of the code section, where the open clause's header stands. -/
def here (p : Pass) : Nat := p.codeBase + p.code.length

def dataHere (p : Pass) : Nat := p.dataBase + p.data.length

/-- Close the open clause: its header and words join the code section (R276). Where it lies is checked once every name has its value. -/
def close (p : Pass) : Except AsmError Pass :=
  if p.words.isEmpty then .ok p
  else if p.env.strict && p.here % 4 != 0 then .error .badClause
  else
    let hold := p.holds.foldl (fun (m : BitVec 15) k => m ||| (1 <<< (k - 1))) 0
    let h : Header := { n := p.words.length, cls := p.cls, yield := p.explicit == some true, hold := hold }
    .ok { p with
      code := p.code ++ (encodeHeader h :: p.words).flatMap wordBytes
      words := [], holds := [], written := [], ended := false
      kernel := p.kernel.map fun k => { k with entry := k.entry.or (some p.here) } }

/-- Give a name its value (R264, R272). -/
def define (p : Pass) (n : String) (v : Int) (clause : Bool) : Except AsmError Pass :=
  if reserved n then .error .badName
  else if p.names.any (·.name == n) then .error .duplicateName
  else .ok { p with names := { name := n, val := v, clause := clause } :: p.names }

/-- The labels that wait take the address of the item that comes now; `clause` says that a clause begins there. -/
def resolve (p : Pass) (clause : Bool) : Except AsmError Pass := do
  let v : Int := if p.inData then p.dataHere else p.here
  let q ← p.pending.foldlM (fun (q : Pass) n => q.define n v clause) p
  .ok { q with pending := [] }

/-- A label starts a clause (R268) and may not stand inside an explicit one (R270). -/
def label (p : Pass) (l : String) : Except AsmError Pass := do
  if p.explicit.isSome then .error .badClause
  else
    let p ← if p.inData then .ok p else p.close
    .ok { p with pending := p.pending ++ [l] }

/-- Leave the data section; labels that wait then start a clause. -/
def toCode (p : Pass) (clause : Bool) : Except AsmError Pass :=
  let p := { p with inData := false }
  if p.pending.isEmpty then .ok p else p.close.bind fun q => q.resolve clause

/-- An instruction (R267-R270). Before every name has its value, neither the barrier slots of its kernel nor how many words an explicit
clause holds is known, and neither is checked. -/
def instr (p : Pass) (g : Nat) (neg : Bool) (mn : String) (mods : List String) (ops : List (List Tok)) :
    Except AsmError Pass := do
  let r ← match rows.find? (·.name == mn) with
    | some r => Except.ok r
    | none => .error .unknownMnemonic
  let p ← p.toCode true
  let slots := match p.kernel with
    | some k => if p.env.strict then k.slots else 16
    | none => 16
  let (f, hold) ← instrFields p.env r slots g neg mods ops
  let size := if r.needsLong f then 2 else 1
  let other := !p.words.isEmpty && p.cls != r.cls
  let full := decide (15 < p.words.length + size)
  let p ← if p.explicit.isSome then
      (if other || (full && p.env.strict) || p.ended then .error .badClause else .ok p)
    else if other || full then p.close else .ok p
  let k := p.words.length + 1
  let ws ← r.words f (p.here + 4 * k) p.env.strict
  let needed := p.explicit.isNone && (r.reads f).any p.written.contains
  let tops := r.tops f
  let q : Pass := { p with
    cls := r.cls, words := p.words ++ ws, holds := if hold || needed then k :: p.holds else p.holds
    written := p.written ++ r.writes f, ended := r.transfer
    kernel := p.kernel.map fun x => { x with vTop := max x.vTop tops.1, zTop := max x.zTop tops.2 } }
  if q.explicit.isNone && r.transfer then q.close else .ok q

/-! ## Directives (R271) -/

/-- Bytes go to the section that is current; in the code section they end the open clause. -/
def emit (p : Pass) (bytes : Pass → Except AsmError (List Byte)) : Except AsmError Pass := do
  let p ← if p.inData then .ok p else p.close
  let p ← p.resolve false
  let bs ← bytes p
  .ok (if p.inData then { p with data := p.data ++ bs } else { p with code := p.code ++ bs })

/-- Zero bytes up to an alignment. -/
def padding (addr n : Nat) : List Byte := List.replicate ((n - addr % n) % n) 0

def items (p : Pass) (n : Nat) (tss : List (List Tok)) : Except AsmError (List Byte) :=
  (tss.mapM fun (ts : List Tok) => do
    let v ← expr p.env ts
    let v ← p.env.within (-2 ^ (8 * n - 1)) (2 ^ (8 * n) - 1) v
    Except.ok (leBytes n (v % 2 ^ (8 * n)).toNat)).map List.flatten

/-- One value between limits. -/
def value (p : Pass) (lo hi : Int) (ts : List Tok) : Except AsmError Nat := do
  let v ← expr p.env ts
  let v ← p.env.within lo hi v
  .ok v.toNat

/-- The bytes of a kernel descriptor (R86). -/
def descriptor (k : Kernel) (entry regs cont : Nat) : List Byte :=
  leBytes 8 entry ++ leBytes 1 k.warps ++ leBytes 1 (regs / 8) ++ leBytes 2 k.scratch ++
    leBytes 1 (k.shape + if k.straddle then 128 else 0) ++ leBytes 1 k.ztiles ++
    leBytes 1 ((if k.cont.isSome then 1 else 0) + if k.hash then 2 else 0) ++ leBytes 1 k.slots ++ leBytes 4 0 ++
    leBytes 2 k.stack ++ leBytes 10 0 ++ leBytes 8 cont ++ List.replicate 88 0

/-- `.kernel` name, warps, barrier slots, stack entries. -/
def kernelBegin (p : Pass) (tss : List (List Tok)) : Except AsmError Pass := do
  let p ← p.close
  match p.kernel, tss with
  | none, [.name n] :: ws :: rest =>
    let warps ← p.value 1 32 ws
    let slots ← match rest with
      | b :: _ => p.value 0 16 b
      | [] => .ok 0
    let stack ← match rest with
      | _ :: d :: _ => p.value 0 4096 d
      | _ => .ok 0
    if 2 < rest.length then .error .badDirective
    else do
      let data := p.data ++ padding p.dataHere 128
      let q ← define { p with data := data ++ List.replicate 128 0 } n (p.dataBase + data.length : Nat) false
      .ok { q with
        inData := false
        kernel := some { desc := data.length, warps := warps, slots := slots, stack := stack } }
  | _, _ => .error .badDirective

/-- `.end`: the checks of R272 that concern the kernel, and its descriptor. -/
def kernelEnd (p : Pass) : Except AsmError Pass := do
  let p ← p.toCode false
  let p ← p.close
  match p.kernel with
  | none => .error .badDirective
  | some k =>
    match k.regs, k.entry with
    | none, _ => .error .missingRegs
    | _, none => .error .badDirective
    | some regs, some entry =>
      if p.env.strict && (decide (regs < k.vTop) || decide (k.ztiles < k.zTop)) then .error .registerRange
      else do
        let cont ← match k.cont with
          | some ts => targetOf p.env ts
          | none => .ok 0
        .ok { p with
          kernel := none
          data := p.data.take k.desc ++ descriptor k entry regs cont.toNat ++ p.data.drop (k.desc + 128) }

def shapes : List (List Tok × Nat) :=
  [([.num "1x1"], 0), ([.num "1x2"], 1), ([.num "2x2"], 2), ([.num "2x4"], 3), ([.num "4x4"], 4)]

/-- A directive that fills a field of the kernel's descriptor. -/
def kernelField (p : Pass) (k : Kernel) (name : String) (ts : List Tok) : Except AsmError Kernel := do
  let words := ts.filter (· != .sym ',')
  match name with
  | "regs" =>
    let v ← p.value 8 128 ts
    if v % 8 = 0 || !p.env.strict then .ok { k with regs := some v } else .error .noFit
  | "scratch" => (p.value 0 65535 ts).map fun v => { k with scratch := v }
  | "ztiles" => (p.value 0 8 ts).map fun v => { k with ztiles := v }
  | "gang" =>
    match shapes.find? (·.1 == words.take 1) with
    | some x =>
      if words.drop 1 = [] then .ok { k with shape := x.2, straddle := false }
      else if words.drop 1 = [.name "straddle"] then .ok { k with shape := x.2, straddle := true }
      else .error .badDirective
    | none => .error .badDirective
  | "fault" =>
    match words with
    | [.name "swap"] => .ok { k with cont := none }
    | .name "cont" :: ts => .ok { k with cont := some ts }
    | _ => .error .badDirective
  | "placement" =>
    match words with
    | [.name "none"] => .ok { k with hash := false }
    | [.name "hash"] => .ok { k with hash := true }
    | _ => .error .badDirective
  | _ => .error .badDirective

def directive (p : Pass) (name : String) (ts : List Tok) : Except AsmError Pass := do
  if p.explicit.isSome && name != "endclause" && name != "equ" then .error .badClause
  else
    match name with
    | "clause" =>
      let yield ← match ts with
        | [] => Except.ok false
        | [.name "yield"] => .ok true
        | _ => .error .badDirective
      let p ← p.close
      .ok { p with inData := false, explicit := some yield }
    | "endclause" =>
      if p.explicit.isNone || p.words.isEmpty then .error .badClause
      else if !ts.isEmpty then .error .badDirective
      else
        let p ← p.close
        .ok { p with explicit := none }
    | "equ" =>
      match ts with
      | .name n :: .sym ',' :: es =>
        let v ← expr p.env es
        p.define n v false
      | _ => .error .badDirective
    | "data" =>
      let p ← if p.pending.isEmpty || p.inData then .ok p else p.resolve false
      if ts.isEmpty then .ok { p with inData := true } else .error .badDirective
    | "align" =>
      p.emit fun p => do
        let n ← p.value 1 65536 ts
        if 2 ^ Nat.log2 n = n || !p.env.strict then .ok (padding (if p.inData then p.dataHere else p.here) n) else .error .noFit
    | "word" => (operands ts).bind fun tss => p.emit (·.items 4 tss)
    | "half" => (operands ts).bind fun tss => p.emit (·.items 2 tss)
    | "byte" => (operands ts).bind fun tss => p.emit (·.items 1 tss)
    | "float" => (operands ts).bind fun tss => p.emit fun _ => (tss.mapM floatLit).map (·.flatMap wordBytes)
    | "kernel" => (operands ts).bind p.kernelBegin
    | "end" => if ts.isEmpty then p.kernelEnd else .error .badDirective
    | _ =>
      match p.kernel with
      | none => .error .badDirective
      | some k => (p.kernelField k name ts).map fun k => { p with kernel := some k }

/-- One line (R264). -/
def line (p : Pass) (s : String) : Except AsmError Pass := do
  let l ← parseLine s
  let p ← match l.label with
    | some n => p.label n
    | none => .ok p
  match l.body with
  | .none => .ok p
  | .instr g neg mn mods ops => p.instr g neg mn mods ops
  | .directive name ts => p.directive name ts

/-- The end of the source. -/
def finish (p : Pass) : Except AsmError Pass := do
  if p.explicit.isSome then .error .badClause
  else if p.kernel.isSome then .error .badDirective
  else
    let p ← p.close
    p.resolve false

/-- A whole source, with the names that an earlier pass found. -/
def source (code data : Nat) (env : Env) (lines : List String) : Except AsmError Pass := do
  let p ← lines.foldlM line { codeBase := code, dataBase := data, env := env }
  p.finish

end Pass

/-- What bireth emits: both sections and the names. -/
structure Image where
  code : List Byte
  data : List Byte
  names : List Entry
  deriving DecidableEq, Repr

/-- Lay the source out until every name keeps its value, then assemble it. -/
def settle (code data : Nat) (lines : List String) : Nat → List Entry → Except AsmError Image
  | 0, _ => .error .unsettled
  | n + 1, names => do
    let p ← Pass.source code data { names := names, strict := false } lines
    if p.names = names then
      let p ← Pass.source code data { names := names, strict := true } lines
      .ok { code := p.code, data := p.data, names := p.names }
    else settle code data lines n p.names

/-- Assemble a source whose code section lies at `code` and whose data section lies at `data`. A source that is rejected
gives nothing (R272). -/
def assemble (code data : Nat) (lines : List String) : Except AsmError Image := settle code data lines (lines.length + 4) []

end Sys2Proof.Machine.Bireth
end

