-- ==== Sys2Proof/Machine/Disassembler.lean ====
section
/-! DEFINITION. The bireth disassembler (R273): the text of a run of words, clause by clause. -/

namespace Sys2Proof.Machine.Bireth

/-- The decimal digits of a number. -/
def decimal (n : Nat) : String := toString n

def signed (v : Int) : String := if v < 0 then "-" ++ decimal v.natAbs else decimal v.natAbs

def hexDigit (n : Nat) : Char := if n < 10 then Char.ofNat (48 + n) else Char.ofNat (55 + n)

/-- A number in hexadecimal with a trailing h and a leading digit (R265), at least n digits long. -/
def hex (n v : Nat) : String :=
  let ds := ((List.range (max n (Nat.log2 v / 4 + 1))).map fun i => hexDigit (v / 16 ^ i % 16)).reverse
  let ds := if (ds.headD '0').isDigit then ds else '0' :: ds
  String.ofList (ds ++ ['h'])

def vecName (n : Nat) : String := "v" ++ decimal n

/-- The label that the disassembler gives an address. -/
def labelAt (a : Int) : String := "L_" ++ hex 1 a.toNat

/-! ## Operands and modifiers -/

def trapText (b : Bool) : String := if b then ":t" else ""

def crossText (f : Fields) : String :=
  match crossNames.find? (·.2 == f.mode) with
  | some x => "." ++ x.1 ++ "(" ++ decimal f.amt ++ ")" ++ if f.clamp then ".clamp" else ""
  | none => ""

/-- The displacement that the low bits of XM hold (R282). -/
def dispOf (unit low : Nat) : Int := if unit = 4 then 4 * toSigned 8 (low % 256) else toSigned 15 low

def Opd.text (f : Fields) : Opd → String
  | .vec x rd _ _ =>
    if x == .b && f.bs then "s" ++ decimal f.b
    else vecName (f.get x) ++ (if x == .a then crossText f else "") ++ trapText (rd && f.trap x)
  | .c4word => if f.bs then "s" ++ decimal f.b else vecName f.b ++ trapText f.fb
  | .scal x _ _ _ => "s" ++ decimal (f.get x)
  | .pred x _ _ => "p" ++ decimal (f.get x)
  | .tile x => "z" ++ decimal (f.get x)
  | .bar x => "b" ++ decimal (f.get x)
  | .num x _ => decimal (f.get x)
  | .spec x _ _ => ((specials.find? (·.2 == f.get x)).map (·.1)).getD ""
  | .mem _ unit =>
    "[s" ++ decimal f.b ++ " + " ++ vecName f.a ++ (if f.pair then ":" ++ vecName (f.a + 1) else "") ++ trapText f.fa ++
      " + " ++ signed (dispOf unit f.low) ++ "]"
  | .peer => vecName (f.low / 256)
  | .group => "s" ++ decimal (f.low / 256)
  | .tileGroup =>
    "s" ++ decimal f.b ++ if dispOf 1 f.low = 0 then "" else " + " ++ signed (dispOf 1 f.low)
  | .imm => if f.imm ≤ 1023 then signed f.imm else hex 1 f.imm.toNat
  | .target => labelAt f.off
  | .join => labelAt f.xi
  | .walker => "w" ++ decimal (f.d % 8)
  | .slot => "b" ++ decimal (f.low / 2048)

/-- The modifier of a group, where its value is not the one that an instruction without it has. -/
def groupText (names : List (String × Nat)) (v : Nat) : List String :=
  if v = 0 then [] else ((names.find? (·.2 == v)).map (·.1)).toList

/-- The modifiers, in the order of R275. -/
def Row.modText (r : Row) (f : Fields) (hold : Bool) : List String :=
  ((r.minors.find? (·.2 == f.minor)).map (·.1)).getD [] ++ groupText (if r.rounds then roundNames else []) f.rnd ++
    groupText (if r.ext == .xm then scopeNames else []) f.scope ++
    groupText (if r.ext == .xm then orderNames else []) f.order ++ if hold then ["HOLD"] else []

/-- An instruction as a source line (R264). -/
def Row.text (r : Row) (f : Fields) (hold : Bool) : String :=
  let guard := if f.neg then "?!p" ++ decimal f.g ++ " " else if f.g = 0 then "" else "?p" ++ decimal f.g ++ " "
  let ops := (r.ops.filter (Opd.present f)).map (Opd.text f)
  guard ++ (r.modText f hold).foldl (fun s m => s ++ "." ++ m) r.name ++ (if ops.isEmpty then "" else " ") ++
    String.intercalate ", " ops

/-- Whether every scalar register that an instruction names is one of the 64, and every run of vector registers lies among the 128, so that
it does not raise Register-range in every block (R284, R298). -/
def Row.scalarsOk (r : Row) (f : Fields) : Bool :=
  (r.ops.filter (Opd.present f)).all fun o =>
    match o with
    | .scal x _ _ n => decide (f.get x + n.count f ≤ 64)
    | .vec x _ _ n => if x == .b && f.bs then decide (f.b < 64) else decide (f.get x + n.count f ≤ 128)
    | .mem _ _ => decide (f.a + (if f.pair then 2 else 1) ≤ 128)
    | .c4word => !f.bs || decide (f.b < 64)
    | .group => decide (f.low / 256 < 64)
    | _ => true

/-- A word that is no instruction in its place. -/
def wordText (w : Word) : String := ".word " ++ hex 8 w.toNat

/-! ## Clauses -/

/-- The text of one instruction, the first of the words, and how many words it has. `k` is its place in the clause and
`last` says whether it ends the clause (R278, R298). -/
def instrText (h : Header) (addr k : Nat) (w : Word) (rest : List Word) : List String × Nat :=
  let ext := if longBit w then rest.head? else none
  let size := if longBit w then 2 else 1
  let heldExt := longBit w && h.hold.getLsbD k
  let bad : List String := wordText w :: (ext.map wordText).toList
  match decode h.cls w ext, rows.find? (fun r => r.cls == h.cls && r.major == majorOf w) with
  | .ok i, some r =>
    let f := r.fields w ext addr
    if heldExt || (isTransfer i && k + size ≤ h.n) || !r.scalarsOk f then (bad, size)
    else ([r.text f (h.hold.getLsbD (k - 1))], size)
  | _, _ => (bad, size)

/-- The lines of the words of a clause from word k on. -/
def clauseText (h : Header) (addr : Nat) : Nat → Nat → List Word → List String
  | 0, _, _ => []
  | _, _, [] => []
  | n + 1, k, w :: ws =>
    let (ls, size) := instrText h (addr + 4 * k) k w ws
    ls ++ clauseText h addr n (k + size) (ws.drop (size - 1))

/-- Whether a run of words leaves the last of them without its extension word (R277). -/
def cutShort : Nat → List Word → Bool
  | 0, _ => false
  | _, [] => false
  | n + 1, w :: ws => if longBit w then (if ws.isEmpty then true else cutShort n ws.tail) else cutShort n ws

/-- The lines of a run of words at an address: every clause between `.clause` and `.endclause`, with a label before it;
a word that is no clause header stands alone. -/
def clausesText : Nat → Nat → List Word → List String
  | 0, _, _ => []
  | _, _, [] => []
  | n + 1, addr, w :: ws =>
    match decodeHeader w with
    | some h =>
      if h.n ≤ ws.length && !cutShort h.n (ws.take h.n) then
        (labelAt addr ++ ":") :: (if h.yield then ".clause yield" else ".clause") ::
          clauseText h addr h.n 1 (ws.take h.n) ++ ".endclause" :: clausesText n (addr + 4 * (h.n + 1)) (ws.drop h.n)
      else wordText w :: clausesText n (addr + 4) ws
    | none => wordText w :: clausesText n (addr + 4) ws

/-- `bireth -d`: the text of the words at an address (R273). -/
def disassemble (addr : Nat) (ws : List Word) : List String := clausesText ws.length addr ws

end Sys2Proof.Machine.Bireth
end

