-- ==== Sys2Proof/Tests/Slice0.lean ====
section
/-! SUPPORT. Tests: words of the spec and their instructions, terms that `wellFormed` refuses, the spec's worked numbers, small
steps, and for each statement a state and operands that meet its hypotheses. -/

set_option Elab.async false

namespace Sys2Proof.Tests

open Sys2Proof Sys2Proof.Machine

/-! Helpers. -/

def rg (d a b : BitVec 7) (g : BitVec 2) (fa fb : Bool) : Reg := ⟨d, a, b, g, fa, fb⟩

/-- A register form without guard or empty bits. -/
def r3 (d a b : BitVec 7) : Reg := ⟨d, a, b, 0, false, false⟩

/-- The extension words that change nothing. -/
def x0 : Xr := ⟨0, 0, 0, false, false, false, 0, 0, false, 0⟩
def m0 : Xm := ⟨0, 0, 0, 0, false, 0⟩

/-- The words decode to the instruction, and it encodes to them. -/
def dec (c : Cls) (w : Word) (x : Option Word) (i : Instr) : Bool :=
  decide (decode c w x = .ok i) && decide (encode i = some (c, w :: x.toList))

/-- One warp of one block about to issue, at its site. -/
def placed : State := { State.reset.withFetchWord 32 0 with site := some (placeWarp, .a), turn := none }

/-- The die of the placed core. -/
def d0 : DieId := placeCore.dieId

/-- The same with the first 2 GiB of the pool in that die's HBM, and the first 64 KiB pages of the address space mapped, writable. -/
def mapped : State :=
  let s := placed.updDie d0 fun k => { k with
    cur := { version := 1, regions := [{ mode := 3, member := 0, pkg := 0, die := 0, base := 0, size := 2 ^ 31, homeBase := 0 }], members := [] } }
  s.updCore placeCore fun k => { k with tlb := [{ va := 0, log := 21, pa := 0, flags := 3 }] }

/-- Bytes placed in that HBM. -/
def putAt (s : State) (pa : Nat) (bs : List Byte) : State := s.homePuts d0 pa bs

/-- Change the placed warp. -/
def onWarp (s : State) (f : Warp → Warp) : State := s.updWarp placeWarp f

/-- Change its block. -/
def onBlock (s : State) (f : Block → Block) : State := s.updBlock placeBlock f

theorem witness {s : State} {P : Site → Prop} [DecidablePred P] (h : (s.siteOf.any fun x => decide (P x)) = true) :
    ∃ x, s.siteOf = some x ∧ P x := by
  cases e : s.siteOf with
  | none => simp [e] at h
  | some x => exact ⟨x, rfl, by simpa [e] using h⟩

/-- The state behind an instruction or event, when it answers one. -/
def after (i : Instr) (s : State) : Option State :=
  match exec i s with
  | .next t => some t
  | _ => none

/-- An access that succeeds, with bytes and a state of which p holds. -/
def okAccess (a : Access) (p : List Byte → State → Bool) : Bool :=
  match a with
  | .ok bs s => p bs s
  | _ => false

/-- A computation that succeeds with a value of which p holds. -/
def okExcept {ε α : Type} (e : Except ε α) (p : α → Bool) : Bool :=
  match e with
  | .ok a => p a
  | _ => false

/-! Decoding. -/

theorem test_decode_ctrl_1 :
    dec .ctrl 0x00000000 none (.nop (rg 0 0 0 0 false false)) ∧
    dec .ctrl 0x020BC000 none (.smov (rg 2 120 0 0 false false)) ∧
    dec .ctrl 0x0414001F none (.smovi ⟨5, 0, 31⟩) ∧
    dec .ctrl 0x85E00000 (some 0x00008001) (.smoviXi ⟨120, 0, 0⟩ 0x8001) ∧
    dec .ctrl 0x0624A030 none (.sadd (rg 9 20 3 0 false false)) ∧
    dec .ctrl 0x08132010 none (.ssub (rg 4 100 1 0 false false)) ∧
    dec .ctrl 0x0A904020 none (.smul (rg 36 8 2 0 false false)) ∧
    dec .ctrl 0x0C182840 none (.smulhi (rg 6 5 4 0 false false)) ∧
    dec .ctrl 0x0FE0A030 none (.sand (rg 120 20 3 0 false false)) ∧
    dec .ctrl 0x10902C60 none (.sor (rg 36 5 70 0 false false)) ∧
    dec .ctrl 0x12323030 none (.sxor (rg 12 70 3 0 false false)) ∧
    dec .ctrl 0x14202040 none (.sshl (rg 8 4 4 0 false false)) ∧
    dec .ctrl 0x1620A010 none (.sshr (rg 8 20 1 0 false false)) ∧
    dec .ctrl 0x18092780 none (.ssar (rg 2 36 120 0 false false)) ∧
    dec .ctrl 0x1A302001 none (.saddi ⟨12, 4, 1⟩) ∧
    dec .ctrl 0x9A040800 (some 0x00000400) (.saddiXi ⟨1, 1, 0⟩ 0x400) ∧
    dec .ctrl 0x1C104FFF none (.sandi ⟨4, 9, 2047⟩) ∧
    dec .ctrl 0x9C0C1000 (some 0xFFFFFFF8) (.sandiXi ⟨3, 2, 0⟩ 0xFFFFFFF8) ∧
    dec .ctrl 0x1E0828C0 none (.smin (rg 2 5 12 0 false false)) ∧
    dec .ctrl 0x200448C0 none (.smax (rg 1 9 12 0 false false)) ∧
    dec .ctrl 0x2213C080 none (.sminn (rg 4 120 8 0 false false)) ∧
    dec .ctrl 0x24523040 none (.smaxn (rg 20 70 4 0 false false)) ∧
    dec .ctrl 0x26044880 none (.scmp (rg 1 9 8 0 false false)) ∧
    dec .ctrl 0xA61720C0 (some 0x09000000) (.scmpXr (rg 5 100 12 0 false false) ⟨9, 0, 0, false, false, false, 0, 0, false, 0⟩) := by
  decide +kernel

theorem test_decode_ctrl_2 :
    dec .ctrl 0x28182800 none (.sread (rg 6 5 0 0 false false)) ∧
    dec .ctrl 0x2A504000 none (.swrite (rg 20 8 0 0 false false)) ∧
    dec .ctrl 0x2C03FFFD none (.bra ⟨0, 262141⟩) ∧
    dec .ctrl 0x2E2803E8 none (.bz ⟨10, 1000⟩) ∧
    dec .ctrl 0x300C03E8 none (.bnz ⟨3, 1000⟩) ∧
    dec .ctrl 0x32860001 none (.bltz ⟨33, 131073⟩) ∧
    dec .ctrl 0x34ABFFFD none (.bgez ⟨42, 262141⟩) ∧
    dec .ctrl 0x36160001 none (.bru ⟨5, 131073⟩) ∧
    dec .ctrl 0xB80403E8 (some 0x00000400) (.brd ⟨1, 1000⟩ 0x400) ∧
    dec .ctrl 0x3A160001 none (.brw ⟨5, 131073⟩) ∧
    dec .ctrl 0x3C020001 none (.call ⟨0, 131073⟩) ∧
    dec .ctrl 0x3E001002 none (.callr (rg 0 2 0 0 true false)) ∧
    dec .ctrl 0x40000000 none (.ret (rg 0 0 0 0 false false)) ∧
    dec .ctrl 0x42000800 none (.jmpr (rg 0 1 0 0 false false)) ∧
    dec .ctrl 0x44000004 none (.exit (rg 0 0 0 1 false false)) ∧
    dec .ctrl 0x46900000 none (.take (rg 36 0 0 0 false false)) := by
  decide +kernel

theorem test_decode_vec_1 :
    dec .vec 0x01923006 none (.vmov (rg 100 70 0 1 true false)) ∧
    dec .vec 0x80272002 (some 0x00002000) (.vmovXr (rg 9 100 0 0 true false) ⟨0, 0, 0, true, false, false, 0, 0, false, 0⟩) ∧
    dec .vec 0x0218001F none (.vmovi ⟨6, 0, 31⟩) ∧
    dec .vec 0x83E00000 (some 0x00000400) (.vmoviXi ⟨120, 0, 0⟩ 0x400) ∧
    dec .vec 0x0490300C none (.vmovs (rg 36 6 0 3 false false)) ∧
    dec .vec 0x84502800 (some 0x0000C000) (.vmovsXr (rg 20 5 0 0 false false) ⟨0, 0, 3, false, false, false, 0, 0, false, 0⟩) ∧
    dec .vec 0x0790208B none (.iadd (rg 100 4 8 2 true true)) ∧
    dec .vec 0x86932010 (some 0x00000C2C) (.iaddXr (rg 36 100 1 0 false false) ⟨0, 0, 0, false, false, true, 4, 5, true, 0⟩) ∧
    dec .vec 0x0816301B none (.isub (rg 5 70 1 2 true true)) ∧
    dec .vec 0x8993C030 (some 0x00016C2C) (.isubXr (rg 100 120 3 0 false false) ⟨0, 0, 5, true, false, true, 4, 5, true, 0⟩) ∧
    dec .vec 0x0A93C06B none (.imul (rg 36 120 6 2 true true)) ∧
    dec .vec 0x8BE32023 (some 0x00000228) (.imulXr (rg 120 100 2 0 true true) ⟨0, 0, 0, false, false, false, 2, 5, false, 0⟩) ∧
    dec .vec 0x0C172047 none (.imulhi (rg 5 100 4 1 true true)) ∧
    dec .vec 0x8C240023 (some 0x01002228) (.imulhiXr (rg 9 0 2 0 true true) ⟨1, 0, 0, true, false, false, 2, 5, false, 0⟩) ∧
    dec .vec 0x8E532640 (some 0x0022EA2C) (.imad (rg 20 100 100 0 false false) ⟨0, 17, 3, true, false, true, 2, 5, true, 0⟩) ∧
    dec .vec 0x10501C6B none (.imin (rg 20 3 70 2 true true)) ∧
    dec .vec 0x90503243 (some 0x01000428) (.iminXr (rg 20 6 36 0 true true) ⟨1, 0, 0, false, false, false, 4, 5, false, 0⟩) ∧
    dec .vec 0x12132247 none (.imax (rg 4 100 36 1 true true)) ∧
    dec .vec 0x92304040 (some 0x00016A2C) (.imaxXr (rg 12 8 4 0 false false) ⟨0, 0, 5, true, false, true, 2, 5, true, 0⟩) ∧
    dec .vec 0x15E0186F none (.vand (rg 120 3 6 3 true true)) ∧
    dec .vec 0x95902831 (some 0x0001422C) (.vandXr (rg 100 5 3 0 false true) ⟨0, 0, 5, false, false, false, 2, 5, true, 0⟩) ∧
    dec .vec 0x1612302B none (.vor (rg 4 70 2 2 true true)) ∧
    dec .vec 0x9608A040 (some 0x00000D2C) (.vorXr (rg 2 20 4 0 false false) ⟨0, 0, 0, false, false, true, 5, 5, true, 0⟩) ∧
    dec .vec 0x18092787 none (.vxor (rg 2 36 120 1 true true)) := by
  decide +kernel

theorem test_decode_vec_2 :
    dec .vec 0x98143461 (some 0x0000E228) (.vxorXr (rg 5 6 70 0 false true) ⟨0, 0, 3, true, false, false, 2, 5, false, 0⟩) ∧
    dec .vec 0x1A90404F none (.shl (rg 36 8 4 3 true true)) ∧
    dec .vec 0x9A006781 (some 0x0000E284) (.shlXr (rg 0 12 120 0 false true) ⟨0, 0, 3, true, false, false, 2, 16, true, 0⟩) ∧
    dec .vec 0x1C50305F none (.shr (rg 20 6 5 3 true true)) ∧
    dec .vec 0x9C081F81 (some 0x0001452C) (.shrXr (rg 2 3 120 0 false true) ⟨0, 0, 5, false, false, false, 5, 5, true, 0⟩) ∧
    dec .vec 0x1E906067 none (.sar (rg 36 12 6 1 true true)) ∧
    dec .vec 0x9E172241 (some 0x0001642C) (.sarXr (rg 5 100 36 0 false true) ⟨0, 0, 5, true, false, false, 4, 5, true, 0⟩) ∧
    dec .vec 0x2004A03F none (.bfe (rg 1 20 3 3 true true)) ∧
    dec .vec 0xA0072002 (some 0x01002D80) (.bfeXr (rg 1 100 0 0 true false) ⟨1, 0, 0, true, false, true, 5, 16, false, 0⟩) ∧
    dec .vec 0xA2002053 (some 0x00236484) (.bfi (rg 0 4 5 0 true true) ⟨0, 17, 5, true, false, false, 4, 16, true, 0⟩) ∧
    dec .vec 0x2430280E none (.popc (rg 12 5 0 3 true false)) ∧
    dec .vec 0xA413C002 (some 0x00014000) (.popcXr (rg 4 120 0 0 true false) ⟨0, 0, 5, false, false, false, 0, 0, false, 0⟩) ∧
    dec .vec 0x2633200A none (.clz (rg 12 100 0 2 true false)) ∧
    dec .vec 0xA6141800 (some 0x00014200) (.clzXr (rg 5 3 0 0 false false) ⟨0, 0, 5, false, false, false, 2, 0, false, 0⟩) ∧
    dec .vec 0x28042806 none (.brev (rg 1 5 0 1 true false)) ∧
    dec .vec 0xA8163000 (some 0x00002280) (.brevXr (rg 5 70 0 0 false false) ⟨0, 0, 0, true, false, false, 2, 16, false, 0⟩) ∧
    dec .vec 0x2A504C05 none (.addi ⟨20, 9, 1029⟩) ∧
    dec .vec 0xAA502800 (some 0xFFFFFFF8) (.addiXi ⟨20, 5, 0⟩ 0xFFFFFFF8) ∧
    dec .vec 0x2C5010C8 none (.andi ⟨20, 2, 200⟩) ∧
    dec .vec 0xAC184000 (some 0x00000009) (.andiXi ⟨6, 8, 0⟩ 0x9) ∧
    dec .vec 0x2FE02801 none (.shli ⟨120, 5, 1⟩) ∧
    dec .vec 0xAE502800 (some 0x0000001F) (.shliXi ⟨20, 5, 0⟩ 0x1F) ∧
    dec .vec 0x31923005 none (.shri ⟨100, 70, 5⟩) ∧
    dec .vec 0xB0902800 (some 0x00000009) (.shriXi ⟨36, 5, 0⟩ 0x9) := by
  decide +kernel

theorem test_decode_vec_3 :
    dec .vec 0x3204101F none (.fadd (rg 1 2 1 3 true true)) ∧
    dec .vec 0xB2081010 (some 0x00016D06) (.faddXr (rg 2 2 1 0 false false) ⟨0, 0, 5, true, false, true, 5, 0, true, 2⟩) ∧
    dec .vec 0x34242E47 none (.fsub (rg 9 5 100 1 true true)) ∧
    dec .vec 0xB4146642 (some 0x0000252F) (.fsubXr (rg 5 12 100 0 true false) ⟨0, 0, 0, true, false, false, 5, 5, true, 3⟩) ∧
    dec .vec 0x3614A787 none (.fmul (rg 5 20 120 1 true true)) ∧
    dec .vec 0xB7E00833 (some 0x00016584) (.fmulXr (rg 120 1 3 0 true true) ⟨0, 0, 5, true, false, false, 5, 16, true, 0⟩) ∧
    dec .vec 0xB9E06783 (some 0x0006E504) (.ffma (rg 120 12 120 0 true true) ⟨0, 3, 3, true, false, false, 5, 0, true, 0⟩) ∧
    dec .vec 0x3A044A4F none (.fmin (rg 1 9 36 3 true true)) ∧
    dec .vec 0xBA044090 (some 0x0000ED84) (.fminXr (rg 1 8 9 0 false false) ⟨0, 0, 3, true, false, true, 5, 16, true, 0⟩) ∧
    dec .vec 0x3D180847 none (.fmax (rg 70 1 4 1 true true)) ∧
    dec .vec 0xBC023023 (some 0x0001652C) (.fmaxXr (rg 0 70 2 0 true true) ⟨0, 0, 5, true, false, false, 5, 5, true, 0⟩) ∧
    dec .vec 0x3FE3C00E none (.frcp (rg 120 120 0 3 true false)) ∧
    dec .vec 0xBF1B2000 (some 0x00002584) (.frcpXr (rg 70 100 0 0 false false) ⟨0, 0, 0, true, false, false, 5, 16, true, 0⟩) ∧
    dec .vec 0x4091200E none (.frsq (rg 36 36 0 3 true false)) ∧
    dec .vec 0xC1E04000 (some 0x0000E406) (.frsqXr (rg 120 8 0 0 false false) ⟨0, 0, 3, true, false, false, 4, 0, true, 2⟩) ∧
    dec .vec 0x4290100A none (.fsqrt (rg 36 2 0 2 true false)) ∧
    dec .vec 0xC2081800 (some 0x00016228) (.fsqrtXr (rg 2 3 0 0 false false) ⟨0, 0, 5, true, false, false, 2, 5, false, 0⟩) ∧
    dec .vec 0x44302006 none (.fex2 (rg 12 4 0 1 true false)) ∧
    dec .vec 0xC414A002 (some 0x00002003) (.fex2Xr (rg 5 20 0 0 true false) ⟨0, 0, 0, true, false, false, 0, 0, false, 3⟩) ∧
    dec .vec 0x46152006 none (.flg2 (rg 5 36 0 1 true false)) ∧
    dec .vec 0xC7E01800 (some 0x0000E001) (.flg2Xr (rg 120 3 0 0 false false) ⟨0, 0, 3, true, false, false, 0, 0, false, 1⟩) ∧
    dec .vec 0x4818188B none (.icmp (rg 6 3 8 2 true true)) ∧
    dec .vec 0xC80C20C2 (some 0x02016A00) (.icmpXr (rg 3 4 12 0 true false) ⟨2, 0, 5, true, false, true, 2, 0, false, 0⟩) ∧
    dec .vec 0x4A14478B none (.fcmp (rg 5 8 120 2 true true)) := by
  decide +kernel

theorem test_decode_vec_4 :
    dec .vec 0xCA04A013 (some 0x0001622C) (.fcmpXr (rg 1 20 1 0 true true) ⟨0, 0, 5, true, false, false, 2, 5, true, 0⟩) ∧
    dec .vec 0x4C12300E none (.pset (rg 4 70 0 3 true false)) ∧
    dec .vec 0xCC042002 (some 0x00000000) (.psetXr (rg 1 4 0 0 true false) ⟨0, 0, 0, false, false, false, 0, 0, false, 0⟩) ∧
    dec .vec 0xCE13C0C0 (some 0x00076D84) (.sel (rg 4 120 12 0 false false) ⟨0, 3, 5, true, false, true, 5, 16, true, 0⟩) ∧
    dec .vec 0xD0041000 (some 0x0200E481) (.cvt (rg 1 2 0 0 false false) ⟨2, 0, 3, true, false, false, 4, 16, false, 1⟩) ∧
    dec .vec 0x520C6787 none (.pack4 (rg 3 12 120 1 true true)) ∧
    dec .vec 0xD390A012 (some 0x0001422C) (.pack4Xr (rg 100 20 1 0 true false) ⟨0, 0, 5, false, false, false, 2, 5, true, 0⟩) ∧
    dec .vec 0x55182C6B none (.unpack4 (rg 70 5 70 2 true true)) ∧
    dec .vec 0xD5904940 (some 0x00016C84) (.unpack4Xr (rg 100 9 20 0 false false) ⟨0, 0, 5, true, false, true, 4, 16, true, 0⟩) ∧
    dec .vec 0x56202008 none (.ballot (rg 8 4 0 2 false false)) ∧
    dec .vec 0xD60C2800 (some 0x00002000) (.ballotXr (rg 3 5 0 0 false false) ⟨0, 0, 0, true, false, false, 0, 0, false, 0⟩) ∧
    dec .vec 0x58103004 none (.vote (rg 4 6 0 1 false false)) ∧
    dec .vec 0xD8180000 (some 0x0000C000) (.voteXr (rg 6 0 0 0 false false) ⟨0, 0, 3, false, false, false, 0, 0, false, 0⟩) ∧
    dec .vec 0x5A20400E none (.rfl (rg 8 8 0 3 true false)) ∧
    dec .vec 0xDA0A3000 (some 0x00014228) (.rflXr (rg 2 70 0 0 false false) ⟨0, 0, 5, false, false, false, 2, 5, false, 0⟩) ∧
    dec .vec 0x5C140008 none (.laneid (rg 5 0 0 2 false false)) ∧
    dec .vec 0xDC200000 (some 0x01000000) (.laneidXr (rg 8 0 0 0 false false) ⟨1, 0, 0, false, false, false, 0, 0, false, 0⟩) := by
  decide +kernel

theorem test_decode_mem :
    dec .mem 0x000C105A none (.ld ⟨3, 2, 2, true, 2, true, false⟩) ∧
    dec .mem 0x80172112 (some 0x002BC000) (.ldXm ⟨5, 100, 8, true, 0, true, false⟩ ⟨0, 1, 1, 3, true, 0x4000⟩) ∧
    dec .mem 0x031837DF none (.st ⟨70, 6, 62, true, 3, true, true⟩) ∧
    dec .mem 0x8233C113 (some 0x017886FF) (.stXm ⟨12, 120, 8, true, 0, true, true⟩ ⟨1, 3, 3, 0, true, 0x6FF⟩) ∧
    dec .mem 0x04504046 none (.ldl ⟨20, 8, 2, false, 1, true, false⟩) ∧
    dec .mem 0x85912280 (some 0x053D8900) (.ldlXm ⟨100, 36, 20, false, 0, false, false⟩ ⟨5, 1, 3, 5, true, 0x900⟩) ∧
    dec .mem 0x06204FCB none (.stl ⟨8, 9, 62, false, 2, true, true⟩) ∧
    dec .mem 0x860BC283 (some 0x0435C000) (.stlXm ⟨2, 120, 20, false, 0, true, true⟩ ⟨4, 1, 2, 5, true, 0x4000⟩) ∧
    dec .mem 0x0891209F none (.atom ⟨36, 36, 4, true, 3, true, true⟩) ∧
    dec .mem 0x8820A093 (some 0x1C73FFFC) (.atomXm ⟨8, 20, 4, true, 0, true, true⟩ ⟨28, 3, 2, 3, true, 0x7FFC⟩) ∧
    dec .mem 0x0A203287 none (.atoml ⟨8, 6, 20, false, 1, true, true⟩) ∧
    dec .mem 0x8A3067C3 (some 0x042BFFFC) (.atomlXm ⟨12, 12, 62, false, 0, true, true⟩ ⟨4, 1, 1, 3, true, 0x7FFC⟩) ∧
    dec .mem 0x0DE03117 none (.cas ⟨120, 6, 8, true, 1, true, true⟩) ∧
    dec .mem 0x8C1327D3 (some 0x018D4000) (.casXm ⟨4, 100, 62, true, 0, true, true⟩ ⟨1, 4, 1, 5, false, 0x4000⟩) ∧
    dec .mem 0x0E03C7DA none (.pref ⟨0, 120, 62, true, 2, true, false⟩) ∧
    dec .mem 0x8E001290 (some 0x004306FF) (.prefXm ⟨0, 2, 20, true, 0, false, false⟩ ⟨0, 2, 0, 3, false, 0x6FF⟩) ∧
    dec .mem 0x90206052 (some 0x014DFFFC) (.rld ⟨8, 12, 2, true, 0, true, false⟩ ⟨1, 2, 1, 5, true, 0x7FFC⟩) ∧
    dec .mem 0x92101053 (some 0x04930900) (.rst ⟨4, 2, 2, true, 0, true, true⟩ ⟨4, 4, 2, 3, false, 0x900⟩) ∧
    dec .mem 0x94081093 (some 0x1C358900) (.ratom ⟨2, 2, 4, true, 0, true, true⟩ ⟨28, 1, 2, 5, true, 0x900⟩) ∧
    dec .mem 0x96501043 (some 0x00304000) (.mcast ⟨20, 2, 2, false, 0, true, true⟩ ⟨0, 1, 2, 0, false, 0x4000⟩) ∧
    dec .mem 0x98500000 (some 0x05604000) (.combine ⟨20, 0, 0, false, 0, false, false⟩ ⟨5, 3, 0, 0, false, 0x4000⟩) := by
  decide +kernel

theorem test_decode_mtx :
    dec .mtx 0x80042F82 (some 0x01000800) (.mloop (rg 1 5 120 0 true false) ⟨1, 0, 0, false, false, true, 0, 0, false, 0⟩) ∧
    dec .mtx 0x02040000 none (.mzero (rg 1 0 0 0 false false)) ∧
    dec .mtx 0x04900800 none (.mrd (rg 36 1 0 0 false false)) ∧
    dec .mtx 0x84042800 (some 0x00000000) (.mrdXr (rg 1 5 0 0 false false) ⟨0, 0, 0, false, false, false, 0, 0, false, 0⟩) ∧
    dec .mtx 0x06163002 none (.mwr (rg 5 70 0 0 true false)) ∧
    dec .mtx 0x86044002 (some 0x00000000) (.mwrXr (rg 1 8 0 0 true false) ⟨0, 0, 0, false, false, false, 0, 0, false, 0⟩) ∧
    dec .mtx 0x08040280 none (.mst ⟨1, 0, 20, false, 0, false, false⟩) ∧
    dec .mtx 0x88000100 (some 0x01780010) (.mstXm ⟨0, 0, 8, false, 0, false, false⟩ ⟨1, 3, 3, 0, false, 0x10⟩) ∧
    dec .mtx 0x0A100080 none (.mld ⟨4, 0, 4, false, 0, false, false⟩) ∧
    dec .mtx 0x8A040080 (some 0x01284000) (.mldXm ⟨1, 0, 4, false, 0, false, false⟩ ⟨1, 1, 1, 0, false, 0x4000⟩) ∧
    dec .mtx 0x0C040000 none (.mwait (rg 1 0 0 0 false false)) ∧
    dec .mtx 0x0E080000 none (.mstat (rg 2 0 0 0 false false)) := by
  decide +kernel

theorem test_decode_cpy :
    dec .cpy 0x00923640 none (.tcopy (rg 36 70 100 0 false false)) ∧
    dec .cpy 0x8053C140 (some 0x01302800) (.tcopyXm (rg 20 120 20 0 false false) ⟨1, 1, 2, 0, false, 0x2800⟩) ∧
    dec .cpy 0x02240000 none (.cclose (rg 9 0 0 0 false false)) ∧
    dec .cpy 0x0400A240 none (.cbload (rg 0 20 36 0 false false)) ∧
    dec .cpy 0x8403C0C0 (some 0x00480000) (.cbloadXm (rg 0 120 12 0 false false) ⟨0, 2, 1, 0, false, 0x0⟩) ∧
    dec .cpy 0x06000000 none (.cbfree (rg 0 0 0 0 false false)) ∧
    dec .cpy 0x08046000 none (.cchain (rg 1 12 0 0 false false)) ∧
    dec .cpy 0x880C2000 (some 0x00580000) (.cchainXm (rg 3 4 0 0 false false) ⟨0, 2, 3, 0, false, 0x0⟩) ∧
    dec .cpy 0x0A2008C0 none (.cfill (rg 8 1 12 0 false false)) ∧
    dec .cpy 0x8BE0A080 (some 0x01502800) (.cfillXm (rg 120 20 8 0 false false) ⟨1, 2, 2, 0, false, 0x2800⟩) ∧
    dec .cpy 0x0C101800 none (.cstat (rg 4 3 0 0 false false)) := by
  decide +kernel

theorem test_decode_sync :
    dec .sync 0x00302800 none (.bar (rg 12 5 0 0 false false)) ∧
    dec .sync 0x80202800 (some 0x00880000) (.barXm (rg 8 5 0 0 false false) ⟨0, 4, 1, 0, false, 0x0⟩) ∧
    dec .sync 0x02142040 none (.bara (rg 5 4 4 0 false false)) ∧
    dec .sync 0x82063060 (some 0x00580000) (.baraXm (rg 1 70 6 0 false false) ⟨0, 2, 3, 0, false, 0x0⟩) ∧
    dec .sync 0x04200800 none (.barw (rg 8 1 0 0 false false)) ∧
    dec .sync 0x84202000 (some 0x00680000) (.barwXm (rg 8 4 0 0 false false) ⟨0, 3, 1, 0, false, 0x0⟩) ∧
    dec .sync 0x06263000 none (.barinit (rg 9 70 0 0 false false)) ∧
    dec .sync 0x08000000 none (.fence (rg 0 0 0 0 false false)) ∧
    dec .sync 0x88000000 (some 0x00000000) (.fenceXm (rg 0 0 0 0 false false) ⟨0, 0, 0, 0, false, 0x0⟩) ∧
    dec .sync 0x0A004000 none (.waitb (rg 0 8 0 0 false false)) ∧
    dec .sync 0x0C003080 none (.waitc (rg 0 6 8 0 false false)) ∧
    dec .sync 0x8C03C640 (some 0x00380000) (.waitcXm (rg 0 120 100 0 false false) ⟨0, 1, 3, 0, false, 0x0⟩) ∧
    dec .sync 0x8E123050 (some 0x00000009) (.evbind (rg 4 70 5 0 false false) 0x9) ∧
    dec .sync 0x10000005 none (.evmask ⟨0, 0, 5⟩) ∧
    dec .sync 0x1200001F none (.evclr ⟨0, 0, 31⟩) ∧
    dec .sync 0x14000000 none (.waitany (rg 0 0 0 0 false false)) ∧
    dec .sync 0x16001052 none (.mbxsend (rg 0 2 5 0 true false)) ∧
    dec .sync 0x18080010 none (.mbxrecv (rg 2 0 1 0 false false)) ∧
    dec .sync 0x1A001860 none (.regroup (rg 0 3 6 0 false false)) ∧
    dec .sync 0x1C000060 none (.ungroup (rg 0 0 6 0 false false)) ∧
    dec .sync 0x1E000000 none (.yield (rg 0 0 0 0 false false)) := by
  decide +kernel

theorem test_decode_sys :
    dec .sys 0x000003E8 none (.trap ⟨0, 0, 1000⟩) ∧
    dec .sys 0x80000000 (some 0x00008001) (.trapXi ⟨0, 0, 0⟩ 0x8001) ∧
    dec .sys 0x02000000 none (.rtt (rg 0 0 0 0 false false)) ∧
    dec .sys 0x04023000 none (.launch (rg 0 70 0 0 false false)) ∧
    dec .sys 0x062403E8 none (.csrr ⟨9, 0, 1000⟩) ∧
    dec .sys 0x08002001 none (.csrw ⟨0, 4, 1⟩) ∧
    dec .sys 0x0A012000 none (.tlbinv (rg 0 36 0 0 false false)) ∧
    dec .sys 0x8A03C000 (some 0x00800000) (.tlbinvXm (rg 0 120 0 0 false false) ⟨0, 4, 0, 0, false, 0x0⟩) ∧
    dec .sys 0x0C000000 none (.bkpt (rg 0 0 0 0 false false)) := by
  decide +kernel
/-- Words that the chapters of the instructions print beside their assembly. -/
theorem test_spec_words :
    dec .vec 0x82140000 (some 0x3F800000) (.vmoviXi ⟨5, 0, 0⟩ 0x3F800000) ∧
    dec .ctrl 0x04500010 none (.smovi ⟨20, 0, 16⟩) ∧
    dec .vec 0x32102050 none (.fadd (rg 4 4 5 0 false false)) ∧
    dec .ctrl 0x3053FFFC none (.bnz ⟨20, 0x3FFFC⟩) ∧
    dec .vec 0xB2000000 (some 0x00000280) (.faddXr (rg 0 0 0 0 false false) ⟨0, 0, 0, false, false, false, 2, 16, false, 0⟩) ∧
    dec .ctrl 0x3A87FFFD none (.brw ⟨0x21, 0x3FFFD⟩) ∧
    dec .mem 0x80281090 (some 0x01880100) (.ldXm ⟨10, 2, 4, true, 0, false, false⟩ ⟨1, 4, 1, 0, false, 0x100⟩) ∧
    dec .mem 0x881408C0 (some 0x00200008) (.atomXm ⟨5, 1, 6, false, 0, false, false⟩ ⟨0, 1, 0, 0, false, 0x8⟩) ∧
    dec .mem 0x8C200080 (some 0x01980000) (.casXm ⟨8, 0, 4, false, 0, false, false⟩ ⟨1, 4, 3, 0, false, 0x0⟩) ∧
    dec .mem 0x8E000080 (some 0x00800000) (.prefXm ⟨0, 0, 4, false, 0, false, false⟩ ⟨0, 4, 0, 0, false, 0x0⟩) ∧
    dec .mem 0x90301080 (some 0x00800600) (.rld ⟨12, 2, 4, false, 0, false, false⟩ ⟨0, 4, 0, 0, false, 0x600⟩) ∧
    dec .mem 0x921C1880 (some 0x00900600) (.rst ⟨7, 3, 4, false, 0, false, false⟩ ⟨0, 4, 2, 0, false, 0x600⟩) ∧
    dec .mtx 0x80004140 (some 0x10300800) (.mloop (rg 0 8 20 0 false false) ⟨16, 24, 0, false, false, true, 0, 0, false, 0⟩) ∧
    dec .mtx 0x80008180 (some 0x1F380800) (.mloop (rg 0 16 24 0 false false) ⟨31, 28, 0, false, false, true, 0, 0, false, 0⟩) ∧
    dec .mtx 0x02040000 none (.mzero (rg 1 0 0 0 false false)) ∧
    dec .mtx 0x04800000 none (.mrd (rg 32 0 0 0 false false)) ∧
    dec .mtx 0x88000380 (some 0x01400000) (.mstXm ⟨0, 0, 28, false, 0, false, false⟩ ⟨1, 2, 0, 0, false, 0x0⟩) ∧
    dec .mtx 0x0A040380 none (.mld ⟨1, 0, 28, false, 0, false, false⟩) ∧
    dec .mtx 0x0C000000 none (.mwait (rg 0 0 0 0 false false)) ∧
    dec .mtx 0x0E140000 none (.mstat (rg 5 0 0 0 false false)) ∧
    dec .cpy 0x004020C0 none (.tcopy (rg 16 4 12 0 false false)) ∧
    dec .cpy 0x0A4028C0 none (.cfill (rg 16 5 12 0 false false)) ∧
    dec .cpy 0x02540000 none (.cclose (rg 21 0 0 0 false false)) ∧
    dec .cpy 0x04002060 none (.cbload (rg 0 4 6 0 false false)) ∧
    dec .cpy 0x06000000 none (.cbfree (rg 0 0 0 0 false false)) ∧
    dec .cpy 0x08042000 none (.cchain (rg 1 4 0 0 false false)) ∧
    dec .cpy 0x0C1C1000 none (.cstat (rg 7 2 0 0 false false)) ∧
    dec .sync 0x00044000 none (.bar (rg 1 8 0 0 false false)) ∧
    dec .sync 0x02004090 none (.bara (rg 0 8 9 0 false false)) ∧
    dec .sync 0x04004000 none (.barw (rg 0 8 0 0 false false)) ∧
    dec .sync 0x06003000 none (.barinit (rg 0 6 0 0 false false)) ∧
    dec .sync 0x88000000 (some 0x00900000) (.fenceXm (rg 0 0 0 0 false false) ⟨0, 4, 2, 0, false, 0x0⟩) ∧
    dec .sync 0x0A00A000 none (.waitb (rg 0 20 0 0 false false)) ∧
    dec .sync 0x0C0050C0 none (.waitc (rg 0 10 12 0 false false)) ∧
    dec .sync 0x8E08F050 (some 0x00000010) (.evbind (rg 2 30 5 0 false false) 0x10) ∧
    dec .sync 0x1000000C none (.evmask ⟨0, 0, 0xC⟩) ∧
    dec .sync 0x12000004 none (.evclr ⟨0, 0, 4⟩) ∧
    dec .sync 0x14000000 none (.waitany (rg 0 0 0 0 false false)) ∧
    dec .sync 0x18180030 none (.mbxrecv (rg 6 0 3 0 false false)) ∧
    dec .sync 0x1A000880 none (.regroup (rg 0 1 8 0 false false)) ∧
    dec .sync 0x1C000080 none (.ungroup (rg 0 0 8 0 false false)) ∧
    dec .sync 0x1E000000 none (.yield (rg 0 0 0 0 false false)) ∧
    dec .sys 0x00000005 none (.trap ⟨0, 0, 5⟩) ∧
    dec .sys 0x02000000 none (.rtt (rg 0 0 0 0 false false)) ∧
    dec .sys 0x04005000 none (.launch (rg 0 10 0 0 false false)) ∧
    dec .sys 0x06140002 none (.csrr ⟨5, 0, 2⟩) ∧
    dec .sys 0x08002900 none (.csrw ⟨0, 5, 0x100⟩) ∧
    dec .vec 0xB82048A2 (some 0x0010A003) (.ffma ⟨8, 9, 10, 0, true, false⟩ ⟨0, 8, 2, true, false, false, 0, 0, false, 3⟩) ∧
    dec .sys 0x0C000000 none (.bkpt (rg 0 0 0 0 false false)) := by
  decide +kernel
theorem test_illformed_1 :
    ([
      .exit (rg 0 0 0 0 true false),
      .callr (rg 0 0 0 0 false true),
      .ldl ⟨0, 0, 0, true, 0, false, false⟩,
      .mcast ⟨0, 0, 0, false, 0, false, false⟩ ⟨0, 0, 3, 0, false, 0x0⟩,
      .sread (rg 1 0 0 0 false false),
      .swrite (rg 20 9 0 0 false false),
      .brw ⟨24, 6⟩,
      .shli ⟨0, 0, 200⟩,
      .trap ⟨0, 0, 1029⟩,
      .evmask ⟨0, 0, 1000⟩,
      .combine ⟨0, 0, 0, false, 0, false, false⟩ ⟨0, 0, 0, 0, false, 0x7FFC⟩,
      .mldXm ⟨0, 0, 0, false, 0, false, false⟩ ⟨29, 0, 0, 0, false, 0x0⟩,
      .combine ⟨0, 0, 0, false, 0, false, false⟩ ⟨7, 0, 0, 0, false, 0x0⟩,
      .scmpXr (rg 0 0 0 0 false false) ⟨15, 0, 0, false, false, false, 0, 0, false, 0⟩,
      .baraXm (rg 0 0 0 0 false false) ⟨0, 0, 1, 0, false, 0x0⟩,
      .waitcXm (rg 0 0 0 0 false false) ⟨0, 0, 2, 0, false, 0x0⟩,
      .mldXm ⟨0, 0, 0, false, 0, false, false⟩ ⟨0, 0, 2, 0, false, 0x0⟩,
      .shliXi ⟨0, 0, 0⟩ 0xFFFFFFF8,
      .trapXi ⟨0, 0, 0⟩ 0x10000,
      .tcopy (rg 0 3 0 0 false false),
      .waitc (rg 0 0 3 0 false false),
      .cas ⟨3, 0, 0, false, 0, false, false⟩,
      .mloop (rg 0 0 6 0 false false) ⟨0, 0, 0, false, false, true, 0, 0, false, 0⟩,
      .tcopy (rg 2 0 0 0 false false),
      .smovi ⟨0, 2, 0⟩,
      .smov (rg 0 0 12 0 false false),
      .combine ⟨0, 0, 20, false, 0, false, false⟩ ⟨0, 0, 0, 0, false, 0x0⟩,
      .bra ⟨64, 6⟩,
      .callr (rg 70 0 0 0 false false),
      .callr (rg 0 0 0 3 false false)] : List Instr).all (fun i => !wellFormed i) = true := by
  decide +kernel

theorem test_illformed_2 :
    ([
      .smoviXi ⟨0, 0, 31⟩ 0x8001,
      .nop (rg 2 0 0 0 false false),
      .nop (rg 0 2 0 0 false false),
      .nop (rg 0 0 1 0 false false),
      .nop (rg 0 0 0 2 false false),
      .smul (rg 0 0 0 0 false true),
      .smul (rg 0 0 0 0 true false),
      .smul (rg 0 0 0 2 false false),
      .ld ⟨0, 0, 1, false, 0, false, false⟩,
      .ld ⟨0, 0, 1, true, 0, false, false⟩,
      .evbind (rg 0 0 0 0 false false) 0x10000,
      .evbind (rg 0 0 36 0 false false) 0x400,
      .evbind (rg 0 20 0 0 false false) 0x20,
      .evbind (rg 4 0 0 0 false false) 0x1F,
      .mst ⟨0, 2, 0, false, 0, false, false⟩,
      .mst ⟨0, 0, 2, false, 0, false, false⟩,
      .mst ⟨36, 0, 0, false, 0, false, false⟩,
      .mst ⟨0, 0, 0, true, 0, false, false⟩,
      .mst ⟨0, 0, 0, false, 0, false, true⟩,
      .sread (rg 0 70 0 0 false false),
      .cstat (rg 0 9 0 0 false false),
      .ballot (rg 0 120 0 0 false false),
      .mbxrecv (rg 0 0 120 0 false false),
      .brw ⟨64, 6⟩,
      .bru ⟨10, 6⟩,
      .bar (rg 36 0 0 0 false false),
      .cchain (rg 9 0 0 0 false false),
      .icmp (rg 8 0 0 0 false false),
      .swrite (rg 0 0 0 0 false false),
      .mrdXr (rg 0 0 0 0 false false) ⟨0, 0, 0, false, true, false, 0, 0, false, 0⟩] : List Instr).all (fun i => !wellFormed i) = true := by
  decide +kernel

theorem test_illformed_3 :
    ([
      .mrdXr (rg 0 0 0 0 false false) ⟨0, 0, 3, false, false, false, 0, 0, false, 0⟩,
      .mrdXr (rg 0 0 0 0 false false) ⟨0, 0, 0, true, false, false, 0, 0, false, 0⟩,
      .prefXm ⟨0, 0, 0, false, 0, false, false⟩ ⟨7, 0, 0, 0, false, 0x0⟩,
      .mcast ⟨0, 0, 0, false, 0, false, false⟩ ⟨0, 0, 0, 5, false, 0x0⟩,
      .atomXm ⟨3, 0, 0, false, 0, false, false⟩ ⟨3, 0, 0, 0, false, 0x0⟩,
      .vmovXr (rg 0 0 0 0 false false) ⟨0, 0, 0, false, false, true, 0, 0, false, 0⟩,
      .iaddXr (rg 4 0 0 0 false true) ⟨0, 0, 0, false, false, true, 0, 0, false, 0⟩,
      .vmovXr (rg 0 0 0 0 false false) ⟨0, 0, 0, false, true, false, 0, 0, false, 0⟩,
      .sel (rg 0 0 0 0 false false) ⟨0, 17, 0, false, false, false, 0, 0, false, 0⟩,
      .casXm ⟨0, 0, 0, false, 0, false, false⟩ ⟨2, 0, 0, 0, false, 0x0⟩,
      .vmovsXr (rg 0 0 0 0 false false) ⟨0, 0, 0, false, false, false, 0, 5, false, 0⟩,
      .vmovXr (rg 0 0 0 0 false false) ⟨0, 0, 0, false, false, false, 0, 16, false, 0⟩,
      .vmovXr (rg 0 0 0 0 false false) ⟨0, 0, 0, false, false, false, 0, 0, true, 0⟩,
      .vmovXr (rg 0 0 0 0 false false) ⟨0, 0, 0, false, false, false, 7, 0, false, 0⟩,
      .cvt (rg 0 0 0 0 false false) ⟨0, 0, 0, false, false, false, 0, 0, false, 0⟩,
      .cvt (rg 12 0 0 0 false false) ⟨0, 0, 0, false, false, false, 0, 0, false, 0⟩,
      .cvt (rg 0 0 70 0 false false) ⟨0, 0, 0, false, false, false, 0, 0, false, 0⟩,
      .cvt (rg 0 4 0 0 false false) ⟨0, 0, 0, false, false, false, 0, 0, false, 0⟩,
      .cvt (rg 0 0 0 0 false false) ⟨31, 0, 0, false, false, false, 0, 0, false, 0⟩,
      .cvt (rg 0 0 0 0 false false) ⟨0, 3, 0, false, false, false, 0, 0, false, 0⟩,
      .cvt (rg 0 0 0 0 false false) ⟨0, 0, 0, false, false, false, 0, 5, false, 0⟩,
      .cvt (rg 0 0 0 0 false false) ⟨0, 0, 0, false, false, false, 0, 0, false, 2⟩,
      .tcopyXm (rg 0 0 0 0 false false) ⟨0, 0, 0, 5, false, 0x0⟩,
      .tcopyXm (rg 0 0 0 0 false false) ⟨0, 0, 0, 0, false, 0x600⟩,
      .tcopyXm (rg 0 0 0 0 false false) ⟨2, 0, 0, 0, false, 0x0⟩,
      .tcopyXm (rg 0 0 0 0 false false) ⟨0, 0, 0, 0, true, 0x0⟩,
      .ldXm ⟨0, 0, 0, false, 0, false, false⟩ ⟨6, 0, 0, 0, false, 0x0⟩,
      .ldXm ⟨0, 0, 2, false, 0, false, false⟩ ⟨7, 0, 0, 0, false, 0x0⟩,
      .ldXm ⟨0, 4, 0, false, 0, false, false⟩ ⟨28, 0, 0, 0, false, 0x0⟩,
      .vmovXr (rg 0 0 0 0 false false) ⟨98, 0, 0, false, false, false, 0, 0, false, 0⟩] : List Instr).all (fun i => !wellFormed i) = true := by
  decide +kernel

theorem test_illformed_4 :
    ([
      .imulhiXr (rg 0 0 0 0 false false) ⟨136, 0, 0, false, false, false, 0, 0, false, 0⟩,
      .fcmpXr (rg 0 0 0 0 false false) ⟨9, 0, 0, false, false, false, 0, 0, false, 0⟩,
      .icmpXr (rg 0 0 0 0 false false) ⟨31, 0, 0, false, false, false, 0, 0, false, 0⟩,
      .mloop (rg 0 0 0 0 false false) ⟨0, 0, 0, false, false, false, 0, 0, false, 0⟩,
      .mloop (rg 0 20 0 0 false false) ⟨0, 0, 0, false, false, false, 0, 0, false, 0⟩,
      .mloop (rg 0 0 0 0 false false) ⟨0, 0, 0, false, false, false, 0, 16, false, 0⟩,
      .mloop (rg 0 0 0 0 false false) ⟨0, 0, 0, false, true, false, 0, 0, false, 0⟩,
      .mloop (rg 0 0 8 0 false false) ⟨0, 0, 0, false, false, false, 0, 0, false, 0⟩,
      .mloop (rg 5 0 0 0 false false) ⟨0, 0, 0, false, false, false, 0, 0, false, 0⟩,
      .cbloadXm (rg 0 0 0 0 false false) ⟨0, 0, 0, 3, false, 0x0⟩,
      .cbloadXm (rg 0 0 0 0 false false) ⟨0, 0, 0, 0, false, 0x6FF⟩,
      .cbloadXm (rg 0 0 0 0 false false) ⟨1, 0, 0, 0, false, 0x0⟩,
      .cbloadXm (rg 0 0 0 0 false false) ⟨0, 0, 0, 0, true, 0x0⟩,
      .vmovXr (rg 0 0 0 0 false false) ⟨0, 0, 0, false, false, false, 0, 0, false, 1⟩,
      .ldXm ⟨20, 0, 0, false, 0, false, false⟩ ⟨0, 5, 0, 0, false, 0x0⟩,
      .stXm ⟨0, 0, 0, false, 0, false, false⟩ ⟨0, 0, 1, 0, false, 0x0⟩,
      .stXm ⟨0, 0, 0, false, 0, false, false⟩ ⟨7, 0, 0, 0, false, 0x0⟩,
      .stXm ⟨0, 70, 0, false, 0, false, false⟩ ⟨8, 0, 0, 0, false, 0x0⟩,
      .stXm ⟨0, 20, 0, false, 0, false, false⟩ ⟨0, 0, 1, 0, false, 0x0⟩,
      .scmpXr (rg 0 0 0 0 false false) ⟨0, 0, 0, false, false, false, 4, 0, false, 0⟩,
      .scmpXr (rg 0 0 0 0 false false) ⟨0, 0, 3, false, false, false, 0, 0, false, 0⟩,
      .scmpXr (rg 0 0 0 0 false false) ⟨0, 0, 0, false, false, false, 0, 0, false, 2⟩,
      .scmpXr (rg 0 0 0 0 false false) ⟨0, 0, 0, false, true, false, 0, 0, false, 0⟩,
      .prefXm ⟨0, 0, 0, false, 0, false, false⟩ ⟨0, 0, 3, 0, false, 0x0⟩] : List Instr).all (fun i => !wellFormed i) = true := by
  decide +kernel
/-! Hypotheses that can be met: scalars, branches, vectors. -/

theorem witness_ScalarResults : ∃ x, placed.siteOf = some x ∧ ([63, 0, 62].all scalarOk = true ∧ (9 : BitVec 8).toNat ≤ 9) :=
  witness (by decide +kernel)

theorem witness_SpecialReads : ∃ x, placed.siteOf = some x ∧ ∀ n ∈ (List.range 13 ++ (List.range 8).map (16 + ·) ++ (List.range 12).map (32 + ·)),
    wellFormed (.sread (r3 62 (BitVec.ofNat 7 n) 0)) = true ∧ (r3 62 (BitVec.ofNat 7 n) 0).a.toNat = n := witness (by decide +kernel)

theorem witness_SpecialWrites : ∃ x, placed.siteOf = some x ∧ ∀ n ∈ [3, 5, 8, 9],
    wellFormed (.swrite (r3 (BitVec.ofNat 7 n) 63 0)) = true ∧ (r3 (BitVec.ofNat 7 n) 63 0).d.toNat = n ∧ (63 : BitVec 7).toNat < 64 :=
  witness (by decide +kernel)

/-- An input walker over 32-bit elements, 4 bytes apart, two vectors of 32. -/
def inputDesc : List Byte := leBytes 8 0x1000 ++ leBytes 4 128 ++ leBytes 4 0 ++ leBytes 4 0 ++ leBytes 2 2 ++ leBytes 2 1 ++ leBytes 2 1 ++
  [8] ++ zeros 5

/-- The same for output. -/
def outputDesc : List Byte := inputDesc.take 26 ++ [9] ++ zeros 5

theorem witness_WalkerBindings_unbind : ∃ x, placed.siteOf = some x ∧ (x.w.spair 4 = 0 ∧ 16 ≤ x.w.units ∧ (x.w.vreg 127).full = true) :=
  witness (by decide +kernel)

theorem witness_WalkerBindings_bind : ∃ x, (onWarp (putAt mapped 0x2000 inputDesc) (·.setS 4 0x2000)).siteOf = some x ∧
    (x.w.spair 4 ≠ 0 ∧ 16 ≤ x.w.units ∧ threadBusy x.w x.sel = false ∧ (x.w.vreg 120).full = true ∧
      okAccess ((onWarp (putAt mapped 0x2000 inputDesc) (·.setS 4 0x2000)).readVirtual 0 x.core 0 (x.w.spair 4).toNat 32 2)
        (fun desc _ => walkDescOk desc && desc == inputDesc) = true) := witness (by decide +kernel)

theorem witness_Branches_uniform : ∃ x, placed.siteOf = some x ∧ (x.sl.mask ≠ 0 ∧
    (∀ l, l < 32 → x.sl.mask.getLsbD l = true → (x.w.preg 0).getLsbD l = true) ∧
    (∀ l, l < 32 → x.sl.mask.getLsbD l = true → (x.w.preg 7).getLsbD l = false)) := witness (by decide +kernel)

theorem witness_Branches_registers : ∃ x, placed.siteOf = some x ∧ (sourcesReady x x.sl.mask [(127, true)] [] = true ∧
    (∀ l, l < 32 → x.sl.mask.getLsbD l = true → lane (readLanes x.w 127) l = 0) ∧ (x.w.spair 62).toNat < 2 ^ 57) :=
  witness (by decide +kernel)

theorem witness_CrossLaneModes : ∀ m : BitVec 3, m.toNat ≤ 5 → ∃ x : Xr, x.mode = m := fun m _ => ⟨{ x0 with mode := m }, rfl⟩

/-- The vector results: sources and a destination that are ready, in registers at both ends of the file, and with an output walker in the
place of the destination. -/
theorem witness_VectorMoves : ∃ x, placed.siteOf = some x ∧ (sourcesReady x ((VForm.long x0).act x) [(127, true), (0, false)] [63] = true ∧
    destReady placed x 127 = true ∧ destReady placed x 0 = true) := witness (by decide +kernel)

/-- A walker in the place of v121. -/
def withOutput : State := onWarp mapped fun w => { w with walkers := lput w.walkers 1 { bound := 0x2000, desc := outputDesc, i0 := 1, i1 := 0, i2 := 0, pre := [] } default }

theorem witness_IntegerResults : ∃ x, withOutput.siteOf = some x ∧ (sourcesReady x x.sl.mask [(3, false), (4, false)] [] = true ∧
    vectorOk x.w 121 = true ∧ x.w.boundWalker 121 = some 1 ∧ isInput x.w 1 = false ∧
    (withOutput.stepInputs x x.w [3, 4]).1.walkOpen (x.withW (x.stepped [3, 4])) x.sl.mask [(1, lanesOf fun l => BitVec.ofNat 32 l)] = true) := witness (by decide +kernel)

/-- An input walker in the place of a source, with its next vector there. -/
def withInput : State := onWarp mapped fun w => { w with
  walkers := lput w.walkers 0 { bound := 0x2000, desc := inputDesc, i0 := 0, i1 := 0, i2 := 0, pre := [⟨lanesOf fun l => BitVec.ofNat 32 l, 0, 0x1000⟩] } default }

theorem witness_BitFields : ∃ x, withInput.siteOf = some x ∧ (sourcesReady x x.sl.mask [(120, false), (4, false), (120, false)] [] = true ∧
    destReady withInput x 5 = true) := witness (by decide +kernel)

theorem witness_FloatResults : ∃ x, placed.siteOf = some x ∧ (sourcesReady x ((VForm.long { x0 with bs := true, rnd := 3 }).act x) [(1, true), (2, true)] [5] = true ∧
    destReady placed x 1 = true) := witness (by decide +kernel)

theorem witness_FloatRounding : (f32Num 0x3F800000).value = some 1 ∧ (f32Num 1).value = some (2 ^ (-149 : Int)) ∧
    (f32Num 0x80000000).value = some 0 ∧ ∃ q, (f32Num (fadd .ru 0x3F800000 1)).value = some q := by
  refine ⟨?_, ?_, ?_, ?_⟩
  · rw [show f32Num 0x3F800000 = .fin false (2 ^ 23) (-23) by decide +kernel]; norm_num [Num.value]
  · rw [show f32Num 1 = .fin false 1 (-149) by decide +kernel]; norm_num [Num.value]
  · rw [show f32Num 0x80000000 = .fin true 0 (-149) by decide +kernel]; norm_num [Num.value]
  · rw [show f32Num (fadd .ru 0x3F800000 1) = .fin false 8388609 (-23) by decide +kernel]; exact ⟨_, rfl⟩

theorem witness_FloatSpecials : let nan := fun a : Word => 0x7F800000 < a.toNat % 2 ^ 31
    let fin := fun a : Word => a.toNat % 2 ^ 31 < 0x7F800000
    nan 0x7F800001 ∧ nan 0xFFFFFFFF ∧ (0xFF800000 : Word).toNat % 2 ^ 31 = 0x7F800000 ∧ fin 0x7F7FFFFF ∧ (0x80000000 : Word).toNat % 2 ^ 31 = 0 ∧
    fin 0x80000001 ∧ (0x80000001 : Word).toNat % 2 ^ 31 ≠ 0 := by decide +kernel

theorem witness_LongFunctions : ∃ x, placed.siteOf = some x ∧ (sourcesReady x ((VForm.short (r3 2 1 0)).act x) [(1, false)] [] = true ∧
    longReady placed x [2] = true ∧ x.w.longFlights < 8) := witness (by decide +kernel)

theorem witness_LongFunctions_values : (0xC0800000 : Word).msb = true ∧ 0 < (0xC0800000 : Word).toNat % 2 ^ 31 ∧
    (0xC0800000 : Word).toNat % 2 ^ 31 < 0x7F800000 ∧ f32Num 0x40000000 = .fin false (2 ^ 23) (-22) ∧
    f32Num (fsqrt .rd 0x40000000) = .fin false 11863283 (-23) := by decide +kernel

theorem witness_LaneResults : ∃ x, placed.siteOf = some x ∧ (sourcesReady x ((VForm.long x0).act x) [(3, false), (4, false)] [] = true ∧
    (9 : BitVec 8).toNat ≤ 9 ∧ (5 : BitVec 8).toNat ≤ 5 ∧ (1 : BitVec 8).toNat ≤ 1 ∧ destReady placed x 6 = true ∧ (63 : BitVec 7).toNat < 64) :=
  witness (by decide +kernel)

theorem witness_UnpackValues : (0x00040000 : Word).extractLsb' 18 14 ≠ 0 ∧ 0x7F80 < (((0x00007FC0 : Word).extractLsb' 0 16).toNat % 2 ^ 15) ∧
    ((0x0000FF80 : Word).extractLsb' 0 16).toNat % 2 ^ 15 = 0x7F80 ∧ bf16.num 0x3F80 = .fin false 128 (-7) ∧ (15 : Nat) < 16 := by decide +kernel

theorem witness_ConvertResults : ∃ x, placed.siteOf = some x ∧ ∀ q ∈ [(14, 13), (8, 2), (2, 14), (0, 1)],
    q.1 ≤ 14 ∧ q.2 ≤ 14 ∧ sourcesReady x x.sl.mask [(2, false), (3, false), (6, false)] [7] = true ∧ [8, 9].all (destReady placed x) = true ∧
      (q.1 ≤ 12 → vectorOk x.w 8 = true) :=
  witness (by decide +kernel)

theorem witness_IntegerConversions : f32Num 0xC0200000 = .fin true (5 * 2 ^ 21) (-22) ∧ 0x7F800000 < (0xFFC00000 : Word).toNat % 2 ^ 31 := by
  decide +kernel

/-! Memory instructions at issue. -/

theorem witness_MemoryIssue : ∃ x, placed.siteOf = some x ∧
    (sourcesReady x (memAct x ⟨8, 4, 4, true, 0, false, false⟩ none) [(4, false), (5, false), (8, false), (9, false), (10, false), (11, false), (6, false)] [] = true ∧
      longReady placed x [8, 9] = true ∧ x.w.countedFlights < 8 ∧ x.w.longFlights < 8 ∧
      (∀ l, l < 32 → laneAddress x .pool ⟨8, 4, 4, true, 0, false, false⟩ none l % 8 = 0 ∧
        laneAddress x .pool ⟨8, 4, 4, true, 0, false, false⟩ none l < 2 ^ 57 ∧
        placed.scratchAt x.w.block x.b (laneAddress x .scratch ⟨8, 4, 4, false, 0, false, false⟩ (some { m0 with low := 0x3FF8 }) l) 8 ≠ .fault ∧
        laneAddress x .peer ⟨8, 4, 4, false, 0, false, false⟩ (some { m0 with low := 0x8601 }) l % 4 = 0) ∧
      (∀ sp, sp ∈ [MemSpace.pool, .scratch, .peer] → placed.tagNeed x { space := sp, kind := .load, minor := 0 }
        { Flight.issue x (.ld ⟨8, 4, 4, false, 0, false, false⟩) (memAct x ⟨8, 4, 4, false, 0, false, false⟩ none) [8] true with
          remaining := if sp = .pool then BitVec.allOnes 32 else 0, waiting := if sp = .pool then 0 else BitVec.allOnes 32
          x := capture x.w [4], peers := readLanes x.w 0 } ≤ placed.freeTags x.core) ∧
      ((x.w.flights.filter fun g => g.by_ != x.sel).map fun g => g.slots.length).foldl (· + ·) 0 < 4) := witness (by decide +kernel)

/-- The placed warp in a domain of its package, its core with no free tag. -/
def tagless : State := ({ placed with dom := { placed.dom with configured := true, nrow := 1, ncol := 1, release := [0] } } : State).updCore placeCore fun k => { k with tags := (List.range 256).map fun n => (n, { (default : Tag) with held := true }) }

theorem witness_MemoryIssue_noTag : ∃ x, tagless.siteOf = some x ∧ (memAct x ⟨8, 4, 4, false, 0, false, false⟩ (some m0) ≠ 0 ∧
    (let m : Mm := ⟨8, 4, 4, false, 0, false, false⟩
     tagless.freeTags x.core < tagless.tagNeed x { space := .peer, kind := .load, minor := 0 }
      { Flight.issue x (.rld m m0) (memAct x m (some m0)) [8] true with waiting := memAct x m (some m0), x := capture x.w [4], peers := readLanes x.w 0 }) ∧
    longReady tagless x [8] = true ∧
    sourcesReady x (memAct x ⟨8, 4, 4, false, 0, false, false⟩ (some m0)) [(4, false), (0, false)] [] = true ∧
    ∀ l, l < 32 → laneAddress x .peer ⟨8, 4, 4, false, 0, false, false⟩ (some m0) l % 4 = 0) := witness (by decide +kernel)

theorem witness_GroupIssue : ∃ x, placed.siteOf = some x ∧ (x.w.countedFlights < 8 ∧ x.w.longFlights < 8 ∧
    ((0x900 : BitVec 15).extractLsb' 8 7).toNat = 9 ∧ sourcesReady x x.sl.mask [(1, false), (4, false)] [] = true ∧
    lowestLane x.sl.mask = some 0 ∧ laneAddress x .peer ⟨4, 1, 4, false, 0, false, false⟩ (some { m0 with low := 0x900 }) 0 < 2 ^ 57 ∧
    laneAddress x .peer ⟨4, 1, 4, false, 0, false, false⟩ (some { m0 with low := 0x900 }) 0 % 128 = 0 ∧
    (x.w.vreg 20).full = true ∧ longReady placed x [20] = true ∧ (x.w.sreg 9).toNat % 1024 = 0 ∧ 1 ≤ placed.freeTags x.core ∧
    ((x.w.flights.filter fun g => g.by_ != x.sel).map fun g => g.slots.length).foldl (· + ·) 0 < 4) := witness (by decide +kernel)

/-- The warp behind an uncommitted result of its clause. -/
def holding : State := onWarp placed fun w => w.setSlot .a { w.a with held := [.v 5 0xFFFFFFFF zeroLanes] }

theorem witness_PrefetchAndHold : ∃ x, holding.siteOf = some x ∧ ([5].any (heldWritesV x.sl) = true ∧ clausePending x.w x.sel = false ∧
    sourcesReady x (memAct x ⟨0, 1, 4, false, 0, false, false⟩ none) [(1, false)] [] = true) := witness (by decide +kernel)

/-- An instruction of that clause still in flight. -/
def flying : State := onWarp holding fun w => { w with
  flights := [{ (default : Flight) with id := 1, instr := .frcp (r3 6 1 0), dest := [6], inA := true, by_ := .a }] }

theorem witness_PrefetchAndHold_waits : ∃ x, flying.siteOf = some x ∧ ([5].any (heldWritesV x.sl) = true ∧ clausePending x.w x.sel = true) :=
  witness (by decide +kernel)

theorem witness_AddressTraps_space : ∃ x, (onWarp placed (·.setS 5 0x02000000)).siteOf = some x ∧
    (sourcesReady x (memAct x ⟨8, 1, 4, false, 0, false, false⟩ none) [(1, false)] [] = true ∧ longReady (onWarp placed (·.setS 5 0x02000000)) x [8] = true ∧
      lowestLane (memAct x ⟨8, 1, 4, false, 0, false, false⟩ none &&&
        maskOf fun l => decide (2 ^ 57 ≤ laneAddress x .pool ⟨8, 1, 4, false, 0, false, false⟩ none l)) = some 0) := witness (by decide +kernel)

theorem witness_AddressTraps_alignment : ∃ x, (onWarp placed (·.setS 4 2)).siteOf = some x ∧
    (memAct x ⟨8, 1, 4, false, 0, false, false⟩ none &&& (maskOf fun l => decide (2 ^ 57 ≤ laneAddress x .pool ⟨8, 1, 4, false, 0, false, false⟩ none l)) = 0 ∧
      lowestLane (memAct x ⟨8, 1, 4, false, 0, false, false⟩ none &&& maskOf fun l => laneAddress x .pool ⟨8, 1, 4, false, 0, false, false⟩ none l % 4 != 0) = some 0 ∧
      (memAct x ⟨8, 1, 4, false, 0, false, false⟩ none &&& maskOf fun l =>
        (onWarp placed (·.setS 4 2)).scratchAt x.w.block x.b (laneAddress x .scratch ⟨8, 1, 4, false, 0, false, false⟩ none l) 4 == .fault) = 0) :=
  witness (by decide +kernel)

theorem witness_AddressTraps_scratch : ∃ x, (onWarp placed (·.setS 4 0x30000000)).siteOf = some x ∧
    lowestLane (memAct x ⟨8, 1, 4, false, 0, false, false⟩ none &&& maskOf fun l =>
      (onWarp placed (·.setS 4 0x30000000)).scratchAt x.w.block x.b (laneAddress x .scratch ⟨8, 1, 4, false, 0, false, false⟩ none l) 4 == .fault) = some 0 :=
  witness (by decide +kernel)


/-! The engines' instructions. -/

/-- A warp whose scalar registers begin with these words. -/
def withS (ws : List Word) : State := onWarp placed fun w => (List.range ws.length).foldl (fun w k => w.setS k (ws.getD k 0)) w

theorem witness_MatrixIssue_moves : ∃ x, placed.siteOf = some x ∧ ((placed.core x.core).mtx.length < 16 ∧ x.w.countedFlights < 8 ∧
    x.w.longFlights < 8 ∧ (7 : BitVec 7).toNat < x.w.tiles ∧ longReady placed x (regsFrom 96 32) = true ∧
    sourcesReady x (BitVec.allOnes 32) ((regsFrom 96 32).map (·, true)) [] = true) := witness (by decide +kernel)

theorem witness_MatrixIssue_tiles : let t0 : State := withS [0x1000, 0x01FFFFFF, 0x000010, 0]
    ∃ x, t0.siteOf = some x ∧ (let sg := State.group4 x.w 0
      tileForm (.mstXm ⟨7, 0, 0, false, 0, false, true⟩ { m0 with minor := 6, low := 0x7FF0 }) = some (6, sext64 (0x7FF0 : BitVec 15), 16) ∧
      (sg.getD 2 0).extractLsb' 24 7 = 0 ∧ (sg.getD 2 0).getLsbD 31 = false ∧
      ∀ k, k < 32 → (tileRow (sg.map fun v => v.setWidth 64) (sext64 (0x7FF0 : BitVec 15)) k).toNat % 16 = 0 ∧
        (tileRow (sg.map fun v => v.setWidth 64) (sext64 (0x7FF0 : BitVec 15)) k).toNat < 2 ^ 57) := witness (by decide +kernel)

theorem witness_MatrixIssue_scratchTiles : let t0 : State := withS [0x3F000, 0, 0x80000080, 0]
    ∃ x, t0.siteOf = some x ∧ (let sg := State.group4 x.w 0
      (sg.getD 2 0).extractLsb' 24 7 = 0 ∧ (sg.getD 2 0).getLsbD 31 = true ∧ sg.getD 1 0 = 0 ∧ sg.getD 3 0 = 0 ∧
      ∀ k, k < 32 → (tileRow (sg.map fun v => v.setWidth 64) 0 k).toNat % 16 = 0 ∧
        Mloop.inGrant x.b 128 (tileRow (sg.map fun v => v.setWidth 64) 0 k).toNat = true) := witness (by decide +kernel)

theorem witness_MatrixIssue_loop : let t0 : State := withS [0x400, 0x400, 1, 0, 0x211, 0, 0x8000, 0x80]
    ∃ x, t0.siteOf = some x ∧ (let sg := State.group4 x.w 0
      let fg := State.group4 x.w 4
      let m := mloopOf 7 sg fg
      let regs := regsFrom 0 (8 * m.k)
      m.k = 8 ∧ m.cast_ = true ∧ m.illegal sg fg = false ∧ scalarOk 0 = true ∧ scalarOk 4 = true ∧
      (∀ q ∈ regs, vectorOk x.w q = true ∧ x.w.boundWalker q = none) ∧ t0.latched x 0 m.k = none ∧
      sourcesReady x x.sl.mask (regs.map (·, false)) [] = true ∧ (∀ p ∈ m.reads true, Mloop.inGrant x.b p.2 p.1 = true) ∧
      m.misaligned = none ∧ (t0.castWarps { grid := x.w.block.grid, gang := x.w.block.gang } x.w.num).length ≤ 1) :=
  witness (by decide +kernel)

/-- A tile move of the warp still in flight. -/
def tileFlying : State := onWarp placed fun w => { w with flights := [{ (default : Flight) with id := 1, instr := .mrd (r3 0 5 0), inA := true }] }

theorem witness_MatrixIssue_waits : ∃ x, tileFlying.siteOf = some x ∧ ((5 : BitVec 7).toNat < x.w.tiles ∧
    (∃ f ∈ x.w.flights, f.done = false ∧ tileNamed f.instr = some 5) ∧
    (∀ f ∈ x.w.flights, f.done = true ∨ tileNamed f.instr ≠ some 4)) := witness (by decide +kernel)

/-- A warp at an MWAIT or MSTAT whose wait stands in the queue of the matrix engine, or has been performed. -/
def awaiting (i : Instr) (done : Bool) : State :=
  (onWarp placed fun w => { w with
    flights := [{ (default : Flight) with id := 1, instr := i, addr := ((placed.siteOf.map (·.addr)).getD 0), by_ := .a, done := done }] })

theorem witness_MatrixIssue_ends : ∀ i ∈ [Instr.mwait (r3 5 0 0), .mstat (r3 5 0 0)], ∀ d ∈ [true, false], ∃ x, (awaiting i d).siteOf = some x ∧
    (((x.w.flights.find? fun g => g.instr == i && g.by_ == x.sel && g.addr == x.addr).any fun g => g.done == d) = true ∧
      (5 : BitVec 7).toNat < x.w.tiles) := by
  intro i hi d hd
  refine witness ?_
  revert i d
  decide +kernel

theorem witness_MatrixIssue_queues : ∃ x, tileFlying.siteOf = some x ∧ (x.w.flights.find? (fun g => g.instr == .mwait (r3 5 0 0) && g.by_ == x.sel && g.addr == x.addr) = none ∧
    (∃ f, f ∈ x.w.flights ∧ f.done = false ∧ tileNamed f.instr = some 5) ∧ (tileFlying.core x.core).mtx.length < 16 ∧ x.w.countedFlights < 8) :=
  witness (by decide +kernel)

theorem witness_MatrixIssue_granted : let t0 : State := onWarp (withS [0x400, 0x400, 1, 0, 0x211, 0, 0x8000, 0x80]) fun w =>
      { w with granted := some { sg := [0x400, 0x400, 0, 0], fg := [0x210, 0, 0x8000, 0x80], steps := [1], metas := [2] } }
    ∃ x, t0.siteOf = some x ∧ (let own := State.group4 x.w 0
      let ownF := State.group4 x.w 4
      let sg := [0x400, 0x400, own.getD 2 0, own.getD 3 0]
      let fg := [(ownF.getD 0 0 &&& 0xFFFFFD0F) ||| (0x210 &&& 0x2F0), ownF.getD 1 0, 0x8000, 0x80]
      let m := mloopOf 7 sg fg
      (mloopOf 7 own ownF).cast_ = true ∧ x.w.granted.isSome = true ∧ m.illegal sg fg = false ∧ m.misaligned = none ∧
      (∀ p ∈ m.reads true, Mloop.inGrant x.b p.2 p.1 = true) ∧ ∀ p ∈ m.reads false, Mloop.inGrant x.b p.2 p.1 = true) := witness (by decide +kernel)

theorem witness_CopyIssue_copies : let t0 : State := withS [0x1000, 0, 0x40000100, 1, 0x00200080, 0x80, 0x2000, 0, 0x3000]
    ∃ x, t0.siteOf = some x ∧ ((t0.core x.core).porter.length < 16 ∧ x.w.countedFlights < 8 ∧
      (let dg := State.group4 x.w 0
       let sg := State.group4 x.w 4
       let cp := copyOf false dg sg (x.w.spair 8)
       cp.space = 1 ∧ cp.rows = 32 ∧ cp.illegal dg sg (cbSize x.b) = false ∧ cp.badScratch x.b (cbSize x.b) = none ∧ cp.badAddress = none ∧
       cp.ctr.toNat % 8 = 0 ∧ 15 < x.b.bars ∧ t0.barHome x.w.block x.b 15 ≠ .fault)) := witness (by decide +kernel)

theorem witness_CopyIssue_registers : let t0 : State := withS [5, 0, 0x80000000, 0, 0x00080080, 0x80, 0x2000, 0, 0x3000]
    ∃ x, t0.siteOf = some x ∧ (let dg := State.group4 x.w 0
      let sg := State.group4 x.w 4
      let cp := copyOf false dg sg (x.w.spair 8)
      cp.space = 2 ∧ cp.illegal dg sg (cbSize x.b) = false ∧ longReady t0 x (regsFrom cp.firstReg cp.rows) = true ∧ x.w.longFlights < 8 ∧
      cp.badScratch x.b (cbSize x.b) = none ∧ cp.badAddress = none) := witness (by decide +kernel)

theorem witness_CopyIssue_fills : let t0 : State := withS [0x1000, 0x00010000, 0, 0, 0x00020010, 0, 0x2000, 0, 0x3000]
    ∃ x, t0.siteOf = some x ∧ (let dg := State.group4 x.w 0
      let sg := State.group4 x.w 4
      let cp := copyOf true dg sg ((x.w.sreg 8).setWidth 64)
      cp.space = 0 ∧ cp.illegal dg sg (cbSize x.b) = false ∧ cp.badScratch x.b (cbSize x.b) = none ∧ cp.badAddress = none) :=
  witness (by decide +kernel)

theorem witness_CopyIssue_codebooks : let t0 : State := withS [0x1000, 0, 0x01000040]
    ∃ x, t0.siteOf = some x ∧ ((x.w.sreg 2).extractLsb' 25 7 = 0 ∧ ((x.w.sreg 2).extractLsb' 16 9).toNat = 256 ∧
      256 * ((x.w.sreg 2).extractLsb' 0 16).toNat = 16384 ∧ (x.w.spair 0).toNat < 2 ^ 57 ∧
      t0.cbBusy x.core x.w.block false = false) := witness (by decide +kernel)

theorem witness_BatchesAndChains : ∃ x, placed.siteOf = some x ∧ (placed.cbBusy x.core x.w.block false = false ∧
    (x.w.spair 62).toNat < 2 ^ 57 ∧ (x.w.spair 62).toNat % 64 = 0 ∧ (State.chan x.b 3).doing = none ∧
    depsOf x.w { Flight.issue x (.cchainXm (r3 3 62 0) m0) x.sl.mask [] true with order := 3, waiting := 1 } = [] ∧
    x.w.flights.any (fun g => chainsTo 3 g.instr) = false ∧ x.w.countedFlights < 8) := witness (by decide +kernel)

/-- The same with a record in progress on channel 3. -/
def chaining : State := onBlock placed fun b => { b with chans := lput b.chans 3 { Chan.idle with state := 1, doing := some [1] } Chan.idle }

theorem witness_BatchesAndChains_held : ∃ x, chaining.siteOf = some x ∧ (¬(State.chan x.b 3).doing = none ∧ x.w.countedFlights < 8 ∧
    (x.w.spair 62).toNat < 2 ^ 57 ∧ (x.w.spair 62).toNat % 64 = 0 ∧ x.w.flights.any (fun g => chainsTo 3 g.instr) = false) :=
  witness (by decide +kernel)

/-! Synchronisation. -/

/-- Barrier slot 8, whose object expects two arrivals of warps 0 and 1. -/
def barred : State :=
  let s := withS [3, 128]
  s.setBar placeBlock (16 * 8) { arrivals := 0, expected := 2, pending := 0, phase := false, broken := false, maskrec := false, mask := 0 }

theorem witness_BarrierArrival : ∃ x, barred.siteOf = some x ∧ (8 < x.b.bars ∧ barred.barHome x.w.block x.b 8 = .at_ placeBlock (16 * 8) ∧
    x.b.straddled = false ∧ (barOf (barred.scratchBytes x.b (16 * 8) 16)).broken = false ∧ barred.lostMember placeBlock 8 (x.w.sreg 0) = false ∧
    (barOf (barred.scratchBytes x.b (16 * 8) 16)).expected = 2 ∧ (x.w.sreg 0).getLsbD x.w.block.j = true ∧
    (barOf (barred.scratchBytes x.b (16 * 8) 16)).maskrec = false ∧ barred.releaseAt x (effScope x.b 8 none) = none ∧
    effScope x.b 8 none = 1 ∧ x.w.arrA.getLsbD 8 = false ∧ barred.scReady x.sl false = true) := witness (by decide +kernel)

theorem witness_BarrierArrival_calm : barsCalm barred := by unfold barsCalm Memory.wf; decide +kernel

/-- The warp has arrived there, in the phase that goes on. -/
def arrived : State := onWarp barred fun w => { w with arrA := 1 <<< 8, arrF := 0 }

/-- The warp has arrived there, in the phase that has ended. -/
def ended : State := onWarp barred fun w => { w with arrA := 1 <<< 8, arrF := 1 <<< 8 }

theorem witness_BarrierWaits_waits : ∃ x, arrived.siteOf = some x ∧ (8 < x.b.bars ∧ arrived.barHome x.w.block x.b 8 ≠ .fault ∧
    x.w.arrA.getLsbD 8 = true ∧ x.w.arrA.getLsbD 9 = false ∧
    (arrived.barObj x.w.block x.b 8).any (fun o => !o.broken && o.phase == x.w.arrF.getLsbD 8 && !o.maskrec) = true) :=
  witness (by decide +kernel)

theorem witness_BarrierWaits_ends : ∃ x, ended.siteOf = some x ∧ (x.w.arrA.getLsbD 8 = true ∧
    (ended.barObj x.w.block x.b 8).any (fun o => !o.broken && o.phase != x.w.arrF.getLsbD 8) = true ∧ ended.releaseAt x 2 = none ∧
    ended.rackGate x = none) := witness (by decide +kernel)

theorem witness_BarrierWaits_init : barred.mem.wf ∧ barred.block? placeBlock ≠ none := by unfold Memory.wf; decide +kernel

theorem witness_SyncWaits : let t0 : State := withS [0x1000, 0, 5]
    ∃ x, t0.siteOf = some x ∧ (t0.rackGate x = none ∧ t0.releaseAt x 4 = none ∧
      State.threadHas x.w x.sel (fun g => (roles g.instr).1) = false ∧ x.w.batches = []) := witness (by decide +kernel)

/-- A load of the warp still in flight. -/
def loading : State := onWarp placed fun w => { w with flights := [{ (default : Flight) with id := 1, instr := .ld ⟨7, 0, 0, false, 0, false, false⟩, inA := true, by_ := .a }] }

theorem witness_SyncWaits_held : ∃ x, loading.siteOf = some x ∧ (hasAcquire 1 = true ∧
    State.threadHas x.w x.sel (fun g => (roles g.instr).1) = true ∧ x.w.countedFlights < 8 ∧ loading.rackGate x = none) :=
  witness (by decide +kernel)

theorem witness_SyncWaits_batch : let t0 : State := onWarp (withS [1]) fun w => { w with batches := [{ num := 1, cmds := [9] }], lastBatch := 1 }
    ∃ x, t0.siteOf = some x ∧ (∃ b ∈ x.w.batches, (x.w.sreg 0 - b.num).toNat < 2 ^ 31) := witness (by decide +kernel)

/-- The pool is mapped, and the registers name a counter that holds 7. -/
def counting : State := onWarp (putAt mapped 0x1000 [7]) fun w => ((w.setS 0 0x1000).setS 2 5).setS 4 9

theorem witness_SyncWaits_counter : ∃ x, counting.siteOf = some x ∧ ((x.w.spair 0).toNat < 2 ^ 57 ∧ (x.w.spair 0).toNat % 8 = 0 ∧
    (match counting.translate x.core (x.w.spair 0).toNat with
     | .ok t s1 => permitted t false false && okAccess (s1.homeRead 0 x.core (t.phys (x.w.spair 0).toNat) 8) fun bs _ =>
        decide (leVal bs = 7 ∧ (x.w.spair 2).toNat ≤ leVal bs ∧ leVal bs < (x.w.spair 4).toNat)
     | _ => false) = true) := witness (by decide +kernel)

/-- The warp stands at a WAITC that has looked; its home has found the condition true, or not. -/
def lookingAt (hit : Bool) : State := onWarp counting fun w => w.setSlot .a { w.a with await := some { pa := 0x1000, target := 5, sc := false, hit := hit } }

theorem witness_SyncWaits_looks : ∀ hit ∈ [true, false], ∃ x, (lookingAt hit).siteOf = some x ∧ ((x.sl.await.any fun a => a.hit == hit && !a.sc) = true ∧
    okAccess ((lookingAt hit).homeRead 0 x.core 0x1000 8) (fun bs _ => decide (5 ≤ leVal bs)) = true) := by
  intro hit hh
  refine witness ?_
  revert hit
  decide +kernel

theorem witness_EventInstructions : ∃ x, counting.siteOf = some x ∧ (
    [1, 2, 3, 4, 5, 6, 7].all (fun k => (BitVec.ofNat 7 k).toNat == k) = true ∧ (x.w.sreg 6).toNat < x.b.bars ∧
    (counting.barObj x.w.block x.b 0).isSome = true ∧
    (match counting.translate x.core (x.w.spair 0).toNat with
     | .ok t s1 => permitted t false false && (s1.homeAt x.core.dieId (t.phys (x.w.spair 0).toNat)).any fun h => !s1.shut 0 x.core h
     | _ => false) = true ∧ x.w.evp &&& x.w.evm = 0) := witness (by decide +kernel)

theorem witness_EventInstructions_pending : let t0 : State := onWarp placed fun w => { w with evp := 0x84, evm := 0xF0 }
    ∃ x, t0.siteOf = some x ∧ ((x.w.evp &&& x.w.evm).getLsbD 7 = true ∧ ∀ j, j < 7 → (x.w.evp &&& x.w.evm).getLsbD j = false) :=
  witness (by decide +kernel)

theorem witness_Mail : ∃ x, placed.siteOf = some x ∧ (sourcesReady x 0xF [(5, false)] [6] = true ∧ (x.w.sreg 6).extractLsb' 4 10 = 0 ∧
    x.w.countedFlights < 8 ∧ longReady placed x [5] = true ∧ x.w.longFlights < 8 ∧ 1 ≤ placed.freeTags x.core ∧ (placed.core x.core).mbox = [] ∧ (placed.core x.core).recv = []) :=
  witness (by decide +kernel)

theorem witness_Mail_message : let t0 : State := placed.updCore placeCore fun k => { k with mbox := tset k.mbox 3 [5] }
    ∃ x, t0.siteOf = some x ∧ ((t0.core x.core).recv = [] ∧ tget (t0.core x.core).mbox 3 [] = [5]) := witness (by decide +kernel)

theorem witness_Mail_regroup : let t0 : State := withS [1]
    ∃ x, t0.siteOf = some x ∧ (x.w.b.live = false ∧ x.sel = .a ∧ x.w.j = none ∧ x.w.dsp = 0 ∧ (∀ v ∈ x.w.walkers, v.bound = 0) ∧
      (∀ y ∈ t0.warps, y.2.block = x.w.block → y.2.exited = false → y.2.regrouping = none) ∧
      (x.w.sreg 0).toNat + 1 = 2 ^ x.b.warps) := witness (by decide +kernel)

/-! Divergence, exit and TAKE; traps. -/

/-- The warp at a clause of n words. -/
def inClause (n : Nat) : State := onWarp placed fun w => w.setSlot .a { w.a with
  clause := some { hdr := { n := n, cls := .ctrl, yield := false, hold := 0 }, words := [] } }

/-- A predicate that is true in the even lanes. -/
def evenLanes (w : Warp) : Warp := { w with p := w.p.set 1 0x55555555 }

theorem witness_DivergentBranch : ∃ x, (onWarp (inClause 2) evenLanes).siteOf = some x ∧ (x.n = x.k + 1 ∧
    (let yes := x.sl.mask &&& x.w.preg 1
     yes ≠ x.sl.mask ∧ yes ≠ 0 ∧ x.w.j = none ∧ x.sl.mask &&& x.w.preg 0 = x.sl.mask ∧ x.sl.mask &&& x.w.preg 2 = 0 ∧
     x.wordAddr + (0x400 : Word).signExtend 64 * 4 ≠ x.nextClause)) := witness (by decide +kernel)

theorem witness_DivergentBranch_nested : let t0 : State := onWarp (inClause 2) fun w => { evenLanes w with
      j := some 0x20000, a := { w.a with mask := 0xFFFF }, b := { w.a with mask := 0xFFFF0000, k := 0, pc := 0x18000 } }
    ∃ x, t0.siteOf = some x ∧ (x.n = x.k + 1 ∧ x.w.dsp < x.b.stack ∧ (x.w.slot x.sel.other).live = true ∧ (x.w.slot x.sel.other).k = 0 ∧
      (x.w.slot x.sel.other).blocked = none ∧ (joinOffset (x.w.slot x.sel.other).pc 0x20000).isSome = true) := witness (by decide +kernel)

theorem witness_DivergentBranch_waits : let t0 : State := onWarp (inClause 2) fun w => { evenLanes w with
      j := some 0x20000, b := { w.a with mask := 0xFFFF0000, k := 3 }, dsp := 3, a := { w.a with mask := 0xFFFF } }
    ∃ x, t0.siteOf = some x ∧ (x.w.dsp < x.b.stack ∧ (x.w.slot x.sel.other).live = true ∧ (x.w.slot x.sel.other).k ≠ 0 ∧
      (x.w.slot x.sel.other).parkedWait = false) := witness (by decide +kernel)

theorem witness_DivergentBranch_blocked : let t0 : State := onWarp (inClause 2) fun w => { evenLanes w with
      j := some 0x20000, b := { w.a with mask := 0xFFFF0000, k := 0, blocked := some 0 }, dsp := 3, a := { w.a with mask := 0xFFFF } }
    ∃ x, t0.siteOf = some x ∧ (x.w.dsp < x.b.stack ∧ (x.w.slot x.sel.other).live = true ∧ (x.w.slot x.sel.other).blocked ≠ none) :=
  witness (by decide +kernel)

theorem witness_DivergentBranch_full : let t0 : State := onWarp (inClause 2) fun w => { evenLanes w with j := some 0x20000, dsp := 4 }
    ∃ x, t0.siteOf = some x ∧ (x.b.stack ≤ x.w.dsp) := witness (by decide +kernel)

theorem witness_ExitAndJoin_exit : ∃ x, (onWarp (inClause 1) evenLanes).siteOf = some x ∧ (x.n = x.k ∧
    x.sl.mask &&& ~~~(x.w.preg 1) ≠ 0 ∧ x.w.j ≠ some x.nextClause ∧ x.sl.parkedJoin = false ∧
    x.sl.mask &&& ~~~(x.w.preg 0) = 0 ∧ (x.w.slot x.sel.other).mask = 0 ∧ (x.w.dsp = 0 ∨ x.w.j = none)) := witness (by decide +kernel)

theorem witness_ExitAndJoin_handler : let t0 : State := onWarp (inClause 1) fun w => { w with handler := true, dsp := 2 }
    ∃ x, t0.siteOf = some x ∧ (x.n = x.k ∧ (x.w.slot x.sel.other).mask = 0 ∧ x.w.dsp ≠ 0 ∧ x.w.j = none) := witness (by decide +kernel)

theorem witness_ExitAndJoin_park : let t0 : State := onWarp (inClause 1) fun w => { w with
      j := some 0x10014, b := { w.a with mask := 0xFFFF0000, pc := 0x18000 }, a := { w.a with mask := 0xFFFF } }
    ∃ x, t0.siteOf = some x ∧ (x.w.j = some 0x10014 ∧ x.wordAddr + (4 : BitVec 21).signExtend 64 * 4 = 0x10014 ∧ x.sl.live = true ∧
      x.sl.parkedJoin = false ∧ (x.w.slot x.sel.other).live = true ∧ (x.w.slot x.sel.other).parkedJoin = false ∧
      (x.w.slot x.sel.other).pc ≠ 0x10014) := witness (by decide +kernel)

theorem witness_ExitAndJoin_join : let t0 : State := onWarp (inClause 1) fun w => { w with
      j := some 0x10014, b := { w.a with mask := 0xFFFF0000, pc := 0x10014, parkedJoin := true }, a := { w.a with mask := 0xFFFF } }
    ∃ x, t0.siteOf = some x ∧ (x.w.j = some 0x10014 ∧ (x.w.slot x.sel.other).live = true ∧ (x.w.slot x.sel.other).parkedJoin = true ∧
      x.w.dsp = 0) := witness (by decide +kernel)

/-- The die's Broker holds unstarted gangs of the grid, the last numbers among them. -/
def withGangs (child : Bool) (runs : List (Nat × Nat)) : State :=
  let s := placed.setLaunch 0 { (default : Launch) with src := if child then .child d0 else default, gx := 2 ^ 32, gy := 1, gz := 1 }
  s.updShare (State.dieBroker d0) 0 fun x => { x with runs := runs }

theorem witness_TakeGang_gives : let t0 := withGangs false [(3, 2), (0xFFFFFFFF, 1)]
    ∃ x, t0.siteOf = some x ∧ (let k := State.dieBroker x.core.dieId
      (t0.launch? x.w.block.grid).any (fun l => !l.isChild) = true ∧ (t0.share k x.w.block.grid).takers = [] ∧
      t0.takeRuns k x.w.block.grid ≠ [] ∧ (∀ q ∈ (t0.share k x.w.block.grid).runs, 0 < q.2) ∧
      (t0.share k x.w.block.grid).runs.Pairwise (fun p q => p.1 + p.2 ≤ q.1)) := witness (by decide +kernel)

theorem witness_TakeGang_child : let t0 := withGangs true [(3, 2)]
    ∃ x, t0.siteOf = some x ∧ ((t0.launch? x.w.block.grid).any (·.isChild) = true ∧
      (∀ y ∈ t0.warps, ∀ e ∈ y.2.events, e.kind = 3 → e.armed = false) ∧
      t0.takeRuns (State.dieBroker x.core.dieId) x.w.block.grid ≠ []) := witness (by decide +kernel)

theorem witness_TakeGang_none : (∃ x, placed.siteOf = some x ∧ (placed.launch? x.w.block.grid = none ∧
      (placed.share (State.dieBroker x.core.dieId) x.w.block.grid).takers = [])) ∧
    let t0 := withGangs true []
    ∃ x, t0.siteOf = some x ∧ ((t0.launch? x.w.block.grid).any (·.isChild) = true ∧
      (t0.share (State.dieBroker x.core.dieId) x.w.block.grid).runs = []) := ⟨witness (by decide +kernel), witness (by decide +kernel)⟩

/-- v1 is empty, v2 poisoned. -/
def spoiled : State := onWarp placed fun w => { w with
  v := (w.v.set 1 ⟨zeroLanes, false, none⟩).set 2 ⟨zeroLanes, true, some ⟨0x4000, 7⟩⟩ }

theorem witness_IssueTraps : ∃ x, spoiled.siteOf = some x ∧ (vectorOk x.w 1 = true ∧ vectorOk x.w 127 = true ∧
    x.w.boundWalker 1 = none ∧ (x.w.vreg 1).full = false ∧ (x.w.vreg 2).full = true ∧ destReady spoiled x 127 = true ∧
    ((x.w.vreg 2).poison).isSome = true) := witness (by decide +kernel)

theorem witness_IssueTraps_waits : let t0 := onWarp spoiled fun w => { w with
      flights := [{ (default : Flight) with id := 1, instr := .frcp (r3 1 0 0), dest := [1], inA := true }] }
    ∃ x, t0.siteOf = some x ∧ ((x.w.vreg 1).full = false ∧ orphaned x.w 1 = false) := witness (by decide +kernel)

theorem witness_IssueTraps_range : let t0 := onWarp placed fun w => ({ w with units := 1 } : Warp).setS 63 0x02000000
    ∃ x, t0.siteOf = some x ∧ (vectorOk x.w 127 = false ∧ 2 ^ 57 ≤ (x.w.spair 62).toNat) := witness (by decide +kernel)

theorem witness_IssueTraps_uniform : ∃ x, (onWarp placed evenLanes).siteOf = some x ∧ (lowestLane x.sl.mask = some 0 ∧
    x.sl.mask.getLsbD 31 = true ∧ (x.w.preg 1).getLsbD 31 ≠ (x.w.preg 1).getLsbD 0) := witness (by decide +kernel)

theorem witness_IssueTraps_posted : let t0 := onWarp placed fun w => { w with rff := 0x190000 }
    ∃ x, t0.siteOf = some x ∧ (x.w.flights = [] ∧ x.w.rff.extractLsb' 16 8 ≠ 0 ∧
      ∀ v ∈ x.w.events, v.kind ≠ 6 ∨ (v.armed = false ∧ v.fired = false)) := witness (by decide +kernel)

theorem witness_TrapInstructions : ∃ x, placed.siteOf = some x ∧ (x.w.trap = none) := witness (by decide +kernel)

/-- A trap of the placed warp is due. -/
def trapped (handler : Bool) (tvec : DWord) : State :=
  let s := onWarp placed fun w => { w with
    trap := some { cause := 0x0D, slot := .a, addr := 0x8000, lanes := 1, instr := 0x10001, aux := 0 }, handler := handler, tvec := tvec }
  { s with arg := { s.arg with w := placeWarp } }

theorem witness_TrapEntry : ∀ h, ∀ v : DWord, let s := trapped h v
    ∃ w b t, s.warp? s.arg.w = some w ∧ s.block? w.block = some b ∧ w.trap = some t ∧ w.handler = h ∧ w.tvec = v ∧ t.cause = 0x0D ∧
      w.exited = false ∧ b.state = 0 ∧ s.frozen = false ∧ (s.core s.arg.w.core).frozen = false ∧ w.flights = [] ∧
      w.a.blocked = none ∧ w.b.blocked = none ∧ (s.core s.arg.w.core).mtx = [] ∧ (s.core s.arg.w.core).porter = [] :=
  fun _ _ => ⟨_, _, _, rfl, rfl, rfl, rfl, rfl, rfl, rfl, rfl, rfl, rfl, rfl, rfl, rfl, rfl, rfl⟩

theorem witness_TrapReturn_illegal : ∃ x, placed.siteOf = some x ∧ (x.w.flights = [] ∧ x.w.trap = none ∧
    (placed.core x.core).mtx = [] ∧ (placed.core x.core).porter = [] ∧ x.w.handler = false) := witness (by decide +kernel)

theorem witness_FrameFields : (0x21 : Nat) < 256 ∧ (2 ^ 16 - 1 : Nat) < 2 ^ 16 ∧ (15 : Nat) < 16 := by decide

theorem witness_SystemInstructions : ∃ x, placed.siteOf = some x ∧ (x.b.priv = true ∧ [0, 1, 2, 3, 0x10, 0x13].all (· < 2 ^ 19) = true) :=
  witness (by decide +kernel)

theorem witness_SystemInstructions_user : let t0 : State := onBlock placed fun b => { b with priv := false }
    ∃ x, t0.siteOf = some x ∧ (x.b.priv = false) := witness (by decide +kernel)

theorem witness_SystemInstructions_launch : let t0 : State := onWarp mapped fun w => w.setS 0 0x4000
    ∃ x, t0.siteOf = some x ∧ ((x.w.spair 0).toNat < 2 ^ 57 ∧ (x.w.spair 0).toNat % 64 = 0 ∧
      (match t0.translate x.core (x.w.spair 0).toNat with
       | .ok e s1 => permitted e false false && (s1.homeAt x.core.dieId (e.phys (x.w.spair 0).toNat)).isSome && (s1.releaseAt x 1).isNone &&
           decide (s1.childCount x.core.dieId < 16) &&
           okAccess (s1.readVirtual 0 x.core 0 (x.w.spair 0).toNat 64 2) (fun bs _ => bs.length == 64)
       | _ => false) = true) :=
  witness (by decide +kernel)

theorem witness_SystemInstructions_tlbinv : ∀ scope : Nat, scope < 5 → ∃ x, mapped.siteOf = some x ∧ ((x.w.spair 0).toNat < 2 ^ 57 ∧
    State.threadHas x.w x.sel (fun g => (roles g.instr).2) = false ∧ mapped.releaseReady x.core x.w scope = true) := by
  intro scope h; interval_cases scope <;> exact witness (by decide +kernel)

theorem witness_WalkerStores : ∃ x, withOutput.siteOf = some x ∧ (walkDescOk (x.w.walker 1).desc = true ∧
    withOutput.walkOpen x x.sl.mask [(1, lanesOf fun l => BitVec.ofNat 32 l)] = true) :=
  witness (by decide +kernel)

theorem witness_WalkerStores_shut : let t0 := withOutput.updCore placeCore fun k => { k with tlb := [] }
    ∃ x, t0.siteOf = some x ∧ (walkDescOk (x.w.walker 1).desc = true ∧
      t0.walkOpen x x.sl.mask [(1, lanesOf fun l => BitVec.ofNat 32 l)] = false) := witness (by decide +kernel)

theorem witness_WalkerStores_memory : withOutput.mem.wf := by unfold Memory.wf; decide +kernel

/-- A warp in handler mode, and the first bytes of the frame in its area. -/
def handling : State :=
  let s := (onWarp mapped fun w => { w with handler := true })
  match s.siteOf with
  | some x => putAt s (s.framePool x.b x.w) ((frameBytes { x.w with handler := false } { cause := 0x0D, slot := .a, addr := 0x8000, lanes := 1, instr := 0x10000, aux := 0 } [] false).take 88)
  | none => s

theorem coreBytes_drop (s : State) (c : CoreId) (n : Nat) : ∀ pa o, o ≤ n → (s.coreBytes c pa n).drop o = s.coreBytes c (pa + o) (n - o) := by
  induction n with
  | zero => intro pa o h; obtain rfl : o = 0 := by omega
            rfl
  | succ n ih =>
    intro pa o h
    cases o with
    | zero => rfl
    | succ o => rw [State.coreBytes, List.drop_succ_cons, ih _ _ (by omega), show pa + 1 + o = pa + (o + 1) by omega, Nat.add_sub_add_right]

theorem coreBytes_take (s : State) (c : CoreId) (k : Nat) : ∀ pa n, k ≤ n → (s.coreBytes c pa n).take k = s.coreBytes c pa k := by
  induction k with
  | zero => intro pa n _; rfl
  | succ k ih =>
    intro pa n h
    obtain ⟨m, rfl⟩ : ∃ m, n = m + 1 := ⟨n - 1, by omega⟩
    rw [State.coreBytes, State.coreBytes, List.take_succ_cons, ih _ _ (by omega)]

theorem coreBytes_field (s : State) (c : CoreId) (pa n o k : Nat) (h : o + k ≤ n) :
    field (s.coreBytes c pa n) o k = leVal (s.coreBytes c (pa + o) k) := by
  rw [field, coreBytes_drop s c n pa o (by omega), coreBytes_take s c k _ _ (by omega)]

theorem witness_TrapReturn : ∃ x, handling.siteOf = some x ∧ (x.w.handler = true ∧ x.b.core = x.core ∧ x.sel = .a ∧
    x.w.b.live = false ∧ x.w.j = none ∧
    (let f := handling.coreBytes x.core (handling.framePool x.b x.w) 8192
     x.w.dsp = field f 64 2 ∧ field f 2 1 / 4 % 2 = 0 ∧ field f 40 4 ≠ 0 ∧ field f 44 4 = 0 ∧ field f 56 8 = 0 ∧
     ∃ s', handling.frameOf x.core f = .ok [] s')) := by
  obtain ⟨x, hx, h⟩ := witness (s := handling) (P := fun x =>
    let g := fun o k => leVal (handling.coreBytes x.core ((handling.framePool x.b x.w) + o) k)
    x.w.handler = true ∧ x.b.core = x.core ∧ x.sel = .a ∧ x.w.b.live = false ∧ x.w.j = none ∧ x.w.dsp = 0 ∧
      g 64 2 = 0 ∧ g 2 1 = 1 ∧ g 40 4 = 0xFFFFFFFF ∧ g 44 4 = 0 ∧ g 56 8 = 0 ∧ g 0 1 = 1 ∧ g 3 1 = 0 ∧ g 66 2 = 0 ∧ g 69 3 = 0 ∧
      g 96 32 = 0 ∧ g 7808 384 = 0 ∧ g 32 8 = 0x10000 ∧ g 16 8 = 0x10000 ∧ g 80 8 = 0 ∧ g 1 1 = 0x0D ∧
      (match handling.headerAt x.core 0x10000 with
       | .ok h _ => decide (1 ≤ h.n)
       | _ => false) = true) (by decide +kernel)
  obtain ⟨h1, h2, h3, h4, h5, h6, h7, h8, h9, h10, h11, h12, h13, h14, h15, h16, h17, h18, h20, h21, h22, h19⟩ := h
  refine ⟨x, hx, h1, h2, h3, h4, h5, ?_⟩
  split at h19
  case h_2 => simp at h19
  case h_1 hd s' e =>
  simp (disch := decide) only [coreBytes_field, State.frameOf, frameBad, State.frameSlots, h6, h7, h8, h9, h10, h11, h12, h13,
    h14, h15, h16, h17, h18, h20, h21, h22]
  have : ¬ hd.n + 1 < formIndex 65536 := by rw [show formIndex 65536 = 0 by decide]; omega
  simp [bits, e, this]
  exact ⟨_, rfl⟩

theorem witness_TrapReturn_bad : ∃ x, (onWarp mapped fun w => { w with handler := true }).siteOf = some x ∧
    (onWarp mapped fun w => { w with handler := true }).frameOf x.core ((onWarp mapped fun w => { w with handler := true }).coreBytes x.core
      ((onWarp mapped fun w => { w with handler := true }).framePool x.b x.w) 8192) = .bad := by
  obtain ⟨x, hx, h⟩ := witness (s := onWarp mapped fun w => { w with handler := true }) (P := fun x =>
    leVal ((onWarp mapped fun w => { w with handler := true }).coreBytes x.core
      ((onWarp mapped fun w => { w with handler := true }).framePool x.b x.w + 0) 1) = 0) (by decide +kernel)
  refine ⟨x, hx, ?_⟩
  simp (disch := decide) only [State.frameOf, frameBad, coreBytes_field, h]
  rfl

/-! Events. -/

/-- The operands of an event. -/
def withArg (s : State) (a : Arg) : State := { s with arg := a }

/-- The placed warp with one instruction in flight. -/
def inFlight (f : Flight) : State := withArg (onWarp placed fun w => { w with flights := [f] }) { w := placeWarp, i := f.id }

def flight0 : Flight := { (default : Flight) with id := 3, inA := true }

theorem witness_FillEvents_register : let s := inFlight { flight0 with done := true, dest := [5, 6] }
    ∃ w f, s.warp? s.arg.w = some w ∧ w.flight? s.arg.i = some f ∧ f.done = true ∧ f.dest = [5, 6] := ⟨_, _, rfl, rfl, rfl, rfl⟩

theorem witness_FillEvents_scratch : let m : Mm := ⟨7, 0, 0, false, 0, false, false⟩
    ∀ q ∈ [(Instr.ldl m, [7]), (Instr.stl m, [])], let s := inFlight { flight0 with instr := q.1, dest := q.2, waiting := 1 <<< 31 }
    ((s.warp? s.arg.w).any fun w => (s.block? w.block).any fun b => w.flights.all fun f =>
      decide (w.flights.length = 1 ∧ f.id = s.arg.i ∧ f.waiting = 1 <<< 31 ∧ f.remaining = 0 ∧ f.sent = 0 ∧ f.deps = [] ∧ f.done = false ∧
        f.fault = none ∧ f.order = 0 ∧ s.scratchAt w.block b (f.addrOf 31) 4 = .at_ placeBlock 0 ∧ f.instr = q.1 ∧ f.dest = q.2)) = true := by
  decide +kernel

/-- Page tables in the pool, whose second level maps 2 GiB. -/
def paged : State := withArg ((putAt (putAt mapped 0 (leBytes 8 0x20001)) 0x20000 (leBytes 8 3)).updDie d0 fun k => { k with walks := [(1, [])] })
  { d := d0, n := 1 }

theorem witness_FillEvents_walk : State.walkRuns (paged.die paged.arg.d) paged.arg.n = true ∧ (match paged.walk paged.arg.d (paged.arg.n * 2 ^ 16) with
    | .ok e => decide (e.log = 31)
    | _ => false) = true := by decide +kernel

theorem witness_FillEvents_walker : let s := withArg withInput { w := placeWarp, n := 0 }
    (s.warp? s.arg.w).any (fun w => let v := w.walker s.arg.n
      let p := aheadOf v.desc (v.i0, v.i1, v.i2) v.pre.length
      decide (v.bound ≠ 0 ∨ True) && !walkOutput v.desc && decide (v.pre.length < 4) &&
        (s.fetchLanes s.arg.w.core v.desc (walkAddr v.desc p.1 p.2.1 p.2.2) laneNums [] 0).isSome) = true := by decide +kernel

/-- A core waits for line 512 of the code. -/
def fetching (s : State) : State := withArg (s.updDie d0 fun k => { k with attached := [(512, [(placeCore, 512, 16)])] }) { d := d0, n := 512 }

theorem witness_FillEvents_code : ((fetching mapped).homeAt d0 (512 * 128)).any (fun h => (mapped.pinHolder h).isNone && h.pkg == d0.pkg &&
    !(fetching mapped).shut 0 placeCore h && (match (fetching mapped).reach d0 (512 * 128) with
      | .at_ g _ s' => !(s'.die g.dieId).lost && !s'.isPoisoned g
      | _ => false)) = true := by decide +kernel

/-- The pool in the HBM of another package. -/
def farMapped : State := mapped.updDie d0 fun k => { k with
  cur := { version := 1, regions := [{ mode := 3, member := 1, pkg := 1, die := 0, base := 0, size := 2 ^ 31, homeBase := 0 }], members := [] } }

theorem witness_FillEvents_farCode : ((fetching farMapped).homeAt d0 (512 * 128)).any (fun h => h.pkg != d0.pkg &&
    !((fetching farMapped).cores.any fun k => k.1.dieId == d0 && k.2.tags.any fun t => t.2.held && !t.2.stale && t.2.use == .ifetch 512) &&
    ((fetching farMapped).lineRequest placeCore h 1 (512 * 128) (.ifetch 512)).isSome) = true := by decide +kernel

/-- One matrix command of the placed warp, first of its queue. -/
def queuedMtx (i : Instr) (rows : List Lanes) (sg fg : List Word) (dest : List Nat) : State :=
  (inFlight { flight0 with dest := dest }).updCore placeCore (fun k => { k with
    mtx := [{ id := 1, w := placeWarp, instr := i, addr := 0, fid := 3, mask := BitVec.allOnes 32, rows := rows, sg := sg, fg := fg, stream := none, left := [], bad := none, regs := [] }] })

theorem witness_MatrixEvents : ∀ i rows sg fg dest, let s := withArg (queuedMtx i rows sg fg dest) { c := placeCore }
    ∃ w bk f c, (s.core s.arg.c).mtx = [c] ∧ c.w.core = s.arg.c ∧ s.warp? c.w = some w ∧ s.block? w.block = some bk ∧ w.flights = [f] ∧
      f.id = c.fid ∧ f.deps = [] ∧ f.done = false ∧ f.fault = none ∧ c.instr = i ∧ f.dest = dest ∧ w.tiles = 8 ∧ w.z.length = 8 :=
  fun _ _ _ _ _ => ⟨_, _, _, _, rfl, rfl, rfl, rfl, rfl, rfl, rfl, rfl, rfl, rfl, rfl, rfl, rfl⟩

/-- Two cores of a gang, each with a warp at a broadcast MLOOP of one step. -/
def casting : State :=
  let s := withS [0x400, 0, 1, 0, 0x11, 0, 0, 0]
  let i : Instr := .mloop (r3 0 0 0) { x0 with c := 4, bs := true }
  let clause := (encode i).map fun e => ({ hdr := { n := 2, cls := .mtx, yield := false, hold := 0 }, words := e.2 } : Clause)
  let s := onWarp s fun w => w.setSlot .a { w.a with clause := clause }
  let c1 : CoreId := { placeCore with pos := 1 }
  let b1 : BlockId := { placeBlock with j := 1 }
  let s := match s.block? placeBlock, s.warp? placeWarp with
    | some b, some w => (s.setBlock b1 { b with core := c1 }).setWarp { core := c1, slot := 0 } { w with block := b1 }
    | _, _ => s
  withArg (s.updCore c1 fun k => { k with frozen := false }) { g := { grid := 0, gang := 0 }, n := 0 }

theorem witness_EngineEvents_broadcast : (match casting.castWarps casting.arg.g casting.arg.n with
    | [i, j] => match casting.atCast i.1, casting.atCast j.1 with
      | some p, some q => decide (p.1.wid = i.1 ∧ q.1.wid = j.1 ∧ i.1.core ≠ j.1.core ∧ p.1.w.block.j < q.1.w.block.j ∧
          ∀ y ∈ [p, q], (let m := mloopOf y.2.2.minor.toNat (State.group4 y.1.w y.2.1.b.toNat) (State.group4 y.1.w y.2.2.c.toNat)
            m.k = 1 ∧ fmtWidth m.bFmt = 8 ∧ ∀ r ∈ m.reads false, Mloop.inGrant y.1.b r.2 r.1 = true))
      | _, _ => false
    | _ => false) = true := by decide +kernel

/-- A CFILL of a row of the scratchpad, first of its queue. -/
def filling (left : List (Nat × Nat × Nat)) : State := withArg ((inFlight flight0).updCore placeCore fun k => { k with
  porter := [{ id := 1, w := placeWarp, instr := .cfill (r3 0 0 0), addr := 0, fid := 3, by_ := .a, scope := 0, order := 0, bar := none
               dg := [0x3FF0, 0, 0x40000000, 0], src := 0x01020304, sg := [0x00010010, 0, 0, 0], deps := [], left := left, bad := none, owed := 0 }] }) { c := placeCore }

theorem witness_EngineEvents_fill : ∀ left ∈ [[(0, 0, 16)], [(0, 4, 8), (0, 15, 1)], []], let s := filling left
    ∃ w bk f c, (s.core s.arg.c).porter = [c] ∧ c.w.core = s.arg.c ∧
    s.warp? c.w = some w ∧ s.block? w.block = some bk ∧ w.flights = [f] ∧ f.id = c.fid ∧ f.deps = [] ∧ f.sent = 0 ∧
    c.order = 0 ∧ c.bar = none ∧ c.left = left ∧ c.bad = none ∧ c.owed = 0 ∧ (s.core s.arg.c).porterFrozen = false ∧
    s.mem.wf ∧ (let cp := copyOf true c.dg c.sg c.src
      cp.space = 1 ∧ cp.expand = false ∧ cp.rows = 1 ∧ cp.len = 16 ∧ cp.ctr = 0 ∧ (∀ x ∈ left, 0 < x.2.2 ∧ x.2.1 + x.2.2 ≤ cp.len) ∧
      ∀ x ∈ left, ∀ i, i < 16 → ∀ j, j < 16 →
        bk.arrayByte ((cp.dstScratch x.1).toNat + i) = bk.arrayByte ((cp.dstScratch x.1).toNat + j) → i = j) := by
  intro left h
  fin_cases h <;>
    exact ⟨_, _, _, _, rfl, rfl, rfl, rfl, rfl, rfl, rfl, rfl, rfl, rfl, rfl, rfl, rfl, rfl, by unfold Memory.wf; decide +kernel, by decide +kernel⟩

/-- The bytes of a record of a chain that copies rows of 16 bytes of the pool to the scratchpad. -/
def chainBytes (rows owned : Nat) : List Byte :=
  leBytes 8 0 ++ leBytes 8 0x5000 ++ leBytes 8 0x100 ++ leBytes 2 16 ++ leBytes 2 rows ++ leBytes 4 16 ++
    leBytes 4 0x80000010 ++ leBytes 4 owned ++ zeros 24

/-- Such a record of one row in the pool, and its channel. -/
def chained (owned : Nat) : State :=
  let s := putAt mapped 0x4000 (chainBytes 1 owned)
  let s := onBlock s fun b => { b with chans := lput b.chans 2 { Chan.idle with state := 1, head := 0x4000 } Chan.idle }
  withArg s { b := placeBlock, i := 2 }

theorem witness_EngineEvents_records : ∀ o ∈ [0, 1], (match (chained o).block? placeBlock with
    | some k =>
      let c := State.chan k 2
      decide (c.state = 1 ∧ c.doing = none ∧ k.state = 0 ∧ c.order = 0 ∧ ((chained o).core ((chained o).chanWarp placeBlock c).core).porterFrozen = false) &&
        ((chained o).warp? ((chained o).chanWarp placeBlock c)).isSome &&
        okAccess ((chained o).readVirtual 1 placeCore c.scope c.head.toNat 64 2) fun rec _ =>
          decide (field rec 36 4 = o ∧ recordBad rec = false ∧ recordOutside (recordCopy rec) k = none)
    | none => false) = true := by decide +kernel

/-- The channel in the middle of a record of two rows, some bytes of which are left. -/
def copying (left : List (Nat × Nat × Nat)) : State :=
  let s := putAt mapped 0x4000 (chainBytes 2 1)
  let s := onBlock s fun b => { b with chans := lput b.chans 2 { Chan.idle with state := 1, head := 0x4000, doing := some (chainBytes 2 1), left := left } Chan.idle }
  withArg s { b := placeBlock, i := 2 }

/-- Its next run of bytes, and whether it faults. -/
def chainRun (s : State) (faults : Bool) : Bool :=
  match s.block? placeBlock, s.warp? placeWarp with
  | some k, some w =>
    let c := State.chan k 2
    let cp := recordCopy (chainBytes 2 1)
    decide (s.chanWarp placeBlock c = placeWarp ∧ c.doing = some (chainBytes 2 1) ∧ c.left ≠ [] ∧ (s.core placeCore).porterFrozen = false) &&
      match s.copyRun (s.chainCmd placeBlock c cp) placeBlock k cp 0 0 [] fun s pa n =>
          w.flights.any fun g => c.after.contains g.id && !g.done && s.postedByte placeCore g pa n with
      | .went s' _ _ => !faults && (s'.block? placeBlock).isSome
      | .fault s' _ _ _ _ => faults && (s'.block? placeBlock).isSome
      | _ => false
  | _, _ => false

theorem witness_EngineEvents_row : chainRun (copying [(1, 3, 1)]) false = true := by
  decide +kernel

theorem witness_EngineEvents_rowFault :
    chainRun ((copying [(0, 0, 1)]).updCore placeCore fun k => { k with tlb := [{ va := 0, log := 21, pa := 0, flags := 7 }] }) true = true := by
  decide +kernel

theorem witness_EngineEvents_recordEnd : (match (copying []).block? placeBlock, (copying []).warp? placeWarp with
    | some k, some _ =>
      let c := State.chan k 2
      let cp := recordCopy (chainBytes 2 1)
      decide ((copying []).chanWarp placeBlock c = placeWarp ∧ c.doing = some (chainBytes 2 1) ∧ c.left = [] ∧ c.bad = none ∧ c.order = 0 ∧ cp.ctr = 0) &&
        okAccess ((copying []).writeVirtual 1 placeCore placeBlock c.scope (c.head.toNat + 36) (leBytes 4 0) 2)
          fun bs t2 => bs.isEmpty && (t2.block? placeBlock).isSome
    | _, _ => false) = true := by decide +kernel

/-- The same channel at a record that software owns. -/
def polling : State := onBlock (chained 0) fun b => { b with chans := lput b.chans 2 { Chan.idle with state := 2 } Chan.idle }

theorem witness_EngineEvents_poll : (polling.block? polling.arg.b).any (fun k => (State.chan k polling.arg.i).state == 2) = true := by decide +kernel

theorem witness_WarpEvents_timer : ∃ w, (withArg placed { w := placeWarp }).warp? placeWarp = some w := ⟨_, rfl⟩

theorem witness_WarpEvents_regroup : let s := withArg (onWarp placed fun w => { evenLanes w with regrouping := some (true, 1) }) { b := placeBlock }
    ∃ w k, s.block? s.arg.b = some k ∧ k.warps = 1 ∧ s.warp? placeWarp = some w ∧ s.warps = [(placeWarp, w)] ∧ w.block = s.arg.b ∧
      w.num = 0 ∧ w.exited = false ∧ w.regrouping = some (true, 1) ∧ w.a.held = [] ∧ w.v.all (·.full) = true :=
  ⟨_, _, rfl, rfl, rfl, rfl, rfl, rfl, rfl, rfl, rfl, rfl⟩

theorem witness_WarpEvents_retire : let s := withArg (onWarp placed fun w => { w with exited := true }) { b := placeBlock }
    ∃ w k, s.block? s.arg.b = some k ∧ s.arg.flag = false ∧ k.state = 0 ∧ (s.die k.core.dieId).lost = false ∧ s.warps = [(placeWarp, w)] ∧
      w.exited = true ∧ w.trap = none ∧ w.a.blocked = none ∧ w.b.blocked = none ∧ w.flights = [] ∧ w.narrow = [] ∧
      (s.core k.core).mtx = [] ∧ (s.core k.core).porter = [] ∧ (s.core k.core).lines = [] ∧ (s.core k.core).tags = [] ∧ k.chans.all (·.doing.isNone) = true :=
  ⟨_, _, rfl, rfl, rfl, rfl, rfl, rfl, rfl, rfl, rfl, rfl, rfl, rfl, rfl, rfl, rfl, rfl⟩

theorem witness_WarpEvents_service : let s := onBlock mapped fun b => { b with state := 2 }
    (s.block? placeBlock).any (fun k => let a := s.slotPool k + 4096 + 3160
      decide (k.state = 2 ∧ k.warps = 1 ∧ leVal ((putAt s a [1]).homeBytes k.core.dieId a 8) ≠ 0)) = true := by decide +kernel

/-! The fabric. -/

def home0 : Endpoint := { (default : Endpoint) with pkg := 0, die := 0, unit := 1, pos := 0 }
def asker0 : Endpoint := { (default : Endpoint) with pkg := 0, die := 0, unit := 0, pos := 0 }

/-- A request of 2^n bytes to a home. -/
def requested (size addr order atom : Nat) : State := withArg mapped { q := { (default : Packet) with
  dst := home0, issuer := asker0, src := asker0, size := size, addr := addr, order := order, atom := atom, scope := 2, version := 1, data0 := 0x11 } }

theorem witness_HomeRequests : ∀ p ∈ [(4, 0x7FFFFFF0), (0, 0x7FFFFFFF), (3, 0x1004), (2, 0), (4, 0x1000)], let s := requested p.1 p.2 2 0
    let q := s.arg.q
    let d := q.dst.dieId
    let keys := (List.range (2 ^ q.size)).filterMap fun j => (s.homeAt d (q.addr + j)).map physKey
    (q.issuer.pkg = q.dst.pkg ∧ q.sym = false ∧ q.scope ≤ 2 ∧ q.order ≠ 3 ∧ (s.die d).lost = false ∧ (s.die d).pend.isNone = true ∧
      (s.die d).cur.version = q.version ∧ (s.die d).migr = [] ∧ keys.Nodup ∧ keys.length = 2 ^ q.size) ∧
    (s.homeAt d q.addr).any (fun h => decide (h.dieId = d ∧ s.pinHolder h = none ∧ s.isPoisoned h = false ∧
      s.barred h q.issuer = false ∧ s.outsideWindow q = false)) = true := by decide +kernel

theorem witness_HomeRequests_pinned : let s0 := requested 4 0x1000 2 0
    (s0.homeAt d0 0x1000).any (fun h => let s := s0.updDie d0 fun k => { k with pins := tset k.pins (lineOf (physKey h)) placeCore }
      (s.pinHolder h).isSome && (s.homeAt d0 0x1000 == some h)) = true := by decide +kernel

theorem witness_HomeRequests_line : let s := withArg mapped { l := { (default : LinePkt) with
      dst := home0, issuer := asker0, addr := 0x7FFFFF80, scope := 2, version := 1, mask := BitVec.allOnes 128, data := zeros 128 } }
    let keys := (List.range 128).filterMap fun j => (s.homeAt d0 (s.arg.l.addr + j)).map physKey
    (keys.Pairwise fun a b => a < b) ∧ keys.length = 128 ∧ s.arg.l.addr % 128 = 0 ∧ s.arg.l.data.length = 128 ∧
      (s.homeAt d0 s.arg.l.addr).any (fun h => (s.pinHolder h).isNone && h.dieId == d0 && !s.barred h s.arg.l.issuer) = true := by decide +kernel

theorem witness_HomeRequests_push : let s := (withArg mapped { l := { (default : LinePkt) with dst := home0, issuer := asker0, addr := 0x1000 } }).updDie d0 (fun k =>
      { k with visitors := tset k.visitors 32 (zeros 128) })
    s.arg.l.issuer.pkg = s.arg.l.dst.pkg ∧ (s.die d0).lost = false ∧ (tget? (s.die d0).visitors (lineOf s.arg.l.addr)).isSome = true := by decide +kernel

theorem witness_HomeRequests_mail : let s := withArg placed { q := { (default : Packet) with dst := home0, issuer := asker0, size := 4, addr := 0x3F00F } }
    let c : CoreId := { pkg := 0, die := 0, pos := s.arg.q.addr / 2 ^ 12 % 64 }
    c.pos = 63 ∧ s.arg.q.addr < 2 ^ 18 ∧ s.arg.q.addr / 16 % 2 ^ 8 = 0 ∧ (s.die d0).lost = false ∧
      ((s.updDie d0 fun k => { k with working := BitVec.allOnes 64 }).die d0).working.getLsbD c.pos = true ∧ (s.core c).recv = [] ∧
      (tget (s.core c).mbox 15 []).length < 4 ∧
      4 ≤ (tget ((s.updCore c fun k => { k with mbox := tset k.mbox 15 [1, 2, 3, 4] }).core c).mbox 15 []).length := by decide +kernel

/-- Tag 255 of the core is taken for lane 31 of a load in flight, and a reply comes. -/
def replied (use : TagUse) (instr : Instr) (dest : List Nat) : State :=
  let s := inFlight { flight0 with instr := instr, dest := dest, sent := 1 <<< 31 }
  let s := s.updCore placeCore fun k => { k with tags := tset k.tags 255 { (default : Tag) with use := use, held := true, round := 1 } }
  withArg s { q := { (default : Packet) with issuer := asker0, tag := 255, round := 1, data0 := 5 }, l := { (default : LinePkt) with
    dst := asker0, tag := 255, round := 1, data := zeros 128 }, c := placeCore, n := 255, i := 1 }

theorem witness_Replies : let s := replied (.lane placeWarp 3 31) (.ld ⟨8, 0, 4, false, 0, false, false⟩) [8]
    s.arg.q.issuer.unit = 0 ∧ (s.tag placeCore 255).use = .lane placeWarp 3 31 ∧ (s.tag placeCore 255).held = true ∧
      (s.tag placeCore 255).round = s.arg.q.round ∧ (s.tag placeCore 255).line = none ∧ (s.tag placeCore 254).held = false ∧
      (s.tag placeCore 255).deadline ≤ (s.timeAt placeCore.pkg).toNat ∧ s.arg.flag = false ∧ s.arg.l.poison = false ∧
      (s.flight? placeWarp 3).any (fun f => decide (f.sent = (1 : Mask) <<< 31 ∧ f.remaining = 0 ∧ f.waiting = 0 ∧ f.done = false ∧ f.fault = none ∧
        f.order = 0 ∧ f.dest ≠ [] ∧ f.tags = [] ∧ f.bad = none ∧ (memOf f.instr).map (·.1.space) = some .pool)) = true := by decide +kernel

theorem witness_Replies_post : let s := replied (.post placeWarp 3 31) (.st ⟨8, 0, 4, false, 0, false, false⟩) []
    (s.tag placeCore 255).use = .post placeWarp 3 31 ∧
      (s.flight? placeWarp 3).any (fun f => decide (f.sent = (1 : Mask) <<< 31 ∧ f.remaining = 0 ∧ f.waiting = 0 ∧ f.done = false ∧ f.dest = [])) = true := by
  decide +kernel

theorem witness_Replies_writeback : let s := (replied (.writeback 0x1000) (.st ⟨8, 0, 4, false, 0, false, false⟩) []).updCore placeCore fun k => { k with
      lines := [{ (default : CacheLine) with pa := 0x1000, data := zeros 128, dirty := true, pin := .ending }] }
    (s.tag placeCore 255).use = .writeback 0x1000 ∧ (s.cached placeCore 0x1000).any (·.use == 0) = true := by decide +kernel

theorem witness_Replies_resend : let s := replied (.lane placeWarp 3 31) (.ld ⟨8, 0, 4, false, 0, false, false⟩) [8]
    (s.tag placeCore 255).round = s.arg.i ∧ (s.tag placeCore 255).req.src.pkg = (s.tag placeCore 255).req.dst.pkg ∧
      (s.tag placeCore 255).req.dst.unit ≠ 2 := by decide +kernel

theorem witness_Replies_resendHome : let s := withArg (mapped.updCore placeCore fun k => { k with
      tags := tset k.tags 255 { (default : Tag) with held := true, round := 1, req := { (default : Packet) with
        src := asker0, dst := { home0 with unit := 2 }, opcode := 2, addr := 0x1000 } } }) { c := placeCore, n := 255, i := 1 }
    let k := s.tag placeCore 255
    k.held = true ∧ k.round = s.arg.i ∧ k.line = none ∧ (packetEvent k.req.opcode).isSome = true ∧ k.req.dst.unit = 2 ∧ k.req.opcode ≠ 5 ∧
      (s.homeAt placeCore.dieId k.req.addr).any (fun h => h.pkg == k.req.src.pkg) = true := by decide +kernel

theorem witness_Replies_requests : (List.range 64).any (fun n => (packetEvent n).isSome) = true := by decide +kernel

/-- A contribution of package 0's core to group 3 at its router. -/
def contributed (l : LinePkt) (g : Option Group) : State :=
  let s := withArg placed { p := 0, l := l }
  match g with
  | some g => s.updPkg 0 fun k => { k with groups := tset k.groups 3 g }
  | none => s

def share0 : LinePkt := { (default : LinePkt) with group := 3, operator := 6, index := 1, mask := BitVec.allOnes 128, data := zeros 128 }
def group0 : Group := { (default : Group) with valid := true, root := true, local_ := true, operator := 6, lines := 2 }

theorem witness_Routers_fold : (31 : Nat) < 32 ∧ (List.replicate 32 true).getD 31 false = true := by decide

theorem witness_Routers_up : (let s := contributed share0 none
    s.arg.l.src.pkg = 0 ∧ s.arg.l.issuer.pkg = 0 ∧ (tget? (s.pkg 0).groups 3).isNone = true) ∧
    (let s := contributed share0 (some group0)
     (tget? (s.pkg 0).groups s.arg.l.group).any (fun g => decide (g.root = true ∧ g.local_ = true ∧ g.children = 0 ∧
       s.arg.l.operator = g.operator ∧ s.arg.l.operator ≤ 6 ∧ s.arg.l.index < g.lines)) = true ∧ (s.pkg 0).seqs = [] ∧
       s.arg.l.data.length = 128 ∧ s.arg.l.mask = BitVec.allOnes 128) := by decide +kernel

theorem witness_Routers_down : let s := replied (.combine placeWarp 3) (.combine ⟨8, 0, 4, false, 0, false, false⟩ m0) [8]
    s.arg.l.dst.unit = 0 ∧ (s.tag placeCore s.arg.l.tag).held = true ∧ (s.tag placeCore s.arg.l.tag).round = s.arg.l.round ∧
      (s.tag placeCore s.arg.l.tag).use = .combine placeWarp 3 ∧
      (s.flight? placeWarp 3).any (fun f => decide (f.dest = [8] ∧ f.done = false ∧ f.fault = none ∧ f.order = 0)) = true := by decide +kernel

theorem witness_Routers_admit : let g := { group0 with children := 5 }
    let s := (contributed share0 (some g)).updPkg 0 (fun k => { k with queued := [(0, share0)] })
    (s.pkg 0).queued = [(0, share0)] ∧ (State.Group.inputs g).contains 0 = true ∧ (∃ j ∈ State.Group.inputs g, j ≠ 0) ∧
      (s.pkg 0).seqs = [] ∧ share0.index < g.lines := by decide +kernel

theorem witness_Routers_abandon : let c : CombSeq := { (default : CombSeq) with group := 3, seq := 2 }
    let s := (withArg placed { p := 0, i := 3, n := 2 }).updPkg 0 (fun k => { k with seqs := [c] })
    s.arg.flag = false ∧ (s.pkg 0).seqs = [c] ∧ c.group = s.arg.i ∧ c.seq = s.arg.n ∧ c.abandoned = false := by decide +kernel

/-- A domain of packages 0 and 1 over that pool, whose page tables map its first 2 GiB, writable. -/
def domain : State :=
  let s := putAt (putAt mapped 0 (leBytes 8 0x20001)) 0x20000 (leBytes 8 7)
  { s with dom := { s.dom with configured := true, nrow := 1, ncol := 2, release := [0, 1], root := 0, queueBase := 0x8000, queueK := 6,
                                registry := 0x40000000, symSize := 1, symMap := 0x100, primary := 0 }, turn := none }

theorem witness_Routers_mcast : (match (domain.bootPuts 0 0x100 (leBytes 8 0x8000000000200000)).symResolve 0 0x1000 with
    | some pa => decide (pa = 0x201000) && (domain.homeAt d0 pa).any (fun h => (domain.pinHolder h).isNone && !(domain.die h.dieId).lost &&
        (domain.die h.dieId).migr.isEmpty && !domain.barred h asker0)
    | none => false) = true := by decide +kernel

theorem witness_PortsAndPages_send : let f := mkFlit (freshHdr 1 1 0 asker0 { asker0 with pkg := 1 } 1 false) (slotBytes { (default : Packet) with
      dst := { asker0 with pkg := 1 } })
    let s := (withArg domain { p := 0, port := 0 }).updPkg 0 (fun k => { k with ports := tset k.ports 0 { Port.dark with state := 1, queue := [f] } })
    (s.port 0 0).state = 1 ∧ s.isMember 0 = true ∧ s.isMember (farEnd 0 0) = true ∧ f.length = 256 ∧
      State.pickFlit (s.port 0 0) ((s.port 0 0).slots % 64 == 63) = some 0 := by decide +kernel

theorem witness_PortsAndPages_receive : let h := { freshHdr 1 1 0 { asker0 with pkg := 1 } home0 1 false with seq := 1 }
    let f := mkFlit h (slotBytes { (default : Packet) with dst := home0, opcode := 0x01 })
    let s := withArg domain { p := 0, port := 0, bytes := f }
    s.earlierFlit 0 0 h.seq = false ∧ (s.port 0 0).state = 1 ∧ flitOk f = true ∧ seqAfter (flitHdr f).seq (s.port 0 0).seqIn = true ∧
      (flitHdr f).kind = 1 ∧ (flitHdr f).slots = 1 ∧ (flitHdr f).dst.pkg = 0 ∧ (flitHdr f).src.unit ≠ 4 ∧
      s.behind 0 (farEnd 0 0) (flitHdr f).src.pkg = true ∧ (s.pkg 0).frozen = [] ∧
      (packetEvent (slotOf (flitHdr f) (flitBody f)).opcode).isSome = true ∧ flitOk (f.set 40 0xFF) = false := by decide +kernel

theorem witness_PortsAndPages_control : let f := domain.controlFlit 1 0 { Port.dark with seqOut := 0 } 3
    let s := withArg domain { p := 0, port := 0, bytes := f }
    s.earlierFlit 0 0 (flitHdr f).seq = false ∧ (s.port 0 0).state = 1 ∧ flitOk f = true ∧ seqAfter (flitHdr f).seq (s.port 0 0).seqIn = true ∧
      (flitHdr f).kind = 3 := by decide +kernel

theorem witness_PortsAndPages_lanes : laneCount 1 ≠ 0 ∧ laneCount (3 * 2 ^ 14) ≠ 0 := by decide +kernel

theorem witness_PortsAndPages_training : ∀ v ∈ [1, 2, 3], let s := (withArg domain { p := 0, port := 0, rx := 1, tx := 1 }).updPkg 0 (fun k =>
      { k with ports := tset k.ports 0 { Port.dark with state := v } })
    (s.port 0 0).state = v ∧ s.isMember 0 = true ∧ s.isMember (farEnd 0 0) = true ∧ (s.port 0 0).queue = [] ∧ s.arg.rx ≠ 0 ∧ s.arg.tx ≠ 0 ∧ s.arg.flag = false ∧
      (s.port (farEnd 0 0) (portTo (farEnd 0 0) 0)).queue = [] := by decide +kernel

theorem witness_PortsAndPages_modules : linkModules 0 1 = 4 ∧ (3 : Nat) < linkModules 0 1 ∧
    3 ∉ tget (domain.pkg 0).modules { (default : LinkId) with pkg := 0, a := 0, b := 1 } [] := by decide +kernel

theorem witness_PortsAndPages_switch : let s := (withArg domain { d := d0 }).updDie d0 (fun k => { k with pend := some k.cur })
    (s.die s.arg.d).pend.isSome = true := by decide +kernel

/-- A page of 64 KiB that is to move, at a phase. -/
def moving (phase : Nat) : State :=
  let m : Migration := { va := 0x10000, leaf := 0x20008, oldPa := 0x100000, newPa := 0x200000, log := 16, desc := 7, phase := phase, passes := 0, dirty := [3, 511] }
  (withArg domain { d := d0, i := 7, n := 4 }).updDie d0 (fun k => if phase = 0 then { k with waitq := [m] } else { k with migr := [m] })

theorem witness_PortsAndPages_start : let s := moving 0
    let keys := (List.range 8).filterMap fun j => (s.homeAt d0 (0x20008 + j)).map physKey
    (s.die d0).waitq.any (fun m => decide (16 ≤ m.log) && s.leafOf d0 m / 2 ^ 59 % 2 == 0 && !s.leafHeld d0 m) = true ∧ (s.die d0).migr = [] ∧
      s.commit.isNone = true ∧ keys.Nodup ∧ keys.length = 8 := by decide +kernel

theorem witness_PortsAndPages_copy : let s := moving 1
    let keys := (List.range 128).filterMap fun j => (s.homeAt d0 (0x200000 + 128 * 511 + j)).map physKey
    (s.die d0).migr.all (fun m => decide (m.desc = s.arg.i ∧ m.phase = 1 ∧ 511 ∈ m.dirty ∧ s.arg.n ≤ 511 ∧ (∀ j ∈ m.dirty, s.arg.n ≤ j → 511 ≤ j) ∧
        m.newPa % 128 = 0 ∧ m.oldPa % 128 = 0 ∧ (m.passes = 0 → s.arg.n = 0 → s.leafPushing d0 m = false))) = true ∧ (s.die d0).migr.length = 1 ∧ (keys.Pairwise fun a b => a < b) ∧ keys.length = 128 ∧
      (s.homeAt d0 0x200000).any (fun h => !(s.die h.dieId).lost) = true ∧ (s.homeAt d0 (0x100000 + 128 * 511)).isSome = true := by decide +kernel

theorem witness_PortsAndPages_windows : ∀ v ∈ [2, 3], ((moving v).die d0).migr.map (fun m => (m.desc, m.phase)) = [(7, v)] := by decide +kernel

/-! The command queue and the Brokers. -/

/-- No die holds a pending table. -/
def settled (s : State) : Bool := s.dies.all fun k => k.2.pend.isNone

theorem settled_die {s : State} (h : settled s = true) (d : DieId) : (s.die d).pend = none := by
  have : ∀ t : Tab DieId Die, (t.all fun k => k.2.pend.isNone) = true → ∀ x, tget? t d = some x → x.pend = none := by
    intro t
    induction t with
    | nil => intro _ x e; cases e
    | cons k t ih =>
      intro h x e
      simp only [List.all_cons, Bool.and_eq_true, Option.isNone_iff_eq_none] at h
      rw [tget?] at e
      split at e
      · cases e; exact h.1
      · exact ih h.2 x e
  rw [State.die, tget]
  cases e : tget? s.dies d with
  | none => rfl
  | some x => exact this _ h x e

theorem reach_same {s t : State} {d : DieId} {pa a : Nat} {h : Home} (hs : settled s = true) (e : s.reach d pa = .at_ h a t) : t = s := by
  have m : ∀ d v, s.meetVersion d v = s := fun d v => by simp [State.meetVersion, settled_die hs]
  unfold State.reach at e
  simp only [m] at e
  repeat' split at e
  all_goals cases e
  all_goals rfl

theorem readAt_same {s t : State} {h : Home} {pa n : Nat} {bs : List Byte} (e : s.readAt h pa n = .ok bs t) : t = s := by
  unfold State.readAt at e
  repeat' split at e
  all_goals cases e
  rfl

theorem fwRead_same (p fuel : Nat) : ∀ (s : State), settled s = true → ∀ va n bs t, s.fwRead p va n fuel = .ok bs t → t = s := by
  induction fuel with
  | zero => intro s _ va n bs t e; cases e; rfl
  | succ fuel ih =>
    intro s hs va n bs t e
    rw [State.fwRead] at e
    split at e
    · cases e; rfl
    split at e <;> try cases e
    split at e <;> try cases e
    next hr =>
    obtain rfl := reach_same hs hr
    split at e
    · next bs1 s1 h1 =>
      obtain rfl := readAt_same h1
      split at e
      · next r s2 h2 => cases e; exact ih _ hs _ _ _ _ h2
      · exact ih _ hs _ _ _ _ e
    · exact readAt_same e

/-- A read of the firmware that succeeds, in the form that the statements ask for. -/
theorem reads {s : State} {p n : Nat} {va : DWord} {P : List Byte → Bool} (h : (settled s && okAccess (s.fwBytes p va n) fun bs _ => P bs) = true) :
    ∃ bs, s.fwBytes p va n = .ok bs s ∧ P bs = true := by
  rw [Bool.and_eq_true] at h
  cases e : s.fwBytes p va n with
  | ok bs t => obtain rfl := fwRead_same _ _ _ h.1 _ _ _ _ e; exact ⟨bs, rfl, by simpa [okAccess, e] using h.2⟩
  | _ => simp [okAccess, e] at h

/-- A packet of the queue: its first bytes, then zeros. -/
def packet (bs : List Byte) : List Byte := bs ++ zeros (64 - bs.length)

/-- The queue has one packet to read. -/
def queued : State := putAt (putAt domain 0x8000 (zeros 8 ++ leBytes 8 1)) 0x8080 (packet [0x17])

theorem witness_Queue_poll : let r := (queued.afterOnce 10000 .queuePoll {}).watchQueue
    (queued.dom.configured = true ∧ queued.queue.status = 0 ∧ queued.frozen = false ∧ queued.queue.cur = none ∧ queued.queue.waiting = none ∧
      r.queueWord 16 = some queued.queue.confirmed ∧ r.queueWord 8 = some 1 ∧ queued.queue.confirmed < 1) ∧
    ∃ bs, r.fwBytes r.lead (r.queueSlot queued.queue.confirmed) 64 = .ok bs r ∧ (field bs 0 1 == 0x17) = true :=
  ⟨by decide +kernel, reads (by decide +kernel)⟩

/-- The packet of bytes bs is read and mirrored, or its event is due. -/
def current (acked : Bool) (bs : List Byte) : State :=
  withArg { domain with queue := { domain.queue with cur := some (0, packet bs), acked := acked } } { n := 0, bytes := packet bs }

theorem witness_Queue_start : ∀ bs ∈ [[0x11], [0x12], [0x13, 1], [0x14], [0x15], [0x16], [0x17]], let s := current false bs
    let p := packet bs
    s.queue.cur = some (0, p) ∧ s.queue.acked = false ∧ s.queue.status = 0 ∧ s.frozen = false ∧ s.packetDue 0 = false ∧
      (packetStart (packetKind p)).isSome = true ∧ packetVersion p = 1 ∧ headerClean p = true ∧ s.queue.grids = [] ∧ s.gridsInFlight = 0 := by
  decide +kernel

theorem witness_Queue_malformed : packetStart (packetKind (packet [0x18])) = none ∧ packetVersion (packet [0x27]) ≠ 1 ∧
    headerClean (packet [0x17, 0x80]) = false := by decide +kernel

theorem witness_Queue_restart : let s := withArg { queued with queue := { queued.queue with status := 2 } } {}
    (s.arg.flag = false ∧ s.queue.status ≠ 0 ∧ (s.inflight.all fun a => decide (a.1 ≠ .queueRestart)) = true ∧ s.timers = []) ∧
    ∃ bs, s.fwBytes s.lead (s.dom.queueBase + 24) 1 = .ok bs s ∧ (bs == [0]) = true := ⟨by decide +kernel, reads (by decide +kernel)⟩

theorem witness_Queue_ready : let s := current true [0x17]
    (s.arg.src = .queue ∧ s.packetReady = true ∧ bodyBad s.arg.bytes = false ∧ bodyBad (packet ([0x17] ++ zeros 7 ++ [1])) = true) := by
  decide +kernel

/-- A SIGNAL or WAIT packet on the word at an address. -/
def onWord (kind : Byte) (va : Nat) (op : Nat) : List Byte := [kind] ++ zeros 7 ++ leBytes 8 va ++ leBytes 8 5 ++ leBytes 1 op ++ zeros 3 ++ leBytes 4 9

theorem witness_Queue_words : ∀ bs ∈ [onWord 0x12 0x5000 2, onWord 0x13 0x5000 3], let s := current true bs
    s.packetReady = true ∧ (packetKind s.arg.bytes = 3 → bodyBad s.arg.bytes = false) ∧ field s.arg.bytes 8 8 % 8 = 0 ∧
      (match s.fwTranslate s.lead (field s.arg.bytes 8 8) true with
       | .ok e => match s.reach (State.feDie s.lead) (e.phys 0x5000) with
         | .at_ h pa s' =>
           let keys := (List.range 8).filterMap fun j => (s'.homeAt h.dieId (pa + j)).map physKey
           !(s'.die h.dieId).lost && (s'.pinHolder h).isNone && !s'.isPoisoned h && decide keys.Nodup && keys.length == 8 &&
             decide (BitVec.ofNat 64 (2 ^ 63 + s.arg.n) ∉ (s'.die h.dieId).tagged)
         | _ => false
       | _ => false) = true := by decide +kernel

theorem witness_Queue_misaligned : field (packet (onWord 0x13 0x5004 0)) 8 8 % 8 ≠ 0 ∧ bodyBad (packet (onWord 0x13 0x5004 0)) = false := by decide +kernel

/-- A TABLE packet with one entry of a period of 10 us, from slot 9,999 on. -/
def tableQueued (period offset : Nat) : State :=
  putAt (current true ([0x15] ++ zeros 7 ++ leBytes 8 0x6000 ++ leBytes 2 1)) 0x6000 (leBytes 8 period ++ leBytes 8 offset ++ leBytes 8 0x7000 ++ [0x81] ++ zeros 7)

theorem witness_Queue_table : ∀ q ∈ [(10000, 9999, false), (9999, 0, true)], let s := tableQueued q.1 q.2.1
    (bodyBad s.arg.bytes = false ∧ field s.arg.bytes 8 8 % 32 = 0 ∧ field s.arg.bytes 16 2 = 1) ∧
    ∃ tb, s.fwBytes s.lead 0x6000 (32 * 1) = .ok tb s ∧ (entryBad ((tb.drop 0).take 32) == q.2.2) = true :=
  fun q hq => by
    rcases List.mem_cons.1 hq with rfl | hq
    · exact ⟨by decide +kernel, reads (by decide +kernel)⟩
    · obtain rfl := List.mem_singleton.1 hq
      exact ⟨by decide +kernel, reads (by decide +kernel)⟩

theorem witness_Queue_waits : let s := { current true [] with queue := { domain.queue with waiting := some (0, packet (onWord 0x13 0x5000 2), 0) } }
    (s.arg.n = 0 ∧ packetKind (packet (onWord 0x13 0x5000 2)) = 3 ∧ s.frozen = false) ∧
    ∃ v, s.fwBytes s.lead (BitVec.ofNat 64 (field (packet (onWord 0x13 0x5000 2)) 8 8)) 8 = .ok v s ∧ decide (leVal v < 5) = true :=
  ⟨by decide +kernel, reads (by decide +kernel)⟩

theorem witness_Queue_fence : let bs := packet [0x14, 0, 0, 0, 0, 0, 0, 0, 4]
    let s := withArg { domain with queue := { domain.queue with waiting := some (0, bs, 0) } } { n := 0, flag := true }
    packetKind bs = 4 ∧ bodyBad bs = false ∧ s.queue.grids = [] ∧ s.noPushes = true ∧ bits (field bs 8 1) 2 0 = 4 := by decide +kernel

/-- A table's entry whose slot is due, and the first byte of its LAUNCH packet. -/
def slotted (kind : Byte) (rule : Nat) (running : Option Nat) : State :=
  withArg { putAt domain 0x7000 (packet [kind]) with queue := { domain.queue with
    tt := [{ TtEntry.empty with va := 0x6000, period := 10000, offset := 0, launch := 0x7000, enable := true, rule := rule, running := running }] } } { i := 0, n := 0 }

theorem witness_Queue_slot : ∀ rule ∈ [0, 1, 2], ∀ running ∈ [none, some 9], let s := slotted 0x11 rule running
    let v := s.ttEntry 0
    s.arg.flag = false ∧ s.frozen = false ∧ v.enable = true ∧ v.slot = s.arg.n ∧ v.offset + v.slot * v.period ≤ (s.timeAt s.lead).toNat ∧
      v.running = running ∧ v.rule = rule ∧ v.pending = false ∧ s.gridsInFlight < 64 := by decide +kernel

theorem witness_Queue_slotPacket : (let s := slotted 0x11 0 none
    ∃ p, s.slotPacket (s.ttEntry 0) = .ok p s) ∧
    let s := slotted 0x12 0 none
    ∃ c a, s.slotPacket (s.ttEntry 0) = .fault c a := by
  constructor
  · obtain ⟨bs, e, h⟩ := reads (s := slotted 0x11 0 none) (p := (slotted 0x11 0 none).lead) (n := 64) (va := 0x7000)
      (P := fun bs => !(field bs 0 1 != 0x11 || !headerClean bs)) (by decide +kernel)
    refine ⟨bs, ?_⟩
    rw [State.slotPacket, show ((slotted 0x11 0 none).ttEntry 0).launch = 0x7000 from rfl, e]
    simp only [Bool.not_eq_true'] at h
    simp [h]
  · obtain ⟨bs, e, h⟩ := reads (s := slotted 0x12 0 none) (p := (slotted 0x12 0 none).lead) (n := 64) (va := 0x7000)
      (P := fun bs => field bs 0 1 != 0x11 || !headerClean bs) (by decide +kernel)
    refine ⟨0, 0x7000, ?_⟩
    rw [State.slotPacket, show ((slotted 0x12 0 none).ttEntry 0).launch = 0x7000 from rfl, e]
    simp [h]

/-- A LAUNCH packet of one gang, and its descriptor with warps, scratchpad and tiles as given. -/
def launching (warps scratch tiles : Nat) : State :=
  let p := packet ([0x11] ++ zeros 7 ++ leBytes 8 0x7000 ++ zeros 8 ++ leBytes 4 1 ++ leBytes 2 1 ++ leBytes 2 1)
  let d := leBytes 8 0x10000 ++ leBytes 1 warps ++ [16] ++ leBytes 2 scratch ++ [0] ++ leBytes 1 tiles ++ zeros 114
  let s := putAt (current true p) 0x7000 d
  s.updDie d0 fun k => { k with working := BitVec.allOnes 64 }

theorem witness_Queue_launch : let s := launching 1 16 8
    (s.arg.port = 0 ∧ s.packetReady = true ∧ s.writable s.lead (field s.arg.bytes 40 8) 64 = some true ∧ s.freeHandle .queue = some 0 ∧
      (match s.check .queue s.queue.serial 0 s.arg.bytes s.arg.flag with
       | .accept l => l.warps == 1
       | _ => false) = true) ∧ ∃ d, s.fwBytes s.lead (BitVec.ofNat 64 (field s.arg.bytes 8 8)) 128 = .ok d s ∧ (descriptorBad d == false) = true :=
  ⟨by decide +kernel, reads (by decide +kernel)⟩

theorem witness_Queue_rejects : ∀ q ∈ [((1, 257, 8), 2), ((3, 16, 8), 3), ((0, 16, 8), 4)], let s := launching q.1.1 q.1.2.1 q.1.2.2
    (match s.check .queue s.queue.serial 0 s.arg.bytes s.arg.flag with
     | .reject n => n == q.2
     | _ => false) = true ∧ field s.arg.bytes 32 8 % 8 = 0 := by decide +kernel

theorem witness_Queue_takeover : let s := current false [0x11]
    s.queue.cur = some (0, packet [0x11]) ∧ s.queue.acked = false ∧ (current true [0x11]).queue.acked = true ∧
      (let t := putAt (current true [0x11]) (s.entryPool 63 + 192) [1]
       field (t.regBytes (t.entryPool 63) 256) 192 1 = 1) := by decide +kernel

/-- A grid of 16 gangs of one core in flight in the domain; a message about it is next of its pair. -/
def launch5 : Launch := { (default : Launch) with gx := 16, gy := 1, gz := 1, warps := 1, units := 1, entry := 0x10000, scratch := 16
                                                  weights := [(0, [1, 1, 1, 1]), (1, [1, 1, 1, 1])] }

def grid (l : Launch) (src dst : BrokerId) (first count : Nat) : State :=
  let s := (domain.setLaunch 5 l).updDie d0 fun k => { k with working := BitVec.allOnes 64 }
  withArg s { k := dst, m := { src := src, dst := dst, grid := 5, first := first, count := count, data1 := 0, seq := 0 } }

/-- A message of a die's Broker to its package's. -/
def upward : BrokerMsg := { src := .die 0 0, dst := .pkg 0, grid := 5, first := 0, count := 1, data1 := 0, seq := 0 }

theorem witness_Brokers_pass : domain.departed (.pkg 0) = false ∧ domain.departed (.tray 0) = false ∧ domain.departed (.die 0 0) = false ∧
    domain.sameSeat (.pkg 0) (.tray 0) = true ∧ domain.sameSeat upward.src upward.dst = false ∧
    (domain.brokerTag upward.src 0).held = false ∧ (domain.brokerTag upward.src 0).quarantine = false := by decide +kernel

/-- Tag 255 of the die's Broker is held for that message. -/
def asked5 : State := withArg ((domain.setBrokerTag upward.src 255 { (default : Tag) with
    held := true, round := 2, use := .broker .brokerDone upward, req := { (default : Packet) with dst := domain.brokerEndpoint upward.dst } }))
  { k := upward.src, n := 255, flag := true
    q := { (default : Packet) with issuer := domain.brokerEndpoint upward.src, src := domain.brokerEndpoint upward.dst, tag := 255, round := 2 } }

theorem witness_Brokers_timeout : let t := asked5.brokerTag asked5.arg.k asked5.arg.n
    asked5.arg.flag = true ∧ t.held = true ∧ t.use = .broker .brokerDone upward ∧ upward.src = asked5.arg.k ∧ asked5.departed asked5.arg.k = false ∧
      asked5.departed upward.dst = false ∧ t.deadline ≤ (asked5.timeAt (asked5.brokerEndpoint asked5.arg.k).pkg).toNat := by decide +kernel

theorem witness_Brokers_answer : let q := asked5.arg.q
    ∃ b, asked5.brokers = [(asked5.arg.k, b)] ∧ asked5.brokerEndpoint asked5.arg.k = q.issuer ∧ q.issuer.unit = 3 ∧ q.lane = 0 ∧
      (tget b.tags q.tag default).held = true ∧ (tget b.tags q.tag default).round = q.round ∧ (tget b.tags q.tag default).req.dst = q.src ∧ b.sendq = [] :=
  ⟨_, rfl, by decide +kernel⟩

theorem witness_Brokers_departed : domain.departed (.pkg 7) = true := by decide +kernel

theorem witness_Brokers_order : let s := grid launch5 .rack (.tray 0) 0 16
    let m := s.arg.m
    let due := tget (s.broker m.dst).seqIn m.src 0
    s.arg.flag = false ∧ due = 0 ∧ (s.broker m.dst).early = [] ∧ (7 + 2 ^ 16 - due) % 2 ^ 16 < 2 ^ 15 ∧
      2 ^ 15 ≤ (0xFFFF + 2 ^ 16 - due) % 2 ^ 16 ∧ domain.launch? m.grid = none ∧ s.departed m.dst = false ∧ s.arg.q.opcode ≠ 6 ∧
      ({ (default : Packet) with opcode := 6 }.dst.pkg = (default : Packet).issuer.pkg) := by decide +kernel

theorem witness_Brokers_split : sumList ([BrokerId.die 0 0, .die 0 3].map launch5.weight) = 2 := by decide +kernel

theorem witness_Brokers_turn : ∀ q ∈ [(BrokerId.rack, BrokerId.tray 0), (.tray 0, .pkg 0), (.pkg 0, .die 0 0), (.tray 0, .rack)],
    let s := grid launch5 q.1 q.2 3 4
    (s.departed s.arg.m.dst = false ∧ s.departed s.arg.m.src = false ∧ tget (s.broker s.arg.m.dst).seqIn s.arg.m.src 0 = s.arg.m.seq ∧ (s.broker s.arg.m.dst).early = [] ∧ s.launch? s.arg.m.grid = some launch5) ∧
      s.arg.flag = false ∧ s.arg.m.dst = q.2 ∧ s.isMember 0 = true ∧ (s.die d0).lost = false ∧ s.reservations q.2 = [] ∧
      s.openReservations d0 = [] ∧ s.arg.m.grid < 64 ∧
      (s.share q.2 5).takers = [] ∧ (s.broker q.2).hunts = [] ∧ launch5.isChild = false ∧ (s.share q.2 5).lastDone = 0 ∧ 0 < s.arg.m.count ∧
      s.arg.m.copyOf = none ∧ (s.children (.tray 0)).length = 2 ∧ (s.share q.2 5).dExited = 0 ∧ (s.share q.2 5).dLost = 0 := by decide +kernel

theorem witness_Brokers_placement : let l := { launch5 with placement := true, placeBase := 0x100000, placeStride := 4096 }
    let s := grid l (.tray 0) (.pkg 0) 0 16
    l.placement = true ∧ (State.ownedRun l 0).isSome = true ∧ s.gangHome 0 l 15 1 = some (.die 0 0) ∧
      State.homeRuns l 0 (0, 16) ≠ [] ∧ (State.homeRuns l 0 (0, 16)).all (fun x => !s.departed x.1) = true ∧ (l.kids (.tray 0)).length = 2 := by decide +kernel

theorem witness_Brokers_steal : let s := (grid launch5 (.pkg 0) (.die 0 0) 0 0).updShare (.die 0 0) 5 (fun x => { x with runs := [(1, 1), (7, 1)] })
    runCount (s.share (.die 0 0) 5).runs = 2 ∧ s.reservations (.die 0 0) = [] ∧
      (s.brokers.all fun x => x.2.hunts.isEmpty && (tget x.2.shares 5 Share.empty).rollbacks.isEmpty) = true ∧
      (s.ring (.pkg 0)).length = 4 ∧ State.parent (.tray 0) ≠ some (.pkg 0) := by decide +kernel

theorem witness_Brokers_hunt : let s := (grid launch5 (.die 0 1) (.pkg 0) 0 0).updBroker (.pkg 0) (fun b => { b with
      hunts := [{ grid := 5, thief := .die 0 2, take := false, asker := some (.die 0 2), todo := [], now := .die 0 1 }] })
    (s.broker (.pkg 0)).hunts.map (fun q => (q.grid, q.now, q.asker, q.todo)) = [(5, s.arg.m.src, some (.die 0 2), [])] := by decide +kernel

/-- A block of that grid on the placed core, in a state. -/
def blocks (l : Launch) (st : Nat) : State :=
  let s := grid l (.pkg 0) (.die 0 0) 0 16
  (s.setBlock { grid := 5, gang := 0, j := 0 } { Block.start placeCore 1 1 0 0 0 16 [0] [0] with state := st }).setWarp { core := placeCore, slot := 0 }
    (Warp.start { grid := 5, gang := 0, j := 0 } 0 1 0 0x10000)

theorem witness_Brokers_vacate : let s := blocks { launch5 with placement := true } 0
    ∃ v, s.block? { grid := 5, gang := 0, j := 0 } = some v ∧ v.core.dieId = d0 ∧ v.core.pos < 64 ∧ v.slots ≠ [] ∧ v.state = 0 :=
  ⟨_, rfl, rfl, by decide, by decide, rfl⟩

theorem witness_Brokers_saved : (((blocks launch5 1).gangOf { grid := 5, gang := 0 }).map fun x => x.2.state) = [1] := by decide +kernel

theorem witness_Brokers_done : let s := grid { launch5 with exited := 12 } (.tray 0) .rack 0 4
    (s.launch? 5).any (fun l => decide (l.blocks ≤ l.exited + 4 ∧ ¬ l.blocks ≤ l.exited + 3 ∧ l.record = 0 ∧ l.signal = 0 ∧ l.recorded = none)) = true := by
  decide +kernel

theorem witness_Brokers_trayDone : let s := grid launch5 (.pkg 0) (.tray 0) 0 4
    s.arg.m.dst = .tray (trayOf 0) ∧ s.arg.m.src = .pkg 0 ∧ launch5.isChild = false ∧ (s.launch? 5).isSome = true := by decide +kernel

theorem witness_Brokers_scan : let l := { launch5 with placement := true, placeBase := 0x100000, placeStride := 4096 }
    let s := withArg (grid l (.die 0 0) (.pkg 0) 3 2) { k := .pkg 0, flag := true, i := 5, n := 16, m := { src := .die 0 0, dst := .die 0 0, grid := 5, first := 3, count := 2, data1 := 1, seq := 0 } }
    s.arg.flag = true ∧ s.arg.k = .pkg 0 ∧ (s.launch? 5).isSome = true ∧ s.isMember 0 = true ∧ s.arg.i < s.arg.n ∧
      s.gangHome 0 l s.arg.i (s.arg.m.data1.setWidth 16) = some (.die 0 0) ∧ s.arg.m.count ≠ 0 := by decide +kernel

theorem witness_Brokers_timer : let s := { (grid launch5 .rack .rack 0 0).updShare (.die 0 0) 5 (fun x => { x with dExited := 3 }) with
      now := 5000, arg := { k := .die 0 0, i := 5 } }
    let v := s.share s.arg.k 5
    v.dExited + v.dLost ≠ 0 ∧ v.lastDone + 1000 ≤ s.now ∧ (s.launch? 5).isSome = true := by decide +kernel

theorem witness_Brokers_complete : let l := { launch5 with exited := 16, record := 0x6000, signal := 0x6040 }
    let s := grid l .rack .rack 0 0
    l.blocks ≤ l.exited + l.lost ∧ (match s.writeRecord l 0 with
      | some (u, r) => (u.completeSignal { l with record := 0, recorded := r.or l.recorded } (r.or l.recorded)).isSome
      | none => false) = true := by decide +kernel

/-- The die's Broker holds the unstarted gangs of the grid. -/
def placing : State :=
  let s := (grid launch5 (.pkg 0) (.die 0 0) 0 0).updShare (.die 0 0) 5 fun x => { x with runs := [(0, 16)] }
  { s with blocks := [], warps := [], arg := { d := d0, c := placeCore, g := { grid := 5, gang := 0 }, k := .die 0 0 } }

theorem witness_Placement_order : (match placing.order d0 with
    | [c] => c.ref == { grid := 5, gang := 0 } && !c.saved
    | _ => false) = true ∧ placing.frozen = false ∧ (placing.die d0).lost = false ∧ (placing.launches.all fun x =>
      (placing.share (.die 0 0) x.1).takers.isEmpty) = true ∧ placing.reservations (.die 0 0) = [] ∧ placing.reserving d0 = false ∧ placing.openReservations d0 = [] ∧
      placing.restoreDue d0 = false ∧ launch5.straddle = false ∧ placing.rects d0 launch5 ≠ [] ∧
      (placing.bestRect launch5 (placing.freeRects d0 launch5)) = some [(placeCore, 0)] ∧ placing.openRoom placeCore launch5 = true := by decide +kernel

/-- Its first gang is under reservation on the placed core. -/
def reserved (k : BrokerId) (got restoring straddled : Bool) : State :=
  (placing.updBroker k fun b => { b with reservations := [{ gang := { grid := 5, gang := 0 }, cores := [(placeCore, 0)], begun := [placeCore]
                                                            got := if got then [placeCore] else [], restoring := restoring, straddled := straddled
                                                            owner := d0, slots := [] }] }).updCore placeCore fun c =>
    { c with reserved := some { grid := 5, gang := 0 }, reservedGrans := [0] }

theorem witness_Placement_prepare : let s := reserved (.die 0 0) false false false
    ((s.reservations s.arg.k).find? (·.gang == s.arg.g)).any (fun r => decide (s.arg.c ∈ r.begun ∧ s.arg.c ∉ r.got ∧ r.restoring = false ∧
      r.straddled = false)) = true ∧ (s.core s.arg.c).lines = [] := by decide +kernel

/-- The registry gives each package a heap of 64 KiB units. -/
def heaped (s : State) : State := putAt s (0x40000000 + 16) [16]

theorem witness_Placement_commit : ∀ k ∈ [BrokerId.die 0 0, .pkg 0], let s := withArg (heaped (reserved k true false false)) { g := { grid := 5, gang := 0 }, k := k }
    ((s.reservations s.arg.k).find? (·.gang == s.arg.g)).any (fun r => decide (r.complete = true ∧ r.restoring = false ∧ r.owner.pkg = 0 ∧
      (r.cores.map (·.1)).Nodup ∧ (r.cores.map (·.2)).Nodup) && (s.heapPlaces r.owner.pkg launch5.slotSize
        (s.goCores launch5 r).length []).isSome) = true ∧
      s.frozen = false ∧ (s.launch? s.arg.g.grid).isSome = true := by decide +kernel

theorem witness_Placement_messages : let s := withArg (heaped (reserved (.die 0 0) true false true)) { k := .die 0 0, m := { src := .pkg 0, dst := .die 0 0, grid := 5, first := 0, count := 1, data1 := 0, seq := 0 } }
    (s.departed s.arg.m.dst = false ∧ tget (s.broker s.arg.m.dst).seqIn s.arg.m.src 0 = s.arg.m.seq ∧ (s.broker s.arg.m.dst).early = [] ∧ s.launch? s.arg.m.grid = some launch5) ∧
      ((s.reservations s.arg.m.dst).find? (·.gang == { grid := 5, gang := 0 })).any (fun r => !r.restoring && r.complete && decide (r.slots = []) && decide ((r.cores.map (·.1)).Nodup ∧ (r.cores.map (·.2)).Nodup) &&
        (s.heapPlaces r.owner.pkg launch5.slotSize (s.goCores launch5 r).length []).isSome) = true ∧ s.frozen = false ∧
      (((reserved (.pkg 0) false false true).reservations (.pkg 0)).find? (·.gang == { grid := 5, gang := 0 })).isSome = true ∧
      (reserved (.pkg 0) false false true).reservations (.die 0 0) = [] := by decide +kernel

/-- A RESERVE or ROLLBACK of the core at position 0 of die 0, the first half of a rectangle of two columns. -/
theorem witness_Placement_half : let l := { launch5 with shape := 1 }
    let s := (reserved (.die 0 0) true false true).setLaunch 5 l
    let half : Straddle := { a := 0, b := 0, h := 1, w := 1, oa := 0, ob := 0 }
    ((half.half l.cols (0 % 2 = 1)).map fun q => (State.coreAt d0 q.1, q.2)) = [(placeCore, 0)] ∧
      s.halfOf d0 { grid := 5, gang := 0 } [(placeCore, 0), ({ placeCore with die := 1 }, 1)] = 0 := by decide +kernel

theorem witness_Placement_save : let s := { blocks launch5 5 with warps := ((blocks launch5 5).warps.drop 1), arg := { g := { grid := 5, gang := 0 } } }
    (match s.gangOf s.arg.g with
     | [(b, k)] => k.state == 5 && s.drained b k (s.warpsOf b) && !(s.drained b { k with chans := [{ Chan.idle with doing := some [0] }] } (s.warpsOf b))
     | _ => false) = true ∧ (s.warps.map (·.1)).Nodup ∧ (s.warps.all fun y => y.2.engine.isNone && y.2.regrouping.isNone && y.2.flights.isEmpty) = true ∧
      (s.core placeCore).lines = [] ∧ s.isMember placeCore.pkg = true := by decide +kernel

theorem witness_Placement_restore : let s := { (placing.updBroker (.pkg 0) (fun b => { b with restore := [{ grid := 5, gang := 0 }] })) with
      arg := { d := d0, g := { grid := 5, gang := 0 } } }
    s.arg.flag = false ∧ (s.launch? s.arg.g.grid).any (fun l => !l.isChild) = true ∧ s.arg.g ∈ (s.broker (.pkg s.arg.d.pkg)).restore ∧
      s.frozen = false ∧ s.gangOf s.arg.g = [] ∧ (s.fullRect { pkg := 0, die := 0 } launch5).isSome = true ∧ s.mayReserve { pkg := 0, die := 0 } launch5 = true ∧
      (s.die { pkg := 0, die := 0 }).lost = false ∧ s.reservations (State.dieBroker { pkg := 0, die := 0 }) = [] := by decide +kernel

/-- The frame of a warp whose fault is served, at its service word 1. -/
theorem witness_Placement_serve : let s := withArg (onWarp domain fun w => { w with serving := true, handler := true }) { w := placeWarp, flag := true }
    ∃ w b, s.warp? s.arg.w = some w ∧ s.block? w.block = some b ∧ w.exited = false ∧ w.serving = true ∧ s.arg.flag = true ∧
      (∀ e ∈ w.events, e.kind ≠ 3 ∧ e.armed = false) ∧ s.serviceWord b w ≠ 2 := ⟨_, _, rfl, rfl, rfl, rfl, rfl, by decide +kernel⟩

/-- The placed block has lower priority, and leaves no room on its core; the die has only this core. -/
def contended : State :=
  let s := grid { launch5 with prio := 3, warps := 8 } (.pkg 0) (.die 0 0) 0 0
  let s := s.updShare (.die 0 0) 5 fun x => { x with runs := [(0, 16)] }
  let s := (s.setLaunch 0 launch5).updDie d0 fun k => { k with working := 1 }
  let s := onBlock s fun b => { b with warps := 60 }
  { s with now := 30000, arg := { d := d0, g := { grid := 5, gang := 0 } } }

theorem witness_Placement_preempt : let s := contended
    let l := { launch5 with prio := 3, warps := 8 }
    s.waiting s.arg.d = some s.arg.g ∧ s.frozen = false ∧ (s.die d0).lost = false ∧ s.waitEnd s.arg.d s.arg.g ≤ s.now ∧
      s.reservations (.die 0 0) = [] ∧ s.reservations (.pkg 0) = [] ∧ (s.blocks.all fun x => x.1.grid != 5) = true ∧
      ((s.rects d0 l).find? fun r => r.all fun x => s.yields x.1 l s.arg.g (s.effPrio l s.arg.g)) = some [(placeCore, 0)] ∧
      (s.block? placeBlock).any (fun v => decide (v.slots ≠ [] ∧ v.state = 0 ∧ v.core = placeCore) && !s.roomFor v.core l s.arg.g) = true ∧
      (s.launch? placeBlock.grid).isSome = true := by decide +kernel

/-! Firmware, boot, failures, management. -/

/-- A read of a parameter block that succeeds, in the form that the statements ask for. -/
theorem gets {s : State} {p va n : Nat} {P : List Byte → Bool} (c : s.isMember p = true)
    (h : (settled s && okAccess (s.fwGet p va n) fun bs _ => P bs) = true) : ∃ bs, s.fwGet p va n = .ok bs s ∧ P bs = true := by
  rw [State.fwGet, if_pos c] at h ⊢
  exact reads h

/-- The lead's ring holds one request with this code and parameter block. -/
def asked (code : Nat) (b : List Byte) : State :=
  let s := putAt (putAt domain 0xA000 (zeros 8 ++ leBytes 8 1)) 0xA080 (leBytes 1 1 ++ leBytes 1 code ++ zeros 6 ++ leBytes 8 0xC000)
  let s := putAt s 0xC000 b
  { (s.updPkg 0 fun k => { k with bootState := 2, standbyOk := true }) with
    dom := { s.dom with ringBase := 0xA000, ringK := 6 }, arg := { p := 0 } }

theorem witness_FirmwareRequests : ∀ code ∈ [2, 3, 4, 5, 6, 7, 8, 9, 10, 11, 12, 13], let s := asked code [1]
    (s.nextRequest s.arg.p).any (fun r => requestOk r.2.2 && field r.2.2 1 1 == code && field r.2.2 8 8 == 0xC000) = true ∧
      s.dom.configured = true ∧ s.ringOf 0 = some (0xA000, 6) ∧ s.ringBusy 0 = false ∧ s.arg.flag = false := by decide +kernel

theorem witness_FirmwareRequests_block : ∃ bs, (asked 5 [1]).fwGet 0 0xC000 32 = .ok bs (asked 5 [1]) ∧ (field bs 0 4 == 1) = true :=
  gets (by decide +kernel) (by decide +kernel)

theorem witness_FirmwareRequests_ring : ∃ c, (asked 5 [1]).fwGet 0 (0xA000 + 8) 16 = .ok c (asked 5 [1]) ∧ decide (field c 8 8 < field c 0 8) = true :=
  gets (by decide +kernel) (by decide +kernel)

theorem witness_FirmwareRequests_unknown : let s := asked 14 []
    (s.nextRequest s.arg.p).any (fun r => !knownCode (field r.2.2 1 1)) = true ∧ s.arg.flag = false := by decide +kernel

/-- Before configure-domain the ring and its blocks lie in the package's boot space. -/
def unconfigured : State :=
  let s := ((placed.bootPuts 0 0xA008 (leBytes 8 1)).bootPuts 0 0xA080 (leBytes 1 1 ++ leBytes 1 1 ++ zeros 6 ++ leBytes 8 0xC000)).bootPuts 0 0xC000 [1]
  { (s.updPkg 0 fun k => { k with bootState := 1, ringL := 0xA000, ringH := 0, ringK := 6 }) with arg := { p := 0 } }

theorem witness_FirmwareRequests_domain : (unconfigured.nextRequest 0).any (fun r => requestOk r.2.2 && field r.2.2 1 1 == 1) = true ∧
    okAccess (unconfigured.fwGet 0 0xC000 192) (fun bs _ => field bs 0 1 == 1) = true ∧ unconfigured.launches = [] ∧
    unconfigured.domainBad 0 (unconfigured.bootBytes 0 0xC000 192) = true := by decide +kernel

theorem witness_FirmwareRequests_tables : let t : Tables := { version := 2, regions := [{ mode := 3, member := 0, pkg := 0, die := 0, base := 0, size := 2 ^ 31, homeBase := 0 }], members := [] }
    tablesStatus domain.isMember 4 t false true = 0 ∧ tablesStatus domain.isMember 4 t false false = 6 ∧ tablesStatus domain.isMember 4 t true true = 4 ∧
      (2 : BitVec 16) = (domain.die (State.feDie 0)).cur.version + 1 ∧ domain.moving = false := by decide +kernel

theorem witness_FirmwareRequests_drain : let t : Tables := (domain.die d0).cur
    let s := { domain with commit := some { pkg := 0, idx := 0, next := t } }
    (s.members.all fun p => [0, 1, 2, 3].all fun d => decide (p = 0 ∧ d = 0) || true) = true ∧ s.outstanding (t.version - 1) = false ∧
      s.ringOf s.lead = none ∧ s.allSwitched { t with version := 7 } = false ∧
      (s.memberDies.foldl (fun (s : State) d => s.updDie d fun k => { k with cur := t }) s).allSwitched t = true := by decide +kernel

/-- A migrate-page request of a 64 KiB page, and the page's leaf. -/
def migrating (leaf : Nat) : State :=
  putAt (asked 3 (leBytes 8 0x10000 ++ leBytes 8 0x30008 ++ leBytes 8 0x200000 ++ zeros 8)) 0x30008 (leBytes 8 leaf)

theorem witness_FirmwareRequests_migrate : (∃ b, (migrating 0x100003).fwGet 0 0xC000 32 = .ok b (migrating 0x100003) ∧
      (bits (field b 24 4) 1 0 == 0 && field b 16 8 % 2 ^ 16 == 0 && field b 8 8 == 0x30008) = true) ∧
    (let s := migrating 0x100003
     let v := leVal (s.homeBytes d0 0x30008 8)
     let u := (s.nextRequest 0).map fun r => s.endWith 0 r 0
     bits v 49 8 * 256 = 0x100000 ∧ v.testBit 59 = false ∧ (findRegion (s.die d0).cur 0x100000).any (·.mode != 1) = true ∧
       (u.any fun u => u.commit.isNone && (u.homeAt d0 0x100000).isSome && (u.homeAt d0 0x30008).isSome) = true) ∧
    (leVal ((migrating (0x100003 + 2 ^ 59)).homeBytes d0 0x30008 8)).testBit 59 = true :=
  ⟨gets (by decide +kernel) (by decide +kernel), by decide +kernel, by decide +kernel⟩

theorem witness_FirmwareRequests_relay : let s := asked 4 (leBytes 8 0x5000 ++ leBytes 8 5 ++ leBytes 1 2 ++ leBytes 1 31 ++ leBytes 2 9)
    (match s.fwTranslate 0 0x5000 false with
     | .ok e => (s.homeAt (State.feDie 0) (e.phys 0x5000)).any fun h => (s.pkg h.pkg).watches.isEmpty &&
        !State.watchHolds 2 (BitVec.ofNat 64 (leVal (s.homeBytes h.dieId (e.phys 0x5000) 8))) 5
     | _ => false) = true := by decide +kernel

/-- A master of package 0 that is frozen, with these accesses held. -/
def jailed (e : Endpoint) (code : Nat) (held : List (Instr × Arg)) : State :=
  (asked code (leBytes 4 (endpointVal e))).updPkg 0 fun k => { k with frozen := [{ who := e, violation := 2, held := held, lines := [] }] }

theorem witness_FirmwareRequests_frozen : let e := portEndpoint 0 0
    let s := jailed e 6 []
    (s.frozenAt e).map (fun x => (x.1, x.2.held)) = some (0, []) ∧ s.frozenAt home0 = none ∧ e.unit = 3 ∧ (s.port 0 e.pos).queue = [] ∧
      (s.port (farEnd 0 e.pos) (portTo (farEnd 0 e.pos) 0)).queue = [] ∧ 0 ≠ farEnd 0 e.pos ∧ endpointOf (endpointVal e) = e ∧ s.isMember 0 = true := by
  decide +kernel

theorem witness_FirmwareRequests_release : let e := coreEndpoint placeCore
    let s := jailed e 5 [(.readRequest, {})]
    (s.frozenAt e).map (fun x => (x.1, x.2.held)) = some (0, [(.readRequest, {})]) ∧ e.unit = 0 ∧ e.die < 4 ∧ endpointOf (endpointVal e) = e := by
  decide +kernel

theorem witness_FirmwareRequests_core : let s := (asked 6 (leBytes 4 (endpointVal (coreEndpoint placeCore)))).updCore placeCore (fun k => { k with frozen := true })
    s.isMember (coreEndpoint placeCore).pkg = true ∧ (coreEndpoint placeCore).unit = 0 ∧ (coreEndpoint placeCore).die < 4 ∧
      (s.core placeCore).frozen = true ∧ s.frozenAt (coreEndpoint placeCore) = none := by decide +kernel

theorem witness_FirmwareRequests_update : let s := asked 8 (leBytes 8 0xD000)
    s.moving = false ∧ s.frozen = false ∧ (s.pkg 0).updating = none ∧ (s.pkg 0).standbyOk = true ∧
      (match s.objectAt 0 0xD000 with
       | .ok im _ => decide (im.length ≠ 0)
       | _ => false) = true := by decide +kernel

/-- Whatever the constants of the implementation give, the image is taken up or refused. -/
theorem witness_FirmwareRequests_updateVerdict (k : Package) (im : List Byte) :
    (k.standbyOk = false ∨ objectOk 1 k.record.minFw im = false ∨ Config.importOk im k.mirror.format = false) ∨
      k.standbyOk = true ∧ objectOk 1 k.record.minFw im = true ∧ Config.importOk im k.mirror.format = true := by
  cases k.standbyOk <;> cases objectOk 1 k.record.minFw im <;> cases Config.importOk im k.mirror.format <;> simp

theorem witness_FirmwareRequests_takeover : let v : Update := { version := 3, digest := [], format := 0, idx := 0, addr := 0xA080, request := [] }
    let s := { (asked 8 []).updPkg 0 (fun k => { k with updating := some v }) with commit := none }
    (s.pkg 0).updating = some v ∧ s.ringEnding 0 = false ∧ s.queue.cur = none ∧ s.queue.waiting = none := by decide +kernel

theorem witness_FirmwareRequests_thaw : let s := { asked 9 (leBytes 8 0x40000000) with frozen := true, blocks := [] }
    s.frozen = true ∧ s.registryMatches = true ∧ s.dom.registry = 0x40000000 := by decide +kernel

/-- A frozen core one of whose warps waits for its TAKE. -/
theorem witness_FirmwareRequests_taking : let s := onWarp (asked 6 (leBytes 4 (endpointVal (coreEndpoint placeCore)))) fun w => { w with a := { w.a with blocked := some 20 } }
    (coreEndpoint placeCore).unit = 0 ∧ (coreEndpoint placeCore).die < 4 ∧ (s.warps.any fun x => x.1.core == placeCore && x.2.taking) = true := by
  decide +kernel

/-- A request without a signal, and one whose writes are all performed. -/
theorem witness_FirmwareRequests_signal : (asked 5 [1]).noPushes = true ∧ (16 : Nat) % 8 = 0 ∧
    okAccess ((asked 5 [1]).fwSet 0 (0xA080 + 2) (leBytes 2 1)) (fun bs u => bs.isEmpty && u.noPushes && okAccess (u.fwSignal 0 0xA0C0) fun bs _ => bs.isEmpty) = true := by
  decide +kernel

theorem witness_FirmwareRequests_values : (1600 : Nat) ≤ 2800 ∧ 2800 % 50 = 0 ∧ 2850 > 2800 ∧ (1023 : Nat) ≤ 1023 ∧
    (asked 12 []).isMember 1 = true ∧ 1 ≠ (asked 12 []).dom.primary ∧
    (((asked 12 []).updPkg 1 fun k => { k with host := { k.host with imageOk := true } }).pkg 1).host.imageOk = true := by decide +kernel

theorem witness_FirmwareRequests_spdm : (asked 11 []).healthy 0 = true ∧
    let s := asked 11 (leBytes 8 0xE000 ++ leBytes 8 0 ++ leBytes 8 0xF000)
    okAccess ((s.spdmRespond 0 []).2.fwSet 0 0xF000 (s.spdmAnswer 0 [])) (fun bs _ => bs.isEmpty) = true ∧
    ∃ q, s.fwGet 0 0xE000 0 = .ok q s ∧ q.isEmpty = true :=
  ⟨by decide +kernel, by decide +kernel, gets (by decide +kernel) (by decide +kernel)⟩

/-- GET_VERSION, GET_DIGESTS, a part of the chain, the number of measurements, one of them, and a message that R113 leaves out. -/
theorem witness_FirmwareRequests_messages : ∀ m ∈ [[0x10, 0x84, 0, 0], [0x13, 0x81, 0, 0], [0x13, 0x82, 0, 0, 0, 0, 4, 0], [0x13, 0xE0, 0, 0], [0x13, 0xE0, 0, 5],
      [0x13, 0xE4, 0, 0], [0x12, 0x81, 0, 0]], let b : List Byte := m
    ((field b 0 1 = 0x10 ∧ field b 1 1 = 0x84) ∨ field b 0 1 = 0x13 ∨ (field b 1 1 ≠ 0x84 ∧ field b 0 1 ≠ 0x13)) ∧ field b 1 1 < 256 := by decide +kernel

/-- The chain in flash verifies, or is not used. -/
theorem witness_FirmwareRequests_chain (s : State) (p : Nat) : (∃ c, s.certChain p = some c) ∨ s.certChain p = none := by
  cases s.certChain p <;> simp

/-- Each object verifies or fails a check, whatever the constants of the implementation give: every case of a boot. -/
theorem witness_BootAndFailures (k n : Nat) (b : List Byte) : checkObject k n b ≠ 0 ∨ checkObject k n b = 0 := by
  omega

/-- A boot of a package from flash, and one with a kernel's image in its memory. -/
theorem witness_BootAndFailures_kernel : pairVal (placed.pkg 0).kimageL (placed.pkg 0).kimageH = 0 ∧
    let s := (placed.bootPuts 0 0x2000 (leBytes 2 3)).updPkg 0 fun k => { k with kimageL := 0x2000, kimageH := 0 }
    s.isMember 0 = false ∧ (s.kernelImage 0).isSome = true := by decide +kernel

/-- A package that has left the domain held four blocks of a grid, and reported one. -/
theorem witness_BootAndFailures_account : let s := { ((domain.setLaunch 5 launch5).updBroker (.tray 0) fun b => { b with
      shares := [(5, { Share.empty with given := [(7, 4)], gone := [(7, 1)] })] }) with arg := { p := 7, flag := true } }
    s.arg.flag = true ∧ s.stillHeard 7 = false ∧ s.isMember 7 = false ∧ (s.broker (.tray (trayOf 7))).shares.length = 1 ∧
      (s.launch? 5).any (fun l => !l.isChild) = true ∧ tget [(7, 4)] 7 0 - tget [(7, 1)] 7 0 = 3 := by decide +kernel

/-- The third missed heartbeat in a row, with a standby or without one. -/
theorem witness_BootAndFailures_heartbeat : ∀ ok ∈ [true, false], let s := withArg ((asked 1 []).updPkg 0 fun k => { k with missed := 2, standbyOk := ok }) { p := 0 }
    s.healthy s.arg.p = true ∧ s.arg.flag = false ∧ 2 ≤ (s.pkg 0).missed ∧ (s.pkg 0).standbyOk = ok ∧ ((asked 1 []).pkg 0).missed < 2 := by decide +kernel

/-- The watchdog of the primary host, of 10 ms, runs out. -/
theorem witness_BootAndFailures_watchdog : let s := { (domain.updPkg 0 fun k => { k with host := { k.host with running := true, since := 0 } }) with
      now := 10000000, arg := { p := 0, n := 10000000 } }
    s.hosting s.arg.p = true ∧ 1000000 ≤ s.arg.n ∧ s.arg.n ≤ 10000000000 ∧ (s.pkg s.arg.p).host.since + s.arg.n ≤ s.now ∧ s.frozen = false := by decide +kernel

/-- A package that follows the lead's time. -/
theorem witness_BootAndFailures_follows : let s := { domain with dom := { domain.dom with ncol := 3, release := [0, 1, 2] } }
    s.follows 2 = true ∧ ((s.updPkg 0 fun k => { k with gmLost := true }).pkg s.lead).gmLost = true ∧ s.follows 0 = false := by decide +kernel

theorem witness_BootAndFailures_states : (511 : Nat) < 512 ∧ (domain.die d0).lost = false ∧ domain.isMember 0 = true ∧ domain.isMember 2 = false ∧
    domain.lead = 0 ∧ domain.dom.primary = 0 ∧ (domain.pkg 0).gmLost = false ∧ (asked 1 []).healthy 0 = true ∧ domain.healthy 0 = false ∧
    (asked 1 []).hosting 1 = false ∧ (domain.homeAt d0 0x1000).isSome = true ∧
    ((domain.updPkg 0 fun k => { k with vin := true }).pkg 0).vin = true ∧
    ((domain.updPkg 0 fun k => { k with host := { k.host with running := true } }).hosting 0) = true := by decide +kernel

/-- The contexts are frozen, and no TAKE is outstanding, or one is. -/
theorem witness_BootAndFailures_frozen : let s := { domain with frozen := true, arg := { p := 0 } }
    s.isMember 0 = true ∧ s.dom.primary = 0 ∧ (s.warps.all fun x => !x.2.taking) = true ∧
      ((onWarp s fun w => { w with a := { w.a with blocked := some 20 } }).warps.any fun x => x.2.taking) = true := by decide +kernel

theorem witness_BootAndFailures_reboot (p : Nat) : domain.kernelOk p = true ∨ domain.kernelOk p = false := by
  cases domain.kernelOk p <;> simp

/-- A read of 64 registers, and a write of one. -/
def readMessage : List Byte := leBytes 2 1 ++ [1, 0] ++ zeros 4 ++ leBytes 4 0 ++ leBytes 4 64
def writeMessage (n : Nat) : List Byte := leBytes 2 1 ++ [2, 0] ++ zeros 4 ++ leBytes 4 n ++ leBytes 4 1 ++ leBytes 4 2000

theorem witness_Management : messageOk readMessage = true ∧ field readMessage 2 1 = 1 ∧ messageOk (writeMessage 8) = true ∧
    field (writeMessage 8) 2 1 = 2 ∧ field (writeMessage 8) 12 4 = 1 ∧ (domain.regWrite 0 8 2000).isSome = true ∧
    domain.regWrite 0 7 2000 = none ∧ messageOk [] = false := by decide +kernel

theorem witness_Management_events : let e : EventRec := { (default : EventRec) with seq := 3 }
    let s := domain.updPkg 0 (fun k => { k with events := [e], evSel := 3 })
    (s.pkg 0).events.find? (fun e => e.seq == (s.pkg 0).evSel.toNat) = some e ∧ (domain.pkg 0).events = [] := by decide +kernel

theorem witness_Management_secondary : let s := { domain with dom := { domain.dom with secondary := some 1 } }
    s.isMember 1 = true ∧ s.dom.secondary = some 1 ∧ s.dom.secondary ≠ some 0 := by decide +kernel

theorem witness_Management_boot : let s := domain.updPkg 0 (fun k => { k with bootState := 1, host := { k.host with running := false } })
    (s.pkg 0).host.running = false ∧ (s.pkg 0).bootState = 1 ∧ (domain.pkg 0).bootState ≠ 1 := by decide +kernel

/-! Whole machine. -/

theorem witness_DecodeEncode : wellFormed (.vmovi { d := 127, a := 0, imm := 0x7FF }) = true ∧
    (encode (.vmovi { d := 127, a := 0, imm := 0x7FF })).isSome = true ∧ (0x4000 : BitVec 15).toNat < 2 ^ 15 := by decide +kernel

theorem witness_EncodeDecode : decode .ctrl 0xB8040006 (some 0x00000008) = .ok (.brd { c := 1, off := 6 } 8) ∧
    (decodeHeader 0x02A8001A).isSome = true := by decide +kernel

theorem witness_HomesDistinct : ([4, 9, 200] : List Nat).Nodup ∧ ([4, 9, 200] : List Nat) ≠ [] := by decide

theorem witness_MemoryCanonical : State.reset.mem.wf = true ∧ ∃ t, step (State.reset.withFetchWord 32 0x1A50A7FF) = .next t :=
  ⟨by decide, by
    cases e : step (State.reset.withFetchWord 32 0x1A50A7FF) with
    | next t => exact ⟨t, rfl⟩
    | _ => exact absurd (show (match step (State.reset.withFetchWord 32 0x1A50A7FF) with
        | .next _ => true
        | _ => false) = true by decide +kernel) (by simp [e])⟩

theorem witness_StepRunsDecoded_event : ∃ i arg, ({ State.reset with turn := some (.event .packageBoot {}) } : State).turn = some (.event i arg) ∧
    (i, arg) ∈ State.reset.inflight := ⟨.packageBoot, {}, rfl, by decide⟩

theorem witness_StepRunsDecoded_issue : let s := State.reset.withFetchWord 32 0x1A50A7FF
    let s0 : State := { s with turn := none }
    s.turn = some (.issue placeCore 0) ∧ (∀ r, r < 4 → r ≠ 0 → s0.candidates placeCore r = []) ∧ (match s0.issueOrder placeCore 0 with
      | p :: _ => (({ s0 with site := some p } : State).siteOf).any fun x => x.w.engine.isNone && x.sl.clause.isNone &&
          (match s0.fetchWords x.core x.sl.pc.toNat 1 with
           | .ok (hw, s1) => (decodeHeader (hw.getD 0 0)).any fun h => match s1.fetchWords x.core (x.sl.pc.toNat + 4) h.n with
              | .ok (ws, _) => !longAtEnd ws && decide (decode h.cls (ws.getD 0 0) none = .ok (.saddi { d := 20, a := 20, imm := 0x7FF }))
              | _ => false
           | _ => false)
      | [] => false) = true := by decide +kernel

theorem witness_StepRunsDecoded_table : (decodeTable 32 0x1A50A7FF).isSome = true := by decide +kernel

/-! The spec's worked numbers. -/

/-- The examples of R335: 2.5 to 2, and up to 3; -5 and 300 into n8; 80000000h into i32; 3.0 into L8; 1000.0 into E4M3. -/
theorem test_conversions : cvt 0x02 .rne 0x40200000 0 = 2 ∧ cvt 0x02 .ru 0x40200000 0 = 3 ∧ cvt 0xA0 .rne 0xFFFFFFFB 0 = 0 ∧
    cvt 0xA0 .rne 300 0 = 255 ∧ cvt 0x01 .rne 0x80000000 0 = 0x7FFFFFFF ∧ cvt 0x62 .rne 0x40400000 0 = 0x0D ∧
    cvt 0x72 .rne 0x40400000 0 = 0x196 ∧ cvt 0x42 .rne 0x447A0000 0 = 0x7E := by decide +kernel

/-- The examples of R336: 5.0 and -13.0 into E2M1 codes of scale 2.0. -/
theorem test_codes : cvt 0x82 .rne 0x40A00000 0x00014000 = 4 ∧ cvt 0x82 .ru 0x40A00000 0x00014000 = 5 ∧
    [Rm.rne, .rz, .rd, .ru].all (fun m => cvt 0x82 m 0xC1500000 0x00014000 == 15) = true := by decide +kernel

/-- The examples of R225: 18h and 0300h are 8; FF96h is the code of -0.75. -/
theorem test_logs : cvt 0x26 .rne 0x18 0 = 0x41000000 ∧ cvt 0x27 .rne 0x300 0 = 0x41000000 ∧ cvt 0x72 .rne 0xBF400000 0 = 0xFF96 := by decide +kernel

/-- The examples of R327. -/
theorem test_fields : extractN 0x12F4A678 0x0810 = 0xF4 ∧ extractN 0x12F4A678 0x2018 = 0x12 ∧ extractS 0x12F4A678 0x0C04 = 0xFFFFFA67 ∧
    extractN 0x12F4A678 0x0C04 = 0xA67 ∧ extractS 0x12F45678 0x0C04 = 0x567 := by decide +kernel

/-- The example of R60: offset 1F400h of a hashed region over packages 4, 9 and 200, and the next line. -/
theorem test_home : let r : Region := { mode := 1, member := 0, pkg := 0, die := 0, base := 0, size := 2 ^ 40, homeBase := 0x1000 }
    homeIn [4, 9, 200] r 0x1F400 = { pkg := 200, die := 1, near := false, chan := 55, loc := 0x1080 } ∧
    homeIn [4, 9, 200] r 0x1F480 = { pkg := 4, die := 2, near := false, chan := 55, loc := 0x1080 } := by decide +kernel

/-- The example of R25: the ports of package 77. -/
theorem test_ports : [70, 95, 13, 493].map (portTo 77) = [6, 30, 31, 45] ∧ [6, 30, 31, 45].map (farEnd 77) = [70, 95, 13, 493] := by decide

/-- The example of R136: 1,000 gangs over dies that weigh 64, 62, 60 and 56. -/
theorem test_split : let l : Launch := { (default : Launch) with weights := [(0, [64, 62, 60, 56])] }
    (splitAmong l [.die 0 0, .die 0 1, .die 0 2, .die 0 3] (0, 1000)).map (·.2) = [(0, 264), (264, 256), (520, 248), (768, 232)] := by decide +kernel

/-- The group that the formats chapter works through (R233, R234). -/
theorem test_group : groupStep 0x42C80000 (groupIn 0 true ([3, 11, 7] ++ List.replicate 29 0) 0x00003F00 0)
    (groupIn 0 true ([3, 7, 9] ++ List.replicate 29 0) 0x00014000 0) = (0x428E0865, 0) := by decide +kernel

/-! One step each. -/

/-- The result of an instruction that issues at the placed warp, once its clause has ended. -/
def outcome {α : Type} (i : Instr) (s : State) (f : Warp → α) : Option α :=
  ((after i s).bind fun t => t.warp? placeWarp).map fun w => f (commitHeld w .a)

/-- A step fetches, decodes and runs the placed word: SADDI s20, s20, -1. -/
theorem test_step : (match step (State.reset.withFetchWord 32 0x1A50A7FF) with
    | .next t => (t.warp? placeWarp).map fun w => (commitHeld w .a).sreg 20
    | _ => none) = some 0xFFFFFFFF := by decide +kernel

/-- The vector registers 1 and 2 hold these words in every lane. -/
def withV (a b : Word) : State := onWarp placed fun w => { w with v := (w.v.set 1 ⟨lanesOf fun _ => a, true, none⟩).set 2 ⟨lanesOf fun _ => b, true, none⟩ }

theorem test_fadd : outcome (.fadd (r3 3 1 2)) (withV 0x3F800000 0xBF800000) (fun w => lane (w.vreg 3).lanes 31) = some 0 := by decide +kernel

/-- With a multiply that is not rounded before the addition, the result is the least bit of the square. -/
theorem test_ffma : outcome (.ffma (r3 3 1 1) { x0 with c := 2 }) (withV 0x3F800001 0xBF800002) (fun w => lane (w.vreg 3).lanes 0) =
    some 0x28800000 := by decide +kernel

theorem test_guard : outcome (.iadd (rg 3 1 2 1 false false)) (onWarp (withV 1 2) evenLanes) (fun w => (lane (w.vreg 3).lanes 0, lane (w.vreg 3).lanes 1)) =
    some (3, 0) := by decide +kernel

theorem test_bra : outcome (.bra ⟨0, 0x1FFFFF⟩) placed (fun w => w.a.pc) = some 0x10000 := by decide +kernel

/-- An addition of 1 to a word that holds 10 at its home gives back 10 and leaves 11 (the example below R355). -/
theorem test_atomicRequest : let s := putAt (requested 2 0x1000 2 0) 0x1000 [10]
    (after .atomicRequest { s with arg := { s.arg with q := { s.arg.q with data0 := 1 } } }).map (fun t =>
      (leVal (t.homeBytes d0 0x1000 4), (t.inflight.getLast?).map fun e => e.2.q.data0)) = some (11, some 10) := by decide +kernel

theorem test_mzero : ((after .matrixCommandComplete (withArg ((queuedMtx (.mzero (r3 2 0 0)) [] [] [] []).updWarp placeWarp fun w =>
      { w with z := w.z.set 2 [5] }) { c := placeCore })).bind fun t => (t.warp? placeWarp).map fun w => elem (w.tile 2) 0 0) = some 0 := by
  decide +kernel

/-- Byte 6 of the row is byte 2 of the filled word, and it alone is written. -/
theorem test_cfill : (after .porterCommandComplete (filling [(0, 6, 1)])).map (fun t => (t.block? placeBlock).map fun b => t.scratchBytes b 0x3FF5 3) =
    some (some [0, 2, 0]) := by decide +kernel

theorem test_bara : (after (.bara (r3 8 0 1)) barred).map (fun t => (t.block? placeBlock).map fun b =>
    ((barOf (t.scratchBytes b 128 16)).arrivals, (barOf (t.scratchBytes b 128 16)).pending)) = some (some (1, 128)) := by decide +kernel

theorem test_trap : ((after (.trap ⟨0, 0, 5⟩) placed).bind fun t => t.warp? placeWarp).map (fun w => (w.trap.map fun t => (t.cause, t.aux))) =
    some (some (0x20, 5)) := by decide +kernel

theorem test_privilege : ((after (.csrr ⟨5, 0, 2⟩) (onBlock placed fun b => { b with priv := false })).bind fun t => t.warp? placeWarp).map
    (fun w => w.trap.map (·.cause)) = some (some 3) := by decide +kernel

theorem test_casRequest : let s := requested 2 0x1000 2 0
    (after .casRequest { s with arg := { s.arg with q := { s.arg.q with data0 := 0, data1 := 9 } } }).map
      (fun t => leVal (t.homeBytes d0 0x1000 4)) = some 9 := by decide +kernel

/-! The assembly language (R264-R275). -/

/-- The words of an assembled source whose code lies at 10000h. -/
def assembled (src : List String) : Except Bireth.AsmError (List Byte) := (Bireth.assemble 0x10000 0x20000 src).map (·.code)

/-- The first kernel of the chapter on encoding, with its words. -/
def add16 : List String :=
  ["        .kernel k_add16, 1        ; (1)", "        .regs 8", "        VMOVI v4, 0               ; (2)",
   "        VMOVI v5, 3F800000h       ; (2)", "        SMOVI s20, 16             ; (3)", "L_loop:",
   "        FADD v4, v4, v5           ; (4)", "        SADDI s20, s20, -1        ; (5)",
   "        BNZ s20, L_loop           ; (5)", "        EXIT                      ; (6)", "        .end"]

def add16Words : List Word :=
  [0x00000013, 0x02100000, 0x82140000, 0x3F800000, 0x00000001, 0x04500010, 0x00000011, 0x32102050, 0x00040002,
   0x1A50A7FF, 0x3053FFFC, 0x00000001, 0x44000000]

theorem test_assemble : assembled add16 = .ok (add16Words.flatMap wordBytes) := by decide +kernel

/-- Its descriptor (R86): the entry, one warp, one unit of eight registers. -/
theorem test_descriptor : (Bireth.assemble 0x10000 0x20000 add16).map (fun im => (im.data.length, field im.data 0 8, field im.data 8 4)) =
    .ok (128, 0x10000, 0x0101) := by decide +kernel

theorem test_disassemble : (Bireth.disassemble 0x10000 add16Words).drop 14 =
    [".clause", "SADDI s20, s20, -1", "BNZ.HOLD s20, L_10018h", ".endclause", "L_1002Ch:", ".clause", "EXIT", ".endclause"] := by
  decide +kernel

/-- The explicit clause of the kernel with a fixed order: the holds are those written. -/
theorem test_clause : assembled [".clause", "FADD v0, v0.xor(16), v0", "FADD.HOLD v0, v0.xor(8), v0", "FADD.HOLD v0, v0.xor(4), v0",
      "FADD.HOLD v0, v0.xor(2), v0", "FADD.HOLD v0, v0.xor(1), v0", ".endclause"] =
    .ok ([0x02A8001A, 0xB2000000, 0x280, 0xB2000000, 0x240, 0xB2000000, 0x220, 0xB2000000, 0x210, 0xB2000000, 0x208].flatMap wordBytes) := by
  decide +kernel

/-- The listing of the chapter on the notation, and long forms with scopes, orders and displacements. -/
theorem test_longForms :
    assembled ["?!p2 FFMA.RU v8, v9:t, v10, v8"] = .ok ([0x00000012, 0xB82048A2, 0x0010A003].flatMap wordBytes) ∧
    assembled ["RST.n32.rack.rel v7, v6, [s4 + v3 + 0]"] = .ok ([0x00000022, 0x921C1880, 0x00900600].flatMap wordBytes) ∧
    assembled ["LD.n64.acq.rack v10, [s4 + v2:v3 + 256]"] = .ok ([0x00000022, 0x80281090, 0x01880100].flatMap wordBytes) ∧
    assembled ["TCOPY.bar b0, s16, s4, s12"] = .ok ([0x00000042, 0x804020C0, 0x01000000].flatMap wordBytes) := by decide +kernel

theorem test_expression : (Bireth.assemble 0 0 [".equ N, 0Ah", ".data", ".align 4", ".half -1, (N + 2) * 3 - 101b", ".float -2.5, 1e-1"]).map
    (fun im => im.data.map (·.toNat)) = .ok [0xFF, 0xFF, 31, 0, 0, 0, 0x20, 0xC0, 0xCD, 0xCC, 0xCC, 0x3D] := by decide +kernel

/-- Sources that R270 and R272 reject. -/
theorem test_rejects :
    assembled ["FADX v0, v1, v2"] = .error .unknownMnemonic ∧ assembled ["IADD.RZ v0, v1, v2"] = .error .badModifier ∧
    assembled ["IADD v0, v1"] = .error .badOperand ∧ assembled ["SREAD s3, ARGS"] = .error .badOperand ∧
    assembled ["BRA L_none"] = .error .badName ∧ assembled ["L:", "NOP", "L:", "NOP"] = .error .duplicateName ∧
    assembled ["s4:", "NOP"] = .error .badName ∧ assembled [".clause", ".endclause"] = .error .badClause ∧
    assembled [".clause", "NOP", "VMOVI v0, 1", ".endclause"] = .error .badClause ∧
    assembled [".clause", "EXIT", "NOP", ".endclause"] = .error .badClause ∧
    assembled [".kernel k, 1", "EXIT", ".end"] = .error .missingRegs ∧
    assembled [".kernel k, 1", ".regs 8", "VMOVI v8, 0", "EXIT", ".end"] = .error .registerRange ∧
    assembled [".kernel k, 1", ".regs 8", "L:", "BRW.d0 w1, L", "EXIT", ".end"] = .error .registerRange := by decide +kernel

end Sys2Proof.Tests
end

section
/-! PROOFS. The machine after reset (O59). -/

open Sys2Proof Sys2Proof.Machine

namespace Sys2Proof.Machine

theorem State.reset_isMember (p : Nat) : State.reset.isMember p = false := rfl

/-- A package that no event has touched is at its reset values (R35, R94, R111, R119, R127). -/
theorem State.reset_pkg (p : Nat) : State.reset.pkg p = Package.reset := rfl

theorem State.reset_die (d : DieId) : State.reset.die d = Die.reset := rfl

theorem State.reset_core (c : CoreId) : State.reset.core c = Core.reset := rfl

theorem State.reset_tag (c : CoreId) (n : Nat) : State.reset.tag c n = Tag.fresh := rfl

namespace Warp
variable (b : BlockId) (num units tiles : Nat) (entry : DWord)

theorem start_vreg (r : Nat) : (Warp.start b num units tiles entry).vreg r = zeroReg := List.getElem?_getD_replicate_default_eq ..

theorem start_sreg (r : Nat) : (Warp.start b num units tiles entry).sreg r = 0 := List.getElem?_getD_replicate_default_eq ..

theorem start_preg_pos (k : Nat) (hk : 0 < k) : (Warp.start b num units tiles entry).preg k = 0 := by
  rw [preg, if_neg hk.ne']
  exact List.getElem?_getD_replicate_default_eq ..

theorem start_events (k : Nat) : (Warp.start b num units tiles entry).events.getD k EventSlot.unbound = EventSlot.unbound :=
  List.getElem?_getD_replicate_default_eq ..

theorem start_walker (k : Nat) (hk : k < 8) : (Warp.start b num units tiles entry).walker k = Walker.unbound := by
  exact List.getD_replicate _ hk

theorem start_tile (z e : Nat) (hz : z < tiles) (he : e < 1024) : ((Warp.start b num units tiles entry).z.getD z []).getD e 1 = 0 := by
  rw [show (Warp.start b num units tiles entry).z.getD z [] = zeroTile from List.getD_replicate _ hz]
  exact List.getD_replicate _ he

end Warp

end Sys2Proof.Machine

/-- Settles O59: every unit after reset is the reset value of its kind, and a file of a warp at its start is one value repeated. -/
theorem resetState : Obligations.ResetState := by
  unfold Obligations.ResetState
  refine ⟨⟨rfl, rfl, rfl, rfl, rfl, rfl, rfl, rfl, rfl, rfl, State.reset_isMember, fun p => ?_, fun d => ?_, fun c => ?_⟩,
    fun b num units tiles entry => ?_, fun _ _ _ _ _ _ _ _ _ => rfl⟩
  · rw [State.reset_pkg]
    exact ⟨rfl, rfl, rfl, rfl, rfl, rfl, rfl⟩
  · rw [State.reset_die]
    exact ⟨rfl, rfl, rfl, rfl, rfl⟩
  · rw [State.reset_core]
    exact ⟨rfl, rfl, rfl, rfl, fun n _ => congrArg Tag.held (State.reset_tag c n)⟩
  · refine ⟨fun r => ?_, Warp.start_sreg _ _ _ _ _, rfl, Warp.start_preg_pos _ _ _ _ _, rfl, rfl, rfl, rfl, rfl, rfl, rfl, rfl, rfl, rfl,
      rfl, rfl, rfl, rfl, fun k hk => ?_, Warp.start_tile _ _ _ _ _⟩
    · rw [Warp.start_vreg]
      exact ⟨rfl, rfl, fun l hl => lane_lanesOf (fun _ => 0) l hl⟩
    · rw [Warp.start_events, Warp.start_walker _ _ _ _ _ k hk]
      exact ⟨rfl, rfl⟩
end

section
/-! PROOFS. The ground of a machine: its memory, dies, domain, lost packages and flash. What moves traffic leaves it as it is. -/

open Sys2Proof Sys2Proof.Machine

namespace Sys2Proof.Machine

/-- What of a package survives its reset and names what it boots (R110, R111): the objects written to its flash, and KIMAGE. -/
def Package.flashed (k : Package) : Tab Nat (List Byte) × Word × Word := (k.written, k.kimageL, k.kimageH)

/-- The ground of a state: memory, dies, the domain and its lost packages, and what the packages' flash holds. The rest is
warps, queues, events and messages. -/
structure Ground where
  mem : Memory
  dies : DieId → Die
  dom : Domain
  lost : List Nat
  flash : Nat → Tab Nat (List Byte) × Word × Word

def State.ground (s : State) : Ground :=
  { mem := s.mem, dies := s.die, dom := s.dom, lost := s.lost, flash := fun p => (s.pkg p).flashed }

/-- Folding an operation keeps what the operation keeps. -/
theorem foldl_keeps {α β : Type} (view : State → β) (f : State → α → State) (h : ∀ s x, view (f s x) = view s) (l : List α) (s : State) :
    view (l.foldl f s) = view s := by
  induction l generalizing s with
  | nil => rfl
  | cons x l ih => rw [List.foldl_cons, ih, h]

namespace State

/-! Reading the ground. -/

theorem mem_of_ground {s t : State} (h : t.ground = s.ground) : t.mem = s.mem := congrArg Ground.mem h
theorem die_of_ground {s t : State} (h : t.ground = s.ground) (d : DieId) : t.die d = s.die d := congrFun (congrArg Ground.dies h) d
theorem dom_of_ground {s t : State} (h : t.ground = s.ground) : t.dom = s.dom := congrArg Ground.dom h
theorem lost_of_ground {s t : State} (h : t.ground = s.ground) : t.lost = s.lost := congrArg Ground.lost h

/-! Units read behind an update. -/

@[simp] theorem setPkg_pkg_self (s : State) (p : Nat) (v : Package) : (s.setPkg p v).pkg p = v := tget_tset_self ..

theorem setPkg_pkg_ne (s : State) (p q : Nat) (v : Package) (h : q ≠ p) : (s.setPkg p v).pkg q = s.pkg q := tget_tset_ne _ _ _ _ _ h

@[simp] theorem updPkg_pkg_self (s : State) (p : Nat) (f : Package → Package) : (s.updPkg p f).pkg p = f (s.pkg p) := tget_tset_self ..

theorem updPkg_pkg_ne (s : State) (p q : Nat) (f : Package → Package) (h : q ≠ p) : (s.updPkg p f).pkg q = s.pkg q :=
  tget_tset_ne _ _ _ _ _ h

@[simp] theorem setDie_die_self (s : State) (d : DieId) (v : Die) : (s.setDie d v).die d = v := tget_tset_self ..

theorem setDie_die_ne (s : State) (d e : DieId) (v : Die) (h : e ≠ d) : (s.setDie d v).die e = s.die e := tget_tset_ne _ _ _ _ _ h

@[simp] theorem updDie_die_self (s : State) (d : DieId) (f : Die → Die) : (s.updDie d f).die d = f (s.die d) := tget_tset_self ..

theorem updDie_die_ne (s : State) (d e : DieId) (f : Die → Die) (h : e ≠ d) : (s.updDie d f).die e = s.die e :=
  tget_tset_ne _ _ _ _ _ h

/-! Updates of one unit. -/

@[simp] theorem setCore_ground (s : State) (c : CoreId) (v : Core) : (s.setCore c v).ground = s.ground := (rfl)
@[simp] theorem updCore_ground (s : State) (c : CoreId) (f : Core → Core) : (s.updCore c f).ground = s.ground := (rfl)
@[simp] theorem setWarp_ground (s : State) (w : WarpId) (v : Warp) : (s.setWarp w v).ground = s.ground := (rfl)
@[simp] theorem setBlock_ground (s : State) (b : BlockId) (v : Block) : (s.setBlock b v).ground = s.ground := (rfl)
@[simp] theorem setLaunch_ground (s : State) (h : Nat) (v : Launch) : (s.setLaunch h v).ground = s.ground := (rfl)
@[simp] theorem updBroker_ground (s : State) (k : BrokerId) (f : Broker → Broker) : (s.updBroker k f).ground = s.ground := (rfl)
@[simp] theorem updShare_ground (s : State) (k : BrokerId) (h : Nat) (f : Share → Share) : (s.updShare k h f).ground = s.ground := (rfl)
@[simp] theorem setBrokerTag_ground (s : State) (k : BrokerId) (n : Nat) (t : Tag) : (s.setBrokerTag k n t).ground = s.ground := (rfl)
@[simp] theorem setTag_ground (s : State) (c : CoreId) (n : Nat) (t : Tag) : (s.setTag c n t).ground = s.ground := (rfl)
@[simp] theorem allocTag_ground (s : State) (c : CoreId) (n : Nat) : (s.allocTag c n).ground = s.ground := (rfl)
@[simp] theorem setLine_ground (s : State) (c : CoreId) (l : CacheLine) : (s.setLine c l).ground = s.ground := (rfl)
@[simp] theorem dropLine_ground (s : State) (c : CoreId) (pa : Nat) : (s.dropLine c pa).ground = s.ground := (rfl)
@[simp] theorem staleFills_ground (s : State) (c : CoreId) (f : Nat → Bool) : (s.staleFills c f).ground = s.ground := (rfl)
@[simp] theorem post_ground (s : State) (i : Instr) (a : Arg) : (s.post i a).ground = s.ground := (rfl)
@[simp] theorem after_ground (s : State) (n : Nat) (i : Instr) (a : Arg) : (s.after n i a).ground = s.ground := (rfl)
@[simp] theorem cancel_ground (s : State) (i : Instr) (a : Arg) : (s.cancel i a).ground = s.ground := (rfl)

@[simp] theorem updWarp_ground (s : State) (w : WarpId) (f : Warp → Warp) : (s.updWarp w f).ground = s.ground := by
  unfold updWarp; split <;> rfl

@[simp] theorem updBlock_ground (s : State) (b : BlockId) (f : Block → Block) : (s.updBlock b f).ground = s.ground := by
  unfold updBlock; split <;> rfl

@[simp] theorem updLaunch_ground (s : State) (h : Nat) (f : Launch → Launch) : (s.updLaunch h f).ground = s.ground := by
  unfold updLaunch; split <;> rfl

@[simp] theorem postOnce_ground (s : State) (i : Instr) (a : Arg) : (s.postOnce i a).ground = s.ground := by
  unfold postOnce; split <;> rfl

@[simp] theorem afterOnce_ground (s : State) (n : Nat) (i : Instr) (a : Arg) : (s.afterOnce n i a).ground = s.ground := by
  unfold afterOnce; split <;> rfl

/-- An update of a package that leaves its objects and KIMAGE leaves the ground. -/
theorem setPkg_ground (s : State) (p : Nat) (v : Package) (hw : v.written = (s.pkg p).written) (hl : v.kimageL = (s.pkg p).kimageL)
    (hh : v.kimageH = (s.pkg p).kimageH) : (s.setPkg p v).ground = s.ground := by
  have hp : (fun q => ((s.setPkg p v).pkg q).flashed) = fun q => (s.pkg q).flashed := funext fun q => by
    by_cases hq : q = p
    · rw [hq, setPkg_pkg_self, Package.flashed, Package.flashed, hw, hl, hh]
    · rw [setPkg_pkg_ne s p q v hq]
  exact congrArg (fun f => { s.ground with flash := f }) hp

@[simp] theorem updPkg_ground (s : State) (p : Nat) (f : Package → Package) (hw : ∀ k, (f k).written = k.written)
    (hl : ∀ k, (f k).kimageL = k.kimageL) (hh : ∀ k, (f k).kimageH = k.kimageH) : (s.updPkg p f).ground = s.ground :=
  setPkg_ground s p _ (hw _) (hl _) (hh _)

@[simp] theorem foldl_ground {α : Type} (f : State → α → State) (h : ∀ s x, (f s x).ground = s.ground) (l : List α) (s : State) :
    (l.foldl f s).ground = s.ground := foldl_keeps ground f h l s

/-! Records, ports and packets. -/

@[simp] theorem log_ground (s : State) (p : Nat) (e : Endpoint) (code tag : Nat) (v : DWord) : (s.log p e code tag v).ground = s.ground := by
  simp [log]

@[simp] theorem toFlash_ground (s : State) (p : Nat) : (s.toFlash p).ground = s.ground := by simp [toFlash]

@[simp] theorem setPort_ground (s : State) (p n : Nat) (v : Port) : (s.setPort p n v).ground = s.ground := by simp [setPort]

@[simp] theorem enqueueBy_ground (s : State) (p m : Nat) (f : List (List Byte) → List (List Byte)) : (s.enqueueBy p m f).ground = s.ground := by
  simp [enqueueBy]

@[simp] theorem sendFlit_ground (s : State) (p : Nat) (f : List Byte) : (s.sendFlit p f).ground = s.ground := by
  unfold sendFlit
  dsimp only
  split <;> simp

@[simp] theorem arriveSlot_ground (s : State) (q : Packet) : (s.arriveSlot q).ground = s.ground := by
  unfold arriveSlot
  split <;> simp

@[simp] theorem arrive_ground (s : State) (q : Packet) : (s.arrive q).ground = s.ground := by
  unfold arrive
  dsimp only
  repeat' split
  all_goals simp

@[simp] theorem arriveLine_ground (s : State) (l : LinePkt) : (s.arriveLine l).ground = s.ground := by
  unfold arriveLine
  split <;> simp

@[simp] theorem send_ground (s : State) (q : Packet) : (s.send q).ground = s.ground := by
  unfold send
  split <;> simp

@[simp] theorem sendLine_ground (s : State) (l : LinePkt) : (s.sendLine l).ground = s.ground := by
  unfold sendLine
  split <;> simp

/-! Tags and the first-level cache. -/

theorem takeTag_ground {s t : State} {c : CoreId} {far : Bool} {use : TagUse} {n : Nat} (h : s.takeTag c far use = some (n, t)) :
    t.ground = s.ground := by
  unfold takeTag at h
  split at h
  · split at h
    · obtain ⟨-, rfl⟩ : _ ∧ _ = t := by simpa using h
      simp
    · obtain ⟨-, rfl⟩ : _ ∧ _ = t := by simpa using h
      simp
  · obtain ⟨-, rfl⟩ : _ ∧ _ = t := by simpa using h
    simp

@[simp] theorem holdTag_ground (s : State) (c : CoreId) (n : Nat) (q : Packet) (l : Option LinePkt) (use : TagUse) :
    (s.holdTag c n q l use).ground = s.ground := by
  unfold holdTag
  split <;> simp

theorem requestLine_ground {s t : State} {c : CoreId} {far : Bool} {l : LinePkt} {use : TagUse} (h : s.requestLine c far l use = some t) :
    t.ground = s.ground := by
  unfold requestLine at h
  split at h
  · exact absurd h (by simp)
  · next e =>
    dsimp only at h
    split at h <;> obtain rfl := Option.some.inj h <;> simp [takeTag_ground e]

@[simp] theorem writeBack_ground (s : State) (c : CoreId) (l : CacheLine) : (s.writeBack c l).ground = s.ground := by
  unfold writeBack
  split
  · simp
  · dsimp only
    split
    · next e => simp [requestLine_ground e]
    · simp

@[simp] theorem recallLine_ground (s : State) (c : CoreId) (l : CacheLine) : (s.recallLine c l).ground = s.ground := by
  unfold recallLine
  split <;> simp

/-! Events of warps, and watches. -/

@[simp] theorem fireSlots_ground (s : State) (w : WarpId) (f : EventSlot → Bool) : (s.fireSlots w f).ground = s.ground := updWarp_ground ..

@[simp] theorem fireWatchesOf_ground (s : State) (p : Nat) (d : DieId) (pa n : Nat) : (s.fireWatchesOf p d pa n).ground = s.ground := by
  unfold fireWatchesOf
  dsimp only
  split
  · rfl
  · simp [setPkg_ground]

@[simp] theorem fireWatches_ground (s : State) (d : DieId) (pa n : Nat) : (s.fireWatches d pa n).ground = s.ground := fireWatchesOf_ground ..

@[simp] theorem answered_ground (s : State) (pa n : Nat) : (s.answered pa n).ground = s.ground := by
  unfold answered
  dsimp only
  split <;> simp

@[simp] theorem notifyKernel_ground (s : State) (pa : Nat) : (s.notifyKernel pa).ground = s.ground := by simp [notifyKernel]

@[simp] theorem handWatches_ground (s : State) (d : DieId) (old : Tables) : (s.handWatches d old).ground = s.ground := by
  unfold handWatches
  refine (foldl_ground _ (fun s w => ?_) _ _).trans (by simp)
  split <;> simp

end State

end Sys2Proof.Machine
end

section
/-! PROOFS. Ports and module links (R13, R18, R27-R39): what travels on the lanes, and what each event of a port leaves. -/

open Sys2Proof Sys2Proof.Machine

namespace Sys2Proof.Machine

/-- An event that answers a state yields what holds of it. -/
theorem Yields.of_exec {i : Instr} {s t : State} {good : State → Prop} (h : exec i s = .next t) (hg : good t) : Yields i s good :=
  ⟨t, h, hg⟩

/-! Flits on the lanes (R28). -/

theorem laneBytes_length (lanes : Nat) (f : List Byte) : (laneBytes lanes f).length = lanes := by simp [laneBytes]

/-- Byte b of a flit travels on lane b mod L in beat b / L (R28). -/
theorem laneBytes_getD (lanes b : Nat) (f : List Byte) (hl : lanes ≠ 0) (hb : b < f.length) :
    ((laneBytes lanes f).getD (b % lanes) []).getD (b / lanes) 0 = f.getD b 0 := by
  have hlane : b % lanes < lanes := Nat.mod_lt _ (Nat.pos_of_ne_zero hl)
  have hbeat : b / lanes < beats lanes f.length := by
    rw [beats, Nat.lt_iff_add_one_le, Nat.le_div_iff_mul_le (Nat.pos_of_ne_zero hl), Nat.add_mul, Nat.one_mul]
    have := Nat.div_mul_le_self b lanes
    omega
  have hplace : lanes * (b / lanes) + b % lanes = b := Nat.div_add_mod b lanes
  simp [laneBytes, hlane, hbeat, hplace]

/-- A flit comes over whole where a lane works at all. -/
theorem overLanes_of_lane (m : BitVec 16) (f : List Byte) (h : laneCount m ≠ 0) : overLanes m f = f := by
  refine List.ext_getElem (by simp [overLanes, ofLanes]) fun b hb hf => ?_
  have hg := laneBytes_getD (laneCount m) b f h hf
  simpa [overLanes, ofLanes, laneBytes_length, hf] using hg

/-! Headers and bodies of flits (R14). -/

theorem leBytes_length (n v : Nat) : (leBytes n v).length = n := by
  induction n generalizing v with
  | zero => rfl
  | succ n ih => simp [leBytes, ih]

theorem hdrBytes_length (h : FlitHdr) : (hdrBytes h).length = 28 := by simp [hdrBytes, leBytes_length, zeros]

/-- The body of a flit made of a body of full length. -/
theorem mkFlit_body (h : FlitHdr) (b : List Byte) (hb : b.length = 224) : (mkFlit h b).drop 32 = b := by
  have hfull : (b ++ zeros (224 - b.length)).take 224 = b := by simp [hb, zeros]
  rw [mkFlit, hfull, List.drop_append_of_le_length (by simp [hdrBytes_length, leBytes_length]),
    List.drop_eq_nil_of_le (by simp [hdrBytes_length, leBytes_length]), List.nil_append]

theorem reheader_body (f : List Byte) (g : FlitHdr → FlitHdr) (hf : f.length = 256) : (State.reheader f g).drop 32 = f.drop 32 :=
  mkFlit_body _ _ (by simp [flitBody, hf])

/-- An opcode that is an event of a home or of a requester is not BROKER's. -/
theorem opcode_ne_broker {op : Nat} {i : Instr} (h : packetEvent op = some i) : op ≠ 6 := by
  rintro rfl
  simp [packetEvent] at h

/-! The far end of a port (R25). -/

theorem farEnd_ne (p n : Nat) (hn : n < 46) : farEnd p n ≠ p := by
  unfold farEnd rowOf colOf
  split <;> split <;> omega

namespace State

theorem isMember_of_ground {s t : State} (h : t.ground = s.ground) (p : Nat) : t.isMember p = s.isMember p := by
  simp only [isMember, dom_of_ground h, lost_of_ground h]

/-! Ports behind an update. -/

@[simp] theorem setPort_port_self (s : State) (p n : Nat) (v : Port) : (s.setPort p n v).port p n = v := by
  simp [setPort, port]

theorem port_congr {s t : State} {p : Nat} (n : Nat) (hk : (t.pkg p).ports = (s.pkg p).ports) (hg : t.ground = s.ground) :
    t.port p n = s.port p n := by
  simp only [port, hk, isMember_of_ground hg]

theorem setPort_port_other (s : State) (p q n m : Nat) (v : Port) (h : q ≠ p) : (s.setPort p n v).port q m = s.port q m :=
  port_congr m (congrArg Package.ports (updPkg_pkg_ne s p q _ h)) (setPort_ground ..)

@[simp] theorem post_pkg (s : State) (i : Instr) (a : Arg) (p : Nat) : (s.post i a).pkg p = s.pkg p := rfl
@[simp] theorem after_pkg (s : State) (n : Nat) (i : Instr) (a : Arg) (p : Nat) : (s.after n i a).pkg p = s.pkg p := rfl

@[simp] theorem postOnce_pkg (s : State) (i : Instr) (a : Arg) (p : Nat) : (s.postOnce i a).pkg p = s.pkg p := by
  simp only [pkg, postOnce_pkgs]

@[simp] theorem post_port (s : State) (i : Instr) (a : Arg) (p n : Nat) : (s.post i a).port p n = s.port p n := rfl
@[simp] theorem after_port (s : State) (k : Nat) (i : Instr) (a : Arg) (p n : Nat) : (s.after k i a).port p n = s.port p n := rfl

@[simp] theorem postOnce_port (s : State) (i : Instr) (a : Arg) (p n : Nat) : (s.postOnce i a).port p n = s.port p n :=
  port_congr n (by simp) (by simp)

/-! Records behind a log (R119). -/

theorem log_pkg_ne (s : State) (p q : Nat) (e : Endpoint) (code tag : Nat) (v : DWord) (h : q ≠ p) :
    (s.log p e code tag v).pkg q = s.pkg q := updPkg_pkg_ne _ _ _ _ h

/-- The record that a log writes is the last of the recorder. -/
theorem log_last (s : State) (p : Nat) (e : Endpoint) (code tag : Nat) (v : DWord) :
    ((s.log p e code tag v).pkg p).events.getLast? = some
      { seq := (s.pkg p).evNext, source := e, time := (s.pkg p).time, code := code, severity := severityOf code, tag := tag, data := v } := by
  simp [log, List.getLast?_drop, Config.recorderSize]

theorem log_lastCode (s : State) (p : Nat) (e : Endpoint) (code tag : Nat) (v : DWord) :
    ((s.log p e code tag v).pkg p).events.getLast?.map (·.code) = some code := by rw [log_last]; rfl

@[simp] theorem log_port (s : State) (p : Nat) (e : Endpoint) (code tag : Nat) (v : DWord) (q n : Nat) :
    (s.log p e code tag v).port q n = s.port q n := by
  refine port_congr n ?_ (by simp)
  by_cases h : q = p
  · subst h; simp [log]
  · rw [log_pkg_ne _ _ _ _ _ _ _ h]

@[simp] theorem log_inflight (s : State) (p : Nat) (e : Endpoint) (code tag : Nat) (v : DWord) :
    (s.log p e code tag v).inflight = s.inflight := rfl

@[simp] theorem log_arg (s : State) (p : Nat) (e : Endpoint) (code tag : Nat) (v : DWord) : (s.log p e code tag v).arg = s.arg := rfl

@[simp] theorem setPort_inflight (s : State) (p n : Nat) (v : Port) : (s.setPort p n v).inflight = s.inflight := rfl
@[simp] theorem setPort_timers (s : State) (p n : Nat) (v : Port) : (s.setPort p n v).timers = s.timers := rfl

/-! Events that are due. -/

theorem mem_post (s : State) (i : Instr) (a : Arg) : (i, a) ∈ (s.post i a).inflight := by simp [post]

theorem mem_postOnce (s : State) (i : Instr) (a : Arg) : (i, a) ∈ (s.postOnce i a).inflight := by
  unfold postOnce
  split
  · next h => simpa using h
  · exact mem_post s i a

theorem mem_post_of_mem {s : State} {e : Instr × Arg} (i : Instr) (a : Arg) (h : e ∈ s.inflight) : e ∈ (s.post i a).inflight :=
  List.mem_append_left _ h

theorem mem_postOnce_of_mem {s : State} {e : Instr × Arg} (i : Instr) (a : Arg) (h : e ∈ s.inflight) : e ∈ (s.postOnce i a).inflight := by
  unfold postOnce
  split
  · exact h
  · exact mem_post_of_mem i a h

theorem mem_after (s : State) (n : Nat) (i : Instr) (a : Arg) : (s.now + n, i, a) ∈ (s.after n i a).timers := by simp [after]

/-- An event is due, once, where a condition holds. -/
def postIf (s : State) (c : Bool) (i : Instr) (a : Arg) : State := if c then s.postOnce i a else s

@[simp] theorem postIf_ground (s : State) (c : Bool) (i : Instr) (a : Arg) : (s.postIf c i a).ground = s.ground := by
  unfold postIf
  split <;> simp

@[simp] theorem postIf_pkg (s : State) (c : Bool) (i : Instr) (a : Arg) (p : Nat) : (s.postIf c i a).pkg p = s.pkg p := by
  unfold postIf
  split <;> simp

@[simp] theorem postIf_port (s : State) (c : Bool) (i : Instr) (a : Arg) (p n : Nat) : (s.postIf c i a).port p n = s.port p n :=
  port_congr n (by simp) (by simp)

theorem mem_postIf_of_mem {s : State} {e : Instr × Arg} (c : Bool) (i : Instr) (a : Arg) (h : e ∈ s.inflight) :
    e ∈ (s.postIf c i a).inflight := by
  unfold postIf
  split
  · exact mem_postOnce_of_mem i a h
  · exact h

end State

theorem SameMem.of_ground {s t : State} (h : t.ground = s.ground) : SameMem s t := fun a => by rw [State.mem_of_ground h]

end Sys2Proof.Machine
end

section
/-! PROOFS. The events of the ports and the module links (R13, R18, R27-R39). -/

open Sys2Proof Sys2Proof.Machine

namespace Sys2Proof.Machine

/-! FLIT_TRANSMIT (R27, R28, R30-R33). -/

/-- Flit i of a port's queue with the link fields that the port gives it. -/
def State.linkFlit (s : State) (p n i : Nat) : List Byte :=
  let v := s.port p n
  let owed := v.owed.find? fun x => 0 < x.2
  State.reheader (v.queue.getD i []) fun h => { h with
    seq := (v.seqOut + 1) % 2 ^ 16, ack := v.seqIn, creditVc := (owed.map (·.1)).getD 0, credits := (owed.map (·.2)).getD 0
    report := s.reportWord p v.sweep, mgmt := v.slots % 64 == 63 && true }

theorem State.linkFlit_body (s : State) (p n i : Nat) (h : ((s.port p n).queue.getD i []).length = 256) :
    (s.linkFlit p n i).drop 32 = ((s.port p n).queue.getD i []).drop 32 := by
  unfold linkFlit
  exact reheader_body _ _ h

/-- A port that has sent flit i of its queue as f. -/
def Port.sent (v : Port) (i : Nat) (f : List Byte) : Port :=
  let slot := v.slots % 64 == 63
  let vc := (flitHdr (v.queue.getD i [])).vc
  let owed := v.owed.find? fun x => 0 < x.2
  { v with
    queue := v.queue.eraseIdx i, seqOut := (v.seqOut + 1) % 2 ^ 16, retry := (v.retry ++ [f]).drop (v.retry.length + 1 - 4096)
    credits := tset v.credits vc (tget v.credits vc Config.firstCredits - 1)
    owed := match owed with
      | some x => tdel v.owed x.1
      | none => v.owed
    lastVc := if true && !slot then tset v.lastVc (vcLevel vc) vc else v.lastVc, sweep := (v.sweep + 1) % 23, slots := (v.slots + 1) % 64 }

theorem Port.sent_last (v : Port) (i : Nat) (f : List Byte) : (v.sent i f).retry.getLast? = some f := by
  simp [Port.sent, List.getLast?_drop]

/-- The state in which flit i of a port's queue is on its way to the far end. -/
def State.transmitted (s : State) (p n i : Nat) : State :=
  (s.setPort p n ((s.port p n).sent i (s.linkFlit p n i))).post .flitReceive
    { p := farEnd p n, port := portTo (farEnd p n) p, bytes := overLanes (s.port p n).txLanes (s.linkFlit p n i) }

theorem State.mem_transmitted (s : State) (p n i : Nat) :
    (.flitReceive, { p := farEnd p n, port := portTo (farEnd p n) p, bytes := overLanes (s.port p n).txLanes (s.linkFlit p n i) }) ∈
    (s.transmitted p n i).inflight := by
  unfold transmitted
  exact mem_post ..

theorem execFlitTransmit_eq (s : State) (p n i : Nat) (hap : s.arg.p = p) (han : s.arg.port = n) (hup : (s.port p n).state = 1)
    (hp : s.isMember p = true) (hq : s.isMember (farEnd p n) = true)
    (hpick : State.pickFlit (s.port p n) ((s.port p n).slots % 64 == 63) = some i) :
    let v := (s.port p n).sent i (s.linkFlit p n i)
    exec .flitTransmit s = .next ((s.transmitted p n i).postIf ((State.pickFlit v false).isSome || !v.owed.isEmpty) .flitTransmit
      { p := p, port := n }) := by
  subst hap han
  change execFlitTransmit s = _
  unfold execFlitTransmit
  dsimp only
  rw [if_neg (by simp [hup, hp, hq]), hpick]
  rfl

theorem yields_flitTransmit (s : State) (p n i : Nat) (v : Port) (hap : s.arg.p = p) (han : s.arg.port = n) (hv : s.port p n = v)
    (hup : v.state = 1) (hp : s.isMember p = true) (hq : s.isMember (farEnd p n) = true)
    (hpick : State.pickFlit v (v.slots % 64 == 63) = some i) :
    Yields .flitTransmit s fun t => SameMem s t ∧ (t.port p n).seqOut = (v.seqOut + 1) % 2 ^ 16 ∧ (t.port p n).queue = v.queue.eraseIdx i ∧
      ∃ f, (.flitReceive, { p := farEnd p n, port := portTo (farEnd p n) p, bytes := overLanes v.txLanes f }) ∈ t.inflight ∧
        (t.port p n).retry.getLast? = some f ∧ ((v.queue.getD i []).length = 256 → f.drop 32 = (v.queue.getD i []).drop 32) := by
  subst hv
  refine Yields.of_exec (execFlitTransmit_eq s p n i hap han hup hp hq hpick) ?_
  have hport : (s.transmitted p n i).port p n = (s.port p n).sent i (s.linkFlit p n i) := State.setPort_port_self ..
  rw [State.postIf_port, hport]
  refine ⟨SameMem.of_ground (by simp [State.transmitted]), rfl, rfl, s.linkFlit p n i, ?_, Port.sent_last .., fun hl => ?_⟩
  · exact State.mem_postIf_of_mem _ _ _ (s.mem_transmitted p n i)
  · exact s.linkFlit_body p n i hl

/-! FLIT_RECEIVE (R18, R31). -/

/-- A port that has taken in flit f at package p: its sequence, its peer's acknowledgement, credits and reports. -/
def Port.took (v : Port) (p : Nat) (f : List Byte) : Port :=
  let h := flitHdr f
  let put := fun (t : Tab Nat Nat) (k d : Nat) => if k < 46 then tset t k d else t
  let a := h.report
  { v with
    seqIn := h.seq, ackIn := h.ack, retry := v.retry.filter fun g => seqAfter (flitHdr g).seq h.ack
    credits := if h.credits = 0 then v.credits
      else tset v.credits h.creditVc (tget v.credits h.creditVc Config.firstCredits + h.credits)
    owed := if h.kind = 0 || h.kind = 3 || State.keepsBuffer p f then v.owed else tset v.owed h.vc (tget v.owed h.vc 0 + 1)
    state := if h.kind = 3 && v.state = 1 then 2 else v.state
    reports := put (put v.reports (bits a 31 26) (bits a 25 16)) (bits a 15 10) (bits a 9 0) }

namespace State

variable (s : State) (p n : Nat) (f : List Byte)

/-- A flit that fails its checks leaves a record and a gap. -/
theorem takeFlit_bad (hup : (s.port p n).state = 1) (hok : flitOk f = false) :
    s.takeFlit p n f = (s.setPort p n { s.port p n with seqIn := seqPast (s.port p n) f }).log p (routerEndpoint p) 0x0020 0
      (BitVec.ofNat 64 (field f 0 8)) := by
  simp [takeFlit, hup, hok]

/-- The state in which a flit that passes its checks has been taken off the link. -/
def tookFlit : State :=
  let v := (s.port p n).took p f
  (s.setPort p n v).postIf (!v.queue.isEmpty || !v.owed.isEmpty) .flitTransmit { p := p, port := n }

@[simp] theorem tookFlit_ground : (s.tookFlit p n f).ground = s.ground := by simp [tookFlit]

theorem tookFlit_port : (s.tookFlit p n f).port p n = (s.port p n).took p f := by simp [tookFlit]

theorem tookFlit_behind (m src : Nat) : (s.tookFlit p n f).behind p m src = s.behind p m src := by
  simp only [behind, isMember_of_ground (tookFlit_ground s p n f)]

variable (hup : (s.port p n).state = 1) (hok : flitOk f = true) (hseq : seqAfter (flitHdr f).seq (s.port p n).seqIn = true)
include hup hok hseq

/-- A link-control flit goes no further. -/
theorem takeFlit_control (hk : (flitHdr f).kind = 3) : s.takeFlit p n f = s.tookFlit p n f := by
  unfold takeFlit
  dsimp only
  rw [if_neg (by simp [hup]), if_neg (by simp [hok]), if_neg (by simp [hseq]), if_pos (by simp [hk])]
  rfl

/-- A flit with requests goes on to its router, where its source lies behind the port and no master is frozen (R122). -/
theorem takeFlit_route (hk : (flitHdr f).kind = 1) (hu : (flitHdr f).src.unit ≠ 4)
    (hb : s.behind p (farEnd p n) (flitHdr f).src.pkg = true) (hfr : (s.pkg p).frozen = []) :
    s.takeFlit p n f = (s.tookFlit p n f).routeFlit p f := by
  unfold takeFlit
  dsimp only
  rw [if_neg (by simp [hup]), if_neg (by simp [hok]), if_neg (by simp [hseq]), if_neg (by simp [hk])]
  change (if (s.tookFlit p n f).isFrozen p _ then _ else if _ || !(s.tookFlit p n f).behind p _ _ then _ else _) = _
  rw [if_neg (by simp [isFrozen, tookFlit, setPort, hfr]), if_neg (by simp [tookFlit_behind, hu, hb])]
  rfl

end State

/-- A flit of one request is one request's arrival. -/
theorem State.routeFlit_one (s : State) (p : Nat) (f : List Byte) (i : Instr) (hk : (flitHdr f).kind = 1) (hs : (flitHdr f).slots = 1)
    (hd : (flitHdr f).dst.pkg = p) (hi : packetEvent (slotOf (flitHdr f) (flitBody f)).opcode = some i) :
    s.routeFlit p f = s.post i { q := slotOf (flitHdr f) (flitBody f) } := by
  have hne := opcode_ne_broker hi
  simp [routeFlit, hd, deliverFlit, hk, hs, List.range_succ, hi, arrive, hne, arriveSlot]

/-- A flit in its turn is taken in at its port. -/
theorem execFlitReceive_eq (s : State) (hf : s.arg.flag = false)
    (he : s.earlierFlit s.arg.p s.arg.port (flitHdr s.arg.bytes).seq = false) :
    exec .flitReceive s = .next (s.takeFlit s.arg.p s.arg.port s.arg.bytes) := by
  show execFlitReceive s = _
  simp [execFlitReceive, hf, he]

theorem yields_flitReceive (s : State) (i : Instr) :
    let p := s.arg.p
    let n := s.arg.port
    let f := s.arg.bytes
    let h := flitHdr f
    s.arg.flag = false → s.earlierFlit p n h.seq = false → (s.port p n).state = 1 →
    (flitOk f = false → Yields .flitReceive s fun t => SameMem s t ∧ ((t.pkg p).events.getLast?.map (·.code)) = some 0x20 ∧
      t.inflight = s.inflight ∧ t.port p n = { s.port p n with seqIn := State.seqPast (s.port p n) f }) ∧
    (flitOk f = true → seqAfter h.seq (s.port p n).seqIn = true → h.kind = 3 → Yields .flitReceive s fun t => SameMem s t ∧
      (t.port p n).state = 2 ∧ (t.port p n).seqIn = h.seq) ∧
    (flitOk f = true → seqAfter h.seq (s.port p n).seqIn = true → h.kind = 1 → h.slots = 1 → h.dst.pkg = p → h.src.unit ≠ 4 →
      s.behind p (farEnd p n) h.src.pkg = true → (s.pkg p).frozen = [] → packetEvent (slotOf h (flitBody f)).opcode = some i →
      Yields .flitReceive s fun t => SameMem s t ∧ (i, { q := slotOf h (flitBody f) }) ∈ t.inflight ∧ (t.port p n).seqIn = h.seq ∧
        (t.port p n).ackIn = h.ack) := by
  intro p n f h hf he hup
  have hx := execFlitReceive_eq s hf he
  refine ⟨fun hok => ?_, fun hok hseq hk => ?_, fun hok hseq hk hs hd hu hb hfr hi => ?_⟩ <;> refine Yields.of_exec hx ?_
  · rw [State.takeFlit_bad s p n f hup hok]
    exact ⟨SameMem.of_ground (by simp), State.log_lastCode .., by simp, by simp⟩
  · rw [State.takeFlit_control s p n f hup hok hseq hk]
    refine ⟨SameMem.of_ground (State.tookFlit_ground ..), ?_⟩
    rw [State.tookFlit_port]
    exact ⟨if_pos (by simp [hup, h, hk, f] at hk ⊢), rfl⟩
  · rw [State.takeFlit_route s p n f hup hok hseq hk hu hb hfr, State.routeFlit_one _ p f i hk hs hd hi]
    refine ⟨SameMem.of_ground (by simp), State.mem_post .., ?_⟩
    rw [State.post_port, State.tookFlit_port]
    exact ⟨rfl, rfl⟩

end Sys2Proof.Machine
end

section
/-! PROOFS. Retrain and loss of ports (R37-R39), and the modules of the die-to-die links (R13). -/

open Sys2Proof Sys2Proof.Machine

namespace Sys2Proof.Machine

namespace State

variable (s : State) (p n : Nat)

/-! What a stop, a resend and a loss leave of the ports. -/

@[simp] theorem stopPort_ground (lost : BitVec 16) : (s.stopPort p n lost).ground = s.ground := by simp [stopPort]

@[simp] theorem stopPort_port (lost : BitVec 16) : (s.stopPort p n lost).port p n =
    { s.port p n with state := 2, seqOut := ((s.port p n).seqOut + 1) % 2 ^ 16, sweep := ((s.port p n).sweep + 1) % 23 } := by
  simp [stopPort]

theorem mem_stopPort (lost : BitVec 16) : (.flitReceive, { p := farEnd p n, port := portTo (farEnd p n) p, bytes := overLanes (s.port p n).txLanes (s.controlFlit p (farEnd p n) (s.port p n) lost) }) ∈
    (s.stopPort p n lost).inflight := mem_post ..

/-- A resend puts flits on the link, and changes no package. -/
@[simp] theorem resend_pkg (q : Nat) : (s.resend p n).pkg q = s.pkg q := by
  unfold resend
  dsimp only
  rw [postOnce_pkg, foldl_keeps (·.pkg q) _ (fun s f => postOnce_pkg ..)]

@[simp] theorem resend_ground : (s.resend p n).ground = s.ground := by simp [resend]

@[simp] theorem resend_port (q m : Nat) : (s.resend p n).port q m = s.port q m := port_congr m (by simp) (by simp)

/-- A port with an empty queue that goes dark keeps nothing. -/
theorem darken_empty (h : (s.port p n).queue = []) : s.darken p n = s.setPort p n { s.port p n with state := 3, queue := [], retry := [] } := by
  simp [darken, h]

@[simp] theorem darken_ground : (s.darken p n).ground = s.ground := by simp [darken]

@[simp] theorem killPort_ground : (s.killPort p n).ground = s.ground := by simp [killPort]

theorem killPort_port (h : (s.port p n).queue = []) : ((s.killPort p n).port p n).state = 3 := by
  simp [killPort, darken_empty s p n h]

theorem killPort_port_other (q m : Nat) (hq : q ≠ p) (h : (s.port p n).queue = []) : (s.killPort p n).port q m = s.port q m := by
  simp [killPort, darken_empty s p n h, setPort_port_other _ _ _ _ _ _ hq]

end State

/-! PORT_RETRAIN (R37). -/

theorem yields_portRetrain (s : State) (p n q : Nat) (hap : s.arg.p = p) (han : s.arg.port = n) (hq : farEnd p n = q) (hn : n < 46)
    (hm : s.isMember q = true) (hup : (s.port p n).state = 1)
    (hwhy : s.arg.flag = false ∨ (s.pkg p).record.laneThreshold.toNat < s.arg.n) :
    let f := s.controlFlit p q (s.port p n) ((s.port p n).rxLanes &&& ~~~s.arg.rx)
    Yields .portRetrain s fun t => SameMem s t ∧ (t.port p n).state = 2 ∧ (s.now + 25000, .portRetrainEnd, s.arg) ∈ t.timers ∧
      (.flitReceive, { p := q, port := portTo q p, bytes := overLanes (s.port p n).txLanes f }) ∈ t.inflight := by
  subst hap han hq
  have hx : exec .portRetrain s = .next ((s.stopPort s.arg.p s.arg.port ((s.port s.arg.p s.arg.port).rxLanes &&& ~~~s.arg.rx)).after 25000
      .portRetrainEnd s.arg) := by
    change execPortRetrain s = _
    unfold execPortRetrain
    dsimp only
    rw [if_neg (by simp [hm, hup, hn]), if_neg]
    rcases hwhy with h | h <;> simp [h]
  exact Yields.of_exec hx ⟨SameMem.of_ground (by simp), by simp, State.mem_after .., State.mem_stopPort ..⟩

/-! PORT_RETRAIN_END (R37, R39). -/

theorem yields_portRetrainEnd_up (s : State) (p n q m : Nat) (hap : s.arg.p = p) (han : s.arg.port = n) (hq : farEnd p n = q)
    (hm : portTo q p = m) (hn : n < 46) (hst : (s.port p n).state = 2) (hrx : s.arg.rx ≠ 0) (htx : s.arg.tx ≠ 0) :
    Yields .portRetrainEnd s fun t => SameMem s t ∧ (t.port p n).state = 1 ∧ (t.port p n).rxLanes = s.arg.rx ∧
      (t.port p n).txLanes = s.arg.tx ∧ (t.port q m).state = 1 ∧ ((t.pkg p).events.getLast?.map (·.code)) = some 0x11 := by
  subst hap han
  have hpq : s.arg.p ≠ q := fun h => farEnd_ne _ _ hn (hq.trans h.symm)
  refine Yields.of_exec (show exec .portRetrainEnd s = execPortRetrainEnd s from rfl) ?_
  dsimp only
  rw [if_neg (by simp [hst]), if_neg (by simpa using ⟨hrx, htx⟩), hq, hm]
  refine ⟨SameMem.of_ground ?_, ?_, ?_, ?_, ?_, State.log_lastCode ..⟩
  · simp only [State.log_ground, State.resend_ground, State.setPort_ground]
    rfl
  all_goals simp [State.setPort_port_other _ _ _ _ _ _ hpq]

theorem yields_portRetrainEnd_dead (s : State) (p n q m : Nat) (hap : s.arg.p = p) (han : s.arg.port = n) (hq : farEnd p n = q)
    (hm : portTo q p = m) (hn : n < 46) (hst : (s.port p n).state = 2) (hdead : s.arg.rx = 0 ∨ s.arg.tx = 0)
    (hp : (s.port p n).queue = []) (hpeer : (s.port q m).queue = []) :
    Yields .portRetrainEnd s fun t => (t.port p n).state = 3 ∧ (t.port q m).state = 3 := by
  subst hap han
  have hqp : q ≠ s.arg.p := fun h => farEnd_ne _ _ hn (hq.trans h)
  refine Yields.of_exec (show exec .portRetrainEnd s = execPortRetrainEnd s from rfl) ?_
  dsimp only
  rw [if_neg (by simp [hst]), if_pos (by simpa using hdead), hq, hm]
  generalize hu : ({ s with inflight := _ } : State) = u
  have hport : ∀ q m, u.port q m = s.port q m := fun q m => by subst hu; rfl
  have hpeer' : ((u.killPort s.arg.p s.arg.port).port q m).queue = [] := by
    rw [State.killPort_port_other u _ _ q m hqp (by rw [hport, hp]), hport, hpeer]
  refine ⟨?_, State.killPort_port _ q m hpeer'⟩
  rw [State.killPort_port_other _ q m _ _ hqp.symm hpeer']
  exact State.killPort_port u _ _ (by rw [hport, hp])

/-! PORT_REENABLE (R33, R39). -/

theorem yields_portReenable (s : State) (p n q m : Nat) (hap : s.arg.p = p) (han : s.arg.port = n) (hq : farEnd p n = q)
    (hm : portTo q p = m) (hn : n < 46) (hmp : s.isMember p = true) (hmq : s.isMember q = true) (hst : (s.port p n).state = 3) :
    Yields .portReenable s fun t => SameMem s t ∧ (t.port p n).state = 1 ∧ (t.port q m).state = 1 := by
  subst hap han
  have hpq : s.arg.p ≠ q := fun h => farEnd_ne _ _ hn (hq.trans h.symm)
  refine Yields.of_exec (show exec .portReenable s = execPortReenable s from rfl) ?_
  dsimp only
  rw [hq, hm, if_neg (by simp [hn, hst, hmp, hmq])]
  exact ⟨SameMem.of_ground (by simp), by simp [State.setPort_port_other _ _ _ _ _ _ hpq], by simp⟩

/-! The modules of the die-to-die links (R13). -/

theorem yields_moduleRetrain (s : State) (hi : s.arg.i < linkModules s.arg.link.a s.arg.link.b)
    (hon : s.arg.i ∉ tget (s.pkg s.arg.link.pkg).modules s.arg.link []) :
    Yields .moduleRetrain s fun t => SameMem s t ∧ (s.now + 20000, .moduleRetrainEnd, s.arg) ∈ t.timers := by
  refine Yields.of_exec (show exec .moduleRetrain s = execModuleRetrain s from rfl) ?_
  rw [if_neg (by simpa [hi] using hon)]
  exact ⟨SameMem.of_ground (by simp), State.mem_after ..⟩

theorem yields_moduleRetrainEnd (s : State) (hf : s.arg.flag = true) (hon : s.arg.i ∉ tget (s.pkg s.arg.link.pkg).modules s.arg.link []) :
    Yields .moduleRetrainEnd s fun t => SameMem s t ∧
      tget (t.pkg s.arg.link.pkg).modules s.arg.link [] = tget (s.pkg s.arg.link.pkg).modules s.arg.link [] ++ [s.arg.i] ∧
      ((t.pkg s.arg.link.pkg).events.getLast?.map (·.code)) = some 0x10 := by
  refine Yields.of_exec (show exec .moduleRetrainEnd s = execModuleRetrainEnd s from rfl) ?_
  dsimp only
  rw [if_neg (by simpa [hf] using hon)]
  split
  all_goals
    refine ⟨SameMem.of_ground (by simp), by simp, ?_⟩
    simp [State.log_lastCode]

end Sys2Proof.Machine
end

section
/-! PROOFS. Writes at a home, the switch of a die's tables (R70, R72), and what both leave of memory and of the dies. -/

open Sys2Proof Sys2Proof.Machine

namespace Sys2Proof.Machine

/-- What of a die neither traffic nor the tiers of translation change: its tables, its migrations, and whether it is lost. -/
def Die.still (k : Die) : Die :=
  { Die.reset with cur := k.cur, prev := k.prev, pend := k.pend, migr := k.migr, waitq := k.waitq, lost := k.lost }

/-- A migration whose page a write at an address is in notes the line (R75). -/
def Migration.marked (m : Migration) (pa : Nat) : Migration :=
  if m.oldPa ≤ pa && pa < m.oldPa + 2 ^ m.log && (m.phase == 1 || m.phase == 2) then
    { m with dirty := if m.dirty.contains (lineOf (pa - m.oldPa)) then m.dirty else m.dirty ++ [lineOf (pa - m.oldPa)] }
  else m

/-- A die with its pending tables made current (R72). -/
def Die.switched (k : Die) (t : Tables) : Die :=
  { k with cur := t, prev := some k.cur, pend := none, visitors := k.visitors.filter fun x => !State.moved k.cur t (128 * x.1) }

/-- The ground with no more of the dies than this. -/
def Ground.still (g : Ground) : Ground := { g with dies := fun d => (g.dies d).still }

theorem Die.of_still {k l : Die} (h : k.still = l.still) :
    k.lost = l.lost ∧ k.cur = l.cur ∧ k.prev = l.prev ∧ k.pend = l.pend ∧ k.migr = l.migr ∧ k.waitq = l.waitq := by
  simpa [Die.still] using h

namespace State

theorem mem_of_still {s t : State} (h : t.ground.still = s.ground.still) : t.mem = s.mem := congrArg Ground.mem h

theorem die_of_still {s t : State} (h : t.ground.still = s.ground.still) (d : DieId) : (t.die d).still = (s.die d).still :=
  congrFun (congrArg Ground.dies h) d

/-- An update of a die that leaves its tables, its migrations and its loss leaves the still ground. -/
theorem setDie_still (s : State) (d : DieId) (v : Die) (h : v.still = (s.die d).still) : (s.setDie d v).ground.still = s.ground.still := by
  have hd : (fun e => ((s.setDie d v).die e).still) = fun e => (s.die e).still := funext fun e => by
    by_cases he : e = d
    · rw [he, setDie_die_self, h]
    · rw [setDie_die_ne s d e v he]
  exact congrArg (fun f => { s.ground with dies := f }) hd

theorem updDie_still (s : State) (d : DieId) (f : Die → Die) (h : ∀ k, (f k).still = k.still) : (s.updDie d f).ground.still = s.ground.still :=
  setDie_still s d _ (h _)

@[simp] theorem foldl_still {α : Type} (f : State → α → State) (h : ∀ s x, (f s x).ground.still = s.ground.still) (l : List α) (s : State) :
    (l.foldl f s).ground.still = s.ground.still := foldl_keeps (fun s => s.ground.still) f h l s

/-! Runs of bytes at their homes. -/

/-- A run at its homes changes nothing but memory. -/
theorem homePuts_eq (bs : List Byte) : ∀ (s : State) (d : DieId) (pa : Nat), s.homePuts d pa bs = { s with mem := (s.homePuts d pa bs).mem } := by
  induction bs with
  | nil => exact fun s d pa => rfl
  | cons b bs ih =>
    intro s d pa
    have hput : s.homePut d pa b = { s with mem := (s.homePut d pa b).mem } := by
      unfold homePut
      split <;> rfl
    rw [homePuts, ih, hput]

@[simp] theorem homePuts_die (s : State) (d e : DieId) (pa : Nat) (bs : List Byte) : (s.homePuts d pa bs).die e = s.die e := by
  rw [homePuts_eq]; rfl

theorem homePut_die (s : State) (d e : DieId) (pa : Nat) (b : Byte) : (s.homePut d pa b).die e = s.die e := homePuts_die s d e pa [b]

theorem homeAt_of_cur {s t : State} {d : DieId} (h : (t.die d).cur = (s.die d).cur) (pa : Nat) : t.homeAt d pa = s.homeAt d pa := by
  rw [homeAt, homeAt, h]

theorem homeBytes_congr {s t : State} {d : DieId} (hm : t.mem = s.mem) (hc : (t.die d).cur = (s.die d).cur) (pa n : Nat) :
    t.homeBytes d pa n = s.homeBytes d pa n := by
  induction n generalizing pa with
  | zero => rfl
  | succ n ih => rw [homeBytes, homeBytes, ih, homeByte, homeByte, homeAt_of_cur hc, hm]

theorem homeBytes_length (s : State) (d : DieId) (pa n : Nat) : (s.homeBytes d pa n).length = n := by
  induction n generalizing pa with
  | zero => rfl
  | succ n ih => rw [homeBytes, List.length_cons, ih]

/-- The numbers of the n bytes from an address at their homes. -/
def places (s : State) (d : DieId) (pa n : Nat) : List Nat := (List.range n).filterMap fun j => (s.homeAt d (pa + j)).map physKey

theorem not_mem_places {s : State} {d : DieId} {pa n a : Nat} (h : a ∉ s.places d pa n) (j : Nat) (hj : j < n) :
    (s.homeAt d (pa + j)).map physKey ≠ some a := fun hk =>
  h (List.mem_filterMap.mpr ⟨j, List.mem_range.mpr hj, hk⟩)

theorem homeAt_isSome_of_places {s : State} {d : DieId} {pa n : Nat} (h : (s.places d pa n).length = n) (j : Nat) (hj : j < n) :
    (s.homeAt d (pa + j)).isSome = true := by
  have hall := (List.filterMap_length_eq_length (f := fun j => (s.homeAt d (pa + j)).map physKey) (l := List.range n)).mp
    (by simpa [places] using h)
  simpa using hall j (List.mem_range.mpr hj)

theorem places_apart {s : State} {d : DieId} {pa n : Nat} (h : (s.places d pa n).Nodup) (i j : Nat) (hij : i < j) (hj : j < n) (k : Nat)
    (hi : (s.homeAt d (pa + i)).map physKey = some k) : (s.homeAt d (pa + j)).map physKey ≠ some k := fun hk => by
  have hp := List.pairwise_iff_getElem.mp (List.pairwise_filterMap.mp h) i j (by simp; omega) (by simpa using hj) hij
  exact hp k (by simpa using hi) k (by simpa using hk) rfl

theorem homePuts_sameMemBut (s : State) (d : DieId) (pa : Nat) (bs : List Byte) (h : s.mem.wf = true) :
    SameMemBut (s.places d pa bs.length) s (s.homePuts d pa bs) := fun a ha =>
  homePuts_read bs a s d pa h fun j hj => not_mem_places ha j hj

/-- A run put at homes that lie apart reads back. -/
theorem homeBytes_homePuts (bs : List Byte) : ∀ (s : State) (d : DieId) (pa : Nat), s.mem.wf = true →
    (∀ j, j < bs.length → (s.homeAt d (pa + j)).isSome = true) →
    (∀ i j, i < j → j < bs.length → ∀ k, (s.homeAt d (pa + i)).map physKey = some k → (s.homeAt d (pa + j)).map physKey ≠ some k) →
    (s.homePuts d pa bs).homeBytes d pa bs.length = bs := by
  induction bs with
  | nil => exact fun s d pa _ _ _ => rfl
  | cons b bs ih =>
    intro s d pa hw hsome hapart
    obtain ⟨h, hh⟩ := Option.isSome_iff_exists.mp (hsome 0 (by simp))
    rw [Nat.add_zero] at hh
    have hnext : ∀ j, pa + 1 + j = pa + (j + 1) := fun j => by omega
    have htail := ih (s.homePut d pa b) d (pa + 1) (homePut_wf s d pa b hw)
      (fun j hj => by rw [homePut_homeAt, hnext]; exact hsome (j + 1) (by simpa using hj))
      (fun i j hij hj k => by rw [homePut_homeAt, homePut_homeAt, hnext, hnext]; exact hapart _ _ (by omega) (by simpa using hj) k)
    have hhead : (s.homePuts d pa (b :: bs)).homeByte d pa = b := by
      have hput : (s.homePut d pa b).mem.read (physKey h) = b := by
        rw [homePut, hh]
        exact Memory.read_write_self _ _ _ hw
      have hrest : ((s.homePut d pa b).homePuts d (pa + 1) bs).mem.read (physKey h) = b := by
        rw [homePuts_read bs (physKey h) _ d (pa + 1) (homePut_wf s d pa b hw) fun j hj => by
          rw [homePut_homeAt, hnext]
          exact hapart 0 (j + 1) (by omega) (by simpa using hj) _ (by rw [Nat.add_zero, hh]; rfl), hput]
      have hat : ((s.homePut d pa b).homePuts d (pa + 1) bs).homeAt d pa = some h := by
        rw [homeAt_of_cur (s := s) (by rw [homePuts_die, homePut_die]), hh]
      rw [homePuts, homeByte, hat]
      exact hrest
    rw [List.length_cons, homeBytes, hhead]
    exact congrArg (b :: ·) htail

/-! What follows a write at a home. -/

@[simp] theorem stampSc_still (s : State) (h : Home) (order : Nat) (e : Endpoint) : (s.stampSc h order e).ground.still = s.ground.still := by
  unfold stampSc
  split
  · exact updDie_still _ _ _ fun _ => rfl
  · rfl

@[simp] theorem evalAwait_still (s : State) (d : DieId) (near : Nat → Bool) (w : WarpId) (x : PcSel) :
    (s.evalAwait d near w x).ground.still = s.ground.still := by
  unfold evalAwait
  dsimp only
  repeat' split
  all_goals simp

@[simp] theorem fireCounts_still (s : State) (d : DieId) (pa n : Nat) : (s.fireCounts d pa n).ground.still = s.ground.still := by
  simp [fireCounts]

@[simp] theorem pushLine_still (s : State) (h : Home) (pa : Nat) (d : DieId) (m : BitVec 128) :
    (s.pushLine h pa d m).ground.still = s.ground.still := by
  unfold pushLine
  dsimp only
  split
  · exact setDie_still _ _ _ rfl
  · rw [sendLine_ground]
    exact setDie_still _ _ _ rfl

@[simp] theorem pushAll_still (s : State) (h : Home) (pa : Nat) : (s.pushAll h pa).ground.still = s.ground.still := by simp [pushAll]

theorem markDirty_mem (s : State) (d : DieId) (pa : Nat) : (s.markDirty d pa).mem = s.mem := by
  unfold markDirty
  dsimp only
  split <;> rfl

/-- Of a die, a write at its home marks the migrations. -/
theorem markDirty_die (s : State) (d e : DieId) (pa : Nat) :
    (s.markDirty d pa).die e = if e = d then { s.die d with migr := (s.die d).migr.map (·.marked pa) } else s.die e := by
  unfold markDirty
  dsimp only
  split_ifs with hm he he
  · subst he
    rw [List.isEmpty_iff.mp hm, List.map_nil, ← List.isEmpty_iff.mp hm]
  · rfl
  · subst he
    exact setDie_die_self ..
  · exact setDie_die_ne _ _ _ _ he

theorem markDirty_ground (s : State) (d : DieId) (pa : Nat) :
    (s.markDirty d pa).ground = { s.ground with
      dies := fun e => if e = d then { s.die d with migr := (s.die d).migr.map (·.marked pa) } else s.die e } := by
  have hd : (s.markDirty d pa).die = _ := funext fun e => markDirty_die s d e pa
  have hg : (s.markDirty d pa).ground = { s.ground with dies := (s.markDirty d pa).die } := by
    unfold markDirty
    dsimp only
    split <;> rfl
  rw [hg, hd]

/-- Behind its marks, what follows a write moves traffic only. -/
theorem afterWrite_still (s : State) (h : Home) (pa n : Nat) : (s.afterWrite h pa n).ground.still = (s.markDirty h.dieId pa).ground.still := by
  unfold afterWrite
  dsimp only
  split
  · simp
  · split <;> split <;> simp

theorem homeWrite_still (s : State) (d : DieId) (pa : Nat) (bs : List Byte) (h : Home) (hh : s.homeAt d pa = some h) :
    (s.homeWrite d pa bs).ground.still = ((s.homePuts d pa bs).markDirty h.dieId pa).ground.still := by
  rw [homeWrite, hh]
  dsimp only
  split
  · rw [afterWrite_still, markDirty_ground, markDirty_ground]
    rfl
  · exact afterWrite_still ..

theorem homeWrite_mem (s : State) (d : DieId) (pa : Nat) (bs : List Byte) (h : Home) (hh : s.homeAt d pa = some h) :
    (s.homeWrite d pa bs).mem = (s.homePuts d pa bs).mem := by
  rw [mem_of_still (homeWrite_still s d pa bs h hh), markDirty_mem]

theorem homeWrite_die (s : State) (d e : DieId) (pa : Nat) (bs : List Byte) (h : Home) (hh : s.homeAt d pa = some h) :
    ((s.homeWrite d pa bs).die e).still =
      (if e = h.dieId then { s.die e with migr := (s.die e).migr.map (·.marked pa) } else s.die e).still := by
  rw [die_of_still (homeWrite_still s d pa bs h hh), markDirty_die]
  split
  · next he => subst he; simp
  · simp

theorem homeWrite_cur (s : State) (d e : DieId) (pa : Nat) (bs : List Byte) : ((s.homeWrite d pa bs).die e).cur = (s.die e).cur := by
  cases hh : s.homeAt d pa with
  | none => simp [homeWrite, hh]
  | some h =>
    obtain ⟨-, hc, -⟩ := Die.of_still (homeWrite_die s d e pa bs h hh)
    rw [hc]
    split <;> rfl

theorem homeWrite_waitq (s : State) (d e : DieId) (pa : Nat) (bs : List Byte) (h : Home) (hh : s.homeAt d pa = some h) :
    ((s.homeWrite d pa bs).die e).waitq = (s.die e).waitq := by
  obtain ⟨-, -, -, -, -, hq⟩ := Die.of_still (homeWrite_die s d e pa bs h hh)
  rw [hq]
  split <;> rfl

theorem homeWrite_migr (s : State) (d e : DieId) (pa : Nat) (bs : List Byte) (h : Home) (hh : s.homeAt d pa = some h) :
    ((s.homeWrite d pa bs).die e).migr = if e = h.dieId then (s.die e).migr.map (·.marked pa) else (s.die e).migr := by
  obtain ⟨-, -, -, -, hm, -⟩ := Die.of_still (homeWrite_die s d e pa bs h hh)
  rw [hm]
  split <;> rfl

/-- A write at homes that lie apart leaves every other byte, and reads back. -/
theorem homeWrite_bytes (s : State) (d : DieId) (pa : Nat) (bs : List Byte) (hw : s.mem.wf = true) (hn : bs ≠ [])
    (hd : (s.places d pa bs.length).Nodup) (hl : (s.places d pa bs.length).length = bs.length) :
    SameMemBut (s.places d pa bs.length) s (s.homeWrite d pa bs) ∧ (s.homeWrite d pa bs).homeBytes d pa bs.length = bs := by
  obtain ⟨h, hh⟩ := Option.isSome_iff_exists.mp (homeAt_isSome_of_places hl 0 (List.length_pos_of_ne_nil hn))
  rw [Nat.add_zero] at hh
  have hm := homeWrite_mem s d pa bs h hh
  refine ⟨fun a ha => by rw [hm, homePuts_sameMemBut s d pa bs hw a ha], ?_⟩
  rw [homeBytes_congr hm (by rw [homeWrite_cur, homePuts_die])]
  exact homeBytes_homePuts bs s d pa hw (homeAt_isSome_of_places hl) fun i j hij hj k hk => places_apart hd i j hij hj k hk

/-! The switch of a die's tables. -/

theorem switchDie_ground (s : State) (d : DieId) (t : Tables) (h : (s.die d).pend = some t) :
    (s.switchDie d).ground = (s.setDie d ((s.die d).switched t)).ground := by
  rw [switchDie, h]
  simp
  rfl

end State

/-- The event switches the die's tables; the end of the drain may become due with it. -/
theorem execRegionSwitch_ground (s : State) : ∃ t, execRegionSwitch s = .next t ∧ t.ground = (s.switchDie s.arg.d).ground := by
  refine ⟨_, rfl, ?_⟩
  split
  · split
    · exact State.postOnce_ground ..
    · rfl
  · rfl

theorem yields_regionSwitch (s : State) (b : Tables) (h : (s.die s.arg.d).pend = some b) :
    Yields .regionSwitch s fun t => SameMem s t ∧ (t.die s.arg.d).cur = b ∧ (t.die s.arg.d).prev = some (s.die s.arg.d).cur ∧
      (t.die s.arg.d).pend = none := by
  obtain ⟨t, ht, hg⟩ := execRegionSwitch_ground s
  rw [State.switchDie_ground s _ b h] at hg
  have hd := State.die_of_ground hg s.arg.d
  rw [State.setDie_die_self] at hd
  refine Yields.of_exec (show exec .regionSwitch s = .next t from ht) ?_
  rw [hd]
  exact ⟨fun a => by rw [State.mem_of_ground hg, State.setDie_mem], rfl, rfl, rfl⟩

end Sys2Proof.Machine
end

section
/-! PROOFS. Page migration (R74-R78): the mark of the leaf, a copied line, the end of a wait for a pin, and the end of the window. -/

open Sys2Proof Sys2Proof.Machine

namespace Sys2Proof.Machine

theorem leVal_leBytes (n v : Nat) : leVal (leBytes n v) = v % 256 ^ n := by
  induction n generalizing v with
  | zero => simp [leBytes, leVal, Nat.mod_one]
  | succ n ih =>
    have hlow : (BitVec.ofNat 8 v).toNat = v % 256 := rfl
    rw [leBytes, leVal, ih, hlow, Nat.pow_succ', Nat.mod_mul]

theorem leVal_lt (bs : List Byte) : leVal bs < 256 ^ bs.length := by
  induction bs with
  | nil => simp [leVal]
  | cons b bs ih =>
    rw [leVal, List.length_cons, Nat.pow_succ']
    have := b.isLt
    omega

/-- A mark changes nothing of a migration that still has every line to copy. -/
theorem Migration.marked_of_all (m : Migration) (pa : Nat) (hd : m.dirty = List.range m.lines) (hl : 7 ≤ m.log) : m.marked pa = m := by
  unfold marked
  split
  · next h =>
    obtain ⟨⟨hlo, hhi⟩, -⟩ : (m.oldPa ≤ pa ∧ pa < m.oldPa + 2 ^ m.log) ∧ _ := by simpa using h
    have hpage : 2 ^ m.log = 128 * 2 ^ (m.log - 7) := by rw [show (128 : Nat) = 2 ^ 7 from rfl, ← Nat.pow_add]; congr 1; omega
    have hin : lineOf (pa - m.oldPa) < m.lines := by
      rw [lineOf, lines, hpage, Nat.mul_div_cancel_left _ (by decide)]
      omega
    rw [if_pos (by simpa [hd] using hin)]
  · rfl

namespace State

theorem places_of_cur {s t : State} {d : DieId} (h : (t.die d).cur = (s.die d).cur) (pa n : Nat) : t.places d pa n = s.places d pa n := by
  simp only [places, homeAt_of_cur h]

/-! The leaf. -/

theorem leafOf_lt (s : State) (d : DieId) (m : Migration) : s.leafOf d m < 2 ^ 64 := by
  have h := leVal_lt (s.homeBytes d m.leaf 8)
  rwa [homeBytes_length] at h

/-- A write of a leaf whose bytes have homes that lie apart. -/
theorem putLeaf_write (s : State) (d : DieId) (m : Migration) (v : Nat) (hw : s.mem.wf = true) (hd : (s.places d m.leaf 8).Nodup)
    (hl : (s.places d m.leaf 8).length = 8) :
    SameMemBut (s.places d m.leaf 8) s (s.putLeaf d m v) ∧ (s.putLeaf d m v).leafOf d m = v % 2 ^ 64 ∧
      ((s.putLeaf d m v).die d).waitq = (s.die d).waitq ∧
      (((s.putLeaf d m v).die d).migr = (s.die d).migr ∨ ((s.putLeaf d m v).die d).migr = (s.die d).migr.map (·.marked m.leaf)) := by
  obtain ⟨h, hh⟩ := Option.isSome_iff_exists.mp (homeAt_isSome_of_places hl 0 (by decide))
  rw [Nat.add_zero] at hh
  rw [putLeaf, hh]
  dsimp only
  generalize hu : s.stampSc h 3 (fwEndpoint d.pkg) = u
  have hs : u.ground.still = s.ground.still := hu ▸ stampSc_still ..
  obtain ⟨-, hc, -, -, hm, hq⟩ := Die.of_still (die_of_still hs d)
  have hat : u.homeAt d m.leaf = some h := by rw [homeAt_of_cur hc, hh]
  have hp := places_of_cur hc m.leaf 8
  obtain ⟨hmem, hback⟩ := homeWrite_bytes u d m.leaf (leBytes 8 v) (by rwa [mem_of_still hs])
    (List.ne_nil_of_length_pos (by simp [leBytes_length])) (by rwa [leBytes_length, hp]) (by rwa [leBytes_length, hp])
  rw [leBytes_length] at hmem hback
  refine ⟨fun a ha => ?_, ?_, ?_, ?_⟩
  · rw [hmem a (hp ▸ ha), mem_of_still hs]
  · rw [leafOf, hback, leVal_leBytes]
    rfl
  · rw [homeWrite_waitq u d d _ _ h hat, hq]
  · rw [homeWrite_migr u d d _ _ h hat, hm]
    split
    · exact Or.inr rfl
    · exact Or.inl rfl

/-! A line of the page. -/

theorem updMigr_cur (s : State) (d : DieId) (desc : Nat) (f : Migration → Migration) : ((s.updMigr d desc f).die d).cur = (s.die d).cur := by
  rw [updMigr, updDie_die_self]

theorem updMigr_migr (s : State) (d : DieId) (m : Migration) (f : Migration → Migration) (h : (s.die d).migr = [m]) :
    ((s.updMigr d m.desc f).die d).migr = [f m] := by
  rw [updMigr, updDie_die_self]
  simp [h]

/-- A copied line is at its new place, and nothing else changes in memory. -/
theorem copyLine_copies (s : State) (d : DieId) (m : Migration) (i : Nat) (hw : s.mem.wf = true)
    (hd : (s.places d (m.newPa + 128 * i) 128).Nodup) (hl : (s.places d (m.newPa + 128 * i) 128).length = 128)
    (ha : (s.homeAt d (m.oldPa + 128 * i)).isSome = true) :
    SameMemBut (s.places d (m.newPa + 128 * i) 128) s (s.copyLine d m i) ∧
      (s.copyLine d m i).homeBytes d (m.newPa + 128 * i) 128 = s.homeBytes d (m.oldPa + 128 * i) 128 := by
  obtain ⟨h, hh⟩ := Option.isSome_iff_exists.mp ha
  obtain ⟨g, hg⟩ := Option.isSome_iff_exists.mp (homeAt_isSome_of_places hl 0 (by decide))
  rw [Nat.add_zero] at hg
  have hn := homeBytes_length s d (m.oldPa + 128 * i) 128
  obtain ⟨hmem, hback⟩ := homeWrite_bytes s d (m.newPa + 128 * i) (s.homeBytes d (m.oldPa + 128 * i) 128) hw
    (List.ne_nil_of_length_pos (by simp [hn])) (by rwa [hn]) (by rwa [hn])
  rw [hn] at hmem hback
  simp only [copyLine, hh, hg]
  split
  · exact ⟨hmem, (homeBytes_congr rfl rfl _ _).trans hback⟩
  · exact ⟨hmem, hback⟩

theorem homeBytes_of_ground {s t : State} (h : t.ground = s.ground) (d : DieId) (pa n : Nat) : t.homeBytes d pa n = s.homeBytes d pa n :=
  homeBytes_congr (mem_of_ground h) (by rw [die_of_ground h]) pa n

end State

/-- A migration that starts: its leaf is marked, and it has every line of its page to copy. -/
def Migration.started (m : Migration) : Migration := { m with phase := 1, passes := 0, dirty := List.range m.lines }

/-- The state in which a migration that starts marks its leaf. -/
def State.beginMigr (s : State) (d : DieId) (m : Migration) (ms : List Migration) : State :=
  (s.setDie d { s.die d with waitq := ms }).updDie d fun k => { k with migr := k.migr ++ [m.started] }

theorem execMigrationStart_begins (s : State) (m : Migration) (ms : List Migration) (hq : (s.die s.arg.d).waitq = m :: ms)
    (hm : (s.die s.arg.d).migr = []) (hc : s.commit = none) (hh : s.leafHeld s.arg.d m = false)
    (hb : s.leafOf s.arg.d m / 2 ^ 59 % 2 = 0) :
    execMigrationStart s = .next ((((s.beginMigr s.arg.d m ms).putLeaf s.arg.d m.started (s.leafOf s.arg.d m + 2 ^ 59)).post .copyPassEnd
      { d := s.arg.d, i := m.desc }).postOnce .migrationStart s.arg) := by
  have hbit : bits (s.leafOf s.arg.d m) 59 59 = 0 := hb
  unfold execMigrationStart
  dsimp only
  rw [hq]
  dsimp only
  rw [if_neg (by simp [hm]), if_neg (by simp [hbit, hc]), if_neg (by simp [hh])]
  rfl

theorem yields_migrationStart (s : State) (d : DieId) (harg : s.arg.d = d) (m : Migration) (ms : List Migration)
    (hq : (s.die d).waitq = m :: ms) (hm : (s.die d).migr = []) (hc : s.commit = none) (hlog : 16 ≤ m.log) (hw : s.mem.wf = true)
    (hd : (s.places d m.leaf 8).Nodup) (hl : (s.places d m.leaf 8).length = 8) (hh : s.leafHeld d m = false)
    (hb : s.leafOf d m / 2 ^ 59 % 2 = 0) :
    Yields .migrationStart s fun t => SameMemBut (s.places d m.leaf 8) s t ∧ t.leafOf d m = s.leafOf d m + 2 ^ 59 ∧
      (t.die d).waitq = ms ∧ (∃ m', m' ∈ (t.die d).migr ∧ m'.desc = m.desc ∧ m'.phase = 1 ∧ m'.dirty = List.range m.lines) ∧
      (.copyPassEnd, { d := d, i := m.desc }) ∈ t.inflight := by
  subst harg
  generalize hu : s.beginMigr s.arg.d m ms = u
  have hdie : u.die s.arg.d = { s.die s.arg.d with waitq := ms, migr := [m.started] } := by
    rw [← hu, State.beginMigr, State.updDie_die_self, State.setDie_die_self, hm]
    rfl
  have hcur : (u.die s.arg.d).cur = (s.die s.arg.d).cur := by rw [hdie]
  have hmem : u.mem = s.mem := hu ▸ rfl
  have hp := State.places_of_cur hcur m.leaf 8
  obtain ⟨hput, hleaf, hwait, hmigr⟩ := State.putLeaf_write u s.arg.d m.started (s.leafOf s.arg.d m + 2 ^ 59)
    (by rwa [hmem]) (hp ▸ hd) (hp ▸ hl)
  have hkeep : ((u.putLeaf s.arg.d m.started (s.leafOf s.arg.d m + 2 ^ 59)).die s.arg.d).migr = [m.started] := by
    have hall := m.started.marked_of_all m.leaf rfl (by simp only [Migration.started]; omega)
    rw [hdie] at hmigr
    rcases hmigr with h | h
    · exact h
    · rw [h, List.map_singleton]
      exact congrArg (fun x => [x]) hall
  refine Yields.of_exec ((show exec .migrationStart s = execMigrationStart s from rfl).trans
    (execMigrationStart_begins s m ms hq hm hc hh hb)) ?_
  rw [hu]
  generalize u.putLeaf s.arg.d m.started (s.leafOf s.arg.d m + 2 ^ 59) = w at *
  have hg : ((w.post .copyPassEnd { d := s.arg.d, i := m.desc }).postOnce .migrationStart s.arg).ground = w.ground := by simp
  refine ⟨fun a ha => ?_, ?_, ?_, ⟨m.started, ?_, rfl, rfl, rfl⟩, State.mem_postOnce_of_mem _ _ (State.mem_post ..)⟩
  · rw [State.mem_of_ground hg, hput a fun h => ha (hp ▸ h), hmem]
  · have hlt := State.leafOf_lt s s.arg.d m
    rw [State.leafOf, State.homeBytes_of_ground hg]
    exact hleaf.trans (Nat.mod_eq_of_lt (by omega))
  · rw [State.die_of_ground hg, hwait, hdie]
  · rw [State.die_of_ground hg, hkeep]
    exact List.mem_singleton_self _

/-- A pass that has a line left copies the lowest of them. -/
theorem execCopyPassEnd_copies (s : State) (m : Migration) (i : Nat) (h : Home) (hf : s.arg.flag = false) (hm : (s.die s.arg.d).migr = [m])
    (hi : m.desc = s.arg.i) (h1 : m.phase = 1) (hh : s.homeAt s.arg.d m.newPa = some h) (hlost : (s.die h.dieId).lost = false)
    (hp : m.passes = 0 → s.arg.n = 0 → s.leafPushing s.arg.d m = false) (hin : i ∈ m.dirty) (hle : s.arg.n ≤ i)
    (hmin : ∀ j, j ∈ m.dirty → s.arg.n ≤ j → i ≤ j) :
    execCopyPassEnd s = .next (((s.updMigr s.arg.d m.desc fun m => { m with dirty := m.dirty.erase i }).copyLine s.arg.d m i).post
      .copyPassEnd { s.arg with n := i + 1 }) := by
  have hnext : (m.dirty.filter (s.arg.n ≤ ·)).min? = some i := by
    rw [List.min?_eq_some_iff]
    simpa [hin, hle] using hmin
  have hpush : ¬(m.passes = 0 ∧ s.arg.n = 0 ∧ s.leafPushing s.arg.d m = true) := fun ⟨h0, hn, ht⟩ => by simp [hp h0 hn] at ht
  have hfind : (s.die s.arg.d).migr.find? (fun m => m.desc == s.arg.i && m.phase == 1) = some m := by simp [hm, hi, h1]
  unfold execCopyPassEnd
  dsimp only
  rw [if_neg (by simp [hf]), hfind]
  dsimp only
  rw [if_neg (by simpa [and_assoc] using hpush), hh, if_neg (by simp [hlost]), hnext]
  rfl

theorem yields_copyPassEnd (s : State) (d : DieId) (harg : s.arg.d = d) (m : Migration) (i : Nat) (h : Home) (hf : s.arg.flag = false)
    (hm : (s.die d).migr = [m]) (hi : m.desc = s.arg.i) (h1 : m.phase = 1) (hh : s.homeAt d m.newPa = some h)
    (hlost : (s.die h.dieId).lost = false) (hp : m.passes = 0 → s.arg.n = 0 → s.leafPushing d m = false) (hin : i ∈ m.dirty)
    (hle : s.arg.n ≤ i) (hmin : ∀ j, j ∈ m.dirty → s.arg.n ≤ j → i ≤ j) (hw : s.mem.wf = true)
    (hd : (s.places d (m.newPa + 128 * i) 128).Nodup) (hl : (s.places d (m.newPa + 128 * i) 128).length = 128)
    (ha : (s.homeAt d (m.oldPa + 128 * i)).isSome = true) :
    Yields .copyPassEnd s fun t => SameMemBut (s.places d (m.newPa + 128 * i) 128) s t ∧
      t.homeBytes d (m.newPa + 128 * i) 128 = s.homeBytes d (m.oldPa + 128 * i) 128 ∧
      (.copyPassEnd, { s.arg with n := i + 1 }) ∈ t.inflight := by
  subst harg
  refine Yields.of_exec ((show exec .copyPassEnd s = execCopyPassEnd s from rfl).trans
    (execCopyPassEnd_copies s m i h hf hm hi h1 hh hlost hp hin hle hmin)) ?_
  generalize hu : s.updMigr s.arg.d m.desc (fun m => { m with dirty := m.dirty.erase i }) = u
  have hcur : (u.die s.arg.d).cur = (s.die s.arg.d).cur := hu ▸ State.updMigr_cur ..
  have hmem : u.mem = s.mem := hu ▸ rfl
  have hpl := State.places_of_cur hcur (m.newPa + 128 * i) 128
  obtain ⟨hput, hback⟩ := State.copyLine_copies u s.arg.d m i (by rwa [hmem]) (hpl ▸ hd) (hpl ▸ hl) (by rwa [State.homeAt_of_cur hcur])
  have hg := State.post_ground (u.copyLine s.arg.d m i) .copyPassEnd { s.arg with n := i + 1 }
  refine ⟨fun a hout => ?_, ?_, State.mem_post ..⟩
  · rw [State.mem_of_ground hg, hput a (hpl ▸ hout), hmem]
  · rw [State.homeBytes_of_ground hg, hback, State.homeBytes_congr hmem hcur]

theorem yields_migrationPinWaitEnd (s : State) (d : DieId) (harg : s.arg.d = d) (m : Migration) (hm : (s.die d).migr = [m])
    (hi : m.desc = s.arg.i) (h2 : m.phase = 2) :
    Yields .migrationPinWaitEnd s fun t => SameMem s t ∧ (t.die d).migr = [{ m with phase := 1 }] ∧
      (.copyPassEnd, { d := d, i := m.desc }) ∈ t.inflight := by
  subst harg
  refine Yields.of_exec (show exec .migrationPinWaitEnd s = execMigrationPinWaitEnd s from rfl) ⟨fun a => rfl, ?_, ?_⟩
  · rw [State.die_of_ground (State.post_ground ..), ← hi, State.updMigr_migr _ _ _ _ hm, if_pos h2]
  · rw [hi]
    exact State.mem_post ..

theorem yields_migrationWindowEnd (s : State) (d : DieId) (harg : s.arg.d = d) (m : Migration) (hm : (s.die d).migr = [m])
    (hi : m.desc = s.arg.i) (h3 : m.phase = 3) : Yields .migrationWindowEnd s fun t => SameMem s t ∧ (t.die d).migr = [] := by
  subst harg
  refine Yields.of_exec (show exec .migrationWindowEnd s = execMigrationWindowEnd s from rfl) ⟨fun a => rfl, ?_⟩
  rw [State.updDie_die_self]
  simp [hm, hi, h3]

end Sys2Proof.Machine
end

section
/-! PROOFS. The obligation of ports, module links, the region switch and page migration (O47). -/

open Sys2Proof Sys2Proof.Machine

namespace Sys2Proof.Machine

/-- Settles O47: the flits a port sends and takes in, the retrain and loss of a port, the modules of a link, the switch of a die's tables,
and the steps of a migration, an event at a time. -/
theorem portsAndPages : Obligations.PortsAndPages := by
  refine ⟨overLanes_of_lane, ?_, yields_flitReceive, ?_, fun s => ⟨yields_moduleRetrain s, yields_moduleRetrainEnd s⟩,
    yields_regionSwitch, fun s => ⟨?_, ?_, ?_⟩⟩
  · intro s i p n v q hup hp hq hpick
    exact yields_flitTransmit s p n i v rfl rfl rfl hup hp hq hpick
  · intro s p n q m _ hn hp hq
    refine ⟨fun hup hwhy => ?_, fun hst hrx htx => ?_, fun hst hdead hqp hqq => ?_, fun hst => ?_⟩
    · exact yields_portRetrain s p n q rfl rfl rfl hn hq hup hwhy
    · exact yields_portRetrainEnd_up s p n q m rfl rfl rfl rfl hn hst hrx htx
    · exact yields_portRetrainEnd_dead s p n q m rfl rfl rfl rfl hn hst hdead hqp hqq
    · exact yields_portReenable s p n q m rfl rfl rfl rfl hn hp hq hst
  · exact fun m ms hq hm hc hlog hw hd hl hh hb => yields_migrationStart s _ rfl m ms hq hm hc hlog hw hd hl hh hb
  · intro m i h hf hm hi h1 hh hlost hp hin hle hmin hw _ _ hd hl ha
    exact yields_copyPassEnd s _ rfl m i h hf hm hi h1 hh hlost hp hin hle hmin hw hd hl ha
  · intro m hm hi
    exact ⟨yields_migrationPinWaitEnd s _ rfl m hm hi, yields_migrationWindowEnd s _ rfl m hm hi⟩

end Sys2Proof.Machine
end

section
/-! PROOFS. What moves warps, tags, messages of Brokers and events leaves the ground as it is. -/

open Sys2Proof Sys2Proof.Machine

namespace Sys2Proof.Machine

namespace State

/-! Tags and accesses of a warp. -/

@[simp] theorem freeTagNow_ground (s : State) (c : CoreId) (n : Nat) : (s.freeTagNow c n).ground = s.ground := by
  unfold freeTagNow
  split <;> simp

@[simp] theorem updFlight_ground (s : State) (w : WarpId) (id : Nat) (f : Flight → Flight) : (s.updFlight w id f).ground = s.ground :=
  updWarp_ground ..

@[simp] theorem dropTags_ground (s : State) (w : WarpId) (id : Nat) : (s.dropTags w id).ground = s.ground := by
  unfold dropTags
  split
  · split <;> simp
  · rfl

@[simp] theorem dropAllClean_ground (s : State) (c : CoreId) : (s.dropAllClean c).ground = s.ground := (rfl)

@[simp] theorem endFlight_ground (s : State) (w : WarpId) (id : Nat) : (s.endFlight w id).ground = s.ground := by
  unfold endFlight
  dsimp only
  repeat' split
  all_goals simp

@[simp] theorem pumpMail_ground (c : CoreId) (l : List (Nat × WarpId × Nat)) : ∀ s : State, (s.pumpMail c l).ground = s.ground := by
  induction l with
  | nil => exact fun s => rfl
  | cons x l ih =>
    intro s
    unfold pumpMail
    split <;> simp [ih]

@[simp] theorem endShares_ground (s : State) (c : CoreId) (b : BlockId) : (s.endShares c b).ground = s.ground := by
  refine foldl_ground _ (fun s l => ?_) _ _
  dsimp only
  split <;> simp

@[simp] theorem dropUnsent_ground (s : State) (b : BlockId) : (s.dropUnsent b).ground = s.ground := by simp [dropUnsent]

/-! Events and barriers of warps. -/

@[simp] theorem evalEvents_ground (s : State) (w : WarpId) : (s.evalEvents w).ground = s.ground := by
  unfold evalEvents
  repeat' split
  all_goals simp

@[simp] theorem fireBar_ground (s : State) (t : BlockId) (off kind : Nat) (f : EventSlot → Bool) : (s.fireBar t off kind f).ground = s.ground := by
  simp [fireBar]

@[simp] theorem clearAuto_ground (s : State) (t : BlockId) (k : Nat) : (s.clearAuto t k).ground = s.ground := (rfl)

@[simp] theorem saveGang_ground (s : State) (g : GangRef) (b : Bool) : (s.saveGang g b).ground = s.ground := by
  unfold saveGang
  rw [postOnce_ground]
  rfl

@[simp] theorem settled_ground (s : State) (w : WarpId) (b : Block) (v : Warp) : (s.settled w b v).ground = s.ground := by
  unfold settled
  dsimp only
  repeat' split
  all_goals simp

@[simp] theorem reinject_ground (s : State) (w : WarpId) (n : Nat) (i : Instr) (e : List Byte) : (s.reinject w n i e).ground = s.ground := by
  unfold reinject
  dsimp only
  split
  · rfl
  · split
    · simp
    · split <;> simp

@[simp] theorem comeBack_ground (s : State) (w : WarpId) (v : Warp) (b : Block) (f : List Byte) (l : List (Nat × Instr × List Byte)) :
    (s.comeBack w v b f l).ground = s.ground := by
  unfold comeBack
  dsimp only
  split <;> simp

@[simp] theorem rebindCounts_ground (s : State) (w : WarpId) : (s.rebindCounts w).ground = s.ground := by
  unfold rebindCounts
  split
  · rfl
  · dsimp only
    split <;> simp

/-! Blocks. -/

@[simp] theorem countFault_ground (s : State) (b : BlockId) (n : Nat) (a : DWord) (c : Nat) : (s.countFault b n a c).ground = s.ground :=
  updBlock_ground ..

@[simp] theorem countLeft_ground (s : State) (b : BlockId) : (s.countLeft b).ground = s.ground := by
  refine foldl_ground _ (fun s x => ?_) _ _
  dsimp only
  repeat' split
  all_goals simp

@[simp] theorem reportFaults_ground (s : State) (b : BlockId) : (s.reportFaults b).ground = s.ground := by
  unfold reportFaults
  repeat' split
  all_goals simp

@[simp] theorem askAgain_ground (s : State) (d : DieId) : (s.askAgain d).ground = s.ground := (rfl)

@[simp] theorem freeBlock_ground (s : State) (b : BlockId) (k : Block) : (s.freeBlock b k).ground = s.ground := by
  unfold freeBlock
  simp only [updBlock_ground, updCore_ground]
  rfl

@[simp] theorem freeIdle_ground (s : State) (g : GangRef) : (s.freeIdle g).ground = s.ground := by
  unfold freeIdle
  split <;> rfl

@[simp] theorem pokePkg_ground (s : State) (p : Nat) : (s.pokePkg p).ground = s.ground := by simp [pokePkg, poke]

@[simp] theorem offerGang_ground (s : State) (g : GangRef) : (s.offerGang g).ground = s.ground := by
  unfold offerGang
  dsimp only
  repeat' split
  all_goals simp

/-! Brokers and their messages. -/

@[simp] theorem numbered_ground (s : State) (m : BrokerMsg) : (s.numbered m).2.ground = s.ground := (rfl)

@[simp] theorem refuseSteal_ground (s : State) (m : BrokerMsg) : (s.refuseSteal m).ground = s.ground := (rfl)

@[simp] theorem brokerSend_ground (s : State) (i : Instr) (m : BrokerMsg) : (s.brokerSend i m).ground = s.ground := by
  unfold brokerSend
  dsimp only
  split <;> simp

@[simp] theorem passMsg_ground (s : State) (i : Instr) (m : BrokerMsg) : (s.passMsg i m).ground = s.ground := by
  unfold passMsg
  repeat' split
  all_goals simp

@[simp] theorem tellMsg_ground (s : State) (i : Instr) (m : BrokerMsg) : (s.tellMsg i m).ground = s.ground :=
  (passMsg_ground ..).trans (numbered_ground ..)

@[simp] theorem tell_ground (s : State) (i : Instr) (src dst : BrokerId) (g f c : Nat) (v : DWord) :
    (s.tell i src dst g f c v).ground = s.ground := tellMsg_ground ..

@[simp] theorem dropBrokers_ground (s : State) (p : Nat) : (s.dropBrokers p).ground = s.ground := by
  unfold dropBrokers
  simp only [postOnce_ground, foldl_ground, passMsg_ground, refuseSteal_ground, implies_true]
  rfl

/-! Reservations. -/

@[simp] theorem dropReservation_ground (s : State) (k : BrokerId) (g : GangRef) : (s.dropReservation k g).ground = s.ground := (rfl)
@[simp] theorem clearRollbacks_ground (s : State) (g : GangRef) : (s.clearRollbacks g).ground = s.ground := (rfl)
@[simp] theorem releaseCores_ground (s : State) (r : Reservation) : (s.releaseCores r).ground = s.ground := (rfl)

@[simp] theorem returnGang_ground (s : State) (r : Reservation) : (s.returnGang r).ground = s.ground := by
  unfold returnGang
  split <;> simp

@[simp] theorem tellHalves_ground (s : State) (i : Instr) (r : Reservation) (k : BrokerId) : (s.tellHalves i r k).ground = s.ground := by
  simp [tellHalves]

@[simp] theorem giveUp_ground (s : State) (r : Reservation) (k : BrokerId) : (s.giveUp r k).ground = s.ground := by
  unfold giveUp
  split <;> simp

@[simp] theorem cancelReservation_ground (s : State) (d : DieId) (r : Reservation) : (s.cancelReservation d r).ground = s.ground := by
  unfold cancelReservation
  dsimp only
  repeat' split
  all_goals simp

@[simp] theorem relieve_ground (s : State) (h p n : Nat) : (s.relieve h p n).ground = s.ground := (rfl)

/-! The freeze of a domain. -/

theorem freeze_ground (s : State) (b : Bool) (c : Nat) : State.ground { s with frozen := b, freezeCause := c } = s.ground := rfl

@[simp] theorem freezeContexts_ground (s : State) (c : Nat) : (s.freezeContexts c).ground = s.ground := by
  unfold freezeContexts
  dsimp only
  split
  · simp
  · rw [post_ground, freeze_ground]
    simp

end State

end Sys2Proof.Machine
end

section
/-! PROOFS. What stays fixed while a die loses its blocks: the domain, the lost packages, the flash, and which dies are lost. Memory, tables and
tiers of translation may change. -/

open Sys2Proof Sys2Proof.Machine

namespace Sys2Proof.Machine

/-- What no write to memory, no switch of tables and no walk of them changes. -/
structure Fixed where
  dom : Domain
  lost : List Nat
  flash : Nat → Tab Nat (List Byte) × Word × Word
  dead : DieId → Bool

/-- The fixed part of a ground. -/
def Ground.fixed (g : Ground) : Fixed := { dom := g.dom, lost := g.lost, flash := g.flash, dead := fun d => (g.dies d).lost }

namespace State

theorem fixed_of_still {s t : State} (h : t.ground.still = s.ground.still) : t.ground.fixed = s.ground.fixed := by
  have hf := congrArg Ground.fixed h
  exact hf

@[simp] theorem foldl_fixed {α : Type} (f : State → α → State) (h : ∀ s x, (f s x).ground.fixed = s.ground.fixed) (l : List α) (s : State) :
    (l.foldl f s).ground.fixed = s.ground.fixed := foldl_keeps (fun s => s.ground.fixed) f h l s

/-! Dies and memory. -/

theorem setDie_fixed (s : State) (d : DieId) (v : Die) (h : v.lost = (s.die d).lost) : (s.setDie d v).ground.fixed = s.ground.fixed := by
  have hd : (fun e => ((s.setDie d v).die e).lost) = fun e => (s.die e).lost := funext fun e => by
    by_cases he : e = d
    · rw [he, setDie_die_self, h]
    · rw [setDie_die_ne s d e v he]
  exact congrArg (fun f => { s.ground.fixed with dead := f }) hd

@[simp] theorem updDie_fixed (s : State) (d : DieId) (f : Die → Die) (h : ∀ k, (f k).lost = k.lost) :
    (s.updDie d f).ground.fixed = s.ground.fixed :=
  setDie_fixed s d _ (h _)

@[simp] theorem homePuts_fixed (s : State) (d : DieId) (pa : Nat) (bs : List Byte) : (s.homePuts d pa bs).ground.fixed = s.ground.fixed := by
  rw [homePuts_eq]
  rfl

@[simp] theorem deviceWrite_fixed (s : State) (c : CoreId) (pa : Nat) (bs : List Byte) : (s.deviceWrite c pa bs).ground.fixed = s.ground.fixed := by
  simp [deviceWrite]

@[simp] theorem scratchPut_fixed (b : Block) (bs : List Byte) : ∀ (s : State) (o : Nat), (s.scratchPut b o bs).ground.fixed = s.ground.fixed := by
  induction bs with
  | nil => exact fun s o => rfl
  | cons x xs ih =>
    intro s o
    rw [scratchPut, ih]
    rfl

@[simp] theorem regPut_fixed (s : State) (pa : Nat) (bs : List Byte) : (s.regPut pa bs).ground.fixed = s.ground.fixed := homePuts_fixed ..

@[simp] theorem noteCounts_fixed (s : State) (h : Nat) : (s.noteCounts h).ground.fixed = s.ground.fixed := regPut_fixed ..

theorem markDirty_fixed (s : State) (d : DieId) (pa : Nat) : (s.markDirty d pa).ground.fixed = s.ground.fixed := by
  unfold markDirty
  dsimp only
  split
  · rfl
  · exact setDie_fixed _ _ _ rfl

@[simp] theorem homeWrite_fixed (s : State) (d : DieId) (pa : Nat) (bs : List Byte) : (s.homeWrite d pa bs).ground.fixed = s.ground.fixed := by
  cases hh : s.homeAt d pa with
  | none => simp [homeWrite, hh]
  | some h => rw [fixed_of_still (homeWrite_still s d pa bs h hh), markDirty_fixed, homePuts_fixed]

/-! Tables. -/

@[simp] theorem switchDie_fixed (s : State) (d : DieId) : (s.switchDie d).ground.fixed = s.ground.fixed := by
  cases h : (s.die d).pend with
  | none => simp [switchDie, h]
  | some t =>
    rw [switchDie_ground s d t h]
    exact setDie_fixed _ _ _ rfl

@[simp] theorem meetVersion_fixed (s : State) (d : DieId) (v : BitVec 16) : (s.meetVersion d v).ground.fixed = s.ground.fixed := by
  unfold meetVersion
  split
  · split <;> simp
  · rfl

theorem reach_fixed {s t : State} {d : DieId} {pa b : Nat} {g : Home} (h : s.reach d pa = .at_ g b t) : t.ground.fixed = s.ground.fixed := by
  unfold reach at h
  dsimp only at h
  repeat' split at h
  all_goals simp only [Reach.at_.injEq, reduceCtorEq] at h
  all_goals
    obtain ⟨-, -, rfl⟩ := h
    simp

@[simp] theorem walkLevels_fixed (d : DieId) (va : Nat) (ls : List Nat) : ∀ (s : State) (table : Nat) (path : Tab (Nat × Nat) Nat),
    (s.walkLevels d va ls table path).2.2.ground.fixed = s.ground.fixed := by
  induction ls with
  | nil => exact fun s table path => rfl
  | cons l ls ih =>
    intro s table path
    unfold walkLevels
    dsimp only
    split
    · exact ih ..
    · split
      · next h =>
        have hr := reach_fixed h
        repeat' split
        all_goals simp [hr, ih]
      · rfl

@[simp] theorem walkKeep_fixed (s : State) (d : DieId) (va : Nat) : (s.walkKeep d va).ground.fixed = s.ground.fixed := by
  have hw : (s.walkFrom d va).2.2.ground.fixed = s.ground.fixed := walkLevels_fixed ..
  unfold walkKeep
  split
  · next h =>
    rw [h] at hw
    simpa using hw
  · next h =>
    rw [h] at hw
    exact hw

theorem translate_fixed {s t : State} {c : CoreId} {va : Nat} {e : TlbEnt} (h : s.translate c va = .ok e t) :
    t.ground.fixed = s.ground.fixed := by
  unfold translate at h
  repeat' split at h
  all_goals simp only [Trans.ok.injEq, reduceCtorEq] at h
  all_goals
    obtain ⟨-, rfl⟩ := h
    simp [tlbHit2, tlbFill]

/-! Writes of the firmware. -/

theorem fwWrite_fixed (p : Nat) (fuel : Nat) : ∀ {s t : State} {va : Nat} {bs r : List Byte}, s.fwWrite p va bs fuel = .ok r t →
    t.ground.fixed = s.ground.fixed := by
  induction fuel with
  | zero =>
    intro s t va bs r h
    obtain ⟨-, rfl⟩ := Access.ok.inj h
    rfl
  | succ fuel ih =>
    intro s t va bs r h
    unfold fwWrite at h
    split at h
    · obtain ⟨-, rfl⟩ := Access.ok.inj h
      rfl
    · split at h
      · contradiction
      · contradiction
      · split at h
        · contradiction
        · contradiction
        · next hr =>
          dsimp only at h
          split at h
          · contradiction
          · split at h
            · contradiction
            · rw [ih h, homeWrite_fixed, reach_fixed hr]

theorem fwPut_fixed {s t : State} {p : Nat} {va : DWord} {bs r : List Byte} (h : s.fwPut p va bs = .ok r t) :
    t.ground.fixed = s.ground.fixed := fwWrite_fixed p _ h

theorem writeRecord_fixed {s t : State} {l : Launch} {n : Nat} {r : Option (DieId × Nat)} (h : s.writeRecord l n = some (t, r)) :
    t.ground.fixed = s.ground.fixed := by
  unfold writeRecord at h
  dsimp only at h
  split at h
  · obtain ⟨rfl, -⟩ := Prod.mk.inj (Option.some.inj h)
    rfl
  · split at h
    · next hp =>
      obtain ⟨rfl, -⟩ := Prod.mk.inj (Option.some.inj h)
      exact fwPut_fixed hp
    · contradiction
    · obtain ⟨rfl, -⟩ := Prod.mk.inj (Option.some.inj h)
      rfl

theorem signalUpdate_fixed {s t : State} {p : Nat} {va : DWord} {op : Nat} {v : DWord} {tag : Option DWord} {r : List Byte}
    (h : s.signalUpdate p va op v tag = .ok r t) : t.ground.fixed = s.ground.fixed := by
  unfold signalUpdate at h
  split at h
  · contradiction
  · contradiction
  · split at h
    · contradiction
    · contradiction
    · next hr =>
      dsimp only at h
      repeat' split at h
      all_goals simp only [Access.ok.injEq, reduceCtorEq] at h
      all_goals
        obtain ⟨-, rfl⟩ := h
        simp [reach_fixed hr, setDie_fixed]

theorem completeSignal_fixed {s t : State} {l : Launch} {r : Option (DieId × Nat)} (h : s.completeSignal l r = some t) :
    t.ground.fixed = s.ground.fixed := by
  unfold completeSignal at h
  extract_lets held at h
  split_ifs at h
  · rw [Option.some.inj h]
  · split at h
    · next hs => rw [← Option.some.inj h, signalUpdate_fixed hs]
    · contradiction
    · rw [Option.some.inj h]

end State

end Sys2Proof.Machine
end

section
/-! PROOFS. Instructions fetched for a context that comes back, and the block that it belongs to, leave what is fixed. -/

open Sys2Proof Sys2Proof.Machine

namespace Sys2Proof.Machine

/-! What a fetch, a header, an entry's code and a frame leave of the state they were read in. -/

def Fetch.Keeps (s : State) : Fetch → Prop
  | .ok _ t => t.ground.fixed = s.ground.fixed
  | .fault _ => True
  | .wait t => t.ground.fixed = s.ground.fixed

def HeaderAt.Keeps (s : State) : HeaderAt → Prop
  | .ok _ t => t.ground.fixed = s.ground.fixed
  | .bad => True
  | .wait t => t.ground.fixed = s.ground.fixed

def CodeAt.Keeps (s : State) : CodeAt → Prop
  | .ok _ t => t.ground.fixed = s.ground.fixed
  | .bad => True
  | .wait t => t.ground.fixed = s.ground.fixed

def Frame.Keeps (s : State) : Frame → Prop
  | .ok _ t => t.ground.fixed = s.ground.fixed
  | .bad => True
  | .wait t => t.ground.fixed = s.ground.fixed

/-- The same of a run of words. -/
def WordsKeep (s : State) : Except (Fetch × Nat) (List Word × State) → Prop
  | .ok x => x.2.ground.fixed = s.ground.fixed
  | .error x => x.1.Keeps s

theorem Fetch.keeps_of_fixed {s t : State} (h : t.ground.fixed = s.ground.fixed) {f : Fetch} (hf : f.Keeps t) : f.Keeps s := by
  cases f with
  | ok l u => exact hf.trans h
  | fault n => trivial
  | wait u => exact hf.trans h

theorem Frame.keeps_of_fixed {s t : State} (h : t.ground.fixed = s.ground.fixed) {f : Frame} (hf : f.Keeps t) : f.Keeps s := by
  cases f with
  | ok l u => exact hf.trans h
  | bad => trivial
  | wait u => exact hf.trans h

namespace State

/-! The instruction caches. -/

@[simp] theorem icachePut_ground (s : State) (c : CoreId) (n : Nat) (l : CodeLine) : (s.icachePut c n l).ground = s.ground := (rfl)

@[simp] theorem icacheHit_fixed (s : State) (c : CoreId) (e : TlbEnt) (n : Nat) (l : CodeLine) :
    (s.icacheHit c e n l).ground.fixed = s.ground.fixed := by
  unfold icacheHit
  rw [updDie_fixed _ _ _ fun k => by split <;> rfl, icachePut_ground]

@[simp] theorem icacheAsk_fixed (s : State) (c : CoreId) (e : TlbEnt) (n : Nat) : (s.icacheAsk c e n).ground.fixed = s.ground.fixed := by
  unfold icacheAsk
  split <;> simp

@[simp] theorem icacheAhead_fixed (s : State) (c : CoreId) (e : TlbEnt) (va : Nat) : (s.icacheAhead c e va).ground.fixed = s.ground.fixed := by
  unfold icacheAhead
  dsimp only
  split
  · rfl
  · split
    · split <;> simp
    · split
      · next ht =>
        have hf := translate_fixed ht
        split
        · split <;> simp [hf]
        · exact hf
      · rfl

/-! Fetches. -/

theorem fetchWord_keeps (s : State) (c : CoreId) (va : Nat) : (s.fetchWord c va).Keeps s := by
  unfold fetchWord
  split
  · trivial
  · split
    · trivial
    · rfl
    · next ht =>
      have hf := translate_fixed ht
      dsimp only
      repeat' split
      all_goals simp [Fetch.Keeps, hf]

theorem fetchWords_keeps (c : CoreId) (n : Nat) : ∀ (s : State) (va : Nat), WordsKeep s (s.fetchWords c va n) := by
  induction n with
  | zero => exact fun s va => rfl
  | succ n ih =>
    intro s va
    have hw := fetchWord_keeps s c va
    unfold fetchWords
    split
    · next w t hf =>
      rw [hf] at hw
      have ht := ih t (va + 4)
      split
      · next hws =>
        rw [hws] at ht
        exact Eq.trans ht hw
      · next hws =>
        rw [hws] at ht
        exact Fetch.keeps_of_fixed hw ht
    · exact hw

theorem headerAt_keeps (s : State) (c : CoreId) (pc : Nat) : (s.headerAt c pc).Keeps s := by
  have h := fetchWords_keeps c 1 s pc
  unfold headerAt
  split
  · trivial
  · next hf => rw [hf] at h; exact h
  · next hf => rw [hf] at h; exact h
  · next hf =>
    rw [hf] at h
    split
    · exact h
    · trivial

theorem entryCode_keeps (s : State) (c : CoreId) (e : List Byte) : (s.entryCode c e).Keeps s := by
  unfold entryCode
  extract_lets form pc k ext
  have hh := headerAt_keeps s c pc
  split
  · trivial
  · next hf => rw [hf] at hh; exact hh
  · next t hf =>
    rw [hf] at hh
    split
    · trivial
    · have hw := fetchWords_keeps c 1 t (pc + 4 * k)
      split
      · trivial
      · next hf => rw [hf] at hw; exact Eq.trans hw hh
      · next hf => rw [hf] at hw; exact Eq.trans hw hh
      · next hf =>
        rw [hf] at hw
        split
        · trivial
        · split
          · exact Eq.trans hw hh
          · trivial

theorem frameEntries_keeps (c : CoreId) (f : List Byte) (l : List Nat) : ∀ s : State, (s.frameEntries c f l).Keeps s := by
  induction l with
  | nil => exact fun s => rfl
  | cons i is ih =>
    intro s
    unfold frameEntries
    extract_lets e
    have he := entryCode_keeps s c e
    split
    · trivial
    · next hf => rw [hf] at he; exact he
    · next t hf =>
      rw [hf] at he
      have ht := Frame.keeps_of_fixed he (ih t)
      split
      · next hr => rw [hr] at ht; exact ht
      · exact ht

theorem frameSlots_keeps (c : CoreId) (f : List Byte) (l : List (Nat × Nat)) : ∀ s : State, (s.frameSlots c f l).Keeps s := by
  induction l with
  | nil => exact fun s => frameEntries_keeps ..
  | cons x xs ih =>
    intro s
    obtain ⟨form, mask⟩ := x
    unfold frameSlots
    split
    · exact ih s
    · have hh := headerAt_keeps s c (form % 2 ^ 57 / 4 * 4)
      split
      · trivial
      · next hf => rw [hf] at hh; exact hh
      · next t hf =>
        rw [hf] at hh
        split
        · trivial
        · exact Frame.keeps_of_fixed hh (ih t)

theorem frameOf_keeps (s : State) (c : CoreId) (f : List Byte) : (s.frameOf c f).Keeps s := by
  unfold frameOf
  split
  · trivial
  · exact frameSlots_keeps ..

/-! Barriers. -/

@[simp] theorem setBar_fixed (s : State) (t : BlockId) (off : Nat) (o : BarObj) : (s.setBar t off o).ground.fixed = s.ground.fixed := by
  unfold setBar
  split <;> simp

@[simp] theorem flipBar_fixed (s : State) (t : BlockId) (k : Nat) (o : BarObj) : (s.flipBar t k o).ground.fixed = s.ground.fixed := by
  simp [flipBar]

@[simp] theorem breakBar_fixed (s : State) (t : BlockId) (k : Nat) : (s.breakBar t k).ground.fixed = s.ground.fixed := by
  unfold breakBar
  split <;> simp

@[simp] theorem breakGang_fixed (s : State) (b : BlockId) : (s.breakGang b).ground.fixed = s.ground.fixed := by
  unfold breakGang
  extract_lets mates bars
  rw [foldl_ground _ fun s x => evalEvents_ground ..]
  refine foldl_fixed _ (fun s x => foldl_fixed _ (fun s k => ?_) _ _) _ _
  dsimp only
  repeat' split
  all_goals simp

/-! Contexts. -/

@[simp] theorem writeWarp_fixed (s : State) (b : Block) (w : Warp) : (s.writeWarp b w).ground.fixed = s.ground.fixed := deviceWrite_fixed ..

@[simp] theorem intoHandler_fixed (s : State) (i : WarpId) (w : Warp) (b : Block) (a : DWord) (m : Mask) :
    (s.intoHandler i w b a m).ground.fixed = s.ground.fixed := by simp [intoHandler]

@[simp] theorem markLost_fixed (s : State) (b : BlockId) : (s.markLost b).ground.fixed = s.ground.fixed := by
  unfold markLost
  split <;> simp

@[simp] theorem loseBlock_fixed (s : State) (b : BlockId) : (s.loseBlock b).ground.fixed = s.ground.fixed := by simp [loseBlock]

@[simp] theorem deliver_fixed (s : State) (i : WarpId) (w : Warp) (b : Block) (t : TrapRec) (d : Bool) :
    (s.deliver i w b t d).ground.fixed = s.ground.fixed := by
  unfold deliver
  dsimp only
  repeat' split
  all_goals simp

@[simp] theorem decline_fixed (s : State) (i : WarpId) (w : Warp) (b : Block) (f : List Byte) :
    (s.decline i w b f).ground.fixed = s.ground.fixed := by simp [decline]

@[simp] theorem resume_fixed (s : State) (i : WarpId) : (s.resume i).ground.fixed = s.ground.fixed := by
  unfold resume
  split
  · rfl
  · next w _ =>
    split
    · rfl
    · next b _ =>
      dsimp only
      have hf := frameOf_keeps s i.core (s.frameBytesOf b w)
      split
      · rfl
      · split
        · simp
        · split
          · next t hr =>
            rw [hr] at hf
            have ht : t.ground.fixed = s.ground.fixed := hf
            simp [ht]
          · next t hr =>
            rw [hr] at hf
            have ht : t.ground.fixed = s.ground.fixed := hf
            simp [ht]
          · simp

/-! Blocks that come to a core. -/

@[simp] theorem loadWarp_ground (s : State) (b : BlockId) (k : Block) (n slot : Nat) : (s.loadWarp b k n slot).ground = s.ground := by
  unfold loadWarp
  dsimp only
  rw [foldl_ground _ fun s x => by split <;> simp]
  rw [updCore_ground, setWarp_ground]
  rfl

@[simp] theorem loadBlock_fixed (s : State) (b : BlockId) (k : Block) (l : List Nat) : (s.loadBlock b k l).ground.fixed = s.ground.fixed := by
  simp [loadBlock]

@[simp] theorem restoreBlock_fixed (s : State) (g : GangRef) (c : CoreId) (j : Nat) (x : Word) :
    (s.restoreBlock g c j x).ground.fixed = s.ground.fixed := by
  unfold restoreBlock
  dsimp only
  split <;> simp

@[simp] theorem startBlock_fixed (s : State) (l : Launch) (g : GangRef) (c : CoreId) (j heap : Nat) (x : Word) :
    (s.startBlock l g c j heap x).ground.fixed = s.ground.fixed := by simp [startBlock]

theorem commitReservation_fixed {s t : State} {k : BrokerId} {r : Reservation} {x : Word} (h : s.commitReservation k r x = some t) :
    t.ground.fixed = s.ground.fixed := by
  unfold commitReservation at h
  split at h
  · rw [← Option.some.inj h]
    simp
  · dsimp only at h
    split at h
    · rw [← Option.some.inj h]
      simp
    · split at h
      · contradiction
      · rw [← Option.some.inj h]
        simp

@[simp] theorem commitHalves_fixed (s : State) (d : DieId) : (s.commitHalves d).ground.fixed = s.ground.fixed := by
  refine foldl_fixed _ (fun s r => ?_) _ _
  cases h : s.commitReservation (dieBroker d) r (s.straddleOf d r) with
  | none => simp
  | some t => exact commitReservation_fixed h

end State

end Sys2Proof.Machine
end

section
/-! PROOFS. The end of blocks and of launches, and the loss of a die (R162, R262): what is fixed stays, but for the die that is lost. -/

open Sys2Proof Sys2Proof.Machine

namespace Sys2Proof.Machine

theorem tget?_map {κ α β : Type} [DecidableEq κ] (f : α → β) (t : Tab κ α) (k : κ) :
    tget? (t.map fun x => (x.1, f x.2)) k = (tget? t k).map f := by
  induction t with
  | nil => rfl
  | cons x t ih =>
    rw [List.map_cons, tget?, tget?, ih]
    split <;> rfl

/-- A die at which no core of another die has a line pinned. -/
def Die.unpinned (k : Die) (d : DieId) : Die := { k with pins := k.pins.filter fun y => y.2.dieId != d }

/-- What is fixed, with one die lost. -/
def Fixed.losing (f : Fixed) (d : DieId) : Fixed := { f with dead := fun e => if e = d then true else f.dead e }

theorem Fixed.losing_of_dead (f : Fixed) (d : DieId) (h : f.dead d = true) : f.losing d = f := by
  have hd : (fun e => if e = d then true else f.dead e) = f.dead := funext fun e => by
    split
    · next he => rw [he, h]
    · rfl
  rw [losing, hd]

namespace State

/-! Launches that end. -/

@[simp] theorem retireLaunch_fixed (s : State) (h : Nat) (l : Launch) : (s.retireLaunch h l).ground.fixed = s.ground.fixed := by
  have hr : (s.regPut (s.entryPool h + 192) (leBytes 1 2)).ground.fixed = s.ground.fixed := regPut_fixed ..
  unfold retireLaunch
  dsimp only
  split
  · rw [postOnce_ground]
    split
    · rw [post_ground]
      split
      · exact hr
      · exact hr
    · split
      · exact hr
      · exact hr
  · rw [postOnce_ground]
    exact hr
  · exact hr

@[simp] theorem tryComplete_fixed (s : State) (h : Nat) : (s.tryComplete h).ground.fixed = s.ground.fixed := by
  unfold tryComplete
  split
  · rfl
  · split
    · rfl
    · dsimp only
      split
      · simp
      · next hw =>
        have hr := writeRecord_fixed hw
        split
        · next hc => rw [retireLaunch_fixed, completeSignal_fixed hc, hr]
        · simp [hr]

@[simp] theorem addDone_fixed (s : State) (h n m : Nat) : (s.addDone h n m).ground.fixed = s.ground.fixed := by simp [addDone]

@[simp] theorem report_fixed (s : State) (k : BrokerId) (h : Nat) : (s.report k h).ground.fixed = s.ground.fixed := by
  unfold report
  extract_lets sh t child
  split
  · rfl
  · split
    · simp
    · split <;> simp [t]

@[simp] theorem count_fixed (s : State) (k : BrokerId) (h n m : Nat) : (s.count k h n m).ground.fixed = s.ground.fixed := by simp [count]

/-! Blocks that end. -/

theorem execBlockRetire_fixed {s t : State} (h : execBlockRetire s = .next t) : t.ground.fixed = s.ground.fixed := by
  obtain rfl := Host.Outcome.next.inj h
  split
  · rfl
  · next k _ =>
    extract_lets lost ws dead later t₁ ws' t₂ k' scope t₃ t₄ t₅ t₆ t₇ d
    have h₁ : t₁.ground = s.ground := by
      unfold t₁
      split <;> simp
    have h₂ : t₂.ground = s.ground := by
      rw [← h₁]
      unfold t₂
      split <;> simp
    have h₃ : t₃.ground = s.ground := by
      rw [← h₂]
      unfold t₃
      split <;> simp
    have h₅ : t₅.ground = s.ground := by simp [t₅, t₄, h₃]
    have h₆ : t₆.ground.fixed = s.ground.fixed := by
      rw [← h₅]
      unfold t₆
      split
      · simp
      · rfl
    have h₇ : t₇.ground.fixed = s.ground.fixed := by simp [t₇, h₆]
    split_ifs <;> simp [later, h₂, h₃, h₇]

theorem runNow_fixed (s : State) (f : State → Result) (a : Arg) (h : ∀ u t : State, f u = .next t → t.ground.fixed = u.ground.fixed) :
    (s.runNow f a).ground.fixed = s.ground.fixed := by
  unfold runNow
  split
  · next t ht => exact h { s with arg := a } t ht
  · rfl

@[simp] theorem loseSaved_fixed (s : State) (b : BlockId) (k : Block) : (s.loseSaved b k).ground.fixed = s.ground.fixed := by
  unfold loseSaved
  dsimp only
  split <;> simp

@[simp] theorem loseShare_fixed (s : State) (k : BrokerId) (h : Nat) : (s.loseShare k h).ground.fixed = s.ground.fixed := by
  unfold loseShare
  split <;> simp

/-! A die that stops. -/

/-- A change of every die that keeps the loss of each. -/
theorem mapDies_lost (l : Tab DieId Die) (f : Die → Die) (h : ∀ k, (f k).lost = k.lost) (d : DieId) :
    (tget (l.map fun x => (x.1, f x.2)) d Die.reset).lost = (tget l d Die.reset).lost := by
  rw [tget, tget, tget?_map]
  cases tget? l d with
  | none => rfl
  | some k => exact h k

theorem updDie_losing (s : State) (d : DieId) (f : Die → Die) (h : ∀ k, (f k).lost = true) :
    (s.updDie d f).ground.fixed = s.ground.fixed.losing d := by
  have hd : (fun e => ((s.updDie d f).die e).lost) = fun e => if e = d then true else (s.die e).lost := funext fun e => by
    by_cases he : e = d
    · rw [he, updDie_die_self, h, if_pos rfl]
    · rw [updDie_die_ne s d e f he, if_neg he]
  exact congrArg (fun g => { s.ground.fixed with dead := g }) hd

/-- A die that stops is lost, no other is, and the rest of what is fixed stays. -/
theorem stopDie_fixed (s : State) (d : DieId) : (s.stopDie d).ground.fixed = s.ground.fixed.losing d := by
  unfold stopDie
  split
  · next h => exact (Fixed.losing_of_dead _ d h).symm
  · extract_lets k t₁ t₂ t₃ here t₄ t₅ saved t₆ t₇ t₈ t₉ t₁₀
    have h₂ : t₂.ground.fixed = s.ground.fixed.losing d := by
      rw [← commitHalves_fixed s d]
      exact updDie_losing _ _ _ fun k => rfl
    have h₄ : t₄.ground.fixed = t₂.ground.fixed := by simp [t₄, t₃]
    have h₅ : t₅.ground.fixed = t₄.ground.fixed :=
      foldl_fixed _ (fun s x => runNow_fixed s _ _ fun u t h => execBlockRetire_fixed h) _ _
    have h₇ : t₇.ground.fixed = t₅.ground.fixed := by simp [t₇, t₆]
    clear_value t₇
    have h₈ : t₈.ground.fixed = t₇.ground.fixed :=
      congrArg (fun g => { t₇.ground.fixed with dead := g }) (funext fun e => mapDies_lost t₇.dies (·.unpinned d) (fun k => rfl) e)
    have h₁₀ : t₁₀.ground = t₈.ground := by simp [t₁₀, t₉]
    rw [← h₂, ← h₄, ← h₅, ← h₇, ← h₈, ← h₁₀]
    split
    · split <;> simp
    · rfl

theorem pokePkg_cores (s : State) (p : Nat) : (s.pokePkg p).cores = s.cores :=
  foldl_keeps State.cores _ (fun s d => by simp [poke]) _ _

/-- No core of a die that stops is left. -/
theorem stopDie_cores (s : State) (d : DieId) (h : (s.die d).lost = false) (x : CoreId × Core) (hx : x ∈ (s.stopDie d).cores) :
    x.1.dieId ≠ d := by
  unfold stopDie at hx
  rw [if_neg (by simp [h])] at hx
  extract_lets k t₁ t₂ t₃ here t₄ t₅ saved t₆ t₇ t₈ t₉ t₁₀ at hx
  clear_value t₇
  have h₁₀ : t₁₀.cores = t₈.cores := by
    unfold t₁₀ t₉
    rw [pokePkg_cores]
    exact foldl_keeps State.cores _ (fun s x => by simp [fireSlots]) _ _
  have hin : x ∈ t₁₀.cores := by
    split at hx
    · split at hx
      · simpa using hx
      · exact hx
    · exact hx
  rw [h₁₀] at hin
  simpa using (List.mem_filter.mp hin).2

end State

end Sys2Proof.Machine
end

section
/-! PROOFS. The loss of a die and of a package (R102, R105, R128, R129, R162, R163). -/

open Sys2Proof Sys2Proof.Machine

namespace Sys2Proof.Machine

/-- What is fixed, apart from the loss of dies. -/
def Fixed.besideDies (f : Fixed) : Fixed := { f with dead := fun _ => false }

@[simp] theorem Fixed.losing_besideDies (f : Fixed) (d : DieId) : (f.losing d).besideDies = f.besideDies := (rfl)

theorem Fixed.losing_dead_self (f : Fixed) (d : DieId) : (f.losing d).dead d = true := if_pos rfl

theorem Fixed.losing_dead (f : Fixed) (d e : DieId) (h : f.dead e = true) : (f.losing d).dead e = true := by
  unfold losing
  dsimp only
  split
  · rfl
  · exact h

namespace State

theorem dom_of_besideDies {s t : State} (h : t.ground.fixed.besideDies = s.ground.fixed.besideDies) : t.dom = s.dom :=
  congrArg Fixed.dom h

theorem flash_of_besideDies {s t : State} (h : t.ground.fixed.besideDies = s.ground.fixed.besideDies) (p : Nat) :
    (t.pkg p).flashed = (s.pkg p).flashed := congrFun (congrArg Fixed.flash h) p

/-! Dies visited one after another. -/

/-- Visiting the dies of a package gives each what its visit gives it, where no other visit takes it away. -/
theorem foldl_dies (P : Nat → Die → Prop) (f : State → Nat → State) (p : Nat) (hset : ∀ s d, P d ((f s d).die { pkg := p, die := d }))
    (hkeep : ∀ s d e, P e (s.die { pkg := p, die := e }) → P e ((f s d).die { pkg := p, die := e })) (l : List Nat) :
    ∀ (s : State) (d : Nat), d ∈ l ∨ P d (s.die { pkg := p, die := d }) → P d ((l.foldl f s).die { pkg := p, die := d }) := by
  induction l with
  | nil => exact fun s d hd => hd.resolve_left (by simp)
  | cons e l ih =>
    intro s d hd
    refine ih _ d ?_
    rcases hd with hd | hd
    · rcases List.mem_cons.mp hd with rfl | hd
      · exact Or.inr (hset ..)
      · exact Or.inl hd
    · exact Or.inr (hkeep _ _ _ hd)

/-! Dies. -/

theorem loseDie_fixed (s : State) (d : DieId) : (s.loseDie d).ground.fixed = s.ground.fixed.losing d := by
  unfold loseDie
  split
  · next h => exact (Fixed.losing_of_dead _ d h).symm
  · rw [stopDie_fixed, log_ground]

theorem loseDie_dead (s : State) (d : DieId) : ((s.loseDie d).die d).lost = true :=
  (congrFun (congrArg Fixed.dead (loseDie_fixed s d)) d).trans (Fixed.losing_dead_self ..)

/-- A die that is lost stays lost. -/
theorem loseDie_keeps_dead (s : State) (d e : DieId) (h : (s.die e).lost = true) : ((s.loseDie d).die e).lost = true :=
  (congrFun (congrArg Fixed.dead (loseDie_fixed s d)) e).trans (Fixed.losing_dead _ d e h)

/-- The dies of a package are all lost. -/
theorem loseDies_dead (s : State) (p d : Nat) (h : d < 4) : ((s.loseDies p).die { pkg := p, die := d }).lost = true :=
  foldl_dies (fun _ k => k.lost = true) _ p (fun _ _ => loseDie_dead ..) (fun _ _ _ h => loseDie_keeps_dead _ _ _ h) _ s d
    (Or.inl (List.mem_range.mpr h))

/-! Packages. -/

/-- A state whose ports go dark toward a lost package. -/
theorem darkenAll_ground (p : Nat) (l : List Nat) (s : State) : (l.foldl (fun (s : State) m =>
      if Sys2Proof.Machine.rowOf m = Sys2Proof.Machine.rowOf p || colOf m = colOf p then s.darken m (portTo m p) else s) s).ground = s.ground := by
  refine foldl_ground _ (fun s m => ?_) _ _
  split <;> simp

theorem freezeContexts_frozen (s : State) (c : Nat) : (s.freezeContexts c).frozen = true := by
  unfold freezeContexts
  dsimp only
  split
  · next h => simpa using h
  · rfl

theorem failOver_frozen (s : State) : s.failOver.frozen = true := by
  have hf := freezeContexts_frozen s 4
  unfold failOver
  dsimp only
  split
  · split
    · simpa using hf
    · exact hf
  · exact hf

theorem failOver_lost (s : State) : s.failOver.lost = s.lost := by
  have hl := lost_of_ground (freezeContexts_ground s 4)
  unfold failOver
  dsimp only
  split
  · split
    · simpa using hl
    · exact hl
  · exact hl

theorem failOver_flashed (s : State) (p : Nat) : (s.failOver.pkg p).flashed = (s.pkg p).flashed := by
  have hp := congrFun (congrArg Ground.flash (freezeContexts_ground s 4)) p
  unfold failOver
  dsimp only
  split
  · split
    · rw [postOnce_pkg]
      exact hp
    · exact hp
  · exact hp

theorem failOver_secondary (s : State) (h : s.dom.secondary = none) : s.failOver.dom.secondary = none := by
  have hd : (s.freezeContexts 4).dom.secondary = none := by rw [dom_of_ground (freezeContexts_ground ..), h]
  unfold failOver
  dsimp only
  split
  · next hs => simp [hd] at hs
  · exact hd

/-- What is left of the machine when a package has left its domain. -/
theorem losePackage_leaves (s : State) (p : Nat) (fatal : Bool) (h : s.isMember p = true) :
    let t := s.losePackage p fatal
    p ∈ t.lost ∧ (s.lead = p → (.standbyTakeover, {}) ∈ t.inflight) ∧ (s.dom.primary = p → t.frozen = true) ∧
      (s.dom.secondary = some p → t.dom.secondary = none) ∧ ∀ q, (t.pkg q).flashed = (s.pkg q).flashed := by
  unfold losePackage
  rw [if_neg (by simp [h])]
  extract_lets lead t₁ saved t₂ t₃ t₄ dom₄ t₆ t₇ t₈ t
  have h₁ : t₁.ground.fixed.besideDies = s.ground.fixed.besideDies := by
    refine foldl_keeps (fun s => s.ground.fixed.besideDies) _ (fun s d => ?_) _ s
    dsimp only
    split
    · rw [loseDie_fixed, Fixed.losing_besideDies]
    · rw [stopDie_fixed, Fixed.losing_besideDies]
  have h₂ : t₂.ground.fixed.besideDies = s.ground.fixed.besideDies := by
    have hsaved : t₂.ground.fixed = t₁.ground.fixed := by simp [t₂]
    rw [hsaved, h₁]
  clear_value t₂
  have h₃ : t₃.ground = { t₂.ground with lost := p :: t₂.lost } := by
    unfold t₃
    rw [dropBrokers_ground]
    rfl
  clear_value t₃
  have h₄ : t₄.ground = { t₂.ground with lost := p :: t₂.lost } := (darkenAll_ground p _ t₃).trans h₃
  clear_value t₄
  have hlost₄ : t₄.lost = p :: t₂.lost := congrArg Ground.lost h₄
  have hdom₄ : t₄.dom = s.dom := (congrArg Ground.dom h₄).trans (dom_of_besideDies h₂)
  have hflash₄ : ∀ q, (t₄.pkg q).flashed = (s.pkg q).flashed := fun q =>
    (congrFun (congrArg Ground.flash h₄) q).trans (flash_of_besideDies h₂ q)
  have h₆ : t₆.lost = t₄.lost ∧ t₆.dom.primary = s.dom.primary ∧ (s.dom.secondary = some p → t₆.dom.secondary = none) ∧
      ∀ q, (t₆.pkg q).flashed = (s.pkg q).flashed := by
    unfold t₆ dom₄
    rw [hdom₄]
    split
    · exact ⟨rfl, rfl, fun _ => rfl, hflash₄⟩
    · next hs => exact ⟨rfl, by rw [hdom₄], fun h => absurd h hs, hflash₄⟩
  obtain ⟨hlost₆, hprimary₆, hsecondary₆, hflash₆⟩ := h₆
  clear_value t₆
  have h₇ : t₇.lost = t₄.lost ∧ (s.dom.primary = p → t₇.frozen = true) ∧ (s.dom.secondary = some p → t₇.dom.secondary = none) ∧
      ∀ q, (t₇.pkg q).flashed = (s.pkg q).flashed := by
    unfold t₇
    rw [hprimary₆]
    split
    · exact ⟨(failOver_lost _).trans hlost₆, fun _ => failOver_frozen _, fun h => failOver_secondary _ (hsecondary₆ h),
        fun q => (failOver_flashed _ q).trans (hflash₆ q)⟩
    · next hp => exact ⟨hlost₆, fun h => absurd h hp, hsecondary₆, hflash₆⟩
  obtain ⟨hlost₇, hfrozen₇, hsecondary₇, hflash₇⟩ := h₇
  clear_value t₇
  have h₈ : t₈.ground = t₇.ground ∧ t₈.frozen = t₇.frozen ∧ (s.lead = p → (.standbyTakeover, {}) ∈ t₈.inflight) := by
    unfold t₈
    split
    · exact ⟨rfl, rfl, fun _ => mem_post ..⟩
    · next hl => exact ⟨rfl, rfl, fun h => absurd h hl⟩
  obtain ⟨hground₈, hfrozen₈, htake₈⟩ := h₈
  clear_value t₈
  have h₉ : t.ground = t₈.ground ∧ t.frozen = t₈.frozen ∧ ∀ e, e ∈ t₈.inflight → e ∈ t.inflight := by
    unfold t
    split
    · split
      · exact ⟨postOnce_ground .., postOnce_frozen .., fun e he => mem_postOnce_of_mem _ _ he⟩
      · exact ⟨rfl, rfl, fun e he => he⟩
    · exact ⟨rfl, rfl, fun e he => he⟩
  obtain ⟨hground, hfrozen, hin⟩ := h₉
  have hg : t.ground = t₇.ground := hground.trans hground₈
  exact ⟨by simp [lost_of_ground hg, hlost₇, hlost₄], fun h => hin _ (htake₈ h), fun h => by rw [hfrozen, hfrozen₈, hfrozen₇ h],
    fun h => by rw [dom_of_ground hg, hsecondary₇ h], fun q => (congrFun (congrArg Ground.flash hg) q).trans (hflash₇ q)⟩

/-- The loss of a package leaves every package's objects and KIMAGE. -/
theorem losePackage_flashed (s : State) (p : Nat) (fatal : Bool) (q : Nat) : ((s.losePackage p fatal).pkg q).flashed = (s.pkg q).flashed := by
  cases h : s.isMember p with
  | true =>
    obtain ⟨-, -, -, -, hf⟩ := losePackage_leaves s p fatal h
    exact hf q
  | false => simp [losePackage, h]

theorem losePackage_of_not_member (s : State) (p : Nat) (fatal : Bool) (h : s.isMember p = false) : s.losePackage p fatal = s := by
  simp [losePackage, h]

end State

end Sys2Proof.Machine
end

section
/-! PROOFS. Signed objects (R109), a package's reset (R119), and the steps of its boot (R111). -/

open Sys2Proof Sys2Proof.Machine

namespace Sys2Proof.Machine

/-- What an object that verifies is. -/
theorem objectOk_iff (kind n : Nat) (bs : List Byte) : objectOk kind n bs = true ↔
    field bs 0 2 = kind ∧ Config.formatOk kind (field bs 2 2) = true ∧ field bs 16 48 = 0 ∧ 16720 + field bs 8 8 ≤ bs.length ∧
      n ≤ field bs 4 4 ∧
      let digest := Config.sha384 (bs.take 64 ++ (bs.drop 16720).take (field bs 8 8))
      (bs.drop 64).take 48 = digest ∧ Config.rsaOk digest ((bs.drop 112).take 384) = true ∧
        Config.slhOk digest ((bs.drop 496).take 16224) = true := by
  unfold objectOk checkObject objectKind objectSize objectBody objectVersion objectHeader
  dsimp only
  generalize Config.sha384 _ = want
  generalize List.take 48 (List.drop 64 bs) = digest
  split_ifs with hform hdigest hsign hversion
  · refine iff_of_false (by decide) fun ⟨hk, hf, hz, hl, _⟩ => ?_
    simp [hk, hf, hz] at hform
    omega
  · exact iff_of_false (by decide) fun ⟨_, _, _, _, _, hd, _⟩ => by simp [hd] at hdigest
  · exact iff_of_false (by decide) fun ⟨_, _, _, _, _, hd, hr, hs⟩ => by simp [hd, hr, hs] at hsign
  · exact iff_of_false (by decide) fun ⟨_, _, _, _, hn, _⟩ => by omega
  · simp only [Bool.or_eq_true, bne_iff_ne, ne_eq, Bool.not_eq_true', decide_eq_true_eq, not_or, not_not, Bool.not_eq_false] at hform hdigest hsign
    obtain ⟨⟨⟨hk, hf⟩, hz⟩, hl⟩ := hform
    obtain ⟨hr, hs⟩ := hsign
    subst hdigest
    exact iff_of_true rfl ⟨hk, hf, hz, by omega, by omega, rfl, hr, hs⟩

/-- The package that a reset leaves, of what was there when it had left its domain. -/
def Package.cleared (k : Package) (warm : Bool) : Package :=
  { Package.reset with
    record := k.record, flash := k.flash, written := k.written, kimageL := k.kimageL, kimageH := k.kimageH
    events := if warm then k.events else [], evNext := if warm then k.evNext else 0, time := k.time }

/-- The die that a reset leaves. -/
def Die.cleared (k : Die) (warm : Bool) : Die :=
  { Die.reset with tagged := if warm then k.tagged else [], lost := warm && k.lost }

namespace State

theorem flashObject_congr {s t : State} {p : Nat} (h : (t.pkg p).written = (s.pkg p).written) (n : Nat) : t.flashObject p n = s.flashObject p n := by
  rw [flashObject, flashObject, h]

/-! The reset of a package (R119). -/

/-- A die is reset; but for a warm reset its near memory is wiped. -/
def clearDie (s : State) (d : DieId) (k : Die) (warm : Bool) : State :=
  let s := s.setDie d (k.cleared warm)
  if warm then s else s.wipeNear d

theorem clearDie_pkg (s : State) (d : DieId) (k : Die) (warm : Bool) (p : Nat) : (s.clearDie d k warm).pkg p = s.pkg p := by
  unfold clearDie
  dsimp only
  split <;> rfl

theorem clearDie_die (s : State) (d e : DieId) (k : Die) (warm : Bool) : (s.clearDie d k warm).die e = (s.setDie d (k.cleared warm)).die e := by
  unfold clearDie
  dsimp only
  split <;> rfl

/-- The state that a reset leaves. -/
def clearPkg (s : State) (p : Nat) (warm : Bool) (was : List Die) : State :=
  (List.range 4).foldl (fun (s : State) d => s.clearDie { pkg := p, die := d } (was.getD d Die.reset) warm) (s.setPkg p ((s.pkg p).cleared warm))

theorem resetPackage_eq (s : State) (p : Nat) (warm : Bool) :
    let was := (List.range 4).map fun d => s.die { pkg := p, die := d }
    let u := (s.losePackage p false).clearPkg p warm was
    s.resetPackage p warm = { u with
      poisoned := if warm then u.poisoned else u.poisoned.filter fun n => decide (n < (linesOf p).1) || decide ((linesOf p).2 ≤ n)
      cores := u.cores.filter (·.1.pkg != p), lost := u.lost.filter (· != p)
      dom := { u.dom with release := u.dom.release.filter (· != p) } } := rfl

end State

end Sys2Proof.Machine
end

section
/-! PROOFS. The steps of boot, from the reset of a package on (R109-R111, R119). -/

open Sys2Proof Sys2Proof.Machine

namespace Sys2Proof.Machine

namespace State

@[simp] theorem updDie_pkg (s : State) (d : DieId) (f : Die → Die) (p : Nat) : (s.updDie d f).pkg p = s.pkg p := rfl
@[simp] theorem updPkg_die (s : State) (p : Nat) (f : Package → Package) (d : DieId) : (s.updPkg p f).die d = s.die d := rfl

/-! What a reset leaves. -/

section
variable (s : State) (p : Nat) (warm : Bool)

theorem clearPkg_pkg (was : List Die) : (s.clearPkg p warm was).pkg p = (s.pkg p).cleared warm :=
  (foldl_keeps (·.pkg p) _ (fun _ _ => clearDie_pkg ..) _ _).trans (setPkg_pkg_self ..)

theorem clearPkg_die (was : List Die) (d : Nat) (h : d < 4) :
    (s.clearPkg p warm was).die { pkg := p, die := d } = (was.getD d Die.reset).cleared warm := by
  refine foldl_dies (fun d k => k = (was.getD d Die.reset).cleared warm) _ p (fun _ d => ?_) (fun _ d e he => ?_) _ _ d
    (Or.inl (List.mem_range.mpr h))
  · rw [clearDie_die, setDie_die_self]
  · rw [clearDie_die]
    by_cases hde : e = d
    · rw [hde, setDie_die_self]
    · rw [setDie_die_ne _ _ _ _ (by simpa using hde), he]

theorem clearPkg_mem (was : List Die) : (s.clearPkg p true was).mem = s.mem := by
  unfold clearPkg
  exact foldl_keeps State.mem (fun s d => s.clearDie { pkg := p, die := d } (was.getD d Die.reset) true) (fun s d => rfl) _ _

theorem resetPackage_pkg : (s.resetPackage p warm).pkg p = ((s.losePackage p false).pkg p).cleared warm := by
  rw [resetPackage_eq]
  exact clearPkg_pkg ..

theorem resetPackage_flashed : ((s.resetPackage p warm).pkg p).flashed = (s.pkg p).flashed := by
  rw [resetPackage_pkg, ← losePackage_flashed s p false p]
  rfl

theorem resetPackage_die (d : Nat) (h : d < 4) :
    (s.resetPackage p warm).die { pkg := p, die := d } = (s.die { pkg := p, die := d }).cleared warm := by
  rw [resetPackage_eq]
  refine (clearPkg_die _ p warm _ d h).trans ?_
  simp [List.getD_eq_getElem?_getD, h]

theorem resetPackage_release : p ∉ (s.resetPackage p warm).dom.release := by
  rw [resetPackage_eq]
  simp

theorem resetPackage_poisoned (n : Nat) (hlo : (linesOf p).1 ≤ n) (hhi : n < (linesOf p).2) : n ∉ (s.resetPackage p false).poisoned := by
  rw [resetPackage_eq]
  simp [hlo, hhi]

theorem resetPackage_mem (h : s.isMember p = false) : (s.resetPackage p true).mem = s.mem := by
  rw [resetPackage_eq, losePackage_of_not_member s p false h]
  exact clearPkg_mem s p ((List.range 4).map fun d => s.die { pkg := p, die := d })

end

/-! The steps of boot. -/

section
variable (s : State) (p : Nat)

/-- The state in which the configuration record is in use and an image runs. -/
def imaged : State :=
  ((s.deriveKeys p).updPkg p fun k => { k with record := recordOf ((s.deriveKeys p).flashObject p 2) }).startComplexes p

/-- The dies of a package are released, with the positions that its record says work. -/
def releaseDies : State :=
  (List.range 4).foldl (fun (t : State) d => t.updDie { pkg := p, die := d } fun x => { x with
    released := true, working := (s.pkg p).record.working.getD d allPositions }) s

/-- That no release changes the record makes it the one of the package before the first. -/
theorem releaseDies_eq : (List.range 4).foldl (fun (s : State) d => s.updDie { pkg := p, die := d } fun x => { x with
    released := true, working := (s.pkg p).record.working.getD d allPositions }) s = s.releaseDies p := rfl

/-- The state in which the package's dies are released. -/
def imagedDies : State := (s.imaged p).releaseDies p

theorem deriveKeys_flashObject (n : Nat) : (s.deriveKeys p).flashObject p n = s.flashObject p n := flashObject_congr (by simp [deriveKeys]) n

theorem deriveKeys_recordCheck : (s.deriveKeys p).recordCheck p = s.recordCheck p := by
  rw [recordCheck, recordCheck, deriveKeys_flashObject]

/-- The check of an image under the record in flash. -/
def flashCheck (n : Nat) : Nat := checkObject 1 (recordOf (s.flashObject p 2)).minFw (s.flashObject p n)

theorem recorded_imageCheck (n : Nat) :
    ((s.deriveKeys p).updPkg p fun k => { k with record := recordOf ((s.deriveKeys p).flashObject p 2) }).imageCheck p n = s.flashCheck p n := by
  rw [imageCheck, updPkg_pkg_self, flashCheck, deriveKeys_flashObject]
  exact congrArg (checkObject 1 _) (flashObject_congr (by simp [deriveKeys]) n)

theorem boot_badRecord (h : s.recordCheck p ≠ 0) : s.boot p = (s.deriveKeys p).bootFails p 1 (s.recordCheck p) := by
  unfold boot
  dsimp only
  rw [deriveKeys_recordCheck, if_pos (by simpa using h)]

theorem boot_badImages (h : s.recordCheck p = 0) (ha : s.flashCheck p 0 ≠ 0) (hb : s.flashCheck p 1 ≠ 0) :
    s.boot p = ((s.deriveKeys p).updPkg p fun k => { k with record := recordOf ((s.deriveKeys p).flashObject p 2) }).bootFails p 2
      (s.flashCheck p 0) := by
  unfold boot
  dsimp only
  rw [deriveKeys_recordCheck, if_neg (by simpa using h), recorded_imageCheck, recorded_imageCheck, if_pos (by simpa using ⟨ha, hb⟩)]

theorem boot_image (h : s.recordCheck p = 0) (hi : s.flashCheck p 0 = 0 ∨ s.flashCheck p 1 = 0) :
    s.boot p = if (s.imagedDies p).kernelOk p then (s.imagedDies p).kernelRuns p
      else ((s.imagedDies p).updPkg p fun k => { k with bootFail := 5 }).kernelBad p 5 := by
  unfold boot
  dsimp only
  rw [deriveKeys_recordCheck, if_neg (by simpa using h), recorded_imageCheck, recorded_imageCheck,
    if_neg (by rcases hi with hi | hi <;> simp [hi])]
  rw [releaseDies_eq]
  rfl

theorem bootFails_leaves (step check : Nat) : ((s.bootFails p step check).pkg p).bootState = 3 ∧
    ((s.bootFails p step check).pkg p).bootFail = step ∧ ((s.bootFails p step check).pkg p).events.getLast?.map (·.code) = some 0x81 :=
  ⟨by simp [bootFails, log], by simp [bootFails, log], log_lastCode ..⟩

theorem imagedDies_pkg : (s.imagedDies p).pkg p = (s.imaged p).pkg p := by
  unfold imagedDies releaseDies
  exact foldl_keeps (·.pkg p) _ (fun _ _ => updDie_pkg ..) _ _

theorem measure_pkg (n : Nat) (bs : List Byte) : (s.measure p n bs).pkg p = { s.pkg p with
    enclave := { (s.pkg p).enclave with measures := tset (s.pkg p).enclave.measures n (Config.sha384 bs) } } := updPkg_pkg_self ..

/-- The package once its complexes run an image. -/
theorem startComplexes_pkg : let b := s.imageCheck p 0 != 0
    let active := s.flashObject p (if b then 1 else 0)
    let other := s.flashObject p (if b then 0 else 1)
    let k := s.pkg p
    (s.startComplexes p).pkg p = { k with
      bootState := 1, activeB := b, standbyOk := !b && s.imageCheck p 1 == 0, fwVersion := objectVersion active
      standbyVersion := objectVersion other, mirror := { k.mirror with format := Config.tableFormat active }, guarded := Config.firmwareMemory p
      enclave := { k.enclave with measures := tset (tset (tset (tset k.enclave.measures 1 (Config.sha384 Config.rom)) 2
        (Config.sha384 (s.flashObject p 2))) 3 (Config.sha384 active)) 4 (Config.sha384 other) } } := by
  extract_lets b active other k
  have hrecord : ∀ t : State, (t.pkg p).written = k.written → t.flashObject p 2 = s.flashObject p 2 := fun t h => flashObject_congr h 2
  unfold startComplexes
  extract_lets t
  have ht : t.pkg p = _ := updPkg_pkg_self ..
  simp only [measure_pkg]
  rw [hrecord _ (by rw [ht]), ht]

/-- The package once an image runs. -/
theorem imaged_leaves : let k := (s.imaged p).pkg p
    k.bootState = 1 ∧ k.bootFail = (s.pkg p).bootFail ∧ k.powerCap = (s.pkg p).powerCap ∧ k.record = recordOf (s.flashObject p 2) ∧
    k.events = (s.pkg p).events ∧ k.evNext = (s.pkg p).evNext ∧ k.flashed = (s.pkg p).flashed ∧
    k.activeB = decide (s.flashCheck p 0 ≠ 0) ∧ k.standbyOk = decide (s.flashCheck p 0 = 0 ∧ s.flashCheck p 1 = 0) ∧
    k.fwVersion = field (s.flashObject p (if s.flashCheck p 0 = 0 then 0 else 1)) 4 4 ∧
    tget? k.enclave.measures 1 = some (Config.sha384 Config.rom) ∧
    tget? k.enclave.measures 2 = some (Config.sha384 (s.flashObject p 2)) ∧
    tget? k.enclave.measures 3 = some (Config.sha384 (s.flashObject p (if s.flashCheck p 0 = 0 then 0 else 1))) := by
  unfold imaged
  generalize hu : ((s.deriveKeys p).updPkg p fun k => { k with record := recordOf ((s.deriveKeys p).flashObject p 2) }) = u
  have hcheck : ∀ n, u.imageCheck p n = s.flashCheck p n := fun n => hu ▸ recorded_imageCheck s p n
  have hpkg : u.pkg p = { (s.deriveKeys p).pkg p with record := recordOf (s.flashObject p 2) } := by
    rw [← hu, updPkg_pkg_self, deriveKeys_flashObject]
  have hobj : ∀ n, u.flashObject p n = s.flashObject p n := flashObject_congr (by rw [hpkg]; simp [deriveKeys])
  have hk := startComplexes_pkg u p
  simp only [hcheck, hobj, hpkg] at hk
  rw [hk]
  refine ⟨rfl, by simp [deriveKeys], by simp [deriveKeys], rfl, by simp [deriveKeys], by simp [deriveKeys],
    by simp [deriveKeys, Package.flashed], ?_, ?_, ?_, ?_, ?_, ?_⟩
  all_goals
    clear hk
    by_cases hz : s.flashCheck p 0 = 0 <;> simp [hz, objectVersion, tget?_tset_ne, beq_eq_decide]

end

end State

end Sys2Proof.Machine
end

section
/-! PROOFS. What a boot leaves (R91, R109-R113, R119). -/

open Sys2Proof Sys2Proof.Machine

namespace Sys2Proof.Machine

namespace State

section
variable (s : State) (p : Nat)

theorem kernelImage_congr {s t : State} {p : Nat} (hf : (t.pkg p).flashed = (s.pkg p).flashed) (hm : t.mem = s.mem) :
    t.kernelImage p = s.kernelImage p := by
  obtain ⟨hw, hl, hh⟩ : (t.pkg p).written = (s.pkg p).written ∧
      (t.pkg p).kimageL = (s.pkg p).kimageL ∧ (t.pkg p).kimageH = (s.pkg p).kimageH := by
    simpa [Package.flashed] using hf
  have hb : t.bootBytes p = s.bootBytes p := funext fun a => funext fun n => by rw [bootBytes, bootBytes, hm]
  rw [kernelImage, kernelImage, hl, hh, flashObject_congr hw, hb]

/-- With no image named in memory, the kernel is the one in flash. -/
theorem kernelImage_of_zero (h : pairVal (s.pkg p).kimageL (s.pkg p).kimageH = 0) : s.kernelImage p = some (s.flashObject p 3) := by
  simp [kernelImage, h]

theorem imaged_mem : (s.imaged p).mem = s.mem := by simp [imaged, startComplexes, measure, deriveKeys]
theorem imaged_dom : (s.imaged p).dom = s.dom := by simp [imaged, startComplexes, measure, deriveKeys]
theorem imaged_poisoned : (s.imaged p).poisoned = s.poisoned := by simp [imaged, startComplexes, measure, deriveKeys]
theorem imaged_die (d : DieId) : (s.imaged p).die d = s.die d := by simp [imaged, startComplexes, measure, deriveKeys]

theorem imagedDies_mem : (s.imagedDies p).mem = s.mem := by
  unfold imagedDies releaseDies
  rw [foldl_keeps mem _ fun _ _ => updDie_mem .., imaged_mem]

theorem imagedDies_dom : (s.imagedDies p).dom = s.dom := by
  unfold imagedDies releaseDies
  rw [foldl_keeps dom _ fun _ _ => updDie_dom .., imaged_dom]

theorem imagedDies_poisoned : (s.imagedDies p).poisoned = s.poisoned := by
  unfold imagedDies releaseDies
  rw [foldl_keeps poisoned _ fun _ _ => updDie_poisoned .., imaged_poisoned]

/-- A die that boot has released, and what it keeps of before. -/
def Released (s : State) (p d : Nat) (k : Die) : Prop :=
  k.released = true ∧ k.working = (recordOf (s.flashObject p 2)).working.getD d allPositions

theorem imagedDies_released (d : Nat) (h : d < 4) : s.Released p d ((s.imagedDies p).die { pkg := p, die := d }) := by
  obtain ⟨-, -, -, hrec, -⟩ := imaged_leaves s p
  unfold imagedDies releaseDies
  refine foldl_dies (s.Released p) _ p (fun t d => ?_) (fun t d e he => ?_) _ _ d (Or.inl (List.mem_range.mpr h))
  · rw [updDie_die_self, hrec]
    exact ⟨rfl, rfl⟩
  · by_cases hde : e = d
    · rw [hde, updDie_die_self, hrec]
      exact ⟨rfl, rfl⟩
    · rw [updDie_die_ne _ _ _ _ (by simpa using hde)]
      exact he

theorem updDie_view {α : Type} (view : Die → α) (d e : DieId) (f : Die → Die) (h : ∀ k, view (f k) = view k) :
    view ((s.updDie d f).die e) = view (s.die e) := by
  by_cases hde : e = d
  · rw [hde, updDie_die_self, h]
  · rw [updDie_die_ne _ _ _ _ hde]

/-- Of a die, boot changes only whether it is released and which of its positions work. -/
theorem imagedDies_view {α : Type} (view : Die → α) (h : ∀ k w, view { k with released := true, working := w } = view k) (e : DieId) :
    view ((s.imagedDies p).die e) = view (s.die e) := by
  unfold imagedDies releaseDies
  rw [foldl_keeps (fun t : State => view (t.die e)) _ fun t d => updDie_view t view _ e _ fun k => h k _, imaged_die]

/-- The kernel is checked under the record in flash, as the image that was there before the boot. -/
theorem imagedDies_kernelOk (im : List Byte) (h : s.kernelImage p = some im) :
    (s.imagedDies p).kernelImage p = some im ∧
      ((s.imagedDies p).kernelOk p = true ↔ checkObject 3 (recordOf (s.flashObject p 2)).minKernel im = 0) := by
  obtain ⟨-, -, -, hrec, -, -, hflash, -⟩ := imaged_leaves s p
  have him : (s.imagedDies p).kernelImage p = some im := by
    rw [kernelImage_congr (by rw [imagedDies_pkg, hflash]) (imagedDies_mem s p), h]
  refine ⟨him, ?_⟩
  rw [kernelOk, kernelCheck, him, imagedDies_pkg, hrec]
  exact beq_iff_eq

theorem kernelRuns_pkg (im : List Byte) (h : s.kernelImage p = some im) : (s.kernelRuns p).pkg p = { s.pkg p with
    enclave := { (s.pkg p).enclave with measures := tset (s.pkg p).enclave.measures 5 (Config.sha384 im) }
    host := { (s.pkg p).host with imageOk := true, running := true, failed := false, since := s.now } } := by
  rw [kernelRuns, h, updPkg_pkg_self, measure_pkg]
  rfl

theorem kernelRuns_dom : (s.kernelRuns p).dom = s.dom := by simp [kernelRuns, measure]
theorem kernelRuns_poisoned : (s.kernelRuns p).poisoned = s.poisoned := by simp [kernelRuns, measure]
theorem kernelRuns_die (d : DieId) : (s.kernelRuns p).die d = s.die d := by simp [kernelRuns, measure]

theorem kernelBad_pkg (step : Nat) : ((s.kernelBad p step).pkg p).host.running = false ∧
    ((s.kernelBad p step).pkg p).bootState = (s.pkg p).bootState ∧
    ((s.kernelBad p step).pkg p).bootFail = (s.pkg p).bootFail ∧
    ((s.kernelBad p step).pkg p).events.getLast?.map (·.code) = some 0x82 :=
  ⟨by simp [kernelBad, log], by simp [kernelBad, log], by simp [kernelBad, log], log_lastCode ..⟩

end

end State

/-- What a reset leaves of a package for its boot, with the record that is in flash then. -/
structure ResetFor (s : State) (p : Nat) (warm : Bool) (obj : List Byte) (u : State) : Prop where
  record : u.flashObject p 2 = obj
  flash : ∀ n, n ≠ 2 → u.flashObject p n = s.flashObject p n
  kimageL : (u.pkg p).kimageL = (s.pkg p).kimageL
  kimageH : (u.pkg p).kimageH = (s.pkg p).kimageH
  bootFail : (u.pkg p).bootFail = 0
  powerCap : (u.pkg p).powerCap = 2800
  release : p ∉ u.dom.release
  poisoned : warm = false → ∀ n, (State.linesOf p).1 ≤ n → n < (State.linesOf p).2 → n ∉ u.poisoned
  die : ∀ d, d < 4 → u.die { pkg := p, die := d } = (s.die { pkg := p, die := d }).cleared warm
  warm : warm = true → s.isMember p = false → u.mem = s.mem ∧ (u.pkg p).events = (s.pkg p).events ∧ (u.pkg p).evNext = (s.pkg p).evNext ∧
    (u.pkg p).flashed = (s.pkg p).flashed

theorem resetFor_resetPackage (s : State) (p : Nat) (warm : Bool) : ResetFor s p warm (s.flashObject p 2) (s.resetPackage p warm) := by
  have hf := State.resetPackage_flashed s p warm
  obtain ⟨hw, hl, hh⟩ : _ ∧ _ ∧ _ := by simpa [Package.flashed] using hf
  have hobj := State.flashObject_congr hw
  have hp := State.resetPackage_pkg s p warm
  exact {
    record := hobj 2
    flash := fun n _ => hobj n
    kimageL := hl
    kimageH := hh
    bootFail := by rw [hp]; rfl
    powerCap := by rw [hp]; rfl
    release := State.resetPackage_release s p warm
    poisoned := fun h => by subst h; exact State.resetPackage_poisoned s p
    die := State.resetPackage_die s p warm
    warm := fun h hm => by
      subst h
      rw [State.losePackage_of_not_member s p false hm] at hp
      exact ⟨State.resetPackage_mem s p hm, by rw [hp]; rfl, by rw [hp]; rfl, hf⟩ }

/-- A record written to flash takes the place of the one that was there. -/
theorem ResetFor.offer {s u : State} {p : Nat} {obj : List Byte} (h : ResetFor s p false obj u) (bs : List Byte) :
    ResetFor s p false bs (u.updPkg p fun k => { k with written := tset k.written 2 bs }) :=
  { record := by simp [State.flashObject]
    flash := fun n hn => by rw [← h.flash n hn]; simp [State.flashObject, tget?_tset_ne _ _ _ _ hn]
    kimageL := by rw [State.updPkg_pkg_self]; exact h.kimageL
    kimageH := by rw [State.updPkg_pkg_self]; exact h.kimageH
    bootFail := by rw [State.updPkg_pkg_self]; exact h.bootFail
    powerCap := by rw [State.updPkg_pkg_self]; exact h.powerCap
    release := h.release
    poisoned := h.poisoned
    die := h.die
    warm := fun h => absurd h (by decide) }

/-- A newer record takes the place of the one in flash (R110). -/
theorem resetFor_offerRecord (s : State) (p : Nat) (bs : List Byte) : ResetFor s p false
    (if objectOk 2 (recordOf (s.flashObject p 2)).minRecord bs = true ∧ (recordOf bs).follows (recordOf (s.flashObject p 2)) = true then bs
      else s.flashObject p 2) ((s.resetPackage p false).offerRecord p bs) := by
  have h := resetFor_resetPackage s p false
  unfold State.offerRecord
  dsimp only
  rw [h.record]
  simp only [Bool.and_eq_true]
  split
  · exact h.offer bs
  · exact h

end Sys2Proof.Machine
end

section
/-! PROOFS. PACKAGE_BOOT and WARM_RESET (R91, R111, R119): each way a boot ends. -/

open Sys2Proof Sys2Proof.Machine

namespace Sys2Proof.Machine

section
variable {s u : State} {p : Nat} {warm : Bool} {obj : List Byte} (h : ResetFor s p warm obj u)
include h

theorem ResetFor.recordCheck : u.recordCheck p = checkObject 2 (recordOf obj).minRecord obj := by
  rw [State.recordCheck, h.record]

theorem ResetFor.flashCheck (n : Nat) (hn : n ≠ 2) : u.flashCheck p n = checkObject 1 (recordOf obj).minFw (s.flashObject p n) := by
  rw [State.flashCheck, h.record, h.flash n hn]

/-- The kernel that boot checks: the one in flash, or, behind a warm reset of a package outside the domain, the one of before. -/
theorem ResetFor.kernelImage (im : List Byte)
    (him : pairVal (s.pkg p).kimageL (s.pkg p).kimageH = 0 ∧ im = s.flashObject p 3 ∨
      s.isMember p = false ∧ warm = true ∧ s.kernelImage p = some im) : u.kernelImage p = some im := by
  rcases him with ⟨h0, rfl⟩ | ⟨hm, hw, hi⟩
  · rw [State.kernelImage_of_zero _ _ (by rw [h.kimageL, h.kimageH, h0]), h.flash 3 (by decide)]
  · obtain ⟨hmem, -, -, hf⟩ := h.warm hw hm
    rw [State.kernelImage_congr hf hmem, hi]

theorem ResetFor.boot_badRecord (hr : checkObject 2 (recordOf obj).minRecord obj ≠ 0) : ((u.boot p).pkg p).bootState = 3 ∧
    ((u.boot p).pkg p).bootFail = 1 ∧ ((u.boot p).pkg p).events.getLast?.map (·.code) = some 0x81 := by
  rw [State.boot_badRecord _ _ (by rwa [h.recordCheck])]
  exact State.bootFails_leaves ..

theorem ResetFor.boot_badImages (hr : checkObject 2 (recordOf obj).minRecord obj = 0)
    (ha : checkObject 1 (recordOf obj).minFw (s.flashObject p 0) ≠ 0) (hb : checkObject 1 (recordOf obj).minFw (s.flashObject p 1) ≠ 0) :
    ((u.boot p).pkg p).bootState = 3 ∧ ((u.boot p).pkg p).bootFail = 2 ∧ ((u.boot p).pkg p).events.getLast?.map (·.code) = some 0x81 := by
  rw [State.boot_badImages _ _ (by rwa [h.recordCheck]) (by rwa [h.flashCheck 0 (by decide)]) (by rwa [h.flashCheck 1 (by decide)])]
  exact State.bootFails_leaves ..

variable (hr : checkObject 2 (recordOf obj).minRecord obj = 0)
  (hi : checkObject 1 (recordOf obj).minFw (s.flashObject p 0) = 0 ∨ checkObject 1 (recordOf obj).minFw (s.flashObject p 1) = 0)
  (im : List Byte) (him : u.kernelImage p = some im)
include hr hi him

theorem ResetFor.boot_kernel (hk : checkObject 3 (recordOf obj).minKernel im = 0) :
    u.boot p = (u.imagedDies p).kernelRuns p ∧ (u.imagedDies p).kernelImage p = some im := by
  obtain ⟨himage, hok⟩ := State.imagedDies_kernelOk u p im him
  rw [h.record] at hok
  refine ⟨?_, himage⟩
  rw [State.boot_image _ _ (by rwa [h.recordCheck]) (by rwa [h.flashCheck 0 (by decide), h.flashCheck 1 (by decide)]), if_pos (hok.mpr hk)]

theorem ResetFor.boot_badKernel (hk : checkObject 3 (recordOf obj).minKernel im ≠ 0) : ((u.boot p).pkg p).bootState = 1 ∧
    ((u.boot p).pkg p).bootFail = 5 ∧ ((u.boot p).pkg p).host.running = false ∧
    ((u.boot p).pkg p).events.getLast?.map (·.code) = some 0x82 := by
  obtain ⟨-, hok⟩ := State.imagedDies_kernelOk u p im him
  rw [h.record] at hok
  obtain ⟨hstate, -⟩ := State.imaged_leaves u p
  rw [State.boot_image _ _ (by rwa [h.recordCheck]) (by rwa [h.flashCheck 0 (by decide), h.flashCheck 1 (by decide)]),
    if_neg (fun h => hk (hok.mp h))]
  obtain ⟨hrun, hst, hfail, hlog⟩ := State.kernelBad_pkg ((u.imagedDies p).updPkg p fun k => { k with bootFail := 5 }) p 5
  rw [State.updPkg_pkg_self] at hst hfail
  exact ⟨by rw [hst, State.imagedDies_pkg]; exact hstate, hfail, hrun, hlog⟩

/-- The package that runs its kernel. -/
theorem ResetFor.boot_kernel_pkg (hk : checkObject 3 (recordOf obj).minKernel im = 0) :
    let t := u.boot p
    let a := checkObject 1 (recordOf obj).minFw (s.flashObject p 0)
    let b := checkObject 1 (recordOf obj).minFw (s.flashObject p 1)
    let measured : Nat → Option (List Byte) := fun n => tget? (t.pkg p).enclave.measures n
    (t.pkg p).bootState = 1 ∧ (t.pkg p).bootFail = 0 ∧ (t.pkg p).host.running = true ∧ (t.pkg p).powerCap = 2800 ∧
      (t.pkg p).activeB = decide (a ≠ 0) ∧ (t.pkg p).standbyOk = decide (a = 0 ∧ b = 0) ∧ (t.pkg p).record = recordOf obj ∧
      (t.pkg p).fwVersion = field (s.flashObject p (if a = 0 then 0 else 1)) 4 4 ∧
      measured 1 = some (Config.sha384 Config.rom) ∧ measured 2 = some (Config.sha384 obj) ∧
      measured 3 = some (Config.sha384 (s.flashObject p (if a = 0 then 0 else 1))) ∧ measured 5 = some (Config.sha384 im) ∧
      (t.pkg p).events = (u.pkg p).events ∧ (t.pkg p).evNext = (u.pkg p).evNext := by
  obtain ⟨hboot, himage⟩ := h.boot_kernel hr hi im him hk
  have hflash : u.flashObject p (if u.flashCheck p 0 = 0 then 0 else 1) = s.flashObject p (if u.flashCheck p 0 = 0 then 0 else 1) :=
    h.flash _ (by split <;> decide)
  obtain ⟨h1, h2, h3, h4, h5, h6, -, h8, h9, h10, h11, h12, h13⟩ := State.imaged_leaves u p
  rw [hflash] at h10 h13
  rw [h.record] at h4 h12
  rw [h.flashCheck 0 (by decide)] at h8 h9 h10 h13
  rw [h.flashCheck 1 (by decide)] at h9
  extract_lets t a b measured
  have hpkg : t.pkg p = _ := (congrArg (·.pkg p) hboot).trans (State.kernelRuns_pkg _ p im himage)
  rw [State.imagedDies_pkg] at hpkg
  unfold measured
  rw [hpkg]
  refine ⟨h1, h2.trans h.bootFail, rfl, h3.trans h.powerCap, h8, h9, h4, h10, ?_, ?_, ?_, tget?_tset_self .., h5, h6⟩
  · exact (tget?_tset_ne _ _ _ _ (by decide)).trans h11
  · exact (tget?_tset_ne _ _ _ _ (by decide)).trans h12
  · exact (tget?_tset_ne _ _ _ _ (by decide)).trans h13

/-- What a package that runs its kernel leaves of the rest. -/
theorem ResetFor.boot_kernel_rest (hk : checkObject 3 (recordOf obj).minKernel im = 0) :
    let t := u.boot p
    p ∉ t.dom.release ∧ (warm = false → ∀ n, (State.linesOf p).1 ≤ n → n < (State.linesOf p).2 → n ∉ t.poisoned) ∧
      ∀ d, d < 4 → (t.die { pkg := p, die := d }).released = true ∧
        (t.die { pkg := p, die := d }).working = (recordOf obj).working.getD d allPositions ∧
        (warm = true → (t.die { pkg := p, die := d }).tagged = (s.die { pkg := p, die := d }).tagged ∧
          (t.die { pkg := p, die := d }).lost = (s.die { pkg := p, die := d }).lost) := by
  obtain ⟨hboot, -⟩ := h.boot_kernel hr hi im him hk
  extract_lets t
  have ht : t = (u.imagedDies p).kernelRuns p := hboot
  refine ⟨?_, fun hw n hlo hhi => ?_, fun d hd => ?_⟩
  · rw [ht, State.kernelRuns_dom, State.imagedDies_dom]
    exact h.release
  · rw [ht, State.kernelRuns_poisoned, State.imagedDies_poisoned]
    exact h.poisoned hw n hlo hhi
  · rw [ht, State.kernelRuns_die]
    obtain ⟨hrel, hwork⟩ := State.imagedDies_released u p d hd
    rw [h.record] at hwork
    refine ⟨hrel, hwork, fun hw => ?_⟩
    rw [State.imagedDies_view u p Die.tagged (fun k w => rfl), State.imagedDies_view u p Die.lost (fun k w => rfl), h.die d hd, hw]
    exact ⟨rfl, rfl⟩

end

end Sys2Proof.Machine
end

section
/-! PROOFS. Failures of dies, packages and firmware (R20, R21, R102-R105, R129, R162, R163, R262). -/

open Sys2Proof Sys2Proof.Machine

namespace Sys2Proof.Machine

namespace State

/-! What the loss of a die leaves in flash. -/

theorem toFlash_flash (s : State) (p : Nat) : ((s.toFlash p).pkg p).flash.length ≤ 2 ∧ ((s.toFlash p).pkg p).flash ≠ [] := by
  simp [toFlash]

theorem toFlash_die (s : State) (p : Nat) (d : DieId) : (s.toFlash p).die d = s.die d := rfl

theorem toFlash_cores (s : State) (p : Nat) : (s.toFlash p).cores = s.cores := rfl

theorem stopDie_dead (s : State) (d : DieId) : ((s.stopDie d).die d).lost = true :=
  (congrFun (congrArg Fixed.dead (stopDie_fixed s d)) d).trans (Fixed.losing_dead_self ..)

end State

/-! Dies. -/

theorem yields_fatalDieError_lost (s : State) (h : (s.die s.arg.d).lost = true) : Yields .fatalDieError s fun t => t = s := by
  refine Yields.of_exec (show exec .fatalDieError s = execFatalDieError s from rfl) ?_
  rw [if_pos (by simp [h])]

theorem yields_fatalDieError (s : State) (d : DieId) (harg : s.arg.d = d) (hp : d.pkg < 512) (hd : d.die < 4) (h : (s.die d).lost = false) :
    Yields .fatalDieError s fun t => (t.die d).lost = true ∧ (∀ x, x ∈ t.cores → x.1.dieId ≠ d) ∧
      (∃ v : State, (v.pkg d.pkg).events.getLast?.map (·.code) = some 0x80 ∧ t = (v.stopDie d).toFlash d.pkg) ∧
      (t.pkg d.pkg).flash.length ≤ 2 ∧ (t.pkg d.pkg).flash ≠ [] := by
  subst harg
  refine Yields.of_exec (show exec .fatalDieError s = execFatalDieError s from rfl) ?_
  rw [if_neg (by simpa [h] using ⟨hp, hd⟩), State.loseDie, if_neg (by simp [h])]
  generalize hv : s.log s.arg.d.pkg _ 0x0080 0 _ = v
  have hlog : (v.pkg s.arg.d.pkg).events.getLast?.map (·.code) = some 0x80 := hv ▸ State.log_lastCode ..
  have hlost : (v.die s.arg.d).lost = false := by rw [← hv, State.die_of_ground (State.log_ground ..), h]
  rw [State.toFlash_die, State.toFlash_cores]
  exact ⟨State.stopDie_dead .., State.stopDie_cores v s.arg.d hlost, ⟨v, hlog, rfl⟩, State.toFlash_flash ..⟩

theorem yields_thermalThrottleStep (s : State) (d : DieId) (harg : s.arg.d = d) (hp : d.pkg < 512) (hd : d.die < 4) :
    let clk := if s.arg.flag then max 500 ((s.die d).clk - 50) else min 1000 ((s.die d).clk + 50)
    Yields .thermalThrottleStep s fun t => SameMem s t ∧ (t.die d).clk = clk ∧
      (clk ≠ (s.die d).clk → (t.pkg d.pkg).events.getLast?.map (·.code) = some 0x90) ∧ (clk = (s.die d).clk → t = s) := by
  subst harg
  intro clk
  refine Yields.of_exec (show exec .thermalThrottleStep s = execThermalThrottleStep s from rfl) ?_
  dsimp only
  rw [if_neg (by simpa using ⟨hp, hd⟩)]
  by_cases h : clk = (s.die s.arg.d).clk
  · rw [if_pos h]
    exact ⟨fun _ => rfl, h.symm, fun hne => absurd h hne, fun _ => rfl⟩
  · rw [if_neg h]
    refine ⟨fun a => rfl, ?_, fun _ => State.log_lastCode .., fun he => absurd he h⟩
    rw [State.die_of_ground (State.log_ground ..), State.updDie_die_self]

/-! Packages. -/

section
variable (s : State) (p : Nat) (harg : s.arg.p = p)
include harg

theorem yields_packageLoss_out (hf : s.arg.flag = false) (hm : s.isMember p = false) : Yields .packageLoss s fun t => t = s := by
  subst harg
  refine Yields.of_exec (show exec .packageLoss s = execPackageLoss s from rfl) ?_
  rw [if_neg (by simp [hf]), if_neg (by simp [hm])]

theorem yields_packageLoss (hf : s.arg.flag = false) (hm : s.isMember p = true) :
    Yields .packageLoss s fun t => p ∈ t.lost ∧ (s.lead = p → (.standbyTakeover, {}) ∈ t.inflight) ∧
      (s.dom.primary = p → t.frozen = true) ∧ (s.dom.secondary = some p → t.dom.secondary = none) := by
  subst harg
  refine Yields.of_exec (show exec .packageLoss s = execPackageLoss s from rfl) ?_
  rw [if_neg (by simp [hf]), if_pos hm]
  obtain ⟨hlost, htake, hfrozen, hsecondary, -⟩ := State.losePackage_leaves s s.arg.p true hm
  exact ⟨hlost, htake, hfrozen, hsecondary⟩

theorem yields_emergencyShutdown (hp : p < 512) :
    Yields .emergencyShutdown s fun t => (∃ v : State, (v.pkg p).events.getLast?.map (·.code) = some 0x91 ∧ t = (v.loseDies p).toFlash p) ∧
      ∀ d, d < 4 → (t.die { pkg := p, die := d }).lost = true := by
  subst harg
  refine Yields.of_exec (show exec .emergencyShutdown s = execEmergencyShutdown s from rfl) ?_
  rw [if_neg (by omega)]
  refine ⟨⟨_, State.log_lastCode .., rfl⟩, fun d hd => ?_⟩
  rw [State.toFlash_die]
  exact State.loseDies_dead _ _ d hd

theorem yields_vinLoss_off (hp : p < 512) (hv : (s.pkg p).vin = false) : Yields .vinLoss s fun t => t = s := by
  subst harg
  refine Yields.of_exec (show exec .vinLoss s = execVinLoss s from rfl) ?_
  dsimp only
  rw [if_pos (by simp [hv])]

theorem yields_vinLoss (hp : p < 512) (hv : (s.pkg p).vin = true) :
    Yields .vinLoss s fun t => (t.pkg p).vin = false ∧ (t.pkg p).bootState = 0 ∧ (t.pkg p).host.running = false ∧
      ∀ d, d < 4 → (t.die { pkg := p, die := d }).lost = true := by
  subst harg
  refine Yields.of_exec (show exec .vinLoss s = execVinLoss s from rfl) ?_
  dsimp only
  rw [if_neg (by simpa [hv] using hp), State.updPkg_pkg_self]
  refine ⟨rfl, rfl, rfl, fun d hd => ?_⟩
  rw [State.updPkg_die, State.toFlash_die]
  exact State.loseDies_dead _ _ d hd

/-! The firmware complexes (R104, R105). -/

theorem yields_heartbeatMiss_unhealthy (h : s.healthy p = false) : Yields .heartbeatMiss s fun t => t = s := by
  subst harg
  refine Yields.of_exec (show exec .heartbeatMiss s = execHeartbeatMiss s from rfl) ?_
  dsimp only
  rw [if_pos (by simp [h])]

theorem yields_heartbeatMiss_counted (h : s.healthy p = true) (hw : s.arg.flag = true ∨ (s.pkg p).missed < 2) :
    Yields .heartbeatMiss s fun t => SameMem s t ∧
      t.pkg p = { s.pkg p with missed := if s.arg.flag then 0 else (s.pkg p).missed + 1 } := by
  subst harg
  refine Yields.of_exec (show exec .heartbeatMiss s = execHeartbeatMiss s from rfl) ?_
  dsimp only
  rw [if_neg (by simp [h])]
  split
  · exact ⟨fun a => rfl, State.setPkg_pkg_self ..⟩
  · next hf =>
    rw [if_pos (hw.resolve_left hf)]
    exact ⟨fun a => rfl, State.setPkg_pkg_self ..⟩

theorem yields_heartbeatMiss_takeOver (h : s.healthy p = true) (hf : s.arg.flag = false) (hw : 2 ≤ (s.pkg p).missed)
    (hok : (s.pkg p).standbyOk = true) :
    Yields .heartbeatMiss s fun t => SameMem s t ∧ (t.pkg p).activeB = !(s.pkg p).activeB ∧ (t.pkg p).standbyOk = false ∧
      (t.pkg p).missed = 0 ∧ (t.pkg p).bootState = (s.pkg p).bootState ∧ (t.pkg p).events.getLast?.map (·.code) = some 0x50 ∧
      (t.pkg p).fwVersion = (s.pkg p).standbyVersion ∧
      ∀ e, e ∈ t.inflight → State.endsReq p e = true → (s.pkg p).mirror.served ≤ e.2.i → e.2.n / 2 ^ 16 = 2 ∨ e.2.n / 2 ^ 16 = 3 := by
  subst harg
  refine Yields.of_exec (show exec .heartbeatMiss s = execHeartbeatMiss s from rfl) ?_
  dsimp only
  rw [if_neg (by simp [h]), if_neg (by simp [hf]), if_neg (by omega), if_pos hok]
  unfold State.takeOver
  extract_lets k again m table enclave k' t
  refine ⟨fun a => rfl, ?_, ?_, ?_, ?_, State.log_lastCode .., ?_, ?_⟩
  · simp [State.log, k', k]
  · simp [State.log, k']
  · simp [State.log, k']
  · simp [State.log, k', k]
  · simp [State.log, k', k]
  · intro e he hends hserved
    have hin : e ∈ s.inflight.filter fun e => !again e := he
    have hnot : again e = false := by simpa using (List.mem_filter.mp hin).2
    by_contra hno
    simp [again, hends, k, hserved] at hnot
    omega

theorem yields_heartbeatMiss_loss (h : s.healthy p = true) (hf : s.arg.flag = false) (hw : 2 ≤ (s.pkg p).missed)
    (hok : (s.pkg p).standbyOk = false) :
    Yields .heartbeatMiss s fun t => (t.pkg p).bootState = 3 ∧ (s.isMember p = true → p ∈ t.lost) := by
  subst harg
  refine Yields.of_exec (show exec .heartbeatMiss s = execHeartbeatMiss s from rfl) ?_
  dsimp only
  rw [if_neg (by simp [h]), if_neg (by simp [hf]), if_neg (by omega), if_neg (by simp [hok]), State.updPkg_pkg_self]
  refine ⟨rfl, fun hm => ?_⟩
  obtain ⟨hlost, -⟩ := State.losePackage_leaves s s.arg.p true hm
  rw [if_pos hm]
  exact hlost

end

end Sys2Proof.Machine
end

section
/-! PROOFS. What a tray's Broker accounts for of a package that is gone (R163). -/

open Sys2Proof Sys2Proof.Machine

namespace Sys2Proof.Machine

namespace State

/-! Packets and records change no Broker. -/

@[simp] theorem afterOnce_brokers (s : State) (n : Nat) (i : Instr) (a : Arg) : (s.afterOnce n i a).brokers = s.brokers := by
  unfold afterOnce
  split <;> simp

@[simp] theorem sendFlit_brokers (s : State) (p : Nat) (f : List Byte) : (s.sendFlit p f).brokers = s.brokers := by
  unfold sendFlit
  dsimp only
  split <;> simp [log, enqueueBy, setPort]

@[simp] theorem arrive_brokers (s : State) (q : Packet) : (s.arrive q).brokers = s.brokers := by
  unfold arrive arriveSlot
  dsimp only
  repeat' split
  all_goals simp

@[simp] theorem send_brokers (s : State) (q : Packet) : (s.send q).brokers = s.brokers := by
  unfold send
  split <;> simp

/-! Shares of Brokers. -/

theorem updBroker_broker_self (s : State) (k : BrokerId) (f : Broker → Broker) : (s.updBroker k f).broker k = f (s.broker k) :=
  tget_tset_self ..

theorem updBroker_broker_ne (s : State) (k u : BrokerId) (f : Broker → Broker) (h : u ≠ k) : (s.updBroker k f).broker u = s.broker u :=
  tget_tset_ne _ _ _ _ _ h

theorem broker_congr {s t : State} (h : t.brokers = s.brokers) (k : BrokerId) : t.broker k = s.broker k := by rw [broker, broker, h]

theorem share_congr {s t : State} (h : t.brokers = s.brokers) (k : BrokerId) (g : Nat) : t.share k g = s.share k g := by
  rw [share, share, broker_congr h]

/-- An update of a Broker that leaves its shares leaves every share. -/
@[simp] theorem updBroker_share (s : State) (k u : BrokerId) (f : Broker → Broker) (g : Nat) (h : ∀ b, (f b).shares = b.shares) :
    (s.updBroker k f).share u g = s.share u g := by
  by_cases hu : u = k
  · rw [share, share, hu, updBroker_broker_self, h]
  · rw [share, share, updBroker_broker_ne _ _ _ _ hu]

theorem updShare_share_self (s : State) (k : BrokerId) (g : Nat) (f : Share → Share) : (s.updShare k g f).share k g = f (s.share k g) := by
  rw [share, updShare, updBroker_broker_self, tget_tset_self]
  rfl

/-! Messages between Brokers change no share. -/

@[simp] theorem send_share (s : State) (q : Packet) (u : BrokerId) (g : Nat) : (s.send q).share u g = s.share u g :=
  share_congr (send_brokers ..) u g

@[simp] theorem after_share (s : State) (n : Nat) (i : Instr) (a : Arg) (u : BrokerId) (g : Nat) : (s.after n i a).share u g = s.share u g := (rfl)

@[simp] theorem setBrokerTag_share (s : State) (k : BrokerId) (n : Nat) (t : Tag) (u : BrokerId) (g : Nat) :
    (s.setBrokerTag k n t).share u g = s.share u g := updBroker_share _ _ _ _ _ fun _ => rfl

theorem numbered_share (s : State) (m : BrokerMsg) (u : BrokerId) (g : Nat) : (s.numbered m).2.share u g = s.share u g :=
  updBroker_share _ _ _ _ _ fun _ => rfl

theorem brokerSend_share (s : State) (i : Instr) (m : BrokerMsg) (u : BrokerId) (g : Nat) : (s.brokerSend i m).share u g = s.share u g := by
  unfold brokerSend
  dsimp only
  split <;> simp

theorem passMsg_share (s : State) (i : Instr) (m : BrokerMsg) (u : BrokerId) (g : Nat) : (s.passMsg i m).share u g = s.share u g := by
  unfold passMsg
  split
  · split
    · exact numbered_share ..
    · rfl
  · split
    · rfl
    · exact brokerSend_share ..

theorem tell_share (s : State) (i : Instr) (a b : BrokerId) (grid first count : Nat) (v : DWord) (u : BrokerId) (g : Nat) :
    (s.tell i a b grid first count v).share u g = s.share u g := (passMsg_share ..).trans (numbered_share ..)

/-- A report of a tray's Broker on a launch of the host goes to the rack's Broker, and changes of the share only what is to be reported. -/
theorem report_tray (s : State) (n h : Nat) (hc : ∀ l, s.launch? h = some l → l.isChild = false) :
    (s.report (.tray n) h).ground = s.ground ∧ ((s.report (.tray n) h).share (.tray n) h).lost = (s.share (.tray n) h).lost ∧
      ((s.report (.tray n) h).share (.tray n) h).gone = (s.share (.tray n) h).gone := by
  unfold report
  extract_lets sh t child
  split
  · exact ⟨rfl, rfl, rfl⟩
  · split
    · rw [share_congr (afterOnce_brokers ..)]
      exact ⟨by simp, rfl, rfl⟩
    · have hchild : child = false := by
        unfold child
        cases hl : t.launch? h with
        | none => rfl
        | some l => exact hc l hl
      rw [hchild]
      dsimp only [parent]
      rw [if_neg (by decide)]
      dsimp only
      rw [tell_share, updShare_share_self]
      exact ⟨by simp [t], rfl, rfl⟩

/-- A tray's Broker with one grid accounts for what a package of it was given and has not handed on. -/
theorem accountFor_one (s : State) (p h : Nat) (x : Share) (hs : (s.broker (.tray (trayOf p))).shares = [(h, x)])
    (hn : tget x.given p 0 - tget x.gone p 0 ≠ 0) :
    s.accountFor p = (s.relieve h p (tget x.given p 0 - tget x.gone p 0)).count (.tray (trayOf p)) h 0
      (tget x.given p 0 - tget x.gone p 0) := by
  simp [accountFor, hs, hn]

theorem accountFor_leaves (s : State) (p h : Nat) (x : Share) (l : Launch) (hs : (s.broker (.tray (trayOf p))).shares = [(h, x)])
    (hl : s.launch? h = some l) (hc : l.isChild = false) (hn : tget x.given p 0 - tget x.gone p 0 ≠ 0) :
    let t := s.accountFor p
    t.ground = s.ground ∧ (t.share (.tray (trayOf p)) h).lost = x.lost + (tget x.given p 0 - tget x.gone p 0) ∧
      tget (t.share (.tray (trayOf p)) h).gone p 0 = tget x.given p 0 := by
  rw [accountFor_one s p h x hs hn]
  generalize hk : tget x.given p 0 - tget x.gone p 0 = n at *
  have hx : s.share (.tray (trayOf p)) h = x := by simp [share, hs, tget, tget?]
  obtain ⟨hground, hlost, hgone⟩ := report_tray ((s.relieve h p n).updShare (.tray (trayOf p)) h fun x => { x with
    exited := x.exited + 0, lost := x.lost + n, dExited := x.dExited + 0, dLost := x.dLost + n }) (trayOf p) h fun m hm => by
      obtain rfl : l = m := Option.some.inj (hl.symm.trans hm)
      exact hc
  have hr : (s.relieve h p n).share (.tray (trayOf p)) h = { x with gone := tset x.gone p (tget x.gone p 0 + n) } := by
    rw [relieve, updShare_share_self, hx]
  rw [updShare_share_self, hr] at hlost hgone
  refine ⟨hground.trans (by simp), hlost, ?_⟩
  rw [count, hgone]
  simp only [tget_tset_self]
  omega

end State

theorem yields_packageLoss_accounts (s : State) (p h : Nat) (x : Share) (l : Launch) (harg : s.arg.p = p) (hf : s.arg.flag = true)
    (hq : s.stillHeard p = false) (hm : s.isMember p = false) (hs : (s.broker (.tray (trayOf p))).shares = [(h, x)])
    (hl : s.launch? h = some l) (hc : l.isChild = false) (hn : tget x.given p 0 - tget x.gone p 0 ≠ 0) :
    Yields .packageLoss s fun t => SameMem s t ∧
      (t.share (.tray (trayOf p)) h).lost = x.lost + (tget x.given p 0 - tget x.gone p 0) ∧
      tget (t.share (.tray (trayOf p)) h).gone p 0 = tget x.given p 0 := by
  subst harg
  refine Yields.of_exec (show exec .packageLoss s = execPackageLoss s from rfl) ?_
  rw [if_pos hf, if_neg (by simp [hq]), if_neg (by simp [hm])]
  obtain ⟨hground, hlost, hgone⟩ := State.accountFor_leaves s s.arg.p h x l hs hl hc hn
  exact ⟨SameMem.of_ground hground, hlost, hgone⟩

end Sys2Proof.Machine
end

section
/-! PROOFS. The resident kernel's failures (R124-R127), soft errors (R11), and domain time (R96, R97). -/

open Sys2Proof Sys2Proof.Machine

namespace Sys2Proof.Machine

/-! The freeze (R124, R125). -/

/-- What a freeze of every context leaves. -/
def State.Freezes (s : State) (n : Nat) (t : State) : Prop :=
  SameMem s t ∧ t.frozen = true ∧ (t.pkg s.dom.primary).host.running = false ∧ (t.pkg s.dom.primary).host.failed = true ∧
    (.warmReboot, { p := s.dom.primary, flag := !s.frozen }) ∈ t.inflight ∧ (s.frozen = false → t.freezeCause = n) ∧
    (t.pkg s.dom.primary).events = (s.pkg s.dom.primary).events

theorem State.freezeContexts_freezes (s : State) (n : Nat) : s.Freezes n (s.freezeContexts n) := by
  refine ⟨SameMem.of_ground (freezeContexts_ground ..), freezeContexts_frozen .., ?_⟩
  unfold freezeContexts
  extract_lets p t
  have ht : t.pkg p = { s.pkg p with host := { (s.pkg p).host with running := false, failed := true } } := updPkg_pkg_self ..
  have hf : t.frozen = s.frozen := rfl
  cases hs : s.frozen with
  | true =>
    rw [if_pos (by rw [hf, hs]), postOnce_pkg, ht]
    exact ⟨rfl, rfl, mem_postOnce .., nofun, rfl⟩
  | false =>
    rw [if_neg (by simp [hf, hs]), post_pkg]
    have hp : State.pkg { t with frozen := true, freezeCause := n } p = t.pkg p := rfl
    rw [hp, ht]
    exact ⟨rfl, rfl, mem_post .., fun _ => rfl, rfl⟩

/-- Each of the kernel's failures freezes the contexts where a kernel runs and the failure is due, and does nothing elsewhere. -/
theorem yields_hostFailure (s : State) (i : Instr) (n : Nat)
    (hi : (i, n) ∈ ([(.hostWatchdogExpire, 1), (.hostMachineCheck, 2), (.kernelPanicReport, 3)] : List (Instr × Nat))) :
    let due := i ≠ .hostWatchdogExpire ∨ 1000000 ≤ s.arg.n ∧ s.arg.n ≤ 10000000000 ∧ (s.pkg s.arg.p).host.since + s.arg.n ≤ s.now
    (s.hosting s.arg.p = false ∨ ¬ due → Yields i s fun t => t = s) ∧
    (s.hosting s.arg.p = true → due → Yields i s (s.Freezes n)) := by
  intro due
  simp only [List.mem_cons, Prod.mk.injEq, List.not_mem_nil, or_false] at hi
  rcases hi with ⟨rfl, rfl⟩ | ⟨rfl, rfl⟩ | ⟨rfl, rfl⟩
  · have hx : exec .hostWatchdogExpire s = execHostWatchdogExpire s := rfl
    refine ⟨fun hno => Yields.of_exec hx (if_neg ?_), fun hh hd => Yields.of_exec hx ?_⟩
    · rcases hno with h | h
      · simp [h]
      · simp [due] at h
        simp
        omega
    · rw [if_pos (by simpa [due, hh, and_assoc] using hd)]
      exact s.freezeContexts_freezes 1
  · have hx : exec .hostMachineCheck s = execHostMachineCheck s := rfl
    refine ⟨fun hno => Yields.of_exec hx (if_neg ?_), fun hh hd => Yields.of_exec hx ?_⟩
    · simpa [due] using hno
    · rw [if_pos hh]
      exact s.freezeContexts_freezes 2
  · have hx : exec .kernelPanicReport s = execKernelPanicReport s := rfl
    refine ⟨fun hno => Yields.of_exec hx (if_neg ?_), fun hh hd => Yields.of_exec hx ?_⟩
    · simpa [due] using hno
    · rw [if_pos hh]
      exact s.freezeContexts_freezes 3

/-! The warm reboot (R126, R127, R320). -/

theorem State.afterOnce_pkgs (s : State) (n : Nat) (i : Instr) (a : Arg) : (s.afterOnce n i a).pkgs = s.pkgs := by
  unfold afterOnce
  split <;> rfl

theorem State.afterOnce_inflight (s : State) (n : Nat) (i : Instr) (a : Arg) : (s.afterOnce n i a).inflight = s.inflight := by
  unfold afterOnce
  split <;> rfl

theorem State.exists_timer_afterOnce (s : State) (n : Nat) (i : Instr) (a : Arg) : ∃ m, (m, i, a) ∈ (s.afterOnce n i a).timers := by
  unfold afterOnce
  split
  · next h =>
    obtain ⟨⟨m, e⟩, hm, he⟩ := List.any_eq_true.mp h
    obtain rfl : e = (i, a) := by simpa using he
    exact ⟨m, hm⟩
  · exact ⟨_, mem_after ..⟩

theorem checkObject_le (kind n : Nat) (bs : List Byte) : checkObject kind n bs ≤ 4 := by
  unfold checkObject
  dsimp only
  split_ifs <;> omega

theorem State.kernelCheck_le (s : State) (p : Nat) : s.kernelCheck p ≤ 4 := by
  unfold kernelCheck
  split
  · exact checkObject_le ..
  · exact Nat.le_refl 4

theorem State.freezeDone_of_member (s : State) (p : Nat) (h : s.isMember p = true) :
    s.freezeDone p = (s.log p (fwEndpoint p) 0x0060 0 (BitVec.ofNat 64 (s.freezeCause + 2 ^ 8 * s.launches.length))).postOnce .warmReboot
      { p := s.dom.primary } := by
  unfold freezeDone
  dsimp only
  rw [if_pos (by rw [isMember_of_ground (log_ground ..), h])]
  rfl

theorem yields_warmReboot_waits (s : State) (hfr : s.frozen = true) (ht : ∃ x, x ∈ s.warps ∧ x.2.taking = true) :
    Yields .warmReboot s fun t => SameMem s t ∧ t.pkgs = s.pkgs ∧ t.inflight = s.inflight ∧ ∃ n, (n, .warmReboot, s.arg) ∈ t.timers := by
  refine Yields.of_exec (show exec .warmReboot s = execWarmReboot s from rfl) ?_
  rw [if_pos (by simpa [hfr] using ht)]
  exact ⟨SameMem.of_ground (State.afterOnce_ground ..), State.afterOnce_pkgs .., State.afterOnce_inflight .., State.exists_timer_afterOnce ..⟩

section
variable (s : State) (p : Nat) (harg : s.arg.p = p) (hm : s.isMember p = true) (hp : p = s.dom.primary) (hfr : s.frozen = true)
  (ht : ∀ x, x ∈ s.warps → x.2.taking = false)
include harg hm hp hfr ht

theorem yields_warmReboot_frozen (hf : s.arg.flag = true) :
    Yields .warmReboot s fun t => SameMem s t ∧ (.warmReboot, { p := p }) ∈ t.inflight ∧
      ∃ e, (t.pkg p).events.getLast? = some e ∧ e.code = 0x60 ∧ e.data.toNat % 2 ^ 8 = s.freezeCause % 2 ^ 8 := by
  subst harg
  refine Yields.of_exec (show exec .warmReboot s = execWarmReboot s from rfl) ?_
  rw [if_neg (by simpa [hfr] using ht), if_pos hf, if_pos hfr, State.freezeDone_of_member s _ hm, State.postOnce_pkg]
  refine ⟨SameMem.of_ground (by simp), ?_, _, State.log_last .., rfl, ?_⟩
  · rw [hp]
    exact State.mem_postOnce ..
  · rw [BitVec.toNat_ofNat]
    omega

theorem yields_warmReboot_runs (hf : s.arg.flag = false) (hk : s.kernelOk p = true) :
    Yields .warmReboot s fun t => SameMem s t ∧ (t.pkg p).host.running = true ∧ (t.pkg p).host.imageOk = true ∧ t.frozen = true := by
  subst harg
  refine Yields.of_exec (show exec .warmReboot s = execWarmReboot s from rfl) ?_
  rw [if_neg (by simpa [hfr] using ht), if_neg (by simp [hf]), if_neg (by simp [hm, hfr, ← hp]), if_pos hk]
  exact ⟨fun a => rfl, by simp [State.kernelRuns], by simp [State.kernelRuns], hfr⟩

theorem yields_warmReboot_bad (hf : s.arg.flag = false) (hk : s.kernelOk p = false) :
    Yields .warmReboot s fun t => SameMem s t ∧ (t.pkg p).host.running = false ∧ t.frozen = true ∧
      ∃ e, (t.pkg p).events.getLast? = some e ∧ e.code = 0x82 ∧ e.data.toNat = 6 + 2 ^ 8 * s.kernelCheck p := by
  subst harg
  refine Yields.of_exec (show exec .warmReboot s = execWarmReboot s from rfl) ?_
  rw [if_neg (by simpa [hfr] using ht), if_neg (by simp [hf]), if_neg (by simp [hm, hfr, ← hp]), if_neg (by simp [hk])]
  obtain ⟨hrun, -⟩ := State.kernelBad_pkg s s.arg.p 6
  refine ⟨fun a => rfl, hrun, hfr, _, State.log_last .., rfl, ?_⟩
  have hle := s.kernelCheck_le s.arg.p
  rw [BitVec.toNat_ofNat]
  omega

end

/-! Soft errors. -/

theorem yields_softError (s : State) (h : Home) (hh : s.homeAt s.arg.d s.arg.i = some h) :
    Yields .softError s fun t => SameMem s t ∧
      (s.arg.flag = false → t.poisoned = s.poisoned ∧ (t.pkg h.pkg).events.getLast?.map (·.code) = some 1) ∧
      (s.arg.flag = true → t.isPoisoned h = true ∧ (t.pkg h.pkg).events.getLast?.map (·.code) = some 2) := by
  refine Yields.of_exec (show exec .softError s = execSoftError s from rfl) ?_
  dsimp only
  rw [hh]
  dsimp only
  generalize ht : s.log h.pkg _ _ 0 _ = t
  have hlog : (t.pkg h.pkg).events.getLast?.map (·.code) = some (if s.arg.flag then 2 else 1) := ht ▸ State.log_lastCode ..
  have hmem : SameMem s t := SameMem.of_ground (ht ▸ State.log_ground ..)
  have hpoisoned : t.poisoned = s.poisoned := ht ▸ rfl
  have harg : t.arg = s.arg := ht ▸ rfl
  rw [harg]
  cases hf : s.arg.flag with
  | false =>
    rw [hf] at hlog
    exact ⟨hmem, fun _ => ⟨hpoisoned, hlog⟩, nofun⟩
  | true =>
    rw [hf] at hlog
    split
    · exact ⟨hmem, nofun, fun _ => ⟨by simp [State.isPoisoned], hlog⟩⟩
    · next hp => exact ⟨hmem, nofun, fun _ => ⟨by simpa using hp, hlog⟩⟩

/-! Domain time. -/

/-- A correction within the servo's range is the package's. -/
theorem State.slew_eq (s : State) (p : Nat) (hm : s.isMember p = true) (hlo : -500 ≤ s.arg.ppm) (hhi : s.arg.ppm ≤ 500) :
    s.slew p s.arg.ppm = s.updPkg p fun k => { k with ppm := s.arg.ppm } := if_pos (by simp [hm, hlo, hhi])

section
variable (s : State) (p : Nat) (harg : s.arg.p = p)
include harg

theorem yields_domainTimeSync_rests (hf : s.follows p = true) (hl : (s.pkg s.lead).gmLost = true) :
    Yields .domainTimeSync s fun t => t = s := by
  subst harg
  exact Yields.of_exec (show exec .domainTimeSync s = execDomainTimeSync s from rfl) (if_pos (by simp [hf, hl]))

theorem yields_ppsInPulse_rests (h : (s.pkg p).gmLost = true ∨ s.follows p = true ∧ (s.pkg s.lead).gmLost = true) :
    Yields .ppsInPulse s fun t => t = s := by
  subst harg
  exact Yields.of_exec (show exec .ppsInPulse s = execPpsInPulse s from rfl) (if_pos (by simpa using h))

theorem yields_timeCorrected (i : Instr) (hm : s.isMember p = true) (hlo : -500 ≤ s.arg.ppm) (hhi : s.arg.ppm ≤ 500)
    (hfol : s.follows p = false ∨ (s.pkg s.lead).gmLost = false) (hi : i = .domainTimeSync ∨ i = .ppsInPulse ∧ (s.pkg p).gmLost = false) :
    Yields i s fun t => SameMem s t ∧ (t.pkg p).ppm = s.arg.ppm ∧ (t.pkg p).time = (s.pkg p).time ∧
      (i = .domainTimeSync → (t.pkg p).gmLost = false) := by
  have hslew := State.slew_eq s p hm hlo hhi
  subst harg
  have hno : ¬(s.follows s.arg.p = true ∧ (s.pkg s.lead).gmLost = true) := by
    rcases hfol with h | h <;> simp [h]
  rcases hi with rfl | ⟨rfl, hg⟩
  · refine Yields.of_exec (show exec .domainTimeSync s = execDomainTimeSync s from rfl) ?_
    rw [if_neg (by simpa using hno), hslew]
    exact ⟨fun a => rfl, by simp, by simp, fun _ => by simp⟩
  · refine Yields.of_exec (show exec .ppsInPulse s = execPpsInPulse s from rfl) ?_
    rw [if_neg (by simpa [hg] using hno), hslew]
    exact ⟨fun a => rfl, by simp, by simp, nofun⟩

theorem yields_grandmasterLost (hm : s.isMember p = true) (hg : (s.pkg p).gmLost = false) :
    Yields .grandmasterLost s fun t => SameMem s t ∧ (t.pkg p).gmLost = true ∧ (t.pkg p).time = (s.pkg p).time ∧
      (t.pkg p).ppm = (s.pkg p).ppm ∧ (t.pkg p).events.getLast?.map (·.code) = some 0x70 := by
  subst harg
  refine Yields.of_exec (show exec .grandmasterLost s = execGrandmasterLost s from rfl) ?_
  dsimp only
  rw [if_neg (by simp [hm, hg])]
  have hp : (s.freeValue.2).pkg s.arg.p = s.pkg s.arg.p := rfl
  exact ⟨fun a => rfl, by simp [State.log], by simp [State.log, hp], by simp [State.log, hp], State.log_lastCode ..⟩

end

end Sys2Proof.Machine
end

section
/-! PROOFS. The obligation of boot, failures and time (O52). -/

open Sys2Proof Sys2Proof.Machine

namespace Sys2Proof.Machine

/-- The reset from which each of the two events boots a package, with the record in flash then (R110). -/
theorem exec_boots (s : State) (i : Instr) (hp : s.arg.p < 512) (hi : i = .packageBoot ∨ i = .warmReset) (obj : List Byte) :
    let p := s.arg.p
    let old := s.flashObject p 2
    let new := s.arg.bytes
    let newer := i = .packageBoot ∧ objectOk 2 (recordOf old).minRecord new = true ∧ (recordOf new).follows (recordOf old) = true
    (newer → obj = new) → (¬ newer → obj = old) →
      ∃ u, exec i s = .next (u.boot p) ∧ ResetFor s p (decide (i = .warmReset)) obj u := by
  intro p old new newer hnew hold
  rcases hi with rfl | rfl
  · refine ⟨(s.resetPackage p false).offerRecord p new, ?_, ?_⟩
    · show execPackageBoot s = _
      rw [execPackageBoot]
      rw [if_neg (by omega)]
    · have h := resetFor_offerRecord s p new
      split at h
      · next hn => rw [hnew ⟨rfl, hn⟩]; exact h
      · next hn => rw [hold fun hw => hn hw.2]; exact h
  · refine ⟨s.resetPackage p true, ?_, ?_⟩
    · show execWarmReset s = _
      rw [execWarmReset]
      rw [if_neg (by omega)]
    · rw [hold fun hw => by simp [newer] at hw]
      exact resetFor_resetPackage s p true

/-- Settles O52: each way in which a boot ends, and what the failures of dies, packages, firmware and the kernel, a soft error, and the events
of domain time leave, an event at a time. -/
theorem bootAndFailures : Obligations.BootAndFailures := by
  refine ⟨objectOk_iff, ?_, fun s hp hd => ⟨yields_fatalDieError_lost s,
    yields_fatalDieError s _ rfl hp hd, yields_thermalThrottleStep s _ rfl hp hd⟩, fun s => ⟨yields_packageLoss_out s _ rfl, ?_,
    yields_packageLoss s _ rfl, yields_emergencyShutdown s _ rfl, yields_vinLoss_off s _ rfl, yields_vinLoss s _ rfl,
    yields_heartbeatMiss_unhealthy s _ rfl, yields_heartbeatMiss_counted s _ rfl, yields_heartbeatMiss_takeOver s _ rfl,
    yields_heartbeatMiss_loss s _ rfl⟩, fun s i n hi => yields_hostFailure s i n hi, ?_, yields_softError, fun s => ⟨?_, ?_, ?_, ?_⟩⟩
  · intro s i p old new newer hp hi obj hnew hold rec_ a b measured
    obtain ⟨u, hx, h⟩ := exec_boots s i hp hi obj hnew hold
    refine ⟨fun hr => Yields.of_exec hx (h.boot_badRecord hr), fun hr ha hb => Yields.of_exec hx (h.boot_badImages hr ha hb),
      fun hr hab im him => ?_⟩
    have himage := h.kernelImage im (by simpa using him)
    refine ⟨fun hk => Yields.of_exec hx ?_, fun hk => Yields.of_exec hx (h.boot_badKernel hr hab im himage hk)⟩
    obtain ⟨h1, h2, h3, h4, h5, h6, h7, h8, h9, h10, h11, h12, hevents, hnext⟩ := h.boot_kernel_pkg hr hab im himage hk
    obtain ⟨hrelease, hpoison, hdie⟩ := h.boot_kernel_rest hr hab im himage hk
    refine ⟨h1, h2, h3, h4, h5, h6, hrelease, h7, h8, h9, h10, h11, h12, fun hb => hpoison (by simp [hb]), fun d hd => ?_, fun hw hm => ?_⟩
    · obtain ⟨hrel, hwork, -⟩ := hdie d hd
      exact ⟨hrel, hwork⟩
    · obtain ⟨-, hev, hnx, -⟩ := h.warm (by simp [hw]) hm
      refine ⟨hevents.trans hev, hnext.trans hnx, fun d hd => ?_⟩
      obtain ⟨-, -, hkeep⟩ := hdie d hd
      exact hkeep (by simp [hw])
  · intro h x l k n hf hq hm hs hl hc hn
    exact yields_packageLoss_accounts s _ h x l rfl hf hq hm hs hl hc hn
  · intro s p hm hp hfr
    refine ⟨yields_warmReboot_waits s hfr, fun ht => ⟨yields_warmReboot_frozen s _ rfl hm hp hfr ht,
      yields_warmReboot_runs s _ rfl hm hp hfr ht, yields_warmReboot_bad s _ rfl hm hp hfr ht⟩⟩
  · exact fun hf hl => ⟨yields_domainTimeSync_rests s _ rfl hf hl, yields_ppsInPulse_rests s _ rfl (Or.inr ⟨hf, hl⟩)⟩
  · exact fun hg => yields_ppsInPulse_rests s _ rfl (Or.inl hg)
  · exact fun hm hlo hhi hfol i hi => yields_timeCorrected s _ rfl i hm hlo hhi hfol hi
  · exact yields_grandmasterLost s _ rfl

end Sys2Proof.Machine
end

section
/-! PROOFS. The requests of the firmware's ring (O51): what the end of a request leaves (R114), and the header that the kill of a core
writes (R123, R162, R246). -/

open Sys2Proof Sys2Proof.Machine

namespace Sys2Proof.Machine

/-- What the firmware of a package may change with an access: nothing that is fixed, and, outside a domain, no byte of memory beyond the
package's boot space (R114, R117). -/
def FwKeeps (p : Nat) (s t : State) : Prop :=
  t.ground.fixed = s.ground.fixed ∧ (s.isMember p = false → s.mem.wf = true → t.mem.wf = true ∧
    ∀ a, (∀ b, b < 2 ^ 37 → physKey (bootHome p b) ≠ a) → t.mem.read a = s.mem.read a)

namespace State

theorem isMember_of_fixed {s t : State} (h : t.ground.fixed = s.ground.fixed) (p : Nat) : t.isMember p = s.isMember p := by
  have hd : t.dom = s.dom := congrArg Fixed.dom h
  have hl : t.lost = s.lost := congrArg Fixed.lost h
  simp only [isMember, hd, hl]

/-- A run in a package's boot space changes nothing but memory. -/
theorem bootPuts_eq (p : Nat) (bs : List Byte) : ∀ (s : State) (b : Nat), s.bootPuts p b bs = { s with mem := (s.bootPuts p b bs).mem } := by
  induction bs with
  | nil => exact fun s b => rfl
  | cons x xs ih =>
    intro s b
    rw [bootPuts, ih]

theorem bootPuts_fixed (s : State) (p b : Nat) (bs : List Byte) : (s.bootPuts p b bs).ground.fixed = s.ground.fixed := by
  rw [bootPuts_eq]
  rfl

/-- A run in a package's boot space leaves every byte but those of its places. -/
theorem bootPuts_read (p a : Nat) (bs : List Byte) : ∀ (s : State) (b : Nat), s.mem.wf = true →
    (∀ j, j < bs.length → physKey (bootHome p (b + j)) ≠ a) → (s.bootPuts p b bs).mem.read a = s.mem.read a := by
  induction bs with
  | nil => exact fun s b _ _ => rfl
  | cons x xs ih =>
    intro s b hw hj
    rw [bootPuts, ih _ _ (Memory.write_wf _ _ _ hw) fun j h => by
      rw [Nat.add_right_comm]
      exact hj (j + 1) (Nat.succ_lt_succ h)]
    exact Memory.read_write_ne _ _ _ _ hw (hj 0 (Nat.succ_pos _))

end State

namespace FwKeeps

variable {p : Nat} {s t u : State}

theorem refl : FwKeeps p s s := ⟨rfl, fun _ hw => ⟨hw, fun _ _ => rfl⟩⟩

theorem trans (h : FwKeeps p s t) (k : FwKeeps p t u) : FwKeeps p s u := by
  obtain ⟨hf, hb⟩ := h
  obtain ⟨kf, kb⟩ := k
  refine ⟨kf.trans hf, fun hm hw => ?_⟩
  obtain ⟨hw', hr⟩ := hb hm hw
  obtain ⟨hw'', kr⟩ := kb ((State.isMember_of_fixed hf p).trans hm) hw'
  exact ⟨hw'', fun a ha => (kr a ha).trans (hr a ha)⟩

theorem of_ground (h : t.ground = s.ground) : FwKeeps p s t := by
  refine ⟨congrArg Ground.fixed h, fun _ hw => ?_⟩
  rw [State.mem_of_ground h]
  exact ⟨hw, fun _ _ => rfl⟩

theorem fwSet {va : Nat} {bs r : List Byte} (h : s.fwSet p va bs = .ok r t) : FwKeeps p s t := by
  unfold State.fwSet at h
  split_ifs at h with hm hr
  · exact ⟨State.fwPut_fixed h, fun hn => absurd hm (by simp [hn])⟩
  · obtain ⟨-, rfl⟩ := Access.ok.inj h
    refine ⟨State.bootPuts_fixed .., fun _ hw => ⟨State.bootPuts_wf _ _ _ _ hw, fun a ha => ?_⟩⟩
    exact State.bootPuts_read _ _ _ _ _ hw fun j hj => ha _ (by omega)

theorem fwSignal {va : Nat} {r : List Byte} (h : s.fwSignal p va = .ok r t) : FwKeeps p s t := by
  unfold State.fwSignal at h
  split_ifs at h with hm
  · exact ⟨State.signalUpdate_fixed h, fun hn => absurd hm (by simp [hn])⟩
  · split at h
    · next hg =>
      unfold State.fwGet at hg
      rw [if_neg hm] at hg
      split_ifs at hg
      obtain ⟨-, rfl⟩ := Access.ok.inj hg
      exact fwSet h
    · next hne => exact absurd h (hne _ _)

theorem mirrorTable (n : Nat) : FwKeeps p s (s.mirrorTable p n) := of_ground (by simp [State.mirrorTable])

/-- The end of a request, at whatever stage it stands (R114). -/
theorem finishReq (idx addr sig v stage : Nat) : FwKeeps p s (s.finishReq p idx addr sig v stage) := by
  unfold State.finishReq
  extract_lets request later index signal
  have hlater : ∀ (s : State) k, FwKeeps p s (later s k) := fun s k => of_ground (by simp [later])
  have hindex : ∀ s, FwKeeps p s (index s) := fun s => by
    simp only [index]
    split
    · exact refl
    · split
      · next hw => exact (fwSet hw).trans (mirrorTable _)
      · exact hlater _ _
      · exact refl
  have hsignal : ∀ s, FwKeeps p s (signal s) := fun s => by
    simp only [signal]
    split_ifs
    · exact hindex s
    · exact hlater _ _
    · split
      · next hw => exact (fwSignal hw).trans (hindex _)
      · exact hlater _ _
      · exact hindex s
  split_ifs
  · exact refl
  · exact hindex s
  · exact hsignal s
  · split
    · next hw => exact (fwSet hw).trans (hsignal _)
    · exact hlater _ _
    · exact hsignal s

theorem endReq (r : Nat × Nat × List Byte) (status result : Nat) : FwKeeps p s (s.endReq p r status result) := finishReq ..

end FwKeeps

/-- A byte of package 0 beyond the first die's HBM lies in no boot space of that package. -/
theorem physKey_bootHome_lt (b : Nat) (h : b < 2 ^ 37) : physKey (bootHome 0 b) < 2 ^ 37 := by
  simp only [physKey, bootHome, Bool.false_eq_true, if_false]
  omega

/-- The pool in the HBM of die 1. -/
def farDieTables : Tables :=
  { version := 1, regions := [{ mode := 3, member := 0, pkg := 0, die := 1, base := 0, size := 2 ^ 31, homeBase := 0 }], members := [] }

/-- A package outside a domain whose ring asks for the kill of its frozen core, on which a block is resident. The block's header lies in
the HBM of die 1. -/
def killDue : State :=
  let s := (Tests.placed.bootPuts 0 0xA008 (leBytes 8 1)).bootPuts 0 0xA080 (leBytes 1 1 ++ leBytes 1 6 ++ zeros 6 ++ leBytes 8 0xC000)
  let s := s.updPkg 0 fun k => { k with
    bootState := 1, ringL := 0xA000, ringH := 0, ringK := 6
    frozen := [{ who := coreEndpoint placeCore, violation := 2, held := [], lines := [] }] }
  { s.updDie placeCore.dieId fun k => { k with cur := farDieTables } with arg := { p := 0 } }

/-- The request of `killDue`: the first of its ring. -/
def killRequest : Nat × Nat × List Byte := (0, 0xA080, leBytes 1 1 ++ leBytes 1 6 ++ zeros 6 ++ leBytes 8 0xC000 ++ zeros 48)

/-- The place of the state byte of the resident block's header (R259). -/
def headerKey : Nat := 343597515010

theorem killDue_nextRequest : killDue.nextRequest 0 = some killRequest := by decide +kernel

theorem killDue_block : killDue.fwGet 0 0xC000 4 = .ok (zeros 4) killDue := by
  rw [State.fwGet, if_neg (by decide +kernel), if_pos (by decide)]
  exact congrArg (Access.ok · killDue) (by decide +kernel)

theorem killDue_frozenAt : killDue.frozenAt (coreEndpoint placeCore) =
    some (0, { who := coreEndpoint placeCore, violation := 2, held := [], lines := [] }) := by decide +kernel

/-- The kill marks the block lost in its header. -/
theorem killDue_after : ∃ t, exec .killFrozenMaster killDue = .next t ∧ t.mem.read headerKey = 3 ∧ t.isMember 0 = false :=
  ⟨_, rfl, by decide +kernel, by decide +kernel⟩

/-- Refutes O51: its clauses of KILL_FROZEN_MASTER say that the state whose request ends has the memory of before, but the kill of a core
loses the blocks that are resident there (R123), which the device writes to their headers (R162, R246, R259). -/
theorem not_firmwareRequests : ¬ Obligations.FirmwareRequests := by
  unfold Obligations.FirmwareRequests
  intro h
  obtain ⟨-, -, -, -, -, -, -, -, -, -, hkill, -⟩ := h
  obtain ⟨-, hcore, -⟩ := hkill killDue killRequest (zeros 4) ⟨killDue_nextRequest, by decide, by decide, killDue_block⟩
  obtain ⟨t, ht, u, hmem, -, rfl⟩ := hcore 0 _ (by decide +kernel) killDue_frozenAt (Or.inr rfl) rfl (by decide)
  obtain ⟨t, ht', hlost, hout⟩ := killDue_after
  obtain rfl : _ = t := by simpa [ht] using ht'
  obtain ⟨hfix, hkeep⟩ := FwKeeps.endReq (p := 0) (s := u) killRequest 1 0
  obtain ⟨-, hread⟩ := hkeep ((State.isMember_of_fixed hfix 0).symm.trans hout) (by rw [hmem]; decide +kernel)
  have hsame : (3 : Byte) = killDue.mem.read headerKey := by
    rw [← hmem, ← hread headerKey fun b hb heq => by
      have := physKey_bootHome_lt b hb
      rw [heq] at this
      exact absurd this (by decide)]
    exact hlost.symm
  exact absurd hsame (by decide +kernel)

end Sys2Proof.Machine
end

section
/-! PROOFS. Traffic: what it leaves of the clock, domain time, the poisoned lines and the warps, and packets inside one package, which arrive
at once (R12, R41-R43). -/

open Sys2Proof Sys2Proof.Machine

namespace Sys2Proof.Machine

/-- What stays while traffic moves and the events of warps fire: the poisoned lines, the clock and domain time. -/
structure Calm where
  poisoned : List Nat
  now : Nat
  time : Nat → DWord

namespace State

def calm (s : State) : Calm := { poisoned := s.poisoned, now := s.now, time := fun p => (s.pkg p).time }

theorem poisoned_of_calm {s t : State} (h : t.calm = s.calm) : t.poisoned = s.poisoned := congrArg Calm.poisoned h
theorem now_of_calm {s t : State} (h : t.calm = s.calm) : t.now = s.now := congrArg Calm.now h
theorem timeAt_of_calm {s t : State} (h : t.calm = s.calm) (p : Nat) : t.timeAt p = s.timeAt p := congrFun (congrArg Calm.time h) p

/-! Updates of one unit. -/

@[simp] theorem setCore_calm (s : State) (c : CoreId) (v : Core) : (s.setCore c v).calm = s.calm := (rfl)
@[simp] theorem updCore_calm (s : State) (c : CoreId) (f : Core → Core) : (s.updCore c f).calm = s.calm := (rfl)
@[simp] theorem setDie_calm (s : State) (d : DieId) (v : Die) : (s.setDie d v).calm = s.calm := (rfl)
@[simp] theorem updDie_calm (s : State) (d : DieId) (f : Die → Die) : (s.updDie d f).calm = s.calm := (rfl)
@[simp] theorem post_calm (s : State) (i : Instr) (a : Arg) : (s.post i a).calm = s.calm := (rfl)
@[simp] theorem after_calm (s : State) (n : Nat) (i : Instr) (a : Arg) : (s.after n i a).calm = s.calm := (rfl)
@[simp] theorem setTag_calm (s : State) (c : CoreId) (n : Nat) (t : Tag) : (s.setTag c n t).calm = s.calm := (rfl)
@[simp] theorem allocTag_calm (s : State) (c : CoreId) (n : Nat) : (s.allocTag c n).calm = s.calm := (rfl)
@[simp] theorem setLine_calm (s : State) (c : CoreId) (l : CacheLine) : (s.setLine c l).calm = s.calm := (rfl)
@[simp] theorem dropLine_calm (s : State) (c : CoreId) (pa : Nat) : (s.dropLine c pa).calm = s.calm := (rfl)

@[simp] theorem updWarp_calm (s : State) (w : WarpId) (f : Warp → Warp) : (s.updWarp w f).calm = s.calm := by
  unfold updWarp; split <;> rfl

@[simp] theorem postOnce_calm (s : State) (i : Instr) (a : Arg) : (s.postOnce i a).calm = s.calm := by
  unfold postOnce; split <;> rfl

@[simp] theorem afterOnce_calm (s : State) (n : Nat) (i : Instr) (a : Arg) : (s.afterOnce n i a).calm = s.calm := by
  unfold afterOnce; split <;> rfl

/-- An update of a package that leaves its domain time. -/
theorem setPkg_calm (s : State) (p : Nat) (v : Package) (h : v.time = (s.pkg p).time) : (s.setPkg p v).calm = s.calm := by
  have ht : (fun q => ((s.setPkg p v).pkg q).time) = fun q => (s.pkg q).time := funext fun q => by
    by_cases hq : q = p
    · rw [hq, setPkg_pkg_self, h]
    · rw [setPkg_pkg_ne s p q v hq]
  exact congrArg (fun f => { s.calm with time := f }) ht

@[simp] theorem updPkg_calm (s : State) (p : Nat) (f : Package → Package) (h : ∀ k, (f k).time = k.time) : (s.updPkg p f).calm = s.calm :=
  setPkg_calm s p _ (h _)

@[simp] theorem foldl_calm {α : Type} (f : State → α → State) (h : ∀ s x, (f s x).calm = s.calm) (l : List α) (s : State) :
    (l.foldl f s).calm = s.calm := foldl_keeps calm f h l s

/-! Packets and lines. -/

@[simp] theorem log_calm (s : State) (p : Nat) (e : Endpoint) (code tag : Nat) (v : DWord) : (s.log p e code tag v).calm = s.calm := by
  simp [log]

@[simp] theorem sendFlit_calm (s : State) (p : Nat) (f : List Byte) : (s.sendFlit p f).calm = s.calm := by
  unfold sendFlit
  dsimp only
  split <;> simp [enqueueBy, setPort]

@[simp] theorem arriveSlot_calm (s : State) (q : Packet) : (s.arriveSlot q).calm = s.calm := by
  unfold arriveSlot
  split <;> simp

@[simp] theorem arrive_calm (s : State) (q : Packet) : (s.arrive q).calm = s.calm := by
  unfold arrive
  dsimp only
  repeat' split
  all_goals simp

@[simp] theorem send_calm (s : State) (q : Packet) : (s.send q).calm = s.calm := by
  unfold send
  split <;> simp

@[simp] theorem sendLine_calm (s : State) (l : LinePkt) : (s.sendLine l).calm = s.calm := by
  unfold sendLine arriveLine
  repeat' split
  all_goals simp

@[simp] theorem sendFlit_warps (s : State) (p : Nat) (f : List Byte) : (s.sendFlit p f).warps = s.warps := by
  unfold sendFlit
  dsimp only
  split <;> simp [enqueueBy, setPort, log]

@[simp] theorem sendLine_warps (s : State) (l : LinePkt) : (s.sendLine l).warps = s.warps := by
  unfold sendLine arriveLine
  repeat' split
  all_goals simp

/-! What follows a write at a home. -/

@[simp] theorem fireSlots_calm (s : State) (w : WarpId) (f : EventSlot → Bool) : (s.fireSlots w f).calm = s.calm := updWarp_calm ..

@[simp] theorem stampSc_calm (s : State) (h : Home) (order : Nat) (e : Endpoint) : (s.stampSc h order e).calm = s.calm := by
  unfold stampSc
  split <;> simp

@[simp] theorem evalAwait_calm (s : State) (d : DieId) (near : Nat → Bool) (w : WarpId) (x : PcSel) :
    (s.evalAwait d near w x).calm = s.calm := by
  unfold evalAwait
  dsimp only
  repeat' split
  all_goals simp

@[simp] theorem fireCounts_calm (s : State) (d : DieId) (pa n : Nat) : (s.fireCounts d pa n).calm = s.calm := by simp [fireCounts]

@[simp] theorem fireWatches_calm (s : State) (d : DieId) (pa n : Nat) : (s.fireWatches d pa n).calm = s.calm := by
  unfold fireWatches fireWatchesOf
  dsimp only
  split
  · rfl
  · simp [setPkg_calm]

@[simp] theorem markDirty_calm (s : State) (d : DieId) (pa : Nat) : (s.markDirty d pa).calm = s.calm := by
  unfold markDirty
  dsimp only
  split <;> simp

@[simp] theorem pushLine_calm (s : State) (h : Home) (pa : Nat) (d : DieId) (m : BitVec 128) : (s.pushLine h pa d m).calm = s.calm := by
  unfold pushLine
  dsimp only
  split <;> simp

@[simp] theorem answered_calm (s : State) (pa n : Nat) : (s.answered pa n).calm = s.calm := by
  unfold answered
  dsimp only
  split <;> simp

@[simp] theorem afterWrite_calm (s : State) (h : Home) (pa n : Nat) : (s.afterWrite h pa n).calm = s.calm := by
  unfold afterWrite
  dsimp only
  split
  · simp [pushAll]
  · split <;> split <;> simp [pushAll]

/-! Packets inside one package. -/

section
variable (s : State) (q : Packet) (e : Endpoint) (op v : Nat)

@[simp] theorem replyTo_src : (s.replyTo q e op v).src = e := rfl
@[simp] theorem replyTo_dst : (s.replyTo q e op v).dst = q.issuer := rfl
@[simp] theorem replyTo_opcode : (s.replyTo q e op v).opcode = op := rfl
@[simp] theorem replyTo_tag : (s.replyTo q e op v).tag = q.tag := rfl
@[simp] theorem replyTo_round : (s.replyTo q e op v).round = q.round := rfl
@[simp] theorem replyTo_data0 : (s.replyTo q e op v).data0 = BitVec.ofNat 128 v := rfl

end

/-- A packet inside one package is its event. -/
theorem send_near (s : State) (q : Packet) (i : Instr) (hp : q.src.pkg = q.dst.pkg) (hi : packetEvent q.opcode = some i) :
    s.send q = s.post i { q := q } := by
  have hne : q.opcode ≠ 6 := opcode_ne_broker hi
  simp [send, hp, arrive, hne, arriveSlot, hi]

/-- A line inside one package is its event. -/
theorem sendLine_near (s : State) (l : LinePkt) (i : Instr) (hp : l.src.pkg = l.dst.pkg) (hi : lineEvent l.opcode = some i) :
    s.sendLine l = s.post i { p := l.dst.pkg, l := l } := by
  simp [sendLine, hp, arriveLine, hi]

/-- An answer to a request is due as an event, of which `good` holds: it has the request's tag and round, and goes to its issuer (R41). -/
def AnswerDue (t : State) (i : Instr) (q : Packet) (good : Packet → Prop) : Prop :=
  ∃ r, (i, { q := r }) ∈ t.inflight ∧ r.tag = q.tag ∧ r.round = q.round ∧ r.dst = q.issuer ∧ good r

theorem answerDue_send (s u : State) (q : Packet) (e : Endpoint) (op v : Nat) (i : Instr) (good : Packet → Prop) (hp : e.pkg = q.issuer.pkg)
    (hi : packetEvent op = some i) (hg : good (u.replyTo q e op v)) : (s.send (u.replyTo q e op v)).AnswerDue i q good := by
  rw [send_near s _ i hp hi]
  exact ⟨u.replyTo q e op v, mem_post .., rfl, rfl, rfl, hg⟩

theorem answerDue_refuse (s : State) (q : Packet) (e : Endpoint) (cause : Nat) (hp : e.pkg = q.issuer.pkg) :
    (s.refuse q e cause).AnswerDue .errorReply q fun r => r.data0 = BitVec.ofNat 128 cause :=
  answerDue_send s s q e 0x86 cause _ _ hp rfl rfl

@[simp] theorem refuse_ground (s : State) (q : Packet) (e : Endpoint) (cause : Nat) : (s.refuse q e cause).ground = s.ground := send_ground ..

end State

end Sys2Proof.Machine
end

section
/-! PROOFS. Requests and lines at their home (R41, R43, R72, R204-R210, R351, R352, R405, R428). -/

open Sys2Proof Sys2Proof.Machine

namespace Sys2Proof.Machine

/-- A die serves an access of a master to a pool address itself: it is there, its tables are those of the access and none move, the line's
home is its own and passes the master (R72, R122). -/
structure State.Serves (s : State) (d : DieId) (pa : Nat) (v : BitVec 16) (e : Endpoint) (h : Home) : Prop where
  alive : (s.die d).lost = false
  settled : (s.die d).pend = none
  version : (s.die d).cur.version = v
  still : (s.die d).migr = []
  home : s.homeAt d pa = some h
  here : h.dieId = d
  passes : s.barred h e = false

namespace State

variable {s : State} {d : DieId} {pa : Nat} {v : BitVec 16} {e : Endpoint} {h : Home}

theorem meetVersion_settled (hp : (s.die d).pend = none) (v : BitVec 16) : s.meetVersion d v = s := by
  unfold meetVersion
  rw [hp]

theorem passHome_passes (hp : s.barred h e = false) (i : Instr) (f : State → State) : s.passHome h i e f = f s := by
  simp [passHome, hp]

theorem Serves.serveAt (k : s.Serves d pa v e h) (forwarded : Bool) : s.serveAt d pa v forwarded = .here h := by
  have hh : homeOf (s.die d).cur pa = some h := k.home
  simp [State.serveAt, k.version, k.still, hh, k.here]

/-- A well-formed request is performed at its home. -/
theorem serveHost_performs {q : Packet} (hq : s.arg.q = q) (k : s.Serves q.dst.dieId q.addr q.version q.issuer h)
    (hw : s.outsideWindow q = false) (hsym : q.sym = false) (hsc : q.scope ≤ 2) (hal : q.addr % 2 ^ q.size = 0) (again : Instr) (op : Nat)
    (write : Bool) (sizes : List Nat) (hs : q.size ∈ sizes) (f : Packet → List Byte → Option (List Byte)) :
    s.serveHost again op write sizes f = s.performAt q q.dst h q.dst.dieId q.addr again op write (f q) := by
  subst hq
  unfold serveHost
  dsimp only
  rw [if_neg (by simp [hw])]
  unfold serve
  dsimp only
  rw [if_neg (by simp [hs, hal]; omega), if_neg (by simp [hsym]), if_neg (by simp [k.alive]), meetVersion_settled k.settled, k.serveAt]
  exact passHome_passes k.passes _ _

/-- A misaligned request is refused (R42). -/
theorem serveHost_misaligned {q : Packet} (hq : s.arg.q = q) (hw : s.outsideWindow q = false) (hal : q.addr % 2 ^ q.size ≠ 0) (again : Instr)
    (op : Nat) (write : Bool) (sizes : List Nat) (f : Packet → List Byte → Option (List Byte)) :
    s.serveHost again op write sizes f = s.refuse q q.dst 7 := by
  subst hq
  unfold serveHost
  dsimp only
  rw [if_neg (by simp [hw])]
  unfold serve
  dsimp only
  rw [if_pos (by simp [hal])]

section
variable {q : Packet} (again : Instr) (op : Nat) (write : Bool) (f : List Byte → Option (List Byte))

/-- An access to a line that another master's core has pinned is to be tried again (R207). -/
theorem performAt_pinned (hpin : (s.pinHolder h).isSome = true) (hu : q.issuer.unit ≠ 0) :
    s.performAt q q.dst h d pa again op write f = s.send (s.replyTo q q.dst 0x85 0) := by
  obtain ⟨c, hc⟩ := Option.isSome_iff_exists.mp hpin
  simp [performAt, hc, ownCopy, hu]

variable (hpin : s.pinHolder h = none) (hpo : s.isPoisoned h = false) (hord : q.order ≠ 3)
include hpin hpo hord

/-- An access that writes nothing answers what it reads. -/
theorem performAt_read (hop : op ≠ 0x82) (hf : (if write then f (s.homeBytes d pa (2 ^ q.size)) else none) = none) :
    s.performAt q q.dst h d pa again op write f = s.send (s.replyTo q q.dst op (leVal (s.homeBytes d pa (2 ^ q.size)))) := by
  simp [performAt, hpin, hpo, scBusy, stampSc, hord, hop, hf]

/-- An access that writes answers behind the write what was there before, or nothing where it is a write. -/
theorem performAt_write (hsc : q.scope ≤ 2) (hop : op ≠ 0x95) (new : List Byte) (hf : f (s.homeBytes d pa (2 ^ q.size)) = some new) :
    let t := s.homeWrite d pa new
    s.performAt q q.dst h d pa again op true f =
      t.send (t.replyTo q q.dst op (if op = 0x82 then 0 else leVal (s.homeBytes d pa (2 ^ q.size)))) := by
  have hs : ¬ 3 ≤ q.scope := by omega
  simp [performAt, hpin, hpo, scBusy, stampSc, hord, hf, replyWhen, hs, hop]

end

/-- What a read of up to 16 bytes answers is their value (R40). -/
theorem toNat_answer (s : State) (d : DieId) (pa n : Nat) (h : n ≤ 16) :
    (BitVec.ofNat 128 (leVal (s.homeBytes d pa n))).toNat = leVal (s.homeBytes d pa n) := by
  have hlt := leVal_lt (s.homeBytes d pa n)
  rw [homeBytes_length] at hlt
  have hle : 256 ^ n ≤ 256 ^ 16 := Nat.pow_le_pow_right (by decide) h
  rw [BitVec.toNat_ofNat, Nat.mod_eq_of_lt (by omega)]

/-- The named bytes hold a value, and no other byte has changed. -/
def Put (s t : State) (d : DieId) (pa n v : Nat) : Prop :=
  SameMemBut (s.places d pa n) s t ∧ leVal (t.homeBytes d pa n) = v % 2 ^ (8 * n)

theorem put_homeWrite (s : State) (d : DieId) (pa n v : Nat) (hw : s.mem.wf = true) (hn : 0 < n) (hd : (s.places d pa n).Nodup)
    (hl : (s.places d pa n).length = n) : s.Put (s.homeWrite d pa (leBytes n v)) d pa n v := by
  have hlen := leBytes_length n v
  obtain ⟨hmem, hback⟩ := homeWrite_bytes s d pa (leBytes n v) hw (List.ne_nil_of_length_pos (by rwa [hlen])) (by rwa [hlen]) (by rwa [hlen])
  rw [hlen] at hmem hback
  exact ⟨hmem, by rw [hback, leVal_leBytes, Nat.pow_mul]⟩

theorem Put.of_ground {s t u : State} {d : DieId} {pa n v : Nat} (h : s.Put t d pa n v) (hg : u.ground = t.ground) : s.Put u d pa n v := by
  obtain ⟨hmem, hval⟩ := h
  exact ⟨fun a ha => by rw [mem_of_ground hg, hmem a ha], by rw [homeBytes_of_ground hg, hval]⟩

end State

/-- A request of its own package, at the home that performs it: well-formed but for its alignment, at no place where others hold it up. -/
structure State.Asked (s : State) (q : Packet) (h : Home) : Prop where
  arg : s.arg.q = q
  near : q.issuer.pkg = q.dst.pkg
  pool : q.sym = false
  scope : q.scope ≤ 2
  order : q.order ≠ 3
  window : s.outsideWindow q = false
  serves : s.Serves q.dst.dieId q.addr q.version q.issuer h

namespace State.Asked

variable {s : State} {q : Packet} {h : Home} (k : s.Asked q h)
include k

theorem yields_misaligned (hal : q.addr % 2 ^ q.size ≠ 0) :
    Yields .readRequest s fun t => SameMem s t ∧ t.AnswerDue .errorReply q fun r => r.data0 = 7 := by
  refine Yields.of_exec (congrArg Host.Outcome.next (serveHost_misaligned k.arg k.window hal ..)) ?_
  exact ⟨SameMem.of_ground (refuse_ground ..), answerDue_refuse _ _ _ _ k.near.symm⟩

variable (hal : q.addr % 2 ^ q.size = 0)
include hal

theorem yields_pinned (hpin : (s.pinHolder h).isSome = true) (hu : q.issuer.unit ≠ 0) (hs : q.size ≤ 4) :
    Yields .writeRequest s fun t => SameMem s t ∧ t.AnswerDue .retryReply q fun _ => True := by
  have hx := serveHost_performs k.arg k.serves k.window k.pool k.scope hal .writeRequest 0x82 true [0, 1, 2, 3, 4] (by simp; omega)
    fun q _ => some (leBytes (2 ^ q.size) q.data0.toNat)
  refine Yields.of_exec (congrArg Host.Outcome.next (hx.trans (performAt_pinned _ _ _ _ hpin hu))) ?_
  exact ⟨SameMem.of_ground (send_ground ..), answerDue_send _ _ _ _ _ _ _ _ k.near.symm rfl trivial⟩

variable (hpin : s.pinHolder h = none) (hpo : s.isPoisoned h = false)
include hpin hpo

theorem yields_read (hs : q.size ≤ 4) : Yields .readRequest s fun t => SameMem s t ∧
    t.AnswerDue .readData q fun r => r.data0.toNat = leVal (s.homeBytes q.dst.dieId q.addr (2 ^ q.size)) := by
  have hx := serveHost_performs k.arg k.serves k.window k.pool k.scope hal .readRequest 0x81 false [0, 1, 2, 3, 4] (by simp; omega)
    fun _ _ => none
  refine Yields.of_exec (congrArg Host.Outcome.next (hx.trans (performAt_read _ _ _ _ hpin hpo k.order (by decide) rfl))) ?_
  refine ⟨SameMem.of_ground (send_ground ..), answerDue_send _ _ _ _ _ _ _ _ k.near.symm rfl ?_⟩
  exact toNat_answer _ _ _ _ (Nat.pow_le_pow_right (by decide) hs)

theorem yields_write (hs : q.size ≤ 4) (hw : s.mem.wf = true) (hd : (s.places q.dst.dieId q.addr (2 ^ q.size)).Nodup)
    (hl : (s.places q.dst.dieId q.addr (2 ^ q.size)).length = 2 ^ q.size) :
    Yields .writeRequest s fun t => s.Put t q.dst.dieId q.addr (2 ^ q.size) q.data0.toNat ∧ t.AnswerDue .writeAck q fun _ => True := by
  have hx := serveHost_performs k.arg k.serves k.window k.pool k.scope hal .writeRequest 0x82 true [0, 1, 2, 3, 4] (by simp; omega)
    fun q _ => some (leBytes (2 ^ q.size) q.data0.toNat)
  refine Yields.of_exec (congrArg Host.Outcome.next (hx.trans (performAt_write _ _ _ hpin hpo k.order k.scope (by decide) _ rfl))) ?_
  exact ⟨(put_homeWrite _ _ _ _ _ hw (Nat.two_pow_pos _) hd hl).of_ground (send_ground ..),
    answerDue_send _ _ _ _ _ _ _ _ k.near.symm rfl trivial⟩

theorem yields_atomicAdd (hs : q.size = 2 ∨ q.size = 3) (hw : s.mem.wf = true) (hd : (s.places q.dst.dieId q.addr (2 ^ q.size)).Nodup)
    (hl : (s.places q.dst.dieId q.addr (2 ^ q.size)).length = 2 ^ q.size) (hadd : q.atom / 4 = 0) :
    let old := leVal (s.homeBytes q.dst.dieId q.addr (2 ^ q.size))
    Yields .atomicRequest s fun t => s.Put t q.dst.dieId q.addr (2 ^ q.size) (old + q.data0.toNat) ∧
      t.AnswerDue .atomicData q fun r => r.data0.toNat = old := by
  intro old
  have hx := serveHost_performs k.arg k.serves k.window k.pool k.scope hal .atomicRequest 0x83 true [2, 3] (by simpa using hs) fun q old =>
    some (leBytes (2 ^ q.size) (atomNew q.atom (2 ^ q.size) (leVal old) (q.data0.toNat % 2 ^ (8 * 2 ^ q.size))))
  have hnew : atomNew q.atom (2 ^ q.size) old (q.data0.toNat % 2 ^ (8 * 2 ^ q.size)) = (old + q.data0.toNat) % 2 ^ (8 * 2 ^ q.size) := by
    have h28 : q.atom ≠ 28 := by omega
    simp [atomNew, h28, hadd]
  refine Yields.of_exec (congrArg Host.Outcome.next (hx.trans (performAt_write _ _ _ hpin hpo k.order k.scope (by decide) _ rfl))) ?_
  refine ⟨State.Put.of_ground ?_ (send_ground ..), answerDue_send _ _ _ _ _ _ _ _ k.near.symm rfl ?_⟩
  · obtain ⟨hmem, hval⟩ := put_homeWrite s q.dst.dieId q.addr (2 ^ q.size) (atomNew q.atom (2 ^ q.size) old (q.data0.toNat % 2 ^ (8 * 2 ^ q.size)))
      hw (Nat.two_pow_pos _) hd hl
    exact ⟨hmem, hval.trans (by rw [hnew, Nat.mod_mod])⟩
  · exact toNat_answer _ _ _ _ (by rcases hs with hs | hs <;> simp [hs])

theorem yields_cas (hs : q.size = 2 ∨ q.size = 3) (hw : s.mem.wf = true) (hd : (s.places q.dst.dieId q.addr (2 ^ q.size)).Nodup)
    (hl : (s.places q.dst.dieId q.addr (2 ^ q.size)).length = 2 ^ q.size) :
    let old := leVal (s.homeBytes q.dst.dieId q.addr (2 ^ q.size))
    Yields .casRequest s fun t => t.AnswerDue .casData q (fun r => r.data0.toNat = old) ∧
      if old = q.data0.toNat % 2 ^ (8 * 2 ^ q.size) then s.Put t q.dst.dieId q.addr (2 ^ q.size) q.data1.toNat else SameMem s t := by
  intro old
  have hx := serveHost_performs k.arg k.serves k.window k.pool k.scope hal .casRequest 0x84 true [2, 3] (by simpa using hs) fun q old =>
    if leVal old = q.data0.toNat % 2 ^ (8 * 2 ^ q.size) then some (leBytes (2 ^ q.size) q.data1.toNat) else none
  have hval := toNat_answer s q.dst.dieId q.addr (2 ^ q.size) (by rcases hs with hs | hs <;> simp [hs])
  by_cases heq : old = q.data0.toNat % 2 ^ (8 * 2 ^ q.size)
  · refine Yields.of_exec (congrArg Host.Outcome.next (hx.trans (performAt_write _ _ _ hpin hpo k.order k.scope (by decide) _ (if_pos heq)))) ?_
    rw [if_pos heq]
    exact ⟨answerDue_send _ _ _ _ _ _ _ _ k.near.symm rfl hval,
      (put_homeWrite _ _ _ _ _ hw (Nat.two_pow_pos _) hd hl).of_ground (send_ground ..)⟩
  · refine Yields.of_exec (congrArg Host.Outcome.next (hx.trans (performAt_read _ _ _ _ hpin hpo k.order (by decide) (if_neg heq)))) ?_
    rw [if_neg heq]
    exact ⟨answerDue_send _ _ _ _ _ _ _ _ k.near.symm rfl hval, SameMem.of_ground (send_ground ..)⟩

end State.Asked

end Sys2Proof.Machine
end

section
/-! PROOFS. Lines and messages at their home (R43, R206-R210, R405, R428), and the obligation of the requests at a home (O44). -/

open Sys2Proof Sys2Proof.Machine

namespace Sys2Proof.Machine

namespace State

/-! LINE_READ (R428). -/

theorem pinAt_mem (s : State) (h : Home) (c : CoreId) : (s.pinAt h c).mem = s.mem := rfl

theorem pinAt_cur (s : State) (h : Home) (c : CoreId) (d : DieId) : ((s.pinAt h c).die d).cur = (s.die d).cur := by
  obtain ⟨-, hc, -⟩ := Die.of_still (die_of_still (updDie_still s h.dieId (fun k => { k with pins := tset k.pins (lineOf (physKey h)) c })
    fun _ => rfl) d)
  exact hc

theorem pinHolder_pinAt (s : State) (h : Home) (c : CoreId) : (s.pinAt h c).pinHolder h = some c := by
  rw [pinAt, pinHolder, updDie_die_self, tget?_tset_self]

theorem pinHolder_of_ground {s t : State} (hg : t.ground = s.ground) (h : Home) : t.pinHolder h = s.pinHolder h := by
  rw [pinHolder, die_of_ground hg, pinHolder]

/-- A read of a line that is neither pinned nor poisoned, at a scope that makes no visitor copies, is answered with the line; at core scope
the reader's core pins it (R206). -/
theorem exec_lineRead (s : State) (q : Packet) (h : Home) (hq : s.arg.q = q) (k : s.Serves q.dst.dieId q.addr q.version q.issuer h)
    (hsym : q.sym = false) (hsc : q.scope ≤ 2) (hal : q.addr % 128 = 0) (hpin : s.pinHolder h = none) (hpo : s.isPoisoned h = false) :
    let u := if q.scope = 0 then s.pinAt h q.issuer.core else s
    exec .lineRead s = .next (u.sendLine (u.lineReply q h q.dst.dieId q.addr)) := by
  subst hq
  have hs : ¬ 3 ≤ s.arg.q.scope := by omega
  change execLineRead s = _
  unfold execLineRead
  dsimp only
  rw [if_neg (by simp [hsym, hal]; omega), if_neg (by simp [k.alive]), meetVersion_settled k.settled, k.serveAt]
  dsimp only
  rw [passHome_passes k.passes, hpin]
  simp [hs, hpo]

end State

theorem yields_lineRead (s : State) (q : Packet) (h : Home) (hq : s.arg.q = q) (hnear : q.issuer.pkg = q.dst.pkg)
    (k : s.Serves q.dst.dieId q.addr q.version q.issuer h) (hsym : q.sym = false) (hsc : q.scope ≤ 2) (hal : q.addr % 128 = 0)
    (hpin : s.pinHolder h = none) (hpo : s.isPoisoned h = false) :
    Yields .lineRead s fun t => SameMem s t ∧ (q.scope = 0 → s.pinHolder h = none → t.pinHolder h = some q.issuer.core) ∧
      ∃ l, (.lineData, { p := q.issuer.pkg, l := l }) ∈ t.inflight ∧ l.tag = q.tag ∧ l.data = s.homeBytes q.dst.dieId q.addr 128 := by
  refine Yields.of_exec (State.exec_lineRead s q h hq k hsym hsc hal hpin hpo) ?_
  generalize hu : (if q.scope = 0 then s.pinAt h q.issuer.core else s) = u
  have hmem : u.mem = s.mem := by
    rw [← hu]
    split <;> rfl
  have hcur : (u.die q.dst.dieId).cur = (s.die q.dst.dieId).cur := by
    rw [← hu]
    split
    · exact State.pinAt_cur ..
    · rfl
  have hpkg : h.pkg = q.issuer.pkg := (congrArg DieId.pkg k.here).trans hnear.symm
  have hg := State.sendLine_ground u (u.lineReply q h q.dst.dieId q.addr)
  refine ⟨fun a => by rw [State.mem_of_ground hg, hmem], fun h0 _ => ?_, u.lineReply q h q.dst.dieId q.addr, ?_, rfl, ?_⟩
  · rw [State.pinHolder_of_ground hg, ← hu, if_pos h0, State.pinHolder_pinAt]
  · rw [State.sendLine_near u _ .lineData hpkg rfl]
    exact State.mem_post ..
  · exact State.homeBytes_congr hmem hcur ..

/-! LINE_WRITE (R43, R427). -/

/-- A whole line written at its home makes it sound (R427). -/
theorem State.homeWrite_isPoisoned (s : State) (d : DieId) (pa : Nat) (bs : List Byte) (h : Home) (hh : s.homeAt d pa = some h)
    (hn : bs.length = 128) (hal : pa % 128 = 0) : (s.homeWrite d pa bs).isPoisoned h = false := by
  rw [homeWrite, hh]
  dsimp only
  rw [if_pos (by simp [hn, hal]), isPoisoned, poisoned_of_calm (afterWrite_calm ..)]
  simp

/-- A whole line that is not poisoned is stored as it is. -/
theorem State.lineStore_whole (s : State) (h : Home) (d : DieId) (pa : Nat) (l : LinePkt) (hm : l.mask = BitVec.allOnes 128)
    (hp : l.poison = false) : s.lineStore h d pa l = s.homeWrite d pa l.data := by
  simp [lineStore, lineWriteAt, hm, hp]

theorem State.exec_lineWrite (s : State) (l : LinePkt) (h : Home) (hl : s.arg.l = l) (k : s.Serves l.dst.dieId l.addr l.version l.issuer h)
    (hsc : l.scope ≤ 2) (hal : l.addr % 128 = 0) (hpin : s.pinHolder h = none) (hm : l.mask = BitVec.allOnes 128) (hp : l.poison = false) :
    let t := s.homeWrite l.dst.dieId l.addr l.data
    exec .lineWrite s = .next (t.send (t.replyTo (State.ofLine l) l.dst 0x82 0)) := by
  subst hl
  have hs : ¬ 3 ≤ s.arg.l.scope := by omega
  change execLineWrite s = _
  unfold execLineWrite
  dsimp only
  rw [if_neg (by simp [hal]), if_neg (by simp [k.alive]), meetVersion_settled k.settled, k.serveAt]
  dsimp only
  rw [passHome_passes k.passes, hpin, lineStore_whole _ _ _ _ _ hm hp]
  simp [replyWhen, hs]

theorem yields_lineWrite (s : State) (l : LinePkt) (h : Home) (hl : s.arg.l = l) (hnear : l.issuer.pkg = l.dst.pkg)
    (k : s.Serves l.dst.dieId l.addr l.version l.issuer h) (hsc : l.scope ≤ 2) (hal : l.addr % 128 = 0) (hpin : s.pinHolder h = none)
    (hm : l.mask = BitVec.allOnes 128) (hp : l.poison = false) (hn : l.data.length = 128) (hw : s.mem.wf = true)
    (hd : (s.places l.dst.dieId l.addr 128).Nodup) (hlen : (s.places l.dst.dieId l.addr 128).length = 128) :
    Yields .lineWrite s fun t => t.homeBytes l.dst.dieId l.addr 128 = l.data ∧ t.isPoisoned h = false ∧
      SameMemBut (s.places l.dst.dieId l.addr 128) s t ∧
      ∃ r, (.writeAck, { q := r }) ∈ t.inflight ∧ r.tag = l.tag ∧ r.round = l.round ∧ r.dst = l.issuer := by
  refine Yields.of_exec (State.exec_lineWrite s l h hl k hsc hal hpin hm hp) ?_
  obtain ⟨hmem, hback⟩ := State.homeWrite_bytes s l.dst.dieId l.addr l.data hw (List.ne_nil_of_length_pos (by omega)) (by rwa [hn])
    (by rwa [hn])
  rw [hn] at hmem hback
  have hsound := State.homeWrite_isPoisoned s _ _ l.data h k.home hn hal
  generalize s.homeWrite l.dst.dieId l.addr l.data = u at *
  have hg := State.send_ground u (u.replyTo (State.ofLine l) l.dst 0x82 0)
  obtain ⟨r, hr, htag, hround, hdst, -⟩ := State.answerDue_send u u (State.ofLine l) l.dst 0x82 0 .writeAck (fun _ => True) hnear.symm rfl trivial
  refine ⟨by rw [State.homeBytes_of_ground hg, hback], ?_, fun a ha => by rw [State.mem_of_ground hg, hmem a ha], r, hr, htag, hround, hdst⟩
  rw [State.isPoisoned, State.poisoned_of_calm (State.send_calm ..)]
  exact hsound

/-! LINE_PUSH (R210). -/

theorem yields_linePush (s : State) (l : LinePkt) (hl : s.arg.l = l) (hnear : l.issuer.pkg = l.dst.pkg) (hal : (s.die l.dst.dieId).lost = false)
    (hv : (tget? (s.die l.dst.dieId).visitors (lineOf l.addr)).isSome = true) :
    Yields .linePush s fun t => SameMem s t ∧ (∃ r, (.writeAck, { q := r }) ∈ t.inflight ∧ r.dst = l.issuer) ∧
      tget? (t.die l.dst.dieId).visitors (lineOf l.addr) = if l.mask = 0 ∨ l.poison = true then none else some l.data := by
  subst hl
  have hnone : (tget? (s.die s.arg.l.dst.dieId).visitors (lineOf s.arg.l.addr)).isNone = false := by
    rw [← Option.not_isSome, hv]
    rfl
  refine Yields.of_exec (show exec .linePush s = execLinePush s from rfl) ?_
  dsimp only
  rw [if_neg (by simp [hal, hnone])]
  generalize hu : State.staleVisits _ _ _ = u
  rw [State.send_near u _ .writeAck hnear.symm rfl]
  have hmem : u.mem = s.mem := by
    rw [← hu]
    split <;> rfl
  have hdie : u.die s.arg.l.dst.dieId = { s.die s.arg.l.dst.dieId with
      visitors := if s.arg.l.mask = 0 ∨ s.arg.l.poison = true then tdel (s.die s.arg.l.dst.dieId).visitors (lineOf s.arg.l.addr)
        else tset (s.die s.arg.l.dst.dieId).visitors (lineOf s.arg.l.addr) s.arg.l.data } := by
    rw [← hu]
    by_cases hdrop : s.arg.l.mask = 0 ∨ s.arg.l.poison = true
    · rw [if_pos (by simpa using hdrop), if_pos hdrop]
      exact State.setDie_die_self ..
    · rw [if_neg (by simpa using hdrop), if_neg hdrop]
      exact State.setDie_die_self ..
  refine ⟨fun a => by rw [State.post_mem, hmem], ⟨_, State.mem_post .., rfl⟩, ?_⟩
  rw [State.die_of_ground (State.post_ground ..), hdie]
  dsimp only
  split
  · exact tget?_tdel_self ..
  · exact tget?_tset_self ..

/-! MAILBOX_REQUEST (R405). -/

theorem State.fireCore_cores (s : State) (c : CoreId) (f : EventSlot → Bool) : (s.fireCore c f).cores = s.cores :=
  foldl_keeps cores _ (fun _ _ => updWarp_cores ..) _ _

theorem State.fireCore_ground (s : State) (c : CoreId) (f : EventSlot → Bool) : (s.fireCore c f).ground = s.ground :=
  foldl_ground _ (fun _ _ => fireSlots_ground ..) _ _

section
variable (s : State) (q : Packet) (c : CoreId) (hq : s.arg.q = q) (hc : c = { pkg := q.dst.pkg, die := q.dst.die, pos := q.addr / 2 ^ 12 % 64 })
  (hnear : q.issuer.pkg = q.dst.pkg) (hsym : q.sym = false) (hsize : q.size = 4) (hlo : q.addr < 2 ^ 18) (hmid : q.addr / 16 % 2 ^ 8 = 0)
  (hdie : q.dst.die ≤ 3) (hal : (s.die q.dst.dieId).lost = false) (hon : (s.die q.dst.dieId).working.getLsbD c.pos = true)
include hq hc hsym hsize hlo hmid hdie hal hon

/-- A message to a core that is there is turned away when its mailbox holds four, and joins it otherwise. -/
theorem State.exec_mailboxRequest :
    let m := q.addr % 16
    let box := tget (s.core c).mbox m []
    exec .mailboxRequest s = .next (if 4 ≤ box.length then s.send (s.replyTo q q.dst 0x85 0) else
      let t := (s.updCore c fun k => { k with mbox := tset k.mbox m (box ++ [q.data0]) }).fireCore c fun v => v.kind == 4 && v.source.toNat % 16 == m
      (t.pumpMail c (t.core c).recv).send (t.replyTo q q.dst 0x82 0)) := by
  subst hq hc
  change execMailboxRequest s = _
  unfold execMailboxRequest
  dsimp only at hon ⊢
  rw [if_neg (by simpa [hsym, hsize, bits] using ⟨hlo, hmid⟩), if_neg (by simp [hal]), if_neg (by simpa [hdie, bits] using hon)]
  rfl

include hnear

theorem yields_mailboxRequest_full (hfull : 4 ≤ (tget (s.core c).mbox (q.addr % 16) []).length) :
    Yields .mailboxRequest s fun t => t.cores = s.cores ∧ ∃ r, (.retryReply, { q := r }) ∈ t.inflight ∧ r.tag = q.tag := by
  refine Yields.of_exec (State.exec_mailboxRequest s q c hq hc hsym hsize hlo hmid hdie hal hon) ?_
  rw [if_pos hfull, State.send_near _ _ .retryReply hnear.symm rfl]
  exact ⟨rfl, _, State.mem_post .., rfl⟩

theorem yields_mailboxRequest (hroom : (tget (s.core c).mbox (q.addr % 16) []).length < 4) (hrecv : (s.core c).recv = []) :
    Yields .mailboxRequest s fun t => SameMem s t ∧
      tget (t.core c).mbox (q.addr % 16) [] = tget (s.core c).mbox (q.addr % 16) [] ++ [q.data0] ∧
      ∃ r, (.writeAck, { q := r }) ∈ t.inflight ∧ r.tag = q.tag := by
  refine Yields.of_exec (State.exec_mailboxRequest s q c hq hc hsym hsize hlo hmid hdie hal hon) ?_
  rw [if_neg (by omega)]
  dsimp only
  generalize hu : s.updCore c _ = u
  have hcore : u.core c = { s.core c with mbox := tset (s.core c).mbox (q.addr % 16) (tget (s.core c).mbox (q.addr % 16) [] ++ [q.data0]) } := by
    rw [← hu]
    exact tget_tset_self ..
  generalize ht : u.fireCore c _ = t
  have htc : t.core c = u.core c := congrArg (tget · c Core.reset) (ht ▸ State.fireCore_cores ..)
  have hmem : t.mem = s.mem := by rw [← ht, State.mem_of_ground (State.fireCore_ground ..), ← hu, State.updCore_mem]
  rw [htc, hcore, hrecv, State.pumpMail, State.send_near t _ .writeAck hnear.symm rfl]
  refine ⟨fun a => by rw [State.post_mem, hmem], ?_, _, State.mem_post .., rfl⟩
  rw [show (t.post .writeAck _).core c = t.core c from rfl, htc, hcore]
  exact tget_tset_self ..

end

/-- Settles O44: each request at its home, the lines, a push and a message, an event at a time. -/
theorem homeRequests : Obligations.HomeRequests := by
  refine ⟨?_, ?_, fun s hnear hal hv => yields_linePush s _ rfl hnear hal hv, ?_⟩
  · intro s q d n old keys reply put h hnear hsym hsc hord hal hp hv hm hh hd hnodup hlen hb hw
    have k : s.Serves d q.addr q.version q.issuer h := ⟨hal, hp, hv, hm, hh, hd, hb⟩
    have ask : s.Asked q h := ⟨rfl, hnear, hsym, hsc, hord, hw, k⟩
    refine ⟨fun _ hmis => ask.yields_misaligned hmis, fun ha hpin hu hs => ask.yields_pinned ha hpin hu hs, fun ha hpin hpo => ?_⟩
    refine ⟨fun hs => ask.yields_read ha hpin hpo hs, fun hs hwf => ask.yields_write ha hpin hpo hs hwf hnodup hlen, fun hs hwf => ?_,
      fun ha => yields_lineRead s q h rfl hnear k hsym hsc ha hpin hpo⟩
    exact ⟨fun hadd => ask.yields_atomicAdd ha hpin hpo hs hwf hnodup hlen hadd, ask.yields_cas ha hpin hpo hs hwf hnodup hlen⟩
  · intro s l d keys h hnodup hlen hnear hal hsc halive hp hv hm hh hd hpin hb hmask hn hpo hwf
    exact yields_lineWrite s l h rfl hnear ⟨halive, hp, hv, hm, hh, hd, hb⟩ hsc hal hpin hmask hpo hn hwf hnodup hlen
  · intro s q c box hnear hsym hsize hlo hmid hdie hal hon
    exact ⟨yields_mailboxRequest_full s q c rfl rfl hnear hsym hsize hlo hmid hdie hal hon,
      yields_mailboxRequest s q c rfl rfl hnear hsym hsize hlo hmid hdie hal hon⟩

end Sys2Proof.Machine
end

section
/-! PROOFS. Instructions in flight that end (R44, R173, R221): what is due then, and what the tag that was answered is worth. -/

open Sys2Proof Sys2Proof.Machine

namespace Sys2Proof.Machine

/-- A flight that has ended: its results wait to be written (R173). -/
def Flight.ended (f : Flight) : Flight := { f with done := true, counted := false, slots := [], found := [], tags := [] }

namespace State

variable {s : State} {w : WarpId} {id : Nat} {f : Flight}

/-! Flights behind an update. -/

theorem flight?_of_warps {s t : State} (h : t.warps = s.warps) (w : WarpId) (id : Nat) : t.flight? w id = s.flight? w id := by
  rw [flight?, flight?, warp?, warp?, h]

/-- An update of a warp that is there. -/
theorem warp?_updWarp_self {v : Warp} (h : s.warp? w = some v) (g : Warp → Warp) : (s.updWarp w g).warp? w = some (g v) := by
  rw [updWarp, h]
  exact tget?_tset_self ..

theorem flight?_updWarp_self (h : s.flight? w id = some f) (g : Warp → Warp) (hg : ∀ v, (g v).flights = v.flights) :
    (s.updWarp w g).flight? w id = some f := by
  obtain ⟨v, hv, hf⟩ := Option.bind_eq_some_iff.mp h
  rw [flight?, warp?_updWarp_self hv, Option.bind_some, Warp.flight?, hg]
  exact hf

theorem flight?_updFlight_self (h : s.flight? w id = some f) (g : Flight → Flight) (hg : ∀ x, (g x).id = x.id) :
    (s.updFlight w id g).flight? w id = some (g f) := by
  obtain ⟨v, hv, hf⟩ := Option.bind_eq_some_iff.mp h
  have hid : (f.id == id) = true := List.find?_some (p := fun x : Flight => x.id == id) hf
  have hsame : ((fun x : Flight => x.id == id) ∘ fun x => if x.id == id then g x else x) = fun x => x.id == id := funext fun x => by
    dsimp only [Function.comp]
    split <;> simp [hg]
  rw [updFlight, flight?, warp?_updWarp_self hv, Option.bind_some, Warp.flight?, Warp.updFlight, List.find?_map, hsame,
    show v.flights.find? _ = some f from hf, Option.map_some, if_pos hid]

/-! Tags behind an update. -/

theorem tag_of_cores {s t : State} (h : t.cores = s.cores) (c : CoreId) (n : Nat) : t.tag c n = s.tag c n := by
  rw [tag, tag, core, core, h]

@[simp] theorem cancel_tag (s : State) (i : Instr) (a : Arg) (c : CoreId) (n : Nat) : (s.cancel i a).tag c n = s.tag c n := rfl

theorem tag_setTag (s : State) (c d : CoreId) (n m : Nat) (v : Tag) :
    (s.setTag c n v).tag d m = if d = c ∧ m = n then v else s.tag d m := by
  unfold setTag tag updCore setCore core
  by_cases hd : d = c
  · subst hd
    rw [tget_tset_self]
    by_cases hm : m = n
    · subst hm
      simp
    · simp [hm, tget_tset_ne _ _ _ _ _ hm]
  · simp [hd, tget_tset_ne _ _ _ _ _ hd]

@[simp] theorem tag_setTag_self (s : State) (c : CoreId) (n : Nat) (v : Tag) : (s.setTag c n v).tag c n = v := by
  rw [tag_setTag, if_pos ⟨rfl, rfl⟩]

/-- A tag that has been answered is held no more. -/
theorem freeTagNow_held (s : State) (c : CoreId) (n : Nat) : ((s.freeTagNow c n).tag c n).held = false := by
  unfold freeTagNow
  split
  · rw [cancel_tag, tag_setTag_self]
  · rw [tag, core, updCore, setCore, tget_tset_self, tget, tget?_tdel_self]
    rfl

/-- A tag that is not held stays so when another is freed. -/
theorem freeTagNow_held_of (s : State) (c d : CoreId) (n m : Nat) (h : (s.tag c n).held = false) : ((s.freeTagNow d m).tag c n).held = false := by
  by_cases hsame : c = d ∧ n = m
  · obtain ⟨rfl, rfl⟩ := hsame
    exact freeTagNow_held ..
  · unfold freeTagNow
    split
    · rwa [cancel_tag, tag_setTag, if_neg hsame]
    · by_cases hd : c = d
      · subst hd
        have hm : n ≠ m := fun e => hsame ⟨rfl, e⟩
        rw [tag, core, updCore, setCore, tget_tset_self, tget, tget?_tdel_ne _ _ _ hm]
        exact h
      · rwa [tag, core, updCore, setCore, tget_tset_ne _ _ _ _ _ hd]

@[simp] theorem freeTagNow_warps (s : State) (c : CoreId) (n : Nat) : (s.freeTagNow c n).warps = s.warps := by
  unfold freeTagNow
  split <;> rfl

@[simp] theorem updFlight_cores (s : State) (w : WarpId) (id : Nat) (g : Flight → Flight) : (s.updFlight w id g).cores = s.cores :=
  updWarp_cores ..

/-! The tags of a flight that needs them no more (R44). -/

theorem flight?_dropTags (h : s.flight? w id = some f) : (s.dropTags w id).flight? w id = some { f with tags := [] } := by
  unfold dropTags
  rw [h]
  dsimp only
  split
  · next ht => rw [h, ← List.isEmpty_iff.mp ht]
  · rw [flight?_of_warps (foldl_keeps warps _ (fun s n => freeTagNow_warps s w.core n) _ _)]
    exact flight?_updFlight_self h _ fun _ => rfl

theorem dropTags_none (h : s.flight? w id = some f) (ht : f.tags = []) : s.dropTags w id = s := by
  unfold dropTags
  rw [h]
  simp [ht]

theorem dropTags_held (s : State) (w : WarpId) (id : Nat) (c : CoreId) (n : Nat) (h : (s.tag c n).held = false) :
    ((s.dropTags w id).tag c n).held = false := by
  unfold dropTags
  split
  · next f _ =>
    split
    · exact h
    · have hall : ∀ (l : List Nat) (u : State), (u.tag c n).held = false →
          ((l.foldl (fun (s : State) m => s.freeTagNow w.core m) u).tag c n).held = false := fun l => by
        induction l with
        | nil => exact fun u hu => hu
        | cons m l ih => exact fun u hu => ih _ (freeTagNow_held_of u c w.core n m hu)
      exact hall _ _ (by rwa [tag_of_cores (updFlight_cores ..)])
  · exact h

/-! The end of a flight with nothing left to do, which is no acquire. -/

section
variable (hf : s.flight? w id = some f) (hdone : f.done = false) (hfault : f.fault = none) (hleft : f.unperformed = 0) (hord : f.order = 0)
include hf hdone hfault hleft hord

/-- With a destination it ends in its fill, which is due. -/
theorem endFlight_fills (hdest : f.dest ≠ []) : s.endFlight w id =
    ((s.dropTags w id).updFlight w id fun f => { f with done := true, counted := false, slots := [], found := [] }).postOnce .registerFill
      { w := w, i := id } := by
  have hopen : f.remaining ||| f.waiting = 0 := (BitVec.or_eq_zero_iff.mp hleft).1
  have hacq : acquires f = false := by simp [acquires, hasAcquire, hord]
  unfold endFlight
  rw [hf]
  simp [hdone, hfault, hleft, hopen, hacq, hdest]

theorem flight?_endFlight (hdest : f.dest ≠ []) : (s.endFlight w id).flight? w id = some f.ended := by
  rw [endFlight_fills hf hdone hfault hleft hord hdest, flight?_of_warps (postOnce_warps ..)]
  exact flight?_updFlight_self (flight?_dropTags hf) _ fun _ => rfl

theorem mem_endFlight (hdest : f.dest ≠ []) : (.registerFill, { w := w, i := id }) ∈ (s.endFlight w id).inflight := by
  rw [endFlight_fills hf hdone hfault hleft hord hdest]
  exact mem_postOnce ..

/-- Without one it is gone. -/
theorem endFlight_goes (hdest : f.dest = []) : s.endFlight w id =
    (s.dropTags w id).updWarp w fun w => { w with flights := w.flights.filter (·.id != id) } := by
  have hopen : f.remaining ||| f.waiting = 0 := (BitVec.or_eq_zero_iff.mp hleft).1
  have hacq : acquires f = false := by simp [acquires, hasAcquire, hord]
  unfold endFlight
  rw [hf]
  simp [hdone, hfault, hleft, hopen, hacq, hdest]

theorem flight?_endFlight_none (hdest : f.dest = []) : (s.endFlight w id).flight? w id = none := by
  rw [endFlight_goes hf hdone hfault hleft hord hdest]
  obtain ⟨v, hv, -⟩ := Option.bind_eq_some_iff.mp (flight?_dropTags hf)
  rw [flight?, warp?_updWarp_self hv, Option.bind_some, Warp.flight?, List.find?_eq_none]
  simp

theorem endFlight_held (c : CoreId) (n : Nat) (h : (s.tag c n).held = false) : ((s.endFlight w id).tag c n).held = false := by
  by_cases hdest : f.dest = []
  · rw [endFlight_goes hf hdone hfault hleft hord hdest, tag_of_cores (updWarp_cores ..)]
    exact dropTags_held s w id c n h
  · rw [endFlight_fills hf hdone hfault hleft hord hdest, tag_of_cores (postOnce_cores ..), tag_of_cores (updFlight_cores ..)]
    exact dropTags_held s w id c n h

end

end State

end Sys2Proof.Machine
end

section
/-! PROOFS. Combining and multicast at a router (R50-R55, R359, R360), and their obligation (O46). -/

open Sys2Proof Sys2Proof.Machine

namespace Sys2Proof.Machine

/-! The fold of two vectors (R50). -/

/-- Where both are present, an element of a fold is the operator's of the two; LSE3 folds its vectors as wholes. -/
theorem foldVec_getD (op : Nat) (hop : op ≠ 6) (a x : Vec32) (i : Nat) (hi : i < 32) (ha : a.present.getD i false = true)
    (hx : x.present.getD i false = true) :
    (foldVec op a x).elems.getD i 0 = foldElem op (a.elems.getD i 0) (x.elems.getD i 0) := by
  have hl := lane_lanesOf (fun i => foldElem op (if a.present.getD i false then a.elems.getD i 0 else identityOf op i)
    (if x.present.getD i false then x.elems.getD i 0 else identityOf op i)) i hi
  rw [if_pos ha, if_pos hx] at hl
  rw [foldVec, if_neg hop]
  exact hl

/-! A line is the vector of its elements. -/

theorem leBytes_leVal (bs : List Byte) : leBytes bs.length (leVal bs) = bs := by
  induction bs with
  | nil => rfl
  | cons b bs ih =>
    have hlow : BitVec.ofNat 8 (b.toNat + 256 * leVal bs) = b := by
      apply BitVec.eq_of_toNat_eq
      have := b.isLt
      rw [BitVec.toNat_ofNat]
      omega
    have hhigh : (b.toNat + 256 * leVal bs) / 256 = leVal bs := by
      have := b.isLt
      omega
    rw [List.length_cons, leVal, leBytes, hlow, hhigh, ih]

/-- A run of bytes is its fours one behind another. -/
theorem flatMap_fours (n : Nat) : ∀ bs : List Byte, bs.length = 4 * n → ((List.range n).flatMap fun i => (bs.drop (4 * i)).take 4) = bs := by
  induction n with
  | zero => exact fun bs h => (List.length_eq_zero_iff.mp h).symm
  | succ n ih =>
    intro bs h
    have hrest := ih (bs.drop 4) (by rw [List.length_drop, h]; omega)
    have hstep : (fun i => (bs.drop (4 * (i + 1))).take 4) = fun i => ((bs.drop 4).drop (4 * i)).take 4 := funext fun i => by
      rw [List.drop_drop]
      congr 2
      omega
    rw [List.range_succ_eq_map, List.flatMap_cons, List.flatMap_map, hstep, hrest]
    exact List.take_append_drop 4 bs

theorem leBytes_field (bs : List Byte) (i : Nat) (h : 4 * i + 4 ≤ bs.length) :
    leBytes 4 (BitVec.ofNat 32 (field bs (4 * i) 4)).toNat = (bs.drop (4 * i)).take 4 := by
  have hlen : ((bs.drop (4 * i)).take 4).length = 4 := by
    rw [List.length_take, List.length_drop]
    omega
  have hlt := leVal_lt ((bs.drop (4 * i)).take 4)
  have hb := leBytes_leVal ((bs.drop (4 * i)).take 4)
  rw [hlen] at hlt hb
  rw [field, BitVec.toNat_ofNat, Nat.mod_eq_of_lt (show _ < 2 ^ 32 from hlt), hb]

theorem vecOf_present (l : LinePkt) (hm : l.mask = BitVec.allOnes 128) : (vecOf l).present = List.replicate 32 true := by
  rw [vecOf, hm]
  dsimp only
  decide

/-- A full line is what its vector gives. -/
theorem vecLine_vecOf (l : LinePkt) (hn : l.data.length = 128) (hm : l.mask = BitVec.allOnes 128) : vecLine (vecOf l) = (l.data, l.mask) := by
  have hdata : ((vecOf l).elems.flatMap fun w => leBytes 4 w.toNat) = l.data := by
    rw [vecOf, List.flatMap_map, show laneNums = List.range 32 from rfl]
    refine Eq.trans (List.flatMap_congr fun i hi => leBytes_field l.data i ?_) (flatMap_fours 32 l.data hn)
    have := List.mem_range.mp hi
    omega
  rw [vecLine, hdata, vecOf_present l hm, hm]
  refine congrArg (Prod.mk l.data) ?_
  decide

namespace State

variable {s : State} {p i : Nat} {l : LinePkt} {g : Group}

/-! Inputs of a router that holds no sequence (R52, R53). -/

theorem thirdSeq_of_none (h : (s.pkg p).seqs = []) : s.thirdSeq p l = false := by simp [thirdSeq, liveSeqs, h]

theorem freeBuffer_local (s : State) (p : Nat) : s.freeBuffer p localPort = s := by simp [freeBuffer]

/-- A freed buffer changes of its package a port alone. -/
theorem freeBuffer_pkg (s : State) (p i : Nat) : ∃ t, (s.freeBuffer p i).pkg p = { s.pkg p with ports := t } := by
  unfold freeBuffer
  split
  · exact ⟨(s.pkg p).ports, rfl⟩
  · exact ⟨_, (postOnce_pkg ..).trans (updPkg_pkg_self ..)⟩

@[simp] theorem freeBuffer_ground (s : State) (p i : Nat) : (s.freeBuffer p i).ground = s.ground := by
  unfold freeBuffer
  split <;> simp

/-- The sequence that a first input opens. -/
def openedSeq (i : Nat) (l : LinePkt) : CombSeq :=
  { group := l.group, seq := l.seq, index := l.index, inputs := [(i, l)], sentUp := false, abandoned := false }

/-- A router without sequences that has taken a first input in. -/
def opened (s : State) (p i : Nat) (l : LinePkt) : State :=
  (s.after s.timeoutNs .combineSequenceAbandon { p := p, i := l.group, n := l.seq }).setPkg p { s.pkg p with seqs := [openedSeq i l] }

@[simp] theorem opened_ground (s : State) (p i : Nat) (l : LinePkt) : (s.opened p i l).ground = s.ground :=
  setPkg_ground _ _ _ rfl rfl rfl

theorem opened_pkg (s : State) (p i : Nat) (l : LinePkt) : (s.opened p i l).pkg p = { s.pkg p with seqs := [openedSeq i l] } :=
  setPkg_pkg_self ..

section
variable (hg : tget? (s.pkg p).groups l.group = some g) (hop : l.operator ≤ 6) (hsame : l.operator = g.operator)
  (hin : (Group.inputs g).contains i = true) (hidx : l.index < g.lines) (hseqs : (s.pkg p).seqs = [])
include hg hop hsame hin hidx hseqs

omit hin hidx hg hop hsame in
theorem updPkg_opens (f : CombSeq → Bool) :
    (s.after s.timeoutNs .combineSequenceAbandon { p := p, i := l.group, n := l.seq }).updPkg p
      (fun k => { k with seqs := openedSeq i l :: k.seqs.filter f }) = s.opened p i l := by
  simp only [updPkg, after_pkg, hseqs, List.filter_nil]
  rfl

/-- A first input opens its sequence, which waits for the group's other inputs. -/
theorem foldInput_waits (hmore : ∃ j, j ∈ Group.inputs g ∧ j ≠ i) : s.foldInput p i l = s.opened p i l := by
  obtain ⟨j, hj, hne⟩ := hmore
  have hmiss : (!(Group.inputs g).all fun j => (tget? (openedSeq i l).inputs j).isSome) = true := by
    rw [Bool.not_eq_true', List.all_eq_false]
    exact ⟨j, hj, by simp [openedSeq, tget?, hne.symm]⟩
  unfold foldInput
  rw [hg]
  dsimp only
  rw [if_neg (by rw [← hsame, hin]; simpa using hop), if_neg (by omega), hseqs, if_neg (by simp), if_neg (by simp [tget?])]
  exact (if_pos hmiss).trans (updPkg_opens hseqs _)

/-- The result of a line from its inputs (R52). -/
def foldedLine (l : LinePkt) (op : Nat) (ins : List LinePkt) : LinePkt :=
  { l with
    data := (vecLine (foldAll op (ins.map vecOf))).1, mask := (vecLine (foldAll op (ins.map vecOf))).2, folded := sumList (ins.map (·.folded))
    poison := ins.any (·.poison), lcrcOk := true }

omit hg hop hsame hin hidx hseqs in
theorem foldedLine_alone (op : Nat) (hn : l.data.length = 128) (hm : l.mask = BitVec.allOnes 128) :
    foldedLine l op [l] = { l with lcrcOk := true } := by
  have hv : vecLine (foldAll op ([l].map vecOf)) = (l.data, l.mask) := vecLine_vecOf l hn hm
  rw [foldedLine, hv]
  simp [sumList]

/-- The group's only input is the result, which a root sends down. -/
theorem foldInput_alone (honly : Group.inputs g = [i]) (hroot : g.root = true) (hn : l.data.length = 128)
    (hm : l.mask = BitVec.allOnes 128) : s.foldInput p i l = (s.opened p i l).sendDown p g (openedSeq i l) { l with lcrcOk := true } := by
  have hall : ¬(!(Group.inputs g).all fun j => (tget? (openedSeq i l).inputs j).isSome) = true := by
    simp [honly, openedSeq, tget?]
  have hins : (Group.inputs g).filterMap (fun j => tget? (openedSeq i l).inputs j) = [l] := by simp [honly, openedSeq, tget?]
  unfold foldInput
  rw [hg]
  dsimp only
  rw [if_neg (by rw [← hsame, hin]; simpa using hop), if_neg (by omega), hseqs, if_neg (by simp), if_neg (by simp [tget?])]
  refine (if_neg hall).trans ?_
  rw [if_pos hroot]
  refine (congrArg (sendDown _ p g (openedSeq i l)) ?_).trans (congrArg (sendDown · p g (openedSeq i l) _) (updPkg_opens hseqs _))
  exact (congrArg (foldedLine l g.operator) hins).trans (foldedLine_alone g.operator hn hm)

end

end State

end Sys2Proof.Machine
end

section
/-! PROOFS. What routers do with combining lines and multicast lines, and their obligation (O46). -/

open Sys2Proof Sys2Proof.Machine

namespace Sys2Proof.Machine

namespace State

variable {s : State} {p i : Nat} {l : LinePkt} {g : Group}

@[simp] theorem cancel_pkg (s : State) (i : Instr) (a : Arg) (p : Nat) : (s.cancel i a).pkg p = s.pkg p := rfl

/-! A result on its way down (R52). -/

theorem mem_cancel {e : Instr × Arg} (j : Instr) (a : Arg) (h : e ∈ s.inflight) (hne : e.1 ≠ j) : e ∈ (s.cancel j a).inflight := by
  refine List.mem_filter.mpr ⟨h, ?_⟩
  simp [Prod.ext_iff, hne]

@[simp] theorem lineDone_ground (s : State) (p : Nat) (l : LinePkt) (n : Nat) : (s.lineDone p l n).ground = s.ground := by
  unfold lineDone
  dsimp only
  split <;> simp

/-- A line that is done drops the time limit of its sequence at most. -/
theorem mem_lineDone {e : Instr × Arg} (p : Nat) (l : LinePkt) (n : Nat) (h : e ∈ s.inflight) (hne : e.1 ≠ .combineSequenceAbandon) :
    e ∈ (s.lineDone p l n).inflight := by
  unfold lineDone
  dsimp only
  split
  · exact mem_postOnce_of_mem _ _ (mem_cancel _ _ h hne)
  · exact h

/-- At a group without children a result goes to the local contributor alone. -/
theorem sendDown_local (hch : g.children = 0) (c : CombSeq) (o : LinePkt) (ho : tget? c.inputs localPort = some o) (hp : o.issuer.pkg = p) :
    s.sendDown p g c l = (s.post .combineDown { p := p, l := { l with
      opcode := 0x94, src := routerEndpoint p, dst := o.issuer, issuer := o.issuer, warp := o.warp, tag := o.tag, round := o.round } }).lineDone
        p l g.lines := by
  unfold sendDown
  rw [ho, hch]
  dsimp only
  rw [sendLine_near _ _ .combineDown hp.symm rfl, hp]
  simp

end State

section
variable (s : State) (p : Nat) (l : LinePkt) (hp : s.arg.p = p) (hl : s.arg.l = l) (hsrc : l.src.pkg = p) (hi : l.issuer.pkg = p)
include hp hl hsrc hi

/-- A contribution without an entry is answered with ERROR 05h (R53). -/
theorem yields_combineUp_unknown (hg : tget? (s.pkg p).groups l.group = none) : Yields .combineUp s fun t => SameMem s t ∧
    ∃ r, (.errorReply, { q := r }) ∈ t.inflight ∧ r.dst = l.issuer ∧ r.tag = l.tag ∧ r.data0 = 5 := by
  have hfold : s.combineInput p localPort l = s.send (s.replyTo (State.ofLine l) (routerEndpoint p) 0x86 5) := by
    rw [State.combineInput, State.thirdSeq, hg]
    simp [State.freeBuffer_local, State.foldInput, hg, State.combError]
  refine Yields.of_exec (t := s.combineInput p localPort l) ?_ ?_
  · subst hp hl
    exact congrArg (fun i => Host.Outcome.next (s.combineInput s.arg.p i s.arg.l)) (if_pos hsrc)
  · rw [hfold]
    obtain ⟨r, hr, htag, -, hdst, hdata⟩ := State.answerDue_send s s (State.ofLine l) (routerEndpoint p) 0x86 5 .errorReply
      (fun r => r.data0 = 5) hi.symm rfl rfl
    exact ⟨SameMem.of_ground (State.send_ground ..), r, hr, hdst, htag, hdata⟩

/-- A group's only contribution comes back as it was sent (R50, R52). -/
theorem yields_combineUp_alone (g : Group) (hg : tget? (s.pkg p).groups l.group = some g) (hroot : g.root = true) (hloc : g.local_ = true)
    (hch : g.children = 0) (hop : l.operator = g.operator) (hle : l.operator ≤ 6) (hidx : l.index < g.lines) (hseqs : (s.pkg p).seqs = [])
    (hn : l.data.length = 128) (hm : l.mask = BitVec.allOnes 128) : Yields .combineUp s fun t => SameMem s t ∧
      ∃ r, (.combineDown, { p := p, l := r }) ∈ t.inflight ∧ r.dst = l.issuer ∧ r.tag = l.tag ∧
        r.round = l.round ∧ r.data = l.data ∧ r.mask = l.mask ∧ r.folded = l.folded ∧ r.poison = l.poison := by
  have honly : State.Group.inputs g = [localPort] := by simp [State.Group.inputs, hch, hloc]
  have hfold : s.combineInput p localPort l = (s.opened p localPort l).sendDown p g (State.openedSeq localPort l) { l with lcrcOk := true } := by
    rw [State.combineInput, State.thirdSeq_of_none hseqs, if_neg (by simp), State.freeBuffer_local]
    exact State.foldInput_alone hg hle hop (by simp [honly]) hidx hseqs honly hroot hn hm
  refine Yields.of_exec (t := s.combineInput p localPort l) ?_ ?_
  · subst hp hl
    exact congrArg (fun i => Host.Outcome.next (s.combineInput s.arg.p i s.arg.l)) (if_pos hsrc)
  · rw [hfold, State.sendDown_local hch _ l (by simp [State.openedSeq, tget?]) hi]
    exact ⟨SameMem.of_ground (by simp), _, State.mem_lineDone _ _ _ (State.mem_post ..) (by simp), rfl, rfl, rfl, rfl, rfl, rfl, rfl⟩

end

/-- A held sequence enters when there is room (R53). -/
theorem yields_combineSequenceAdmit (s : State) (p i : Nat) (g : Group) (l : LinePkt) (hp : s.arg.p = p) (hq : (s.pkg p).queued = [(i, l)])
    (ha : l.group = s.arg.i) (hg : tget? (s.pkg p).groups l.group = some g) (hle : l.operator ≤ 6) (hop : l.operator = g.operator)
    (hin : (State.Group.inputs g).contains i = true) (hidx : l.index < g.lines) (hseqs : (s.pkg p).seqs = [])
    (hmore : ∃ j, j ∈ State.Group.inputs g ∧ j ≠ i) : Yields .combineSequenceAdmit s fun t => SameMem s t ∧ (t.pkg p).queued = [] ∧
      ∃ c, (t.pkg p).seqs = [c] ∧ c.group = l.group ∧ c.seq = l.seq ∧ c.index = l.index ∧ tget? c.inputs i = some l := by
  subst hp
  have hexec : exec .combineSequenceAdmit s = .next (((s.pkg s.arg.p).queued.filter fun x => x.2.group == s.arg.i).foldl
      (fun s' x => s'.combineInput s.arg.p x.1 x.2) (s.updPkg s.arg.p fun k => { k with queued := k.queued.filter fun x => x.2.group != s.arg.i })) :=
    rfl
  rw [hq] at hexec
  refine Yields.of_exec hexec ?_
  generalize hu : s.updPkg s.arg.p _ = u
  have hpkg : u.pkg s.arg.p = { s.pkg s.arg.p with queued := [] } := by
    rw [← hu, State.updPkg_pkg_self, hq]
    simp [ha]
  have hground : u.ground = s.ground := by
    rw [← hu]
    simp
  obtain ⟨ports, hfree⟩ := State.freeBuffer_pkg u s.arg.p i
  rw [hpkg] at hfree
  have hfold : u.combineInput s.arg.p i l = (u.freeBuffer s.arg.p i).opened s.arg.p i l := by
    rw [State.combineInput, State.thirdSeq_of_none (by rw [hpkg]; exact hseqs), if_neg (by simp)]
    exact State.foldInput_waits (by rw [hfree]; exact hg) hle hop hin hidx (by rw [hfree]; exact hseqs) hmore
  simp only [ha, List.filter_cons, beq_self_eq_true, if_true, List.filter_nil, List.foldl_cons, List.foldl_nil]
  rw [hfold]
  refine ⟨SameMem.of_ground ?_, ?_, State.openedSeq i l, ?_, ha, rfl, rfl, by simp [State.openedSeq, tget?]⟩
  · rw [State.opened_ground, State.freeBuffer_ground, hground]
  · rw [State.opened_pkg, hfree]
  · rw [State.opened_pkg]

/-- An incomplete sequence is abandoned (R53). -/
theorem yields_combineSequenceAbandon (s : State) (p : Nat) (c : CombSeq) (hp : s.arg.p = p) (hf : s.arg.flag = false)
    (hseqs : (s.pkg p).seqs = [c]) (hg : c.group = s.arg.i) (hn : c.seq = s.arg.n) (hc : c.abandoned = false) :
    Yields .combineSequenceAbandon s fun t => SameMem s t ∧ (.combineSequenceAdmit, { p := p, i := c.group }) ∈ t.inflight ∧
      ∃ m, (t.pkg p).seqs = [m] ∧ m.group = c.group ∧ m.seq = c.seq ∧ m.abandoned = true := by
  subst hp
  have hexec : exec .combineSequenceAbandon s = .next (s.abandon s.arg.p s.arg.i s.arg.n) := by
    refine congrArg Host.Outcome.next ((if_neg (by simp [hf])).trans (if_pos ?_))
    simp [hseqs, hg, hn, hc]
  refine Yields.of_exec hexec ?_
  rw [← hg, ← hn]
  unfold State.abandon
  dsimp only
  refine ⟨SameMem.of_ground (by simp), State.mem_postOnce ..,
    { group := c.group, seq := c.seq, index := 0, inputs := [], sentUp := true, abandoned := true }, ?_, rfl, rfl, rfl⟩
  rw [State.postOnce_pkg, State.cancel_pkg, State.updPkg_pkg_self]
  simp [hseqs]

/-! A result at its contributor (R360). -/

/-- Each listed lane is found with its value. -/
theorem tget?_lanes {α : Type} (v : Nat → α) (i : Nat) : ∀ ls : List Nat, i ∈ ls → tget? (ls.map fun j => (j, v j)) i = some (v i) := by
  intro ls
  induction ls with
  | nil => exact fun h => absurd h (List.not_mem_nil)
  | cons j ls ih =>
    intro h
    by_cases hj : j = i
    · subst hj
      exact if_pos rfl
    · exact (if_neg hj).trans (ih ((List.mem_cons.mp h).resolve_left fun e => hj e.symm))

/-- What the active lanes receive of a combined line (R360). -/
def combinedLanes (l : LinePkt) (act : Mask) : Tab Nat DWord := (activeLanes act).map fun i =>
  (i, ((if (vecOf l).present.getD i false then (vecOf l).elems.getD i 0 else identityOf l.operator i).setWidth 64 : DWord))

/-- An active lane of a whole line receives its element. -/
theorem tget?_combinedLanes (l : LinePkt) (hm : l.mask = BitVec.allOnes 128) (act : Mask) (i : Nat) (hi : i < 32)
    (ha : act.getLsbD i = true) : tget? (combinedLanes l act) i = some (BitVec.ofNat 64 (field l.data (4 * i) 4)) := by
  have hmem : i ∈ activeLanes act := List.mem_filter.mpr ⟨(mem_laneNums i).mpr hi, ha⟩
  have hpres : (vecOf l).present.getD i false = true := by
    rw [vecOf_present l hm, List.getD_eq_getElem?_getD, List.getElem?_replicate, if_pos hi]
    rfl
  have helem : (vecOf l).elems.getD i 0 = BitVec.ofNat 32 (field l.data (4 * i) 4) := by
    simp [vecOf, List.getD, laneNums_getElem? i hi]
  have hlt : field l.data (4 * i) 4 < 2 ^ 32 := by
    have hle : ((l.data.drop (4 * i)).take 4).length ≤ 4 := List.length_take_le ..
    exact Nat.lt_of_lt_of_le (leVal_lt _) (Nat.pow_le_pow_right (by decide) hle)
  rw [combinedLanes, tget?_lanes _ i _ hmem, hpres, if_pos rfl, helem]
  refine congrArg some (BitVec.eq_of_toNat_eq ?_)
  rw [BitVec.toNat_setWidth, BitVec.toNat_ofNat, BitVec.toNat_ofNat, Nat.mod_eq_of_lt hlt]

/-- A flight that acts as a whole, performed. -/
def Flight.whole (f : Flight) : Flight := { f with remaining := 0, waiting := 0, sent := 0 }

theorem Flight.whole_unperformed (f : Flight) : f.whole.unperformed = 0 := by simp [whole, unperformed]

theorem yields_combineDown (s : State) (l : LinePkt) (c : CoreId) (w : WarpId) (id : Nat) (f : Flight) (d : Nat) (hl : s.arg.l = l)
    (hc : l.dst.core = c) (hu : l.dst.unit = 0) (hheld : (s.tag c l.tag).held = true) (hround : (s.tag c l.tag).round = l.round)
    (huse : (s.tag c l.tag).use = .combine w id) (hpo : l.poison = false) (hm : l.mask = BitVec.allOnes 128) (hf : s.flight? w id = some f)
    (hdest : f.dest = [d]) (hdone : f.done = false) (hfault : f.fault = none) (hord : f.order = 0) :
    Yields .combineDown s fun t => SameMem s t ∧ (.registerFill, { w := w, i := id }) ∈ t.inflight ∧ ∃ g, t.flight? w id = some g ∧
      g.done = true ∧ ∀ i, i < 32 → f.active.getLsbD i = true → tget? g.got i = some (BitVec.ofNat 64 (field l.data (4 * i) 4)) := by
  have hacc : s.accepts c l.tag l.round = true := by simp [State.accepts, hheld, hround]
  have hexec : exec .combineDown s =
      .next (((s.freeTagNow c l.tag).updFlight w id fun f => { f with got := combinedLanes l f.active }).wholeDone w id) := by
    subst hl hc
    refine congrArg Host.Outcome.next ((if_neg (by simp [hu])).trans ((if_neg (by simp [hacc])).trans ((if_neg (by simp [hpo])).trans ?_)))
    rw [huse]
    rfl
  refine Yields.of_exec hexec ?_
  have hf' : (s.freeTagNow c l.tag).flight? w id = some f := by rwa [State.flight?_of_warps (State.freeTagNow_warps ..)]
  have hgot := State.flight?_updFlight_self hf' (fun f => { f with got := combinedLanes l f.active }) fun _ => rfl
  have hdone' := State.flight?_updFlight_self hgot Flight.whole fun _ => rfl
  have hne : f.dest ≠ [] := by simp [hdest]
  refine ⟨SameMem.of_ground (by simp [State.wholeDone]), State.mem_endFlight hdone' hdone hfault (Flight.whole_unperformed _) hord hne, _,
    State.flight?_endFlight hdone' hdone hfault (Flight.whole_unperformed _) hord hne, rfl,
    fun i hi ha => tget?_combinedLanes l hm f.active i hi ha⟩

/-! The write of a multicast line at a member (R55, R359). -/

namespace State

@[simp] theorem symKeep_ground (s : State) (p o : Nat) : (s.symKeep p o).ground = s.ground := by simp [symKeep]

/-- An entry kept in a router's cache lets a master pass as before. -/
theorem symKeep_barred (s : State) (p o : Nat) (h : Home) (e : Endpoint) : (s.symKeep p o).barred h e = s.barred h e := by
  by_cases hp : h.pkg = p
  · simp [barred, isFrozen, guarded, symKeep, hp, updPkg_pkg_self]
  · simp [barred, isFrozen, guarded, symKeep, updPkg, setPkg_pkg_ne _ _ _ _ hp]

/-- A whole line is stored as its bytes, sound or poisoned. -/
theorem lineStore_ground (s : State) (h : Home) (d : DieId) (pa : Nat) (l : LinePkt) (hm : l.mask = BitVec.allOnes 128) :
    (s.lineStore h d pa l).ground = (s.homeWrite d pa l.data).ground := by
  unfold lineStore
  simp only [lineWriteAt, if_pos hm]
  split <;> rfl

/-- Where no page moves, the home of a pool address is that of the tables. -/
theorem homeNow_still {s : State} {d : DieId} {pa : Nat} {h : Home} (hh : s.homeAt d pa = some h) (hm : (s.die h.dieId).migr = []) :
    s.homeNow d pa = some (h, pa) := by
  simp [homeNow, hh, hm]

/-- A multicast line at a member whose place is free is stored there, and its acknowledgement is due. -/
theorem castWrite_stores {s : State} {p pa : Nat} {l : LinePkt} {h : Home} (hr : s.symResolve p l.addr = some pa)
    (hh : s.homeAt { pkg := p, die := 0 } pa = some h) (hal : (s.die h.dieId).lost = false) (hmig : (s.die h.dieId).migr = [])
    (hb : s.barred h l.issuer = false) (hpin : s.pinHolder h = none) (hsc : l.scope ≤ 2) :
    let t := (s.symKeep p l.addr).lineStore h { pkg := p, die := 0 } pa l
    s.castWrite p l = t.post .mcastLine { p := p, l := l, flag := true, q := { (default : Packet) with opcode := 0x95 } } := by
  have hs : ¬ 3 ≤ l.scope := by omega
  have hg := symKeep_ground s p l.addr
  unfold castWrite
  rw [hr]
  dsimp only
  rw [homeNow_still hh hmig]
  dsimp only
  rw [if_neg (by simp [die_of_ground hg, hal]), if_neg (by simp [pinHolder_of_ground hg, hpin]),
    passHome_passes ((symKeep_barred ..).trans hb)]
  simp [replyWhen, hs]

end State

theorem yields_mcastLine (s : State) (p pa : Nat) (l : LinePkt) (h : Home) (d : DieId) (hp : s.arg.p = p) (hl : s.arg.l = l)
    (hd : d = { pkg := p, die := 0 }) (hflag : s.arg.flag = true) (hq : s.arg.q.opcode = 0) (hr : s.symResolve p l.addr = some pa)
    (hh : s.homeAt d pa = some h) (hal : (s.die h.dieId).lost = false) (hmig : (s.die h.dieId).migr = []) (hb : s.barred h l.issuer = false)
    (hpin : s.pinHolder h = none) (hsc : l.scope ≤ 2) (hm : l.mask = BitVec.allOnes 128) (hn : l.data.length = 128) (hw : s.mem.wf = true)
    (hnodup : (s.places d pa 128).Nodup) (hlen : (s.places d pa 128).length = 128) :
    Yields .mcastLine s fun t => SameMemBut (s.places d pa 128) s t ∧ t.homeBytes d pa 128 = l.data := by
  subst hd
  have hexec : exec .mcastLine s = .next (s.castWrite p l) := by
    subst hp hl
    refine congrArg Host.Outcome.next ((if_pos hflag).trans ?_)
    rw [hq]
    rfl
  refine Yields.of_exec hexec ?_
  rw [State.castWrite_stores hr hh hal hmig hb hpin hsc]
  have hk := State.symKeep_ground s p l.addr
  generalize s.symKeep p l.addr = u at hk
  have hplaces := State.places_of_cur (congrArg Die.cur (State.die_of_ground hk { pkg := p, die := 0 })) pa 128
  obtain ⟨hmem, hback⟩ := State.homeWrite_bytes u { pkg := p, die := 0 } pa l.data (by rwa [State.mem_of_ground hk])
    (List.ne_nil_of_length_pos (by omega)) (by rwa [hn, hplaces]) (by rwa [hn, hplaces])
  rw [hn, hplaces] at hmem
  rw [hn] at hback
  have ht := (State.post_ground (u.lineStore h { pkg := p, die := 0 } pa l) .mcastLine
    { p := p, l := l, flag := true, q := { (default : Packet) with opcode := 0x95 } }).trans (State.lineStore_ground u h _ pa l hm)
  refine ⟨fun a ha => ?_, (State.homeBytes_of_ground ht ..).trans hback⟩
  rw [State.mem_of_ground ht, hmem a ha, State.mem_of_ground hk]

/-- Settles O46: the fold, contributions and results, held and abandoned sequences, and a multicast line at a member. -/
theorem routers : Obligations.Routers := by
  refine ⟨fun a x i hi ha hx => ?_, ?_, ?_, ?_, ?_, ?_⟩
  · refine ⟨?_, ?_, ?_, ?_, ?_, ?_⟩ <;> exact foldVec_getD _ (by decide) a x i hi ha hx
  · exact fun s hsrc hi => ⟨yields_combineUp_unknown s _ _ rfl rfl hsrc hi, yields_combineUp_alone s _ _ rfl rfl hsrc hi⟩
  · exact fun s w id f d hu hheld hround huse hpo hm hf hdest hdone hfault hord =>
      yields_combineDown s _ _ w id f d rfl rfl hu hheld hround huse hpo hm hf hdest hdone hfault hord
  · exact fun s g i l hq ha hg hle hop hin hidx hseqs hmore => yields_combineSequenceAdmit s _ i g l rfl hq ha hg hle hop hin hidx hseqs hmore
  · exact fun s c hf hseqs hg hn hc => yields_combineSequenceAbandon s _ c rfl hf hseqs hg hn hc
  · exact fun s pa h hflag hq hr _ hh hal hmig hb hpin hsc hm hn hw hnodup hlen =>
      yields_mcastLine s _ pa _ h _ rfl rfl rfl hflag hq hr hh hal hmig hb hpin hsc hm hn hw hnodup hlen

end Sys2Proof.Machine
end

section
/-! PROOFS. What a reply does to the access that its tag was taken for (R41-R45, R205, R214, R221). -/

open Sys2Proof Sys2Proof.Machine

namespace Sys2Proof.Machine

/-- A flight whose lane l has been performed with a value, or without one. -/
def Flight.answered (f : Flight) (l : Nat) (v : Option DWord) : Flight :=
  { f with
    waiting := f.waiting &&& ~~~((1 : Word) <<< l), sent := f.sent &&& ~~~((1 : Word) <<< l)
    got := match v with
      | some v => tset f.got l v
      | none => f.got }

/-- A flight whose destination is poisoned, unless it is already. -/
def Flight.tainted (f : Flight) (p : Poison) : Flight := { f with bad := some (f.bad.getD p) }

namespace State

/-- A flight of which one lane alone is still to be performed, that was sent; it is no acquire. -/
structure OneLane (s : State) (w : WarpId) (id l : Nat) (f : Flight) : Prop where
  found : s.flight? w id = some f
  sent : f.sent = (1 : Mask) <<< l
  remaining : f.remaining = 0
  waiting : f.waiting = 0
  running : f.done = false
  sound : f.fault = none
  order : f.order = 0

section
variable {s : State} {w : WarpId} {id l : Nat} {f : Flight}

theorem OneLane.of_found {t : State} (k : s.OneLane w id l f) (h : t.flight? w id = some f) : t.OneLane w id l f := { k with found := h }

theorem OneLane.tainted (k : s.OneLane w id l f) (p : Poison) : (s.updFlight w id (·.tainted p)).OneLane w id l (f.tainted p) :=
  ⟨flight?_updFlight_self k.found _ fun _ => rfl, k.sent, k.remaining, k.waiting, k.running, k.sound, k.order⟩

theorem OneLane.answered_unperformed (k : s.OneLane w id l f) (v : Option DWord) : (f.answered l v).unperformed = 0 := by
  simp [Flight.answered, Flight.unperformed, k.sent, k.remaining, k.waiting]

@[simp] theorem laneDone_ground (s : State) (w : WarpId) (id l : Nat) (v : Option DWord) : (s.laneDone w id l v).ground = s.ground := by
  simp [laneDone]

/-! The lane is performed. -/

theorem OneLane.flight?_answered (k : s.OneLane w id l f) (v : Option DWord) :
    (s.updFlight w id (·.answered l v)).flight? w id = some (f.answered l v) := flight?_updFlight_self k.found _ fun _ => rfl

theorem laneDone_eq (s : State) (w : WarpId) (id l : Nat) (v : Option DWord) :
    s.laneDone w id l v = (s.updFlight w id (·.answered l v)).endFlight w id := rfl

theorem OneLane.laneDone_flight (k : s.OneLane w id l f) (v : Option DWord) (hdest : f.dest ≠ []) :
    (s.laneDone w id l v).flight? w id = some (f.answered l v).ended :=
  flight?_endFlight (k.flight?_answered v) k.running k.sound (k.answered_unperformed v) k.order hdest

theorem OneLane.laneDone_due (k : s.OneLane w id l f) (v : Option DWord) (hdest : f.dest ≠ []) :
    (.registerFill, { w := w, i := id }) ∈ (s.laneDone w id l v).inflight :=
  mem_endFlight (k.flight?_answered v) k.running k.sound (k.answered_unperformed v) k.order hdest

theorem OneLane.laneDone_gone (k : s.OneLane w id l f) (v : Option DWord) (hdest : f.dest = []) :
    (s.laneDone w id l v).flight? w id = none :=
  flight?_endFlight_none (k.flight?_answered v) k.running k.sound (k.answered_unperformed v) k.order hdest

theorem OneLane.laneDone_held (k : s.OneLane w id l f) (v : Option DWord) (c : CoreId) (n : Nat) (h : (s.tag c n).held = false) :
    ((s.laneDone w id l v).tag c n).held = false :=
  endFlight_held (k.flight?_answered v) k.running k.sound (k.answered_unperformed v) k.order c n
    (by rwa [tag_of_cores (updFlight_cores ..)])

/-- A lane of a flight that holds no tags but its own. -/
theorem OneLane.laneDone_fills (k : s.OneLane w id l f) (v : Option DWord) (hdest : f.dest ≠ []) (htags : f.tags = []) :
    s.laneDone w id l v = ((s.updFlight w id (·.answered l v)).updFlight w id fun f =>
      { f with done := true, counted := false, slots := [], found := [] }).postOnce .registerFill { w := w, i := id } := by
  rw [laneDone_eq, endFlight_fills (k.flight?_answered v) k.running k.sound (k.answered_unperformed v) k.order hdest,
    dropTags_none (k.flight?_answered v) htags]

/-! A lane's register is due. -/

/-- The results of a flight are due: a lane has its value, if one is stated, and the destination is poisoned, or not. -/
def Filled (s t : State) (w : WarpId) (id l : Nat) (v : Option DWord) (p : Option Poison) : Prop :=
  SameMem s t ∧ (.registerFill, { w := w, i := id }) ∈ t.inflight ∧ ∃ g, t.flight? w id = some g ∧ g.done = true ∧
    (∀ x, v = some x → tget? g.got l = some x) ∧ g.bad = p

theorem OneLane.filled {u : State} (k : u.OneLane w id l f) (hm : u.mem = s.mem) (v : Option DWord) (hdest : f.dest ≠ []) :
    s.Filled (u.laneDone w id l v) w id l v f.bad := by
  refine ⟨fun a => by rw [mem_of_ground (laneDone_ground ..), hm], k.laneDone_due v hdest, _, k.laneDone_flight v hdest, rfl, ?_, rfl⟩
  rintro x rfl
  exact tget?_tset_self ..

/-! A lane that meets a fault (R221). -/

/-- What a pool access that meets a fault leaves for its destination. -/
def faultPoison (f : Flight) (cause : Nat) : Poison := { origin := f.addr, aux := BitVec.ofNat 64 cause }

theorem OneLane.laneFault_pool (k : s.OneLane w id l f) (hdest : f.dest ≠ []) (hpool : (memOf f.instr).map (·.1.space) = some .pool)
    (cause peer : Nat) (addr : DWord) : s.laneFault w id l cause peer addr =
      (({ s with free := s.free + 1 } : State).updFlight w id (·.tainted (faultPoison f cause))).laneDone w id l
        (some (Config.freeWord s.free)) := by
  obtain ⟨⟨o, m, e⟩, hmem, hspace⟩ := Option.map_eq_some_iff.mp hpool
  have hspace : o.space = .pool := hspace
  unfold laneFault
  rw [k.found]
  dsimp only
  rw [if_neg (by simpa using hdest), hmem]
  simp only [hspace]
  rfl

end

end State

end Sys2Proof.Machine
end

section
/-! PROOFS. Replies at a core (R41-R46, R207, R214, R221), and their obligation (O45). -/

open Sys2Proof Sys2Proof.Machine

namespace Sys2Proof.Machine

namespace State

variable {s : State} {c : CoreId} {n : Nat} {w : WarpId} {id l : Nat} {f : Flight}

/-! What an answer leaves before its lane is performed. -/

theorem spaceSc_plain (hf : s.flight? w id = some f) (ho : f.order = 0) (far : Bool) : s.spaceSc w id far = s := by
  simp [spaceSc, hf, ho]

/-- A write whose pushes are outstanding is noted in its warp, or nothing is. -/
theorem noteNarrow_cases (s : State) (w : WarpId) (q : Packet) :
    s.noteNarrow w q = s ∨ ∃ g : Warp → Warp, (∀ v, (g v).flights = v.flights) ∧ s.noteNarrow w q = s.updWarp w g := by
  unfold noteNarrow
  dsimp only
  split
  · exact .inl rfl
  · split
    · split
      · refine .inr ⟨_, ?_, rfl⟩
        exact fun _ => rfl
      · exact .inl rfl
    · exact .inl rfl

theorem noteNarrow_flight (h : s.flight? w id = some f) (q : Packet) : (s.noteNarrow w q).flight? w id = some f := by
  obtain hs | ⟨g, hg, hs⟩ := noteNarrow_cases s w q
  · rwa [hs]
  · rw [hs]
    exact flight?_updWarp_self h g hg

@[simp] theorem noteNarrow_cores (s : State) (w : WarpId) (q : Packet) : (s.noteNarrow w q).cores = s.cores := by
  obtain hs | ⟨g, -, hs⟩ := noteNarrow_cases s w q
  · rw [hs]
  · rw [hs, updWarp_cores]

@[simp] theorem noteNarrow_ground (s : State) (w : WarpId) (q : Packet) : (s.noteNarrow w q).ground = s.ground := by
  obtain hs | ⟨g, -, hs⟩ := noteNarrow_cases s w q
  · rw [hs]
  · rw [hs, updWarp_ground]

/-- A core's update that leaves its tags leaves every tag. -/
theorem tag_updCore (s : State) (c d : CoreId) (n : Nat) (g : Core → Core) (hg : ∀ k, (g k).tags = k.tags) :
    (s.updCore c g).tag d n = s.tag d n := by
  by_cases hd : d = c
  · subst hd
    rw [tag, core, updCore, setCore, tget_tset_self, hg, tag]
  · rw [tag, core, updCore, setCore, tget_tset_ne _ _ _ _ _ hd, tag, core]

@[simp] theorem dropLine_tag (s : State) (c d : CoreId) (pa n : Nat) : (s.dropLine c pa).tag d n = s.tag d n :=
  tag_updCore s c d n _ fun _ => rfl

@[simp] theorem setLine_tag (s : State) (c d : CoreId) (l : CacheLine) (n : Nat) : (s.setLine c l).tag d n = s.tag d n :=
  tag_updCore s c d n _ fun _ => rfl

/-- A tag whose fill brings data too old to be kept. -/
def stale (f : Nat → Bool) (t : Tag) : Tag :=
  if t.held && t.req.opcode == 7 && t.req.scope != 0 && f t.req.addr then { t with stale := true } else t

theorem stale_held (f : Nat → Bool) (t : Tag) : (stale f t).held = t.held := by
  unfold stale
  split <;> rfl

theorem staleFills_eq (s : State) (c : CoreId) (f : Nat → Bool) :
    s.staleFills c f = s.updCore c fun k => { k with tags := k.tags.map fun x => (x.1, stale f x.2) } := by
  have hmap : (fun x : Nat × Tag => if x.2.held && x.2.req.opcode == 7 && x.2.req.scope != 0 && f x.2.req.addr then
      (x.1, { x.2 with stale := true }) else x) = fun x => (x.1, stale f x.2) := funext fun x => by
    unfold stale
    split <;> rfl
  rw [staleFills, hmap]

/-- A fill that becomes too old keeps its tag. -/
theorem staleFills_held (s : State) (c d : CoreId) (f : Nat → Bool) (n : Nat) : ((s.staleFills c f).tag d n).held = (s.tag d n).held := by
  rw [staleFills_eq]
  by_cases hd : d = c
  · subst hd
    rw [tag, core, updCore, setCore, tget_tset_self, tget, tget?_map, tag, tget, core]
    cases tget? (tget s.cores d Core.reset).tags n with
    | none => rfl
    | some t => exact stale_held f t
  · rw [tag, core, updCore, setCore, tget_tset_ne _ _ _ _ _ hd, tag, core]

theorem dropAfter_warps (s : State) (c : CoreId) (q : Packet) : (s.dropAfter c q).warps = s.warps := by
  unfold dropAfter dropClean
  dsimp only
  repeat' split
  all_goals rfl

@[simp] theorem dropAfter_ground (s : State) (c : CoreId) (q : Packet) : (s.dropAfter c q).ground = s.ground := by
  unfold dropAfter dropClean
  dsimp only
  repeat' split
  all_goals rfl

theorem dropAfter_held (s : State) (c d : CoreId) (q : Packet) (n : Nat) : ((s.dropAfter c q).tag d n).held = (s.tag d n).held := by
  unfold dropAfter dropClean
  dsimp only
  split
  · rfl
  · rw [staleFills_held]
    split
    · rfl
    · rw [dropLine_tag]

/-- The answer of a lane, whose own copy of the line goes, performs the lane. -/
theorem laneAnswer_lane (k : s.OneLane w id l f) (t : Tag) (ht : t.use = .lane w id l) (v : Nat → Option DWord) :
    s.laneAnswer c t v = ((s.noteNarrow w t.req).dropAfter c t.req).laneDone w id l (v id) := by
  have hf : ((s.noteNarrow w t.req).dropAfter c t.req).flight? w id = some f := by
    rw [flight?_of_warps (dropAfter_warps ..)]
    exact noteNarrow_flight k.found _
  unfold laneAnswer
  rw [ht]
  dsimp only
  rw [spaceSc_plain hf k.order]

theorem laneAnswer_post (k : s.OneLane w id l f) (t : Tag) (ht : t.use = .post w id l) (v : Nat → Option DWord) :
    s.laneAnswer c t v = (s.noteNarrow w t.req).laneDone w id l none := by
  unfold laneAnswer
  rw [ht]
  dsimp only
  rw [spaceSc_plain (noteNarrow_flight k.found _) k.order]

/-- A reply that no tag accepts is a record, and nothing else (R46). -/
theorem discard_only (s : State) (c : CoreId) (tag round : Nat) (e : Endpoint) : SameMem s (s.discard c tag round e) ∧
    (s.discard c tag round e).warps = s.warps ∧ (s.discard c tag round e).cores = s.cores ∧
      ((s.discard c tag round e).pkg c.pkg).events.getLast?.map (·.code) = some 0x21 :=
  ⟨SameMem.of_ground (log_ground ..), by simp [discard, log], by simp [discard, log], log_lastCode ..⟩

theorem not_accepts {round : Nat} (h : (s.tag c n).held = false ∨ (s.tag c n).round ≠ round) : s.accepts c n round = false := by
  obtain h | h := h <;> simp [accepts, h]

theorem accepts_of {round : Nat} (hh : (s.tag c n).held = true) (hr : (s.tag c n).round = round) : s.accepts c n round = true := by
  simp [accepts, hh, hr]

/-- A lane whose tag has been answered. -/
theorem OneLane.freed (k : s.OneLane w id l f) (c : CoreId) (n : Nat) : (s.freeTagNow c n).OneLane w id l f :=
  k.of_found (by rw [flight?_of_warps (freeTagNow_warps ..), k.found])

/-! A core's lines. -/

theorem cached_of_cores {t : State} (h : t.cores = s.cores) (c : CoreId) (pa : Nat) : t.cached c pa = s.cached c pa := by
  rw [cached, core, h, cached, core]

theorem setLine_cached_self (s : State) (c : CoreId) (pa : Nat) (x : CacheLine) (h : x.pa = lineOf pa * 128) :
    (s.setLine c x).cached c pa = some x := by
  rw [cached, core, setLine, updCore, setCore, tget_tset_self]
  exact List.find?_cons_of_pos (by simp [h])

/-- A core's update that leaves its lines leaves every line. -/
theorem cached_updCore (s : State) (c d : CoreId) (pa : Nat) (g : Core → Core) (hg : ∀ k, (g k).lines = k.lines) :
    (s.updCore c g).cached d pa = s.cached d pa := by
  by_cases hd : d = c
  · subst hd
    rw [cached, core, updCore, setCore, tget_tset_self, hg, cached]
  · rw [cached, core, updCore, setCore, tget_tset_ne _ _ _ _ _ hd, cached, core]

theorem freeTagNow_cached (s : State) (c d : CoreId) (n pa : Nat) : (s.freeTagNow c n).cached d pa = s.cached d pa := by
  unfold freeTagNow
  split
  · exact cached_updCore s c d pa (fun k => { k with tags := tset k.tags n { s.tag c n with held := false, use := .idle } }) fun _ => rfl
  · exact cached_updCore s c d pa _ fun _ => rfl

theorem releasePin_cores (s : State) (c : CoreId) (pa : Nat) : (s.releasePin c pa).cores = s.cores := by
  unfold releasePin
  dsimp only
  repeat' split
  all_goals rfl

theorem releasePin_mem (s : State) (c : CoreId) (pa : Nat) : (s.releasePin c pa).mem = s.mem := by
  unfold releasePin
  dsimp only
  repeat' split
  all_goals rfl

/-! Write-backs (R207). -/

/-- A write-back takes no tag that an instruction holds: no warp changes, nor the clock. -/
theorem takeTag_writeback {t : State} {far : Bool} {pa : Nat} (h : s.takeTag c far (.writeback pa) = some (n, t)) :
    t.warps = s.warps ∧ t.calm = s.calm := by
  unfold takeTag at h
  split at h
  · obtain ⟨m, -, hm⟩ := Option.map_eq_some_iff.mp h
    obtain ⟨-, rfl⟩ := Prod.mk.inj hm
    exact ⟨rfl, rfl⟩
  · obtain ⟨-, rfl⟩ := Prod.mk.inj (Option.some.inj h)
    exact ⟨rfl, rfl⟩

@[simp] theorem holdTag_warps (s : State) (c : CoreId) (n : Nat) (q : Packet) (l : Option LinePkt) (use : TagUse) :
    (s.holdTag c n q l use).warps = s.warps := by
  unfold holdTag
  split <;> rfl

@[simp] theorem holdTag_calm (s : State) (c : CoreId) (n : Nat) (q : Packet) (l : Option LinePkt) (use : TagUse) :
    (s.holdTag c n q l use).calm = s.calm := by
  unfold holdTag
  split <;> rfl

theorem requestLine_writeback {t : State} {far : Bool} {pk : LinePkt} {pa : Nat} (h : s.requestLine c far pk (.writeback pa) = some t) :
    t.warps = s.warps ∧ t.calm = s.calm := by
  unfold requestLine at h
  split at h
  · exact absurd h (by simp)
  · next htake =>
    obtain ⟨hw, hk⟩ := takeTag_writeback htake
    dsimp only at h
    split at h
    · obtain rfl := Option.some.inj h
      simp [hw, hk]
    · obtain rfl := Option.some.inj h
      simp [hw, hk]

theorem writeBack_leaves (s : State) (c : CoreId) (x : CacheLine) : (s.writeBack c x).warps = s.warps ∧ (s.writeBack c x).calm = s.calm := by
  unfold writeBack
  split
  · exact ⟨rfl, rfl⟩
  · dsimp only
    split
    · next h =>
      obtain ⟨hw, hk⟩ := requestLine_writeback h
      exact ⟨hw, hk⟩
    · exact ⟨by unfold afterOnce; split <;> rfl, afterOnce_calm ..⟩

theorem endPin_ground (s : State) (c : CoreId) (pa : Nat) : (s.endPin c pa).ground = s.ground := by
  unfold endPin
  repeat' split
  all_goals simp

theorem endPin_calm (s : State) (c : CoreId) (pa : Nat) : (s.endPin c pa).calm = s.calm := by
  unfold endPin
  repeat' split
  all_goals simp [writeBack_leaves]

theorem endPin_warps (s : State) (c : CoreId) (pa : Nat) : (s.endPin c pa).warps = s.warps := by
  unfold endPin
  repeat' split
  all_goals simp [writeBack_leaves]

/-! Faults of a tag (R45, R221). -/

theorem OneLane.tagFault_lane (k : s.OneLane w id l f) (t : Tag) (cause : Nat) (huse : t.use = .lane w id l) (hline : t.line = none)
    (hdest : f.dest ≠ []) (hpool : (memOf f.instr).map (·.1.space) = some .pool) : s.tagFault c t cause =
      (({ s with free := s.free + 1 } : State).updFlight w id (·.tainted (faultPoison f cause))).laneDone w id l
        (some (Config.freeWord s.free)) := by
  rw [← k.laneFault_pool hdest hpool cause t.req.dst.pkg (BitVec.ofNat 64 (f.addrOf l))]
  unfold tagFault
  rw [huse, hline]
  dsimp only
  rw [spaceSc_plain k.found k.order, k.found]
  rfl

/-- The flight of a lane that meets a fault, poisoned. -/
theorem OneLane.faulted (k : s.OneLane w id l f) (cause : Nat) :
    (({ s with free := s.free + 1 } : State).updFlight w id (·.tainted (faultPoison f cause))).OneLane w id l
      (f.tainted (faultPoison f cause)) :=
  (OneLane.of_found (t := { s with free := s.free + 1 }) k k.found).tainted _

theorem OneLane.tagFault_filled {u : State} (k : u.OneLane w id l f) (hm : u.mem = s.mem) (t : Tag) (cause : Nat)
    (huse : t.use = .lane w id l) (hline : t.line = none) (hdest : f.dest ≠ []) (hpool : (memOf f.instr).map (·.1.space) = some .pool)
    (hbad : f.bad = none) : s.Filled (u.tagFault c t cause) w id l none (some (faultPoison f cause)) := by
  rw [k.tagFault_lane t cause huse hline hdest hpool]
  obtain ⟨hmem, hdue, g, hg, hdone, -, hpoison⟩ := (k.faulted cause).filled (s := s)
    ((mem_of_ground (updFlight_ground ..)).trans hm) (some (Config.freeWord u.free)) hdest
  refine ⟨hmem, hdue, g, hg, hdone, fun x hx => absurd hx (by simp), ?_⟩
  rw [hpoison, Flight.tainted, hbad]
  rfl

/-- A fault of a lane whose flight holds no other tag leaves the cores and the clock. -/
theorem OneLane.tagFault_leaves (k : s.OneLane w id l f) (t : Tag) (cause : Nat) (huse : t.use = .lane w id l) (hline : t.line = none)
    (hdest : f.dest ≠ []) (htags : f.tags = []) (hpool : (memOf f.instr).map (·.1.space) = some .pool) :
    (s.tagFault c t cause).cores = s.cores ∧ (s.tagFault c t cause).calm = s.calm := by
  rw [k.tagFault_lane t cause huse hline hdest hpool, (k.faulted cause).laneDone_fills _ hdest htags]
  constructor
  · simp
  · simp [updFlight]
    rfl

end State

/-- A tag's request as it goes again, to an endpoint (R41, R72). -/
def Tag.resent (t : Tag) (v : BitVec 16) (e : Endpoint) : Packet := { t.req with version := v, dst := e }

/-- The tag of an access that is overdue, unused for one further period (R45). -/
def Tag.overdue (t : Tag) : Tag := { t with held := false, quarantine := true, use := .idle }

open State

section
variable {s : State} {c : CoreId} {n : Nat} {w : WarpId} {id l : Nat} {f : Flight}

/-! Replies with data (R41). -/

theorem dataAnswer_exec {i : Instr} (hi : i = .readData ∨ i = .atomicData ∨ i = .casData) (s : State) :
    exec i s = .next (s.dataAnswer s.arg.q) := by
  obtain rfl | rfl | rfl := hi <;> rfl

theorem dataAnswer_stray {q : Packet} (hu : q.issuer.unit = 0)
    (h : (s.tag q.issuer.core q.tag).held = false ∨ (s.tag q.issuer.core q.tag).round ≠ q.round) :
    s.dataAnswer q = s.discard q.issuer.core q.tag q.round q.issuer := by
  unfold dataAnswer
  dsimp only
  rw [if_neg (by simp [hu]), if_pos (by simp [not_accepts h])]

/-- The data of a reply goes to its lane, by the instruction's type. -/
theorem dataAnswer_lane {q : Packet} {o : MemOp} {m : Mm} {e : Option Xm} (hu : q.issuer.unit = 0) (hc : q.issuer.core = c)
    (hh : (s.tag c q.tag).held = true) (hr : (s.tag c q.tag).round = q.round) (huse : (s.tag c q.tag).use = .lane w id l)
    (hf : s.flight? w id = some f) (hm : memOf f.instr = some (o, m, e)) :
    s.dataAnswer q = (s.freeTagNow c q.tag).laneAnswer c (s.tag c q.tag) fun _ => some (o.loaded (leBytes o.width q.data0.toNat)) := by
  subst hc
  unfold dataAnswer
  dsimp only
  rw [if_neg (by simp [hu]), if_neg (by simp [accepts_of hh hr]), huse]
  dsimp only
  rw [flight?_of_warps (freeTagNow_warps ..), hf, Option.bind_some, hm]

theorem yields_dataAnswer {i : Instr} (hi : i = .readData ∨ i = .atomicData ∨ i = .casData) (s : State) (q : Packet) (hq : s.arg.q = q)
    (hu : q.issuer.unit = 0) (hc : q.issuer.core = c) {o : MemOp} {m : Mm} {e : Option Xm} (k : s.OneLane w id l f) (hdest : f.dest ≠ [])
    (hh : (s.tag c q.tag).held = true) (hr : (s.tag c q.tag).round = q.round) (huse : (s.tag c q.tag).use = .lane w id l)
    (hm : memOf f.instr = some (o, m, e)) : Yields i s fun t =>
      s.Filled t w id l (some (o.loaded (leBytes o.width q.data0.toNat))) f.bad ∧ (t.tag c q.tag).held = false := by
  subst hq
  refine Yields.of_exec (dataAnswer_exec hi s) ?_
  rw [dataAnswer_lane hu hc hh hr huse k.found hm, laneAnswer_lane (k.freed c s.arg.q.tag) _ huse]
  generalize hv : (((s.freeTagNow c s.arg.q.tag).noteNarrow w (s.tag c s.arg.q.tag).req).dropAfter c (s.tag c s.arg.q.tag).req) = v
  have hk : v.OneLane w id l f := by
    refine k.of_found ?_
    rw [← hv, flight?_of_warps (dropAfter_warps ..)]
    exact noteNarrow_flight (k.freed c s.arg.q.tag).found _
  have hg : v.ground = s.ground := by simp [← hv]
  have hfree : (v.tag c s.arg.q.tag).held = false := by
    rw [← hv, dropAfter_held, tag_of_cores (noteNarrow_cores ..)]
    exact freeTagNow_held ..
  exact ⟨hk.filled (mem_of_ground hg) _ hdest, hk.laneDone_held _ _ _ hfree⟩

/-! Acknowledgements (R41, R207). -/

section
variable {q : Packet} (hq : s.arg.q = q) (hu : q.issuer.unit = 0) (hc : q.issuer.core = c) (hh : (s.tag c q.tag).held = true)
  (hr : (s.tag c q.tag).round = q.round)
include hq hu hc hh hr

theorem writeAck_post (huse : (s.tag c q.tag).use = .post w id l) :
    exec .writeAck s = .next ((s.freeTagNow c q.tag).laneAnswer c (s.tag c q.tag) fun _ => none) := by
  subst hq hc
  refine congrArg Host.Outcome.next ((if_neg (by simp [hu])).trans ((if_neg (by simp [hu])).trans ((if_neg (by simp [hu])).trans
    ((if_neg (by simp [accepts_of hh hr])).trans ?_))))
  dsimp only
  rw [huse]

theorem yields_writeAck_post (huse : (s.tag c q.tag).use = .post w id l) (k : s.OneLane w id l f) (hdest : f.dest = []) :
    Yields .writeAck s fun t => SameMem s t ∧ t.flight? w id = none ∧ (t.tag c q.tag).held = false := by
  refine Yields.of_exec (writeAck_post hq hu hc hh hr huse) ?_
  rw [laneAnswer_post (k.freed c q.tag) _ huse]
  have hk : ((s.freeTagNow c q.tag).noteNarrow w (s.tag c q.tag).req).OneLane w id l f :=
    k.of_found (noteNarrow_flight (k.freed c q.tag).found _)
  refine ⟨SameMem.of_ground (by simp), hk.laneDone_gone _ hdest, hk.laneDone_held _ _ _ ?_⟩
  rw [tag_of_cores (noteNarrow_cores ..)]
  exact freeTagNow_held ..

theorem writeAck_writeback {pa : Nat} {x : CacheLine} (huse : (s.tag c q.tag).use = .writeback pa) (hx : s.cached c pa = some x)
    (hdata : x.use = 0) : exec .writeAck s =
      .next (((s.freeTagNow c q.tag).releasePin c pa).setLine c { x with pin := .no, dirty := false, blocks := [] }) := by
  have hx' : ((s.freeTagNow c q.tag).releasePin c pa).cached c pa = some x := by
    rw [cached_of_cores (releasePin_cores ..), freeTagNow_cached, hx]
  subst hq hc
  refine congrArg Host.Outcome.next ((if_neg (by simp [hu])).trans ((if_neg (by simp [hu])).trans ((if_neg (by simp [hu])).trans
    ((if_neg (by simp [accepts_of hh hr])).trans ?_))))
  dsimp only
  rw [huse]
  dsimp only
  rw [hx']
  exact if_neg (by simp [hdata])

theorem yields_writeAck_writeback {pa : Nat} {x : CacheLine} (huse : (s.tag c q.tag).use = .writeback pa) (hx : s.cached c pa = some x)
    (hdata : x.use = 0) : Yields .writeAck s fun t =>
      SameMem s t ∧ (t.cached c pa).map (·.pin) = some .no ∧ (t.tag c q.tag).held = false := by
  refine Yields.of_exec (writeAck_writeback hq hu hc hh hr huse hx hdata) ?_
  have hpa : x.pa = lineOf pa * 128 := by simpa using List.find?_some hx
  refine ⟨fun a => ?_, ?_, ?_⟩
  · rw [mem_of_ground (setLine_ground ..), releasePin_mem, mem_of_ground (freeTagNow_ground ..)]
  · exact congrArg (Option.map (·.pin)) (setLine_cached_self _ c pa { x with pin := .no, dirty := false, blocks := [] } hpa)
  · rw [setLine_tag, tag_of_cores (releasePin_cores ..)]
    exact freeTagNow_held ..

/-! ERROR (R42, R221). -/

theorem errorReply_exec : exec .errorReply s =
    .next ((s.freeTagNow c q.tag).tagFault c (s.tag c q.tag) (q.data0.toNat % 256)) := by
  subst hq hc
  exact congrArg Host.Outcome.next ((if_neg (by simp [hu])).trans ((if_neg (by simp [hu])).trans ((if_neg (by simp [hu])).trans
    (if_neg (by simp [accepts_of hh hr])))))

theorem yields_errorReply (huse : (s.tag c q.tag).use = .lane w id l) (k : s.OneLane w id l f) (hdest : f.dest ≠ [])
    (hline : (s.tag c q.tag).line = none) (hpool : (memOf f.instr).map (·.1.space) = some .pool) (hbad : f.bad = none) :
    Yields .errorReply s fun t => s.Filled t w id l none (some (faultPoison f (q.data0.toNat % 256))) := by
  refine Yields.of_exec (errorReply_exec hq hu hc hh hr) ?_
  exact (k.freed c q.tag).tagFault_filled (mem_of_ground (freeTagNow_ground ..)) _ _ huse hline hdest hpool hbad

/-! RETRY (R41, R45, R204). -/

theorem retryReply_exec : exec .retryReply s = .next (
    let u := if (s.tag c q.tag).req.order = 3 && !(s.tag c q.tag).req.sym then s.endPin c (s.tag c q.tag).req.addr else s
    let u := u.setTag c q.tag { u.tag c q.tag with deadline := u.tagDeadline c }
    let u := if q.tag < 256 then (u.cancel .tagTimeout { c := c, n := q.tag }).after u.timeoutNs .tagTimeout { c := c, n := q.tag } else u
    u.after 1000 .retryResend { c := c, n := q.tag, i := q.round }) := by
  subst hq hc
  exact congrArg Host.Outcome.next ((if_neg (by simp [hu])).trans (if_neg (by simp [accepts_of hh hr])))

theorem yields_retryReply : Yields .retryReply s fun t => SameMem s t ∧ t.warps = s.warps ∧
    (s.now + 1000, .retryResend, { c := c, n := q.tag, i := q.round }) ∈ t.timers ∧
      (t.tag c q.tag).deadline = (s.timeAt c.pkg).toNat + s.timeoutNs := by
  refine Yields.of_exec (retryReply_exec hq hu hc hh hr) ?_
  dsimp only
  generalize hv : (if (s.tag c q.tag).req.order = 3 && !(s.tag c q.tag).req.sym then s.endPin c (s.tag c q.tag).req.addr else s) = v
  have hg : v.ground = s.ground := by
    rw [← hv]
    split
    · exact endPin_ground ..
    · rfl
  have hcalm : v.calm = s.calm := by
    rw [← hv]
    split
    · exact endPin_calm ..
    · rfl
  have hwarps : v.warps = s.warps := by
    rw [← hv]
    split
    · exact endPin_warps ..
    · rfl
  have hdead : v.tagDeadline c = (s.timeAt c.pkg).toNat + s.timeoutNs := by
    rw [tagDeadline, timeAt_of_calm hcalm, timeoutNs, dom_of_ground hg, timeoutNs]
  have hnow := now_of_calm hcalm
  rw [← hdead, ← hwarps, ← hnow]
  split
  · exact ⟨fun a => by rw [← mem_of_ground hg]; rfl, rfl, mem_after .., tag_setTag_self .. ▸ rfl⟩
  · exact ⟨fun a => by rw [← mem_of_ground hg]; rfl, rfl, mem_after .., tag_setTag_self .. ▸ rfl⟩

end

/-! LINE_DATA (R43, R428). -/

theorem install_leaves (s : State) (c : CoreId) (pa : Nat) (data : List Byte) (pin : Pin) (bs : List BlockId) :
    (s.install c pa data pin bs).warps = s.warps ∧ (s.install c pa data pin bs).mem = s.mem := by
  unfold install
  dsimp only
  split
  · exact ⟨rfl, rfl⟩
  · split
    · exact ⟨rfl, rfl⟩
    · split
      · next v _ =>
        exact ⟨(writeBack_leaves (s.dropLine c pa) c _).1, mem_of_ground (writeBack_ground (s.dropLine c pa) c _)⟩
      · split <;> exact ⟨rfl, rfl⟩

theorem keepLine_leaves (s : State) (c : CoreId) (t : Tag) (x : LinePkt) :
    (s.keepLine c t x).warps = s.warps ∧ (s.keepLine c t x).mem = s.mem := by
  unfold keepLine
  dsimp only
  split
  · exact ⟨rfl, rfl⟩
  · split
    · split
      · exact ⟨rfl, rfl⟩
      · exact install_leaves ..
    · split
      · split <;> exact ⟨rfl, rfl⟩
      · exact ⟨rfl, rfl⟩

/-- A line that has come serves the lane that asked for it. -/
theorem lineData_exec {x : LinePkt} {o : MemOp} {m : Mm} {e : Option Xm} (hx : s.arg.l = x) (hc : x.dst.core = c)
    (hh : (s.tag c x.tag).held = true) (hr : (s.tag c x.tag).round = x.round) (hp : x.poison = false)
    (huse : (s.tag c x.tag).use = .lane w id l) (hf : s.flight? w id = some f) (hm : memOf f.instr = some (o, m, e)) :
    exec .lineData s = .next (((s.freeTagNow c x.tag).keepLine c (s.tag c x.tag) x).laneDone w id l
      (some (o.loaded ((x.data.drop (f.addrOf l % 128)).take o.width)))) := by
  subst hx hc
  refine congrArg Host.Outcome.next ((if_neg (by simp [accepts_of hh hr])).trans ((if_neg (by simp [hp])).trans ?_))
  dsimp only
  rw [huse]
  dsimp only
  rw [flight?_of_warps (freeTagNow_warps ..), hf]
  dsimp only
  rw [hm]

theorem yields_lineData {x : LinePkt} {o : MemOp} {m : Mm} {e : Option Xm} (hx : s.arg.l = x) (hc : x.dst.core = c)
    (hh : (s.tag c x.tag).held = true) (hr : (s.tag c x.tag).round = x.round) (hp : x.poison = false)
    (huse : (s.tag c x.tag).use = .lane w id l) (k : s.OneLane w id l f) (hdest : f.dest ≠ []) (hm : memOf f.instr = some (o, m, e)) :
    Yields .lineData s fun t => s.Filled t w id l (some (o.loaded ((x.data.drop (f.addrOf l % 128)).take o.width))) f.bad := by
  refine Yields.of_exec (lineData_exec hx hc hh hr hp huse k.found hm) ?_
  obtain ⟨hwarps, hmem⟩ := keepLine_leaves (s.freeTagNow c x.tag) c (s.tag c x.tag) x
  refine OneLane.filled (k.of_found ?_) (hmem.trans (mem_of_ground (freeTagNow_ground ..))) _ hdest
  rw [flight?_of_warps hwarps, flight?_of_warps (freeTagNow_warps ..), k.found]

/-! RETRY_RESEND (R41, R72). -/

section
variable (hc : s.arg.c = c) (hn : s.arg.n = n) (hflag : s.arg.flag = false)
include hc hn hflag

theorem retryResend_exec (hh : (s.tag c n).held = true) (hr : (s.tag c n).round = s.arg.i) :
    exec .retryResend s = .next (s.resendTag c n) := by
  subst hc hn
  exact congrArg Host.Outcome.next ((if_neg (by simp [hflag])).trans (if_pos (accepts_of hh hr)))

omit hc hn hflag in
theorem resendTag_request (hline : (s.tag c n).line = none) (hu : (s.tag c n).req.dst.unit ≠ 2) :
    s.resendTag c n = s.send ((s.tag c n).resent (s.die c.dieId).cur.version (s.tag c n).req.dst) := by
  unfold resendTag
  dsimp only
  rw [hline]
  exact if_pos (by simp [hu])

omit hc hn hflag in
theorem resendTag_home {h : Home} (hline : (s.tag c n).line = none) (hu : (s.tag c n).req.dst.unit = 2) (hop : (s.tag c n).req.opcode ≠ 5)
    (hhome : s.homeAt c.dieId (s.tag c n).req.addr = some h) :
    s.resendTag c n = s.send ((s.tag c n).resent (s.die c.dieId).cur.version (homeEndpoint h)) := by
  unfold resendTag
  dsimp only
  rw [hline]
  dsimp only
  rw [if_neg (by simp [hu, hop]), hhome]
  rfl

/-- A request goes again, to where it is sent. -/
theorem yields_retryResend (hh : (s.tag c n).held = true) (hr : (s.tag c n).round = s.arg.i) (e : Endpoint)
    (hgo : s.resendTag c n = s.send ((s.tag c n).resent (s.die c.dieId).cur.version e)) {i : Instr}
    (hi : packetEvent (s.tag c n).req.opcode = some i) (hnear : (s.tag c n).req.src.pkg = e.pkg) : Yields .retryResend s fun t =>
      SameMem s t ∧ (i, { q := (s.tag c n).resent (s.die c.dieId).cur.version e }) ∈ t.inflight := by
  refine Yields.of_exec (retryResend_exec hc hn hflag hh hr) ?_
  have hnear : ((s.tag c n).resent (s.die c.dieId).cur.version e).src.pkg = e.pkg := hnear
  rw [hgo, send_near s _ i hnear hi]
  exact ⟨fun a => rfl, mem_post ..⟩

/-! TAG_TIMEOUT and TAG_QUARANTINE_END (R45). -/

theorem tagTimeout_exec (huse : (s.tag c n).use = .lane w id l) (hh : (s.tag c n).held = true)
    (hd : (s.tag c n).deadline ≤ (s.timeAt c.pkg).toNat) : exec .tagTimeout s =
      .next (((s.setTag c n (s.tag c n).overdue).tagFault c (s.tag c n) 0xFF).after s.timeoutNs .tagQuarantineEnd { c := c, n := n }) := by
  subst hc hn
  have hlate : ¬ (s.timeAt s.arg.c.pkg).toNat < (s.tag s.arg.c s.arg.n).deadline := by omega
  refine congrArg Host.Outcome.next ((if_neg (by simp [hflag])).trans ((if_neg (by simp [hh])).trans ((if_neg hlate).trans ?_)))
  dsimp only
  rw [huse]
  rfl

theorem yields_tagTimeout (k : s.OneLane w id l f) (huse : (s.tag c n).use = .lane w id l) (hdest : f.dest ≠ []) (htags : f.tags = [])
    (hh : (s.tag c n).held = true) (hline : (s.tag c n).line = none) (hd : (s.tag c n).deadline ≤ (s.timeAt c.pkg).toNat)
    (hpool : (memOf f.instr).map (·.1.space) = some .pool) (hbad : f.bad = none) :
    Yields .tagTimeout s fun t => s.Filled t w id l none (some (faultPoison f 0xFF)) ∧ (t.tag c n).held = false ∧
      (t.tag c n).quarantine = true ∧ (s.now + s.timeoutNs, .tagQuarantineEnd, { c := c, n := n }) ∈ t.timers := by
  refine Yields.of_exec (tagTimeout_exec hc hn hflag huse hh hd) ?_
  have hk : (s.setTag c n (s.tag c n).overdue).OneLane w id l f := k.of_found k.found
  have hfill := hk.tagFault_filled (s := s) (c := c) rfl (s.tag c n) 0xFF huse hline hdest hpool hbad
  obtain ⟨hcores, hcalm⟩ := hk.tagFault_leaves (c := c) (s.tag c n) 0xFF huse hline hdest htags hpool
  generalize (s.setTag c n (s.tag c n).overdue).tagFault c (s.tag c n) 0xFF = u at hfill hcores hcalm
  have htag : u.tag c n = (s.tag c n).overdue := (tag_of_cores hcores c n).trans (tag_setTag_self ..)
  refine ⟨hfill, congrArg Tag.held htag, congrArg Tag.quarantine htag, ?_⟩
  rw [← now_of_calm (hcalm.trans (setTag_calm ..))]
  exact mem_after ..

omit n hn in
theorem yields_tagQuarantineEnd : Yields .tagQuarantineEnd s fun t =>
    SameMem s t ∧ (t.tag c s.arg.n).quarantine = false ∧ t.warps = s.warps := by
  subst hc
  refine Yields.of_exec (congrArg Host.Outcome.next (if_neg (by simp [hflag]))) ?_
  exact ⟨fun a => rfl, congrArg Tag.quarantine (tag_setTag_self ..), rfl⟩

end

end

/-- Settles O45: each reply at the tag that it answers, a request that goes again, and a tag's timer. -/
theorem replies : Obligations.Replies := by
  refine ⟨fun s i w id l f o m e hi hu => ⟨fun h => ?_,
    fun ⟨huse, hf, hl, hsent, hrem, hwait, hdone, hfault, hord, hdest, htags, hh⟩ hr hm => ?_⟩,
    ?_, ?_, ?_⟩
  · exact Yields.of_exec ((dataAnswer_exec hi s).trans (congrArg Host.Outcome.next (dataAnswer_stray hu h))) (discard_only ..)
  · exact yields_dataAnswer hi s _ rfl hu rfl ⟨hf, hsent, hrem, hwait, hdone, hfault, hord⟩ hdest hh hr huse hm
  · refine fun s hu hh hr => ⟨fun w id l f huse hf hl hsent hrem hwait hdone hfault hord hdest => ?_,
      fun pa k huse hk hdata => yields_writeAck_writeback rfl hu rfl hh hr huse hk hdata,
      fun w id l f ⟨huse, hf, hl, hsent, hrem, hwait, hdone, hfault, hord, hdest, htags, hheld⟩ hline hpool hbad => ?_,
      yields_retryReply rfl hu rfl hh hr⟩
    · exact yields_writeAck_post rfl hu rfl hh hr huse ⟨hf, hsent, hrem, hwait, hdone, hfault, hord⟩ hdest
    · exact yields_errorReply rfl hu rfl hh hr huse ⟨hf, hsent, hrem, hwait, hdone, hfault, hord⟩ hdest hline hpool hbad
  · exact fun s w id l f o m e ⟨huse, hf, hl, hsent, hrem, hwait, hdone, hfault, hord, hdest, htags, hh⟩ hr hp hm =>
      yields_lineData rfl rfl hh hr hp huse ⟨hf, hsent, hrem, hwait, hdone, hfault, hord⟩ hdest hm
  · refine fun s hflag => ⟨fun hh hr hline i hi => ⟨fun hnear hu => ?_, fun h hu hop hhome hnear => ?_⟩,
      fun w id l f ⟨huse, hf, hl, hsent, hrem, hwait, hdone, hfault, hord, hdest, htags, hh⟩ hline hd hpool hbad => ?_,
      yields_tagQuarantineEnd rfl hflag⟩
    · exact yields_retryResend rfl rfl hflag hh hr _ (resendTag_request hline hu) hi hnear
    · exact yields_retryResend rfl rfl hflag hh hr _ (resendTag_home hline hu hop hhome) hi hnear
    · exact yields_tagTimeout rfl rfl hflag ⟨hf, hsent, hrem, hwait, hdone, hfault, hord⟩ huse hdest htags hh hline hd hpool hbad

end Sys2Proof.Machine
end

section
/-! PROOFS. Every step keeps memory canonical (O58, log 8): each function of the model, from the writes of memory up to a turn,
answers a state whose memory is canonical. One lemma a function, in the order of the model; a lemma's proof names the lemma of
each function that its function calls. -/

open Sys2Proof Sys2Proof.Machine

namespace Sys2Proof.Machine

/-- Memory is canonical in a state. -/
def State.Canon (s : State) : Prop := s.mem.wf = true

/-! What a function answers, beside a state: memory is canonical in each state that the answer holds. -/

def Result.Canon : Result → Prop
  | .next t => t.Canon
  | _ => True

@[simp] theorem Result.canon_next {t : State} : Result.Canon (.next t) ↔ t.Canon := Iff.rfl
@[simp] theorem Result.canon_fault {f} : Result.Canon (.fault f) ↔ True := Iff.rfl

def Ready.Canon : Ready → Prop
  | .go _ t => t.Canon
  | .wait t => t.Canon
  | .trapped t => t.Canon

theorem Ready.Canon.go {r : Ready} {i t} (h : r.Canon) (e : r = .go i t) : t.Canon := by subst e; exact h
theorem Ready.Canon.wait {r : Ready} {t} (h : r.Canon) (e : r = .wait t) : t.Canon := by subst e; exact h
theorem Ready.Canon.trapped {r : Ready} {t} (h : r.Canon) (e : r = .trapped t) : t.Canon := by subst e; exact h

def PorterR.Canon : PorterR → Prop
  | .done t => t.Canon
  | .more t => t.Canon
  | .wait t => t.Canon

theorem PorterR.Canon.done {r : PorterR} {t} (h : r.Canon) (e : r = .done t) : t.Canon := by subst e; exact h
theorem PorterR.Canon.more {r : PorterR} {t} (h : r.Canon) (e : r = .more t) : t.Canon := by subst e; exact h
theorem PorterR.Canon.wait {r : PorterR} {t} (h : r.Canon) (e : r = .wait t) : t.Canon := by subst e; exact h

def RunR.Canon : RunR → Prop
  | .wait t _ _ => t.Canon
  | .fault t _ _ _ _ => t.Canon
  | .went t _ _ => t.Canon

theorem RunR.Canon.wait {r : RunR} {t a b} (h : r.Canon) (e : r = .wait t a b) : t.Canon := by subst e; exact h
theorem RunR.Canon.fault {r : RunR} {t a b c d} (h : r.Canon) (e : r = .fault t a b c d) : t.Canon := by subst e; exact h
theorem RunR.Canon.went {r : RunR} {t a b} (h : r.Canon) (e : r = .went t a b) : t.Canon := by subst e; exact h

def Frame.Canon : Frame → Prop
  | .ok _ t => t.Canon
  | .wait t => t.Canon
  | _ => True

theorem Frame.Canon.ok {r : Frame} {l t} (h : r.Canon) (e : r = .ok l t) : t.Canon := by subst e; exact h
theorem Frame.Canon.wait {r : Frame} {t} (h : r.Canon) (e : r = .wait t) : t.Canon := by subst e; exact h

def HeaderAt.Canon : HeaderAt → Prop
  | .ok _ t => t.Canon
  | .wait t => t.Canon
  | _ => True

theorem HeaderAt.Canon.ok {r : HeaderAt} {l t} (h : r.Canon) (e : r = .ok l t) : t.Canon := by subst e; exact h
theorem HeaderAt.Canon.wait {r : HeaderAt} {t} (h : r.Canon) (e : r = .wait t) : t.Canon := by subst e; exact h

def CodeAt.Canon : CodeAt → Prop
  | .ok _ t => t.Canon
  | .wait t => t.Canon
  | _ => True

theorem CodeAt.Canon.ok {r : CodeAt} {i t} (h : r.Canon) (e : r = .ok i t) : t.Canon := by subst e; exact h
theorem CodeAt.Canon.wait {r : CodeAt} {t} (h : r.Canon) (e : r = .wait t) : t.Canon := by subst e; exact h

def Fetch.Canon : Fetch → Prop
  | .ok _ t => t.Canon
  | .wait t => t.Canon
  | _ => True

theorem Fetch.Canon.ok {r : Fetch} {w t} (h : r.Canon) (e : r = .ok w t) : t.Canon := by subst e; exact h
theorem Fetch.Canon.wait {r : Fetch} {t} (h : r.Canon) (e : r = .wait t) : t.Canon := by subst e; exact h

def Arrival.Canon : Arrival → Prop
  | .broken t => t.Canon
  | .arrived t => t.Canon
  | _ => True

theorem Arrival.Canon.broken {r : Arrival} {t} (h : r.Canon) (e : r = .broken t) : t.Canon := by subst e; exact h
theorem Arrival.Canon.arrived {r : Arrival} {t} (h : r.Canon) (e : r = .arrived t) : t.Canon := by subst e; exact h

namespace State

theorem mk_canon {s : State} (h : s.Canon) {a₁ a₂ a₃ a₄ a₅ a₆ a₇ a₈ a₉ b₁ b₂ b₃ b₄ b₅ b₆ b₇ b₈ b₉ c₁ c₂ c₃ c₄ c₅ c₆ c₇} : (State.mk
    s.mem a₁ a₂ a₃ a₄ a₅ a₆ a₇ a₈ a₉ b₁ b₂ b₃ b₄ b₅ b₆ b₇ b₈ b₉ c₁ c₂ c₃ c₄ c₅ c₆ c₇).Canon := h

section
variable {s : State} (h : s.Canon)
include h

theorem setDie_canon {a b} : (s.setDie a b).Canon := h
theorem setPkg_canon {a b} : (s.setPkg a b).Canon := h
theorem setCore_canon {a b} : (s.setCore a b).Canon := h
theorem setWarp_canon {a b} : (s.setWarp a b).Canon := h
theorem setBlock_canon {a b} : (s.setBlock a b).Canon := h
theorem setLaunch_canon {a b} : (s.setLaunch a b).Canon := h
theorem homePuts_canon {a b c} : (s.homePuts a b c).Canon := homePuts_wf _ _ _ _ h
theorem bootPuts_canon {a b c} : (s.bootPuts a b c).Canon := bootPuts_wf _ _ _ _ h
theorem scratchPut_canon {a b c} : (s.scratchPut a b c).Canon := scratchPut_wf _ _ _ _ h

end

end State

/-! The rules of what functions are made of: a loop, a choice, an answer or else the state, and the place of an instruction. -/

theorem foldl_canon {α : Type} {f : State → α → State} (hf : ∀ s x, s.Canon → (f s x).Canon) {l : List α} {s : State}
    (h : s.Canon) : (l.foldl f s).Canon := by
  induction l generalizing s with
  | nil => exact h
  | cons x l ih => exact ih (hf s x h)

theorem ite_canon {c : Prop} {i : Decidable c} {s t : State} (hs : s.Canon) (ht : t.Canon) :
    (if c then s else t).Canon := by
  split
  · exact hs
  · exact ht

theorem Result.ite_canon {c : Prop} {i : Decidable c} {s t : Result} (hs : s.Canon) (ht : t.Canon) :
    Result.Canon (if c then s else t) := by
  split
  · exact hs
  · exact ht

theorem next_canon {s : State} (h : s.Canon) : Result.Canon (.next s) := h

theorem getD_canon {o : Option State} {s : State} (h : s.Canon) (ho : ∀ t, o = some t → t.Canon) : (o.getD s).Canon := by
  cases o with
  | none => exact h
  | some t => exact ho t rfl

theorem State.atSite_canon {s : State} {f : Site → Result} (hf : ∀ x, Result.Canon (f x)) : Result.Canon (s.atSite f) := by
  unfold State.atSite
  split
  · exact hf _
  · trivial

namespace State

section
/-! Clocks, timers, logs, tags and writes at a home leave memory canonical. -/

variable {s : State} (h : s.Canon)
include h

theorem of_ground {t : State} (e : t.ground = s.ground) : t.Canon := by unfold State.Canon; rw [mem_of_ground e]; exact h
theorem updCore_canon {c f} : (s.updCore c f).Canon := of_ground h (State.updCore_ground ..)
theorem updDie_canon {d f} : (s.updDie d f).Canon := setDie_canon h
theorem updPkg_canon {p f} : (s.updPkg p f).Canon := h
theorem updWarp_canon {w f} : (s.updWarp w f).Canon := of_ground h (State.updWarp_ground ..)
theorem updBlock_canon {b f} : (s.updBlock b f).Canon := of_ground h (State.updBlock_ground ..)
theorem updLaunch_canon {k f} : (s.updLaunch k f).Canon := of_ground h (State.updLaunch_ground ..)
theorem post_canon {i arg} : (s.post i arg).Canon := of_ground h (State.post_ground ..)
theorem postOnce_canon {i arg} : (s.postOnce i arg).Canon := of_ground h (State.postOnce_ground ..)
theorem after_canon {ns i arg} : (s.after ns i arg).Canon := of_ground h (State.after_ground ..)
theorem afterOnce_canon {ns i arg} : (s.afterOnce ns i arg).Canon := of_ground h (State.afterOnce_ground ..)
theorem cancel_canon {i arg} : (s.cancel i arg).Canon := of_ground h (State.cancel_ground ..)

theorem choose_canon {n y t} (e : s.choose n = (y, t)) : t.Canon := by
  grind [choose, mk_canon]

theorem freeValue_canon {y t} (e : s.freeValue = (y, t)) : t.Canon := by
  grind [freeValue, mk_canon]

theorem pickRun_canon {left y rest t} (e : s.pickRun left = some (y, rest, t)) : t.Canon := by
  unfold pickRun at e
  split at e
  · cases e
  · cases e
    exact h
  · cases e
    exact freeValue_canon h rfl

theorem log_canon {p src code tag data} : (s.log p src code tag data).Canon := of_ground h (State.log_ground ..)
theorem toFlash_canon {p} : (s.toFlash p).Canon := of_ground h (State.toFlash_ground ..)
theorem setPort_canon {p n v} : (s.setPort p n v).Canon := of_ground h (State.setPort_ground ..)
theorem enqueueBy_canon {p m put} : (s.enqueueBy p m put).Canon := of_ground h (State.enqueueBy_ground ..)
theorem enqueue_canon {p m f} : (s.enqueue p m f).Canon := enqueueBy_canon h
theorem arrive_canon {q} : (s.arrive q).Canon := of_ground h (State.arrive_ground ..)
theorem arriveLine_canon {ls} : (s.arriveLine ls).Canon := of_ground h (State.arriveLine_ground ..)
theorem updFrozen_canon {p m f} : (s.updFrozen p m f).Canon := updPkg_canon h
theorem hold_canon {p m i a} : (s.hold p m i a).Canon := updFrozen_canon h

theorem freeze_canon {p m violation} : (s.freeze p m violation).Canon := by
  unfold freeze
  dsimp only
  split
  · exact log_canon (updPkg_canon h)
  · split
    · exact updCore_canon (log_canon (updPkg_canon h))
    · exact updCore_canon (log_canon (updPkg_canon h))
    · exact log_canon (updPkg_canon h)

theorem passHome_canon {k i m} {f : State → State} (hf : ∀ t : State, t.Canon → (f t).Canon) : State.Canon (s.passHome k i m f) :=
  ite_canon (hf s h) (hold_canon (ite_canon h (freeze_canon h)))

theorem send_canon {q} : (s.send q).Canon := of_ground h (State.send_ground ..)
theorem refuse_canon {q src cause} : (s.refuse q src cause).Canon := of_ground h (State.refuse_ground ..)
theorem sendLine_canon {ls} : (s.sendLine ls).Canon := of_ground h (State.sendLine_ground ..)
theorem symKeep_canon {p o} : (s.symKeep p o).Canon := of_ground h (State.symKeep_ground ..)
theorem setLine_canon {c ls} : (s.setLine c ls).Canon := of_ground h (State.setLine_ground ..)
theorem dropLine_canon {c pa} : (s.dropLine c pa).Canon := of_ground h (State.dropLine_ground ..)
theorem deviceWrite_canon {c pa bs} : (s.deviceWrite c pa bs).Canon := updCore_canon (homePuts_canon h)
theorem fireSlots_canon {w f} : (s.fireSlots w f).Canon := of_ground h (State.fireSlots_ground ..)
theorem fireCore_canon {c f} : (s.fireCore c f).Canon := of_ground h (State.fireCore_ground ..)
theorem stampSc_canon {k order issuer} : (s.stampSc k order issuer).Canon := ite_canon (updDie_canon h) h

theorem evalAwait_canon {d near wid x} : (s.evalAwait d near wid x).Canon := by
  unfold evalAwait
  dsimp only
  split
  · exact h
  · split
    · exact h
    · split
      · exact h
      · refine updWarp_canon ?_
        split
        · exact ite_canon (stampSc_canon h) h
        · exact h

theorem fireCounts_canon {d pa n} : (s.fireCounts d pa n).Canon :=
  foldl_canon (fun _ _ hs => evalAwait_canon (evalAwait_canon hs)) (foldl_canon (fun _ _ hs => fireSlots_canon hs) h)

theorem recordRff_canon {w cause peer mcast addr} : (s.recordRff w cause peer mcast addr).Canon :=
  fireSlots_canon (updWarp_canon h)

theorem fireWatches_canon {d pa n} : (s.fireWatches d pa n).Canon := of_ground h (State.fireWatches_ground ..)
theorem markDirty_canon {d pa} : (s.markDirty d pa).Canon := ite_canon h (setDie_canon h)

theorem pushLine_canon {k pa hd mask} : (s.pushLine k pa hd mask).Canon :=
  ite_canon (setDie_canon h) (sendLine_canon (setDie_canon h))

theorem pushAll_canon {k pa} : (s.pushAll k pa).Canon := foldl_canon (fun _ _ hs => pushLine_canon hs) h
theorem notifyKernel_canon {pa} : (s.notifyKernel pa).Canon := of_ground h (State.notifyKernel_ground ..)
theorem answered_canon {pa n} : (s.answered pa n).Canon := of_ground h (State.answered_ground ..)

theorem afterWrite_canon {k pa n} : (s.afterWrite k pa n).Canon := by
  unfold afterWrite
  extract_lets d s₁ s₂ s₃ s₄ s₅ s₆ s₇
  have h₅ : s₅.Canon := answered_canon (pushAll_canon (fireWatches_canon (fireCounts_canon (markDirty_canon h))))
  have h₇ : s₇.Canon := foldl_canon (fun _ _ hs => postOnce_canon hs) (foldl_canon (fun _ _ hs => postOnce_canon hs) h₅)
  split
  · exact h₇
  · extract_lets s₈
    have h₈ : s₈.Canon := ite_canon (postOnce_canon h₇) h₇
    exact ite_canon (postOnce_canon h₈) h₈

theorem homeWrite_canon {d pa bs} : (s.homeWrite d pa bs).Canon := by
  unfold homeWrite
  split
  · exact afterWrite_canon (ite_canon (mk_canon (homePuts_canon h)) (homePuts_canon h))
  · exact h

end

section
/-! Traps and saves of a context leave memory canonical. -/

variable {s : State} (h : s.Canon)
include h

theorem raise_canon {w u} : (s.raise w u).Canon := postOnce_canon (updWarp_canon h)

theorem markLost_canon {b} : (s.markLost b).Canon := by
  unfold markLost
  split
  · exact setBlock_canon (deviceWrite_canon h)
  · exact h

theorem loseBlock_canon {b} : (s.loseBlock b).Canon := postOnce_canon (markLost_canon h)
theorem writeWarp_canon {b w} : (s.writeWarp b w).Canon := deviceWrite_canon h

theorem recordsSince_canon {old} : (s.recordsSince old).Canon := by
  unfold recordsSince
  split
  · exact h
  · refine foldl_canon (fun s x hs => ?_) h
    split
    · exact hs
    · split
      · exact ite_canon (writeWarp_canon hs) hs
      · exact hs

theorem intoHandler_canon {wid w b addr lanes} : (s.intoHandler wid w b addr lanes).Canon :=
  setWarp_canon (writeWarp_canon h)

theorem saveGang_canon {g forService} : (s.saveGang g forService).Canon := of_ground h (State.saveGang_ground ..)

theorem deliver_canon {wid w b u declined} : (s.deliver wid w b u declined).Canon :=
  ite_canon (ite_canon (intoHandler_canon (notifyKernel_canon h)) (saveGang_canon (setWarp_canon (notifyKernel_canon h))))
      (ite_canon (loseBlock_canon (setWarp_canon h)) (intoHandler_canon h))

theorem takeTrap_canon {wid w b u queue} : (s.takeTrap wid w b u queue).Canon :=
  ite_canon (loseBlock_canon (setWarp_canon (deviceWrite_canon (deviceWrite_canon (deviceWrite_canon h))))) (deliver_canon
      (deviceWrite_canon h))

end

section
/-! Tags, requests and the lines of a core leave memory canonical. -/

variable {s : State} (h : s.Canon)
include h

theorem setTag_canon {c n u} : (s.setTag c n u).Canon := of_ground h (State.setTag_ground ..)
theorem allocTag_canon {c n} : (s.allocTag c n).Canon := of_ground h (State.allocTag_ground ..)

theorem allocTags_canon {c n ns t} (e : s.allocTags c n = (ns, t)) : t.Canon := by
  induction n generalizing s ns t with
  | zero => cases e; exact h
  | succ n ih =>
    unfold allocTags at e
    split at e
    · cases e; exact h
    · cases e
      exact ih (allocTag_canon h) rfl

theorem takeTag_canon {c far use y t} (e : s.takeTag c far use = some (y, t)) : t.Canon := of_ground h (takeTag_ground e)
theorem holdTag_canon {c n q ls use} : (s.holdTag c n q ls use).Canon := of_ground h (State.holdTag_ground ..)

theorem request_canon {c far q use t} (e : s.request c far q use = some t) : t.Canon := by
  grind [request, holdTag_canon, → takeTag_canon, send_canon]

theorem requestLine_canon {c far ls use t} (e : s.requestLine c far ls use = some t) : t.Canon :=
  of_ground h (requestLine_ground e)

theorem passTag_canon {c far t} (e : s.passTag c far = some t) : t.Canon := by
  unfold passTag at e
  split at e
  · obtain ⟨n, -, rfl⟩ := Option.map_eq_some_iff.mp e
    exact setTag_canon h
  · cases e
    exact h

theorem freeTagNow_canon {c n} : (s.freeTagNow c n).Canon := of_ground h (State.freeTagNow_ground ..)
theorem writeBack_canon {c ls} : (s.writeBack c ls).Canon := of_ground h (State.writeBack_ground ..)
theorem endPin_canon {c pa} : (s.endPin c pa).Canon := of_ground h (State.endPin_ground ..)
theorem endShares_canon {c b} : (s.endShares c b).Canon := of_ground h (State.endShares_ground ..)
theorem endWritten_canon {c b} : (s.endWritten c b).Canon := foldl_canon (fun _ _ hs => writeBack_canon hs) h

theorem install_canon {c pa data pin bs} : (s.install c pa data pin bs).Canon := by
  unfold install
  dsimp only
  split
  · exact setLine_canon (dropLine_canon h)
  · split
    · exact setLine_canon (dropLine_canon (dropLine_canon h))
    · split
      · exact setLine_canon (writeBack_canon (dropLine_canon h))
      · exact ite_canon (dropLine_canon h) (setLine_canon (dropLine_canon h))

theorem staleFills_canon {c f} : (s.staleFills c f).Canon := of_ground h (State.staleFills_ground ..)
theorem dropClean_canon {c pa} : (s.dropClean c pa).Canon := staleFills_canon (ite_canon h (dropLine_canon h))
theorem dropAllClean_canon {c} : (s.dropAllClean c).Canon := of_ground h (State.dropAllClean_ground ..)

theorem addHolder_canon {k pa hd} : (s.addHolder k pa hd).Canon := by
  unfold addHolder
  dsimp only
  split
  · exact h
  · split
    · exact ite_canon (pushLine_canon (updDie_canon h)) (updDie_canon h)
    · exact updDie_canon h

theorem putVisitor_canon {d pa data} : (s.putVisitor d pa data).Canon := updDie_canon h
theorem pinAt_canon {k c} : (s.pinAt k c).Canon := updDie_canon h

theorem releasePin_canon {c pa} : (s.releasePin c pa).Canon := by
  grind [releasePin, updDie_canon]

theorem writeCached_canon {c b pa bs} : (s.writeCached c b pa bs).Canon := by
  unfold writeCached
  split
  · exact setLine_canon h
  · exact h

end

section
/-! Messages between Brokers leave memory canonical. -/

variable {s : State} (h : s.Canon)
include h

theorem updBroker_canon {k f} : (s.updBroker k f).Canon := of_ground h (State.updBroker_ground ..)
theorem updShare_canon {k k' f} : (s.updShare k k' f).Canon := of_ground h (State.updShare_ground ..)
theorem setBrokerTag_canon {k n u} : (s.setBrokerTag k n u).Canon := of_ground h (State.setBrokerTag_ground ..)
theorem brokerSend_canon {i m} : (s.brokerSend i m).Canon := of_ground h (State.brokerSend_ground ..)
theorem passMsg_canon {i m} : (s.passMsg i m).Canon := of_ground h (State.passMsg_ground ..)
theorem tellMsg_canon {i m} : (s.tellMsg i m).Canon := of_ground h (State.tellMsg_ground ..)

theorem tell_canon {i src dst grid first count data1} : (s.tell i src dst grid first count data1).Canon := of_ground h
    (State.tell_ground ..)

theorem nextSend_canon {k} : (s.nextSend k).Canon := by
  unfold nextSend
  split
  · exact h
  · exact brokerSend_canon (updBroker_canon h)

theorem brokerAnswer_canon {q} : (s.brokerAnswer q).Canon := by
  unfold brokerAnswer
  dsimp only
  split
  · exact log_canon h
  · exact nextSend_canon (cancel_canon (setBrokerTag_canon h))

theorem brokerTimeout_canon {k n} : (s.brokerTimeout k n).Canon := by
  unfold brokerTimeout
  dsimp only
  split
  · exact h
  · split
    · exact afterOnce_canon h
    · split
      · exact passMsg_canon (after_canon (setBrokerTag_canon h))
      · exact after_canon (setBrokerTag_canon h)

theorem brokerReply_canon {q ok} : (s.brokerReply q ok).Canon := ite_canon h (send_canon h)

theorem hear_canon {i} {f : BrokerMsg → Launch → State → State} (hf : ∀ m l (t : State), t.Canon → (f m l t).Canon) :
    State.Canon (State.hear s i f) := by
  unfold hear
  dsimp only
  split
  · exact h
  · split
    · split
      on_goal 1 => refine post_canon (updBroker_canon ?_)
      all_goals
        split
        · exact brokerReply_canon (hf _ _ _ (updBroker_canon h))
        · exact brokerReply_canon (updBroker_canon h)
    · exact ite_canon (updBroker_canon h) (brokerReply_canon h)

end

section
/-! Translation, and what is read and written through it, leave memory canonical. -/

variable {s : State} (h : s.Canon)
include h

theorem recallLine_canon {c ls} : (s.recallLine c ls).Canon := of_ground h (State.recallLine_ground ..)
theorem handWatches_canon {d old} : (s.handWatches d old).Canon := of_ground h (State.handWatches_ground ..)

theorem switchDie_canon {d} : (s.switchDie d).Canon := by
  unfold switchDie
  dsimp only
  split
  · exact h
  · exact foldl_canon (fun _ _ hs => staleFills_canon (foldl_canon (fun _ _ hs => recallLine_canon hs) hs)) (handWatches_canon
        (setDie_canon h))

theorem meetVersion_canon {d v} : (s.meetVersion d v).Canon := by
  unfold meetVersion
  split
  · exact ite_canon (switchDie_canon h) h
  · exact h

theorem reach_canon {d pa y y1 t} (e : s.reach d pa = .at_ y y1 t) : t.Canon := by
  grind [reach, meetVersion_canon]

theorem walkLevels_canon {d va ls table path r q t} (e : s.walkLevels d va ls table path = (r, q, t)) : t.Canon := by
  induction ls generalizing s table path with
  | nil => cases e; exact h
  | cons l ls ih => grind [walkLevels, → reach_canon]

theorem walkFrom_canon {d va y y1 t} (e : s.walkFrom d va = (y,y1,t)) : t.Canon := by
  grind [walkFrom, → walkLevels_canon]

theorem walkKeep_canon {d va} : (s.walkKeep d va).Canon := by
  grind [walkKeep, updDie_canon, → walkFrom_canon]

theorem tlbFill_canon {c m} : (s.tlbFill c m).Canon := updCore_canon h
theorem tlbHit2_canon {c m} : (s.tlbHit2 c m).Canon := tlbFill_canon (updDie_canon h)

theorem translate_canon {c va y t} (e : s.translate c va = .ok y t) : t.Canon := by
  grind [translate, walkKeep_canon, updCore_canon, tlbHit2_canon, tlbFill_canon]

theorem readAt_canon {k pa n y t} (e : s.readAt k pa n = .ok y t) : t.Canon := by
  grind [readAt]

theorem usePass_canon {c k} : (s.usePass c k).Canon := ite_canon h (updCore_canon h)
theorem stopAt_canon {unit c k} : (s.stopAt unit c k).Canon := updFrozen_canon (ite_canon h (freeze_canon h))

theorem rowAsk_canon {unit c k pa} : (s.rowAsk unit c k pa).Canon := by
  unfold rowAsk
  dsimp only
  split
  · exact h
  · cases e : s.request c true _ _ with
    | none => exact h
    | some t => exact request_canon h e

theorem sense_canon {unit c va n} : (s.sense unit c va n).Canon := by
  unfold sense
  dsimp only
  split
  · exact h
  · exact ite_canon (stopAt_canon h) (rowAsk_canon h)

theorem readHome_canon {unit c k pa n} {keep : State → State} (hk : ∀ t : State, t.Canon → (keep t).Canon) {bs t}
    (e : s.readHome unit c k pa n keep = .ok bs t) : State.Canon t := by
  grind [readHome, → readAt_canon, → passTag_canon, usePass_canon]

theorem readPlace_canon {unit c scope policy pa n y t} (e : s.readPlace unit c scope policy pa n = .ok y t) : t.Canon := by
  grind [readPlace, addHolder_canon, setLine_canon, putVisitor_canon, → readHome_canon, install_canon, → reach_canon,
      staleFills_canon]

theorem writePlace_canon {unit c b scope policy pa bs y t}
    (e : s.writePlace unit c b scope policy pa bs = .ok y t) : t.Canon := by
  grind [writePlace, pinAt_canon, dropClean_canon, homeWrite_canon, writeCached_canon, → passTag_canon, install_canon,
      → reach_canon, usePass_canon, staleFills_canon]

theorem lookStore_canon {c va y t} (e : s.lookStore c va = (y, t)) : t.Canon := by
  grind [lookStore, → translate_canon]

theorem readVirtual_canon {unit c scope va n fuel bs t} (e : s.readVirtual unit c scope va n fuel = .ok bs t) : t.Canon := by
  induction fuel generalizing s va n bs with
  | zero => cases e; exact h
  | succ fuel ih => grind [readVirtual, → translate_canon, → readPlace_canon]

theorem writeVirtual_canon {unit c b scope va} {bs : List Byte} {fuel out t}
    (e : s.writeVirtual unit c b scope va bs fuel = .ok out t) :
    State.Canon t := by
  induction fuel generalizing s va bs with
  | zero => cases e; exact h
  | succ fuel ih => grind [writeVirtual, → translate_canon, → writePlace_canon]

end

section
/-! The fetch of instructions and their issue leave memory canonical. -/

variable {s : State} (h : s.Canon)
include h

theorem icachePut_canon {c n line} : (s.icachePut c n line).Canon := of_ground h (State.icachePut_ground ..)

theorem icacheFill_canon {d n line} : (s.icacheFill d n line).Canon := by
  unfold icacheFill
  dsimp only
  split
  · exact h
  · exact foldl_canon (fun _ _ hs => icachePut_canon hs) (updDie_canon h)

theorem icacheHit_canon {c m n ls} : (s.icacheHit c m n ls).Canon := updDie_canon (icachePut_canon h)

theorem icacheAsk_canon {c m n} : (s.icacheAsk c m n).Canon := by
  unfold icacheAsk
  dsimp only
  split
  · exact icachePut_canon (updDie_canon h)
  · exact postOnce_canon (updDie_canon h)

theorem icacheAhead_canon {c m va} : (s.icacheAhead c m va).Canon := by
  grind [icacheAhead, → translate_canon, icacheAsk_canon]

theorem fetchWord_canon {c va} : Fetch.Canon (s.fetchWord c va) := by
  grind [fetchWord, Fetch.Canon, → translate_canon, icacheAhead_canon, icacheHit_canon, icacheAsk_canon]

theorem fetchWords_canon {c va n ws t} (e : s.fetchWords c va n = .ok (ws, t)) : t.Canon := by
  induction n generalizing s va ws with
  | zero => cases e; exact h
  | succ n ih => grind [fetchWords, → Fetch.Canon.ok, fetchWord_canon]

theorem stall_canon : Result.Canon (s.stall) := h
theorem settled_canon {wid b w} : (s.settled wid b w).Canon := of_ground h (State.settled_ground ..)

theorem stamp_canon {x t y} (e : s.stamp x = (t,y)) : t.Canon := by
  grind [stamp, setCore_canon]

theorem advanceTo_canon {x n w target} : (s.advanceTo x n w target).Canon := by
  grind [advanceTo, setWarp_canon, settled_canon, → stamp_canon]

theorem advance_canon {x n w} : (s.advance x n w).Canon := advanceTo_canon h
theorem trapAt_canon {x cause addr lanes} : Result.Canon (s.trapAt x cause addr lanes) := raise_canon h
theorem trapWhole_canon {x cause addr} : Result.Canon (s.trapWhole x cause addr) := trapAt_canon h

theorem fetchWords_error_canon {c va n f a} (e : s.fetchWords c va n = .error (f, a)) : Fetch.Canon f := by
  induction n generalizing s va with
  | zero => cases e
  | succ n ih => grind [fetchWords, → Fetch.Canon.ok, fetchWord_canon]

theorem fetchTrap_canon {x cause addr} : Ready.Canon (s.fetchTrap x cause addr) := by
  unfold fetchTrap
  split
  · exact raise_canon h
  · exact raise_canon (freeValue_canon h rfl)

theorem fetchClause_canon {x} : Ready.Canon (State.fetchClause s x) := by
  have failed {t : State} (ht : t.Canon) {va n f a} (e : t.fetchWords x.core va n = .error (f, a)) : Fetch.Canon f :=
    fetchWords_error_canon ht e
  unfold fetchClause
  dsimp only
  split
  · exact fetchTrap_canon h
  · split
    · next e =>
      split
      · exact fetchTrap_canon h
      · exact (failed h e).wait rfl
      · exact (failed h e).ok rfl
    · next e =>
      have h₁ := fetchWords_canon h e
      split
      · exact fetchTrap_canon h
      · split
        · next e =>
          split
          · exact fetchTrap_canon h
          · exact (failed h₁ e).wait rfl
          · exact (failed h₁ e).ok rfl
        · next e =>
          split
          · exact fetchTrap_canon h
          · exact setWarp_canon (fetchWords_canon h₁ e)

theorem nextInstr_canon {x cl} : Ready.Canon (State.nextInstr s x cl) := by
  grind [nextInstr, Ready.Canon, mk_canon, setWarp_canon, raise_canon]

theorem ready_canon {x} : Ready.Canon (State.ready s x) := by
  unfold ready
  split
  · exact raise_canon (updWarp_canon h)
  · split
    · exact nextInstr_canon h
    · have hf := fetchClause_canon h (x := x)
      split
      · next e =>
        have ht := hf.wait e
        split
        · split
          · exact nextInstr_canon ht
          · exact ht
        · exact ht
      · exact hf

theorem endPasses_canon {ws} : (s.endPasses ws).Canon := foldl_canon (fun _ _ hs => updWarp_canon hs) h

theorem dropLatch_canon {wid i} : (s.dropLatch wid i).Canon := by
  unfold dropLatch
  dsimp only
  split
  · exact ite_canon h (updCore_canon h)
  · exact h

theorem noteServed_canon {c q i} : (s.noteServed c q i).Canon := by
  unfold noteServed
  split
  · exact updCore_canon h
  · exact h

theorem issueFirst_canon {ex : Instr → State → Result} (hex : ∀ i t, State.Canon t → Result.Canon (ex i t)) {c q ps} :
    Result.Canon (issueFirst ex c q ps s) := by
  induction ps generalizing s with
  | nil => exact h
  | cons p ps ih => grind [issueFirst, Result.Canon, Ready.Canon, ready_canon, mk_canon, endPasses_canon, dropLatch_canon,
      noteServed_canon]

theorem issueQuad_canon {ex : Instr → State → Result} (hex : ∀ i t, State.Canon t → Result.Canon (ex i t)) {c q} :
    Result.Canon (s.issueQuad ex c q) :=
  Result.ite_canon h (issueFirst_canon h hex)

end

section
/-! Scalar and vector instructions leave memory canonical. -/

variable {s : State} (h : s.Canon)
include h

theorem scalarOp_canon {n regs d f} : Result.Canon (s.scalarOp n regs d f) :=
  atSite_canon fun _ => Result.ite_canon (trapWhole_canon h) (advance_canon h)

theorem poisonTrap_canon {x p act} : Result.Canon (s.poisonTrap x p act) := raise_canon h

theorem regCheck_canon {x act vs ss ds long r} (e : s.regCheck x act vs ss ds long = some r) : Result.Canon r := by
  unfold regCheck at e
  dsimp only at e
  split at e
  · cases e
    exact trapAt_canon h
  split at e
  · cases e
    exact trapAt_canon h
  split at e
  · cases e
    exact foldl_canon (fun _ _ hs => postOnce_canon hs) h
  split at e
  · cases e
    exact poisonTrap_canon h
  split at e
  · cases e
    exact trapAt_canon h
  split at e
  · split at e
    · cases e
      exact trapAt_canon h
    · cases e
  · cases e

theorem stepInputs_canon {x w rs t y} (e : s.stepInputs x w rs = (t,y)) : t.Canon := by
  cases e
  exact foldl_canon (fun _ _ hs => postOnce_canon hs) h

theorem noteStore_canon {wid pa} : (s.noteStore wid pa).Canon := by
  unfold noteStore
  dsimp only
  split
  · exact h
  · exact ite_canon (updWarp_canon h) h

theorem walkLooks_canon {x ls y t} (e : s.walkLooks x ls = (y, t)) : t.Canon := by
  induction ls generalizing s y with
  | nil => cases e; exact h
  | cons l ls ih =>
    cases e
    exact ih (lookStore_canon h rfl) rfl

theorem walkPut_canon {x ys ps} : State.Canon (s.walkPut x ys ps) := by
  induction ps generalizing s with
  | nil => exact h
  | cons p ps ih => grind [walkPut, → writePlace_canon, recordRff_canon, noteStore_canon]

theorem walkEnd_canon {x act ys} : (s.walkEnd x act ys).Canon := by
  grind [walkEnd, → walkLooks_canon, walkPut_canon]

theorem walkStore_canon {x act ys t} (e : s.walkStore x act ys = .ok t) : t.Canon := by
  grind [walkStore, walkEnd_canon]

theorem walkStore_error_canon {x act ys r} (e : s.walkStore x act ys = .error r) : Result.Canon r := by
  unfold walkStore at e
  dsimp only at e
  split at e
  · cases e
    exact trapAt_canon h
  · split at e
    · cases e
    · cases e
      exact foldl_canon (fun _ _ hs => sense_canon hs) h

theorem putResult_canon {x w n d act res} : Result.Canon (s.putResult x w n d act res) := by
  unfold putResult
  split
  · exact advance_canon h
  · split
    · next e => exact walkStore_error_canon h e
    · next e => exact advance_canon (walkStore_canon h e)

theorem vectorOp_canon {v vs ss d f} : Result.Canon (s.vectorOp v vs ss d f) := by
  grind [vectorOp, → regCheck_canon, atSite, putResult_canon, → stepInputs_canon, Result.canon_fault]

theorem predOp_canon {v vs ss d f} : Result.Canon (s.predOp v vs ss d f) := by
  grind [predOp, → regCheck_canon, atSite, advance_canon, → stepInputs_canon, Result.canon_next, Result.canon_fault]

theorem vec1_canon {rg v f} : Result.Canon (s.vec1 rg v f) := vectorOp_canon h
theorem vec2_canon {rg v f} : Result.Canon (s.vec2 rg v f) := vectorOp_canon h
theorem vec3_canon {rg v f} : Result.Canon (s.vec3 rg v f) := vectorOp_canon h
theorem vecImm_canon {n d a f} : Result.Canon (s.vecImm n d a f) := vectorOp_canon h
theorem cmp2_canon {rg v f} : Result.Canon (s.cmp2 rg v f) := predOp_canon h

theorem holdFor_canon {x ds} {f : State → Site → Result} (hf : ∀ t y, State.Canon t → Result.Canon (f t y)) :
    Result.Canon (s.holdFor x ds f) :=
  Result.ite_canon (Result.ite_canon (stall_canon h) (hf _ _ (setWarp_canon h))) (hf _ _ h)

theorem longVec_canon {i rg v f} : Result.Canon (s.longVec i rg v f) := by
  refine atSite_canon fun x => holdFor_canon h fun t y ht => ?_
  dsimp only
  split
  · next e => exact regCheck_canon ht e
  · exact Result.ite_canon (stall_canon ht) (post_canon (advance_canon (stepInputs_canon ht rfl)))

theorem scalar2_canon {rg f} : Result.Canon (s.scalar2 rg f) := scalarOp_canon h
theorem scalarImm_canon {n rg f} : Result.Canon (s.scalarImm n rg f) := scalarOp_canon h

theorem execSread_canon {rg} : Result.Canon (execSread rg s) :=
  atSite_canon fun _ => Result.ite_canon (trapWhole_canon h) (Result.ite_canon (advance_canon h) (advance_canon h))

theorem unbindNow_canon {x k} : (s.unbindNow x k).Canon := ite_canon h (setWarp_canon (mk_canon h))

theorem bindWalker_canon {x k v} : Result.Canon (s.bindWalker x k v) := by
  grind [bindWalker, → readVirtual_canon, stall_canon, sense_canon, unbindNow_canon, postOnce_canon, advance_canon,
      trapWhole_canon, Result.canon_next]

theorem execSwrite_canon {rg} : Result.Canon (execSwrite rg s) :=
  atSite_canon fun _ => Result.ite_canon (trapWhole_canon h) (Result.ite_canon (bindWalker_canon h) (advance_canon h))

theorem branch_canon {rg f} : Result.Canon (s.branch rg f) := atSite_canon fun _ => advanceTo_canon h

theorem scalarBranch_canon {rg f} : Result.Canon (s.scalarBranch rg f) :=
  atSite_canon fun _ => Result.ite_canon (trapWhole_canon h) (branch_canon h)

theorem execBru_canon {rg} : Result.Canon (execBru rg s) := by
  refine atSite_canon fun x => ?_
  split
  · exact branch_canon h
  · exact trapAt_canon h

theorem execBrd_canon {rg xi} : Result.Canon (execBrd rg xi s) := by
  refine atSite_canon fun x => ?_
  dsimp only
  split
  · exact advanceTo_canon h
  · split
    · exact advance_canon h
    · split
      · exact advance_canon h
      · split
        · exact trapWhole_canon h
        · split
          · exact h
          · split
            · exact trapWhole_canon h
            · exact advance_canon (deviceWrite_canon h)

theorem execBrw_canon {rg} : Result.Canon (execBrw rg s) := by
  unfold execBrw
  exact branch_canon h

theorem jumpReg_canon {rg link} : Result.Canon (s.jumpReg rg link) := by
  grind [jumpReg, advanceTo_canon, → regCheck_canon, atSite, trapAt_canon, → stepInputs_canon, Result.canon_next,
      Result.canon_fault]

theorem execRet_canon {x} : Result.Canon (execRet x s) :=
  atSite_canon fun _ => Result.ite_canon (trapWhole_canon h) (advanceTo_canon h)

theorem pset_canon {rg v} : Result.Canon (s.pset rg v) := predOp_canon h

theorem execSel_canon {rg x} : Result.Canon (execSel rg x s) := by
  unfold execSel
  exact vectorOp_canon h

theorem putResults_canon {x w n act rs} : Result.Canon (s.putResults x w n act rs) := by
  unfold putResults
  split
  · exact advance_canon h
  · split
    · next e => exact walkStore_error_canon h e
    · next e => exact advance_canon (walkStore_canon h e)

theorem execCvt_canon {rg x} : Result.Canon (execCvt rg x s) := by
  grind [execCvt, → regCheck_canon, atSite, → stepInputs_canon, putResults_canon, Result.canon_fault]

theorem pack4_canon {rg v} : Result.Canon (s.pack4 rg v) := vectorOp_canon h
theorem unpackCodes_canon {rg v} : Result.Canon (s.unpackCodes rg v) := vectorOp_canon h

theorem ballot_canon {rg v} : Result.Canon (s.ballot rg v) :=
  atSite_canon fun _ => Result.ite_canon (trapWhole_canon h) (advance_canon h)

theorem vote_canon {rg v all} : Result.Canon (s.vote rg v all) := predOp_canon h
theorem firstLane_canon {rg v} : Result.Canon (s.firstLane rg v) := vectorOp_canon h
theorem laneId_canon {rg v log} : Result.Canon (s.laneId rg v log) := atSite_canon fun _ => vectorOp_canon h

end

section
/-! Memory instructions, from issue to the last lane, leave memory canonical. -/

variable {s : State} (h : s.Canon)
include h

theorem updFlight_canon {wid id f} : (s.updFlight wid id f).Canon := of_ground h (State.updFlight_ground ..)
theorem dropTags_canon {wid id} : (s.dropTags wid id).Canon := of_ground h (State.dropTags_ground ..)
theorem endFlight_canon {wid id} : (s.endFlight wid id).Canon := of_ground h (State.endFlight_ground ..)
theorem laneDone_canon {wid id ls v} : (s.laneDone wid id ls v).Canon := of_ground h (State.laneDone_ground ..)

theorem laneFault_canon {wid id ls cause peer addr} : (s.laneFault wid id ls cause peer addr).Canon := by
  grind [laneFault, laneDone_canon, updFlight_canon, → freeValue_canon, recordRff_canon]

theorem laneSent_canon {wid id ls} : (s.laneSent wid id ls).Canon := endFlight_canon (updFlight_canon h)

theorem sendLane_canon {wid f o ls k pa} : (s.sendLane wid f o ls k pa).Canon := by
  grind [sendLane, laneSent_canon, → request_canon]

theorem lineRequest_canon {c k scope pa use t} (e : s.lineRequest c k scope pa use = some t) : t.Canon := by
  grind [lineRequest, → request_canon]

theorem performCached_canon {wid f o ls line pa} : (s.performCached wid f o ls line pa).Canon := by
  unfold performCached
  dsimp only
  refine laneDone_canon ?_
  split
  · exact writeCached_canon (setLine_canon h)
  · split
    · split
      · exact writeCached_canon (setLine_canon h)
      · exact setLine_canon h
    · exact setLine_canon h

theorem performLoad_canon {wid f o ls k pa policy} : (s.performLoad wid f o ls k pa policy).Canon := by
  grind [performLoad, sendLane_canon, laneDone_canon, laneSent_canon, performCached_canon, → lineRequest_canon]

theorem scAnswered_canon {wid x far} : (s.scAnswered wid x far).Canon := updWarp_canon h
theorem scFenced_canon {wid x} : (s.scFenced wid x).Canon := scAnswered_canon (updCore_canon h)

theorem lateRegion_canon {wid id ls} : (s.lateRegion wid id ls).Canon := by
  unfold lateRegion
  dsimp only
  split
  · exact h
  · exact ite_canon h (raise_canon (dropTags_canon (updFlight_canon h)))

theorem performPool_canon {wid w f o ls} : (s.performPool wid w f o ls).Canon := by
  have hask {k pa n} : ((s.lineRequest wid.core k n pa
      (.pin wid f.id ls)).getD s).Canon := getD_canon h fun _ => lineRequest_canon h
  grind [performPool, sendLane_canon, laneDone_canon, performCached_canon, performLoad_canon, lateRegion_canon, endPin_canon]

theorem performScratch_canon {wid w f o ls} : (s.performScratch wid w f o ls).Canon := by
  unfold performScratch
  dsimp only
  split
  · exact h
  · split
    · split
      · exact h
      · refine laneDone_canon ?_
        split
        · exact scratchPut_canon h
        · exact h
    · exact laneFault_canon h

theorem performPeer_canon {wid w f o ls} : (s.performPeer wid w f o ls).Canon := by
  grind [performPeer, laneSent_canon, laneFault_canon, → request_canon]

theorem missPage_canon {wid id page write} : (s.missPage wid id page write).Canon := by
  unfold missPage
  dsimp only
  split
  · exact updFlight_canon (tlbHit2_canon h)
  · exact ite_canon (postOnce_canon (updDie_canon h)) (updDie_canon h)

theorem startPass_canon {wid w f write} : (s.startPass wid w f write).Canon := by
  have hits {ps : List Nat} : (ps.foldl (fun s p => match s.pageAt wid.core w p with
      | some e => (s.updCore wid.core fun k => { k with tlb := tlb1Put k.tlb e }).updFlight wid f.id fun f => s.pageFound wid f p
          write (.ok e)
      | none => s) s).Canon :=
    foldl_canon (fun s p hs => by split; exacts [updFlight_canon (updCore_canon hs), hs]) h
  exact ite_canon h (foldl_canon (fun _ _ hs => missPage_canon hs) (updFlight_canon hits))

theorem endPass_canon {wid f} : (s.endPass wid f).Canon :=
  ite_canon h (ite_canon h (ite_canon (updFlight_canon h) (raise_canon (dropTags_canon (updFlight_canon h)))))

theorem advancePass_canon {wid id write} : (s.advancePass wid id write).Canon := by
  grind [advancePass, endPass_canon, updFlight_canon, startPass_canon]

theorem startRelease_canon {c w scope} : (s.startRelease c w scope).Canon :=
  ite_canon h (ite_canon (endShares_canon h) (endWritten_canon h))

theorem startMst_canon {c w} : (s.startMst c w).Canon := foldl_canon (fun _ _ hs => endPin_canon hs) h

theorem performLanes_canon {wid id o ls} : State.Canon (s.performLanes wid id o ls) := by
  induction ls generalizing s with
  | nil => exact h
  | cons l ls ih => grind [performLanes, performScratch_canon, performPool_canon, performPeer_canon]

theorem again_canon {wid id} : (s.again wid id).Canon := by
  unfold again
  split
  · exact ite_canon h (afterOnce_canon h)
  · exact h

theorem advanceMem_canon {wid id o} : (s.advanceMem wid id o).Canon := by
  unfold advanceMem
  split
  · extract_lets s₁
    have h₁ : s₁.Canon := ite_canon (advancePass_canon h) h
    split
    · exact ite_canon h₁ (ite_canon (startRelease_canon h₁) (ite_canon (startMst_canon h₁) (performLanes_canon h₁)))
    · exact h₁
  · exact h

theorem laneTrap_canon {x act cause addr bad r} (e : s.laneTrap x act cause addr bad = some r) : Result.Canon r := by
  grind [laneTrap, trapAt_canon]

theorem addrCheck_canon {x o f r} (e : s.addrCheck x o f = some r) : Result.Canon r := by
  grind [addrCheck, → laneTrap_canon]

theorem launchFlight_canon {x n f walkers tags} : Result.Canon (s.launchFlight x n f walkers tags) := by
  grind [launchFlight, post_canon, → allocTags_canon, advance_canon, → stepInputs_canon, Result.canon_next]

theorem issueMem_canon {i o m xm} : Result.Canon (s.issueMem i o m xm) := by
  refine atSite_canon fun x => holdFor_canon h fun t y ht => ?_
  dsimp only
  split
  · next e => exact regCheck_canon ht e
  · split
    · next e => exact addrCheck_canon ht e
    · exact Result.ite_canon (stall_canon ht) (launchFlight_canon ht)

theorem prefLane_canon {wid ls scope va} : (s.prefLane wid ls scope va).Canon := by
  have ask {t : State} (ht : t.Canon) {k n pa} : ((t.lineRequest wid.core k n pa (.fill wid ls)).getD t).Canon :=
    getD_canon ht fun _ => lineRequest_canon ht
  grind [prefLane, → translate_canon]

theorem pref_canon {i m xm} : Result.Canon (s.pref i m xm) := by
  refine atSite_canon fun x => ?_
  dsimp only
  split
  · next e => exact regCheck_canon h e
  · refine advance_canon (stepInputs_canon ?_ rfl)
    exact foldl_canon (fun _ _ hs => ite_canon hs (prefLane_canon hs)) h

theorem execMcast_canon {m x} : Result.Canon (execMcast m x s) := by
  grind [execMcast, stall_canon, → regCheck_canon, atSite, launchFlight_canon, → laneTrap_canon, Result.canon_fault]

theorem execCombine_canon {m x} : Result.Canon (execCombine m x s) := by
  refine atSite_canon fun x => holdFor_canon h fun t y ht => ?_
  dsimp only
  split
  · next e => exact regCheck_canon ht e
  · exact Result.ite_canon (stall_canon ht) (Result.ite_canon (launchFlight_canon (mk_canon ht)) (launchFlight_canon ht))

end

section
/-! Multicast, combining and the other accesses of a whole instruction leave memory canonical. -/

variable {s : State} (h : s.Canon)
include h

theorem wholeDone_canon {wid id} : (s.wholeDone wid id).Canon := endFlight_canon (updFlight_canon h)
theorem wholeSent_canon {wid id} : (s.wholeSent wid id).Canon := endFlight_canon (updFlight_canon h)

theorem releaseStep_canon {wid w f t} (e : s.releaseStep wid w f = some t) : t.Canon := by
  grind [releaseStep, startRelease_canon]

theorem sendMcast_canon {wid f x} : (s.sendMcast wid f x).Canon := by
  grind [sendMcast, wholeSent_canon, → requestLine_canon, updFlight_canon, recordRff_canon, wholeDone_canon]

theorem advanceMcast_canon {wid id x} : (s.advanceMcast wid id x).Canon := by
  grind [advanceMcast, → releaseStep_canon, sendMcast_canon, advancePass_canon, wholeDone_canon]

theorem advanceCombine_canon {wid id x} : (s.advanceCombine wid id x).Canon := by
  grind [advanceCombine, wholeSent_canon, → releaseStep_canon, → requestLine_canon]

theorem advanceMail_canon {wid id} : (s.advanceMail wid id).Canon := by
  grind [advanceMail, wholeSent_canon, startRelease_canon, → request_canon, recordRff_canon, wholeDone_canon]

theorem advanceTile_canon {wid id} : (s.advanceTile wid id).Canon := by
  unfold advanceTile
  split
  · exact ite_canon h (wholeDone_canon h)
  · exact h

theorem advanceFence_canon {wid id} : (s.advanceFence wid id).Canon := by
  unfold advanceFence
  dsimp only
  split
  · exact ite_canon h (ite_canon (startRelease_canon h) (ite_canon h (wholeDone_canon (ite_canon (scFenced_canon (ite_canon
        (dropAllClean_canon h) h)) (ite_canon (dropAllClean_canon h) h)))))
  · exact h

theorem setChan_canon {b ch c} : (s.setChan b ch c).Canon := updBlock_canon h
theorem startChain_canon {w ch f} : (s.startChain w ch f).Canon := postOnce_canon (setChan_canon h)

theorem advanceChain_canon {wid id rg} : (s.advanceChain wid id rg).Canon := by
  unfold advanceChain
  dsimp only
  split
  · exact ite_canon h (wholeDone_canon (startChain_canon h))
  · exact h

end

section
/-! Fills and replies at a core leave memory canonical. -/

variable {s : State} (h : s.Canon)
include h

theorem execMissSlotFill_canon : Result.Canon (execMissSlotFill s) := by
  unfold execMissSlotFill
  dsimp only
  split
  · exact h
  · split
    · exact h
    · refine again_canon (endFlight_canon ?_)
      split
      · exact advanceMem_canon h
      · exact advanceMcast_canon h
      · exact advanceCombine_canon h
      · exact advanceTile_canon h
      · exact advanceMail_canon h
      · exact advanceFence_canon h
      · exact advanceChain_canon h
      · exact advanceChain_canon h
      · exact h

theorem execWalkComplete_canon : Result.Canon (execWalkComplete s) := by
  unfold execWalkComplete
  dsimp only
  rw [Result.canon_next]
  split
  · exact h
  · split
    · exact after_canon h
    · refine foldl_canon (fun t x ht => postOnce_canon (updFlight_canon ?_)) ?_
      · split
        · exact tlbFill_canon ht
        · exact ht
      · split
        · exact postOnce_canon (updDie_canon (walkKeep_canon h))
        · exact updDie_canon (walkKeep_canon h)

theorem execRegisterFill_canon : Result.Canon (execRegisterFill s) := by
  unfold execRegisterFill
  dsimp only
  split
  · exact ite_canon (updWarp_canon h) h
  · exact h

theorem fetchLanes_canon {c d base ls v bad y z t} (e : s.fetchLanes c d base ls v bad = some (y, z, t)) : t.Canon := by
  induction ls generalizing s v bad with
  | nil => cases e; exact h
  | cons l ls ih => grind [fetchLanes, → readVirtual_canon]

theorem execWalkerFetch_canon : Result.Canon (execWalkerFetch s) := by
  grind [execWalkerFetch, afterOnce_canon, sense_canon, updWarp_canon, → fetchLanes_canon, postOnce_canon, after_canon,
      Result.canon_next]

theorem discard_canon {c tag round issuer} : (s.discard c tag round issuer).Canon := log_canon h

theorem spaceSc_canon {wid id far} : (s.spaceSc wid id far).Canon := by
  unfold spaceSc
  split
  · exact ite_canon (scAnswered_canon h) h
  · exact h

theorem noteNarrow_canon {wid q} : (s.noteNarrow wid q).Canon := of_ground h (State.noteNarrow_ground ..)
theorem dropAfter_canon {c q} : (s.dropAfter c q).Canon := of_ground h (State.dropAfter_ground ..)

theorem laneAnswer_canon {c u v} : (s.laneAnswer c u v).Canon := by
  unfold laneAnswer
  split
  · exact laneDone_canon (spaceSc_canon (dropAfter_canon (noteNarrow_canon h)))
  · exact laneDone_canon (spaceSc_canon (noteNarrow_canon h))
  · exact h

theorem dataAnswer_canon {q} : (s.dataAnswer q).Canon := by
  unfold dataAnswer
  dsimp only
  split
  · exact h
  · split
    · exact discard_canon h
    · split
      · exact laneAnswer_canon (freeTagNow_canon h)
      · exact freeTagNow_canon h

theorem tagFault_canon {c u cause} : (s.tagFault c u cause).Canon := by
  unfold tagFault
  dsimp only
  split
  · exact laneFault_canon (spaceSc_canon h)
  · exact laneFault_canon (spaceSc_canon h)
  · exact laneFault_canon (spaceSc_canon h)
  · exact releasePin_canon (dropLine_canon h)
  · exact ite_canon h (updDie_canon h)
  · exact wholeDone_canon (recordRff_canon h)
  · exact wholeDone_canon (mk_canon (updFlight_canon h))
  · exact wholeDone_canon (recordRff_canon h)
  · exact h

theorem rebaseLanes_canon {c old new} : (s.rebaseLanes c old new).Canon := ite_canon h h

theorem keepLine_canon {c u ls} : (s.keepLine c u ls).Canon := by
  unfold keepLine
  dsimp only
  split
  · exact h
  · split
    · exact ite_canon h (install_canon h)
    · split
      · exact ite_canon (putVisitor_canon h) h
      · exact h

theorem pushAck_canon {q} : (s.pushAck q).Canon := by
  unfold pushAck
  dsimp only
  split
  · exact h
  · split
    · exact h
    · refine foldl_canon (fun _ _ hs => ite_canon (post_canon hs) (send_canon hs)) ?_
      refine updDie_canon ?_
      split
      · exact setDie_canon h
      · exact pushLine_canon (setDie_canon h)
      · exact pushLine_canon (setDie_canon h)

theorem execWriteAck_canon : Result.Canon (execWriteAck s) := by
  unfold execWriteAck
  dsimp only
  split
  · exact pushAck_canon h
  · split
    · exact ite_canon (post_canon h) (brokerAnswer_canon h)
    · split
      · exact h
      · split
        · exact discard_canon h
        · split
          · split
            · exact ite_canon (dropLine_canon (releasePin_canon (freeTagNow_canon h))) (setLine_canon (releasePin_canon
                  (freeTagNow_canon h)))
            · exact releasePin_canon (freeTagNow_canon h)
          · exact wholeDone_canon (freeTagNow_canon h)
          · exact wholeDone_canon (freeTagNow_canon h)
          · exact laneAnswer_canon (freeTagNow_canon h)

theorem execLineData_canon : Result.Canon (execLineData s) := by
  unfold execLineData
  refine next_canon (ite_canon (discard_canon h) ?_)
  have hf : (s.freeTagNow s.arg.l.dst.core s.arg.l.tag).Canon := freeTagNow_canon h
  refine ite_canon (tagFault_canon hf) ?_
  dsimp only
  split
  · exact laneDone_canon (keepLine_canon hf)
  · have hr : (rebaseLanes _ s.arg.l.dst.core
        (s.tag s.arg.l.dst.core s.arg.l.tag).req.addr s.arg.l.addr).Canon := rebaseLanes_canon hf
    exact ite_canon hr (ite_canon (endPin_canon (staleFills_canon (install_canon hr))) (staleFills_canon (install_canon hr)))
  · exact keepLine_canon hf
  · exact ite_canon (ite_canon hf (postOnce_canon hf)) (icacheFill_canon hf)
  · exact hf

theorem execErrorReply_canon : Result.Canon (execErrorReply s) :=
  ite_canon (pushAck_canon h) (ite_canon (ite_canon (brokerAnswer_canon h) (post_canon h)) (ite_canon h (ite_canon
      (discard_canon h) (tagFault_canon (freeTagNow_canon h)))))

theorem execRetryReply_canon : Result.Canon (execRetryReply s) :=
  ite_canon h (ite_canon (discard_canon h) (after_canon (ite_canon (after_canon (cancel_canon (setTag_canon (ite_canon
      (endPin_canon h) h)))) (setTag_canon (ite_canon (endPin_canon h) h)))))

theorem noHome_canon {c n} : (s.noHome c n).Canon := by
  unfold noHome
  dsimp only
  split
  · exact lateRegion_canon (freeTagNow_canon h)
  · exact releasePin_canon (dropLine_canon (freeTagNow_canon h))
  · exact freeTagNow_canon h

theorem resendTag_canon {c n} : (s.resendTag c n).Canon := by
  grind [resendTag, noHome_canon, sendLine_canon, send_canon]

theorem execRetryResend_canon : Result.Canon (execRetryResend s) := by
  unfold execRetryResend
  dsimp only
  split
  · split
    · exact ite_canon (writeBack_canon h) h
    · exact h
  · exact ite_canon (resendTag_canon h) h

theorem execTagTimeout_canon : Result.Canon (execTagTimeout s) :=
  ite_canon (brokerTimeout_canon h) (ite_canon h (ite_canon (afterOnce_canon h) (after_canon (tagFault_canon (setTag_canon h)))))

theorem execTagQuarantineEnd_canon : Result.Canon (execTagQuarantineEnd s) :=
  ite_canon (nextSend_canon (setBrokerTag_canon h)) (setTag_canon h)

end

section
/-! Matrix commands leave memory canonical. -/

variable {s : State} (h : s.Canon)
include h

theorem queueMtx_canon {c f cmd} : (s.queueMtx c f cmd).Canon := postOnce_canon (updCore_canon h)
theorem enqueueMtx_canon {x n f cmd} : (s.enqueueMtx x n f cmd).Canon := advance_canon (queueMtx_canon h)

theorem mloopCheck_canon {x rg m sg fg z c own r} (e : s.mloopCheck x rg m sg fg z c own = some r) : Result.Canon r := by
  grind [mloopCheck, → regCheck_canon, trapWhole_canon]

theorem issueMloop_canon {x rg xr m sg fg stream} : (s.issueMloop x rg xr m sg fg stream).Canon :=
  enqueueMtx_canon (updCore_canon h)

theorem castCheck_canon {x rg xr r} (e : s.castCheck x rg xr = some r) : Result.Canon r := by
  grind [castCheck, → mloopCheck_canon]

theorem execMloop_canon {rg xr} : Result.Canon (execMloop rg xr s) := by
  grind [execMloop, stall_canon, → castCheck_canon, atSite, → mloopCheck_canon, issueMloop_canon, postOnce_canon,
      Result.canon_next, Result.canon_fault]

theorem execBroadcastStreamEvent_canon : Result.Canon (execBroadcastStreamEvent s) := by
  unfold execBroadcastStreamEvent
  dsimp only
  rw [Result.canon_next]
  split
  · exact h
  · split
    · exact h
    · exact foldl_canon (fun _ _ hs => ite_canon (raise_canon hs) (updWarp_canon hs)) h

theorem execMzero_canon {rg} : Result.Canon (execMzero rg s) :=
  atSite_canon fun _ => Result.ite_canon (trapWhole_canon h) (Result.ite_canon h (enqueueMtx_canon h))

theorem mrdOf_canon {i rg n} : Result.Canon (s.mrdOf i rg n) := by
  refine atSite_canon fun x => holdFor_canon h fun t y ht => Result.ite_canon (trapWhole_canon ht) ?_
  split
  · next e => exact regCheck_canon ht e
  · exact Result.ite_canon (stall_canon ht) (enqueueMtx_canon ht)

theorem mwrOf_canon {i rg n} : Result.Canon (s.mwrOf i rg n) := by
  grind [mwrOf, stall_canon, → regCheck_canon, enqueueMtx_canon, atSite, trapWhole_canon, → stepInputs_canon, Result.canon_next,
      Result.canon_fault]

theorem tileMove_canon {i m xm} : Result.Canon (s.tileMove i m xm) := by
  refine atSite_canon fun x => ?_
  dsimp only
  split
  · exact h
  · split
    · exact trapWhole_canon h
    · split
      · exact trapWhole_canon h
      · split
        · exact trapWhole_canon h
        · split
          · exact trapWhole_canon h
          · exact Result.ite_canon h (enqueueMtx_canon h)

theorem engineWait_canon {x i f act} : Result.Canon (s.engineWait x i f act) := by
  unfold engineWait
  dsimp only
  split
  · exact Result.ite_canon (advance_canon h) (stall_canon h)
  · exact Result.ite_canon (advance_canon h) (Result.ite_canon (stall_canon h) (stall_canon (setWarp_canon (queueMtx_canon h))))

theorem execMwait_canon {rg} : Result.Canon (execMwait rg s) :=
  atSite_canon fun _ => Result.ite_canon (trapWhole_canon h) (engineWait_canon h)

theorem execMstat_canon {rg} : Result.Canon (execMstat rg s) :=
  atSite_canon fun _ => Result.ite_canon (trapWhole_canon h) (engineWait_canon h)

theorem rowTrans_canon {c write ps l t} (e : s.rowTrans c write ps = some (.ok (l, t))) : t.Canon := by
  induction ps generalizing s l with
  | nil => cases e; exact h
  | cons p ps ih => grind [rowTrans, → translate_canon]

theorem countFault_canon {b n addr cause} : (s.countFault b n addr cause).Canon := of_ground h (State.countFault_ground ..)

theorem engineFault_canon {wid instr addr cause} : (s.engineFault wid instr addr cause).Canon := by
  unfold engineFault
  dsimp only
  split
  · exact h
  · exact ite_canon (countFault_canon h) (setWarp_canon h)

theorem noteLine_canon {wid pa} : (s.noteLine wid pa).Canon := by
  unfold noteLine
  dsimp only
  split
  · exact ite_canon (updWarp_canon h) h
  · exact h

theorem setTile_canon {wid z u flags} : (s.setTile wid z u flags).Canon := updWarp_canon h
theorem noteMst_canon {wid pa} : (s.noteMst wid pa).Canon := updWarp_canon h

theorem storeRun_canon {cmd b bk f minor len disp tile rg o n t y} (e : s.storeRun cmd b bk f minor len disp tile rg o n = some
    (t,y)) : t.Canon := by
  grind [storeRun, noteLine_canon, updWarp_canon, scratchPut_canon, → rowTrans_canon, → writePlace_canon, noteMst_canon,
      recordRff_canon]

theorem loadRun_canon {cmd bk f minor len disp z tile rg o n t y} (e : s.loadRun cmd bk f minor len disp z tile rg o n = some
    (t,y)) : t.Canon := by
  grind [loadRun, → rowTrans_canon, setTile_canon, → readPlace_canon]

theorem readTile_canon {cmd w rg} : (s.readTile cmd w rg).Canon := wholeDone_canon (updWarp_canon h)

theorem performTile_canon {cmd w bk f minor len disp z t y} (e : s.performTile cmd w bk f minor len disp z = some
    (t, y)) : t.Canon := by
  have h₀ : State.Canon (if hasAcquire f.order && f.scope != 0 && cmd.left == tileRuns len then s.dropAllClean cmd.w.core else s) :=
    ite_canon (dropAllClean_canon h) h
  unfold performTile at e
  dsimp only at e
  split at e
  · cases e
    exact h₀
  · next e₁ =>
    have h₁ := pickRun_canon h₀ e₁
    obtain ⟨⟨u, cmd⟩, e₂, e₃⟩ := Option.map_eq_some_iff.mp e
    have h₂ : State.Canon u := by
      split at e₂
      · exact storeRun_canon h₁ e₂
      · exact loadRun_canon h₁ e₂
    grind [updFlight_canon, engineFault_canon, postOnce_canon, wholeDone_canon]

theorem performWait_canon {cmd w f t y} (e : s.performWait cmd w f = some (t, y)) : t.Canon := by
  grind [performWait, updFlight_canon]

theorem performMtx_canon {cmd t y} (e : s.performMtx cmd = some (t, y)) : t.Canon := by
  unfold performMtx at e
  split at e
  · split at e
    · cases e
      exact h
    · split at e
      · cases e
      · dsimp only at e
        split at e
        · cases e; exact wholeDone_canon (setTile_canon h)
        · cases e; exact readTile_canon h
        · cases e; exact readTile_canon h
        · cases e; exact wholeDone_canon (setTile_canon h)
        · cases e; exact wholeDone_canon (setTile_canon h)
        · exact performWait_canon h e
        · exact performWait_canon h e
        · cases e; exact wholeDone_canon (setTile_canon h)
        · split at e
          · split at e
            · cases e
            · split at e
              · cases e
              · exact performTile_canon h e
          · cases e
            exact h
  · cases e
    exact h

theorem senseMtx_canon {cmd f} : (s.senseMtx cmd f).Canon := by
  unfold senseMtx
  split
  · exact ite_canon h (foldl_canon (fun _ _ hs => sense_canon hs) h)
  · exact h

theorem execMatrixCommandComplete_canon : Result.Canon (execMatrixCommandComplete s) := by
  grind [execMatrixCommandComplete, afterOnce_canon, startRelease_canon, updCore_canon, senseMtx_canon, → performMtx_canon,
      postOnce_canon, mk_canon, Result.canon_next]

end

section
/-! Barriers and events of a block leave memory canonical. -/

variable {s : State} (h : s.Canon)
include h

theorem setBar_canon {u off o} : (s.setBar u off o).Canon := by
  unfold setBar
  split
  · exact scratchPut_canon h
  · exact h

theorem fireBar_canon {u off kind f} : (s.fireBar u off kind f).Canon := of_ground h (State.fireBar_ground ..)
theorem clearAuto_canon {u k} : (s.clearAuto u k).Canon := of_ground h (State.clearAuto_ground ..)
theorem flipBar_canon {u k o} : (s.flipBar u k o).Canon := clearAuto_canon (fireBar_canon (setBar_canon h))

theorem evalBar_canon {u k} : (s.evalBar u k).Canon := by
  unfold evalBar
  dsimp only
  split
  · exact h
  · split
    · exact h
    · split
      · exact flipBar_canon h
      · split
        · exact flipBar_canon h
        · exact ite_canon (flipBar_canon (flipBar_canon h)) h

theorem breakBar_canon {u k} : (s.breakBar u k).Canon := by
  unfold breakBar
  dsimp only
  split
  · exact h
  · exact fireBar_canon (flipBar_canon h)

theorem barTake_canon {bid b k n} : (s.barTake bid b k n).Canon := by
  unfold barTake
  dsimp only
  split
  · split
    · exact h
    · exact evalBar_canon (setBar_canon h)
  · exact h

theorem autoArrive_canon {u k} : (s.autoArrive u k).Canon := by
  unfold autoArrive
  dsimp only
  split
  · exact h
  · refine foldl_canon (fun s x hs => ?_) h
    split
    · exact ite_canon (setBar_canon (setWarp_canon hs)) hs
    · exact hs

theorem arriveBar_canon {x k mask n} : Arrival.Canon (State.arriveBar s x k mask n) := by
  grind [arriveBar, Arrival.Canon, breakBar_canon, evalBar_canon, autoArrive_canon, setBar_canon, setWarp_canon]

theorem evalEvents_canon {wid} : (s.evalEvents wid).Canon := of_ground h (State.evalEvents_ground ..)
theorem settleBatches_canon {wid} : (s.settleBatches wid).Canon := evalEvents_canon (updWarp_canon h)

theorem releaseAt_canon {x scope t} (e : s.releaseAt x scope = some t) : t.Canon := by
  grind [releaseAt, startRelease_canon]

theorem postedTrap_canon {x} : Result.Canon (s.postedTrap x) := raise_canon h

end

section
/-! Copies and codebooks of the Porter leave memory canonical. -/

variable {s : State} (h : s.Canon)
include h

theorem rackGate_canon {x r} (e : s.rackGate x = some r) : Result.Canon r := by
  grind [rackGate, stall_canon, postedTrap_canon]

theorem acquireAt_canon {x scope} : (s.acquireAt x scope).Canon := ite_canon h (dropAllClean_canon h)
theorem scPlaces_canon {wid x} : (s.scPlaces wid x).Canon := updWarp_canon (updCore_canon (scFenced_canon h))
theorem spaceNow_canon {x far} : (s.spaceNow x far).Canon := scAnswered_canon h

theorem homeRead_canon {unit c pa n y t} (e : s.homeRead unit c pa n = .ok y t) : t.Canon := by
  grind [homeRead, → readHome_canon, → reach_canon]

theorem counterAdd_canon {c va inc y t} (e : s.counterAdd c va inc = .ok y t) : t.Canon := by
  grind [counterAdd, dropClean_canon, → translate_canon, homeWrite_canon, → reach_canon, → homeRead_canon]

theorem unpinVirtual_canon {c va} : (s.unpinVirtual c va).Canon := by
  grind [unpinVirtual, → translate_canon, endPin_canon]

theorem enqueueCopy_canon {x n f cmd batch} : (s.enqueueCopy x n f cmd batch).Canon :=
  postOnce_canon (advance_canon (setCore_canon h))

theorem issueCopy_canon {i rg xm fill} : Result.Canon (s.issueCopy i rg xm fill) := by
  refine atSite_canon fun x => Result.ite_canon (trapWhole_canon h) (Result.ite_canon (trapWhole_canon h)
    (Result.ite_canon (trapWhole_canon h) (holdFor_canon h fun t y ht => ?_)))
  split
  · next e => exact regCheck_canon ht e
  · split
    · exact trapWhole_canon ht
    · split
      · exact trapWhole_canon ht
      · split
        · exact trapWhole_canon ht
        · exact Result.ite_canon (trapWhole_canon ht) (Result.ite_canon (stall_canon ht) (enqueueCopy_canon ht))

theorem issueCbload_canon {i rg xm} : Result.Canon (s.issueCbload i rg xm) :=
  atSite_canon fun _ => Result.ite_canon (trapWhole_canon h) (Result.ite_canon (trapWhole_canon h) (Result.ite_canon
      (trapWhole_canon h) (Result.ite_canon h (enqueueCopy_canon (setBlock_canon h)))))

theorem execCbfree_canon {x} : Result.Canon (execCbfree x s) :=
  atSite_canon fun _ => Result.ite_canon h (advance_canon (setBlock_canon h))

theorem execCclose_canon {rg} : Result.Canon (execCclose rg s) :=
  atSite_canon fun _ => Result.ite_canon (trapWhole_canon h) (settleBatches_canon (advance_canon h))

theorem rowCheck_canon {c cp m r t} (e : s.rowCheck c cp m r = some (.ok t)) : t.Canon := by
  have one {u v : State} (hu : u.Canon) {write row n} (e : (u.rowTrans c write (lineRuns row n (lineFuel n))).map
      (fun x => match x with
      | .ok y => Except.ok y.2
      | .error k => Except.error (k, row)) = some (.ok v)) : v.Canon := by
    obtain ⟨y, e₁, e₂⟩ := Option.map_eq_some_iff.mp e
    grind [→ rowTrans_canon]
  grind [rowCheck]

theorem readLost_canon {cmd cp m rg o cause p left} : RunR.Canon (State.readLost s cmd cp m rg o cause p left) := by
  unfold readLost
  exact ite_canon (updWarp_canon (recordRff_canon h)) (recordRff_canon h)

theorem writeRun_canon {cmd b bk cp rg o bs left} : RunR.Canon (State.writeRun s cmd b bk cp rg o bs left) := by
  grind [writeRun, RunR.Canon, noteLine_canon, updWarp_canon, scratchPut_canon, → rowTrans_canon, → writePlace_canon,
      recordRff_canon]

theorem copyRun_canon {cmd b bk cp m entries book held} : RunR.Canon (State.copyRun s cmd b bk cp m entries book held) := by
  unfold copyRun
  split
  · exact h
  · next e =>
    have h₁ := pickRun_canon h e
    split
    · exact h₁
    · exact h₁
    · next e =>
      have h₂ := rowCheck_canon h₁ e
      dsimp only
      split
      · exact writeRun_canon h₂
      · split
        · exact writeRun_canon h₂
        · split
          · exact writeRun_canon h₂
          · split
            · next e =>
              have h₃ := rowTrans_canon h₂ e
              split
              · exact h₃
              · split
                · next e => exact writeRun_canon (readPlace_canon h₃ e)
                · exact h₃
                · exact readLost_canon h₃
                · exact readLost_canon h₃
            · exact h₂

theorem copyCount_canon {w addr ctr inc t y} (e : s.copyCount w addr ctr inc = some (t, y)) : t.Canon := by
  grind [copyCount, → counterAdd_canon, engineFault_canon, recordRff_canon]

theorem readBook_canon {w scope b y t} (e : s.readBook w scope b = .ok y t) : t.Canon := by
  grind [readBook, → readVirtual_canon]

theorem evictBooks_canon {c b fuel} : State.Canon (s.evictBooks c b fuel) := by
  induction fuel generalizing s with
  | zero => exact h
  | succ fuel ih =>
    unfold evictBooks
    dsimp only
    split
    · exact h
    · split
      · exact ih (updBlock_canon h)
      · exact h

theorem keepBook_canon {c b bs} : (s.keepBook c b bs).Canon := evictBooks_canon (updBlock_canon h)
theorem loseBook_canon {b} : (s.loseBook b).Canon := updBlock_canon h
theorem copyDone_canon {cmd} : (s.copyDone cmd).Canon := settleBatches_canon (updWarp_canon (updCore_canon h))

theorem rowTake_canon {cmd b len} : (s.rowTake cmd b len).Canon := by
  unfold rowTake
  split
  · exact barTake_canon h
  · exact h

theorem rowEnd_canon {cmd b cp rg t y} (e : s.rowEnd cmd b cp rg = (t,y)) : t.Canon := by
  grind [rowEnd, updWarp_canon, rowTake_canon]

theorem keepCmd_canon {cmd} : (s.keepCmd cmd).Canon := updCore_canon h
theorem uncount_canon {cmd} : (s.uncount cmd).Canon := updFlight_canon h

theorem copyNotices_canon {cmd b cp t} (e : s.copyNotices cmd b cp = some t) : t.Canon := by
  unfold copyNotices at e
  obtain ⟨⟨u, y⟩, e₁, rfl⟩ := Option.map_eq_some_iff.mp e
  refine copyDone_canon (copyCount_canon (foldl_canon (fun _ _ hs => rowTake_canon hs) ?_) e₁)
  split
  · exact engineFault_canon h
  · exact h

theorem senseRow_canon {c cp m rg} : (s.senseRow c cp m rg).Canon :=
  ite_canon (sense_canon (ite_canon h (sense_canon h))) (ite_canon h (sense_canon h))

theorem freeCounter_canon {c cp} : (s.freeCounter c cp).Canon := ite_canon h (sense_canon (unpinVirtual_canon h))

theorem finishCopy_canon {cmd w cp} : PorterR.Canon (State.finishCopy s cmd w cp) := by
  grind [finishCopy, PorterR.Canon, → copyNotices_canon, startRelease_canon, freeCounter_canon]

theorem afterRun_canon {cmd b cp rg left t y} (e : s.afterRun cmd b cp rg left = (t,y)) : t.Canon := by
  grind [afterRun, → rowEnd_canon]

theorem nextRun_canon {cmd w bk f cp} : PorterR.Canon (State.nextRun s cmd w bk f cp) := by
  unfold nextRun
  dsimp only
  split
  · next e => exact ite_canon (uncount_canon (senseRow_canon ((copyRun_canon h).wait e))) (senseRow_canon
        ((copyRun_canon h).wait e))
  · next e => exact keepCmd_canon (uncount_canon (afterRun_canon ((copyRun_canon h).fault e) rfl))
  · next e => exact keepCmd_canon (uncount_canon (afterRun_canon ((copyRun_canon h).went e) rfl))

theorem performCopy_canon {cmd w bk f fill} : PorterR.Canon (State.performCopy s cmd w bk f fill) := by
  have h₀ : State.Canon (if hasAcquire cmd.order && cmd.scope != 0 && cmd.left == (copyOf fill cmd.dg cmd.sg cmd.src).runs then
      s.dropAllClean cmd.w.core else s) := ite_canon (dropAllClean_canon h) h
  unfold performCopy
  dsimp only
  split
  · exact finishCopy_canon h
  · split
    · split
      · next e => exact nextRun_canon (keepBook_canon (readBook_canon h₀ e))
      · exact sense_canon h₀
      · exact nextRun_canon (loseBook_canon (engineFault_canon h₀))
      · exact nextRun_canon (loseBook_canon (recordRff_canon h₀))
    · exact nextRun_canon (ite_canon (updBlock_canon h₀) h₀)

theorem performBook_canon {cmd w bk} : PorterR.Canon (State.performBook s cmd w bk) := by
  have h₀ : State.Canon (if hasAcquire cmd.order && cmd.scope != 0 then s.dropAllClean cmd.w.core else s) := ite_canon
      (dropAllClean_canon h) h
  unfold performBook
  dsimp only
  split
  · next e => exact copyDone_canon (keepBook_canon (readBook_canon h₀ e))
  · exact sense_canon h₀
  · exact copyDone_canon (loseBook_canon (engineFault_canon h₀))
  · exact copyDone_canon (loseBook_canon (recordRff_canon h₀))

theorem tryCopy_canon {cmd} : PorterR.Canon (State.tryCopy s cmd) := by
  unfold tryCopy
  dsimp only
  split
  · exact copyDone_canon h
  · split
    · split
      · exact h
      · split
        · exact performBook_canon h
        · split
          · exact h
          · exact performCopy_canon h
    · exact copyDone_canon h

theorem runPorter_canon {c cmds} : State.Canon (s.runPorter c cmds) := by
  induction cmds generalizing s with
  | nil => exact ite_canon h (afterOnce_canon (mk_canon h))
  | cons cmd cs ih =>
    unfold runPorter
    split
    · next e => exact ite_canon ((tryCopy_canon h).done e) (postOnce_canon ((tryCopy_canon h).done e))
    · next e => exact postOnce_canon ((tryCopy_canon h).more e)
    · next e => exact ih ((tryCopy_canon h).wait e)

theorem execPorterCommandComplete_canon : Result.Canon (execPorterCommandComplete s) :=
  ite_canon (ite_canon h (afterOnce_canon h)) (runPorter_canon h)

end

section
/-! Chains of the Porter leave memory canonical. -/

variable {s : State} (h : s.Canon)
include h

theorem issueChain_canon {rg xm} : Result.Canon (s.issueChain rg xm) :=
  atSite_canon fun _ => Result.ite_canon (trapWhole_canon h) (Result.ite_canon (trapWhole_canon h) (Result.ite_canon
      (trapWhole_canon h) (Result.ite_canon (advance_canon (startChain_canon h)) (Result.ite_canon h (launchFlight_canon h)))))

theorem execCstat_canon {rg} : Result.Canon (execCstat rg s) :=
  atSite_canon fun _ => Result.ite_canon (trapWhole_canon h) (Result.ite_canon h (advance_canon h))

theorem stopChain_canon {b ch c cause addr} : (s.stopChain b ch c cause addr).Canon := setChan_canon (engineFault_canon h)
theorem chainLater_canon {b ch} : (s.chainLater b ch).Canon := afterOnce_canon h

theorem chainNotices_canon {b ch c rec w} : (s.chainNotices b ch c rec w).Canon := by
  grind [chainNotices, startRelease_canon, sense_canon, freeCounter_canon, setChan_canon, → copyCount_canon, chainLater_canon,
      → writeVirtual_canon, engineFault_canon, postOnce_canon, recordRff_canon, stopChain_canon]

theorem chainRow_canon {b bk ch c rec w} : (s.chainRow b bk ch c rec w).Canon := by
  unfold chainRow
  dsimp only
  split
  · exact chainNotices_canon h
  · split
    · next e => exact chainLater_canon (mk_canon (senseRow_canon ((copyRun_canon h).wait e)))
    · next e => exact postOnce_canon (setChan_canon ((copyRun_canon h).fault e))
    · next e => exact postOnce_canon (setChan_canon ((copyRun_canon h).went e))

theorem runChain_canon {b ch} : (s.runChain b ch).Canon := by
  have h₀ {p : Prop} [Decidable p] {c : CoreId} : State.Canon (if p then s.dropAllClean c else s) := ite_canon
      (dropAllClean_canon h) h
  unfold runChain
  split
  · exact h
  · dsimp only
    split
    · exact afterOnce_canon h
    · split
      · exact h
      · exact chainRow_canon h
      · split
        · exact h
        · split
          · exact chainLater_canon (sense_canon h₀)
          · exact stopChain_canon h₀
          · exact setChan_canon (recordRff_canon h₀)
          · next e =>
            have h₁ := readVirtual_canon h₀ e
            split
            · exact afterOnce_canon (setChan_canon h₁)
            · split
              · exact stopChain_canon h₁
              · split
                · exact stopChain_canon h₁
                · exact chainRow_canon (setChan_canon h₁)

theorem execChainPoll_canon : Result.Canon (execChainPoll s) := by
  unfold execChainPoll
  split
  · exact ite_canon (runChain_canon h) h
  · exact h

end

section
/-! Barrier, fence, wait, event and mailbox instructions leave memory canonical. -/

variable {s : State} (h : s.Canon)
include h

theorem barCheck_canon {x k regs r} (e : s.barCheck x k regs = some r) : Result.Canon r := by
  grind [barCheck, trapWhole_canon]

theorem barWait_canon {x n k mask scope sc} : Result.Canon (s.barWait x n k mask scope sc) := by
  unfold barWait
  dsimp only
  split
  · exact Result.ite_canon h (ite_canon (scFenced_canon (advance_canon (acquireAt_canon h))) (advance_canon (acquireAt_canon h)))
  · split
    · exact Result.ite_canon h (ite_canon (scFenced_canon (advance_canon (acquireAt_canon h))) (advance_canon (acquireAt_canon h)))
    · exact Result.ite_canon (Result.ite_canon h (ite_canon (scFenced_canon (advance_canon (acquireAt_canon h))) (advance_canon
          (acquireAt_canon h)))) (Result.ite_canon (trapWhole_canon h) h)

omit h in
theorem ofIte {α : Type} {p : Prop} [Decidable p] {o : Option α} {a : α} (e : (if p then o else none) = some a) : o = some a := by
  split at e
  · exact e
  · cases e

theorem barOf_canon {rg xm} : Result.Canon (s.barOf rg xm) := by
  refine atSite_canon fun x => ?_
  dsimp only
  split
  · next e => exact barCheck_canon h e
  · split
    · next e => exact rackGate_canon h (ofIte e)
    · split
      · exact barWait_canon h
      · split
        · next e => exact stall_canon (releaseAt_canon h e)
        · split
          · exact stall_canon h
          · split
            · exact stall_canon h
            · exact trapWhole_canon h
            · next e =>
              have h₁ := (arriveBar_canon h).broken e
              exact ite_canon (scPlaces_canon (advance_canon (acquireAt_canon h₁))) (advance_canon (acquireAt_canon h₁))
            · next e => exact barWait_canon (ite_canon (scFenced_canon ((arriveBar_canon h).arrived e))
                  ((arriveBar_canon h).arrived e))

theorem baraOf_canon {rg xm} : Result.Canon (s.baraOf rg xm) := by
  refine atSite_canon fun x => ?_
  dsimp only
  split
  · next e => exact barCheck_canon h e
  · split
    · next e => exact stall_canon (releaseAt_canon h e)
    · split
      · exact stall_canon h
      · split
        · exact stall_canon h
        · exact trapWhole_canon h
        · next e => exact ite_canon (scFenced_canon (advance_canon ((arriveBar_canon h).broken e))) (advance_canon
              ((arriveBar_canon h).broken e))
        · next e => exact ite_canon (scFenced_canon (advance_canon ((arriveBar_canon h).arrived e))) (advance_canon
              ((arriveBar_canon h).arrived e))

theorem barwOf_canon {rg xm} : Result.Canon (s.barwOf rg xm) := by
  refine atSite_canon fun x => ?_
  dsimp only
  split
  · next e => exact barCheck_canon h e
  · split
    · next e => exact rackGate_canon h (ofIte e)
    · split
      · next e => exact stall_canon (releaseAt_canon h (ofIte e))
      · exact barWait_canon h

theorem execBarinit_canon {rg} : Result.Canon (execBarinit rg s) := by
  grind [execBarinit, → barCheck_canon, atSite, setBar_canon, advance_canon, Result.canon_next, Result.canon_fault]

theorem fenced_canon {x scope order} : (s.fenced x scope order).Canon :=
  ite_canon (scFenced_canon (ite_canon (acquireAt_canon h) h)) (ite_canon (acquireAt_canon h) h)

theorem execFenceXm_canon {rg xm} : Result.Canon (execFenceXm rg xm s) := by
  grind [execFenceXm, → rackGate_canon, stall_canon, atSite, fenced_canon, launchFlight_canon, advance_canon, Result.canon_next,
      Result.canon_fault]

theorem execWaitb_canon {rg} : Result.Canon (execWaitb rg s) :=
  atSite_canon fun _ => Result.ite_canon (trapWhole_canon h) (Result.ite_canon (advance_canon h) h)

theorem awaitCount_canon {x va a scope n} : Result.Canon (s.awaitCount x va a scope n) := by
  grind [awaitCount, stall_canon, spaceNow_canon, sense_canon, → homeRead_canon, endPin_canon, stampSc_canon, acquireAt_canon,
      advance_canon, trapWhole_canon, Result.canon_next]

theorem waitcOf_canon {rg xm} : Result.Canon (s.waitcOf rg xm) := by
  grind [waitcOf, setWarp_canon, stall_canon, → translate_canon, atSite, awaitCount_canon, trapWhole_canon, Result.canon_fault]

theorem bindEvent_canon {x i m} : (s.bindEvent x i m).Canon := advance_canon h

theorem execEvbind_canon {rg xi} : Result.Canon (execEvbind rg xi s) := by
  grind [execEvbind, stall_canon, sense_canon, → translate_canon, atSite, bindEvent_canon, trapWhole_canon, Result.canon_next,
      Result.canon_fault]

theorem execWaitany_canon {x} : Result.Canon (execWaitany x s) := by
  refine atSite_canon fun x => ?_
  dsimp only
  split
  · exact setWarp_canon h
  · exact advanceTo_canon h

theorem execEventTimerFire_canon : Result.Canon (execEventTimerFire s) := by
  unfold execEventTimerFire
  split
  · exact fireSlots_canon h
  · exact h

theorem pumpMail_canon {c a} : (s.pumpMail c a).Canon := of_ground h (State.pumpMail_ground ..)

theorem execMbxsend_canon {rg} : Result.Canon (execMbxsend rg s) := by
  grind [execMbxsend, stall_canon, → regCheck_canon, atSite, launchFlight_canon, trapWhole_canon, Result.canon_fault]

theorem execMbxrecv_canon {rg} : Result.Canon (execMbxrecv rg s) := by
  refine atSite_canon fun x => holdFor_canon h fun t y ht => ?_
  dsimp only
  split
  · next e => exact regCheck_canon ht e
  · exact Result.ite_canon (stall_canon ht) (pumpMail_canon (updCore_canon (advance_canon ht)))

theorem regroupOf_canon {rg re} : Result.Canon (s.regroupOf rg re) :=
  atSite_canon fun _ => Result.ite_canon (trapWhole_canon h) (Result.ite_canon (trapWhole_canon h) (Result.ite_canon
      (trapWhole_canon h) (ite_canon (postOnce_canon (setWarp_canon h)) (setWarp_canon h))))

theorem moveLanes_canon {b ws from_ alive next} : (s.moveLanes b ws from_ alive next).Canon :=
  updBlock_canon (foldl_canon (fun _ _ hs => setWarp_canon hs) h)

theorem lanesMoved_canon {b bk ws} : (s.lanesMoved b bk ws).Canon :=
  foldl_canon (fun _ _ hs => evalBar_canon (autoArrive_canon hs)) (foldl_canon (fun _ _ hs => updCore_canon hs) h)

theorem completeRegroup_canon {b} : (s.completeRegroup b).Canon := by
  unfold completeRegroup
  dsimp only
  split
  · exact ite_canon h (ite_canon (afterOnce_canon h) (ite_canon (lanesMoved_canon (moveLanes_canon h)) (lanesMoved_canon
        (moveLanes_canon h))))
  · exact h

theorem execYield_canon {x} : Result.Canon (execYield x s) := atSite_canon fun _ => updWarp_canon (advance_canon h)

end

section
/-! Accesses of the firmware, and the end of launches, leave memory canonical. -/

variable {s : State} (h : s.Canon)
include h

theorem fwRead_canon {p va n fuel bs t} (e : s.fwRead p va n fuel = .ok bs t) : t.Canon := by
  induction fuel generalizing s va n bs with
  | zero => cases e; exact h
  | succ fuel ih =>
    unfold fwRead at e
    split at e
    · cases e
      exact h
    · split at e
      · cases e
      · cases e
      · split at e
        · cases e
        · cases e
        · next e₁ =>
          split at e
          · next e₂ =>
            have h₂ := readAt_canon (reach_canon h e₁) e₂
            split at e
            · next e₃ =>
              cases e
              exact ih h₂ e₃
            · exact ih h₂ e
          · exact readAt_canon (reach_canon h e₁) e

theorem fwWrite_canon {p va} {bs : List Byte} {fuel out t} (e : s.fwWrite p va bs fuel = .ok out t) : t.Canon := by
  induction fuel generalizing s va bs with
  | zero => cases e; exact h
  | succ fuel ih => grind [fwWrite, homeWrite_canon, → reach_canon]

theorem fwBytes_canon {p va n y t} (e : s.fwBytes p va n = .ok y t) : t.Canon := by
  grind [fwBytes, → fwRead_canon]

theorem fwPut_canon {p va bs y t} (e : s.fwPut p va bs = .ok y t) : t.Canon := by
  grind [fwPut, → fwWrite_canon]

theorem signalUpdate_canon {p va op v tag y t} (e : s.signalUpdate p va op v tag = .ok y t) : t.Canon := by
  grind [signalUpdate, homeWrite_canon, setDie_canon, → reach_canon]

theorem regPut_canon {pa bs} : (s.regPut pa bs).Canon := homePuts_canon h
theorem noteCounts_canon {k} : (s.noteCounts k).Canon := regPut_canon h

theorem writeRecord_canon {ls status t y} (e : s.writeRecord ls status = some (t, y)) : t.Canon := by
  grind [writeRecord, → fwPut_canon]

theorem completeSignal_canon {ls recorded t} (e : s.completeSignal ls recorded = some t) : t.Canon := by
  unfold completeSignal at e
  extract_lets held at e
  split at e
  · cases e
  · split at e
    · cases e
      exact h
    · split at e
      · next e₁ =>
        cases e
        exact signalUpdate_canon h e₁
      · cases e
      · cases e
        exact h

theorem retireLaunch_canon {k ls} : (s.retireLaunch k ls).Canon := by
  unfold retireLaunch
  extract_lets s₁ q s₂
  have h₂ : s₂.Canon := mk_canon (regPut_canon h)
  split
  · extract_lets t s₃
    have h₃ : s₃.Canon := ite_canon (mk_canon h₂) h₂
    exact postOnce_canon (ite_canon (post_canon h₃) h₃)
  · exact postOnce_canon h₂
  · exact h₂

theorem tryComplete_canon {k} : (s.tryComplete k).Canon := by
  grind [tryComplete, → writeRecord_canon, afterOnce_canon, setLaunch_canon, retireLaunch_canon, → completeSignal_canon]

theorem addDone_canon {k exited lost} : (s.addDone k exited lost).Canon := tryComplete_canon (updLaunch_canon h)

theorem report_canon {k k'} : (s.report k k').Canon := by
  unfold report
  dsimp only
  split
  · exact h
  · split
    · exact afterOnce_canon h
    · split
      · exact tell_canon (updShare_canon h)
      · exact addDone_canon (updShare_canon h)

theorem count_canon {k k' exited lost} : (s.count k k' exited lost).Canon := report_canon (updShare_canon h)
theorem reportAbove_canon {d k} : (s.reportAbove d k).Canon := report_canon (report_canon (report_canon h))
theorem give_canon {k p n} : (s.give k p n).Canon := ite_canon (updShare_canon h) (postOnce_canon (updShare_canon h))
theorem relieve_canon {k p n} : (s.relieve k p n).Canon := of_ground h (State.relieve_ground ..)

theorem noteMove_canon {m ls} : (s.noteMove m ls).Canon := by
  unfold noteMove
  dsimp only
  split
  · split
    · refine give_canon ?_
      split
      · exact ite_canon (relieve_canon h) h
      · exact h
    · split
      · exact ite_canon (relieve_canon h) h
      · exact h
  · split
    · exact ite_canon (relieve_canon h) h
    · exact h

theorem copyUp_canon {i m holder} : (s.copyUp i m holder).Canon :=
  ite_canon h (foldl_canon (fun _ _ hs => tellMsg_canon hs) h)

theorem execBrokerDone_canon : Result.Canon (execBrokerDone s) := by
  refine hear_canon h fun m l t ht => ?_
  dsimp only
  split
  · exact addDone_canon ht
  · exact count_canon (relieve_canon ht)
  · exact count_canon ht

theorem execDoneTimer_canon : Result.Canon (execDoneTimer s) := by
  unfold execDoneTimer
  split
  · exact tryComplete_canon h
  · exact report_canon h

end

section
/-! Traps taken, saved and restored contexts, and the retirement of blocks leave memory canonical. -/

variable {s : State} (h : s.Canon)
include h

theorem dropWaits_canon {wid} : (s.dropWaits wid).Canon := by
  unfold dropWaits
  dsimp only
  split
  · exact h
  · exact ite_canon h (setWarp_canon (updCore_canon h))

theorem pullCommands_canon {wid q} : (s.pullCommands wid q).Canon := updWarp_canon (setCore_canon h)

theorem execTrapTake_canon : Result.Canon (execTrapTake s) := by
  unfold execTrapTake
  dsimp only
  split
  · exact h
  · split
    · split
      · exact setWarp_canon h
      · split
        · exact afterOnce_canon h
        · split
          · exact pullCommands_canon (dropWaits_canon h)
          · exact ite_canon (afterOnce_canon (pullCommands_canon (dropWaits_canon h))) (takeTrap_canon (foldl_canon
                (fun _ _ hs => dropTags_canon hs) (pullCommands_canon (dropWaits_canon h))))
    · exact h

theorem headerAt_canon {c pc} : HeaderAt.Canon (State.headerAt s c pc) := by
  unfold headerAt
  split
  · trivial
  · next e => exact (fetchWords_error_canon h e).wait rfl
  · next e => exact (fetchWords_error_canon h e).ok rfl
  · next e =>
    split
    · exact fetchWords_canon h e
    · trivial

theorem entryCode_canon {c m} : CodeAt.Canon (State.entryCode s c m) := by
  unfold entryCode
  dsimp only
  split
  · trivial
  · next e => exact (headerAt_canon h).wait e
  · next e =>
    have h₁ := (headerAt_canon h).ok e
    split
    · trivial
    · split
      · trivial
      · next e => exact (fetchWords_error_canon h₁ e).wait rfl
      · next e => exact (fetchWords_error_canon h₁ e).ok rfl
      · next e =>
        split
        · trivial
        · split
          · exact fetchWords_canon h₁ e
          · trivial

theorem frameEntries_canon {c f is} : Frame.Canon (s.frameEntries c f is) := by
  induction is generalizing s with
  | nil => exact h
  | cons i is ih =>
    unfold frameEntries
    dsimp only
    split
    · trivial
    · next e => exact (entryCode_canon h).wait e
    · next e =>
      have h₁ := ih ((entryCode_canon h).ok e)
      split
      · next e => exact h₁.ok e
      · exact h₁

theorem frameSlots_canon {c f ss} : Frame.Canon (s.frameSlots c f ss) := by
  induction ss generalizing s with
  | nil => exact frameEntries_canon h
  | cons x ss ih =>
    unfold frameSlots
    split
    · exact ih h
    · split
      · trivial
      · next e => exact (headerAt_canon h).wait e
      · next e =>
        split
        · trivial
        · exact ih ((headerAt_canon h).ok e)

theorem frameOf_canon {c f} : Frame.Canon (State.frameOf s c f) := by
  unfold frameOf
  split
  · trivial
  · exact frameSlots_canon h

theorem decline_canon {wid w b f} : (s.decline wid w b f).Canon := deliver_canon (deviceWrite_canon h)
theorem comeBack_canon {wid w b f ls} : (s.comeBack wid w b f ls).Canon := of_ground h (State.comeBack_ground ..)
theorem freeBlock_canon {b k} : (s.freeBlock b k).Canon := of_ground h (State.freeBlock_ground ..)
theorem freeIdle_canon {g} : (s.freeIdle g).Canon := of_ground h (State.freeIdle_ground ..)
theorem poke_canon {d} : (s.poke d).Canon := postOnce_canon h
theorem pokePkg_canon {p} : (s.pokePkg p).Canon := of_ground h (State.pokePkg_ground ..)

theorem saveBlock_canon {b k} : (s.saveBlock b k).Canon :=
  updBlock_canon (freeBlock_canon (deviceWrite_canon (foldl_canon (fun _ _ hs => deviceWrite_canon (deviceWrite_canon hs))
      (deviceWrite_canon h))))

theorem offerGang_canon {g} : (s.offerGang g).Canon := of_ground h (State.offerGang_ground ..)

theorem execGangSaveComplete_canon : Result.Canon (execGangSaveComplete s) := by
  unfold execGangSaveComplete
  dsimp only
  split
  · exact h
  · split
    · refine afterOnce_canon ?_
      refine foldl_canon (fun s x hs => ?_) h
      split
      · split
        · exact ite_canon (dropWaits_canon (setWarp_canon hs)) (raise_canon (dropWaits_canon (setWarp_canon hs)))
        · exact dropWaits_canon (setWarp_canon hs)
      · exact hs
    · split
      · refine afterOnce_canon ?_
        refine foldl_canon (fun _ _ hs => endShares_canon hs) ?_
        refine foldl_canon (fun s x hs => ?_) h
        split
        · split
          · exact ite_canon (dropWaits_canon (setWarp_canon hs)) (raise_canon (dropWaits_canon (setWarp_canon hs)))
          · exact dropWaits_canon (setWarp_canon hs)
        · exact hs
      · refine foldl_canon (fun _ _ hs => reportAbove_canon hs) ?_
        refine tell_canon ?_
        refine foldl_canon (fun _ _ hs => poke_canon hs) ?_
        refine noteCounts_canon (freeIdle_canon ?_)
        refine foldl_canon (fun _ _ hs => saveBlock_canon hs) ?_
        refine foldl_canon (fun _ _ hs => endShares_canon hs) ?_
        refine foldl_canon (fun s x hs => ?_) h
        split
        · split
          · exact ite_canon (dropWaits_canon (setWarp_canon hs)) (raise_canon (dropWaits_canon (setWarp_canon hs)))
          · exact dropWaits_canon (setWarp_canon hs)
        · exact hs

theorem rebindCounts_canon {wid} : (s.rebindCounts wid).Canon := of_ground h (State.rebindCounts_ground ..)
theorem loadWarp_canon {b k n slot} : (s.loadWarp b k n slot).Canon := of_ground h (State.loadWarp_ground ..)

theorem resume_canon {wid} : (s.resume wid).Canon := by
  unfold resume
  split
  · exact h
  · split
    · exact h
    · dsimp only
      split
      · exact h
      · split
        · exact decline_canon h
        · split
          · next e => exact comeBack_canon ((frameOf_canon h).ok e)
          · next e => exact afterOnce_canon ((frameOf_canon h).wait e)
          · exact loseBlock_canon h

theorem breakGang_canon {b} : (s.breakGang b).Canon := by
  unfold breakGang
  dsimp only
  refine foldl_canon (fun _ _ hs => evalEvents_canon hs) ?_
  refine foldl_canon (fun s x hs => ?_) h
  refine foldl_canon (fun s x hs => ?_) hs
  split
  · exact hs
  · split
    · split
      · exact hs
      · exact ite_canon (breakBar_canon hs) hs
    · exact hs

theorem loadBlock_canon {b k slots} : (s.loadBlock b k slots).Canon := by
  unfold loadBlock
  extract_lets area k' s₁ s₂ s₃ s₄ s₅ s₆ s₇ s₈
  have h₃ : s₃.Canon := deviceWrite_canon (scratchPut_canon (setBlock_canon h))
  have h₅ : s₅.Canon := updBlock_canon (foldl_canon (fun _ _ hs => loadWarp_canon hs) h₃)
  have h₇ : s₇.Canon := pumpMail_canon (foldl_canon (fun _ _ hs => evalEvents_canon (rebindCounts_canon hs)) h₅)
  exact foldl_canon (fun _ _ hs => resume_canon hs) (foldl_canon (fun _ _ hs => breakGang_canon hs) h₇)

theorem countLeft_canon {b} : (s.countLeft b).Canon := of_ground h (State.countLeft_ground ..)
theorem reportFaults_canon {b} : (s.reportFaults b).Canon := of_ground h (State.reportFaults_ground ..)
theorem dropUnsent_canon {b} : (s.dropUnsent b).Canon := of_ground h (State.dropUnsent_ground ..)

theorem execBlockRetire_canon : Result.Canon (execBlockRetire s) := by
  unfold execBlockRetire
  extract_lets b ws later
  rw [Result.canon_next]
  split
  · exact h
  · extract_lets lost dead s₁ ws' s₂ k' scope s₃ s₄ s₅ s₆ s₇ d
    have h₁ : s₁.Canon := ite_canon (dropUnsent_canon h) (setBlock_canon h)
    have h₂ : s₂.Canon := ite_canon (updCore_canon h₁) h₁
    have h₃ : s₃.Canon := ite_canon h₂ (endShares_canon h₂)
    have h₅ : s₅.Canon := freeBlock_canon (reportFaults_canon (countLeft_canon h₃))
    have h₆ : s₆.Canon := ite_canon (breakGang_canon h₅) (mk_canon h₅)
    exact ite_canon h (ite_canon h (ite_canon (afterOnce_canon h₂) (ite_canon (afterOnce_canon h₃)
      (pokePkg_canon (noteCounts_canon (count_canon (freeIdle_canon h₆)))))))

theorem trapAfter_canon {x n cause aux} : Result.Canon (s.trapAfter x n cause aux) := by
  grind [trapAfter, setWarp_canon, → stamp_canon, raise_canon, Result.canon_next]

theorem execRtt_canon {x} : Result.Canon (execRtt x s) := by
  refine atSite_canon fun y => Result.ite_canon (stall_canon h) (Result.ite_canon (trapWhole_canon h) ?_)
  dsimp only
  split
  · exact trapWhole_canon h
  · split
    · exact trapWhole_canon h
    · next e => exact stall_canon ((frameOf_canon h).wait e)
    · next e =>
      have h₁ := (frameOf_canon h).ok e
      exact Result.ite_canon (stall_canon h₁) (Result.ite_canon (decline_canon (stamp_canon h₁ rfl)) (comeBack_canon
          (stamp_canon h₁ rfl)))

theorem execCsrr_canon {rg} : Result.Canon (execCsrr rg s) :=
  atSite_canon fun _ => Result.ite_canon (trapWhole_canon h) (Result.ite_canon (trapWhole_canon h) (Result.ite_canon
      (trapWhole_canon h) (advance_canon h)))

theorem execCsrw_canon {rg} : Result.Canon (execCsrw rg s) :=
  atSite_canon fun _ => Result.ite_canon (trapWhole_canon h) (Result.ite_canon (trapWhole_canon h) (Result.ite_canon
      (trapWhole_canon h) (advance_canon (updDie_canon h))))

theorem dropFound_canon {va at_} : (s.dropFound va at_).Canon := h
theorem dropPage_canon {va d} : (s.dropPage va d).Canon := ite_canon (updDie_canon (dropFound_canon h)) (dropFound_canon h)
theorem dropFe_canon {va ps} : (s.dropFe va ps).Canon := h

theorem tlbinvOf_canon {rg n scope} : Result.Canon (s.tlbinvOf rg n scope) := by
  have hd {va c} : State.Canon ((s.diesIn c scope).foldl (fun s d => s.dropPage va d) s) :=
    foldl_canon (fun _ _ hs => dropPage_canon hs) h
  refine atSite_canon fun x => Result.ite_canon (trapWhole_canon h) (Result.ite_canon (trapWhole_canon h) (Result.ite_canon h ?_))
  exact Result.ite_canon (startRelease_canon h)
    (advance_canon (ite_canon (updCore_canon (dropFound_canon h)) (ite_canon hd (dropFe_canon hd))))

theorem execLaunch_canon {rg} : Result.Canon (execLaunch rg s) := by
  refine atSite_canon fun x => Result.ite_canon (trapWhole_canon h) (Result.ite_canon (trapWhole_canon h) (Result.ite_canon
      (trapWhole_canon h) ?_))
  split
  · exact stall_canon h
  · exact trapWhole_canon h
  · next e =>
    have h₁ := translate_canon h e
    split
    · exact trapWhole_canon h₁
    · split
      · exact trapWhole_canon h₁
      · split
        · next e => exact stall_canon (releaseAt_canon h₁ e)
        · split
          · exact stall_canon h₁
          · split
            · exact stall_canon (sense_canon h₁)
            · exact trapWhole_canon h₁
            · exact advance_canon h₁
            · next e => exact post_canon (advance_canon (readVirtual_canon h₁ e))

theorem execIfetchFill_canon : Result.Canon (execIfetchFill s) := by
  unfold execIfetchFill
  rw [Result.canon_next]
  dsimp only
  split
  · exact h
  · split
    · split
      · exact h
      · exact ite_canon h (getD_canon (after_canon h) fun _ => lineRequest_canon h)
    · split
      · exact after_canon h
      · split
        · exact after_canon (foldl_canon (fun _ _ hs => ite_canon (stopAt_canon hs) hs) h)
        · split
          · next e => exact ite_canon (updDie_canon (reach_canon h e)) (icacheFill_canon (reach_canon h e))
          · exact updDie_canon h

end

section
/-! Reservations and the placement of gangs leave memory canonical. -/

variable {s : State} (h : s.Canon)
include h

theorem setReservation_canon {k g f} : (s.setReservation k g f).Canon := updBroker_canon h
theorem dropReservation_canon {k g} : (s.dropReservation k g).Canon := of_ground h (State.dropReservation_ground ..)
theorem clearRollbacks_canon {g} : (s.clearRollbacks g).Canon := of_ground h (State.clearRollbacks_ground ..)

theorem countCore_canon {k rg c} : (s.countCore k rg c).Canon := by
  unfold countCore
  dsimp only
  split
  · exact ite_canon (postOnce_canon (ite_canon (setReservation_canon (setReservation_canon h)) (setReservation_canon h)))
        (ite_canon (setReservation_canon (setReservation_canon h)) (setReservation_canon h))
  · exact ite_canon (setReservation_canon (setReservation_canon h)) (setReservation_canon h)

theorem beginCore_canon {k ls rg x} : (s.beginCore k ls rg x).Canon := by
  have drop {t : State} (ht : t.Canon) {vs : List CacheLine} : State.Canon (vs.foldl (fun s v =>
      match v.pin with
      | .held => s.writeBack x.1 v
      | .no => s.dropLine x.1 v.pa
      | .ending => s) t) :=
    foldl_canon (fun _ _ hs => by
      split
      · exact writeBack_canon hs
      · exact dropLine_canon hs
      · exact hs) ht
  exact ite_canon (countCore_canon (setReservation_canon (drop (updCore_canon h)))) (postOnce_canon (setReservation_canon (drop
      (updCore_canon h))))

theorem grab_canon {k} : (s.grab k).Canon := by
  unfold grab
  refine foldl_canon (fun s x hs => ?_) h
  split
  · exact hs
  · refine foldl_canon (fun s x hs => ?_) hs
    split
    · exact ite_canon hs (beginCore_canon hs)
    · exact hs

theorem releaseCores_canon {rg} : (s.releaseCores rg).Canon := of_ground h (State.releaseCores_ground ..)
theorem returnGang_canon {rg} : (s.returnGang rg).Canon := of_ground h (State.returnGang_ground ..)
theorem tellHalves_canon {i rg knows} : (s.tellHalves i rg knows).Canon := of_ground h (State.tellHalves_ground ..)
theorem giveUp_canon {rg knows} : (s.giveUp rg knows).Canon := of_ground h (State.giveUp_ground ..)

theorem rollback_canon {k rg} : (s.rollback k rg).Canon :=
  poke_canon (returnGang_canon (ite_canon (giveUp_canon (updShare_canon h)) (dropReservation_canon (releaseCores_canon
      (updShare_canon h)))))

theorem queuedAt_canon {d prio} : (s.queuedAt d prio).Canon := by
  unfold queuedAt
  dsimp only
  refine poke_canon ?_
  refine foldl_canon (fun s x hs => ?_) h
  split
  · exact ite_canon (rollback_canon hs) hs
  · exact hs

theorem cancelReservation_canon {d rg} : (s.cancelReservation d rg).Canon := of_ground h (State.cancelReservation_ground ..)

theorem dieRuns_canon {d k ls rs} : (s.dieRuns d k ls rs).Canon :=
  ite_canon (count_canon h) (queuedAt_canon (updShare_canon h))

theorem answerTake_canon {p v} : (s.answerTake p v).Canon := by
  unfold answerTake
  dsimp only
  split
  · exact h
  · split
    · exact h
    · exact advance_canon h

theorem serveTake_canon {d k ls} : (s.serveTake d k ls).Canon := by
  unfold serveTake
  dsimp only
  split
  · exact updShare_canon h
  · split
    · exact count_canon (answerTake_canon (updShare_canon h))
    · exact h

theorem endTakes_canon {d k} : (s.endTakes d k).Canon := foldl_canon (fun _ _ hs => answerTake_canon hs) (updShare_canon h)

theorem startBlock_canon {ls g c j heap straddle} : (s.startBlock ls g c j heap straddle).Canon :=
  foldl_canon (fun _ _ hs => setWarp_canon hs) (deviceWrite_canon (setBlock_canon (updCore_canon h)))

theorem restoreBlock_canon {g c j straddle} : (s.restoreBlock g c j straddle).Canon := by
  unfold restoreBlock
  dsimp only
  split
  · exact h
  · exact loadBlock_canon (updCore_canon h)

omit h in
theorem ofIteNot {α : Type} {p : Prop} [Decidable p] {o : Option α} {a : α} (e :
    (if p then none else o) = some a) : o = some a := by
  split at e
  · cases e
  · exact e

theorem commitReservation_canon {k r straddle t} (e : s.commitReservation k r straddle = some t) : t.Canon := by
  unfold commitReservation at e
  split at e
  · cases e
    exact dropReservation_canon h
  · extract_lets go clear at e
    have hc : (clear s).Canon := clearRollbacks_canon (dropReservation_canon h)
    split at e
    · rw [← Option.some.inj e]
      exact noteCounts_canon (foldl_canon (fun _ _ hs => restoreBlock_canon hs) hc)
    · split at e
      · cases e
      · rw [← Option.some.inj e]
        exact foldl_canon (fun _ _ hs => startBlock_canon hs) hc

theorem reserveAt_canon {d g cores restoring} : (s.reserveAt d g cores restoring).Canon :=
  grab_canon (updBroker_canon (ite_canon h (updShare_canon h)))

theorem reserveAcross_canon {d g ls u restoring} : (s.reserveAcross d g ls u restoring).Canon :=
  tell_canon (tell_canon (updBroker_canon (ite_canon h (updShare_canon h))))

theorem handOver_canon {d g ls t} (e : s.handOver d g ls = some t) : t.Canon := by
  obtain ⟨x, -, rfl⟩ := Option.map_eq_some_iff.mp e
  exact reportAbove_canon (tell_canon (updShare_canon h))

theorem placeOne_canon {d c t} (e : s.placeOne d c = some t) : t.Canon := by
  grind [placeOne, reserveAt_canon, → handOver_canon, reserveAcross_canon, postOnce_canon, Option.map_eq_some_iff]

theorem placeFirst_canon {d cs t} (e : s.placeFirst d cs = some t) : t.Canon := by
  induction cs with
  | nil => cases e
  | cons c cs ih => grind [placeFirst, → placeOne_canon]

theorem execPreparationComplete_canon : Result.Canon (execPreparationComplete s) := by
  have clear {t : State} (ht : t.Canon) {lo hi} : State.Canon { t with mem := t.mem.clear lo hi } := Memory.clear_wf _ _ _ ht
  unfold execPreparationComplete
  rw [Result.canon_next]
  dsimp only
  split
  · exact h
  · split
    · exact afterOnce_canon h
    · exact poke_canon (countCore_canon (ite_canon (updCore_canon h) (foldl_canon (fun _ _ hs => clear hs) (updCore_canon h))))

theorem execGangCommit_canon : Result.Canon (execGangCommit s) := by
  unfold execGangCommit
  rw [Result.canon_next]
  dsimp only
  split
  · exact h
  · split
    · exact afterOnce_canon h
    · split
      · split
        · exact afterOnce_canon h
        · exact dropReservation_canon (tellHalves_canon (foldl_canon (fun _ _ hs => setReservation_canon hs) h))
      · split
        · next e => exact poke_canon (commitReservation_canon h e)
        · exact afterOnce_canon h
      · exact h

theorem execBrokerReserve_canon : Result.Canon (execBrokerReserve s) := by
  refine hear_canon h fun m l t ht => ?_
  split
  · dsimp only
    split
    · exact ht
    · exact ite_canon ht (grab_canon (updBroker_canon ht))
  · exact ht

theorem execBrokerCommit_canon : Result.Canon (execBrokerCommit s) := by
  refine hear_canon h fun m l t ht => ?_
  split
  · split
    · next e => exact poke_canon (commitReservation_canon ht (ofIteNot e))
    · exact afterOnce_canon ht
  · exact ht

theorem execBrokerRollback_canon : Result.Canon (execBrokerRollback s) := by
  refine hear_canon h fun m l t ht => ?_
  split
  · dsimp only
    split
    · exact poke_canon (dropReservation_canon (releaseCores_canon (setReservation_canon ht)))
    · exact ht
  · exact ht

theorem execGangRestore_canon : Result.Canon (execGangRestore s) := by
  unfold execGangRestore
  dsimp only
  split
  · exact resume_canon (evalEvents_canon (rebindCounts_canon h))
  · split
    · exact h
    · split
      · exact h
      · split
        · split
          · exact reserveAcross_canon (updBroker_canon (pokePkg_canon h))
          · exact pokePkg_canon h
        · split
          · exact pokePkg_canon h
          · split
            · exact reserveAt_canon (updBroker_canon (pokePkg_canon h))
            · exact pokePkg_canon h

end

section
/-! Ranges, scans, hunts and steals of the Brokers leave memory canonical. -/

variable {s : State} (h : s.Canon)
include h

theorem passDown_canon {k ks k' ls rg} : (s.passDown k ks k' ls rg).Canon := by
  unfold passDown
  dsimp only
  split
  · exact count_canon h
  · refine foldl_canon (fun s x hs => ?_) h
    refine tell_canon ?_
    split
    · exact give_canon hs
    · exact hs

theorem giveRuns_canon {k k' ls rs} : (s.giveRuns k k' ls rs).Canon := by
  unfold giveRuns
  split
  · exact dieRuns_canon h
  · exact ite_canon h (foldl_canon (fun _ _ hs => passDown_canon hs) h)
  · exact foldl_canon (fun _ _ hs => passDown_canon hs) h

theorem feKeep_canon {p a} : (s.feKeep p a).Canon := by
  unfold feKeep
  split
  · exact updPkg_canon h
  · exact h

theorem flushRun_canon {m} : (s.flushRun m).Canon := by
  unfold flushRun
  dsimp only
  split
  · exact h
  · split
    · exact copyUp_canon (tellMsg_canon h)
    · exact tellMsg_canon h

theorem scanGang_canon {a ls} : (s.scanGang a ls).Canon := by
  unfold scanGang
  dsimp only
  split
  · split
    · exact h
    · split
      · exact report_canon (report_canon (flushRun_canon h))
      · split
        · exact afterOnce_canon h
        · exact ite_canon (post_canon (ite_canon (feKeep_canon h) (updLaunch_canon (feKeep_canon h)))) (post_canon (flushRun_canon
              (ite_canon (feKeep_canon h) (updLaunch_canon (feKeep_canon h)))))
  · exact h

theorem startScan_canon {p k rg v} : (s.startScan p k rg v).Canon := post_canon h

theorem passHomes_canon {p k ls rg} : (s.passHomes p k ls rg).Canon :=
  foldl_canon (fun _ _ hs => tell_canon hs) (updLaunch_canon h)

theorem execBrokerRange_canon : Result.Canon (execBrokerRange s) := by
  refine hear_canon h fun m l t ht => ?_
  refine ite_canon (noteMove_canon ht) ?_
  split
  · exact ite_canon (passHomes_canon ht) ht
  · exact giveRuns_canon ht

theorem execBrokerScan_canon : Result.Canon (execBrokerScan s) := by
  unfold execBrokerScan
  rw [Result.canon_next]
  split
  · split
    · exact scanGang_canon h
    · exact h
  · refine hear_canon h fun m l t ht => ?_
    split
    · refine foldl_canon (fun u c hu => ?_) ht
      split
      · exact tell_canon (give_canon hu)
      · exact hu
    · split
      · exact ite_canon (startScan_canon ht) ht
      · exact ht
    · exact ht

theorem dropHunt_canon {k k'} : (s.dropHunt k k').Canon := updBroker_canon h
theorem serveTakes_canon {d k ls} : (s.serveTakes d k ls).Canon := foldl_canon (fun _ _ hs => serveTake_canon hs) h

theorem huntFailed_canon {k k'} : (s.huntFailed k k').Canon := by
  unfold huntFailed
  dsimp only
  split
  · exact tell_canon h
  · split
    · split
      · exact endTakes_canon (serveTakes_canon h)
      · exact h
    · exact pokePkg_canon (updShare_canon h)
  · exact pokePkg_canon (updShare_canon h)
  · exact updShare_canon h
  · exact h

theorem pump_canon {k grid up n} : State.Canon (s.pump k grid up n) := by
  induction n generalizing s with
  | zero => exact h
  | succ n ih =>
    unfold pump
    dsimp only
    split
    · exact h
    · split
      · exact h
      · split
        · exact ih (dropHunt_canon h)
        · split
          · exact ih (dropHunt_canon h)
          · split
            · exact tell_canon (updBroker_canon h)
            · exact ih (huntFailed_canon (dropHunt_canon h))

theorem pumpAll_canon {k grid up} : (s.pumpAll k grid up).Canon := pump_canon h
theorem startHunt_canon {k k'} : (s.startHunt k k').Canon := pumpAll_canon (updBroker_canon h)

theorem huntAll_canon {d} : (s.huntAll d).Canon := by
  refine foldl_canon (fun s x hs => ?_) h
  extract_lets try_ s₁ s₂
  have ht {t : State} (ht : t.Canon) {k b} : (try_ t k b).Canon := ite_canon (startHunt_canon ht) ht
  exact ht (ht (ht hs))

theorem endRelays_canon {grid thief take} : (s.endRelays grid thief take).Canon :=
  foldl_canon (fun _ _ hs => pumpAll_canon (pumpAll_canon hs)) (foldl_canon (fun _ _ hs => updBroker_canon hs) h)

theorem serveSteal_canon {d asker thief take k ls} : (s.serveSteal d asker thief take k ls).Canon := by
  unfold serveSteal
  refine ite_canon (tell_canon h) ?_
  exact reportAbove_canon (endRelays_canon (foldl_canon (fun _ _ hs => copyUp_canon (tellMsg_canon hs)) (updShare_canon h)))

theorem execBrokerSteal_canon : Result.Canon (execBrokerSteal s) := by
  refine hear_canon h fun m l t ht => ?_
  dsimp only
  split
  · exact serveSteal_canon ht
  · exact tell_canon ht
  · exact startHunt_canon ht

theorem execBrokerGrant_canon : Result.Canon (execBrokerGrant s) := by
  refine hear_canon h fun m l t ht => ite_canon (noteMove_canon ht) ?_
  have h₁ : State.Canon (match m.dst with
      | .die p d => (t.giveRuns m.dst m.grid l [(m.first, m.count)]).serveTakes { pkg := p, die := d } m.grid l
      | _ => t.giveRuns m.dst m.grid l [(m.first, m.count)]) := by
    split
    · exact serveTakes_canon (giveRuns_canon ht)
    · exact giveRuns_canon ht
  exact ite_canon h₁ (ite_canon (pumpAll_canon (updBroker_canon h₁)) (startHunt_canon (pumpAll_canon (updBroker_canon h₁))))

theorem execBrokerNone_canon : Result.Canon (execBrokerNone s) := by
  refine hear_canon h fun m l t ht => ?_
  dsimp only
  split
  · exact ht
  · exact pumpAll_canon (updBroker_canon ht)

theorem execTake_canon {rg} : Result.Canon (execTake rg s) := by
  grind [execTake, endTakes_canon, setWarp_canon, → stamp_canon, atSite, updShare_canon, startHunt_canon, serveTake_canon,
      trapWhole_canon, Result.canon_next, Result.canon_fault]

theorem rejoin_canon {g} : (s.rejoin g).Canon := by
  unfold rejoin
  dsimp only
  split
  · exact ite_canon (offerGang_canon h) (foldl_canon (fun _ _ hs => ite_canon hs (queuedAt_canon hs)) (offerGang_canon h))
  · exact h

theorem execBrokerSaved_canon : Result.Canon (execBrokerSaved s) := hear_canon h fun _ _ _ ht => rejoin_canon ht

theorem execServiceWordChange_canon : Result.Canon (execServiceWordChange s) := by
  unfold execServiceWordChange
  dsimp only
  split
  · exact h
  · split
    · exact h
    · exact ite_canon h (rejoin_canon (noteCounts_canon (deviceWrite_canon (setBlock_canon h))))

theorem remap_canon {d k n} : (s.remap d k n).Canon := by
  unfold remap
  dsimp only
  split
  · exact h
  · exact ite_canon h (foldl_canon (fun _ _ hs => tell_canon hs) (updShare_canon h))

theorem vacate_canon {d cores gangs} : (s.vacate d cores gangs).Canon :=
  foldl_canon (fun _ _ hs => remap_canon hs) (foldl_canon (fun _ _ hs => saveGang_canon hs) h)

theorem execBrokerVacate_canon : Result.Canon (execBrokerVacate s) := by
  refine hear_canon h fun m l t ht => ?_
  split
  · exact vacate_canon ht
  · exact foldl_canon (fun _ _ hs => tell_canon hs) ht

theorem execBrokerRemap_canon : Result.Canon (execBrokerRemap s) :=
  hear_canon h fun _ _ _ ht => foldl_canon (fun _ _ hs => tell_canon hs) ht

theorem watchWait_canon {d} : (s.watchWait d).Canon := by
  unfold watchWait
  dsimp only
  split
  · exact h
  · exact ite_canon (postOnce_canon h) (afterOnce_canon h)

theorem execPriorityPreempt_canon : Result.Canon (execPriorityPreempt s) := by
  unfold execPriorityPreempt
  dsimp only
  split
  · exact h
  · split
    · exact h
    · split
      · exact h
      · split
        · exact h
        · refine poke_canon (vacate_canon ?_)
          refine foldl_canon (fun _ _ hs => updLaunch_canon hs) ?_
          split
          · exact ite_canon h (ite_canon (reserveAt_canon (updShare_canon (cancelReservation_canon h))) (grab_canon
                (setReservation_canon (releaseCores_canon h))))
          · exact reserveAt_canon h

theorem execCoreReserve_canon : Result.Canon (execCoreReserve s) := by
  unfold execCoreReserve
  rw [Result.canon_next]
  dsimp only
  split
  · exact h
  · split
    · next e => exact poke_canon (placeFirst_canon (grab_canon (foldl_canon (fun _ _ hs => serveTakes_canon hs) h)) (ofIteNot e))
    · exact watchWait_canon (huntAll_canon (grab_canon (foldl_canon (fun _ _ hs => serveTakes_canon hs) h)))

end

section
/-! The switch of tables and page migration leave memory canonical. -/

variable {s : State} (h : s.Canon)
include h

theorem execRegionSwitch_canon : Result.Canon (execRegionSwitch s) := by
  unfold execRegionSwitch
  dsimp only
  split
  · exact ite_canon (postOnce_canon (switchDie_canon h)) (switchDie_canon h)
  · exact switchDie_canon h

theorem updMigr_canon {d desc f} : (s.updMigr d desc f).Canon := updDie_canon h

theorem noteStatus_canon {desc v} : (s.noteStatus desc v).Canon := by
  grind [noteStatus, afterOnce_canon, → fwPut_canon, mk_canon]

theorem putLeaf_canon {d m v} : (s.putLeaf d m v).Canon := by
  unfold putLeaf
  split
  · exact homeWrite_canon (stampSc_canon h)
  · exact h

theorem abortMigr_canon {d m status} : (s.abortMigr d m status).Canon :=
  postOnce_canon (noteStatus_canon (updDie_canon (putLeaf_canon h)))

theorem copyLine_canon {d m i} : (s.copyLine d m i).Canon := by
  unfold copyLine
  dsimp only
  split
  · exact ite_canon (homeWrite_canon h) (homeWrite_canon h)
  · exact h

theorem recallPage_canon {d m} : (s.recallPage d m).Canon := h

theorem dropEverywhere_canon {va} : (s.dropEverywhere va).Canon :=
  dropFe_canon (foldl_canon (fun _ _ hs => dropPage_canon hs) h)

theorem moveWatches_canon {d m} : (s.moveWatches d m).Canon := by
  unfold moveWatches
  dsimp only
  split
  · exact updPkg_canon (mk_canon h)
  · exact foldl_canon (fun _ _ hs => fireWatches_canon hs) (updPkg_canon (updPkg_canon (mk_canon h)))

theorem finishMigr_canon {d m} : (s.finishMigr d m).Canon :=
  after_canon (postOnce_canon (noteStatus_canon (moveWatches_canon (dropEverywhere_canon (putLeaf_canon (updMigr_canon
      (foldl_canon (fun _ _ hs => copyLine_canon hs) (recallPage_canon h))))))))

theorem execMigrationStart_canon : Result.Canon (execMigrationStart s) := by
  unfold execMigrationStart
  dsimp only
  split
  · exact h
  · exact ite_canon h (ite_canon (postOnce_canon (noteStatus_canon (setDie_canon h))) (ite_canon (afterOnce_canon h)
        (postOnce_canon (post_canon (putLeaf_canon (updDie_canon (setDie_canon h)))))))

theorem execCopyPassEnd_canon : Result.Canon (execCopyPassEnd s) := by
  unfold execCopyPassEnd
  refine next_canon ?_
  dsimp only
  split
  · exact noteStatus_canon h
  · split
    · exact h
    · refine ite_canon (afterOnce_canon h) (ite_canon (ite_canon (afterOnce_canon h) (abortMigr_canon h)) ?_)
      split
      · exact post_canon (copyLine_canon (updMigr_canon h))
      · exact ite_canon (after_canon (updMigr_canon h)) (ite_canon (ite_canon (afterOnce_canon h) (ite_canon (finishMigr_canon h)
            (abortMigr_canon h)))
          (post_canon (updMigr_canon h)))

end

section
/-! Requests and lines at their home leave memory canonical. -/

variable {s : State} (h : s.Canon)
include h

theorem forwardedTwice_canon {q src} : (s.forwardedTwice q src).Canon := by
  unfold forwardedTwice
  dsimp only
  split
  · exact toFlash_canon (log_canon (refuse_canon h))
  · split
    · exact updLaunch_canon (toFlash_canon (log_canon (refuse_canon h)))
    · exact toFlash_canon (log_canon (refuse_canon h))

theorem replyWhen_canon {k scope due i arg} : (s.replyWhen k scope due i arg).Canon :=
  ite_canon (updDie_canon h) (ite_canon (post_canon h) (send_canon h))

theorem actCached_canon {c slot pa n f y t} (e : s.actCached c slot pa n f = some (y, t)) : t.Canon := by
  grind [actCached, setLine_canon, writeCached_canon]

theorem performAt_canon {q src k d pa again op write f} : (s.performAt q src k d pa again op write f).Canon := by
  grind [performAt, afterOnce_canon, homeWrite_canon, → actCached_canon, replyWhen_canon, refuse_canon, stampSc_canon, send_canon]

theorem retag_canon {q far n r t} (e : s.retag q far = some (n, r, t)) : t.Canon := by
  unfold retag at e
  dsimp only at e
  split at e
  · cases e
    exact h
  · split at e
    · cases e
      exact h
    · obtain ⟨k, -, e⟩ := Option.map_eq_some_iff.mp e
      cases e
      exact after_canon (updCore_canon (setTag_canon h))

theorem forwardTo_canon {q src k pa} : (s.forwardTo q src k pa).Canon := by
  grind [forwardTo, → retag_canon, send_canon]

theorem serve_canon {again op write sizes f} : State.Canon (s.serve again op write sizes f) := by
  unfold serve
  dsimp only
  split
  · exact refuse_canon h
  · split
    · split
      · exact refuse_canon h
      · split
        · exact refuse_canon h
        · exact ite_canon (refuse_canon (symKeep_canon h)) (passHome_canon (symKeep_canon h) fun _ ht => performAt_canon ht)
    · split
      · exact refuse_canon h
      · split
        · exact refuse_canon (meetVersion_canon h)
        · exact forwardedTwice_canon (meetVersion_canon h)
        · exact forwardTo_canon (meetVersion_canon h)
        · exact passHome_canon (meetVersion_canon h) fun _ ht => performAt_canon ht

theorem serveHost_canon {again op write sizes f} : (s.serveHost again op write sizes f).Canon :=
  ite_canon (hold_canon (ite_canon h (freeze_canon h))) (serve_canon h)

theorem execMailboxRequest_canon : Result.Canon (execMailboxRequest s) :=
  ite_canon (refuse_canon h) (ite_canon (refuse_canon h) (ite_canon (refuse_canon h) (ite_canon (send_canon h) (send_canon
      (pumpMail_canon (fireCore_canon (updCore_canon h)))))))

theorem execLineRead_canon : Result.Canon (execLineRead s) := by
  unfold execLineRead
  refine next_canon ?_
  dsimp only
  split
  · exact refuse_canon h
  · split
    · exact refuse_canon h
    · split
      · exact refuse_canon (meetVersion_canon h)
      · exact forwardedTwice_canon (meetVersion_canon h)
      · exact forwardTo_canon (meetVersion_canon h)
      · refine passHome_canon (meetVersion_canon h) fun t ht => ite_canon (send_canon ht) (ite_canon (afterOnce_canon ht)
            (sendLine_canon ?_))
        exact ite_canon ht (ite_canon (pinAt_canon ht) (ite_canon (addHolder_canon ht) ht))

theorem lineWriteAt_canon {k d pa data mask} : (s.lineWriteAt k d pa data mask).Canon :=
  ite_canon (homeWrite_canon h) (ite_canon h (afterWrite_canon (homePuts_canon h)))

theorem lineStore_canon {k d pa l} : State.Canon (s.lineStore k d pa l) :=
  ite_canon (mk_canon (lineWriteAt_canon h)) (lineWriteAt_canon h)

theorem execLineWrite_canon : Result.Canon (execLineWrite s) := by
  grind [execLineWrite, → retag_canon, forwardedTwice_canon, lineStore_canon, replyWhen_canon, refuse_canon, passHome_canon,
      sendLine_canon, meetVersion_canon, send_canon, Result.canon_next]

theorem staleVisits_canon {d line} : (s.staleVisits d line).Canon := h

theorem execLinePush_canon : Result.Canon (execLinePush s) :=
  send_canon (staleVisits_canon (ite_canon h (ite_canon (setDie_canon h) (setDie_canon h))))

end

section
/-! Combining and multicast at a router leave memory canonical. -/

variable {s : State} (h : s.Canon)
include h

theorem combError_canon {p i ls cause} : (s.combError p i ls cause).Canon := ite_canon (send_canon h) (enqueue_canon h)
theorem lineDone_canon {p ls lines} : (s.lineDone p ls lines).Canon := of_ground h (State.lineDone_ground ..)

theorem sendDown_canon {p g c ls} : (s.sendDown p g c ls).Canon := by
  unfold sendDown
  dsimp only
  refine lineDone_canon ?_
  split
  · exact sendLine_canon (foldl_canon (fun _ _ hs => enqueue_canon hs) h)
  · exact foldl_canon (fun _ _ hs => enqueue_canon hs) h

theorem foldInput_canon {p i l} : State.Canon (s.foldInput p i l) := by
  unfold foldInput
  dsimp only
  split
  · exact combError_canon h
  · refine ite_canon (combError_canon h) (ite_canon (combError_canon h) (ite_canon (combError_canon h) (ite_canon
        (combError_canon h) ?_)))
    have h₁ {p : Prop} [Decidable p] {n i a q f} : State.Canon (State.updPkg (if p then s else s.after n i a) q f) :=
      updPkg_canon (ite_canon h (after_canon h))
    exact ite_canon h₁ (ite_canon (sendDown_canon h₁) (enqueue_canon (updPkg_canon h₁)))

theorem freeBuffer_canon {p i} : (s.freeBuffer p i).Canon := of_ground h (State.freeBuffer_ground ..)

theorem combineInput_canon {p i ls} : (s.combineInput p i ls).Canon :=
  ite_canon (updPkg_canon h) (foldInput_canon (freeBuffer_canon h))

theorem abandon_canon {p g n} : (s.abandon p g n).Canon := postOnce_canon (cancel_canon (updPkg_canon h))

theorem loadGroup_canon {p g v} : (s.loadGroup p g v).Canon :=
  updPkg_canon (foldl_canon (fun _ _ hs => abandon_canon hs) (updPkg_canon h))

theorem execCombineDown_canon : Result.Canon (execCombineDown s) := by
  unfold execCombineDown
  dsimp only
  split
  · split
    · exact sendDown_canon h
    · exact h
  · split
    · exact discard_canon h
    · split
      · exact tagFault_canon (freeTagNow_canon h)
      · split
        · exact wholeDone_canon (updFlight_canon (freeTagNow_canon h))
        · exact freeTagNow_canon h

theorem execCombineSequenceAdmit_canon : Result.Canon (execCombineSequenceAdmit s) :=
  foldl_canon (fun _ _ hs => combineInput_canon hs) (updPkg_canon h)

theorem execCombineSequenceAbandon_canon : Result.Canon (execCombineSequenceAbandon s) := by
  unfold execCombineSequenceAbandon
  dsimp only
  split
  · split
    · exact h
    · exact postOnce_canon (foldl_canon (fun _ _ hs => combError_canon hs) (ite_canon (updPkg_canon h) (cancel_canon
          (updPkg_canon h))))
  · exact ite_canon (abandon_canon h) h

theorem castReply_canon {p m op cause} : (s.castReply p m op cause).Canon := ite_canon (send_canon h) (enqueue_canon h)

theorem castAck_canon {p mine cause} : (s.castAck p mine cause).Canon := by
  unfold castAck
  dsimp only
  split
  · exact h
  · exact ite_canon (ite_canon (updPkg_canon h) (castReply_canon (updPkg_canon h))) (ite_canon (ite_canon (updPkg_canon h)
        (castReply_canon (updPkg_canon h))) (updPkg_canon h))

theorem castWrite_canon {p l} : State.Canon (s.castWrite p l) := by
  unfold castWrite
  dsimp only
  split
  · exact castAck_canon h
  · split
    · exact castAck_canon h
    · exact ite_canon (castAck_canon (symKeep_canon h)) (ite_canon (after_canon (symKeep_canon h))
        (passHome_canon (symKeep_canon h) fun _ ht => replyWhen_canon (lineStore_canon ht)))

theorem castLine_canon {p ls} : (s.castLine p ls).Canon :=
  ite_canon (post_canon (foldl_canon (fun _ _ hs => enqueue_canon hs) (updPkg_canon (ite_canon (log_canon h) h)))) (foldl_canon
      (fun _ _ hs => enqueue_canon hs) (updPkg_canon (ite_canon (log_canon h) h)))

theorem execMcastLine_canon : Result.Canon (execMcastLine s) := by
  unfold execMcastLine
  dsimp only
  split
  · split
    · exact castWrite_canon h
    · exact castAck_canon h
    · exact castAck_canon h
  · split
    · split
      · exact send_canon h
      · exact ite_canon (send_canon h) (ite_canon (send_canon h) (castLine_canon h))
    · exact castLine_canon h

end

section
/-! Ports and module links leave memory canonical. -/

variable {s : State} (h : s.Canon)
include h

theorem execFlitTransmit_canon : Result.Canon (execFlitTransmit s) :=
  ite_canon h (ite_canon (postOnce_canon (post_canon (setPort_canon h))) (post_canon (setPort_canon h)))

theorem deliverFlit_canon {k f} : (s.deliverFlit k f).Canon := by
  unfold deliverFlit
  dsimp only
  split
  · exact foldl_canon (fun _ _ hs => ite_canon (arrive_canon hs) (refuse_canon hs)) h
  · split
    · exact arriveLine_canon h
    · exact refuse_canon h

theorem routeFlit_canon {p f} : (s.routeFlit p f).Canon := ite_canon (deliverFlit_canon h) (enqueue_canon h)

theorem takeFlit_canon {p n f} : (s.takeFlit p n f).Canon := by
  unfold takeFlit
  extract_lets v hd put a v' s₁ s₂ e
  have h₁ : s₁.Canon := setPort_canon h
  have h₂ : s₂.Canon := ite_canon (postOnce_canon h₁) h₁
  refine ite_canon h (ite_canon (log_canon (setPort_canon h)) (ite_canon h (ite_canon h₂ ?_)))
  exact ite_canon (hold_canon h₂) (ite_canon (hold_canon (freeze_canon h₂)) (routeFlit_canon h₂))

theorem spoil_canon {n bs} : (s.spoil n bs).Canon := by
  unfold spoil
  dsimp only
  split
  · exact h
  · split
    · exact h
    · exact ite_canon (ite_canon h (mk_canon h)) (log_canon (mk_canon h))

theorem execFlitReceive_canon : Result.Canon (execFlitReceive s) := by
  unfold execFlitReceive
  dsimp only
  refine next_canon ?_
  split
  · split
    · exact routeFlit_canon h
    · split
      · exact spoil_canon h
      · split
        · exact takeFlit_canon (mk_canon h)
        · exact h
  · exact ite_canon (post_canon h) (takeFlit_canon h)

theorem stopPort_canon {p n lost} : (s.stopPort p n lost).Canon := of_ground h (State.stopPort_ground ..)

theorem execPortRetrain_canon : Result.Canon (execPortRetrain s) :=
  ite_canon h (ite_canon h (after_canon (stopPort_canon h)))

theorem resend_canon {p n} : (s.resend p n).Canon := of_ground h (State.resend_ground ..)
theorem darken_canon {p n} : (s.darken p n).Canon := of_ground h (State.darken_ground ..)
theorem killPort_canon {p n} : (s.killPort p n).Canon := of_ground h (State.killPort_ground ..)

theorem execPortRetrainEnd_canon : Result.Canon (execPortRetrainEnd s) :=
  next_canon (ite_canon h (ite_canon (killPort_canon (killPort_canon (mk_canon h))) (log_canon (resend_canon (resend_canon
      (setPort_canon (setPort_canon (mk_canon h))))))))

theorem execPortReenable_canon : Result.Canon (execPortReenable s) := ite_canon h (setPort_canon (setPort_canon h))

theorem execModuleRetrainEnd_canon : Result.Canon (execModuleRetrainEnd s) :=
  ite_canon (log_canon h) (ite_canon (post_canon (updPkg_canon (log_canon h))) (updPkg_canon (log_canon h)))

end

section
/-! The launch queue and its packets leave memory canonical. -/

variable {s : State} (h : s.Canon)
include h

theorem watchQueue_canon : (s.watchQueue).Canon := by
  unfold watchQueue
  dsimp only
  split <;> exact h

theorem putStatus_canon {code} : (s.putStatus code).Canon := by
  grind [putStatus, afterOnce_canon, → fwPut_canon]

theorem halt_canon {i tag code} : (s.halt i tag code).Canon := putStatus_canon (log_canon (mk_canon h))
theorem started_canon {i} : (s.started i).Canon := postOnce_canon (mk_canon h)

theorem dispatch_canon : (s.dispatch).Canon := by
  unfold dispatch
  dsimp only
  split
  · exact h
  · split
    · exact h
    · split
      · exact halt_canon h
      · exact ite_canon (halt_canon h) (ite_canon h (ite_canon h (post_canon h)))

theorem mirror_canon {i bs} : (s.mirror i bs).Canon := post_canon (mk_canon h)

theorem execQueuePoll_canon : Result.Canon (execQueuePoll s) := by
  grind [execQueuePoll, afterOnce_canon, → fwBytes_canon, → fwPut_canon, dispatch_canon, watchQueue_canon, postOnce_canon,
      mirror_canon, Result.canon_next]

theorem execMirrorAck_canon : Result.Canon (execMirrorAck s) := by
  unfold execMirrorAck
  dsimp only
  split
  · exact ite_canon (dispatch_canon h) h
  · exact h

theorem execQueueRestart_canon : Result.Canon (execQueueRestart s) := by
  grind [execQueueRestart, afterOnce_canon, → fwBytes_canon, putStatus_canon, postOnce_canon, mk_canon, Result.canon_next]

theorem execNopPacket_canon : Result.Canon (execNopPacket s) :=
  next_canon (ite_canon h (ite_canon (halt_canon h) (started_canon h)))

theorem execSignalPacket_canon : Result.Canon (execSignalPacket s) := by
  grind [execSignalPacket, halt_canon, → signalUpdate_canon, started_canon, after_canon, Result.canon_next]

theorem execWaitPacket_canon : Result.Canon (execWaitPacket s) := by
  unfold execWaitPacket
  dsimp only
  refine next_canon ?_
  split
  · exact h
  · split
    · exact halt_canon h
    · split
      · exact halt_canon h
      · split
        · exact halt_canon h
        · exact after_canon h
        · exact ite_canon (post_canon (mk_canon h)) (after_canon (post_canon (mk_canon h)))

theorem execWaitConditionTrue_canon : Result.Canon (execWaitConditionTrue s) := by
  grind [execWaitConditionTrue, afterOnce_canon, halt_canon, → fwBytes_canon, started_canon, cancel_canon, mk_canon,
      Result.canon_next]

theorem execWaitTimeout_canon : Result.Canon (execWaitTimeout s) := by
  unfold execWaitTimeout
  dsimp only
  refine next_canon ?_
  split
  · exact h
  · exact ite_canon h (ite_canon (afterOnce_canon h) (ite_canon (afterOnce_canon h) (halt_canon h)))

theorem execFencePacket_canon : Result.Canon (execFencePacket s) := by
  unfold execFencePacket
  dsimp only
  refine next_canon ?_
  split
  · split
    · exact ite_canon h (ite_canon (postOnce_canon (mk_canon h)) (afterOnce_canon h))
    · exact h
  · exact ite_canon h (ite_canon (halt_canon h) (post_canon (mk_canon (started_canon h))))

theorem updTt_canon {m f} : (s.updTt m f).Canon := h

theorem putCounters_canon {m} : (s.putCounters m).Canon := by
  grind [putCounters, afterOnce_canon, → fwPut_canon]

theorem skipSlot_canon {m} : (s.skipSlot m).Canon := putCounters_canon (updTt_canon h)
theorem armSlot_canon {m} : (s.armSlot m).Canon := ite_canon h (after_canon h)
theorem loadTable_canon {va bs n} : (s.loadTable va bs n).Canon := foldl_canon (fun _ _ hs => armSlot_canon hs) h

theorem execTablePacket_canon : Result.Canon (execTablePacket s) := by
  grind [execTablePacket, halt_canon, loadTable_canon, → fwBytes_canon, started_canon, after_canon, Result.canon_next]

theorem badSlot_canon {m} : (s.badSlot m).Canon := skipSlot_canon (log_canon h)

theorem slotPacket_canon {u y t} (e : s.slotPacket u = .ok y t) : t.Canon := by
  grind [slotPacket, → fwBytes_canon]

theorem execTtSlot_canon : Result.Canon (execTtSlot s) := by
  unfold execTtSlot
  extract_lets e t due now go
  refine next_canon ?_
  split
  · exact putCounters_canon h
  · refine ite_canon h ?_
    have hn {u : State} (hu : u.Canon) : (go u).Canon := armSlot_canon (updTt_canon hu)
    refine ite_canon (after_canon h) (ite_canon (skipSlot_canon (hn h)) ?_)
    split
    · exact after_canon h
    · next e₁ =>
      have h₁ := hn (slotPacket_canon h e₁)
      split
      · exact post_canon h₁
      · refine ite_canon (skipSlot_canon h₁) (ite_canon (ite_canon (skipSlot_canon h₁) (updTt_canon h₁)) (post_canon ?_))
        exact foldl_canon (fun _ _ hs => tell_canon hs) (updLaunch_canon (putCounters_canon (updTt_canon h₁)))
    · exact badSlot_canon (hn h)

theorem execCombineConfig_canon : Result.Canon (execCombineConfig s) := by
  unfold execCombineConfig
  extract_lets bs i va stop
  refine next_canon (ite_canon h (ite_canon (halt_canon h) (ite_canon (halt_canon h) ?_)))
  split
  · exact after_canon h
  · next e => exact ite_canon (halt_canon h) (started_canon (foldl_canon (fun _ _ hs => ite_canon hs (loadGroup_canon hs))
        (fwBytes_canon h e)))
  · exact halt_canon h

theorem startLaunch_canon {k ls p d} : (s.startLaunch k ls p d).Canon := by
  unfold startLaunch
  dsimp only
  split
  · exact dieRuns_canon (foldl_canon (fun _ _ hs => ite_canon hs (pokePkg_canon hs)) (regPut_canon (setLaunch_canon h)))
  · split
    · refine foldl_canon (fun _ _ hs => tell_canon hs) ?_
      split
      · exact foldl_canon (fun _ _ hs => ite_canon hs (pokePkg_canon hs)) (regPut_canon (setLaunch_canon h))
      · exact updTt_canon (foldl_canon (fun _ _ hs => ite_canon hs (pokePkg_canon hs)) (regPut_canon (setLaunch_canon h)))
      · exact foldl_canon (fun _ _ hs => ite_canon hs (pokePkg_canon hs)) (regPut_canon (setLaunch_canon h))
    · refine passDown_canon ?_
      split
      · exact foldl_canon (fun _ _ hs => ite_canon hs (pokePkg_canon hs)) (regPut_canon (setLaunch_canon h))
      · exact updTt_canon (foldl_canon (fun _ _ hs => ite_canon hs (pokePkg_canon hs)) (regPut_canon (setLaunch_canon h)))
      · exact foldl_canon (fun _ _ hs => ite_canon hs (pokePkg_canon hs)) (regPut_canon (setLaunch_canon h))

theorem launchDone_canon {src n} : (s.launchDone src n).Canon := by
  unfold launchDone
  split
  · exact started_canon h
  · exact h

theorem reject_canon {p status serial} : (s.reject p status serial).Canon := by
  grind [reject, → writeRecord_canon, launchDone_canon, after_canon, → completeSignal_canon]

theorem takeLaunch_canon {p serial} : (s.takeLaunch p serial).Canon := by
  grind [takeLaunch, halt_canon, skipSlot_canon, startLaunch_canon, reject_canon, log_canon, launchDone_canon, after_canon,
      → completeSignal_canon]

theorem execLaunchPacket_canon : Result.Canon (execLaunchPacket s) := by
  unfold execLaunchPacket
  dsimp only
  refine next_canon ?_
  split
  · exact ite_canon (takeLaunch_canon h) h
  · exact ite_canon h (ite_canon (after_canon h) (ite_canon (takeLaunch_canon h) (takeLaunch_canon (mk_canon h))))
  · exact ite_canon (after_canon h) (ite_canon (ite_canon (after_canon h) (skipSlot_canon h)) (ite_canon (takeLaunch_canon h)
        (takeLaunch_canon (mk_canon h))))

theorem execStandbyTakeover_canon : Result.Canon (execStandbyTakeover s) := by
  unfold execStandbyTakeover
  dsimp only
  refine next_canon ?_
  refine postOnce_canon ?_
  split
  · exact mk_canon h
  · exact ite_canon (mk_canon (mk_canon h)) (ite_canon (started_canon (mk_canon h)) (dispatch_canon (mk_canon (mk_canon h))))

end

section
/-! The firmware's ring and its requests leave memory canonical. -/

variable {s : State} (h : s.Canon)
include h

theorem offerRecord_canon {p bs} : (s.offerRecord p bs).Canon := ite_canon (updPkg_canon h) h
theorem measure_canon {p i bs} : (s.measure p i bs).Canon := updPkg_canon h
theorem deriveKeys_canon {p} : (s.deriveKeys p).Canon := updPkg_canon h

theorem spdmRespond_canon {p m y t} (e : s.spdmRespond p m = (y, t)) : t.Canon := by
  grind [spdmRespond, updPkg_canon]

theorem fwGet_canon {p va n y t} (e : s.fwGet p va n = .ok y t) : t.Canon := by
  grind [fwGet, → fwBytes_canon]

theorem fwSet_canon {p va bs y t} (e : s.fwSet p va bs = .ok y t) : t.Canon := by
  grind [fwSet, → fwPut_canon, bootPuts_canon]

theorem fwSignal_canon {p va y t} (e : s.fwSignal p va = .ok y t) : t.Canon := by
  grind [fwSignal, → signalUpdate_canon, → fwGet_canon, → fwSet_canon]

theorem mirrorTable_canon {p n} : (s.mirrorTable p n).Canon := updPkg_canon h

theorem finishReq_canon {p idx addr sig v stage} : State.Canon (s.finishReq p idx addr sig v stage) := by
  unfold finishReq
  extract_lets req later index signal
  have hl {t : State} (ht : t.Canon) {k} : (later t k).Canon := after_canon ht
  have hi {t : State} (ht : t.Canon) : (index t).Canon := by
    simp only [index]
    split
    · exact ht
    · split
      · next e => exact mirrorTable_canon (fwSet_canon ht e)
      · exact hl ht
      · exact ht
  have hs {t : State} (ht : t.Canon) : (signal t).Canon := by
    simp only [signal]
    refine ite_canon (hi ht) (ite_canon (hl ht) ?_)
    split
    · next e => exact hi (fwSignal_canon ht e)
    · exact hl ht
    · exact hi ht
  refine ite_canon h (ite_canon (hi h) (ite_canon (hs h) ?_))
  split
  · next e => exact hs (fwSet_canon h e)
  · exact hl h
  · exact hs h

theorem endReq_canon {p rg status result} : (s.endReq p rg status result).Canon := finishReq_canon h

theorem serveCode_canon {code n} {f : State → Nat × Nat × List Byte → List Byte → State} (hf : ∀ (t : State) r bs, t.Canon →
    (f t r bs).Canon) :
    State.Canon (s.serveCode code n f) := by
  unfold serveCode
  dsimp only
  split
  · exact h
  · refine ite_canon h ?_
    split
    · next e => exact hf _ _ _ (fwGet_canon h e)
    · exact h
    · exact endReq_canon h

theorem endWith_canon {p rg result} : (s.endWith p rg result).Canon := endReq_canon h
theorem wipeNear_canon {d} : State.Canon (s.wipeNear d) := Memory.wipe_wf _ _ _ _ h

theorem configure_canon {b t k} : State.Canon (s.configure b t k) := by
  unfold configure
  rcases e : s.freeValue with ⟨v, s₁⟩
  have h₁ : s₁.Canon := freeValue_canon h e
  dsimp -zeta only
  extract_lets rel ring pri sec s₂ s₃
  have h₂ : s₂.Canon := foldl_canon (fun _ _ hs => foldl_canon (fun _ _ hs => updDie_canon hs) (updPkg_canon hs)) h₁
  have h₃ : s₃.Canon := ite_canon h₂ (foldl_canon (fun _ _ hs => foldl_canon (fun _ _ hs => wipeNear_canon hs) hs) h₂)
  exact postOnce_canon (mk_canon h₃)

theorem execConfigureDomain_canon : Result.Canon (execConfigureDomain s) :=
  next_canon <| serveCode_canon h fun _ _ _ ht =>
    ite_canon (endWith_canon ht) (ite_canon (endWith_canon ht) (ite_canon (endWith_canon ht) (configure_canon (endWith_canon ht))))

theorem execRegionCommit_canon : Result.Canon (execRegionCommit s) := by
  refine next_canon (serveCode_canon h fun t r b ht => ?_)
  dsimp only
  split
  · refine ite_canon (endWith_canon ht) (ite_canon (endWith_canon ht) (ite_canon (endWith_canon ht) (ite_canon
        (endWith_canon ht) ?_)))
    exact foldl_canon (fun _ _ hs => post_canon hs) (mk_canon (foldl_canon (fun _ _ hs => updDie_canon hs) ht))
  · exact ht
  · exact ht
  · exact endReq_canon ht

theorem execRegionDrainComplete_canon : Result.Canon (execRegionDrainComplete s) := by
  unfold execRegionDrainComplete
  refine next_canon ?_
  split
  · exact h
  · refine ite_canon h (ite_canon (afterOnce_canon h) ?_)
    extract_lets s₁ s₂
    have h₂ : s₂.Canon := mk_canon (foldl_canon (fun _ _ hs => updDie_canon hs) h)
    split
    · exact h₂
    · extract_lets a
      split
      · next e => exact endReq_canon (fwGet_canon h₂ e)
      · exact afterOnce_canon (mk_canon h₂)
      · exact h₂

theorem execMigratePage_canon : Result.Canon (execMigratePage s) := by
  refine next_canon (serveCode_canon h fun t r b ht => ?_)
  dsimp only
  have hn {u : State} (hu : u.Canon) {p a n} : State.Canon (match u.fwSet p a (leBytes 1 n) with | .ok _ v => v | _ => u) := by
    split
    · next e => exact fwSet_canon hu e
    · exact hu
  have hw {p r v} : (t.endWith p r v).Canon := endWith_canon ht
  refine ite_canon (ite_canon (noteStatus_canon hw) (hn hw)) (ite_canon (ite_canon (noteStatus_canon hw) (hn hw))
    (ite_canon (noteStatus_canon hw) ?_))
  split
  · exact noteStatus_canon hw
  · exact postOnce_canon (updDie_canon (noteStatus_canon hw))

theorem execRelaySignal_canon : Result.Canon (execRelaySignal s) := by
  refine next_canon (serveCode_canon h fun t r b ht => ?_)
  dsimp only
  split
  · exact ht
  · exact endReq_canon ht
  · split
    · exact endReq_canon ht
    · exact ite_canon (endReq_canon ht) (ite_canon (endReq_canon ht) (endWith_canon (fireWatches_canon (updPkg_canon ht))))

theorem unfreeze_canon {p m} : (s.unfreeze p m).Canon := ite_canon (updPkg_canon h) (updCore_canon (updPkg_canon h))
theorem letGo_canon {x} : (s.letGo x).Canon := ite_canon (routeFlit_canon h) (post_canon h)
theorem loseCore_canon {c} : (s.loseCore c).Canon := foldl_canon (fun _ _ hs => loseBlock_canon hs) h
theorem losePorter_canon {c} : (s.losePorter c).Canon := foldl_canon (fun _ _ hs => loseBlock_canon hs) h

theorem killMaster_canon {p m} : (s.killMaster p m).Canon := by
  unfold killMaster
  dsimp only
  split
  · exact loseCore_canon h
  · exact losePorter_canon h
  · exact updPkg_canon h
  · exact darken_canon (darken_canon h)

theorem execReleaseFrozenMaster_canon : Result.Canon (execReleaseFrozenMaster s) := by
  refine next_canon (serveCode_canon h fun t r b ht => ?_)
  dsimp only
  split
  · exact endWith_canon ht
  · have hl {p src code tag data q e} : ((t.unfreeze q e).log p src code tag data).Canon := log_canon (unfreeze_canon ht)
    exact endWith_canon (foldl_canon (fun _ _ hs => letGo_canon hs) (ite_canon hl (updCore_canon hl)))

theorem execKillFrozenMaster_canon : Result.Canon (execKillFrozenMaster s) := by
  refine next_canon (serveCode_canon h fun t r b ht => ?_)
  dsimp only
  refine ite_canon ht ?_
  split
  · exact endWith_canon (killMaster_canon (log_canon (unfreeze_canon ht)))
  · exact ite_canon (endWith_canon (loseCore_canon (updCore_canon (log_canon ht)))) (endWith_canon ht)

theorem execReadEvents_canon : Result.Canon (execReadEvents s) := by
  refine next_canon (serveCode_canon h fun t r b ht => ?_)
  dsimp only
  split
  · next e => exact endReq_canon (fwSet_canon ht e)
  · exact ht
  · exact endReq_canon ht

theorem objectAt_canon {p a y t} (e : s.objectAt p a = .ok y t) : t.Canon := by
  grind [objectAt, → fwGet_canon]

theorem execFirmwareUpdate_canon : Result.Canon (execFirmwareUpdate s) := by
  refine next_canon (serveCode_canon h fun t r b ht => ?_)
  dsimp only
  refine ite_canon (endWith_canon ht) ?_
  split
  · exact ht
  · next e => exact ite_canon (endWith_canon (log_canon (objectAt_canon ht e))) (post_canon (updPkg_canon (objectAt_canon ht e)))
  · exact endWith_canon (log_canon ht)

theorem execUpdateTakeover_canon : Result.Canon (execUpdateTakeover s) := by
  unfold execUpdateTakeover
  dsimp only
  split
  · exact h
  · exact ite_canon (afterOnce_canon h) (endReq_canon (log_canon (log_canon (setPkg_canon h))))

theorem thaw_canon : (s.thaw).Canon := postOnce_canon (foldl_canon (fun _ _ hs => pokePkg_canon hs) (mk_canon h))

theorem execThawContexts_canon : Result.Canon (execThawContexts s) :=
  next_canon <| serveCode_canon h fun _ _ _ ht =>
    ite_canon (endWith_canon ht) (ite_canon (endWith_canon ht) (endWith_canon (log_canon (thaw_canon ht))))

theorem execSetPowerCap_canon : Result.Canon (execSetPowerCap s) :=
  next_canon <| serveCode_canon h fun _ _ _ ht => ite_canon (endWith_canon (updPkg_canon ht)) (endWith_canon ht)

theorem execSetSecondaryHostDie_canon : Result.Canon (execSetSecondaryHostDie s) :=
  next_canon <| serveCode_canon h fun _ _ _ ht => ite_canon (endWith_canon ht) (endWith_canon (mk_canon (updPkg_canon ht)))

theorem execSetDetourBias_canon : Result.Canon (execSetDetourBias s) :=
  next_canon <| serveCode_canon h fun _ _ _ ht =>
    ite_canon (endWith_canon ht) (endWith_canon (foldl_canon (fun _ _ hs => updPkg_canon hs) ht))

theorem execSpdmMessage_canon : Result.Canon (execSpdmMessage s) := by
  grind [execSpdmMessage, → spdmRespond_canon, → fwGet_canon, endReq_canon, serveCode_canon, → fwSet_canon, mk_canon,
      Result.canon_next]

theorem execUnknownFirmwareRequest_canon : Result.Canon (execUnknownFirmwareRequest s) := by
  unfold execUnknownFirmwareRequest
  dsimp only
  split
  · exact finishReq_canon h
  · split
    · exact h
    · exact ite_canon h (endReq_canon h)

end

section
/-! The loss of dies and packages, and boot, leave memory canonical. -/

variable {s : State} (h : s.Canon)
include h

theorem kernelBad_canon {p step} : (s.kernelBad p step).Canon := log_canon (updPkg_canon h)
theorem kernelRuns_canon {p} : (s.kernelRuns p).Canon := updPkg_canon (measure_canon h)
theorem freezeContexts_canon {cause} : (s.freezeContexts cause).Canon := of_ground h (State.freezeContexts_ground ..)

theorem freezeDone_canon {p} : (s.freezeDone p).Canon :=
  postOnce_canon (ite_canon (log_canon h) (toFlash_canon (log_canon h)))

theorem runNow_canon {f : State → Result} (hf : ∀ t : State, t.Canon → (f t).Canon) {a} : State.Canon (s.runNow f a) := by
  unfold runNow
  have ht : (f { s with arg := a }).Canon := hf _ (mk_canon h)
  split
  · next t e =>
    rw [e] at ht
    exact mk_canon ht
  · exact h

theorem loseShare_canon {k k'} : (s.loseShare k k').Canon := by
  unfold loseShare
  dsimp only
  split
  · exact h
  · exact count_canon (updShare_canon h)

theorem loseSaved_canon {b k} : State.Canon (s.loseSaved b k) := by
  unfold loseSaved
  extract_lets g s₁ s₂
  have h₁ : s₁.Canon := breakGang_canon (markLost_canon h)
  have h₂ : s₂.Canon := ite_canon (updBroker_canon h₁) h₁
  exact offerGang_canon (noteCounts_canon (count_canon h₂))

theorem commitHalves_canon {d} : State.Canon (s.commitHalves d) :=
  foldl_canon (fun _ _ hs => getD_canon (dropReservation_canon hs) fun _ => commitReservation_canon hs) h

theorem stopDie_canon {d} : State.Canon (s.stopDie d) := by
  unfold stopDie
  refine ite_canon h ?_
  extract_lets k s₁ s₂ s₃ here s₄ s₅ saved s₆ s₇ s₈ s₉ s'
  have h₃ : s₃.Canon := foldl_canon (fun _ _ hs => cancelReservation_canon hs) (updDie_canon (commitHalves_canon h))
  have h₅ : s₅.Canon := foldl_canon (fun _ _ hs => runNow_canon hs fun _ => execBlockRetire_canon) (foldl_canon
      (fun _ _ hs => markLost_canon hs) h₃)
  have h₇ : s₇.Canon := foldl_canon (fun _ _ hs => loseShare_canon hs) (foldl_canon (fun _ _ hs => loseSaved_canon hs) h₅)
  have h₉ : s'.Canon := pokePkg_canon (foldl_canon (fun _ _ hs => fireSlots_canon hs) (mk_canon h₇))
  split
  · exact ite_canon (postOnce_canon h₉) h₉
  · exact h₉

theorem loseDie_canon {d} : (s.loseDie d).Canon := ite_canon h (stopDie_canon (log_canon h))

theorem failOver_canon : (s.failOver).Canon := by
  unfold failOver
  dsimp only
  split
  · exact ite_canon (postOnce_canon (mk_canon (freezeContexts_canon h))) (mk_canon (freezeContexts_canon h))
  · exact freezeContexts_canon h

theorem dropBrokers_canon {p} : (s.dropBrokers p).Canon := of_ground h (State.dropBrokers_ground ..)

theorem accountFor_canon {p} : (s.accountFor p).Canon :=
  foldl_canon (fun _ _ hs => ite_canon hs (count_canon (relieve_canon hs))) h

theorem losePackage_canon {p fatal} : State.Canon (s.losePackage p fatal) := by
  unfold losePackage
  refine ite_canon h ?_
  extract_lets lead s₁ saved s₂ s₃ s₄ dom s₅ s₆ s₇
  have h₁ : s₁.Canon := foldl_canon (fun _ _ hs => ite_canon (loseDie_canon hs) (stopDie_canon hs)) h
  have h₃ : s₃.Canon := dropBrokers_canon (mk_canon (foldl_canon (fun _ _ hs => loseSaved_canon hs) h₁))
  have h₄ : s₄.Canon := foldl_canon (fun _ _ hs => ite_canon (darken_canon hs) hs) h₃
  have h₅ : s₅.Canon := ite_canon (mk_canon h₄) h₄
  have h₆ : s₆.Canon := ite_canon (failOver_canon h₅) h₅
  have h₇ : s₇.Canon := ite_canon (post_canon h₆) h₆
  split
  · exact ite_canon (postOnce_canon h₇) h₇
  · exact h₇

theorem loseDies_canon {p} : (s.loseDies p).Canon := foldl_canon (fun _ _ hs => loseDie_canon hs) h

theorem resetPackage_canon {p warm} : State.Canon (s.resetPackage p warm) :=
  mk_canon (foldl_canon (fun _ _ hs => ite_canon (setDie_canon hs) (wipeNear_canon (setDie_canon hs))) (setPkg_canon
      (losePackage_canon h)))

theorem bootFails_canon {p step check} : (s.bootFails p step check).Canon := log_canon (updPkg_canon h)

theorem startComplexes_canon {p} : (s.startComplexes p).Canon :=
  measure_canon (measure_canon (measure_canon (measure_canon (updPkg_canon h))))

theorem boot_canon {p} : (s.boot p).Canon := by
  unfold boot
  extract_lets s₁ check s₂ s₃ s₄
  have h₁ : s₁.Canon := deriveKeys_canon h
  have h₂ : s₂.Canon := updPkg_canon h₁
  have h₄ : s₄.Canon := foldl_canon (fun _ _ hs => updDie_canon hs) (startComplexes_canon h₂)
  exact ite_canon (bootFails_canon h₁) (ite_canon (bootFails_canon h₂) (ite_canon (kernelRuns_canon h₄) (kernelBad_canon
      (updPkg_canon h₄))))

theorem execPackageBoot_canon : Result.Canon (execPackageBoot s) :=
  ite_canon h (boot_canon (offerRecord_canon (resetPackage_canon h)))

theorem execWarmReset_canon : Result.Canon (execWarmReset s) := ite_canon h (boot_canon (resetPackage_canon h))
theorem execFatalDieError_canon : Result.Canon (execFatalDieError s) := ite_canon h (toFlash_canon (loseDie_canon h))

theorem execPackageLoss_canon : Result.Canon (execPackageLoss s) :=
  ite_canon (ite_canon (afterOnce_canon h) (ite_canon h (accountFor_canon h))) (ite_canon (toFlash_canon (losePackage_canon h)) h)

theorem execEmergencyShutdown_canon : Result.Canon (execEmergencyShutdown s) :=
  ite_canon h (toFlash_canon (loseDies_canon (log_canon h)))

theorem execThermalThrottleStep_canon : Result.Canon (execThermalThrottleStep s) :=
  ite_canon h (ite_canon h (log_canon (updDie_canon h)))

theorem execVinLoss_canon : Result.Canon (execVinLoss s) :=
  ite_canon h (updPkg_canon (toFlash_canon (loseDies_canon (losePackage_canon h))))

theorem takeOver_canon {p} : (s.takeOver p).Canon := log_canon (setPkg_canon (mk_canon h))

theorem execHeartbeatMiss_canon : Result.Canon (execHeartbeatMiss s) :=
  ite_canon h (ite_canon (setPkg_canon h) (ite_canon (setPkg_canon h) (ite_canon (takeOver_canon h) (updPkg_canon (ite_canon
      (toFlash_canon (losePackage_canon h)) h)))))

theorem execWarmReboot_canon : Result.Canon (execWarmReboot s) :=
  ite_canon (afterOnce_canon h) (ite_canon (ite_canon (freezeDone_canon h) h) (ite_canon h (ite_canon (kernelRuns_canon h)
      (kernelBad_canon h))))

theorem execSoftError_canon : Result.Canon (execSoftError s) := by
  unfold execSoftError
  dsimp only
  refine next_canon ?_
  split
  · exact h
  · exact ite_canon (mk_canon (log_canon h)) (log_canon h)

end

section
/-! Time and the management interface leave memory canonical. -/

variable {s : State} (h : s.Canon)
include h

theorem slew_canon {p ppm} : (s.slew p ppm).Canon := ite_canon (updPkg_canon h) h
theorem execDomainTimeSync_canon : Result.Canon (execDomainTimeSync s) := ite_canon h (updPkg_canon (slew_canon h))

theorem execGrandmasterLost_canon : Result.Canon (execGrandmasterLost s) := by
  grind [execGrandmasterLost, updPkg_canon, → freeValue_canon, log_canon, Result.canon_next]

theorem plainWrite_canon {p n v t} (e : s.plainWrite p n v = some t) : t.Canon := by
  unfold plainWrite at e
  dsimp only at e
  split at e
  case h_7 => cases e
  all_goals rw [← Option.some.inj e]
  · exact ite_canon h (setPkg_canon h)
  · exact ite_canon h (setPkg_canon h)
  · exact ite_canon (setPkg_canon h) h
  · exact setPkg_canon h
  · exact setPkg_canon h
  · exact setPkg_canon h

theorem writeCap_canon {p v} : (s.writeCap p v).Canon := ite_canon (updPkg_canon h) h

theorem bootKernel_canon {p v} : (s.bootKernel p v).Canon :=
  ite_canon h (ite_canon (kernelRuns_canon (ite_canon h (updPkg_canon h))) (kernelBad_canon h))

theorem regWrite_canon {p n v t} (e : s.regWrite p n v = some t) : t.Canon := by
  unfold regWrite at e
  split at e
  · rw [← Option.some.inj e]
    exact writeCap_canon h
  · rw [← Option.some.inj e]
    exact bootKernel_canon h
  · exact plainWrite_canon h e

theorem reply_canon {p bs} : (s.reply p bs).Canon := h

theorem execMgmtRead_canon : Result.Canon (execMgmtRead s) :=
  ite_canon h (ite_canon (reply_canon h) (ite_canon h (ite_canon (reply_canon h) (reply_canon h))))

theorem execMgmtWrite_canon : Result.Canon (execMgmtWrite s) := by
  unfold execMgmtWrite
  extract_lets p m
  refine next_canon (ite_canon h (ite_canon (reply_canon h) ?_))
  refine reply_canon ?_
  refine List.foldlRecOn (motive := fun x : State × Bool => x.1.Canon) _ _ h fun x hx i _ => ?_
  split
  · next e => exact regWrite_canon hx e
  · exact hx

theorem execMgmtRegisterWrite_canon : Result.Canon (execMgmtRegisterWrite s) :=
  next_canon (ite_canon h (getD_canon h fun _ => plainWrite_canon h))

theorem execBar1Access_canon : Result.Canon (execBar1Access s) :=
  ite_canon h (ite_canon (ite_canon (bootPuts_canon h) h) (ite_canon (reply_canon h) h))

end

section
/-! A turn of the machine leaves memory canonical. -/

variable {s : State} (h : s.Canon)
include h

theorem tickWarp_canon {wid} : (s.tickWarp wid).Canon := by
  unfold tickWarp
  dsimp only
  split
  · exact h
  · exact ite_canon h (foldl_canon (fun _ _ hs => ite_canon (postOnce_canon hs) hs) (setWarp_canon h))

theorem tickDie_canon {d y t} (e : s.tickDie d = (y, t)) : t.Canon := by
  grind [tickDie, setDie_canon]

theorem tick_canon : State.Canon s.tick := by
  unfold tick
  extract_lets s₁ dies
  refine foldl_canon (fun t d ht => ?_) (mk_canon h)
  exact ite_canon (foldl_canon (fun _ _ hs => tickWarp_canon hs) (tickDie_canon ht rfl)) (tickDie_canon ht rfl)

theorem nextAct_canon {y t} (e : s.nextAct = (y, t)) : t.Canon := by
  grind [nextAct, → choose_canon, mk_canon]

theorem begin_canon {i arg} : (s.begin_ i arg).Canon := ite_canon h h

theorem perform_canon {ex : Instr → State → Result} (hex : ∀ i t, State.Canon t → Result.Canon (ex i t)) {a} : Result.Canon
    (s.perform ex a) := by
  unfold perform
  split
  · exact tick_canon h
  · exact updDie_canon h
  · next i arg =>
    have ht := hex i _ (begin_canon h (i := i) (arg := arg))
    split
    · next e =>
      rw [e] at ht
      exact recordsSince_canon (mk_canon ht)
    · exact ht
  · exact issueQuad_canon h hex

theorem turnStep_canon {ex : Instr → State → Result} (hex : ∀ i t, State.Canon t → Result.Canon (ex i t)) : Result.Canon
    (s.turnStep ex) :=
  perform_canon (nextAct_canon h rfl) hex

end

end State

open State

theorem exec_canon {i : Instr} {s : State} (h : s.Canon) : Result.Canon (exec i s) := by
  unfold exec
  cases i with
  | iadd | iaddXr | isub | isubXr | imul | imulXr | imulhi | imulhiXr | imin | iminXr | imax | imaxXr | vand | vandXr
  | vor | vorXr | vxor | vxorXr | shl | shlXr | shr | shrXr | sar | sarXr | bfe | bfeXr | fadd | faddXr | fsub | fsubXr
  | fmul | fmulXr | fmin | fminXr | fmax | fmaxXr => exact vec2_canon h
  | ld | ldXm | st | stXm | ldl | ldlXm | stl | stlXm | atom | atomXm | atoml | atomlXm | cas | casXm | rld | rst
  | ratom => exact issueMem_canon h
  | sadd | ssub | smul | smulhi | sand | sor | sxor | sshl | sshr | ssar | smin | smax | sminn | smaxn | scmp
    => exact scalar2_canon h
  | frcp | frcpXr | frsq | frsqXr | fsqrt | fsqrtXr | fex2 | fex2Xr | flg2 | flg2Xr => exact longVec_canon h
  | vmov | vmovXr | popc | popcXr | clz | clzXr | brev | brevXr => exact vec1_canon h
  | addi | addiXi | andi | andiXi | shli | shliXi | shri | shriXi => exact vecImm_canon h
  | nop | exit | fence | evmask | evclr => exact atSite_canon fun _ => advance_canon h
  | smov | smovi | smoviXi | scmpXr => exact scalarOp_canon h
  | saddi | saddiXi | sandi | sandiXi => exact scalarImm_canon h
  | bz | bnz | bltz | bgez => exact scalarBranch_canon h
  | vmovi | vmoviXi | vmovs | vmovsXr => exact vectorOp_canon h
  | icmp | icmpXr | fcmp | fcmpXr => exact cmp2_canon h
  | mst | mstXm | mld | mldXm => exact tileMove_canon h
  | tcopy | tcopyXm | cfill | cfillXm => exact issueCopy_canon h
  | readRequest | writeRequest | atomicRequest | casRequest => exact serveHost_canon h
  | imad | bfi | ffma => exact vec3_canon h
  | trap | trapXi | bkpt => exact atSite_canon fun _ => trapAfter_canon h
  | readData | atomicData | casData => exact dataAnswer_canon h
  | hostWatchdogExpire | hostMachineCheck | kernelPanicReport => exact ite_canon (freezeContexts_canon h) h
  | callr | jmpr => exact jumpReg_canon h
  | pset | psetXr => exact pset_canon h
  | pack4 | pack4Xr => exact pack4_canon h
  | unpack4 | unpack4Xr => exact unpackCodes_canon h
  | ballot | ballotXr => exact ballot_canon h
  | vote | voteXr => exact vote_canon h
  | rfl | rflXr => exact firstLane_canon h
  | laneid | laneidXr => exact laneId_canon h
  | pref | prefXm => exact pref_canon h
  | mrd | mrdXr => exact mrdOf_canon h
  | mwr | mwrXr => exact mwrOf_canon h
  | cbload | cbloadXm => exact issueCbload_canon h
  | cchain | cchainXm => exact issueChain_canon h
  | bar | barXm => exact barOf_canon h
  | bara | baraXm => exact baraOf_canon h
  | barw | barwXm => exact barwOf_canon h
  | waitc | waitcXm => exact waitcOf_canon h
  | regroup | ungroup => exact regroupOf_canon h
  | tlbinv | tlbinvXm => exact tlbinvOf_canon h
  | bra => exact branch_canon h
  | call => exact atSite_canon fun _ => advanceTo_canon h
  | moduleRetrain => exact ite_canon h (after_canon h)
  | combineUp => exact combineInput_canon h
  | migrationPinWaitEnd => exact post_canon (updMigr_canon h)
  | migrationWindowEnd => exact updDie_canon h
  | powercapWrite => exact ite_canon h (writeCap_canon h)
  | kboot => exact ite_canon h (bootKernel_canon h)
  | regroupComplete => exact completeRegroup_canon h
  | chainRecord => exact runChain_canon h
  | ppsInPulse => exact ite_canon h (slew_canon h)
  | sread => exact execSread_canon h
  | swrite => exact execSwrite_canon h
  | bru => exact execBru_canon h
  | brd => exact execBrd_canon h
  | brw => exact execBrw_canon h
  | ret => exact execRet_canon h
  | take => exact execTake_canon h
  | sel => exact execSel_canon h
  | cvt => exact execCvt_canon h
  | mcast => exact execMcast_canon h
  | combine => exact execCombine_canon h
  | mloop => exact execMloop_canon h
  | mzero => exact execMzero_canon h
  | mwait => exact execMwait_canon h
  | mstat => exact execMstat_canon h
  | cclose => exact execCclose_canon h
  | cbfree => exact execCbfree_canon h
  | cstat => exact execCstat_canon h
  | barinit => exact execBarinit_canon h
  | fenceXm => exact execFenceXm_canon h
  | waitb => exact execWaitb_canon h
  | evbind => exact execEvbind_canon h
  | waitany => exact execWaitany_canon h
  | mbxsend => exact execMbxsend_canon h
  | mbxrecv => exact execMbxrecv_canon h
  | yield => exact execYield_canon h
  | rtt => exact execRtt_canon h
  | launch => exact execLaunch_canon h
  | csrr => exact execCsrr_canon h
  | csrw => exact execCsrw_canon h
  | packageBoot => exact execPackageBoot_canon h
  | softError => exact execSoftError_canon h
  | moduleRetrainEnd => exact execModuleRetrainEnd_canon h
  | flitReceive => exact execFlitReceive_canon h
  | flitTransmit => exact execFlitTransmit_canon h
  | thermalThrottleStep => exact execThermalThrottleStep_canon h
  | emergencyShutdown => exact execEmergencyShutdown_canon h
  | vinLoss => exact execVinLoss_canon h
  | portRetrain => exact execPortRetrain_canon h
  | portRetrainEnd => exact execPortRetrainEnd_canon h
  | mailboxRequest => exact execMailboxRequest_canon h
  | lineRead => exact execLineRead_canon h
  | lineData => exact execLineData_canon h
  | lineWrite => exact execLineWrite_canon h
  | linePush => exact execLinePush_canon h
  | writeAck => exact execWriteAck_canon h
  | retryReply => exact execRetryReply_canon h
  | retryResend => exact execRetryResend_canon h
  | errorReply => exact execErrorReply_canon h
  | tagTimeout => exact execTagTimeout_canon h
  | tagQuarantineEnd => exact execTagQuarantineEnd_canon h
  | combineDown => exact execCombineDown_canon h
  | combineSequenceAdmit => exact execCombineSequenceAdmit_canon h
  | combineSequenceAbandon => exact execCombineSequenceAbandon_canon h
  | mcastLine => exact execMcastLine_canon h
  | walkComplete => exact execWalkComplete_canon h
  | missSlotFill => exact execMissSlotFill_canon h
  | regionSwitch => exact execRegionSwitch_canon h
  | regionDrainComplete => exact execRegionDrainComplete_canon h
  | migrationStart => exact execMigrationStart_canon h
  | copyPassEnd => exact execCopyPassEnd_canon h
  | queuePoll => exact execQueuePoll_canon h
  | mirrorAck => exact execMirrorAck_canon h
  | launchPacket => exact execLaunchPacket_canon h
  | signalPacket => exact execSignalPacket_canon h
  | waitPacket => exact execWaitPacket_canon h
  | waitConditionTrue => exact execWaitConditionTrue_canon h
  | waitTimeout => exact execWaitTimeout_canon h
  | fencePacket => exact execFencePacket_canon h
  | tablePacket => exact execTablePacket_canon h
  | combineConfig => exact execCombineConfig_canon h
  | nopPacket => exact execNopPacket_canon h
  | queueRestart => exact execQueueRestart_canon h
  | ttSlot => exact execTtSlot_canon h
  | domainTimeSync => exact execDomainTimeSync_canon h
  | grandmasterLost => exact execGrandmasterLost_canon h
  | standbyTakeover => exact execStandbyTakeover_canon h
  | packageLoss => exact execPackageLoss_canon h
  | heartbeatMiss => exact execHeartbeatMiss_canon h
  | updateTakeover => exact execUpdateTakeover_canon h
  | configureDomain => exact execConfigureDomain_canon h
  | regionCommit => exact execRegionCommit_canon h
  | migratePage => exact execMigratePage_canon h
  | relaySignal => exact execRelaySignal_canon h
  | releaseFrozenMaster => exact execReleaseFrozenMaster_canon h
  | killFrozenMaster => exact execKillFrozenMaster_canon h
  | readEvents => exact execReadEvents_canon h
  | firmwareUpdate => exact execFirmwareUpdate_canon h
  | thawContexts => exact execThawContexts_canon h
  | setPowerCap => exact execSetPowerCap_canon h
  | spdmMessage => exact execSpdmMessage_canon h
  | setSecondaryHostDie => exact execSetSecondaryHostDie_canon h
  | setDetourBias => exact execSetDetourBias_canon h
  | unknownFirmwareRequest => exact execUnknownFirmwareRequest_canon h
  | mgmtRead => exact execMgmtRead_canon h
  | mgmtWrite => exact execMgmtWrite_canon h
  | mgmtRegisterWrite => exact execMgmtRegisterWrite_canon h
  | bar1Access => exact execBar1Access_canon h
  | warmReboot => exact execWarmReboot_canon h
  | brokerRange => exact execBrokerRange_canon h
  | brokerDone => exact execBrokerDone_canon h
  | doneTimer => exact execDoneTimer_canon h
  | brokerSteal => exact execBrokerSteal_canon h
  | brokerGrant => exact execBrokerGrant_canon h
  | brokerNone => exact execBrokerNone_canon h
  | brokerScan => exact execBrokerScan_canon h
  | brokerReserve => exact execBrokerReserve_canon h
  | brokerCommit => exact execBrokerCommit_canon h
  | brokerRollback => exact execBrokerRollback_canon h
  | brokerVacate => exact execBrokerVacate_canon h
  | brokerRemap => exact execBrokerRemap_canon h
  | brokerSaved => exact execBrokerSaved_canon h
  | coreReserve => exact execCoreReserve_canon h
  | preparationComplete => exact execPreparationComplete_canon h
  | gangCommit => exact execGangCommit_canon h
  | priorityPreempt => exact execPriorityPreempt_canon h
  | gangSaveComplete => exact execGangSaveComplete_canon h
  | serviceWordChange => exact execServiceWordChange_canon h
  | gangRestore => exact execGangRestore_canon h
  | fatalDieError => exact execFatalDieError_canon h
  | ifetchFill => exact execIfetchFill_canon h
  | registerFill => exact execRegisterFill_canon h
  | walkerFetch => exact execWalkerFetch_canon h
  | eventTimerFire => exact execEventTimerFire_canon h
  | blockRetire => exact execBlockRetire_canon h
  | trapTake => exact execTrapTake_canon h
  | porterCommandComplete => exact execPorterCommandComplete_canon h
  | chainPoll => exact execChainPoll_canon h
  | matrixCommandComplete => exact execMatrixCommandComplete_canon h
  | broadcastStreamEvent => exact execBroadcastStreamEvent_canon h
  | warmReset => exact execWarmReset_canon h
  | portReenable => exact execPortReenable_canon h

/-- Settles O58: a turn performs an instruction or an event on a canonical memory, and each leaves it canonical. -/
theorem memoryCanonical : Obligations.MemoryCanonical := by
  intro s t h e
  have ht : Result.Canon (step s) := turnStep_canon h fun _ _ => exec_canon
  rw [e] at ht
  exact ht

end Sys2Proof.Machine
end

section
/-! PROOFS. Homes of a region's bytes (R57-R60), and their obligation (O57). -/

open Sys2Proof Sys2Proof.Machine

namespace Sys2Proof.Machine

/-- Two numbers are equal when their quotients and their remainders by one divisor are. -/
theorem eq_of_div_eq_of_mod_eq {a b n : Nat} (hd : a / n = b / n) (hm : a % n = b % n) : a = b := by
  rw [← Nat.div_add_mod a n, ← Nat.div_add_mod b n, hd, hm]

/-- The package of a slot tells its number among the members (R59). -/
theorem mod_length_eq_of_getD_eq {m : List Nat} (hn : m.Nodup) (hm : m ≠ []) {a b : Nat}
    (h : m.getD (a % m.length) 0 = m.getD (b % m.length) 0) : a % m.length = b % m.length := by
  have hpos : 0 < m.length := List.length_pos_iff.2 hm
  have ha := Nat.mod_lt a hpos
  have hb := Nat.mod_lt b hpos
  rw [← List.getElem_eq_getD (h := ha), ← List.getElem_eq_getD (h := hb)] at h
  exact (hn.getElem_inj_iff).1 h

/-- A shift around a ring of `w` places, as mode 1 turns the lines of a row (R60), takes two places to two places. -/
theorem eq_of_add_mod_eq {a b g w : Nat} (ha : a < w) (hb : b < w) (h : (a + g) % w = (b + g) % w) : a = b := by
  have hab : a ≡ b [MOD w] := Nat.ModEq.add_right_cancel' g h
  exact Nat.ModEq.eq_of_lt_of_lt hab ha hb

variable {m : List Nat} {r : Region} {a b : Nat}

/-- Interleaved over packages, dies and channels (R60): the place in memory tells the row of lines and the byte in the line, and
package, die and channel tell the line of the row. -/
theorem homeIn_inj_of_mode_one (hn : m.Nodup) (hm : m ≠ []) (hr : r.mode = 1) (h : homeIn m r a = homeIn m r b) : a = b := by
  have hpos : 0 < 256 * m.length := Nat.mul_pos (by decide) (List.length_pos_iff.2 hm)
  simp only [homeIn, hr, Home.mk.injEq, true_and] at h
  obtain ⟨hpkg, hdie, hchan, hloc⟩ := h
  have hrow : a / 128 / (256 * m.length) = b / 128 / (256 * m.length) := by omega
  rw [hrow] at hpkg hdie hchan
  have hslot := eq_of_div_eq_of_mod_eq (eq_of_div_eq_of_mod_eq hchan hdie) (mod_length_eq_of_getD_eq hn hm hpkg)
  have hline : a / 128 % (256 * m.length) = b / 128 % (256 * m.length) :=
    eq_of_add_mod_eq (Nat.mod_lt _ hpos) (Nat.mod_lt _ hpos) hslot
  exact eq_of_div_eq_of_mod_eq (eq_of_div_eq_of_mod_eq hrow hline) (by omega)

/-- Interleaved by 2 MiB pages over packages and dies (R60): package and die tell the page of the row of pages, the rest tells the
row and the byte in the page. -/
theorem homeIn_inj_of_mode_two (hn : m.Nodup) (hm : m ≠ []) (hr : r.mode = 2) (h : homeIn m r a = homeIn m r b) : a = b := by
  simp only [homeIn, hr, Home.mk.injEq, true_and] at h
  obtain ⟨hpkg, hdie, hchan, hloc⟩ := h
  have hslot := eq_of_div_eq_of_mod_eq hdie (mod_length_eq_of_getD_eq hn hm hpkg)
  have hrow : a / 2 ^ 21 / (4 * m.length) = b / 2 ^ 21 / (4 * m.length) := by omega
  have hpage : a / 2 ^ 21 = b / 2 ^ 21 := eq_of_div_eq_of_mod_eq hrow hslot
  exact eq_of_div_eq_of_mod_eq hpage (by omega)

/-- On one die (R60): channel or slice, and the place in it, tell line and byte. -/
theorem homeIn_inj_of_one_die (h₁ : r.mode ≠ 1) (h₂ : r.mode ≠ 2) (h : homeIn m r a = homeIn m r b) : a = b := by
  simp only [homeIn, Home.mk.injEq, true_and] at h
  obtain ⟨hchan, hloc⟩ := h
  omega

theorem Region.has_iff {pa : Nat} : r.has pa = true ↔ r.mode ≠ 0 ∧ r.base ≤ pa ∧ pa < r.base + r.size := by
  simp [Region.has, and_assoc]

theorem homeOf_eq_none_iff {t : Tables} {pa : Nat} : homeOf t pa = none ↔ ∀ r ∈ t.regions, ¬ r.has pa = true := by
  simp [homeOf, findRegion]

/-- Settles O57: a home in a region tells the byte's offset, mode by mode, and only bytes of valid regions have one. -/
theorem homesDistinct : Obligations.HomesDistinct := by
  refine ⟨fun m r a b hn hm _ _ h => ?_, fun t pa => ?_⟩
  · by_cases h₁ : r.mode = 1
    · exact homeIn_inj_of_mode_one hn hm h₁ h
    by_cases h₂ : r.mode = 2
    · exact homeIn_inj_of_mode_two hn hm h₂ h
    · exact homeIn_inj_of_one_die h₁ h₂ h
  · rw [homeOf_eq_none_iff]
    refine forall₂_congr fun r _ => ?_
    rw [Region.has_iff]
    omega

end Sys2Proof.Machine
end

section
/-! PROOFS. Reads and translations leave the warps and memory as they are (R61-R70, R183, R349). -/

open Sys2Proof Sys2Proof.Machine

namespace Sys2Proof.Machine

namespace State

/-- What stays while translations and reads go on: the warps and memory. -/
def stay (s : State) : Tab WarpId Warp × Memory := (s.warps, s.mem)

variable {s t : State}

theorem stay_of (hw : t.warps = s.warps) (hg : t.ground = s.ground) : t.stay = s.stay := by
  rw [stay, stay, hw, mem_of_ground hg]

theorem warps_of_stay (h : t.stay = s.stay) : t.warps = s.warps := congrArg Prod.fst h
theorem sameMem_of_stay (h : t.stay = s.stay) : SameMem s t := fun a => by rw [show t.mem = s.mem from congrArg Prod.snd h]
theorem warp?_of_stay (h : t.stay = s.stay) (w : WarpId) : t.warp? w = s.warp? w := by rw [warp?, warp?, warps_of_stay h]

/-! Updates of one unit. -/

@[simp] theorem updCore_stay (s : State) (c : CoreId) (f : Core → Core) : (s.updCore c f).stay = s.stay := rfl
@[simp] theorem setDie_stay (s : State) (d : DieId) (v : Die) : (s.setDie d v).stay = s.stay := rfl
@[simp] theorem updDie_stay (s : State) (d : DieId) (f : Die → Die) : (s.updDie d f).stay = s.stay := rfl
@[simp] theorem setPkg_stay (s : State) (p : Nat) (v : Package) : (s.setPkg p v).stay = s.stay := rfl
@[simp] theorem updPkg_stay (s : State) (p : Nat) (f : Package → Package) : (s.updPkg p f).stay = s.stay := rfl
@[simp] theorem setLine_stay (s : State) (c : CoreId) (l : CacheLine) : (s.setLine c l).stay = s.stay := rfl
@[simp] theorem dropLine_stay (s : State) (c : CoreId) (pa : Nat) : (s.dropLine c pa).stay = s.stay := rfl
@[simp] theorem setTag_stay (s : State) (c : CoreId) (n : Nat) (t : Tag) : (s.setTag c n t).stay = s.stay := rfl
@[simp] theorem staleFills_stay (s : State) (c : CoreId) (f : Nat → Bool) : (s.staleFills c f).stay = s.stay := rfl
@[simp] theorem putVisitor_stay (s : State) (d : DieId) (pa : Nat) (data : List Byte) : (s.putVisitor d pa data).stay = s.stay := rfl
@[simp] theorem tlbFill_stay (s : State) (c : CoreId) (e : TlbEnt) : (s.tlbFill c e).stay = s.stay := rfl
@[simp] theorem tlbHit2_stay (s : State) (c : CoreId) (e : TlbEnt) : (s.tlbHit2 c e).stay = s.stay := rfl

@[simp] theorem postOnce_stay (s : State) (i : Instr) (a : Arg) : (s.postOnce i a).stay = s.stay := stay_of (postOnce_warps ..) (postOnce_ground ..)
@[simp] theorem sendLine_stay (s : State) (l : LinePkt) : (s.sendLine l).stay = s.stay := stay_of (sendLine_warps ..) (sendLine_ground ..)

@[simp] theorem writeBack_stay (s : State) (c : CoreId) (l : CacheLine) : (s.writeBack c l).stay = s.stay :=
  stay_of (writeBack_leaves ..).1 (writeBack_ground ..)

@[simp] theorem foldl_stay {α : Type} (f : State → α → State) (h : ∀ s x, (f s x).stay = s.stay) (l : List α) (s : State) :
    (l.foldl f s).stay = s.stay := foldl_keeps stay f h l s

@[simp] theorem usePass_stay (s : State) (c : CoreId) (h : Home) : (s.usePass c h).stay = s.stay := by
  unfold usePass
  split <;> rfl

theorem passTag_stay {c : CoreId} {far : Bool} (e : s.passTag c far = some t) : t.stay = s.stay := by
  unfold passTag at e
  split at e
  · obtain ⟨n, -, rfl⟩ := Option.map_eq_some_iff.mp e
    rfl
  · cases e
    rfl

/-! The switch of a die's tables, and the place of a byte behind it (R70-R72). -/

@[simp] theorem fireWatchesOf_stay (s : State) (p : Nat) (d : DieId) (pa n : Nat) : (s.fireWatchesOf p d pa n).stay = s.stay := by
  unfold fireWatchesOf
  dsimp only
  split
  · rfl
  · rw [foldl_stay _ fun _ _ => updPkg_stay ..]
    rfl

@[simp] theorem recallLine_stay (s : State) (c : CoreId) (l : CacheLine) : (s.recallLine c l).stay = s.stay := by
  unfold recallLine
  dsimp only
  split <;> simp

@[simp] theorem handWatches_stay (s : State) (d : DieId) (old : Tables) : (s.handWatches d old).stay = s.stay := by
  unfold handWatches
  dsimp only
  rw [foldl_stay]
  · rfl
  · intro s x
    split <;> simp

@[simp] theorem switchDie_stay (s : State) (d : DieId) : (s.switchDie d).stay = s.stay := by
  unfold switchDie
  dsimp only
  split
  · rfl
  · rw [foldl_stay]
    · simp
    · intro s x
      simp

@[simp] theorem meetVersion_stay (s : State) (d : DieId) (v : BitVec 16) : (s.meetVersion d v).stay = s.stay := by
  unfold meetVersion
  split
  · split
    · exact switchDie_stay ..
    · rfl
  · rfl

/-- The cores that wait for a line of code wait on while a die meets a version. -/
@[simp] theorem meetVersion_attached (s : State) (d e : DieId) (v : BitVec 16) :
    ((s.meetVersion d v).die e).attached = (s.die e).attached := by
  unfold meetVersion
  split
  · next t ht =>
    split
    · rw [die_of_ground (switchDie_ground s d t ht)]
      by_cases he : e = d
      · rw [he, setDie_die_self]
        rfl
      · rw [setDie_die_ne _ _ _ _ he]
    · rfl
  · rfl

/-- The place of a byte is found in the state itself, or in one where dies have met a version. -/
theorem reach_induction {P : State → Prop} (hs : P s) (hm : ∀ u d v, P u → P (u.meetVersion d v)) {d : DieId} {pa b : Nat} {h : Home}
    (e : s.reach d pa = .at_ h b t) : P t := by
  unfold reach at e
  split at e
  · cases e
  · split at e
    · cases e
      exact hs
    · dsimp only at e
      split at e
      · cases e
        exact hm _ _ _ hs
      · split at e
        · cases e
          exact hm _ _ _ (hm _ _ _ hs)
        · split at e
          · cases e
            exact hm _ _ _ (hm _ _ _ hs)
          · cases e
          · cases e
      · cases e
      · cases e

theorem reach_stay {d : DieId} {pa b : Nat} {h : Home} (e : s.reach d pa = .at_ h b t) : t.stay = s.stay :=
  reach_induction (P := fun u => u.stay = s.stay) rfl (fun u d v hu => (meetVersion_stay u d v).trans hu) e

theorem reach_attached {d : DieId} {pa b : Nat} {h : Home} (e : s.reach d pa = .at_ h b t) (k : DieId) :
    (t.die k).attached = (s.die k).attached :=
  reach_induction (P := fun u => (u.die k).attached = (s.die k).attached) rfl (fun u d v hu => (meetVersion_attached u d k v).trans hu) e

/-! The walk of the page table, and translation (R61-R65). -/

theorem walkLevels_stay {d : DieId} {va : Nat} {ls : List Nat} : ∀ {s : State} {table : Nat} {path : Tab (Nat × Nat) Nat},
    (s.walkLevels d va ls table path).2.2.stay = s.stay := by
  induction ls with
  | nil => exact rfl
  | cons l ls ih =>
    intro s table path
    unfold walkLevels
    dsimp only
    split
    · exact ih
    · split
      · next e =>
        have ht := reach_stay e
        split
        · exact ht
        · split
          · exact ht
          · split
            · exact ht
            · exact ht
            · exact ih.trans ht
      · rfl

theorem walkFrom_stay {d : DieId} {va : Nat} {r : WalkR} {p : Tab (Nat × Nat) Nat} (e : s.walkFrom d va = (r, p, t)) : t.stay = s.stay := by
  rw [show t = (s.walkFrom d va).2.2 by rw [e]]
  exact walkLevels_stay

@[simp] theorem walkKeep_stay (s : State) (d : DieId) (va : Nat) : (s.walkKeep d va).stay = s.stay := by
  unfold walkKeep
  split
  · next e => exact (updDie_stay ..).trans (walkFrom_stay e)
  · next e => exact walkFrom_stay e

theorem translate_stay {c : CoreId} {va : Nat} {x : TlbEnt} (e : s.translate c va = .ok x t) : t.stay = s.stay := by
  unfold translate at e
  split at e
  · cases e
    rfl
  · split at e
    · cases e
      rfl
    · split at e
      · cases e
      · split at e
        · cases e
          simp
        · cases e
        · cases e

/-! Reads of the pool, through a translation or at an address (R205-R207, R349). -/

@[simp] theorem pushLine_stay (s : State) (h : Home) (pa : Nat) (d : DieId) (m : BitVec 128) : (s.pushLine h pa d m).stay = s.stay := by
  unfold pushLine
  dsimp only
  split <;> simp

@[simp] theorem addHolder_stay (s : State) (h : Home) (pa : Nat) (d : DieId) : (s.addHolder h pa d).stay = s.stay := by
  unfold addHolder
  dsimp only
  split
  · rfl
  · split
    · split <;> simp
    · rfl

@[simp] theorem install_stay (s : State) (c : CoreId) (pa : Nat) (data : List Byte) (pin : Pin) (bs : List BlockId) :
    (s.install c pa data pin bs).stay = s.stay :=
  Prod.ext (install_leaves ..).1 (install_leaves ..).2

theorem readAt_stay {h : Home} {pa n : Nat} {bs : List Byte} (e : s.readAt h pa n = .ok bs t) : t.stay = s.stay := by
  unfold readAt at e
  split at e
  · cases e
  · split at e
    · cases e
    · split at e
      · cases e
      · cases e
        rfl

theorem readHome_stay {unit : Nat} {c : CoreId} {h : Home} {pa n : Nat} {keep : State → State} (hk : ∀ u, (keep u).stay = u.stay)
    {bs : List Byte} (e : s.readHome unit c h pa n keep = .ok bs t) : t.stay = s.stay := by
  unfold readHome at e
  split at e
  · cases e
  · split at e
    · cases e
    · split at e
      · next hr =>
        split at e
        · cases e
        · next hp =>
          cases e
          rw [hk, usePass_stay, passTag_stay hp, readAt_stay hr]
      · next r hr hne => exact absurd e (hne _ _)

theorem readPlace_stay {unit : Nat} {c : CoreId} {scope policy pa n : Nat} {bs : List Byte}
    (e : s.readPlace unit c scope policy pa n = .ok bs t) : t.stay = s.stay := by
  unfold readPlace at e
  split at e
  · cases e
  · dsimp only at e
    split at e
    · cases e
      rfl
    · cases e
      rfl
    · split at e
      · cases e
      · cases e
      · next hr =>
        split at e
        · split at e
          · cases e
          · refine (readHome_stay (fun u => ?_) e).trans (reach_stay hr)
            split <;> simp
        · refine (readHome_stay (fun u => ?_) e).trans (reach_stay hr)
          split <;> simp

theorem readVirtual_stay {unit : Nat} {c : CoreId} {scope fuel : Nat} : ∀ {s t : State} {va n : Nat} {bs : List Byte},
    s.readVirtual unit c scope va n fuel = .ok bs t → t.stay = s.stay := by
  induction fuel with
  | zero =>
    intro s t va n bs e
    cases e
    rfl
  | succ fuel ih =>
    intro s t va n bs e
    unfold readVirtual at e
    split at e
    · cases e
      rfl
    · split at e
      · cases e
      · split at e
        · cases e
        · cases e
        · next ht =>
          split at e
          · cases e
          · dsimp only at e
            split at e
            · next hp =>
              split at e
              · next hv =>
                cases e
                exact (ih hv).trans ((readPlace_stay hp).trans (translate_stay ht))
              · next r hne => exact absurd e (hne _ _)
            · cases e
            · cases e
            · cases e

theorem fetchLanes_stay {c : CoreId} {d : List Byte} {base : DWord} {ls : List Nat} : ∀ {s t : State} {v w : Lanes} {bad m : Mask},
    s.fetchLanes c d base ls v bad = some (w, m, t) → t.stay = s.stay := by
  induction ls with
  | nil =>
    intro s t v w bad m e
    cases e
    rfl
  | cons l ls ih =>
    intro s t v w bad m e
    unfold fetchLanes at e
    dsimp only at e
    split at e
    · next hr => exact (ih e).trans (readVirtual_stay hr)
    · cases e
    · exact ih e

end State

end Sys2Proof.Machine
end

section
/-! PROOFS. The fill of registers and of miss slots (R66, R173, R200, R344, R349). -/

open Sys2Proof Sys2Proof.Machine

namespace Sys2Proof.Machine

/-! REGISTER_FILL (R173). -/

/-- What a fill writes to the k-th destination r of a flight. -/
def Flight.filledReg (f : Flight) (w : Warp) (k r : Nat) : VReg :=
  { lanes := mergeLanes (maskOf fun l => (tget? f.got l).isSome) (w.vreg r).lanes
      (lanesOf fun l => (tget f.got l 0).extractLsb' (32 * k) 32)
    full := true
    poison := if f.bad.isSome then f.bad else (w.vreg r).poison }

theorem lane_filledReg (f : Flight) (w : Warp) (k r l : Nat) (hl : l < 32) : lane (f.filledReg w k r).lanes l =
    ((tget? f.got l).map (·.extractLsb' (32 * k) 32)).getD (lane (w.vreg r).lanes l) := by
  rw [Flight.filledReg, lane_mergeLanes _ _ _ l hl, maskOf_getLsbD _ l hl, lane_lanesOf _ l hl, tget]
  cases tget? f.got l <;> rfl

theorem fillFlight_one {w : Warp} {f : Flight} {d : Nat} (h : f.dest = [d]) : fillFlight w f = w.setV d (f.filledReg w 0 d) := by
  unfold fillFlight Flight.filledReg
  rw [h]
  cases f.bad <;> rfl

theorem fillFlight_two {w : Warp} {f : Flight} {d : Nat} (h : f.dest = [d, d + 1]) :
    fillFlight w f = (w.setV d (f.filledReg w 0 d)).setV (d + 1) (f.filledReg w 1 (d + 1)) := by
  have hv : ∀ v : VReg, (w.setV d v).vreg (d + 1) = w.vreg (d + 1) := fun v => by rw [Warp.vreg_setV, if_neg (by omega)]
  unfold fillFlight Flight.filledReg
  rw [h]
  dsimp only
  rw [hv]
  cases f.bad <;> rfl

section
variable {w : Warp} {f : Flight} {d : Nat} (h : f.dest = [d] ∨ f.dest = [d, d + 1])
include h

theorem vreg_fillFlight {k r : Nat} (hr : f.dest[k]? = some r) : (fillFlight w f).vreg r = f.filledReg w k r := by
  rcases h with h | h <;> rw [h] at hr
  · match k, hr with
    | 0, rfl => rw [fillFlight_one h, Warp.vreg_setV, if_pos rfl]
  · match k, hr with
    | 0, rfl => rw [fillFlight_two h, Warp.vreg_setV, if_neg (by omega), Warp.vreg_setV, if_pos rfl]
    | 1, rfl => rw [fillFlight_two h, Warp.vreg_setV, if_pos rfl]

theorem vreg_fillFlight_ne {r : Nat} (hr : r ∉ f.dest) : (fillFlight w f).vreg r = w.vreg r := by
  rcases h with h | h <;> rw [h] at hr <;> simp only [List.mem_cons, List.not_mem_nil, or_false, not_or] at hr
  · rw [fillFlight_one h, Warp.vreg_setV, if_neg (Ne.symm hr)]
  · rw [fillFlight_two h, Warp.vreg_setV, if_neg (Ne.symm hr.2), Warp.vreg_setV, if_neg (Ne.symm hr.1)]

end

namespace State

variable {s t u : State} {w : WarpId} {id l : Nat} {f : Flight}

theorem updWarp_others (s : State) (w : WarpId) (g : Warp → Warp) : OtherWarps s (s.updWarp w g) w := by
  intro v hv
  unfold updWarp
  split
  · exact warp?_setWarp_ne _ _ _ _ hv
  · rfl

theorem others_trans (h : OtherWarps s t w) (h' : OtherWarps t u w) : OtherWarps s u w :=
  fun v hv => (h' v hv).trans (h v hv)

theorem others_of_warps (h : t.warps = s.warps) (w : WarpId) : OtherWarps s t w := fun v _ => by rw [warp?, warp?, h]

theorem flight?_eq {v : Warp} (h : s.warp? w = some v) (id : Nat) : s.flight? w id = v.flight? id := by rw [flight?, h, Option.bind_some]

theorem yields_registerFill {v : Warp} {d : Nat} (hw : s.warp? s.arg.w = some v) (hf : v.flight? s.arg.i = some f) (hdone : f.done = true)
    (hd : f.dest = [d] ∨ f.dest = [d, d + 1]) :
    Yields .registerFill s fun t => SameMem s t ∧ OtherWarps s t s.arg.w ∧ ∃ u, t.warp? s.arg.w = some u ∧
      u.flights = v.flights.filter (·.id != f.id) ∧ (∀ r, r ∉ f.dest → u.vreg r = v.vreg r) ∧
      ∀ k r, f.dest[k]? = some r → u.vreg r = f.filledReg v k r := by
  refine Yields.of_exec (t := s.updWarp s.arg.w fun w => { fillFlight w f with flights := w.flights.filter (·.id != f.id) }) ?_
    ⟨fun a => by rw [updWarp_mem], updWarp_others _ _ _, _, warp?_updWarp_self hw _, rfl, fun r hr => vreg_fillFlight_ne hd hr,
      fun k r hr => vreg_fillFlight hd hr⟩
  show execRegisterFill s = _
  unfold execRegisterFill
  dsimp only
  rw [flight?_eq hw, hf]
  simp only [hdone, if_true]

/-! MISS_SLOT_FILL of a scratchpad access with one lane (R66, R200, R344, R349). -/

theorem endFlight_of_done (h : s.flight? w id = some f) (hd : f.done = true) : s.endFlight w id = s := by
  unfold endFlight
  rw [h]
  simp [hd]

theorem endFlight_of_gone (h : s.flight? w id = none) : s.endFlight w id = s := by
  unfold endFlight
  rw [h]

theorem again_of_done (h : s.flight? w id = some f) (hd : f.done = true) : s.again w id = s := by
  unfold again
  rw [h]
  simp [hd]

theorem again_of_gone (h : s.flight? w id = none) : s.again w id = s := by
  unfold again
  rw [h]

theorem dropTags_others (s : State) (w : WarpId) (id : Nat) : OtherWarps s (s.dropTags w id) w := by
  unfold dropTags
  split
  · split
    · exact fun _ _ => rfl
    · exact others_trans (updWarp_others _ _ _)
        (others_of_warps (foldl_keeps warps _ (fun s n => freeTagNow_warps s w.core n) _ _) w)
  · exact fun _ _ => rfl

/-- No lane of a flight waits to be performed. -/
def Idle (s : State) (w : WarpId) (id : Nat) : Prop := ∀ f, s.flight? w id = some f → f.waiting = 0

theorem performLanes_of_idle (h : s.Idle w id) (o : MemOp) (ls : List Nat) : s.performLanes w id o ls = s := by
  induction ls with
  | nil => rfl
  | cons l ls ih =>
    unfold performLanes
    split
    · next hf =>
      rw [h _ hf]
      simpa using ih
    · rfl

/-- Of lanes of which one alone waits, that one is performed. -/
theorem performLanes_one {v : Warp} {o : MemOp} (hw : s.warp? w = some v) (hf : s.flight? w id = some f)
    (hwait : ∀ m, f.waiting.getLsbD m = decide (m = l)) (hfree : laneFree v o f l = true) (hspace : o.space = .scratch)
    (hidle : (s.performScratch w v f o l).Idle w id) (ls : List Nat) (hl : l ∈ ls) :
    s.performLanes w id o ls = s.performScratch w v f o l := by
  induction ls with
  | nil => cases hl
  | cons m ls ih =>
    unfold performLanes
    rw [hw, hf]
    dsimp only
    rw [hwait, hspace]
    by_cases hm : m = l
    · subst hm
      simp only [hfree, decide_true, Bool.not_true, Bool.or_self, Bool.false_eq_true, if_false]
      exact performLanes_of_idle hidle o ls
    · simp only [hm, decide_false, Bool.not_false, Bool.true_or, if_true]
      exact ih ((List.mem_cons.mp hl).resolve_left (Ne.symm hm))

/-! A run in a scratchpad. -/

theorem scratchPut_warps (bs : List Byte) : ∀ (s : State) (b : Block) (o : Nat), (s.scratchPut b o bs).warps = s.warps := by
  induction bs with
  | nil => exact fun s b o => rfl
  | cons x bs ih => exact fun s b o => ih _ _ _

theorem scratchBytes_congr {b : Block} {n : Nat} (h : t.mem = s.mem) : ∀ o, t.scratchBytes b o n = s.scratchBytes b o n := by
  induction n with
  | zero => exact fun o => rfl
  | succ n ih =>
    intro o
    rw [scratchBytes, scratchBytes, scratchByte, scratchByte, h, ih]

/-- Bytes of one granule of a grant are bytes of the array one after another (R194). -/
theorem arrayKey_inj_of_granule {b : Block} {o p : Nat} (hg : o / 2 ^ 14 = p / 2 ^ 14)
    (h : arrayKey b.core (b.arrayByte o) = arrayKey b.core (b.arrayByte p)) : o = p := by
  unfold arrayKey Block.arrayByte at h
  rw [hg] at h
  omega

/-- A run written into one granule reads back. -/
theorem scratchBytes_scratchPut (bs : List Byte) : ∀ (s : State) (b : Block) (o : Nat), s.mem.wf = true →
    (∀ j, j < bs.length → (o + j) / 2 ^ 14 = o / 2 ^ 14) → (s.scratchPut b o bs).scratchBytes b o bs.length = bs := by
  induction bs with
  | nil => exact fun s b o _ _ => rfl
  | cons x bs ih =>
    intro s b o h hg
    have hw := Memory.write_wf s.mem (arrayKey b.core (b.arrayByte o)) x h
    rw [scratchPut, List.length_cons, scratchBytes]
    congr 1
    · rw [scratchByte, scratchPut_read _ _ _ _ _ hw fun j hj he => ?_]
      · exact Memory.read_write_self _ _ _ h
      · have hj' := hg (j + 1) (by rw [List.length_cons]; omega)
        have := arrayKey_inj_of_granule (by omega) he
        omega
    · refine ih _ _ _ hw fun j hj => ?_
      have hj' := hg (j + 1) (by rw [List.length_cons]; omega)
      have h1 := hg 1 (by rw [List.length_cons]; omega)
      omega

/-! The numbers of a warp's instructions in flight. -/

def flightIds (s : State) (w : WarpId) : Option (List Nat) := (s.warp? w).map fun v => v.flights.map (·.id)

theorem flightIds_of_warps (h : t.warps = s.warps) (w : WarpId) : t.flightIds w = s.flightIds w := by
  rw [flightIds, flightIds, warp?, warp?, h]

theorem updFlight_flightIds (s : State) (w : WarpId) (id : Nat) (g : Flight → Flight) (hg : ∀ x, (g x).id = x.id) :
    (s.updFlight w id g).flightIds w = s.flightIds w := by
  cases hv : s.warp? w with
  | none => simp [flightIds, updFlight, updWarp, hv]
  | some v =>
    rw [flightIds, updFlight, warp?_updWarp_self hv, flightIds, hv]
    simp only [Option.map_some, Warp.updFlight, List.map_map, Option.some.injEq]
    refine List.map_congr_left fun x _ => ?_
    simp only [Function.comp]
    split
    · exact hg x
    · rfl

theorem dropTags_flightIds (s : State) (w : WarpId) (id : Nat) : (s.dropTags w id).flightIds w = s.flightIds w := by
  unfold dropTags
  split
  · split
    · rfl
    · rw [flightIds_of_warps (foldl_keeps warps _ (fun s n => freeTagNow_warps s w.core n) _ _)]
      exact updFlight_flightIds _ _ _ _ fun _ => rfl
  · rfl

/-! The one lane of a scratchpad access. -/

section
variable {v : Warp} {o : MemOp}

theorem getLsbD_lane (hl : l < 32) (m : Nat) : ((1 : Mask) <<< l).getLsbD m = decide (m = l) := by
  rw [show (1 : Mask) = 1#32 from rfl, BitVec.getLsbD_shiftLeft, BitVec.getLsbD_one]
  by_cases h : m = l
  · simp [h, hl]
  · simp [h]
    omega

/-- An access to the scratchpad of which one lane is left, that waits to be performed; nothing else of its warp is in flight. -/
structure Waits (s : State) (w : WarpId) (id l : Nat) (v : Warp) (f : Flight) : Prop where
  warp : s.warp? w = some v
  flights : v.flights = [f]
  number : f.id = id
  waiting : f.waiting = (1 : Mask) <<< l
  low : l < 32
  remaining : f.remaining = 0
  sent : f.sent = 0
  deps : f.deps = []
  running : f.done = false
  sound : f.fault = none
  order : f.order = 0

theorem Waits.found (k : s.Waits w id l v f) : s.flight? w id = some f := by
  rw [flight?_eq k.warp, Warp.flight?, k.flights]
  simp [k.number]

theorem Waits.unperformed (k : s.Waits w id l v f) : f.unperformed = (1 : Mask) <<< l := by
  simp [Flight.unperformed, k.remaining, k.sent, k.waiting]

theorem Waits.answered_unperformed (k : s.Waits w id l v f) (r : Option DWord) : (f.answered l r).unperformed = 0 := by
  simp [Flight.answered, Flight.unperformed, k.sent, k.remaining, k.waiting]

theorem Waits.laneFree (k : s.Waits w id l v f) : laneFree v o f l = true := by
  have hlow : ∀ m ∈ activeLanes f.unperformed, m = l := by
    intro m hm
    rw [k.unperformed, activeLanes, List.mem_filter, getLsbD_lane k.low] at hm
    exact of_decide_eq_true hm.2
  have hclash : ((activeLanes f.unperformed).any fun m => decide (m < l) && lanesClash o f l m) = false :=
    List.any_eq_false.2 fun m hm => by simp [hlow m hm]
  simp [Machine.laneFree, k.flights, hclash]

/-- The access advances by performing its lane. -/
theorem Waits.advanceMem (k : s.Waits w id l v f) (hspace : o.space = .scratch) (hidle : (s.performScratch w v f o l).Idle w id) :
    s.advanceMem w id o = s.performScratch w v f o l := by
  have hnone : f.waiting ≠ 0 := fun h => by
    have := getLsbD_lane k.low l
    rw [← k.waiting, h] at this
    simp at this
  have hrel : releases f = false := by simp [releases, hasRelease, k.order]
  unfold State.advanceMem
  rw [k.warp, k.found]
  simp only [hspace, reduceCtorEq, if_false, k.warp, k.found, k.sound, hnone, depsMet, k.deps, hrel, k.order]
  simp only [turnLanes, hspace]
  exact performLanes_one k.warp k.found (fun m => by rw [k.waiting, getLsbD_lane k.low]) k.laneFree hspace hidle laneNums
    ((mem_laneNums l).2 k.low)

/-- A flight of a warp's one lane ends: what it leaves of memory and of the other warps. -/
theorem laneDone_others {u : State} (hu : u.flight? w id = some f) (hdone : f.done = false) (hfault : f.fault = none) (hord : f.order = 0)
    {r : Option DWord} (hleft : (f.answered l r).unperformed = 0) : OtherWarps u (u.laneDone w id l r) w := by
  have ha : (u.updFlight w id (·.answered l r)).flight? w id = some (f.answered l r) := flight?_updFlight_self hu _ fun _ => rfl
  rw [laneDone_eq]
  refine others_trans (t := u.updFlight w id (·.answered l r)) (updWarp_others _ _ _) ?_
  by_cases hdest : f.dest = []
  · rw [endFlight_goes ha hdone hfault hleft hord hdest]
    exact others_trans (dropTags_others _ _ _) (updWarp_others _ _ _)
  · rw [endFlight_fills ha hdone hfault hleft hord hdest]
    exact others_trans (others_trans (dropTags_others _ _ _) (updWarp_others _ _ _)) (others_of_warps (postOnce_warps ..) w)

/-- A store's lane was all that its warp had in flight. -/
theorem laneDone_flights {u : State} (hwarps : u.warps = s.warps) (k : s.Waits w id l v f) (hdest : f.dest = []) :
    ∃ v', (u.laneDone w id l none).warp? w = some v' ∧ v'.flights = [] := by
  have ha : (u.updFlight w id (·.answered l none)).flight? w id = some (f.answered l none) :=
    flight?_updFlight_self ((flight?_of_warps hwarps ..).trans k.found) _ fun _ => rfl
  have hids : ((u.updFlight w id (·.answered l none)).dropTags w id).flightIds w = some [id] := by
    rw [dropTags_flightIds, updFlight_flightIds u w id (·.answered l none) fun _ => rfl, flightIds_of_warps hwarps, flightIds, k.warp]
    simp [k.flights, k.number]
  obtain ⟨x, hx, hxs⟩ := Option.map_eq_some_iff.mp hids
  rw [laneDone_eq, endFlight_goes ha k.running k.sound (k.answered_unperformed none) k.order hdest]
  refine ⟨_, warp?_updWarp_self hx _, List.filter_eq_nil_iff.mpr fun g hg => ?_⟩
  have hid : g.id ∈ x.flights.map (·.id) := List.mem_map_of_mem hg
  rw [hxs, List.mem_singleton] at hid
  simp [hid]

theorem missSlotFill_exec {m : Mm} {e : Option Xm} (k : s.Waits s.arg.w s.arg.i l v f) (ho : memOf f.instr = some (o, m, e)) :
    exec .missSlotFill s =
      .next (((s.advanceMem s.arg.w s.arg.i o).endFlight s.arg.w s.arg.i).again s.arg.w s.arg.i) := by
  show execMissSlotFill s = _
  unfold execMissSlotFill
  dsimp only
  rw [k.found]
  simp only [k.running, k.sound, Option.isSome_none, Bool.or_self, Bool.false_eq_true, if_false, ho]

section
variable {b tb : Block} {t : BlockId} {off : Nat} (hb : s.block? v.block = some b) (htb : s.block? t = some tb)
include hb htb

theorem yields_missSlotFill_load {m : Mm} (k : s.Waits s.arg.w s.arg.i l v f)
    (hat : s.scratchAt v.block b (f.addrOf l) 4 = .at_ t off) (hi : f.instr = .ldl m) (hdest : f.dest ≠ []) :
    Yields .missSlotFill s fun u => SameMem s u ∧ OtherWarps s u s.arg.w ∧ (.registerFill, { w := s.arg.w, i := f.id }) ∈ u.inflight ∧
      ∃ g, u.flight? s.arg.w f.id = some g ∧ g.done = true ∧
        tget? g.got l = some (BitVec.ofNat 64 (leVal (s.scratchBytes tb off 4))) := by
  have hperf : s.performScratch s.arg.w v f { space := .scratch, kind := .load, minor := 0 } l =
      s.laneDone s.arg.w f.id l (some (BitVec.ofNat 64 (leVal (s.scratchBytes tb off 4)))) := by
    unfold performScratch
    rw [hb]
    dsimp only [MemOp.width, MemOp.wide]
    simp [hat, htb, MemOp.update, MemOp.returns, MemOp.loaded]
  generalize hr : BitVec.ofNat 64 (leVal (s.scratchBytes tb off 4)) = r at hperf ⊢
  rw [k.number] at hperf ⊢
  have ha : (s.updFlight s.arg.w s.arg.i (·.answered l (some r))).flight? s.arg.w s.arg.i = some (f.answered l (some r)) :=
    flight?_updFlight_self k.found _ fun _ => rfl
  have hleft := k.answered_unperformed (some r)
  have he : (s.laneDone s.arg.w s.arg.i l (some r)).flight? s.arg.w s.arg.i = some (f.answered l (some r)).ended :=
    flight?_endFlight ha k.running k.sound hleft k.order hdest
  have hidle : (s.performScratch s.arg.w v f { space := .scratch, kind := .load, minor := 0 } l).Idle s.arg.w s.arg.i := by
    intro g hg
    rw [hperf, he] at hg
    cases hg
    exact (BitVec.or_eq_zero_iff.mp (BitVec.or_eq_zero_iff.mp hleft).1).2
  refine Yields.of_exec (t := s.laneDone s.arg.w s.arg.i l (some r)) ?_
    ⟨fun a => by rw [mem_of_ground (laneDone_ground ..)], laneDone_others k.found k.running k.sound k.order hleft,
      mem_endFlight ha k.running k.sound hleft k.order hdest, _, he, rfl, tget?_tset_self ..⟩
  rw [missSlotFill_exec k (by rw [hi]; rfl), k.advanceMem rfl hidle, hperf, endFlight_of_done he rfl, again_of_done he rfl]

theorem yields_missSlotFill_store {m : Mm} (k : s.Waits s.arg.w s.arg.i l v f)
    (hat : s.scratchAt v.block b (f.addrOf l) 4 = .at_ t off) (hi : f.instr = .stl m) (hdest : f.dest = []) (hw : s.mem.wf = true)
    (hoff : off % 4 = 0) :
    Yields .missSlotFill s fun u => SameMemBut (tb.keys off 4) s u ∧ OtherWarps s u s.arg.w ∧
      (∃ v, u.warp? s.arg.w = some v ∧ v.flights = []) ∧ leVal (u.scratchBytes tb off 4) = (f.y.getD l 0).toNat % 2 ^ 32 := by
  generalize hbs : leBytes 4 (f.y.getD l 0).toNat = bs
  have hlen : bs.length = 4 := hbs ▸ leBytes_length 4 _
  have hwarps := scratchPut_warps bs s tb off
  have hperf : s.performScratch s.arg.w v f { space := .scratch, kind := .store, minor := 0 } l =
      (s.scratchPut tb off bs).laneDone s.arg.w s.arg.i l none := by
    unfold performScratch
    rw [hb]
    dsimp only [MemOp.width, MemOp.wide]
    simp [hat, htb, MemOp.update, MemOp.returns, MemOp.width, MemOp.wide, ← hbs, k.number]
  generalize hu : s.scratchPut tb off bs = u at hperf hwarps
  have hfound : u.flight? s.arg.w s.arg.i = some f := (flight?_of_warps hwarps ..).trans k.found
  have ha : (u.updFlight s.arg.w s.arg.i (·.answered l none)).flight? s.arg.w s.arg.i = some (f.answered l none) :=
    flight?_updFlight_self hfound _ fun _ => rfl
  have hleft := k.answered_unperformed none
  have hgone : (u.laneDone s.arg.w s.arg.i l none).flight? s.arg.w s.arg.i = none :=
    flight?_endFlight_none ha k.running k.sound hleft k.order hdest
  have hidle : (s.performScratch s.arg.w v f { space := .scratch, kind := .store, minor := 0 } l).Idle s.arg.w s.arg.i := by
    intro g hg
    rw [hperf, hgone] at hg
    cases hg
  have hmem : (u.laneDone s.arg.w s.arg.i l none).mem = u.mem := mem_of_ground (laneDone_ground ..)
  refine Yields.of_exec (t := u.laneDone s.arg.w s.arg.i l none) ?_ ⟨fun a ha => ?_,
    others_trans (others_of_warps hwarps _) (laneDone_others hfound k.running k.sound k.order hleft),
    laneDone_flights hwarps k hdest, ?_⟩
  · rw [missSlotFill_exec k (by rw [hi]; rfl), k.advanceMem rfl hidle, hperf, endFlight_of_gone hgone, again_of_gone hgone]
  · rw [hmem, ← hu]
    exact scratchPut_read _ _ _ _ _ hw fun j hj he => ha (List.mem_map.mpr ⟨j, List.mem_range.mpr (by omega), he⟩)
  · rw [scratchBytes_congr hmem, ← hlen, ← hu, scratchBytes_scratchPut bs s tb off hw fun j hj => by omega, ← hbs, leVal_leBytes]
    rfl

end

end

end State

end Sys2Proof.Machine
end

section
/-! PROOFS. The events of the walks, the walkers and the instruction cache (R67, R184, R299, R301, R428), and the obligation of the
fills (O40). -/

open Sys2Proof Sys2Proof.Machine

namespace Sys2Proof.Machine

/-- A warp whose walker k has become v. -/
def Warp.fetched (w : Warp) (k : Nat) (v : Walker) : Warp := { w with walkers := lput w.walkers k v default }

namespace State

variable {s : State}

/-! WALK_COMPLETE (R67). -/

/-- A walk that finds a translation leaves it in the die's TLB. -/
theorem mem_tlb_walkKeep {d : DieId} {va : Nat} {e : TlbEnt} (h : s.walk d va = .ok e) : e ∈ ((s.walkKeep d va).die d).tlb := by
  rcases hw : s.walkFrom d va with ⟨r, path, t⟩
  have hr : r = .ok e := by rw [walk, hw] at h; exact h
  unfold walkKeep
  rw [hw, hr]
  dsimp only
  rw [updDie_die_self]
  exact List.mem_cons_self ..

/-- What a walk's translation does for one miss slot that waits for it: its core's TLB and its flight take it, and the slot is
looked at. -/
def fillSlot (e : TlbEnt) (page : Nat) (s : State) (q : WarpId × Nat) : State :=
  let s := s.tlbFill q.1.core e
  (s.updFlight q.1 q.2 fun f =>
    let write := match memOf f.instr with
      | some (o, _, _) => o.writes
      | none => true
    s.slotFilled q.1 f page write (.ok e)).postOnce .missSlotFill { w := q.1, i := q.2 }

@[simp] theorem fillSlot_ground (e : TlbEnt) (page : Nat) (s : State) (q : WarpId × Nat) : (s.fillSlot e page q).ground = s.ground := by
  simp [fillSlot, tlbFill]

theorem mem_fillSlot (e : TlbEnt) (page : Nat) (s : State) (q : WarpId × Nat) :
    (.missSlotFill, { w := q.1, i := q.2 }) ∈ (s.fillSlot e page q).inflight := mem_postOnce ..

theorem mem_fillSlot_of_mem (e : TlbEnt) (page : Nat) {s : State} (q : WarpId × Nat) {x : Instr × Arg} (h : x ∈ s.inflight) :
    x ∈ (s.fillSlot e page q).inflight :=
  mem_postOnce_of_mem _ _ (by rw [updFlight, updWarp_inflight]; exact h)

theorem mem_fillSlots_of_mem (e : TlbEnt) (page : Nat) {x : Instr × Arg} (on : List (WarpId × Nat)) :
    ∀ s : State, x ∈ s.inflight → x ∈ (on.foldl (fillSlot e page) s).inflight := by
  induction on with
  | nil => exact fun s h => h
  | cons q on ih => exact fun s h => ih _ (mem_fillSlot_of_mem e page q h)

/-- Each slot that waits for the walk is looked at. -/
theorem mem_fillSlots (e : TlbEnt) (page : Nat) {q : WarpId × Nat} (on : List (WarpId × Nat)) (hq : q ∈ on) :
    ∀ s : State, (.missSlotFill, { w := q.1, i := q.2 }) ∈ (on.foldl (fillSlot e page) s).inflight := by
  induction on with
  | nil => cases hq
  | cons p on ih =>
    intro s
    rcases List.mem_cons.mp hq with rfl | hq
    · exact mem_fillSlots_of_mem e page on _ (mem_fillSlot ..)
    · exact ih hq _

/-- The state in which a walk is over and the next one that waited for a walker goes on. -/
def walkOver (s : State) (d : DieId) (page : Nat) : State :=
  let s := (s.walkKeep d (page * 2 ^ 16)).updDie d fun k => { k with walks := tdel k.walks page }
  match (s.die d).walks[63]? with
  | some x => s.postOnce .walkComplete { d := d, n := x.1 }
  | none => s

theorem walkOver_ground (s : State) (d : DieId) (page : Nat) : (s.walkOver d page).ground =
    ((s.walkKeep d (page * 2 ^ 16)).updDie d fun k => { k with walks := tdel k.walks page }).ground := by
  unfold walkOver
  dsimp only
  split
  · exact postOnce_ground ..
  · rfl

theorem walkComplete_exec {e : TlbEnt} (hruns : walkRuns (s.die s.arg.d) s.arg.n = true)
    (hwalk : s.walk s.arg.d (s.arg.n * 2 ^ 16) = .ok e) : exec .walkComplete s =
      .next ((tget (s.die s.arg.d).walks s.arg.n []).foldl (fillSlot e s.arg.n) (s.walkOver s.arg.d s.arg.n)) := by
  show execWalkComplete s = _
  unfold execWalkComplete
  dsimp only
  rw [hruns, hwalk]
  rfl

theorem yields_walkComplete {e : TlbEnt} (hruns : walkRuns (s.die s.arg.d) s.arg.n = true)
    (hwalk : s.walk s.arg.d (s.arg.n * 2 ^ 16) = .ok e) : Yields .walkComplete s fun t => SameMem s t ∧
      tget? (t.die s.arg.d).walks s.arg.n = none ∧ e ∈ (t.die s.arg.d).tlb ∧
      ∀ q, q ∈ tget (s.die s.arg.d).walks s.arg.n [] → (.missSlotFill, { w := q.1, i := q.2 }) ∈ t.inflight := by
  refine Yields.of_exec (walkComplete_exec hruns hwalk) ?_
  have hg := (foldl_keeps ground _ (fillSlot_ground e s.arg.n) (tget (s.die s.arg.d).walks s.arg.n []) _).trans
    (walkOver_ground s s.arg.d s.arg.n)
  have hd := die_of_ground hg s.arg.d
  rw [updDie_die_self] at hd
  refine ⟨fun a => ?_, ?_, ?_, fun q hq => mem_fillSlots _ _ _ hq _⟩
  · rw [mem_of_ground hg]
    exact sameMem_of_stay (walkKeep_stay s s.arg.d (s.arg.n * 2 ^ 16)) a
  · rw [hd]
    exact tget?_tdel_self ..
  · rw [hd]
    exact mem_tlb_walkKeep hwalk

/-! WALKER_FETCH (R184). -/

theorem yields_walkerFetch {w : Warp} {p : Nat × Nat × Nat} {base : DWord} {lanes : Lanes} {bad : Mask} {s' : State}
    (hw : s.warp? s.arg.w = some w) (hp : aheadOf (w.walker s.arg.n).desc ((w.walker s.arg.n).i0, (w.walker s.arg.n).i1,
      (w.walker s.arg.n).i2) (w.walker s.arg.n).pre.length = p) (hbase : walkAddr (w.walker s.arg.n).desc p.1 p.2.1 p.2.2 = base)
    (hbound : (w.walker s.arg.n).bound ≠ 0) (hin : walkOutput (w.walker s.arg.n).desc = false)
    (hroom : (w.walker s.arg.n).pre.length < 4) (hfree : ∀ b d, Held.walk s.arg.n b d ∉ w.a.held ++ w.b.held)
    (hf : s.fetchLanes s.arg.w.core (w.walker s.arg.n).desc base laneNums [] 0 = some (lanes, bad, s')) :
    Yields .walkerFetch s fun t => SameMem s t ∧ OtherWarps s t s.arg.w ∧ ∃ u, t.warp? s.arg.w = some u ∧
      u.walker s.arg.n = { w.walker s.arg.n with pre := (w.walker s.arg.n).pre ++ [{ lanes := lanes, bad := bad, base := base }] } := by
  have hheld : ((w.a.held ++ w.b.held).any fun h => match h with
      | .walk i _ _ => i == s.arg.n
      | _ => false) = false := by
    refine List.any_eq_false.mpr fun h hh => ?_
    split
    · next i b d =>
      intro he
      rw [beq_iff_eq.mp he] at hh
      exact hfree _ _ hh
    · exact Bool.false_ne_true
  have hstay := fetchLanes_stay hf
  obtain ⟨x, hx⟩ : ∃ x : Walker, x =
      { w.walker s.arg.n with pre := (w.walker s.arg.n).pre ++ [{ lanes := lanes, bad := bad, base := base }] } := ⟨_, rfl⟩
  rw [← hx]
  have hexec : exec .walkerFetch s = .next (let t := s'.updWarp s.arg.w (·.fetched s.arg.n x)
      if (w.walker s.arg.n).pre.length < 3 then t.postOnce .walkerFetch t.arg else t) := by
    show execWalkerFetch s = _
    unfold execWalkerFetch
    dsimp only
    rw [hw]
    refine congrArg Host.Outcome.next ((if_neg (ne_true_of_eq_false hheld)).trans ((if_neg ?_).trans ?_))
    · simp only [hbound, hin, decide_false, Bool.or_self, Bool.false_or, decide_eq_true_eq]
      omega
    · rw [hp, hbase, hf, hx]
      rfl
  refine Yields.of_exec hexec ?_
  have ht := warp?_updWarp_self ((warp?_of_stay hstay s.arg.w).trans hw) (·.fetched s.arg.n x)
  have hothers := updWarp_others s' s.arg.w (·.fetched s.arg.n x)
  have hmem : SameMem s (s'.updWarp s.arg.w (·.fetched s.arg.n x)) :=
    fun a => by rw [updWarp_mem]; exact sameMem_of_stay hstay a
  generalize s'.updWarp s.arg.w _ = t at ht hothers hmem ⊢
  have hothers := others_trans (others_of_warps (warps_of_stay hstay) _) hothers
  dsimp only
  split
  · have hpost := postOnce_stay t .walkerFetch t.arg
    exact ⟨fun a => (sameMem_of_stay hpost a).trans (hmem a), others_trans hothers (others_of_warps (warps_of_stay hpost) _), _,
      (warp?_of_stay hpost _).trans ht, getD_lput_self ..⟩
  · exact ⟨hmem, hothers, _, ht, getD_lput_self ..⟩

/-! IFETCH_FILL (R299, R301, R428). -/

theorem yields_ifetchFill_far {h : Home} {c : CoreId × Nat × Nat} {cs : List (CoreId × Nat × Nat)} {t : State}
    (hh : s.homeAt s.arg.d (s.arg.n * 128) = some h) (hfar : h.pkg ≠ s.arg.d.pkg)
    (hon : tget (s.die s.arg.d).attached s.arg.n [] = c :: cs)
    (hask : (s.cores.any fun k => k.1.dieId == s.arg.d && k.2.tags.any fun t => t.2.held && !t.2.stale && t.2.use == .ifetch s.arg.n) =
      false) (ht : s.lineRequest c.1 h 1 (s.arg.n * 128) (.ifetch s.arg.n) = some t) : exec .ifetchFill s = .next t := by
  show execIfetchFill s = _
  unfold execIfetchFill
  dsimp only
  rw [hh, hon]
  simp only [bne_iff_ne.mpr hfar, if_true, List.map_cons, hask, Bool.false_eq_true, if_false, ht, Option.getD_some]

theorem tget?_waysPut_self {α : Type} (sets ways : Nat) (t : Tab Nat α) (k : Nat) (v : α) : tget? (waysPut sets ways t k v) k = some v :=
  if_pos rfl

theorem core_updCore_self (s : State) (c : CoreId) (g : Core → Core) : (s.updCore c g).core c = g (s.core c) := by
  rw [updCore, core_setCore, if_pos rfl]

/-- A line stays in a core's cache while it is given to others. -/
theorem icachePut_keeps {c d : CoreId} {n : Nat} {l : CodeLine} (h : tget? (s.core c).icache n = some l) :
    tget? ((s.icachePut d n l).core c).icache n = some l := by
  rw [icachePut, updCore, core_setCore]
  split
  · exact tget?_waysPut_self ..
  · exact h

theorem icachePuts_keep {c : CoreId} {n : Nat} {l : CodeLine} (on : List (CoreId × Nat × Nat)) :
    ∀ s : State, tget? (s.core c).icache n = some l →
      tget? ((on.foldl (fun s x => s.icachePut x.1 n l) s).core c).icache n = some l := by
  induction on with
  | nil => exact fun s h => h
  | cons x on ih => exact fun s h => ih _ (icachePut_keeps h)

theorem icachePuts_fill {x : CoreId × Nat × Nat} {n : Nat} {l : CodeLine} (on : List (CoreId × Nat × Nat)) (hx : x ∈ on) :
    ∀ s : State, tget? ((on.foldl (fun s x => s.icachePut x.1 n l) s).core x.1).icache n = some l := by
  induction on with
  | nil => cases hx
  | cons y on ih =>
    intro s
    rcases List.mem_cons.mp hx with rfl | hx
    · refine icachePuts_keep on _ ?_
      show tget? ((s.icachePut x.1 n l).core x.1).icache n = some l
      rw [icachePut, core_updCore_self]
      exact tget?_waysPut_self ..
    · exact ih hx _

@[simp] theorem icacheFill_stay (s : State) (d : DieId) (n : Nat) (line : List Byte) : (s.icacheFill d n line).stay = s.stay := by
  unfold icacheFill
  split
  · rfl
  · exact foldl_stay _ (fun _ _ => updCore_stay ..) _ _

/-- A core that waits for a line gets it, with the pages that the line is fetched through. -/
theorem icacheFill_fills {d : DieId} {n : Nat} (line : List Byte) {c : CoreId × Nat × Nat} (hc : c ∈ tget (s.die d).attached n []) :
    ∃ l, tget? ((s.icacheFill d n line).core c.1).icache n = some l ∧ l.data = line ∧ c.2 ∈ l.pages := by
  unfold icacheFill
  split
  · next h =>
    rw [h] at hc
    cases hc
  · exact ⟨_, icachePuts_fill _ hc _, rfl, List.mem_eraseDups.mpr (List.mem_map_of_mem hc)⟩

theorem yields_ifetchFill_near {h g : Home} {pa : Nat} {s' : State} (hh : s.homeAt s.arg.d (s.arg.n * 128) = some h)
    (hnear : h.pkg = s.arg.d.pkg) (hpin : s.pinHolder h = none)
    (hopen : ∀ c, c ∈ tget (s.die s.arg.d).attached s.arg.n [] → s.shut 0 c.1 h = false)
    (hr : s.reach s.arg.d (s.arg.n * 128) = .at_ g pa s') (hdie : (s'.die g.dieId).lost = false) (hgood : s'.isPoisoned g = false) :
    Yields .ifetchFill s fun t => SameMem s' t ∧ t.warps = s'.warps ∧ ∀ c, c ∈ tget (s.die s.arg.d).attached s.arg.n [] →
      ∃ l, tget? (t.core c.1).icache s.arg.n = some l ∧ l.data = s'.homeBytes g.dieId pa 128 ∧ c.2 ∈ l.pages := by
  have hany : (((tget (s.die s.arg.d).attached s.arg.n []).map (·.1)).any fun c => s.shut 0 c h) = false := by
    rw [List.any_map]
    exact List.any_eq_false.mpr fun c hc => by simp [hopen c hc]
  have hexec : exec .ifetchFill s = .next (s'.icacheFill s.arg.d s.arg.n (s'.homeBytes g.dieId pa 128)) := by
    show execIfetchFill s = _
    unfold execIfetchFill
    dsimp only
    rw [hh]
    simp only [hnear, bne_self_eq_false, Bool.false_eq_true, if_false, hpin, Option.isSome_none, hany, hr, hdie, hgood, Bool.or_self]
  have hfill := icacheFill_stay s' s.arg.d s.arg.n (s'.homeBytes g.dieId pa 128)
  refine Yields.of_exec hexec ⟨sameMem_of_stay hfill, warps_of_stay hfill, fun c hc => icacheFill_fills _ ?_⟩
  rwa [reach_attached hr]

end State

/-- Settles O40: each event of a fill, with what it reads and what it leaves. -/
theorem fillEvents : Obligations.FillEvents := by
  refine ⟨fun s w f d hw hf hdone hd => ?_, fun s w b f m l t off tb hw hfl hid hb hwait hl hrem hsent hdeps hdone hfault hord hat htb =>
    ?_, fun s e => State.yields_walkComplete, ?_, ?_⟩
  · obtain ⟨t, ht, hmem, hothers, v, hv, hfl, hrest, hfill⟩ := State.yields_registerFill hw hf hdone hd
    refine ⟨t, ht, hmem, hothers, v, hv, hfl, hrest, fun k r hr => ?_⟩
    rw [hfill k r hr]
    exact ⟨rfl, rfl, fun l hl => lane_filledReg f w k r l hl⟩
  · have k : s.Waits s.arg.w s.arg.i l w f := ⟨hw, hfl, hid, hwait, hl, hrem, hsent, hdeps, hdone, hfault, hord⟩
    exact ⟨fun d hi hd => State.yields_missSlotFill_load hb htb k hat hi (by simp [hd]),
      fun hi hd hwf hoff => State.yields_missSlotFill_store hb htb k hat hi hd hwf hoff⟩
  · intro s w lanes bad s' hw v p base hbound hin hroom hfree hf
    exact State.yields_walkerFetch hw rfl rfl hbound hin hroom hfree hf
  · intro s h hh on asked
    exact ⟨fun c cs t hfar hon hask ht => State.yields_ifetchFill_far hh hfar hon hask ht,
      fun hnear hpin hopen g pa s' hr hdie hgood => State.yields_ifetchFill_near hh hnear hpin hopen hr hdie hgood⟩

end Sys2Proof.Machine
end

section
/-! PROOFS. The issue of an instruction in flight (R44, R170, R252): the tags that it takes, and what it leaves. -/

open Sys2Proof Sys2Proof.Machine

namespace Sys2Proof.Machine

/-! Behind the issue of a word, with an event that is due (R168, R171). -/

/-- An instruction whose meaning advances past it and leaves an event due completes. -/
theorem completesWith_of_advance_post {i : Instr} {s s1 : State} {x : Site} {n : Nat} {w : Warp} {target : Option DWord}
    (l : List (Instr × Arg)) (j : Instr) (a : Arg)
    (he : exec i s = .next ((({ s1 with inflight := s1.inflight ++ l } : State).advanceTo x n w target).post j a))
    (hs : w.slot x.sel = x.sl) (hj : w.j = x.w.j) :
    CompletesWith i s s1 x n target (commitHeld w x.sel) [] [] [] fun t _ => (j, a) ∈ t.inflight := by
  obtain ⟨u, hu, ht, v, hv, hc⟩ := advanceTo_spec { s1 with inflight := s1.inflight ++ l } x n w target
  refine ⟨_, u, he, ?_, hu, advanceTo_moves _ x n w target (by rw [hs]) (by rw [hs]) (by rw [hs]) hj u hu, ?_,
    List.mem_append_right _ (List.mem_singleton.mpr rfl)⟩
  · obtain ⟨h1, h2, h3, h4, h5, h6, h7, h8, h9, h10, h11, h12, h13, h14, ⟨m, h15⟩, h16⟩ := ht
    exact ⟨h1, h2, h3, h4, h5, h6, h7, h8, h9, h10, h11, h12, h13, h14, ⟨l ++ m ++ [(j, a)], by simp [State.post, h15]⟩, h16⟩
  · rcases hc with hc | hc <;> rw [hc]
    · exact (AgreeBut.refl _).light_right hv
    · exact ((AgreeBut.refl _).light_right hv).exit

/-! An instruction in flight takes its destinations and no more (R173). -/

theorem takeDests_slot (act : Mask) (ds : List Nat) (w : Warp) (y : PcSel) :
    (ds.foldl (takeDest act) w).slot y = w.slot y ∧ (ds.foldl (takeDest act) w).j = w.j := by
  induction ds generalizing w with
  | nil => exact ⟨rfl, rfl⟩
  | cons d ds ih => exact ⟨(ih _).1.trans (by cases y <;> rfl), (ih _).2.trans rfl⟩

theorem addFlight_slot (w : Warp) (f : Flight) (y : PcSel) : (addFlight w f).slot y = w.slot y :=
  Eq.trans (by cases y <;> rfl) (takeDests_slot f.active f.dest w y).1

theorem addFlight_j (w : Warp) (f : Flight) : (addFlight w f).j = w.j := (takeDests_slot f.active f.dest w .a).2

/-- A counted instruction issues with its tags taken, its sources read and its first look due (R44, R245, R252). -/
theorem completesWith_of_launchFlight {i : Instr} {s : State} {x : Site} {n k : Nat} {f : Flight} {rs : List Nat}
    (hx : s.siteOf = some x) (he : exec i s = s.launchFlight x n f rs k) :
    CompletesWith i s (s.allocTags x.core k).2 x n none
      (commitHeld (addFlight (x.stepped rs) { f with deps := depsOf x.w f, tags := (s.allocTags x.core k).1 }) x.sel)
      [] [] [] fun t _ => (.missSlotFill, { w := x.wid, i := f.id }) ∈ t.inflight := by
  obtain ⟨l, hl⟩ := stepInputs_spec (s.allocTags x.core k).2 x rs
  refine completesWith_of_advance_post l .missSlotFill { w := x.wid, i := f.id } ?_ ?_ ?_
  · rw [he, State.launchFlight]
    dsimp only
    rw [hl]
    rfl
  · rw [addFlight_slot, stepped_slot x rs (siteOf_spec hx).2.2.1]
  · rw [addFlight_j]
    exact (stepWalkers_spec _ _).2.2

/-! Tags (R44). -/

namespace State

/-- Whether an architectural tag is free (R44). -/
def isFree (s : State) (c : CoreId) (n : Nat) : Bool := !(s.tag c n).held && !(s.tag c n).quarantine

theorem freeTag_eq_none {s : State} {c : CoreId} (h : s.freeTag c = none) : s.freeTags c = 0 := by
  have hn : (List.range 256).filter (s.isFree c) = [] := by
    rw [List.filter_eq_nil_iff]
    exact fun n hn => List.find?_eq_none.mp h n hn
  exact congrArg List.length hn

theorem isFree_allocTag (s : State) (c : CoreId) (n m : Nat) :
    (s.allocTag c n).isFree c m = (s.isFree c m && m != n) := by
  unfold isFree allocTag
  rw [tag_setTag]
  by_cases h : m = n
  · simp [h]
  · simp [h]

/-- A tag that is taken is one free tag fewer. -/
theorem freeTags_allocTag {s : State} {c : CoreId} {n : Nat} (h : s.freeTag c = some n) :
    (s.allocTag c n).freeTags c = s.freeTags c - 1 := by
  have hfree : s.isFree c n = true := List.find?_some h
  have hmem : n ∈ (List.range 256).filter (s.isFree c) := List.mem_filter.mpr ⟨List.mem_of_find?_eq_some h, hfree⟩
  have hleft : (List.range 256).filter ((s.allocTag c n).isFree c) = ((List.range 256).filter (s.isFree c)).erase n := by
    rw [(List.nodup_range.filter _).erase_eq_filter, List.filter_filter]
    exact List.filter_congr fun m _ => (isFree_allocTag s c n m).trans (Bool.and_comm ..)
  calc (s.allocTag c n).freeTags c = (((List.range 256).filter (s.isFree c)).erase n).length := congrArg List.length hleft
    _ = s.freeTags c - 1 := List.length_erase_of_mem hmem

/-- As many tags are taken as there are free ones for. -/
theorem length_allocTags {c : CoreId} {k : Nat} : ∀ {s : State}, k ≤ s.freeTags c → (s.allocTags c k).1.length = k := by
  induction k with
  | zero => exact fun _ => rfl
  | succ k ih =>
    intro s hk
    unfold allocTags
    split
    · next h =>
      rw [freeTag_eq_none h] at hk
      cases hk
    · next n h =>
      rw [List.length_cons, ih]
      rw [freeTags_allocTag h]
      omega

end State

end Sys2Proof.Machine
end

section
/-! PROOFS. The issue of lane-by-lane memory instructions (R44, R66, R170, R245, R252, R343-R347), and their obligation (O18). -/

open Sys2Proof Sys2Proof.Machine

namespace Sys2Proof.Machine

/-! What an access reads, writes and captures (R252, R282, R343, R352). -/

def memOff (m : Mm) : List Nat := pairOf m.pair m.a.toNat

def memData (o : MemOp) (m : Mm) : List Nat := if o.kind = .load then [] else regsFrom m.d.toNat o.regs

def memDest (o : MemOp) (m : Mm) : List Nat := if o.returns then regsFrom m.d.toNat (if o.wide then 2 else 1) else []

def memPeer (o : MemOp) (xm : Option Xm) : List Nat :=
  if o.space = .peer then (xm.map fun e => [bits e.low.toNat 14 8]).getD [] else []

/-- The flight of an access as it issues, without what it waits for and its tags. -/
def memFlight (x : Site) (i : Instr) (o : MemOp) (m : Mm) (xm : Option Xm) : Flight :=
  { Flight.issue x i (memAct x m xm) (memDest o m) true with
    scope := (xm.map (·.scope.toNat)).getD 0, order := (xm.map (·.order.toNat)).getD 0
    remaining := if o.space = .pool then memAct x m xm else 0, waiting := if o.space = .pool then 0 else memAct x m xm
    x := capture x.w (memOff m), y := capture x.w ((memData o m).take (if o.wide then 2 else 1))
    z := capture x.w (((memData o m).drop (if o.wide then 2 else 1)).take (if o.wide then 2 else 1))
    peers := match memPeer o xm with
      | p :: _ => readLanes x.w p
      | [] => []
    sbase := x.w.spair m.base.toNat }

theorem getD_capture (w : Warp) (rs : List Nat) (l : Nat) (hl : l < 32) : (capture w rs).getD l 0 =
    pairVal (rs.head?.elim 0 fun r => lane (readLanes w r) l) ((rs[1]?).elim 0 fun r => lane (readLanes w r) l) := by
  simp [capture, List.getD, laneNums_getElem? l hl]

theorem loWord_pairVal (lo hi : Word) : loWord (pairVal lo hi) = lo := by
  unfold loWord pairVal
  exact BitVec.extractLsb'_append_eq_right

/-- An offset, sign-extended or a pair (R344). -/
theorem off_memFlight (x : Site) (i : Instr) (o : MemOp) (m : Mm) (xm : Option Xm) (l : Nat) (hl : l < 32) :
    (memFlight x i o m xm).off m.pair l = laneOffset x m l := by
  unfold Flight.off laneOffset memFlight memOff pairOf
  dsimp only
  rw [getD_capture _ _ _ hl]
  cases m.pair
  · simp only [Bool.false_eq_true, if_false, List.head?_cons, Option.elim_some, loWord_pairVal, sext64]
  · simp only [if_true, List.head?_cons, Option.elim_some, List.getElem?_cons_succ, List.getElem?_cons_zero]

theorem dispOf_eq (xm : Option Xm) : dispOf xm = ((xm.map Xm.low).getD 0).signExtend 64 := by
  cases xm
  · rfl
  · rfl

theorem wordDispOf_eq (xm : Option Xm) :
    wordDispOf xm = (((xm.map Xm.low).getD 0).extractLsb' 0 8).signExtend 64 * 4 := by
  cases xm
  · rfl
  · rfl

/-- The address of a lane is base, offset and displacement (R282, R344, R354). -/
theorem addrOf_memFlight {x : Site} {i : Instr} {o : MemOp} {m : Mm} {xm : Option Xm} (hm : memOf i = some (o, m, xm)) {l : Nat}
    (hl : l < 32) : (memFlight x i o m xm).addrOf l = laneAddress x o.space m xm l := by
  have hoff := off_memFlight x i o m xm l hl
  have hi : (memFlight x i o m xm).instr = i := rfl
  have hb : (memFlight x i o m xm).sbase = x.w.spair m.base.toNat := rfl
  unfold Flight.addrOf laneAddress
  rw [hi, hm]
  dsimp only
  rw [hoff, hb, dispOf_eq, wordDispOf_eq]
  cases o.space
  · rfl
  · exact (BitVec.extractLsb'_toNat ..).trans (by rw [Nat.shiftRight_zero])
  · rfl

/-! The checks at issue (R242, R245, R347). -/

namespace State

theorem laneTrap_none {s : State} {x : Site} {act : Mask} {cause : Nat} {addr : Nat → Nat} {bad : Nat → Bool}
    (h : ∀ l, l < 32 → act.getLsbD l = true → bad l = false) : s.laneTrap x act cause addr bad = none := by
  have hnone : (activeLanes act).filter bad = [] := by
    rw [List.filter_eq_nil_iff]
    intro l hl
    obtain ⟨hl, ha⟩ := List.mem_filter.mp hl
    rw [h l ((mem_laneNums l).mp hl) ha]
    exact Bool.false_ne_true
  unfold laneTrap
  rw [hnone]

/-- A lane's address is in its space and aligned (R344, R345). -/
def goodLane (s : State) (x : Site) (o : MemOp) (a : Nat) : Prop :=
  a % o.width = 0 ∧ match o.space with
    | .pool => a < 2 ^ 57
    | .scratch => s.scratchAt x.w.block x.b a o.width ≠ .fault
    | .peer => True

theorem addrCheck_none {s : State} {x : Site} {o : MemOp} {f : Flight}
    (h : ∀ l, l < 32 → f.active.getLsbD l = true → s.goodLane x o (f.addrOf l)) : s.addrCheck x o f = none := by
  have halign : s.laneTrap x f.active 0x0D f.addrOf (fun l => f.addrOf l % o.width != 0) = none :=
    laneTrap_none fun l hl ha => by simp [(h l hl ha).1]
  unfold addrCheck
  dsimp only
  cases hs : o.space with
  | pool =>
    dsimp only
    rw [laneTrap_none fun l hl ha => ?_]
    · exact halign
    · have hgood := (h l hl ha).2
      rw [hs] at hgood
      exact decide_eq_false (Nat.not_le.mpr hgood)
  | scratch =>
    dsimp only
    rw [laneTrap_none fun l hl ha => ?_]
    · exact halign
    · have hgood := (h l hl ha).2
      rw [hs] at hgood
      exact beq_eq_false_iff_ne.mpr hgood
  | peer => exact halign

/-! The tags that an access takes at its issue (R44). -/

theorem passOf_zero (f : Flight) : passOf f 0 = [] := by
  unfold passOf
  dsimp only
  split
  · simp [activeLanes]
  · rfl

theorem length_passOf_le (f : Flight) (m : Mask) : (passOf f m).length ≤ (activeLanes m).length := by
  unfold passOf
  dsimp only
  split
  · exact List.length_filter_le ..
  · exact Nat.zero_le _

theorem tagNeed_zero {s : State} {x : Site} {o : MemOp} {f : Flight} (h : o.space = .scratch ∨ f.active = 0) : s.tagNeed x o f = 0 := by
  unfold tagNeed
  cases hs : o.space with
  | scratch => rfl
  | peer =>
    rw [h.resolve_left (by simp [hs]), passOf_zero]
    rfl
  | pool =>
    rw [h.resolve_left (by simp [hs])]
    rfl

theorem length_eraseDups_le {α : Type} [BEq α] : ∀ l : List α, l.eraseDups.length ≤ l.length
  | [] => Nat.zero_le _
  | a :: l => by
    rw [List.eraseDups_cons, List.length_cons, List.length_cons]
    have hkept := List.length_filter_le (fun b => !b == a) l
    exact Nat.succ_le_succ ((length_eraseDups_le (l.filter fun b => !b == a)).trans hkept)
termination_by l => l.length
decreasing_by exact Nat.lt_succ_of_le hkept

theorem tagNeed_le (s : State) (x : Site) (o : MemOp) (f : Flight) : s.tagNeed x o f ≤ (activeLanes f.active).length := by
  unfold tagNeed
  cases o.space with
  | scratch => exact Nat.zero_le _
  | peer => exact (List.length_filter_le ..).trans (length_passOf_le ..)
  | pool => exact (length_eraseDups_le _).trans (List.length_filterMap_le ..)

/-- The bounds on what a warp has in flight (R66, R170, R245). -/
def flightRoom (s : State) (x : Site) (o : MemOp) (f : Flight) : Prop :=
  x.w.countedFlights < 8 ∧ (f.dest = [] ∨ x.w.longFlights < 8) ∧ (o.space = .pool →
    ((x.w.flights.filter fun g => g.by_ != x.sel).map fun g => g.slots.length).foldl (· + ·) 0 < 4 ∨ s.missingPages x.core x.w f = [])

/-- What the issue of an access checks, in order (R242, R172, R347, R44, R66, R245). -/
theorem issueMem_eq (s : State) (i : Instr) (o : MemOp) (m : Mm) (xm : Option Xm) : s.issueMem i o m xm = s.atSite fun x =>
    s.holdFor x (memDest o m) fun s x =>
      match s.regCheck x (memAct x m xm) (withBit (memOff m) m.fa ++ withBit (memData o m) m.fb ++ withBit (memPeer o xm) false) []
        (memDest o m) true with
      | some r => r
      | none => match s.addrCheck x o (memFlight x i o m xm) with
        | some r => r
        | none =>
          if 8 ≤ x.w.countedFlights || (!(memDest o m).isEmpty && 8 ≤ x.w.longFlights) ||
              (o.space == .pool && s.slotsTaken x (memFlight x i o m xm)) || s.freeTags x.core < s.tagNeed x o (memFlight x i o m xm)
          then s.stall
          else s.launchFlight x (if xm.isSome then 2 else 1) (memFlight x i o m xm) (memOff m ++ memData o m ++ memPeer o xm)
            (s.tagNeed x o (memFlight x i o m xm)) := rfl

section
variable {s : State} {x : Site} {i : Instr} {o : MemOp} {m : Mm} {xm : Option Xm} (hx : s.siteOf = some x)
  (hm : memOf i = some (o, m, xm))
  (hsrc : sourcesReady x (memAct x m xm) (withBit (memOff m) m.fa ++ withBit (memData o m) m.fb ++ withBit (memPeer o xm) false) [] = true)
  (hdest : longReady s x (memDest o m) = true)
  (haddr : ∀ l, l < 32 → (memAct x m xm).getLsbD l = true → s.goodLane x o (laneAddress x o.space m xm l))
include hx hm hsrc hdest haddr

/-- With ready operands and good addresses only the bounds on what is in flight are left to check. -/
theorem issueMem_ready : s.issueMem i o m xm =
    if 8 ≤ x.w.countedFlights || (!(memDest o m).isEmpty && 8 ≤ x.w.longFlights) ||
        (o.space == .pool && s.slotsTaken x (memFlight x i o m xm)) || s.freeTags x.core < s.tagNeed x o (memFlight x i o m xm) then s.stall
    else s.launchFlight x (if xm.isSome then 2 else 1) (memFlight x i o m xm) (memOff m ++ memData o m ++ memPeer o xm)
      (s.tagNeed x o (memFlight x i o m xm)) := by
  obtain ⟨hready, hheld⟩ := Bool.and_eq_true_iff.mp hdest
  have hreg := regCheck_ready s x _ _ _ (memDest o m) true hsrc hready
  have hplace : s.addrCheck x o (memFlight x i o m xm) = none :=
    addrCheck_none fun l hl ha => by rw [addrOf_memFlight hm hl]; exact haddr l hl ha
  rw [issueMem_eq, atSite_some hx, holdFor, if_neg (by simpa using hheld), hreg, hplace]

theorem issueMem_waits (hfew : s.freeTags x.core < s.tagNeed x o (memFlight x i o m xm)) : s.issueMem i o m xm = s.stall := by
  rw [issueMem_ready hx hm hsrc hdest haddr, if_pos]
  simp [hfew]

theorem issueMem_launches (hroom : s.flightRoom x o (memFlight x i o m xm))
    (hfree : s.tagNeed x o (memFlight x i o m xm) ≤ s.freeTags x.core) : s.issueMem i o m xm =
      s.launchFlight x (if xm.isSome then 2 else 1) (memFlight x i o m xm) (memOff m ++ memData o m ++ memPeer o xm)
        (s.tagNeed x o (memFlight x i o m xm)) := by
  obtain ⟨hcounted, hlong, hslots⟩ := hroom
  have hfull : (8 ≤ x.w.countedFlights : Bool) = false := decide_eq_false (Nat.not_le.mpr hcounted)
  have hlongs : (!(memDest o m).isEmpty && 8 ≤ x.w.longFlights : Bool) = false := by
    rcases hlong with h | h
    · rw [show memDest o m = [] from h]
      rfl
    · simp [h]
  have hpool : (o.space == .pool && s.slotsTaken x (memFlight x i o m xm)) = false := by
    by_cases hs : o.space = .pool
    · rcases hslots hs with h | h
      · simp [slotsTaken, h]
      · simp [slotsTaken, h]
    · simp [hs]
  rw [issueMem_ready hx hm hsrc hdest haddr, if_neg]
  rw [hfull, hlongs, hpool]
  simpa using hfree

end

end State

/-! What the flight captures (R252, R351, R352). -/

theorem extractLsb'_low (e : Xm) : (e.low.extractLsb' 8 7).toNat = bits e.low.toNat 14 8 := by
  rw [BitVec.extractLsb'_toNat, Nat.shiftRight_eq_div_pow]
  rfl

theorem memDest_eq (o : MemOp) (m : Mm) : memDest o m =
    if o.kind = .store then [] else if o.wide then [m.d.toNat, m.d.toNat + 1] else [m.d.toNat] := by
  unfold memDest MemOp.returns
  cases o.kind <;> cases o.wide <;> rfl

theorem memPeer_eq (o : MemOp) (xm : Option Xm) : memPeer o xm =
    if o.space = .peer then (xm.map fun e => [(e.low.extractLsb' 8 7).toNat]).getD [] else [] := by
  simp only [memPeer, extractLsb'_low]

/-- Lane l of the k-th group of the datum (R351, R352). -/
def memDatum (x : Site) (o : MemOp) (m : Mm) (l k : Nat) : DWord :=
  if o.wide then pairVal (lane (readLanes x.w (m.d.toNat + 2 * k)) l) (lane (readLanes x.w (m.d.toNat + 2 * k + 1)) l)
  else pairVal (lane (readLanes x.w (m.d.toNat + k)) l) 0

theorem getD_peers_memFlight {x : Site} {i : Instr} {o : MemOp} {m : Mm} {xm : Option Xm} {p : Nat} (hp : memPeer o xm = [p]) (l : Nat) :
    (memFlight x i o m xm).peers.getD l 0 = lane (readLanes x.w p) l := by
  unfold memFlight
  rw [hp]
  rfl

section
variable (x : Site) (i : Instr) (o : MemOp) (m : Mm) (xm : Option Xm) (l : Nat) (hl : l < 32)
include hl

theorem getD_y_memFlight (hk : o.kind ≠ .load) : (memFlight x i o m xm).y.getD l 0 = memDatum x o m l 0 := by
  refine (getD_capture _ _ _ hl).trans ?_
  unfold memDatum memData MemOp.regs regsFrom
  rw [if_neg hk]
  by_cases hw : o.wide = true <;> by_cases hc : o.kind = .cas <;> simp [hw, hc, List.range_succ]

theorem getD_z_memFlight (hk : o.kind = .cas) : (memFlight x i o m xm).z.getD l 0 = memDatum x o m l 1 := by
  refine (getD_capture _ _ _ hl).trans ?_
  unfold memDatum memData MemOp.regs regsFrom
  rw [if_neg (c := o.kind = .load) (by simp [hk])]
  by_cases hw : o.wide = true <;> simp [hw, hk, List.range_succ]

end

/-- Settles O18: the checks of the issue pass, and the flight that it launches captures what the statement names. -/
theorem memoryIssue : Obligations.MemoryIssue := by
  unfold Obligations.MemoryIssue
  intro issues
  have key : ∀ (i : Instr) (o : MemOp) (m : Mm) (xm : Option Xm), memOf i = some (o, m, xm) → (∀ s, exec i s = s.issueMem i o m xm) →
      issues i o.space o.kind o.minor m xm := by
    intro i o m xm hm he s x hx wide n off data dest peer act size addr datum f need ts g hsrc hlong haddr
    have hpeer : peer = memPeer o xm := (memPeer_eq o xm).symm
    have hdest : dest = memDest o m := (memDest_eq o m).symm
    have hf : f = memFlight x i o m xm := by
      rw [show f = { memFlight x i o m xm with dest := dest, peers := (peer.map (readLanes x.w)).headD [] } from rfl, hdest, hpeer]
      unfold memFlight
      cases memPeer o xm <;> rfl
    clear_value f
    subst hf
    clear_value peer dest
    subst hpeer hdest
    have haddr : ∀ l, l < 32 → (memAct x m xm).getLsbD l = true → s.goodLane x o (laneAddress x o.space m xm l) := haddr
    refine ⟨fun hfew => (he s).trans (State.issueMem_waits hx hm hsrc hlong haddr hfew), fun h => State.tagNeed_zero h,
      State.tagNeed_le s x o _, fun hcounted hlongs hfree hslots => ⟨fun l hl => ⟨addrOf_memFlight hm hl,
        getD_y_memFlight x i o m xm l hl, getD_z_memFlight x i o m xm l hl⟩, fun _ l _ p hp => getD_peers_memFlight (i := i) (m := m) hp l,
        State.length_allocTags hfree, ?_⟩⟩
    exact completesWith_of_launchFlight hx
      ((he s).trans (State.issueMem_launches hx hm hsrc hlong haddr ⟨hcounted, hlongs, hslots⟩ hfree))
  intro m x k
  exact ⟨key (.ld m) ⟨.pool, .load, 0⟩ m none rfl fun _ => rfl, key (.ldXm m x) ⟨.pool, .load, k⟩ m (some x) rfl fun _ => rfl,
    key (.st m) ⟨.pool, .store, 0⟩ m none rfl fun _ => rfl, key (.stXm m x) ⟨.pool, .store, k⟩ m (some x) rfl fun _ => rfl,
    key (.ldl m) ⟨.scratch, .load, 0⟩ m none rfl fun _ => rfl, key (.ldlXm m x) ⟨.scratch, .load, k⟩ m (some x) rfl fun _ => rfl,
    key (.stl m) ⟨.scratch, .store, 0⟩ m none rfl fun _ => rfl, key (.stlXm m x) ⟨.scratch, .store, k⟩ m (some x) rfl fun _ => rfl,
    key (.atom m) ⟨.pool, .atom, 0⟩ m none rfl fun _ => rfl, key (.atomXm m x) ⟨.pool, .atom, k⟩ m (some x) rfl fun _ => rfl,
    key (.atoml m) ⟨.scratch, .atom, 0⟩ m none rfl fun _ => rfl, key (.atomlXm m x) ⟨.scratch, .atom, k⟩ m (some x) rfl fun _ => rfl,
    key (.cas m) ⟨.pool, .cas, 0⟩ m none rfl fun _ => rfl, key (.casXm m x) ⟨.pool, .cas, k⟩ m (some x) rfl fun _ => rfl,
    key (.rld m x) ⟨.peer, .load, k⟩ m (some x) rfl fun _ => rfl, key (.rst m x) ⟨.peer, .store, k⟩ m (some x) rfl fun _ => rfl,
    key (.ratom m x) ⟨.peer, .atom, k⟩ m (some x) rfl fun _ => rfl⟩

end Sys2Proof.Machine
end

section
/-! PROOFS. The command queue (O48): a write of the status field (R83) is pushed to the holders of its line (R210), and a push that finds no
route is recorded in its turn (R35), behind the record of the halt. -/

open Sys2Proof Sys2Proof.Machine

namespace Sys2Proof.Machine

/-- A NOP packet whose body is not zero (R83, R93). -/
def badNop : List Byte := [0x17] ++ zeros 7 ++ [1]

/-- The bad packet is to start now. A die of package 1 holds the line of the status field (R209), and the only port that leads to package 1,
the other member, is dead (R39). -/
def haltDue : State :=
  let s := Tests.current true badNop
  let holders := (s.homeAt Tests.d0 (s.dom.queueBase + 24).toNat).map fun h => (lineOf (physKey h), [{ pkg := 1, die := 0 }])
  (s.updDie Tests.d0 fun k => { k with holders := holders.toList }).setPort 0 (portTo 0 1) { Port.dark with state := 3 }

theorem haltDue_ready : haltDue.arg.src = .queue ∧ haltDue.packetReady = true := by decide +kernel

theorem haltDue_bodyBad : bodyBad haltDue.arg.bytes = true := by decide +kernel

/-- The queue halts, and the lead records the halt (0030h) and then the push of the status line that is discarded (0020h). -/
theorem haltDue_after : ∃ t, exec .nopPacket haltDue = .next t ∧ t.queue.status = 1 ∧
    (t.pkg haltDue.lead).events.map (·.code) = [0x30, 0x20] :=
  ⟨_, rfl, by decide +kernel, by decide +kernel⟩

/-- A halted queue's record is the last one of the lead. -/
theorem getLast?_of_halted {s t : State} {code : Nat} (h : Halted s t code) :
    ((t.pkg s.lead).events.map (·.code)).getLast? = some 0x30 := by
  obtain ⟨-, -, -, -, hlast⟩ := h
  rw [List.getLast?_map, hlast]

/-- Refutes O48: where a packet halts the queue, the statement says that the last event record of the lead names the halt. The halt writes the
status field behind its record (R83), that write is pushed to the holders of the line (R210), and a push to a package to which no route is
left is discarded with an event record of its own (R35), which is then the last. -/
theorem not_queue : ¬ Obligations.Queue := by
  unfold Obligations.Queue
  intro h
  obtain ⟨-, -, -, hpackets, -⟩ := h
  obtain ⟨hbad, -⟩ := hpackets haltDue haltDue_ready
  obtain ⟨t, ht, hhalted⟩ := hbad haltDue_bodyBad .nopPacket (Or.inl rfl)
  obtain ⟨u, hu, -, hcodes⟩ := haltDue_after
  obtain rfl : t = u := by simpa [ht] using hu
  have hlast := getLast?_of_halted hhalted
  rw [hcodes] at hlast
  exact absurd hlast (by decide)

end Sys2Proof.Machine
end

section
/-! PROOFS. The management registers and their messages (R117, R118), the BAR1 window (R117), and KBOOT (R127): the obligation O53. -/

open Sys2Proof Sys2Proof.Machine

namespace Sys2Proof.Machine

/-! Messages (R118). -/

theorem length_of_readMessage {m : List Byte} (hop : field m 2 1 = 1) (hok : messageOk m = true) : m.length = 16 := by
  simp only [messageOk, hop, Bool.and_eq_true, Bool.or_eq_true, beq_iff_eq] at hok
  omega

/-- A reply's header is the message's, with the operation marked as a reply and the status. -/
theorem replyHead_eq (m : List Byte) (st : Nat) (hm : m.length = 16) : replyHead m st =
    m.take 2 ++ [BitVec.ofNat 8 ((field m 2 1 ||| 0x80) % 256), BitVec.ofNat 8 st] ++ m.drop 4 := by
  have hhead : (m ++ zeros 16).take 16 = m := List.take_left' hm
  rw [replyHead, hhead]
  simp [putField, leBytes, List.take_append, List.drop_append, List.take_take, List.drop_take, hm]

section
variable (m : List Byte) (st : Nat) (vals : List Byte) (hm : m.length = 16)
include hm

theorem replyHead_length : (replyHead m st).length = 16 := by
  simp [replyHead_eq m st hm, hm]

theorem reply_op (hop : field m 2 1 = 1) : field (replyHead m st ++ vals) 2 1 = 0x81 := by
  rw [replyHead_eq m st hm, hop]
  simp [field, hm, leVal]

theorem reply_status (hst : st < 256) : field (replyHead m st ++ vals) 3 1 = st := by
  simp [field, replyHead_eq m st hm, List.drop_append, List.drop_take, hm, leVal, Nat.mod_eq_of_lt hst]

/-- The reserved bytes, the first register and the count come back in the reply. -/
theorem reply_echo : ((replyHead m st ++ vals).drop 4).take 12 = (m.drop 4).take 12 := by
  simp [replyHead_eq m st hm, List.drop_append, List.drop_take, hm]

theorem reply_data (off n : Nat) : field (replyHead m st ++ vals) (16 + off) n = field vals off n := by
  rw [field, ← List.drop_drop, List.drop_left' (replyHead_length m st hm), field]

end

/-- Of runs of k bytes one behind another, the i-th. -/
theorem take_drop_flatMap {α : Type} (g : α → List Byte) (k : Nat) (hg : ∀ a, (g a).length = k) (l : List α) :
    ∀ i (hi : i < l.length), ((l.flatMap g).drop (k * i)).take k = g l[i] := by
  induction l with
  | nil => exact fun i hi => absurd hi (Nat.not_lt_zero i)
  | cons x xs ih =>
    intro i hi
    cases i with
    | zero => exact List.take_left' (hg x)
    | succ i =>
      have hskip : ((x :: xs).flatMap g).drop (k * (i + 1)) = (xs.flatMap g).drop (k * i) := by
        rw [List.flatMap_cons, Nat.mul_succ, Nat.add_comm, ← List.drop_drop, List.drop_left' (hg x)]
      rw [hskip, ih i (Nat.lt_of_succ_lt_succ hi), List.getElem_cons_succ]

theorem field_flatMap_words (vs : List (Option Word)) (i : Nat) (hi : i < vs.length) :
    field (vs.flatMap fun v => leBytes 4 (v.getD 0).toNat) (4 * i) 4 = (vs[i].getD 0).toNat := by
  rw [field, take_drop_flatMap _ 4 (fun v => leBytes_length 4 _) vs i hi, leVal_leBytes]
  exact Nat.mod_eq_of_lt (vs[i].getD 0).isLt

theorem yields_mgmtRead_bar0 (s : State) (p : Nat) (harg : s.arg.p = p) (hp : p < 512) (hf : s.arg.flag = true) :
    Yields .mgmtRead s fun t => t = s.reply p (leBytes 4 ((s.mgmtReg p s.arg.n).getD 0).toNat) := by
  subst harg
  refine Yields.of_exec (show exec .mgmtRead s = execMgmtRead s from rfl) ?_
  rw [if_neg (Nat.not_le.mpr hp), if_pos hf]

section
variable (s : State) (p : Nat) (m : List Byte) (harg : s.arg.p = p) (hbytes : s.arg.bytes = m) (hp : p < 512)
include harg hbytes hp

theorem yields_mgmtRead_bad (hf : s.arg.flag = false) (hop : field m 2 1 ≠ 2) (hbad : messageOk m = false) :
    Yields .mgmtRead s fun t => t = s.reply p (replyHead m 1) := by
  subst harg hbytes
  refine Yields.of_exec (show exec .mgmtRead s = execMgmtRead s from rfl) ?_
  rw [if_neg (Nat.not_le.mpr hp), if_neg (by simp [hf]), if_neg hop, if_pos (by simp [hbad])]

/-- A well-formed read is answered with the values of its registers, 0 for a number that is none, and the status tells whether there
was such a number (R118). -/
theorem yields_mgmtRead (hf : s.arg.flag = false) (hop : field m 2 1 = 1) (hok : messageOk m = true) :
    Yields .mgmtRead s fun t => SameMem s t ∧ t.pkgs = s.pkgs ∧ ∃ bs, t.outbox = s.outbox ++ [(p, bs)] ∧
      bs.length = 16 + 4 * field m 12 4 ∧ field bs 2 1 = 0x81 ∧ (bs.drop 4).take 12 = (m.drop 4).take 12 ∧
      (∀ i, i < field m 12 4 → field bs (16 + 4 * i) 4 = ((s.mgmtReg p (field m 8 4 + i)).getD 0).toNat) ∧
      (field bs 3 1 = 0 ↔ ∀ i, i < field m 12 4 → (s.mgmtReg p (field m 8 4 + i)).isSome) ∧ (field bs 3 1 = 0 ∨ field bs 3 1 = 2) := by
  subst harg hbytes
  have hm := length_of_readMessage hop hok
  refine Yields.of_exec (show exec .mgmtRead s = execMgmtRead s from rfl) ?_
  rw [if_neg (Nat.not_le.mpr hp), if_neg (by simp [hf]), if_neg (by omega), if_neg (by simp [hok])]
  extract_lets vs
  have hlen : vs.length = field s.arg.bytes 12 4 := by simp [vs]
  have hall : vs.all (·.isSome) = true ↔
      ∀ i, i < field s.arg.bytes 12 4 → (s.mgmtReg s.arg.p (field s.arg.bytes 8 4 + i)).isSome = true := by simp [vs]
  refine ⟨fun _ => rfl, rfl, _, rfl, ?_, reply_op _ _ _ hm hop, reply_echo _ _ _ hm, fun i hi => ?_, ?_⟩
  · simp [replyHead_length _ _ hm, leBytes_length, hlen, Nat.mul_comm]
  · rw [reply_data _ _ _ hm, field_flatMap_words vs i (hlen ▸ hi)]
    simp [vs]
  · rw [reply_status _ _ _ hm (by split <;> decide), ← hall]
    by_cases h : vs.all (·.isSome) = true <;> simp [h]

theorem yields_mgmtWrite_bad (hop : field m 2 1 = 2) (hbad : messageOk m = false) :
    Yields .mgmtWrite s fun t => t = s.reply p (replyHead m 1) := by
  subst harg hbytes
  refine Yields.of_exec (show exec .mgmtWrite s = execMgmtWrite s from rfl) ?_
  rw [if_neg (by simp [hop, hp]), if_pos (by simp [hbad])]

/-- A write of one register: what the register's own write does, and the reply's status tells whether it may be written (R118). -/
theorem exec_mgmtWrite_one (hop : field m 2 1 = 2) (hok : messageOk m = true) (hn : field m 12 4 = 1) :
    exec .mgmtWrite s = .next ((s.regWrite p (field m 8 4) (BitVec.ofNat 32 (field m 16 4))).elim (s.reply p (replyHead m 2))
      fun u => u.reply p (replyHead m 0)) := by
  subst harg hbytes
  refine (show exec .mgmtWrite s = execMgmtWrite s from rfl).trans (congrArg Host.Outcome.next ?_)
  rw [if_neg (by simp [hop, hp]), if_neg (by simp [hok]), hn]
  cases hw : s.regWrite s.arg.p (field s.arg.bytes 8 4) (BitVec.ofNat 32 (field s.arg.bytes 16 4)) with
  | none => simp [hw]
  | some u => simp [hw]

theorem yields_mgmtWrite_one (hop : field m 2 1 = 2) (hok : messageOk m = true) (hn : field m 12 4 = 1) :
    let v : Word := BitVec.ofNat 32 (field m 16 4)
    (∀ u, s.regWrite p (field m 8 4) v = some u → Yields .mgmtWrite s fun t => t = u.reply p (replyHead m 0)) ∧
      (s.regWrite p (field m 8 4) v = none → Yields .mgmtWrite s fun t => t = s.reply p (replyHead m 2)) := by
  have hx := exec_mgmtWrite_one s p m harg hbytes hp hop hok hn
  exact ⟨fun u hu => Yields.of_exec hx (by rw [hu, Option.elim_some]), fun hu => Yields.of_exec hx (by rw [hu, Option.elim_none])⟩

end

/-! The registers (R117). -/

namespace State

variable (s : State) (p : Nat)

/-- The window on the event record that EVSEL selects. -/
theorem mgmtReg_event (i : Nat) (hi : i < 8) : s.mgmtReg p (0x10 + i) =
    some (((s.pkg p).events.find? fun e => e.seq == (s.pkg p).evSel.toNat).elim 0 fun e =>
      BitVec.ofNat 32 (field (recorderBytes e) (4 * i) 4)) := by
  have hwindow : (decide (0x10 ≤ 0x10 + i) && decide (0x10 + i ≤ 0x17)) = true := by
    simp
    omega
  unfold mgmtReg
  split
  case h_14 =>
    rw [if_pos hwindow, Nat.add_sub_cancel_left]
    cases (s.pkg p).events.find? fun e => e.seq == (s.pkg p).evSel.toNat <;> rfl
  all_goals omega

/-- A number that the table does not list. -/
theorem mgmtReg_unlisted (n : Nat) (h : n = 3 ∨ n = 7 ∨ 0x19 ≤ n ∧ n < 0x1C ∨ 0x1E < n) : s.mgmtReg p n = none := by
  have hwindow : (decide (0x10 ≤ n) && decide (n ≤ 0x17)) = false := by
    simp
    omega
  unfold mgmtReg
  split
  case h_14 => rw [hwindow]; rfl
  all_goals exact absurd h (by decide)

/-! Writes without a behaviour of their own. -/

theorem plainWrite_mem (n : Nat) (v : Word) : ((s.plainWrite p n v).getD s).mem = s.mem := by
  unfold plainWrite
  split
  case h_1 | h_2 | h_3 =>
    dsimp only [Option.getD_some]
    split <;> rfl
  all_goals rfl

theorem plainWrite_ringL (v : Word) :
    (((s.plainWrite p 4 v).getD s).pkg p).ringL = if (s.pkg p).bootState = 2 then (s.pkg p).ringL else v := by
  simp only [plainWrite, Option.getD_some]
  split <;> simp

theorem plainWrite_ringH (v : Word) :
    (((s.plainWrite p 5 v).getD s).pkg p).ringH = if (s.pkg p).bootState = 2 then (s.pkg p).ringH else v := by
  simp only [plainWrite, Option.getD_some]
  split <;> simp

theorem plainWrite_ringK (v : Word) :
    (((s.plainWrite p 6 v).getD s).pkg p).ringK = if 6 ≤ v.toNat ∧ v.toNat ≤ 16 then v else (s.pkg p).ringK := by
  simp only [plainWrite, Option.getD_some, Bool.and_eq_true, decide_eq_true_eq]
  split <;> simp

theorem plainWrite_evSel (v : Word) : (((s.plainWrite p 0xD v).getD s).pkg p).evSel = v := by simp [plainWrite]
theorem plainWrite_kimageL (v : Word) : (((s.plainWrite p 0x1C v).getD s).pkg p).kimageL = v := by simp [plainWrite]
theorem plainWrite_kimageH (v : Word) : (((s.plainWrite p 0x1D v).getD s).pkg p).kimageH = v := by simp [plainWrite]

theorem plainWrite_other (n : Nat) (v : Word) (h : n ∉ [4, 5, 6, 0xD, 0x1C, 0x1D]) : s.plainWrite p n v = none := by
  unfold plainWrite
  split
  case h_7 => rfl
  all_goals exact absurd h (by decide)

/-! POWERCAP (R21). -/

theorem writeCap_mem (v : Word) : (s.writeCap p v).mem = s.mem := by
  unfold writeCap
  split <;> rfl

theorem writeCap_powerCap (v : Word) : ((s.writeCap p v).pkg p).powerCap =
    if 1600 ≤ v.toNat ∧ v.toNat ≤ 2800 ∧ v.toNat % 50 = 0 then v else (s.pkg p).powerCap := by
  simp only [writeCap, capOk, Bool.and_eq_true, decide_eq_true_eq, beq_iff_eq, and_assoc]
  split <;> simp

/-! KBOOT (R127). -/

theorem bootKernel_ignored (v : Word) (h : v ≠ 1 ∨ (s.pkg p).host.running = true ∨ s.isMember p = true ∧ s.dom.secondary = some p ∨
    (s.pkg p).bootState ≠ 1 ∧ (s.pkg p).bootState ≠ 2) : s.bootKernel p v = s := by
  unfold bootKernel
  exact if_pos (by simpa [or_assoc] using h)

section
variable (v : Word) (hv : v = 1) (hrun : (s.pkg p).host.running = false) (hsec : s.isMember p = false ∨ s.dom.secondary ≠ some p)
  (hstate : (s.pkg p).bootState = 1 ∨ (s.pkg p).bootState = 2)
include hv hrun hsec hstate

/-- None of the four reasons to ignore a write holds. -/
theorem bootKernel_due : ¬((v != 1 || (s.pkg p).host.running || (s.isMember p && s.dom.secondary == some p) ||
    ((s.pkg p).bootState != 1 && (s.pkg p).bootState != 2)) = true) := by
  subst hv
  simp only [hrun, bne_self_eq_false, Bool.or_false, Bool.false_or, Bool.or_eq_true, Bool.and_eq_true, beq_iff_eq, bne_iff_ne, not_or,
    not_and, not_not]
  refine ⟨fun hm => ?_, fun h => ?_⟩
  · rcases hsec with h | h
    · simp [hm] at h
    · exact h
  · exact hstate.resolve_left h

/-- A kernel whose image passes its checks runs. -/
theorem bootKernel_runs (hok : s.kernelOk p = true) : SameMem s (s.bootKernel p v) ∧
    ((s.bootKernel p v).pkg p).host.running = true ∧ ((s.bootKernel p v).pkg p).host.imageOk = true := by
  unfold bootKernel
  rw [if_neg (bootKernel_due s p v hv hrun hsec hstate), if_pos hok]
  refine ⟨fun a => ?_, by simp [kernelRuns], by simp [kernelRuns]⟩
  split <;> rfl

/-- A kernel whose image fails a check stays stopped, and event 0082h records it. -/
theorem bootKernel_bad (hbad : s.kernelOk p = false) : SameMem s (s.bootKernel p v) ∧
    ((s.bootKernel p v).pkg p).host.running = false ∧ ((s.bootKernel p v).pkg p).events.getLast?.map (·.code) = some 0x82 := by
  unfold bootKernel
  rw [if_neg (bootKernel_due s p v hv hrun hsec hstate), if_neg (by simp [hbad])]
  obtain ⟨hstopped, -, -, hevent⟩ := kernelBad_pkg s p (if s.frozen && s.isMember p && p == s.dom.primary then 6 else 5)
  exact ⟨fun a => rfl, hstopped, hevent⟩

end

end State

/-! The BAR1 window. -/

/-- A physical byte number tells channel and byte of its place. -/
theorem physKey_mod (h : Home) (hl : h.loc < 2 ^ 31) (hc : h.chan < 64) :
    physKey h % 2 ^ 31 = h.loc ∧ physKey h / 2 ^ 31 % 64 = h.chan := by
  unfold physKey
  generalize (h.pkg * 4 + h.die) * 2 + (if h.near then 1 else 0) = unit
  omega

/-- The boot space of a package gives each boot address a place of its own (R117). -/
theorem physKey_bootHome_inj (p : Nat) {a b : Nat} (ha : a < 2 ^ 32) (hb : b < 2 ^ 32)
    (h : physKey (bootHome p a) = physKey (bootHome p b)) : a = b := by
  have place : ∀ c, c < 2 ^ 32 → physKey (bootHome p c) % 2 ^ 31 = 128 * (c / 2 ^ 13) + c % 128 ∧
      physKey (bootHome p c) / 2 ^ 31 % 64 = c / 128 % 64 := fun c hc =>
    physKey_mod (bootHome p c) (by simp only [bootHome]; omega) (Nat.mod_lt _ (by decide))
  obtain ⟨haloc, hachan⟩ := place a ha
  obtain ⟨hbloc, hbchan⟩ := place b hb
  rw [h] at haloc hachan
  omega

namespace State

theorem bootBytes_succ (s : State) (p b n : Nat) :
    s.bootBytes p b (n + 1) = s.mem.read (physKey (bootHome p b)) :: s.bootBytes p (b + 1) n := by
  simp [bootBytes, List.range_succ_eq_map, Nat.add_assoc, Nat.add_comm 1]

/-- What a run put at a boot address reads as. -/
theorem bootBytes_bootPuts (p : Nat) (bs : List Byte) : ∀ (s : State) (b : Nat), s.mem.wf = true → b + bs.length ≤ 2 ^ 32 →
    (s.bootPuts p b bs).bootBytes p b bs.length = bs := by
  induction bs with
  | nil => exact fun s b _ _ => rfl
  | cons x xs ih =>
    intro s b hw hb
    rw [List.length_cons] at hb
    have hw' := Memory.write_wf s.mem (physKey (bootHome p b)) x hw
    have hfirst := bootPuts_read p (physKey (bootHome p b)) xs { s with mem := s.mem.write (physKey (bootHome p b)) x } (b + 1) hw'
      fun j hj h => by have := physKey_bootHome_inj p (by omega) (by omega) h; omega
    rw [List.length_cons, bootBytes_succ, bootPuts, hfirst, Memory.read_write_self _ _ _ hw, ih _ _ hw' (by omega)]

end State

/-! The events of BAR0 and BAR1 (R117). -/

section
variable (s : State) (p : Nat) (harg : s.arg.p = p) (hp : p < 512)
include harg hp

theorem yields_mgmtRegisterWrite (n : Nat) (hn : s.arg.n = n) {good : State → Prop} (hg : good ((s.plainWrite p n s.arg.word).getD s)) :
    Yields .mgmtRegisterWrite s fun t => SameMem s t ∧ good t := by
  subst harg hn
  refine Yields.of_exec (show exec .mgmtRegisterWrite s = execMgmtRegisterWrite s from rfl) ?_
  rw [if_neg (Nat.not_le.mpr hp)]
  exact ⟨fun a => by rw [State.plainWrite_mem], hg⟩

theorem yields_mgmtRegisterWrite_other (h : s.arg.n ∉ [4, 5, 6, 0xD, 0x1C, 0x1D]) : Yields .mgmtRegisterWrite s fun t => t = s := by
  subst harg
  refine Yields.of_exec (show exec .mgmtRegisterWrite s = execMgmtRegisterWrite s from rfl) ?_
  rw [if_neg (Nat.not_le.mpr hp), State.plainWrite_other _ _ _ _ h, Option.getD_none]

theorem yields_powercapWrite : Yields .powercapWrite s fun t => SameMem s t ∧ (t.pkg p).powerCap =
    if 1600 ≤ s.arg.word.toNat ∧ s.arg.word.toNat ≤ 2800 ∧ s.arg.word.toNat % 50 = 0 then s.arg.word else (s.pkg p).powerCap := by
  subst harg
  refine Yields.of_exec (show exec .powercapWrite s = execPowercapWrite s from rfl) ?_
  rw [if_neg (Nat.not_le.mpr hp)]
  exact ⟨fun a => by rw [State.writeCap_mem], State.writeCap_powerCap ..⟩

theorem yields_kboot {good : State → Prop} (hg : good (s.bootKernel p s.arg.word)) : Yields .kboot s good := by
  subst harg
  refine Yields.of_exec (show exec .kboot s = execKboot s from rfl) ?_
  rwa [if_neg (Nat.not_le.mpr hp)]

theorem yields_bar1Access_read (hf : s.arg.flag = false) (hin : s.arg.i + s.arg.n ≤ 2 ^ 32) :
    Yields .bar1Access s fun t => SameMem s t ∧ t.outbox = s.outbox ++ [(p, s.bootBytes p s.arg.i s.arg.n)] := by
  subst harg
  refine Yields.of_exec (show exec .bar1Access s = execBar1Access s from rfl) ?_
  rw [if_neg (Nat.not_le.mpr hp), if_neg (by simp [hf]), if_pos hin]
  exact ⟨fun a => rfl, rfl⟩

theorem yields_bar1Access_write (hf : s.arg.flag = true) (hin : s.arg.i + s.arg.bytes.length ≤ 2 ^ 32) (hw : s.mem.wf = true) :
    Yields .bar1Access s fun t =>
      SameMemBut ((List.range s.arg.bytes.length).map fun j => physKey (bootHome p (s.arg.i + j))) s t ∧
      t.bootBytes p s.arg.i s.arg.bytes.length = s.arg.bytes := by
  subst harg
  refine Yields.of_exec (show exec .bar1Access s = execBar1Access s from rfl) ?_
  rw [if_neg (Nat.not_le.mpr hp), if_pos hf, if_pos hin]
  refine ⟨fun a ha => State.bootPuts_read _ _ _ _ _ hw fun j hj h => ha ?_, State.bootBytes_bootPuts _ _ _ _ hw hin⟩
  exact List.mem_map.mpr ⟨j, List.mem_range.mpr hj, h⟩

end

/-- Settles O53: the messages and what their replies hold, each register as it reads and as it is written, KBOOT, and the window on a
package's boot space. -/
theorem management : Obligations.Management := by
  unfold Obligations.Management
  refine ⟨fun s hp => ⟨yields_mgmtRead_bar0 s _ rfl hp, yields_mgmtRead_bad s _ _ rfl rfl hp, yields_mgmtRead s _ _ rfl rfl hp,
    yields_mgmtWrite_bad s _ _ rfl rfl hp, yields_mgmtWrite_one s _ _ rfl rfl hp⟩, fun s p => ?_, fun s hp => ?_,
    fun s hp => ⟨yields_bar1Access_read s _ rfl hp, yields_bar1Access_write s _ rfl hp⟩⟩
  · refine ⟨rfl, rfl, rfl, rfl, rfl, rfl, rfl, rfl, rfl, rfl, fun i e hi he => ?_, fun i hi hno => ?_, s.mgmtReg_unlisted p⟩
    · rw [s.mgmtReg_event p i hi, he, Option.elim_some]
    · have hnone : (s.pkg p).events.find? (fun e => e.seq == (s.pkg p).evSel.toNat) = none :=
        List.find?_eq_none.mpr fun e he => by simpa using hno e he
      rw [s.mgmtReg_event p i hi, hnone, Option.elim_none]
  · have written := yields_mgmtRegisterWrite s _ rfl hp
    refine ⟨fun hn => written 4 hn (s.plainWrite_ringL _ _), fun hn => written 5 hn (s.plainWrite_ringH _ _),
      fun hn => written 6 hn (s.plainWrite_ringK _ _), fun hn => written 0xD hn (s.plainWrite_evSel _ _),
      fun hn => written 0x1C hn (s.plainWrite_kimageL _ _), fun hn => written 0x1D hn (s.plainWrite_kimageH _ _),
      yields_mgmtRegisterWrite_other s _ rfl hp, yields_powercapWrite s _ rfl hp,
      fun h => yields_kboot s _ rfl hp (s.bootKernel_ignored _ _ h),
      fun hv hrun hsec hstate => ⟨fun hok => yields_kboot s _ rfl hp (s.bootKernel_runs _ _ hv hrun hsec hstate hok),
        fun hbad => yields_kboot s _ rfl hp (s.bootKernel_bad _ _ hv hrun hsec hstate hbad)⟩⟩

end Sys2Proof.Machine
end

section
/-! PROOFS. TAKE (O32): the last gang of a child grid completes it (R137, R152), and the update of its completion signal (R89) is looked at by a
WAITC of another warp (R402). -/

open Sys2Proof Sys2Proof.Machine

namespace Sys2Proof.Machine

/-- A child grid of one gang, whose completion signal is the word at 0x5000. -/
def signallingChild : Launch := { (default : Launch) with src := .child Tests.d0, gx := 1, gy := 1, gz := 1, signal := 0x5000 }

/-- The second warp of the placed block. -/
def secondWarp : WarpId := { core := placeCore, slot := 1 }

/-- The die's Broker holds the gang of that grid, and the second warp stands at a WAITC for the first signal. No COUNT slot is armed. -/
def lastTake : State :=
  let s := (Tests.domain.setLaunch 0 signallingChild).updShare (State.dieBroker Tests.d0) 0 fun x => { x with runs := [(0, 1)] }
  let w := Warp.start placeBlock 1 16 8 0x10000
  s.setWarp secondWarp { w with a := { w.a with await := some { pa := 0x5000, target := 1, sc := false, hit := false } } }

theorem lastTake_site : ∃ x, lastTake.siteOf = some x ∧ x.wid ≠ secondWarp ∧ x.core.dieId = Tests.d0 ∧ x.w.block.grid = 0 :=
  Tests.witness (by decide +kernel)

/-- A warp's slot A waits for a counter that its home has found true (R402). -/
def State.awaitHit (s : State) (w : WarpId) : Bool := (s.warp? w).any fun v => v.a.await.any (·.hit)

/-- The TAKE completes the grid, and the home of the signal finds the other warp's condition true. -/
theorem lastTake_after : ∃ t, exec (.take (Tests.r3 5 0 0)) lastTake = .next t ∧ t.awaitHit secondWarp = true :=
  ⟨_, rfl, by decide +kernel⟩

/-- Refutes O32: of a TAKE that a child grid's gang is given to, the statement says that every other warp stays as it is where no COUNT slot is
armed. The last gang completes a child grid at once (R137, R152), its completion signal is updated (R89), and a WAITC of another warp that
waits for that word is found true at its home (R402). -/
theorem not_takeGang : ¬ Obligations.TakeGang := by
  unfold Obligations.TakeGang
  intro h
  obtain ⟨hgives, -⟩ := h
  obtain ⟨x, hx, hother, hd, hgrid⟩ := lastTake_site
  have hgive := hgives (Tests.r3 5 0 0) lastTake x signallingChild hx (by decide)
  rw [hd, hgrid] at hgive
  obtain ⟨t, w, g, ht, -, hwarps, -⟩ := hgive rfl (fun _ => by decide +kernel) rfl (by decide +kernel) (by decide +kernel) (by decide +kernel)
  obtain ⟨u, hu, hhit⟩ := lastTake_after
  obtain rfl : t = u := Host.Outcome.next.inj (ht.symm.trans hu)
  rw [State.awaitHit, hwarps secondWarp hother.symm] at hhit
  exact absurd hhit (by decide +kernel)

end Sys2Proof.Machine
end

section
/-! PROOFS. Messages between Brokers (O49): gangs of a child grid that no child of a Broker can run are lost (R136), and the last of them
completes the grid (R137), whose registry entry is written (R256). -/

open Sys2Proof Sys2Proof.Machine

namespace Sys2Proof.Machine

/-- A child grid of 16 gangs that no die has a weight for. -/
def weightlessChild : Launch := { Tests.launch5 with src := .child Tests.d0, weights := [] }

/-- All its gangs come to a package's Broker. -/
def rangeDue : State := Tests.grid weightlessChild (.tray 0) (.pkg 0) 0 16

theorem rangeDue_inTurn : rangeDue.inTurn weightlessChild := ⟨by decide +kernel, rfl, rfl, rfl⟩

/-- The place of the state byte of the grid's registry entry (R256). -/
def entryKey : Nat := 92358574144

/-- The grid is complete: its entry says so. -/
theorem rangeDue_after : ∃ t, exec .brokerRange rangeDue = .next t ∧ t.mem.read entryKey = 2 := ⟨_, rfl, by decide +kernel⟩

/-- Refutes O49: of a RANGE that comes to a package's or a tray's Broker the statement says that no byte of memory changes. Gangs that no child
can run are lost (R136); a child grid's losses are accounted for where they occur (R137), so the last of them completes the grid, and the
device writes its registry entry (R256). -/
theorem not_brokers : ¬ Obligations.Brokers := by
  unfold Obligations.Brokers
  intro h
  obtain ⟨-, -, -, -, -, hturn, -⟩ := h
  obtain ⟨-, hdown, -⟩ := hturn rangeDue weightlessChild rangeDue_inTurn rfl
  obtain ⟨t, ht, hmem, -⟩ := hdown .brokerRange (Or.inl ⟨rfl, fun _ _ _ => BrokerId.noConfusion⟩) rfl (Or.inr ⟨0, rfl, by decide +kernel⟩)
  obtain ⟨u, hu, hread⟩ := rangeDue_after
  obtain rfl : t = u := Host.Outcome.next.inj (ht.symm.trans hu)
  rw [hmem] at hread
  exact absurd hread (by decide +kernel)

end Sys2Proof.Machine
end

section
/-! PROOFS. Contexts: the warps that there are, with their blocks, and the blocks. What traffic, Brokers, firmware and a write at a home leave of
them, and the end of a block or a launch, behind which nothing of a block that has gone comes back. -/

open Sys2Proof Sys2Proof.Machine

namespace Sys2Proof.Machine

/-- A value put at a key in place of one with the same image under a view leaves the view of the table. -/
theorem tset_map {κ α β : Type} [DecidableEq κ] (g : κ × α → β) {k : κ} {v v' : α} (hg : g (k, v') = g (k, v)) :
    ∀ {t : Tab κ α}, tget? t k = some v → (tset t k v').map g = t.map g := by
  intro t
  induction t with
  | nil => exact fun h => nomatch h
  | cons x t ih =>
    obtain ⟨k', w⟩ := x
    intro h
    rw [tget?] at h
    rw [tset]
    split at h
    · next e =>
      obtain rfl := Option.some.inj h
      obtain rfl := e
      rw [if_pos rfl, List.map_cons, List.map_cons, hg]
    · next e => rw [if_neg e, List.map_cons, List.map_cons, ih h]

theorem tget?_filter_eq_none {κ α : Type} [DecidableEq κ] (q : κ × α → Bool) {k : κ} :
    ∀ {t : Tab κ α}, (tget? t k = none ∨ ∀ v, q (k, v) = false) → tget? (t.filter q) k = none := by
  intro t
  induction t with
  | nil => exact fun _ => rfl
  | cons x t ih =>
    obtain ⟨k', v⟩ := x
    intro h
    rw [List.filter_cons]
    by_cases e : k' = k
    · subst e
      have hv : q (k', v) = false := h.elim (fun h => by simp [tget?] at h) (· v)
      rw [hv]
      exact ih (h.imp_left fun h => by simp [tget?] at h)
    · have ht : tget? (t.filter q) k = none := ih (h.imp_left fun h => by rwa [tget?, if_neg e] at h)
      split
      · rwa [tget?, if_neg e]
      · exact ht

namespace State

/-- The warps that there are, each with its block, and the blocks. -/
def contexts (s : State) : List (WarpId × BlockId) × Tab BlockId Block := (s.warps.map fun x => (x.1, x.2.block), s.blocks)

variable {s t : State}

theorem contexts_of (hw : t.warps = s.warps) (hb : t.blocks = s.blocks) : t.contexts = s.contexts := by rw [contexts, contexts, hw, hb]

theorem block?_of_contexts (h : t.contexts = s.contexts) (b : BlockId) : t.block? b = s.block? b := by
  rw [block?, block?, show t.blocks = s.blocks from congrArg Prod.snd h]

/-! Updates of one unit. -/

@[simp] theorem setCore_contexts (s : State) (c : CoreId) (v : Core) : (s.setCore c v).contexts = s.contexts := rfl
@[simp] theorem updCore_contexts (s : State) (c : CoreId) (f : Core → Core) : (s.updCore c f).contexts = s.contexts := rfl
@[simp] theorem setDie_contexts (s : State) (d : DieId) (v : Die) : (s.setDie d v).contexts = s.contexts := rfl
@[simp] theorem updDie_contexts (s : State) (d : DieId) (f : Die → Die) : (s.updDie d f).contexts = s.contexts := rfl
@[simp] theorem setPkg_contexts (s : State) (p : Nat) (v : Package) : (s.setPkg p v).contexts = s.contexts := rfl
@[simp] theorem updPkg_contexts (s : State) (p : Nat) (f : Package → Package) : (s.updPkg p f).contexts = s.contexts := rfl
@[simp] theorem setLaunch_contexts (s : State) (h : Nat) (v : Launch) : (s.setLaunch h v).contexts = s.contexts := rfl
@[simp] theorem updBroker_contexts (s : State) (k : BrokerId) (f : Broker → Broker) : (s.updBroker k f).contexts = s.contexts := rfl
@[simp] theorem updShare_contexts (s : State) (k : BrokerId) (h : Nat) (f : Share → Share) : (s.updShare k h f).contexts = s.contexts := rfl
@[simp] theorem setBrokerTag_contexts (s : State) (k : BrokerId) (n : Nat) (t : Tag) : (s.setBrokerTag k n t).contexts = s.contexts := rfl
@[simp] theorem setTag_contexts (s : State) (c : CoreId) (n : Nat) (t : Tag) : (s.setTag c n t).contexts = s.contexts := rfl
@[simp] theorem allocTag_contexts (s : State) (c : CoreId) (n : Nat) : (s.allocTag c n).contexts = s.contexts := rfl
@[simp] theorem setLine_contexts (s : State) (c : CoreId) (l : CacheLine) : (s.setLine c l).contexts = s.contexts := rfl
@[simp] theorem dropLine_contexts (s : State) (c : CoreId) (pa : Nat) : (s.dropLine c pa).contexts = s.contexts := rfl
@[simp] theorem staleFills_contexts (s : State) (c : CoreId) (f : Nat → Bool) : (s.staleFills c f).contexts = s.contexts := rfl
@[simp] theorem post_contexts (s : State) (i : Instr) (a : Arg) : (s.post i a).contexts = s.contexts := rfl
@[simp] theorem after_contexts (s : State) (n : Nat) (i : Instr) (a : Arg) : (s.after n i a).contexts = s.contexts := rfl
@[simp] theorem cancel_contexts (s : State) (i : Instr) (a : Arg) : (s.cancel i a).contexts = s.contexts := rfl

@[simp] theorem updLaunch_contexts (s : State) (h : Nat) (f : Launch → Launch) : (s.updLaunch h f).contexts = s.contexts := by
  unfold updLaunch; split <;> rfl

@[simp] theorem postOnce_contexts (s : State) (i : Instr) (a : Arg) : (s.postOnce i a).contexts = s.contexts := by
  unfold postOnce; split <;> rfl

@[simp] theorem afterOnce_contexts (s : State) (n : Nat) (i : Instr) (a : Arg) : (s.afterOnce n i a).contexts = s.contexts := by
  unfold afterOnce; split <;> rfl

/-- An update of a warp that leaves its block. -/
@[simp] theorem updWarp_contexts (s : State) (w : WarpId) (f : Warp → Warp) (h : ∀ v, (f v).block = v.block) :
    (s.updWarp w f).contexts = s.contexts := by
  unfold updWarp
  split
  · next v hv => exact congrArg (·, s.blocks) (tset_map (fun x : WarpId × Warp => (x.1, x.2.block)) (congrArg (Prod.mk w) (h v)) hv)
  · rfl

@[simp] theorem foldl_contexts {α : Type} (f : State → α → State) (h : ∀ s x, (f s x).contexts = s.contexts) (l : List α) (s : State) :
    (l.foldl f s).contexts = s.contexts := foldl_keeps contexts f h l s

/-! Records, ports and packets. -/

@[simp] theorem log_contexts (s : State) (p : Nat) (e : Endpoint) (code tag : Nat) (v : DWord) : (s.log p e code tag v).contexts = s.contexts := by
  simp [log]

@[simp] theorem setPort_contexts (s : State) (p n : Nat) (v : Port) : (s.setPort p n v).contexts = s.contexts := by simp [setPort]

@[simp] theorem enqueueBy_contexts (s : State) (p m : Nat) (f : List (List Byte) → List (List Byte)) :
    (s.enqueueBy p m f).contexts = s.contexts := by
  simp [enqueueBy]

@[simp] theorem sendFlit_contexts (s : State) (p : Nat) (f : List Byte) : (s.sendFlit p f).contexts = s.contexts := by
  unfold sendFlit
  dsimp only
  split <;> simp

@[simp] theorem arriveSlot_contexts (s : State) (q : Packet) : (s.arriveSlot q).contexts = s.contexts := by
  unfold arriveSlot
  split <;> simp

@[simp] theorem arrive_contexts (s : State) (q : Packet) : (s.arrive q).contexts = s.contexts := by
  unfold arrive
  dsimp only
  repeat' split
  all_goals simp

@[simp] theorem arriveLine_contexts (s : State) (l : LinePkt) : (s.arriveLine l).contexts = s.contexts := by
  unfold arriveLine
  split <;> simp

@[simp] theorem send_contexts (s : State) (q : Packet) : (s.send q).contexts = s.contexts := by
  unfold send
  split <;> simp

@[simp] theorem sendLine_contexts (s : State) (l : LinePkt) : (s.sendLine l).contexts = s.contexts := by
  unfold sendLine
  split <;> simp

/-! Tags and the first-level cache. -/

theorem takeTag_contexts {c : CoreId} {far : Bool} {use : TagUse} {n : Nat} (h : s.takeTag c far use = some (n, t)) :
    t.contexts = s.contexts := by
  unfold takeTag at h
  split at h
  · split at h
    · obtain ⟨-, rfl⟩ : _ ∧ _ = t := by simpa using h
      exact updWarp_contexts _ _ _ fun _ => rfl
    · obtain ⟨-, rfl⟩ : _ ∧ _ = t := by simpa using h
      simp
  · obtain ⟨-, rfl⟩ : _ ∧ _ = t := by simpa using h
    simp

@[simp] theorem holdTag_contexts (s : State) (c : CoreId) (n : Nat) (q : Packet) (l : Option LinePkt) (use : TagUse) :
    (s.holdTag c n q l use).contexts = s.contexts := by
  unfold holdTag
  split <;> simp

theorem requestLine_contexts {c : CoreId} {far : Bool} {l : LinePkt} {use : TagUse} (h : s.requestLine c far l use = some t) :
    t.contexts = s.contexts := by
  unfold requestLine at h
  split at h
  · exact absurd h (by simp)
  · next e =>
    dsimp only at h
    split at h <;> obtain rfl := Option.some.inj h <;> simp [takeTag_contexts e]

@[simp] theorem writeBack_contexts (s : State) (c : CoreId) (l : CacheLine) : (s.writeBack c l).contexts = s.contexts := by
  unfold writeBack
  split
  · simp
  · dsimp only
    split
    · next e => simp [requestLine_contexts e]
    · simp

@[simp] theorem recallLine_contexts (s : State) (c : CoreId) (l : CacheLine) : (s.recallLine c l).contexts = s.contexts := by
  unfold recallLine
  split <;> simp

/-! Events of warps, and watches. -/

@[simp] theorem fireSlots_contexts (s : State) (w : WarpId) (f : EventSlot → Bool) : (s.fireSlots w f).contexts = s.contexts :=
  updWarp_contexts _ _ _ fun _ => rfl

@[simp] theorem fireWatchesOf_contexts (s : State) (p : Nat) (d : DieId) (pa n : Nat) : (s.fireWatchesOf p d pa n).contexts = s.contexts := by
  unfold fireWatchesOf
  dsimp only
  split
  · rfl
  · exact foldl_contexts _ (fun _ _ => updPkg_contexts ..) _ _

@[simp] theorem fireWatches_contexts (s : State) (d : DieId) (pa n : Nat) : (s.fireWatches d pa n).contexts = s.contexts :=
  fireWatchesOf_contexts ..

@[simp] theorem answered_contexts (s : State) (pa n : Nat) : (s.answered pa n).contexts = s.contexts := by
  unfold answered
  dsimp only
  split <;> simp

@[simp] theorem handWatches_contexts (s : State) (d : DieId) (old : Tables) : (s.handWatches d old).contexts = s.contexts := by
  unfold handWatches
  refine (foldl_contexts _ (fun s w => ?_) _ _).trans (by simp)
  split <;> simp

/-! Tables. -/

@[simp] theorem switchDie_contexts (s : State) (d : DieId) : (s.switchDie d).contexts = s.contexts := by
  unfold switchDie
  dsimp only
  split
  · rfl
  · simp

@[simp] theorem meetVersion_contexts (s : State) (d : DieId) (v : BitVec 16) : (s.meetVersion d v).contexts = s.contexts := by
  unfold meetVersion
  split
  · split <;> simp
  · rfl

theorem reach_contexts {d : DieId} {pa b : Nat} {h : Home} (e : s.reach d pa = .at_ h b t) : t.contexts = s.contexts :=
  reach_induction (P := fun u => u.contexts = s.contexts) rfl (fun _ _ _ hu => (meetVersion_contexts ..).trans hu) e

/-! Writes at a home, and what follows them. -/

@[simp] theorem homePuts_contexts (s : State) (d : DieId) (pa : Nat) (bs : List Byte) : (s.homePuts d pa bs).contexts = s.contexts := by
  rw [homePuts_eq]
  rfl

@[simp] theorem deviceWrite_contexts (s : State) (c : CoreId) (pa : Nat) (bs : List Byte) : (s.deviceWrite c pa bs).contexts = s.contexts := by
  simp [deviceWrite]

@[simp] theorem regPut_contexts (s : State) (pa : Nat) (bs : List Byte) : (s.regPut pa bs).contexts = s.contexts := homePuts_contexts ..

@[simp] theorem noteCounts_contexts (s : State) (h : Nat) : (s.noteCounts h).contexts = s.contexts := regPut_contexts ..

@[simp] theorem markDirty_contexts (s : State) (d : DieId) (pa : Nat) : (s.markDirty d pa).contexts = s.contexts := by
  unfold markDirty
  dsimp only
  split <;> simp

@[simp] theorem stampSc_contexts (s : State) (h : Home) (order : Nat) (e : Endpoint) : (s.stampSc h order e).contexts = s.contexts := by
  unfold stampSc
  split <;> simp

@[simp] theorem evalAwait_contexts (s : State) (d : DieId) (near : Nat → Bool) (w : WarpId) (x : PcSel) :
    (s.evalAwait d near w x).contexts = s.contexts := by
  unfold evalAwait
  dsimp only
  repeat' split
  all_goals simp

@[simp] theorem fireCounts_contexts (s : State) (d : DieId) (pa n : Nat) : (s.fireCounts d pa n).contexts = s.contexts := by simp [fireCounts]

@[simp] theorem pushLine_contexts (s : State) (h : Home) (pa : Nat) (d : DieId) (m : BitVec 128) : (s.pushLine h pa d m).contexts = s.contexts := by
  unfold pushLine
  dsimp only
  split <;> simp

@[simp] theorem pushAll_contexts (s : State) (h : Home) (pa : Nat) : (s.pushAll h pa).contexts = s.contexts := by simp [pushAll]

@[simp] theorem afterWrite_contexts (s : State) (h : Home) (pa n : Nat) : (s.afterWrite h pa n).contexts = s.contexts := by
  unfold afterWrite
  dsimp only
  split
  · simp
  · split <;> split <;> simp

@[simp] theorem homeWrite_contexts (s : State) (d : DieId) (pa : Nat) (bs : List Byte) : (s.homeWrite d pa bs).contexts = s.contexts := by
  unfold homeWrite
  split
  · dsimp only
    split
    · exact (afterWrite_contexts ..).trans (homePuts_contexts ..)
    · simp
  · rfl

/-! The record and the signal of a launch (R88, R89). -/

theorem fwWrite_contexts (p fuel : Nat) : ∀ {s t : State} {va : Nat} {bs r : List Byte}, s.fwWrite p va bs fuel = .ok r t →
    t.contexts = s.contexts := by
  induction fuel with
  | zero =>
    intro s t va bs r h
    obtain ⟨-, rfl⟩ := Access.ok.inj h
    rfl
  | succ fuel ih =>
    intro s t va bs r h
    unfold fwWrite at h
    split at h
    · obtain ⟨-, rfl⟩ := Access.ok.inj h
      rfl
    · split at h
      · contradiction
      · contradiction
      · split at h
        · contradiction
        · contradiction
        · next hr =>
          dsimp only at h
          split at h
          · contradiction
          · split at h
            · contradiction
            · rw [ih h, homeWrite_contexts, reach_contexts hr]

theorem writeRecord_contexts {l : Launch} {n : Nat} {r : Option (DieId × Nat)} (h : s.writeRecord l n = some (t, r)) :
    t.contexts = s.contexts := by
  unfold writeRecord at h
  dsimp only at h
  split at h
  · obtain ⟨rfl, -⟩ := Prod.mk.inj (Option.some.inj h)
    rfl
  · split at h
    · next hp =>
      obtain ⟨rfl, -⟩ := Prod.mk.inj (Option.some.inj h)
      exact fwWrite_contexts _ _ hp
    · contradiction
    · obtain ⟨rfl, -⟩ := Prod.mk.inj (Option.some.inj h)
      rfl

theorem signalUpdate_contexts {p : Nat} {va : DWord} {op : Nat} {v : DWord} {tag : Option DWord} {r : List Byte}
    (h : s.signalUpdate p va op v tag = .ok r t) : t.contexts = s.contexts := by
  unfold signalUpdate at h
  split at h
  · contradiction
  · contradiction
  · split at h
    · contradiction
    · contradiction
    · next hr =>
      dsimp only at h
      repeat' split at h
      all_goals simp only [Access.ok.injEq, reduceCtorEq] at h
      all_goals
        obtain ⟨-, rfl⟩ := h
        simp [reach_contexts hr]

theorem completeSignal_contexts {l : Launch} {r : Option (DieId × Nat)} (h : s.completeSignal l r = some t) : t.contexts = s.contexts := by
  unfold completeSignal at h
  extract_lets held at h
  split_ifs at h
  · rw [Option.some.inj h]
  · split at h
    · next hs => rw [← Option.some.inj h, signalUpdate_contexts hs]
    · contradiction
    · rw [Option.some.inj h]

/-! Brokers and their messages. -/

@[simp] theorem numbered_contexts (s : State) (m : BrokerMsg) : (s.numbered m).2.contexts = s.contexts := rfl

@[simp] theorem refuseSteal_contexts (s : State) (m : BrokerMsg) : (s.refuseSteal m).contexts = s.contexts := rfl

@[simp] theorem brokerSend_contexts (s : State) (i : Instr) (m : BrokerMsg) : (s.brokerSend i m).contexts = s.contexts := by
  unfold brokerSend
  dsimp only
  split <;> simp

@[simp] theorem passMsg_contexts (s : State) (i : Instr) (m : BrokerMsg) : (s.passMsg i m).contexts = s.contexts := by
  unfold passMsg
  repeat' split
  all_goals simp

@[simp] theorem tell_contexts (s : State) (i : Instr) (src dst : BrokerId) (g f c : Nat) (v : DWord) :
    (s.tell i src dst g f c v).contexts = s.contexts :=
  (passMsg_contexts ..).trans (numbered_contexts ..)

@[simp] theorem poke_contexts (s : State) (d : DieId) : (s.poke d).contexts = s.contexts := postOnce_contexts ..

@[simp] theorem pokePkg_contexts (s : State) (p : Nat) : (s.pokePkg p).contexts = s.contexts := by simp [pokePkg]

@[simp] theorem freeIdle_contexts (s : State) (g : GangRef) : (s.freeIdle g).contexts = s.contexts := by
  unfold freeIdle
  split <;> rfl

/-! Reservations that are rolled back, and saved gangs that are offered for a restore (R147, R155). -/

@[simp] theorem dropReservation_contexts (s : State) (k : BrokerId) (g : GangRef) : (s.dropReservation k g).contexts = s.contexts := rfl

@[simp] theorem releaseCores_contexts (s : State) (r : Reservation) : (s.releaseCores r).contexts = s.contexts := rfl

@[simp] theorem returnGang_contexts (s : State) (r : Reservation) : (s.returnGang r).contexts = s.contexts := by
  unfold returnGang
  split <;> simp

@[simp] theorem tellHalves_contexts (s : State) (i : Instr) (r : Reservation) (k : BrokerId) : (s.tellHalves i r k).contexts = s.contexts := by
  simp [tellHalves]

@[simp] theorem giveUp_contexts (s : State) (r : Reservation) (k : BrokerId) : (s.giveUp r k).contexts = s.contexts := by
  unfold giveUp
  split <;> simp

@[simp] theorem rollback_contexts (s : State) (k : BrokerId) (r : Reservation) : (s.rollback k r).contexts = s.contexts := by
  unfold rollback
  dsimp only
  split <;> simp

@[simp] theorem queuedAt_contexts (s : State) (d : DieId) (n : Nat) : (s.queuedAt d n).contexts = s.contexts := by
  refine (poke_contexts ..).trans (foldl_contexts _ (fun s x => ?_) _ _)
  dsimp only
  repeat' split
  all_goals simp

@[simp] theorem offerGang_contexts (s : State) (g : GangRef) : (s.offerGang g).contexts = s.contexts := by
  unfold offerGang
  dsimp only
  repeat' split
  all_goals simp

@[simp] theorem rejoin_contexts (s : State) (g : GangRef) : (s.rejoin g).contexts = s.contexts := by
  unfold rejoin
  dsimp only
  split
  · split
    · simp
    · refine (foldl_contexts _ (fun s d => ?_) _ _).trans (offerGang_contexts ..)
      split <;> simp
  · rfl

/-! Blocks that have gone. -/

/-- A block has gone: it is not there, and no warp is of it. -/
def Cleared (s : State) (b : BlockId) : Prop := s.block? b = none ∧ ∀ y ∈ s.warps, y.2.block ≠ b

variable {b : BlockId}

theorem block_ne_of_contexts (hs : ∀ y ∈ s.warps, y.2.block ≠ b) (h : t.contexts = s.contexts) : ∀ y ∈ t.warps, y.2.block ≠ b := by
  intro y hy e
  have hm : (y.1, y.2.block) ∈ s.warps.map fun x => (x.1, x.2.block) := by
    rw [← show t.warps.map _ = s.warps.map _ from congrArg Prod.fst h]
    exact List.mem_map_of_mem hy
  obtain ⟨z, hz, ez⟩ := List.mem_map.mp hm
  exact hs z hz ((congrArg Prod.snd ez).trans e)

theorem Cleared.of_contexts (hs : s.Cleared b) (h : t.contexts = s.contexts) : t.Cleared b :=
  ⟨(block?_of_contexts h b).trans hs.1, block_ne_of_contexts hs.2 h⟩

/-- The end of a launch takes its blocks away. -/
theorem retireLaunch_contexts (s : State) (h : Nat) (l : Launch) :
    (s.retireLaunch h l).contexts = (s.contexts.1, s.contexts.2.filter fun x => x.1.grid != h) := by
  have hr := congrArg (fun c : List (WarpId × BlockId) × Tab BlockId Block => (c.1, c.2.filter fun x => x.1.grid != h))
    (regPut_contexts s (s.entryPool h + 192) (leBytes 1 2))
  unfold retireLaunch
  dsimp only
  split
  · rw [postOnce_contexts]
    split
    · rw [post_contexts]
      split
      · exact hr
      · exact hr
    · split
      · exact hr
      · exact hr
  · rw [postOnce_contexts]
    exact hr
  · exact hr

theorem block?_retireLaunch (s : State) (h : Nat) (l : Launch) (hb : s.block? b = none ∨ b.grid = h) : (s.retireLaunch h l).block? b = none := by
  rw [block?, show (s.retireLaunch h l).blocks = _ from congrArg Prod.snd (retireLaunch_contexts s h l)]
  exact tget?_filter_eq_none _ (hb.imp_right fun e v => by simp [e])

theorem cleared_retireLaunch (s : State) (h : Nat) (l : Launch) (hb : s.block? b = none ∨ b.grid = h) (hw : ∀ y ∈ s.warps, y.2.block ≠ b) :
    (s.retireLaunch h l).Cleared b := by
  have hc : State.Cleared { s with blocks := (s.retireLaunch h l).blocks } b := ⟨block?_retireLaunch s h l hb, hw⟩
  have he : (s.retireLaunch h l).contexts.1 = s.contexts.1 := by rw [retireLaunch_contexts]
  exact hc.of_contexts (congrArg (·, (s.retireLaunch h l).blocks) he)

theorem Cleared.retireLaunch (hs : s.Cleared b) (h : Nat) (l : Launch) : (s.retireLaunch h l).Cleared b :=
  cleared_retireLaunch s h l (.inl hs.1) hs.2

theorem Cleared.tryComplete (hs : s.Cleared b) (h : Nat) : (s.tryComplete h).Cleared b := by
  unfold State.tryComplete
  split
  · exact hs
  · split
    · exact hs
    · dsimp only
      split
      · exact hs.of_contexts (by simp)
      · next hw =>
        split
        · next hc => exact (hs.of_contexts ((completeSignal_contexts hc).trans (writeRecord_contexts hw))).retireLaunch ..
        · exact hs.of_contexts (by simp [writeRecord_contexts hw])

theorem Cleared.addDone (hs : s.Cleared b) (h n m : Nat) : (s.addDone h n m).Cleared b :=
  (hs.of_contexts (updLaunch_contexts ..)).tryComplete h

theorem Cleared.report (hs : s.Cleared b) (k : BrokerId) (h : Nat) : (s.report k h).Cleared b := by
  unfold State.report
  extract_lets sh t child
  split
  · exact hs
  · split
    · exact hs.of_contexts (by simp)
    · split
      · exact hs.of_contexts (by simp [t])
      · exact (hs.of_contexts (updShare_contexts ..)).addDone ..

theorem Cleared.count (hs : s.Cleared b) (k : BrokerId) (h n m : Nat) : (s.count k h n m).Cleared b :=
  (hs.of_contexts (updShare_contexts ..)).report ..

end State
end Sys2Proof.Machine
end

section
/-! PROOFS. The warp timer's event slots (R186). -/

open Sys2Proof Sys2Proof.Machine

namespace Sys2Proof.Machine

/-- Bits or-ed in one after the other. -/
theorem getLsbD_foldl_or (p : Nat → Bool) (i : Nat) (hi : i < 8) : ∀ (l : List Nat) (m : BitVec 8),
    (l.foldl (fun m j => if p j then m ||| ((1 : BitVec 8) <<< j) else m) m).getLsbD i = (m.getLsbD i || (l.contains i && p i)) := by
  intro l
  induction l with
  | nil => simp
  | cons j l ih =>
    intro m
    have hbit : ((1 : BitVec 8) <<< j).getLsbD i = (i == j) := by
      rw [show (1 : BitVec 8) <<< j = BitVec.twoPow 8 j from rfl, BitVec.getLsbD_twoPow]
      by_cases hj : j = i
      · simp [hj, hi]
      · simp [hj, Ne.symm hj]
    have hstep : (if p j then m ||| ((1 : BitVec 8) <<< j) else m).getLsbD i = (m.getLsbD i || (i == j) && p i) := by
      by_cases hj : i = j
      · subst hj
        split
        · next hp => rw [BitVec.getLsbD_or, hbit, hp, Bool.and_true]
        · next hp => rw [Bool.eq_false_iff.mpr hp, Bool.and_false, Bool.or_false]
      · rw [beq_false_of_ne hj] at hbit ⊢
        split
        · rw [BitVec.getLsbD_or, hbit, Bool.false_and]
        · rw [Bool.false_and, Bool.or_false]
    rw [List.foldl_cons, ih, List.contains_cons, hstep, Bool.or_assoc, ← Bool.and_or_distrib_right]

/-- The event slots of a warp for which a condition holds have fired (R186). -/
def Warp.fired (v : Warp) (f : EventSlot → Bool) : Warp :=
  { v with
    evp := (List.range 8).foldl (fun m i =>
      if (v.events.getD i default).armed && f (v.events.getD i default) then m ||| ((1 : BitVec 8) <<< i) else m) v.evp
    events := v.events.map fun e => if e.armed && f e then { e with armed := false, fired := true } else e }

theorem Warp.fired_evp (v : Warp) (f : EventSlot → Bool) (i : Nat) (hi : i < 8) :
    (v.fired f).evp.getLsbD i = (v.evp.getLsbD i || ((v.events.getD i default).armed && f (v.events.getD i default))) := by
  rw [fired, getLsbD_foldl_or (fun i => (v.events.getD i default).armed && f (v.events.getD i default)) i hi]
  simp [hi]

theorem Warp.fired_events (v : Warp) (f : EventSlot → Bool) (i : Nat) : (v.fired f).events.getD i default =
    if (v.events.getD i default).armed && f (v.events.getD i default) then { v.events.getD i default with armed := false, fired := true }
    else v.events.getD i default := by
  rw [fired, List.getD_eq_getElem?_getD, List.getElem?_map, List.getD_eq_getElem?_getD]
  cases v.events[i]? <;> rfl

namespace State
variable {s t : State}

theorem exec_eventTimerFire {v : Warp} (h : s.warp? s.arg.w = some v) :
    exec .eventTimerFire s = .next (s.updWarp s.arg.w (·.fired fun e => e.kind == 5 && decide (e.target.toNat ≤ v.timer.toNat))) := by
  show execEventTimerFire s = _
  rw [execEventTimerFire, h]
  rfl

theorem yields_eventTimerFire {w : Warp} (h : s.warp? s.arg.w = some w) :
    Yields .eventTimerFire s fun t => SameMem s t ∧ OtherWarps s t s.arg.w ∧
    ∃ v, t.warp? s.arg.w = some v ∧ ∀ i, i < 8 → let e := w.events.getD i default
      if e.armed = true ∧ e.kind = 5 ∧ e.target.toNat ≤ w.timer.toNat then
        v.evp.getLsbD i = true ∧ v.events.getD i default = { e with armed := false, fired := true }
      else v.evp.getLsbD i = w.evp.getLsbD i ∧ v.events.getD i default = e := by
  refine Yields.of_exec (exec_eventTimerFire h)
    ⟨SameMem.of_ground (updWarp_ground ..), fun v hv => updWarp_others _ _ _ v hv, _, warp?_updWarp_self h _, fun i hi => ?_⟩
  extract_lets e
  have hfires : (e.armed && (e.kind == 5 && decide (e.target.toNat ≤ w.timer.toNat))) = true ↔
      e.armed = true ∧ e.kind = 5 ∧ e.target.toNat ≤ w.timer.toNat := by simp
  rw [Warp.fired_evp _ _ _ hi, Warp.fired_events]
  split
  · next hc => rw [hfires.mpr hc, Bool.or_true]; exact ⟨rfl, rfl⟩
  · next hc => rw [Bool.eq_false_iff.mpr (mt hfires.mp hc), Bool.or_false]; exact ⟨rfl, rfl⟩

end State

end Sys2Proof.Machine
end

section
/-! PROOFS. The move of lanes by a REGROUP (R181) in a block of one warp. -/

open Sys2Proof Sys2Proof.Machine

namespace Sys2Proof.Machine

theorem mem_of_tget? {κ α : Type} [DecidableEq κ] {k : κ} {v : α} : ∀ {t : Tab κ α}, tget? t k = some v → (k, v) ∈ t := by
  intro t
  induction t with
  | nil => exact fun h => nomatch h
  | cons x t ih =>
    obtain ⟨k', v'⟩ := x
    intro h
    rw [tget?] at h
    split at h
    · next e =>
      obtain rfl := Option.some.inj h
      exact e ▸ List.mem_cons_self
    · exact List.mem_cons_of_mem _ (ih h)

theorem commitHeld_of_held_nil (w : Warp) (h : w.a.held = []) : commitHeld w .a = w := by
  have hs : ({ w.a with held := [] } : PcSlot) = w.a := by rw [← h]
  rw [commitHeld, Warp.slot, h]
  exact congrArg (fun a => { w with a := a }) hs

/-- A warp whose lanes have moved: position `p` takes what stood at `from_ p` of the warps that `find` numbers, and slot A goes on at `pc`. -/
def Warp.moved (w : Warp) (find : Nat → Warp) (from_ : Pos → Pos) (alive : Pos → Bool) (pc : DWord) : Warp :=
  let src : Nat → Pos := fun l => from_ (w.num, l)
  let m := maskOf fun l => alive (src l)
  { w with
    v := (List.range w.v.length).map fun r =>
      { lanes := lanesOf fun l => lane ((find (src l).1).vreg r).lanes (src l).2, full := true
        poison := (laneNums.filterMap fun l => ((find (src l).1).vreg r).poison).head? }
    p := (List.range w.p.length).map fun r => maskOf fun l => ((find (src l).1).p.getD r 0).getLsbD (src l).2
    regrouping := none, exited := w.exited && m == 0
    a := { PcSlot.empty with mask := m, pc := pc, issued := w.a.issued, scLast := w.a.scLast } }

section
variable {w : Warp} {find : Nat → Warp} {from_ : Pos → Pos} {alive : Pos → Bool} {pc : DWord} {l n : Nat}

theorem Warp.lane_moved {r : Nat} (hr : r < w.v.length) (hl : l < 32) (hf : from_ (w.num, l) = (w.num, n)) (hw : find w.num = w) :
    lane ((w.moved find from_ alive pc).vreg r).lanes l = lane (w.vreg r).lanes n := by
  rw [vreg, List.getD_eq_getElem?_getD, moved, List.getElem?_map, List.getElem?_range hr]
  rw [Option.map_some, Option.getD_some, lane_lanesOf _ _ hl]
  simp only [hf, hw]

theorem Warp.p_moved {r : Nat} (hr : r < w.p.length) (hl : l < 32) (hf : from_ (w.num, l) = (w.num, n)) (hw : find w.num = w) :
    ((w.moved find from_ alive pc).p.getD r 0).getLsbD l = (w.p.getD r 0).getLsbD n := by
  rw [List.getD_eq_getElem?_getD, moved, List.getElem?_map, List.getElem?_range hr]
  rw [Option.map_some, Option.getD_some, maskOf_getLsbD _ _ hl]
  simp only [hf, hw]

theorem Warp.mask_moved (hl : l < 32) (hf : from_ (w.num, l) = (w.num, n)) :
    (w.moved find from_ alive pc).a.mask.getLsbD l = alive (w.num, n) := by
  rw [moved, maskOf_getLsbD _ _ hl]
  simp only [hf]

end

/-- The positions of the one warp of a block, in lane order. -/
def onePos : List Pos := laneNums.map fun l => (0, l)

theorem idxOf_onePos : ∀ l, l < 32 → onePos.idxOf (0, l) = l := by decide

/-- The order of a REGROUP's positions (R181) in a block of one warp: lanes with the predicate, lanes without it, and lanes that are not active. -/
theorem regroupOrder_onePos {alive yes : Pos → Bool} {a y : Nat → Bool} (ha : ∀ l, alive (0, l) = a l) (hy : ∀ l, yes (0, l) = y l) :
    (onePos.filter alive).filter yes ++ (onePos.filter alive).filter (fun q => !yes q) ++ onePos.filter (fun q => !alive q) =
      (laneNums.filter (fun l => a l && y l) ++ laneNums.filter (fun l => a l && !y l) ++ laneNums.filter fun l => !a l).map fun l => (0, l) := by
  simp only [onePos, List.filter_map, List.filter_filter, List.map_append, Function.comp_def, ha, hy, Bool.and_comm]

namespace State
variable {s t : State}

/-- The warp of a number in a list of warps. -/
def numberedIn (ws : List (WarpId × Warp)) (n : Nat) : Warp := ((ws.find? fun x => x.2.num == n).map (·.2)).getD default

theorem moveLanes_warps (s : State) (b : BlockId) (ws : List (WarpId × Warp)) (from_ : Pos → Pos) (alive : Pos → Bool) (next : Warp → DWord) :
    (s.moveLanes b ws from_ alive next).warps =
      (ws.foldl (fun (s : State) x => s.setWarp x.1 (x.2.moved (numberedIn ws) from_ alive (next x.2))) s).warps :=
  updBlock_warps ..

theorem moveLanes_ground (s : State) (b : BlockId) (ws : List (WarpId × Warp)) (from_ : Pos → Pos) (alive : Pos → Bool) (next : Warp → DWord) :
    (s.moveLanes b ws from_ alive next).ground = s.ground := by simp [moveLanes]

theorem lanesMoved_ground (s : State) (b : BlockId) {k : Block} (hk : k.bars = 0) (ws : List WarpId) :
    (s.lanesMoved b k ws).ground = s.ground := by simp [lanesMoved, hk]

theorem lanesMoved_warps (s : State) (b : BlockId) {k : Block} (hk : k.bars = 0) (ws : List WarpId) :
    (s.lanesMoved b k ws).warps = s.warps := by
  simp only [lanesMoved, hk, Nat.not_lt_zero, decide_false, Bool.false_and, List.filter_false, List.foldl_nil]
  refine foldl_keeps warps _ (fun s w => ?_) _ _
  rfl

/-- One warp, as often as a list has it, is put as the list's function says. -/
theorem foldl_setWarp (g : WarpId × Warp → Warp) {x : WarpId × Warp} : ∀ {l : List (WarpId × Warp)} {s : State}, (∀ y ∈ l, y = x) →
    OtherWarps s (l.foldl (fun s y => s.setWarp y.1 (g y)) s) x.1 ∧
      (l ≠ [] ∨ s.warp? x.1 = some (g x) → (l.foldl (fun s y => s.setWarp y.1 (g y)) s).warp? x.1 = some (g x)) := by
  intro l
  induction l with
  | nil => exact fun _ => ⟨fun _ _ => rfl, fun h => h.resolve_left fun h => h rfl⟩
  | cons y l ih =>
    intro s h
    obtain rfl := h y List.mem_cons_self
    obtain ⟨hothers, hself⟩ := ih (s := s.setWarp y.1 (g y)) fun z hz => h z (List.mem_cons_of_mem _ hz)
    exact ⟨others_trans (fun v hv => warp?_setWarp_ne _ _ _ _ hv) hothers, fun _ => hself (.inr (warp?_setWarp ..))⟩

/-- What a REGROUP of a block of one warp leaves (R181), where lane l takes what stood in lane `order l`. -/
def Regrouped (s t : State) (wid : WarpId) (w : Warp) (order : Nat → Nat) : Prop :=
  SameMem s t ∧ OtherWarps s t wid ∧ ∃ v, t.warp? wid = some v ∧ v.regrouping = none ∧
    (∀ r, r < w.v.length → ∀ l, l < 32 → lane (v.vreg r).lanes l = lane (w.vreg r).lanes (order l)) ∧
    (∀ r, r < w.p.length → ∀ l, l < 32 → (v.p.getD r 0).getLsbD l = (w.p.getD r 0).getLsbD (order l)) ∧
    (∀ l, l < 32 → v.a.mask.getLsbD l = w.a.mask.getLsbD (order l)) ∧ v.s = w.s ∧ v.z = w.z ∧ v.events = w.events ∧
    v.a.pc = w.a.pc + BitVec.ofNat 64 (4 * ((w.a.clause.map (·.hdr.n)).getD 0 + 1))

theorem regrouped_moveLanes {b : BlockId} {k : Block} (hbars : k.bars = 0) {wid : WarpId} {w : Warp} {n : Nat} {ids : List WarpId}
    {from_ : Pos → Pos} {alive : Pos → Bool} {next : Warp → DWord} {order : Nat → Nat}
    (hfrom : ∀ l, l < 32 → from_ (w.num, l) = (w.num, order l)) (halive : ∀ l, alive (w.num, l) = w.a.mask.getLsbD l)
    (hnext : next w = w.a.pc + BitVec.ofNat 64 (4 * ((w.a.clause.map (·.hdr.n)).getD 0 + 1))) :
    Regrouped s ((s.moveLanes b (List.replicate (n + 1) (wid, w)) from_ alive next).lanesMoved b k ids) wid w order := by
  have hfind : numberedIn (List.replicate (n + 1) (wid, w)) w.num = w := by simp [numberedIn]
  obtain ⟨hothers, hself⟩ := foldl_setWarp (s := s) (fun y => y.2.moved (numberedIn (List.replicate (n + 1) (wid, w))) from_ alive (next y.2))
    (fun y hy => List.eq_of_mem_replicate hy : ∀ y ∈ List.replicate (n + 1) (wid, w), y = (wid, w))
  have hwarps := (lanesMoved_warps (s.moveLanes b (List.replicate (n + 1) (wid, w)) from_ alive next) b hbars ids).trans (moveLanes_warps ..)
  refine ⟨SameMem.of_ground ((lanesMoved_ground _ _ hbars _).trans (moveLanes_ground ..)), others_trans hothers (others_of_warps hwarps wid), _,
    (congrArg (tget? · wid) hwarps).trans (hself (.inl (List.cons_ne_nil _ _))), rfl, fun r hr l hl => ?_, fun r hr l hl => ?_, fun l hl => ?_,
    rfl, rfl, rfl, hnext⟩
  · exact Warp.lane_moved hr hl (hfrom l hl) hfind
  · exact Warp.p_moved hr hl (hfrom l hl) hfind
  · exact (Warp.mask_moved hl (hfrom l hl)).trans (halive _)

theorem yields_regroupComplete {wid : WarpId} {w : Warp} {k : Block} {p : Nat} (hk : s.block? s.arg.b = some k) (hone : k.warps = 1)
    (hw : s.warp? wid = some w) (honly : ∀ y, y ∈ s.warps → y.2.block = s.arg.b → y = (wid, w)) (hblock : w.block = s.arg.b)
    (hnum : w.num = 0) (hlive : w.exited = false) (hre : w.regrouping = some (true, p)) (hheld : w.a.held = []) (hbars : k.bars = 0)
    (hmtx : (s.core wid.core).mtx = []) (hfull : ∀ v, v ∈ w.v → v.full = true) :
    Yields .regroupComplete s fun t => Regrouped s t wid w fun l =>
      (laneNums.filter (fun l => w.a.mask.getLsbD l && (w.preg p).getLsbD l) ++
        laneNums.filter (fun l => w.a.mask.getLsbD l && !(w.preg p).getLsbD l) ++ laneNums.filter fun l => !w.a.mask.getLsbD l).getD l l := by
  obtain ⟨n, hws⟩ : ∃ n, s.liveWarps s.arg.b = List.replicate (n + 1) (wid, w) := by
    have hmem : (wid, w) ∈ s.liveWarps s.arg.b := List.mem_filter.mpr ⟨mem_of_tget? hw, by simp [hblock, hlive]⟩
    have hrep := List.eq_replicate_of_mem fun y (hy : y ∈ s.liveWarps s.arg.b) =>
      honly y (List.mem_filter.mp hy).1 (by simpa using (Bool.and_eq_true_iff.mp (List.mem_filter.mp hy).2).1)
    obtain ⟨n, hn⟩ := Nat.exists_eq_succ_of_ne_zero (List.length_pos_of_mem hmem).ne'
    exact ⟨n, hrep.trans (congrArg (List.replicate · (wid, w)) hn)⟩
  refine Yields.of_exec (t := s.completeRegroup s.arg.b) rfl ?_
  have hold : (s.warps.filter fun x => x.2.block == s.arg.b && (!true || !x.2.exited)) = List.replicate (n + 1) (wid, w) := hws
  have hempty : (w.v.any fun v => !v.full) = false := List.any_eq_false.mpr fun v hv => by simp [hfull v hv]
  have hnums : (List.range k.warps).filter (fun i => (List.replicate (n + 1) (wid, w)).any fun x => x.2.num == i) = [0] := by
    simp [hone, hnum]
  have hmap : (List.replicate (n + 1) (wid, w)).map (fun x => (x.1, commitHeld x.2 .a)) = List.replicate (n + 1) (wid, w) := by
    rw [List.map_replicate, commitHeld_of_held_nil w hheld]
  rw [completeRegroup, hk, hws, show (List.replicate (n + 1) (wid, w)).findSome? (fun x => x.2.regrouping) = some (true, p) by simp [hre]]
  dsimp only
  rw [if_neg (by simp [hre]), if_neg (by simp [hempty, readsReg, hmtx]), hold, hmap, hnums, if_pos rfl]
  refine regrouped_moveLanes hbars (fun l hl => ?_) (fun l => ?_) ?_
  · have hflat : [0].flatMap (fun n => laneNums.map fun l => (n, l)) = onePos := List.append_nil _
    rw [hflat, hnum, idxOf_onePos l hl]
    rw [regroupOrder_onePos (a := w.a.mask.getLsbD) (y := (w.preg p).getLsbD) (fun l => by simp [hnum]) fun l => by simp [hnum]]
    exact List.getD_map ..
  · simp [hnum]
  · rw [hre]; rfl

end State

end Sys2Proof.Machine
end

section
/-! PROOFS. A block that retires (R191), a saved block whose service words are written (R157), and the obligation of the warps' events
(O43). -/

open Sys2Proof Sys2Proof.Machine

namespace Sys2Proof.Machine

/-- A warp that holds a block up no longer: it has exited, and waits for nothing (R191). -/
def Warp.over (v : Warp) : Prop :=
  v.exited = true ∧ v.trap = none ∧ v.a.blocked = none ∧ v.b.blocked = none ∧ v.flights = [] ∧ v.narrow = []

namespace State
variable {s t : State}

theorem freeBlock_warps (s : State) (b : BlockId) (k : Block) : (s.freeBlock b k).warps = s.warps.filter fun x => x.2.block != b := by
  unfold freeBlock
  dsimp only
  rw [updBlock]
  split <;> rfl

/-- A block that has left its core, and is deleted. -/
theorem cleared_freeBlock (s : State) (b : BlockId) (k : Block) :
    State.Cleared { s.freeBlock b k with blocks := tdel (s.freeBlock b k).blocks b } b := by
  refine ⟨tget?_tdel_self .., fun y hy => ?_⟩
  have hm : y ∈ s.warps.filter fun x => x.2.block != b := freeBlock_warps s b k ▸ hy
  exact bne_iff_ne.mp (List.mem_filter.mp hm).2

theorem drained_of_over {b : BlockId} {k : Block} {ws : List (WarpId × Warp)} (hws : ∀ y ∈ ws, y.2.over) (hm : (s.core k.core).mtx = [])
    (hp : (s.core k.core).porter = []) (ht : (s.core k.core).tags = []) (hc : ∀ c ∈ k.chans, c.doing = none) : s.drained b k ws = true := by
  have hws' : ws.all (fun x => x.2.trap.isNone && !x.2.taking && x.2.flights.all fun f => isRecv f.instr) = true :=
    List.all_eq_true.mpr fun y hy => by
      obtain ⟨-, htrap, ha, hb, hf, -⟩ := hws y hy
      simp [htrap, Warp.taking, ha, hb, hf]
  have hall : k.chans.all (·.doing.isNone) = true := List.all_eq_true.mpr fun c hmem => by rw [hc c hmem]; rfl
  have hany : k.chans.any (·.doing.isSome) = false := List.any_eq_false.mpr fun c hmem => by rw [hc c hmem]; exact Bool.false_ne_true
  simp [drained, hws', hm, hp, ht, hall, hany]

theorem endShares_of_noLines {c : CoreId} {b : BlockId} (h : (s.core c).lines = []) : s.endShares c b = s := by
  rw [endShares, h]
  rfl

theorem pinsEnding_of_noLines {c : CoreId} {b : BlockId} (h : (s.core c).lines = []) : s.pinsEnding c b = false := by
  rw [pinsEnding, h]
  rfl

/-- A block leaves its core, is deleted, and is counted (R137, R191). -/
def retired (s : State) (b : BlockId) (k : Block) : State :=
  let s := (((s.setBlock b { k with state := 4 }).countLeft b).reportFaults b).freeBlock b { k with state := 4 }
  let s := freeIdle { s with blocks := tdel s.blocks b } { grid := b.grid, gang := b.gang }
  ((s.count (.die k.core.pkg k.core.die) b.grid 1 0).noteCounts b.grid).pokePkg k.core.pkg

theorem cleared_retired (s : State) (b : BlockId) (k : Block) : (s.retired b k).Cleared b :=
  ((((cleared_freeBlock ..).of_contexts (freeIdle_contexts ..)).count ..).of_contexts (noteCounts_contexts ..)).of_contexts (pokePkg_contexts ..)

theorem exec_blockRetire {k : Block} (hk : s.block? s.arg.b = some k) (hflag : s.arg.flag = false) (hstate : k.state = 0)
    (hlost : (s.die k.core.dieId).lost = false) (hws : ∀ y ∈ s.warpsOf s.arg.b, y.2.over) (hm : (s.core k.core).mtx = [])
    (hp : (s.core k.core).porter = []) (hl : (s.core k.core).lines = []) (ht : (s.core k.core).tags = []) (hc : ∀ c ∈ k.chans, c.doing = none) :
    exec .blockRetire s = .next (s.retired s.arg.b k) := by
  show execBlockRetire s = _
  have h3 : (k.state == 3) = false := by rw [hstate]; rfl
  have h1 : (k.state = 1) = False := by simp [hstate]
  have h2 : (k.state = 2) = False := by simp [hstate]
  have hall : (s.warpsOf s.arg.b).all (·.2.laneless) = true := List.all_eq_true.mpr fun y hy => by
    obtain ⟨hx, -⟩ := hws y hy
    rw [Warp.laneless, hx, Bool.true_or]
  have hnarrow : ∀ (q : DieId × Nat → Bool), ((s.warpsOf s.arg.b).any fun x => x.2.narrow.any q) = false := fun q =>
    List.any_eq_false.mpr fun y hy => by
      obtain ⟨-, -, -, -, -, hn⟩ := hws y hy
      rw [hn]
      exact Bool.false_ne_true
  have hdrained : (s.setBlock s.arg.b { k with state := 4 }).drained s.arg.b { k with state := 4 } (s.warpsOf s.arg.b) = true :=
    drained_of_over hws hm hp ht hc
  have hshares : (s.setBlock s.arg.b { k with state := 4 }).endShares k.core s.arg.b = s.setBlock s.arg.b { k with state := 4 } :=
    endShares_of_noLines hl
  have hpins : (s.setBlock s.arg.b { k with state := 4 }).pinsEnding k.core s.arg.b = false := pinsEnding_of_noLines hl
  have hof : (s.setBlock s.arg.b { k with state := 4 }).warpsOf s.arg.b = s.warpsOf s.arg.b := rfl
  unfold execBlockRetire
  simp only [hk, hlost, hall, hflag, h3, h1, h2, hof, hdrained, hshares, hpins, hnarrow, decide_false, Bool.false_and,
    Bool.false_eq_true, if_false, Bool.not_false, Bool.not_true, Bool.or_self, Bool.and_false]
  rfl

end State

namespace State
variable {s t : State}

theorem block?_setBlock_self (s : State) (b : BlockId) (k : Block) : (s.setBlock b k).block? b = some k := tget?_tset_self ..

/-- A saved block that waits no longer for service (R157). -/
def serviced (s : State) (b : BlockId) (k : Block) : State :=
  (((s.setBlock b { k with state := 1 }).deviceWrite k.core (s.slotPool k + 2) (leBytes 1 1)).noteCounts b.grid).rejoin
    { grid := b.grid, gang := b.gang }

theorem block?_serviced (s : State) (b : BlockId) (k : Block) : (s.serviced b k).block? b = some { k with state := 1 } := by
  rw [block?_of_contexts (s := s.setBlock b { k with state := 1 }) (by simp [serviced]), block?_setBlock_self]

theorem exec_serviceWordChange {k : Block} (hk : s.block? s.arg.b = some k) (hflag : s.arg.flag = false) (hstate : k.state = 2)
    (hword : ∀ n, n < k.warps → leVal (s.homeBytes k.core.dieId (s.slotPool k + 4096 + n * warpArea k.units k.tiles k.stack + 3160) 8) ≠ 0) :
    exec .serviceWordChange s = .next (s.serviced s.arg.b k) := by
  show execServiceWordChange s = _
  unfold execServiceWordChange
  extract_lets b
  rw [hflag, if_neg Bool.false_ne_true, hk]
  dsimp -zeta only
  extract_lets base area waits
  have hn : waits = false := List.any_eq_false.mpr fun n hmem => by
    have hne := beq_false_of_ne (hword n (List.mem_range.mp hmem))
    simp [base, area, hne]
  rw [if_neg (by simp [hn, hstate])]
  rfl

end State

/-- Settles O43: each event is followed to the state that it leaves, and a block that has gone stays gone while its launch is counted. -/
theorem warpEvents : Obligations.WarpEvents := by
  unfold Obligations.WarpEvents
  refine ⟨fun s w hw => State.yields_eventTimerFire hw, ?_, ?_, ?_⟩
  · intro s wid w k p hk hone hw honly hblock hnum hlive hre hheld hbars hmtx hfull
    exact State.yields_regroupComplete hk hone hw honly hblock hnum hlive hre hheld hbars hmtx hfull
  · intro s k hk hflag hstate hlost hover hm hp hl ht hc
    have hws : ∀ y ∈ s.warpsOf s.arg.b, y.2.over := fun y hy =>
      hover y (List.mem_filter.mp hy).1 (eq_of_beq (List.mem_filter.mp hy).2)
    exact Yields.of_exec (State.exec_blockRetire hk hflag hstate hlost hws hm hp hl ht hc) (State.cleared_retired ..)
  · intro s k hk hflag hstate hword
    exact Yields.of_exec (State.exec_serviceWordChange hk hflag hstate hword) ⟨_, State.block?_serviced .., rfl⟩

end Sys2Proof.Machine
end

section
/-! PROOFS. The save of a gang (O50): the counts that its die's Broker then reports (R137) complete a child grid whose other blocks are accounted
for, and a grid that is complete has no block. -/

open Sys2Proof Sys2Proof.Machine

namespace Sys2Proof.Machine

namespace State

variable {s t : State}

/-! Messages between Brokers change no launch. -/

@[simp] theorem sendFlit_launches (s : State) (p : Nat) (f : List Byte) : (s.sendFlit p f).launches = s.launches := by
  unfold sendFlit
  dsimp only
  split <;> simp [log, enqueueBy, setPort]

@[simp] theorem arrive_launches (s : State) (q : Packet) : (s.arrive q).launches = s.launches := by
  unfold arrive arriveSlot
  dsimp only
  repeat' split
  all_goals simp

@[simp] theorem send_launches (s : State) (q : Packet) : (s.send q).launches = s.launches := by
  unfold send
  split <;> simp

@[simp] theorem brokerSend_launches (s : State) (i : Instr) (m : BrokerMsg) : (s.brokerSend i m).launches = s.launches := by
  unfold brokerSend
  dsimp only
  split
  · rfl
  · exact send_launches ..

@[simp] theorem passMsg_launches (s : State) (i : Instr) (m : BrokerMsg) : (s.passMsg i m).launches = s.launches := by
  unfold passMsg
  split
  · split <;> rfl
  · split
    · rfl
    · exact brokerSend_launches ..

theorem tell_launches (s : State) (i : Instr) (a b : BrokerId) (grid first count : Nat) (v : DWord) :
    (s.tell i a b grid first count v).launches = s.launches := passMsg_launches ..

/-! The save of a block. -/

theorem saveBlock_warps (s : State) (b : BlockId) (k : Block) : ∀ y ∈ (s.saveBlock b k).warps, y.2.block ≠ b := by
  intro y hy
  unfold saveBlock at hy
  rw [updBlock_warps, freeBlock_warps] at hy
  exact bne_iff_ne.mp (List.mem_filter.mp hy).2

theorem deviceWrite_launches (s : State) (c : CoreId) (pa : Nat) (bs : List Byte) : (s.deviceWrite c pa bs).launches = s.launches := by
  rw [deviceWrite, homePuts_eq]
  rfl

theorem deviceWrite_brokers (s : State) (c : CoreId) (pa : Nat) (bs : List Byte) : (s.deviceWrite c pa bs).brokers = s.brokers := by
  rw [deviceWrite, homePuts_eq]
  rfl

theorem noteCounts_launches (s : State) (h : Nat) : (s.noteCounts h).launches = s.launches := by
  rw [noteCounts, regPut, homePuts_eq]

theorem noteCounts_brokers (s : State) (h : Nat) : (s.noteCounts h).brokers = s.brokers := by
  rw [noteCounts, regPut, homePuts_eq]

theorem freeIdle_launches (s : State) (g : GangRef) : (s.freeIdle g).launches = s.launches := by
  unfold freeIdle
  split <;> rfl

theorem freeIdle_brokers (s : State) (g : GangRef) : (s.freeIdle g).brokers = s.brokers := by
  unfold freeIdle
  split <;> rfl

theorem updBroker_brokers_congr (h : t.brokers = s.brokers) (k : BrokerId) (f : Broker → Broker) :
    (t.updBroker k f).brokers = (s.updBroker k f).brokers := by
  rw [updBroker, setBroker, broker, h]
  rfl

theorem askAgain_brokers_congr (h : t.brokers = s.brokers) (d : DieId) : (t.askAgain d).brokers = (s.askAgain d).brokers :=
  updBroker_brokers_congr (updBroker_brokers_congr (updBroker_brokers_congr h ..) ..) ..

theorem freeBlock_launches (s : State) (b : BlockId) (k : Block) : (s.freeBlock b k).launches = s.launches := by
  rw [freeBlock, updBlock_launches]
  rfl

theorem freeBlock_brokers (s : State) (b : BlockId) (k : Block) : (s.freeBlock b k).brokers = (s.askAgain k.core.dieId).brokers := by
  rw [freeBlock, updBlock_brokers]
  rfl

theorem saveBlock_launches (s : State) (b : BlockId) (k : Block) : (s.saveBlock b k).launches = s.launches := by
  unfold saveBlock
  dsimp only
  rw [updBlock_launches, freeBlock_launches]
  refine (deviceWrite_launches ..).trans ((foldl_keeps launches _ (fun u x => ?_) _ _).trans (deviceWrite_launches ..))
  exact (deviceWrite_launches ..).trans (deviceWrite_launches ..)

/-- Of the Brokers, a save lets those of the die ask again. -/
theorem saveBlock_brokers (s : State) (b : BlockId) (k : Block) : (s.saveBlock b k).brokers = (s.askAgain k.core.dieId).brokers := by
  unfold saveBlock
  dsimp only
  rw [updBlock_brokers, freeBlock_brokers]
  refine askAgain_brokers_congr ((deviceWrite_brokers ..).trans ((foldl_keeps brokers _ (fun u x => ?_) _ _).trans (deviceWrite_brokers ..))) _
  exact (deviceWrite_brokers ..).trans (deviceWrite_brokers ..)

/-! A child grid that its last report completes. -/

theorem launch?_updLaunch_self {h : Nat} {l : Launch} (hl : s.launch? h = some l) (f : Launch → Launch) :
    (s.updLaunch h f).launch? h = some (f l) := by
  rw [updLaunch, hl]
  exact tget?_tset_self ..

/-- A grid with neither record nor signal is retired when its blocks are accounted for (R137). -/
theorem tryComplete_of_complete {h : Nat} {l : Launch} (hl : s.launch? h = some l) (hcount : l.blocks ≤ l.exited + l.lost) (hrecord : l.record = 0)
    (hsignal : l.signal = 0) (hrecorded : l.recorded = none) : ∃ l', s.tryComplete h = s.retireLaunch h l' := by
  have hw : ∀ n, s.writeRecord l n = some (s, none) := fun n => by rw [writeRecord, if_pos hrecord]
  have hc : ∀ l' : Launch, l'.signal = 0 → s.completeSignal l' none = some s := fun l' hs => by simp [completeSignal, hs]
  unfold tryComplete
  rw [hl]
  dsimp only
  rw [if_neg (Nat.not_lt_of_le hcount), hw]
  dsimp only
  rw [hrecorded, Option.none_or, hc]
  · exact ⟨_, rfl⟩
  · exact hsignal

/-- A child grid with neither record nor signal, all of whose blocks are accounted for when a Broker reports its counts. -/
def LastReport (s : State) (k : BrokerId) (h : Nat) : Prop :=
  (s.share k h).dExited ≠ 0 ∧ (s.share k h).lastDone = 0 ∧ ∃ l d, s.launch? h = some l ∧ l.src = .child d ∧ l.record = 0 ∧
    l.signal = 0 ∧ l.recorded = none ∧ l.blocks ≤ l.exited + (s.share k h).dExited + (l.lost + (s.share k h).dLost)

/-- A report completes such a grid, which leaves the machine with its blocks (R137). -/
theorem cleared_report {b : BlockId} {k : BrokerId} {h : Nat} (hs : s.LastReport k h) (hb : b.grid = h) (hw : ∀ y ∈ s.warps, y.2.block ≠ b) :
    (s.report k h).Cleared b := by
  obtain ⟨hexited, hdone, l, d, hl, hsrc, hrecord, hsignal, hrecorded, hcount⟩ := hs
  unfold report
  extract_lets x u child
  have hlu : u.launch? h = some l := hl
  have hchild : child = true := by simp only [child, hlu, hsrc]
  rw [if_neg (by simp [x, hexited]), if_neg (by simp [x, hdone]), hchild, if_pos rfl]
  obtain ⟨l', hl'⟩ := tryComplete_of_complete
    (launch?_updLaunch_self hlu fun l => { l with exited := l.exited + x.dExited, lost := l.lost + x.dLost }) hcount hrecord hsignal hrecorded
  show (tryComplete _ h).Cleared b
  rw [hl']
  exact cleared_retireLaunch _ h l' (.inr hb) fun y hy => hw y (by rw [updLaunch_warps] at hy; exact hy)

end State

/-- The block of the gang that is saved. -/
def savedBlock : BlockId := { grid := 5, gang := 0, j := 0 }

/-- A child grid of 16 blocks: the top has counted 15, the die's Broker has yet to report one, and a gang is to be saved, whose block has no warp
left. -/
def savedLast : State :=
  { (Tests.blocks { Tests.launch5 with src := .child Tests.d0, exited := 15 } 5).updShare (.die 0 0) 5 fun x => { x with dExited := 1 } with
    warps := [], arg := { g := { grid := 5, gang := 0 } } }

theorem savedLast_warps : savedLast.warps = [] := rfl

theorem savedLast_arg : savedLast.arg.g = { grid := savedBlock.grid, gang := savedBlock.gang } := rfl

theorem savedLast_gang : ∃ k, savedLast.gangOf savedLast.arg.g = [(savedBlock, k)] ∧ k.state = 5 ∧ (savedLast.core k.core).lines = [] ∧
    savedLast.isMember k.core.pkg = true ∧ savedLast.drained savedBlock k [] = true ∧ k.core.dieId = Tests.d0 :=
  ⟨_, rfl, rfl, by decide +kernel, by decide +kernel, by decide +kernel, rfl⟩

theorem savedLast_lastReport : (savedLast.askAgain Tests.d0).LastReport (.die 0 0) 5 :=
  ⟨by decide +kernel, by decide +kernel, _, Tests.d0, rfl, rfl, rfl, rfl, rfl, by decide +kernel⟩

/-- A block is saved, its core is free, and its die's Broker tells its package's (R155). -/
def State.saved (s : State) (b : BlockId) (k : Block) : State :=
  ((((s.saveBlock b k).freeIdle { grid := b.grid, gang := b.gang }).noteCounts b.grid).poke k.core.dieId).tell .brokerSaved
    (.die k.core.dieId.pkg k.core.dieId.die) (.pkg k.core.dieId.pkg) b.grid b.gang 1 0

theorem State.exec_gangSaveComplete {s : State} {b : BlockId} {k : Block} (hg : s.gangOf s.arg.g = [(b, k)])
    (harg : s.arg.g = { grid := b.grid, gang := b.gang }) (hstate : k.state = 5) (hw : s.warps = [])
    (hl : (s.core k.core).lines = []) (hd : s.drained b k [] = true) :
    exec .gangSaveComplete s = .next ((s.saved b k).reportAbove k.core.dieId b.grid) := by
  have hf : ([(b, k)].filter fun x => x.2.state == 5) = [(b, k)] := by simp [hstate]
  have hwarps : s.warpsOf b = [] := by rw [warpsOf, hw]; rfl
  have h4 : (k.state == 4) = false := by rw [hstate]; rfl
  have he : [k.core.dieId].eraseDups = [k.core.dieId] := rfl
  show execGangSaveComplete s = _
  unfold execGangSaveComplete
  simp only [hg, hf, hw, List.foldl_nil, List.foldl_cons, List.all_cons, List.all_nil, List.any_cons, List.any_nil, hwarps, hd,
    h4, State.endShares_of_noLines hl, State.pinsEnding_of_noLines hl, Bool.and_true, Bool.or_false, Bool.not_true, Bool.false_eq_true, if_false,
    List.map_cons, List.map_nil]
  simp only [he, harg, List.foldl_cons, List.foldl_nil, State.saved]

theorem State.LastReport.congr {s t : State} {k : BrokerId} {h : Nat} (hs : s.LastReport k h) (hb : t.share k h = s.share k h)
    (hl : t.launches = s.launches) : t.LastReport k h := by
  rw [State.LastReport, hb, State.launch?, hl]
  exact hs

theorem State.share_saved (s : State) (b : BlockId) (k : Block) (u : BrokerId) (h : Nat) :
    (s.saved b k).share u h = (s.askAgain k.core.dieId).share u h := by
  rw [saved, tell_share]
  exact share_congr (by rw [poke, postOnce_brokers, noteCounts_brokers, freeIdle_brokers, saveBlock_brokers]) u h

theorem State.launches_saved (s : State) (b : BlockId) (k : Block) : (s.saved b k).launches = s.launches := by
  rw [saved, tell_launches, poke, postOnce_launches, noteCounts_launches, freeIdle_launches, saveBlock_launches]

/-- When that report completes the grid, the block that was saved is no longer there. -/
theorem State.cleared_saved {s : State} {b : BlockId} {k : Block}
    (h : (s.askAgain k.core.dieId).LastReport (.die k.core.dieId.pkg k.core.dieId.die) b.grid) :
    ((s.saved b k).reportAbove k.core.dieId b.grid).Cleared b := by
  have hw : ∀ y ∈ (s.saved b k).warps, y.2.block ≠ b := block_ne_of_contexts (saveBlock_warps s b k) (by simp [saved])
  have hl : (s.saved b k).LastReport (.die k.core.dieId.pkg k.core.dieId.die) b.grid := h.congr (share_saved ..) (launches_saved ..)
  exact ((cleared_report hl rfl hw).report ..).report ..

/-- Refutes O50: of the save of a drained gang the statement says that its block is there afterwards. It does not ask that the grid's counts leave
the block out. In `savedLast` the counts cover every block of the grid already, so the report that follows the save (R137) completes the grid,
which takes its blocks away. (Counts kept as R137 says never cover a block that is yet to end: the statement lacks that hypothesis.) -/
theorem not_placement : ¬ Obligations.Placement := by
  unfold Obligations.Placement
  intro h
  obtain ⟨-, -, -, -, -, -, -, hsave, -⟩ := h
  obtain ⟨k, hg, hstate, hl, hmember, hd, hdie⟩ := savedLast_gang
  have hnone : ∀ y : WarpId × Warp, y ∉ savedLast.warps := fun y => savedLast_warps ▸ List.not_mem_nil
  have hlines : ∀ v : CacheLine, v ∉ (savedLast.core k.core).lines := fun v => hl ▸ List.not_mem_nil
  have hof : savedLast.warpsOf savedBlock = [] := by rw [State.warpsOf, savedLast_warps]; rfl
  obtain ⟨-, hdrained⟩ := hsave savedLast savedBlock k hg hstate (by rw [savedLast_warps]; exact List.nodup_nil)
    (fun y hy => absurd hy (hnone y)) (fun v hv => absurd hv (hlines v)) hmember
  obtain ⟨t, ht, -, ⟨v, hv, -⟩, -⟩ := hdrained (by rw [hof]; exact hd)
  have hexec := State.exec_gangSaveComplete hg savedLast_arg hstate savedLast_warps hl hd
  have hgone := (State.cleared_saved (b := savedBlock) (k := k) (by rw [hdie]; exact savedLast_lastReport)).1
  rw [Host.Outcome.next.inj (ht.symm.trans hexec), hgone] at hv
  exact nomatch hv

end Sys2Proof.Machine
end

section
/-! PROOFS. What an instruction does that traps or waits at issue (R167, R241, R242), and its obligation (O33). -/

open Sys2Proof Sys2Proof.Machine

namespace Sys2Proof.Machine

/-! A trap at issue (R241, R244), and a wait (R167). -/

/-- An instruction that raises a trap at its site, and goes no further, raises it in the terms of the claims. -/
theorem raises_of_raise {i : Instr} {s : State} {x : Site} {r : TrapRec} (hx : s.siteOf = some x)
    (he : exec i s = .next (s.raise x.wid r)) : Raises i s x r := by
  intro ht
  have hw : s.updWarp x.wid (fun v => { v with trap := some (State.worse v.trap r) }) = s.setWarp x.wid { x.w with trap := some r } := by
    simp only [State.updWarp, (siteOf_spec hx).1, ht, State.worse]
  rw [State.raise, hw] at he
  obtain ⟨l, hl⟩ := postOnce_eq (s.setWarp x.wid { x.w with trap := some r }) .trapTake { w := x.wid }
  refine ⟨_, he, ?_, ?_, State.mem_postOnce _ _ _⟩
  · rw [hl]
    exact ⟨fun _ => rfl, rfl, fun v hv => warp?_setWarp_ne _ _ _ _ hv, rfl, fun _ => rfl, rfl, rfl, rfl, rfl, rfl, rfl, rfl, rfl, rfl,
      ⟨l, rfl⟩, rfl, rfl, rfl, rfl, rfl, rfl⟩
  · rw [hl]
    exact warp?_setWarp _ _ _

theorem raises_of_trapAt {i : Instr} {s : State} {x : Site} {cause : Nat} {addr : DWord} {lanes : Mask} (hx : s.siteOf = some x)
    (he : exec i s = s.trapAt x cause addr lanes) : Raises i s x (x.trapOf cause addr lanes) := raises_of_raise hx he

theorem waits_of_stall {i : Instr} {s : State} (he : exec i s = s.stall) : Waits i s := he

/-! The checks of R242 on a vector instruction with one source. -/

section
variable {s : State} {x : Site} {act : Mask} {a d : Nat} {fa : Bool}

theorem regCheck_range (ha : vectorOk x.w a = false) : s.regCheck x act [(a, fa)] [] [d] false = some (s.trapAt x 4 0 act) := by
  simp [State.regCheck, ha]

variable (ha : vectorOk x.w a = true) (hd : vectorOk x.w d = true) (hb : x.w.boundWalker a = none)
include ha hd hb

theorem regCheck_emptyTrap (he : (x.w.vreg a).full = false) :
    s.regCheck x act [(a, true)] [] [d] false = some (s.trapAt x 5 0 act) := by
  simp [State.regCheck, ha, hd, isEmpty, hb, he]

theorem regCheck_emptyWait (he : (x.w.vreg a).full = false) (ho : orphaned x.w a = false) :
    s.regCheck x act [(a, false)] [] [d] false = some s.stall := by
  simp [State.regCheck, ha, hd, isEmpty, hb, he, ho]

theorem regCheck_poison (hf : (x.w.vreg a).full = true) (hr : destReady s x d = true) {p : Poison} (hp : (x.w.vreg a).poison = some p) :
    s.regCheck x act [(a, fa)] [] [d] false = some (s.poisonTrap x p act) := by
  simp only [destReady, Bool.and_eq_true, Bool.not_eq_true'] at hr
  obtain ⟨⟨⟨-, -⟩, hdf⟩, hdr⟩ := hr
  simp [State.regCheck, ha, hd, isEmpty, hb, hf, hdf, hdr, hp]

end

/-- VMOV answers what the checks on its registers answer. -/
theorem exec_vmov_of_regCheck {s : State} {x : Site} {r : Reg} {q : Result} (hx : s.siteOf = some x)
    (hq : s.regCheck x (x.sl.mask &&& x.w.preg r.g.toNat) [(r.a.toNat, r.fa)] [] [r.d.toNat] false = some q) :
    exec (.vmov r) s = q := by
  have h : exec (.vmov r) s = s.vectorOp (VForm.short r) [(r.a.toNat, r.fa)] [] r.d.toNat
    fun w _ l => id (crossRead (VForm.short r) (readLanes w r.a.toNat) l) := rfl
  have hact : (VForm.short r).act x = x.sl.mask &&& x.w.preg r.g.toNat := rfl
  rw [h, State.vectorOp, atSite_some hx]
  dsimp only
  rw [hact, hq]

/-! A condition that is not uniform (R313). -/

theorem lowestLane_lt {m : Mask} {l : Nat} (h : lowestLane m = some l) : l < 32 :=
  (mem_laneNums l).mp (List.mem_of_find?_eq_some h)

/-- The lanes that differ from the lowest, where there are any. -/
theorem uniform_error {act pred : Mask} {l k : Nat} (hl : lowestLane act = some l) (hk : k < 32) (ha : act.getLsbD k = true)
    (hne : pred.getLsbD k ≠ pred.getLsbD l) :
    uniform act pred = .error (act &&& maskOf fun k => pred.getLsbD k != pred.getLsbD l) := by
  have hodd : act &&& (if pred.getLsbD l then ~~~pred else pred) = act &&& maskOf fun k => pred.getLsbD k != pred.getLsbD l := by
    refine BitVec.eq_of_getLsbD_eq fun i hi => ?_
    rw [BitVec.getLsbD_and, BitVec.getLsbD_and, maskOf_getLsbD _ _ hi]
    cases hp : pred.getLsbD l
    · simp
    · simp [hi]
  have hsome : (act &&& maskOf fun k => pred.getLsbD k != pred.getLsbD l) ≠ 0 := by
    intro h0
    have hbit := congrArg (·.getLsbD k) h0
    simp [maskOf_getLsbD _ _ hk, ha, hne] at hbit
  unfold uniform
  rw [hl]
  dsimp only
  rw [hodd, if_neg hsome]

/-! The fault that a FENCE of rack scope takes (R220, R221). -/

theorem threadHas_of_done {w : Warp} (h : ∀ f, f ∈ w.flights → f.done = true) (x : PcSel) (p : Flight → Bool) :
    State.threadHas w x p = false := by
  unfold State.threadHas
  rw [List.any_eq_false]
  intro f hf
  simp [h f hf]

theorem hasRfault_eq_false {w : Warp} (h : ∀ v, v ∈ w.events → v.kind ≠ 6 ∨ (v.armed = false ∧ v.fired = false)) : State.hasRfault w = false := by
  unfold State.hasRfault
  rw [List.any_eq_false]
  intro v hv
  rcases h v hv with hk | ⟨ha, hf⟩
  · simp [hk]
  · simp [ha, hf]

theorem bits_extractLsb' (v : Word) : bits v.toNat 23 16 = (v.extractLsb' 16 8).toNat := by
  simp [bits, BitVec.extractLsb'_toNat, Nat.shiftRight_eq_div_pow]

/-- With a fault in RFF and no slot bound to it, the gate of a rack-scope FENCE takes the fault. -/
theorem rackGate_posted {s : State} {x : Site} (hq : ∀ f, f ∈ x.w.flights → f.done = true) (hr : x.w.rff.extractLsb' 16 8 ≠ 0)
    (he : ∀ v, v ∈ x.w.events → v.kind ≠ 6 ∨ (v.armed = false ∧ v.fired = false)) : s.rackGate x = some (s.postedTrap x) := by
  have hb : bits x.w.rff.toNat 23 16 ≠ 0 := by
    rw [bits_extractLsb']
    exact fun h0 => hr (BitVec.eq_of_toNat_eq h0)
  simp [State.rackGate, State.postedQuiet, threadHas_of_done hq, hasRfault_eq_false he, hb]

/-- Settles O33: each trap of an issue, in the order of the causes, and the fault that a FENCE takes. -/
theorem issueTraps : Obligations.IssueTraps := by
  refine ⟨fun s x hx => ⟨fun r ha => ?_, fun r ha => ?_, fun r => ?_, fun r ht => ?_, fun r l hl hodd => ?_⟩,
    fun r e s x hx hscope hdone hrff hev => ?_⟩
  · refine raises_of_trapAt hx ?_
    have hout : (!([r.d.toNat, r.a.toNat, r.b.toNat].all scalarOk)) = true := by
      simp [scalarOk, Nat.not_lt.mpr ha]
    have h : exec (.sadd r) s = s.scalarOp 1 [r.a.toNat, r.b.toNat] r.d.toNat fun w => w.sreg r.a.toNat + w.sreg r.b.toNat := rfl
    rw [h, State.scalarOp, atSite_some hx, if_pos hout]
    rfl
  · exact raises_of_trapAt hx (exec_vmov_of_regCheck hx (regCheck_range ha))
  · intro act ha hd hb
    refine ⟨fun hfa he => ?_, fun hfa he ho => ?_, fun p hf hr hp => ?_⟩
    · exact raises_of_trapAt hx (exec_vmov_of_regCheck hx (by rw [hfa]; exact regCheck_emptyTrap ha hd hb he))
    · exact waits_of_stall (exec_vmov_of_regCheck hx (by rw [hfa]; exact regCheck_emptyWait ha hd hb he ho))
    · exact raises_of_raise hx (exec_vmov_of_regCheck hx (regCheck_poison ha hd hb hf hr hp))
  · refine raises_of_trapAt hx ?_
    have h : exec (.ret r) s = execRet r s := rfl
    rw [h, execRet, atSite_some hx]
    dsimp only
    rw [if_pos ht]
    rfl
  · obtain ⟨k, hk, hmask, hne⟩ := hodd
    refine raises_of_trapAt hx ?_
    have h : exec (.bru r) s = execBru r s := rfl
    rw [h, execBru, atSite_some hx, uniform_error hl hk hmask hne]
  · refine raises_of_raise hx ?_
    have h : exec (.fenceXm r e) s = execFenceXm r e s := rfl
    have h4 : e.scope.toNat = 4 := congrArg BitVec.toNat hscope
    rw [h, execFenceXm, atSite_some hx]
    dsimp only
    rw [if_pos h4, rackGate_posted hdone hrff hev]
    rfl

end Sys2Proof.Machine
end

section
/-! PROOFS. SWRITE to WALKk (R182, R183, R309) and the event instructions (R185-R187, R403, R404), and their obligations (O4, O28). -/

open Sys2Proof Sys2Proof.Machine

namespace Sys2Proof.Machine

/-! Behind the issue of a word whose claim is about more of the warp than its registers (R168, R171). -/

theorem untouched_post {er : Core → Core} {s t : State} {wid : WarpId} (h : Untouched er s t wid) (m : List (Instr × Arg)) :
    Untouched er s { t with inflight := t.inflight ++ m } wid := by
  obtain ⟨h1, h2, h3, h4, h5, h6, h7, h8, h9, h10, h11, h12, h13, h14, ⟨l, hl⟩, h16⟩ := h
  exact ⟨h1, h2, h3, h4, h5, h6, h7, h8, h9, h10, h11, h12, h13, h14, ⟨l ++ m, by simp [hl]⟩, h16⟩

/-- An instruction whose meaning advances past it, and leaves events m due, completes: `good` may be about what the issue keeps. -/
theorem completes_of_advance_light {i : Instr} {s s1 : State} {x : Site} {n : Nat} {w base : Warp} {target : Option DWord}
    {ds dv dp : List Nat} {good : Warp → Prop} (m : List (Instr × Arg))
    (he : exec i s = .next { s1.advanceTo x n w target with inflight := (s1.advanceTo x n w target).inflight ++ m })
    (hm : (w.slot x.sel).mask = x.sl.mask) (hpc : (w.slot x.sel).pc = x.sl.pc)
    (hp : (w.slot x.sel).parkedJoin = x.sl.parkedJoin) (hj : w.j = x.w.j)
    (ha : AgreeBut ds dv dp base (commitHeld w x.sel))
    (hg : ∀ u, Light (commitHeld w x.sel) u → good u ∧ good { u with exited := true, handler := false, trap := none }) :
    CompletesFrom i s s1 x n target base ds dv dp good := by
  obtain ⟨u, hu, ht, v, hv, hc⟩ := advanceTo_spec s1 x n w target
  refine ⟨_, u, he, untouched_post ht m, hu, advanceTo_moves _ x n w target hm hpc hp hj u hu, ?_, ?_⟩
  · rcases hc with hc | hc <;> rw [hc]
    · exact ha.light_right hv
    · exact (ha.light_right hv).exit
  · rcases hc with hc | hc <;> rw [hc]
    · exact (hg v hv).1
    · exact (hg v hv).2

/-- The same for a claim about no more than what the warp has become, where its slot and its join are those of the site. -/
theorem completes_of_advance_true {i : Instr} {s s1 : State} {x : Site} {n : Nat} {w base : Warp} {target : Option DWord}
    (he : exec i s = .next (s1.advanceTo x n w target)) (hs : w.slot x.sel = x.sl) (hj : w.j = x.w.j)
    (ha : AgreeBut [] [] [] base (commitHeld w x.sel)) : CompletesFrom i s s1 x n target base [] [] [] fun _ => True :=
  completes_of_advance_light [] (by rw [he, List.append_nil]) (by rw [hs]) (by rw [hs]) (by rw [hs]) hj ha fun _ _ => ⟨trivial, trivial⟩

/-! What a commit leaves alone (R171). -/

theorem commitOne_units (w : Warp) (h : Held) : (commitOne w h).units = w.units := by
  cases h with
  | s r v => rfl
  | v r m l => rfl
  | p r m b => simp [commitOne]
  | special n v => simp only [commitOne]; split <;> rfl
  | walk k b d =>
    by_cases h0 : b = 0
    · by_cases h1 : 16 ≤ w.units
      · simp only [commitOne, h0, h1, if_true]; rfl
      · simp only [commitOne, h0, h1, if_true, if_false]
    · simp only [commitOne, h0, if_false]

theorem commits_units (l : List Held) (w : Warp) : (l.foldl commitOne w).units = w.units := by
  induction l generalizing w with
  | nil => rfl
  | cons h l ih => exact (ih _).trans (commitOne_units w h)

theorem commitHeld_units (w : Warp) (x : PcSel) : (commitHeld w x).units = w.units := by
  have h := commits_units (w.slot x).held w
  unfold commitHeld
  cases x
  · exact h
  · exact h

/-- A commit leaves the event slots alone, and does not ask for them. -/
theorem commitOne_withEvents (w : Warp) (h : Held) (p : BitVec 8) (es : List EventSlot) :
    commitOne { w with evp := p, events := es } h = { commitOne w h with evp := p, events := es } := by
  cases h with
  | s r v => rfl
  | v r m l => rfl
  | p r m b => by_cases h0 : r = 0 <;> simp only [commitOne, Warp.putP, h0, if_true, if_false]
  | special n v => simp only [commitOne]; split <;> rfl
  | walk k b d =>
    by_cases h0 : b = 0
    · by_cases h1 : 16 ≤ w.units
      · simp only [commitOne, h0, h1, if_true]; rfl
      · simp only [commitOne, h0, h1, if_true, if_false]
    · simp only [commitOne, h0, if_false]

theorem commitHeld_withEvents (w : Warp) (x : PcSel) (p : BitVec 8) (es : List EventSlot) :
    commitHeld { w with evp := p, events := es } x = { commitHeld w x with evp := p, events := es } := by
  have h : ∀ (l : List Held) (w : Warp),
      l.foldl commitOne { w with evp := p, events := es } = { l.foldl commitOne w with evp := p, events := es } := by
    intro l
    induction l with
    | nil => exact fun _ => rfl
    | cons a l ih => exact fun w => by rw [List.foldl_cons, commitOne_withEvents, ih, List.foldl_cons]
  unfold commitHeld
  cases x <;> (dsimp only [Warp.slot]; rw [h]; rfl)

/-! Walkers (R182, R183, R309). -/

theorem Light.boundWalker {w u : Warp} (h : Light w u) (r : Nat) : u.boundWalker r = w.boundWalker r := by
  obtain ⟨a, b, j, d, y, sk, fl, rfl, e⟩ := h
  rfl

/-- Warp w with walker k bound at position zero, its end flags clear (R182, R309). -/
def boundAt (w : Warp) (k : Nat) (v : DWord) (desc : List Byte) : Warp :=
  { w with walkers := lput w.walkers k { bound := v, desc := desc, i0 := 0, i1 := 0, i2 := 0, pre := [] } default
           wef := w.wef &&& ~~~((7 : Word) <<< (3 * k)) }

theorem commitOne_bind {w : Warp} {k : Nat} {v : DWord} {desc : List Byte} (hv : v ≠ 0) :
    commitOne w (.walk k v desc) = boundAt w k v desc := by
  simp only [commitOne, if_neg hv, boundAt]

theorem commitOne_unbind {w : Warp} {k : Nat} (hu : 16 ≤ w.units) :
    commitOne w (.walk k 0 []) = boundAt (w.setV (120 + k) zeroReg) k 0 [] := by
  simp only [commitOne, if_pos hu, if_true, boundAt]

theorem boundWalker_boundAt (w : Warp) (k : Nat) (v : DWord) (desc : List Byte) :
    (boundAt w k v desc).boundWalker (120 + k) = if v = 0 then none else some k := by
  simp only [Warp.boundWalker, boundAt, Warp.walker, Nat.add_sub_cancel_left, getD_lput_self, Nat.le_add_right, decide_true, Bool.true_and,
    bne_iff_ne, ne_eq]
  by_cases h : v = 0 <;> simp [h]

/-- What SWRITE to WALKk does to a warp of 16 units whose register is full (R309). -/
theorem exec_swrite_walk {r : Reg} {s : State} {x : Site} {k : Nat} (hx : s.siteOf = some x) (ha : r.a.toNat < 64) (hk : k < 8)
    (hd : r.d.toNat = 0x10 + k) : exec (.swrite r) s = s.bindWalker x k (x.w.spair r.a.toNat) := by
  have h : exec (.swrite r) s = execSwrite r s := rfl
  have hok : (!scalarOk r.a.toNat) = false := by simp [scalarOk, ha]
  have hwide : wideSpecial r.d.toNat = true := by
    rw [hd]
    simp only [wideSpecial, Bool.or_eq_true, Bool.and_eq_true, decide_eq_true_eq]
    exact .inl (.inr ⟨by omega, by omega⟩)
  rw [h, execSwrite, atSite_some hx]
  dsimp only
  rw [hok, if_neg Bool.false_ne_true, if_pos hwide, hd, Nat.add_sub_cancel_left]

/-- Settles O4: the held binding of the walker is committed as R182 and R309 say. -/
theorem walkerBindings : Obligations.WalkerBindings := by
  intro r s x k hx ha hk hd hfull v idle put
  have hs := (siteOf_spec hx).2.2.1
  have he := exec_swrite_walk hx ha hk hd
  have hwait : (decide (16 ≤ x.w.units) && !(x.w.vreg (120 + k)).full) = false := by rw [hfull, Bool.not_true, Bool.and_false]
  have hu : x.done.units = x.w.units := commitHeld_units x.w x.sel
  refine ⟨fun hv hunits => ?_, fun desc s' hv hunits hbusy hread hok => ?_⟩
  · have hc : Light (boundAt (x.done.setV (120 + k) zeroReg) k 0 []) (commitHeld (x.hold (.walk k 0 [])) x.sel) := by
      rw [← commitOne_unbind (hu ▸ hunits)]
      exact commitHeld_hold x _ hs
    refine completes_of_advance_light (w := x.hold (.walk k 0 [])) [] ?_ (by rw [hold_slot]) (by rw [hold_slot]) (by rw [hold_slot])
      (by simp [Site.hold]) hc.agree fun u hl => ?_
    · rw [he, State.bindWalker, hwait, if_neg Bool.false_ne_true, if_pos hv, List.append_nil]
      rfl
    · have hl := hc.trans hl
      have hb := (hl.boundWalker (120 + k)).trans (boundWalker_boundAt _ k 0 [])
      have hz : u.vreg (120 + k) = zeroReg := (hl.vreg _).trans ((Warp.vreg_setV _ _ _ _).trans (if_pos rfl))
      exact ⟨⟨hb, hz⟩, hb, hz⟩
  · have hc : Light (boundAt x.done k v desc) (commitHeld (x.hold (.walk k v desc)) x.sel) := by
      rw [← commitOne_bind hv]
      exact commitHeld_hold x _ hs
    obtain ⟨m, hm⟩ := postOnce_eq (s'.advance x 1 (x.hold (.walk k v desc))) .walkerFetch { w := x.wid, n := k }
    refine completes_of_advance_light (w := x.hold (.walk k v desc)) m ?_ (by rw [hold_slot]) (by rw [hold_slot]) (by rw [hold_slot])
      (by simp [Site.hold]) hc.agree fun u hl => ?_
    · rw [he, State.bindWalker, hwait, if_neg Bool.false_ne_true, if_neg hv, if_neg (Nat.not_lt.mpr hunits), hbusy,
        if_neg Bool.false_ne_true, hread]
      dsimp only
      rw [if_pos hok, hm]
      rfl
    · have hb := ((hc.trans hl).boundWalker (120 + k)).trans ((boundWalker_boundAt _ k v desc).trans (if_neg hv))
      exact ⟨hb, hb⟩

/-! EVBIND (R185, R186, R403). -/

/-- Binding a slot completes: of the warp, the slot and its pending bit change. -/
theorem completes_bindEvent {r : Reg} {xi : Word} {s s' : State} {x : Site} {e : EventSlot} (hs : x.sl = x.w.slot x.sel)
    (he : exec (.evbind r xi) s = .next (s'.bindEvent x r.d.toNat e)) :
    let fire := s'.eventHolds x.wid x.w x.b e
    let one : BitVec 8 := 1 <<< r.d.toNat
    CompletesFrom (.evbind r xi) s s' x 2 none
      { x.done with evp := if fire then x.w.evp ||| one else x.w.evp &&& ~~~one
                    events := lput x.w.events r.d.toNat { e with armed := !fire, fired := fire } EventSlot.unbound } [] [] [] fun _ => True := by
  intro fire one
  refine completes_of_advance_true he (by rw [hs]; cases x.sel <;> rfl) rfl ?_
  rw [commitHeld_withEvents]
  exact AgreeBut.refl _

/-- The slot as EVBIND first builds it: what it waits for depends on its kind (R185, R403). -/
def boundSlot (x : Site) (r : Reg) (xi : Word) (source target : DWord) : EventSlot :=
  { EventSlot.unbound with kind := r.b.toNat, handler := x.wordAddr + sext64 xi * 4, source := source, target := target }

section
variable {r : Reg} {xi : Word} {s : State} {x : Site} (hx : s.siteOf = some x)
include hx

theorem exec_evbind_rfault (hk : r.b.toNat = 6) : exec (.evbind r xi) s = .next (s.bindEvent x r.d.toNat (boundSlot x r xi 0 0)) := by
  have h0 : exec (.evbind r xi) s = execEvbind r xi s := rfl
  rw [h0, execEvbind, atSite_some hx]
  simp [hk, boundSlot]

variable (ha : r.a.toNat < 64)
include ha

theorem exec_evbind_batch (hk : r.b.toNat = 2) :
    exec (.evbind r xi) s = .next (s.bindEvent x r.d.toNat (boundSlot x r xi ((x.w.sreg r.a.toNat).setWidth 64) 0)) := by
  have h0 : exec (.evbind r xi) s = execEvbind r xi s := rfl
  rw [h0, execEvbind, atSite_some hx]
  simp [hk, boundSlot, scalarOk, ha]

theorem exec_evbind_mailbox (hk : r.b.toNat = 4) (hv : (x.w.sreg r.a.toNat).toNat < 16) :
    exec (.evbind r xi) s = .next (s.bindEvent x r.d.toNat (boundSlot x r xi ((x.w.sreg r.a.toNat).setWidth 64) 0)) := by
  have h0 : exec (.evbind r xi) s = execEvbind r xi s := rfl
  rw [h0, execEvbind, atSite_some hx]
  simp [hk, boundSlot, scalarOk, ha, Nat.not_le.mpr hv]

theorem exec_evbind_timer (hk : r.b.toNat = 5) :
    exec (.evbind r xi) s = .next (s.bindEvent x r.d.toNat (boundSlot x r xi (x.w.spair r.a.toNat) (x.w.spair r.a.toNat))) := by
  have h0 : exec (.evbind r xi) s = execEvbind r xi s := rfl
  rw [h0, execEvbind, atSite_some hx]
  simp [hk, boundSlot, scalarOk, ha]

/-- A slot for a barrier's phase, or for its break, where the object is there. -/
theorem exec_evbind_barrier (hk : r.b.toNat = 1 ∨ r.b.toNat = 7) (hv : (x.w.sreg r.a.toNat).toNat < 16)
    (hbars : (x.w.sreg r.a.toNat).toNat < x.b.bars) {o : BarObj}
    (ho : s.barObj x.w.block x.b (x.w.sreg r.a.toNat).toNat = some o) :
    exec (.evbind r xi) s = .next (s.bindEvent x r.d.toNat
      { boundSlot x r xi ((x.w.sreg r.a.toNat).setWidth 64) 0 with phase := o.phase }) := by
  have h0 : exec (.evbind r xi) s = execEvbind r xi s := rfl
  have hin : (decide (16 ≤ (x.w.sreg r.a.toNat).toNat) || decide (x.b.bars ≤ (x.w.sreg r.a.toNat).toNat)) = false := by
    simp [hv, hbars]
  have hhome : s.barHome x.w.block x.b (x.w.sreg r.a.toNat).toNat ≠ .fault := by
    intro hf
    rw [State.barObj, hf] at ho
    cases ho
  rw [h0, execEvbind, atSite_some hx]
  dsimp only
  rw [hin, ho]
  cases hb : s.barHome x.w.block x.b (x.w.sreg r.a.toNat).toNat with
  | fault => exact absurd hb hhome
  | _ => rcases hk with hk | hk <;> simp [hk, boundSlot, scalarOk, ha]

/-- A slot for a counter: EVBIND translates its address, checks it, and binds the slot to its place in the pool. -/
theorem exec_evbind_counter (hk : r.b.toNat = 3) (hlt : (x.w.spair r.a.toNat).toNat < 2 ^ 57) (hal : (x.w.spair r.a.toNat).toNat % 8 = 0)
    {t : TlbEnt} {s' : State} (ht : s.translate x.core (x.w.spair r.a.toNat).toNat = .ok t s') (hp : permitted t false false = true)
    {h : Home} (hh : s'.homeAt x.core.dieId (t.phys (x.w.spair r.a.toNat).toNat) = some h) (hopen : s'.shut 0 x.core h = false) :
    exec (.evbind r xi) s = .next (s'.bindEvent x r.d.toNat
      { boundSlot x r xi (x.w.spair r.a.toNat) (x.w.spair (r.a.toNat + 2)) with pa := t.phys (x.w.spair r.a.toNat).toNat }) := by
  have h0 : exec (.evbind r xi) s = execEvbind r xi s := rfl
  have hcan : canonical (x.w.spair r.a.toNat) = true := decide_eq_true hlt
  rw [h0, execEvbind, atSite_some hx]
  simp [hk, boundSlot, scalarOk, ha, hal, hcan, ht, hp, hh, hopen]

end

/-! EVMASK, EVCLR and WAITANY (R187, R404). -/

theorem exec_evmask {r : Ri} {s : State} {x : Site} (hx : s.siteOf = some x) :
    exec (.evmask r) s = .next (s.advance x 1 { x.w with evm := r.imm.extractLsb' 0 8 }) := by
  have h0 : exec (.evmask r) s = execEvmask r s := rfl
  rw [h0, execEvmask, atSite_some hx]
  rfl

theorem exec_evclr {r : Ri} {s : State} {x : Site} (hx : s.siteOf = some x) :
    exec (.evclr r) s = .next (s.advance x 1 { x.w with
      evp := x.w.evp &&& ~~~(r.imm.extractLsb' 0 8)
      events := (List.range 8).map fun i =>
        if (r.imm.extractLsb' 0 8).getLsbD i then EventSlot.unbound else x.w.events.getD i EventSlot.unbound }) := by
  have h0 : exec (.evclr r) s = execEvclr r s := rfl
  rw [h0, execEvclr, atSite_some hx]
  rfl

/-- WAITANY parks its slot while no slot that EVM admits is pending. -/
theorem exec_waitany_parks {r : Reg} {s : State} {x : Site} (hx : s.siteOf = some x) (hnone : x.w.evp &&& x.w.evm = 0) :
    exec (.waitany r) s = .next (s.setWarp x.wid (x.w.setSlot x.sel { x.sl with parkedWait := true })) := by
  have h0 : exec (.waitany r) s = execWaitany r s := rfl
  have hfind : (List.range 8).find? (fun i => (x.w.evp &&& x.w.evm).getLsbD i) = none := by
    rw [List.find?_eq_none]
    intro i _
    rw [hnone]
    simp
  rw [h0, execWaitany, atSite_some hx]
  dsimp only
  rw [hfind]

/-- WAITANY goes to the handler of the lowest slot that is pending and admitted. -/
theorem exec_waitany_goes {r : Reg} {s : State} {x : Site} (hx : s.siteOf = some x) {i : Nat} (hi : i < 8)
    (hbit : (x.w.evp &&& x.w.evm).getLsbD i = true) (hmin : ∀ j, j < i → (x.w.evp &&& x.w.evm).getLsbD j = false) :
    exec (.waitany r) s = .next (s.advanceTo x 1 { x.w with evp := x.w.evp &&& ~~~((1 : BitVec 8) <<< i) }
      (some (x.w.events.getD i EventSlot.unbound).handler)) := by
  have h0 : exec (.waitany r) s = execWaitany r s := rfl
  have hfind : (List.range 8).find? (fun i => (x.w.evp &&& x.w.evm).getLsbD i) = some i := by
    rw [List.find?_range_eq_some]
    exact ⟨hbit, List.mem_range.mpr hi, fun j hj => by simp only [hmin j hj, Bool.not_false]⟩
  rw [h0, execWaitany, atSite_some hx]
  dsimp only
  rw [hfind]

/-- A warp whose event fields alone have changed commits the rest as before (R171). -/
theorem completes_withEvents {i : Instr} {s : State} {x : Site} {n : Nat} {p : BitVec 8} {es : List EventSlot} {target : Option DWord}
    (hs : x.sl = x.w.slot x.sel) (he : exec i s = .next (s.advanceTo x n { x.w with evp := p, events := es } target)) :
    CompletesFrom i s s x n target { x.done with evp := p, events := es } [] [] [] fun _ => True := by
  refine completes_of_advance_true he (by rw [hs]; cases x.sel <;> rfl) rfl ?_
  rw [commitHeld_withEvents]
  exact AgreeBut.refl _

theorem commitHeld_events (w : Warp) (x : PcSel) : (commitHeld w x).events = w.events :=
  calc (commitHeld w x).events = (commitHeld { w with evp := w.evp, events := w.events } x).events := rfl
    _ = w.events := by rw [commitHeld_withEvents]

theorem commitHeld_withEvp (w : Warp) (x : PcSel) (p : BitVec 8) :
    commitHeld { w with evp := p } x = { commitHeld w x with evp := p } :=
  calc commitHeld { w with evp := p } x = commitHeld { w with evp := p, events := w.events } x := rfl
    _ = { commitHeld w x with evp := p, events := w.events } := commitHeld_withEvents w x p w.events
    _ = { commitHeld w x with evp := p, events := (commitHeld w x).events } := by rw [commitHeld_events]
    _ = { commitHeld w x with evp := p } := rfl

/-- Settles O28: EVBIND by the kind of its slot, EVMASK and EVCLR, WAITANY by what is pending. -/
theorem eventInstructions : Obligations.EventInstructions := by
  intro s x hx
  have hs := (siteOf_spec hx).2.2.1
  refine ⟨fun r xi => ?_, fun r => ⟨?_, ?_⟩, fun r => ⟨exec_waitany_parks hx, fun i hi hbit hmin => ?_⟩⟩
  · intro i a one e binds
    refine ⟨fun hk => completes_bindEvent hs (exec_evbind_rfault hx hk), fun ha => ⟨fun hk => ?_, fun hk hv => ?_, fun hk => ?_,
      fun hk hv hbars o ho => ?_, fun hk t s' hlt hal ht hp h hh hopen => ?_⟩⟩
    · exact completes_bindEvent hs (exec_evbind_batch hx ha hk)
    · exact completes_bindEvent hs (exec_evbind_mailbox hx ha hk hv)
    · exact completes_bindEvent hs (exec_evbind_timer hx ha hk)
    · exact completes_bindEvent hs (exec_evbind_barrier hx ha hk hv hbars ho)
    · exact completes_bindEvent hs (exec_evbind_counter hx ha hk hlt hal ht hp hh hopen)
  · exact completes_of_advance_true (exec_evmask hx) (by rw [hs]; cases x.sel <;> rfl) rfl (AgreeBut.refl _)
  · exact completes_withEvents hs (exec_evclr hx)
  · refine completes_of_advance_true (exec_waitany_goes hx hi hbit hmin) (by rw [hs]; cases x.sel <;> rfl) rfl ?_
    rw [commitHeld_withEvp]
    exact AgreeBut.refl _

end Sys2Proof.Machine
end

section
/-! PROOFS. The end of a clause where the warp's slots split, join or lose their lanes (R176-R179, R314, R318), and its obligations
(O30, O31). -/

open Sys2Proof Sys2Proof.Machine

namespace Sys2Proof.Machine

/-! Slots of a warp. -/

@[simp] theorem slot_other_setSlot (w : Warp) (x : PcSel) (v : PcSlot) : (w.setSlot x v).slot x.other = w.slot x.other := by cases x <;> rfl
@[simp] theorem slot_setSlot_other (w : Warp) (x : PcSel) (v : PcSlot) : (w.setSlot x.other v).slot x = w.slot x := by cases x <;> rfl

theorem Light.exited {w u : Warp} (h : Light w u) : u.exited = w.exited := by
  obtain ⟨a, b, j, d, y, sk, fl, rfl, e⟩ := h
  rfl

theorem Light.block {w u : Warp} (h : Light w u) : u.block = w.block := by
  obtain ⟨a, b, j, d, y, sk, fl, rfl, e⟩ := h
  rfl

/-- What a commit leaves of where a warp stands (R171). -/
theorem commitOne_stands (w : Warp) (h : Held) :
    (commitOne w h).dsp = w.dsp ∧ (commitOne w h).exited = w.exited ∧ (commitOne w h).block = w.block := by
  cases h with
  | s r v => exact ⟨rfl, rfl, rfl⟩
  | v r m l => exact ⟨rfl, rfl, rfl⟩
  | p r m b => simp [commitOne]
  | special n v => simp only [commitOne]; split <;> exact ⟨rfl, rfl, rfl⟩
  | walk k b d =>
    by_cases h0 : b = 0
    · by_cases h1 : 16 ≤ w.units
      · simp only [commitOne, h0, h1, if_true]; exact ⟨rfl, rfl, rfl⟩
      · simp only [commitOne, h0, h1, if_true, if_false, and_self]
    · simp only [commitOne, h0, if_false, and_self]

theorem commits_stands (l : List Held) (w : Warp) :
    (l.foldl commitOne w).dsp = w.dsp ∧ (l.foldl commitOne w).exited = w.exited ∧ (l.foldl commitOne w).block = w.block := by
  induction l generalizing w with
  | nil => exact ⟨rfl, rfl, rfl⟩
  | cons h l ih =>
    obtain ⟨i1, i2, i3⟩ := ih (commitOne w h)
    obtain ⟨c1, c2, c3⟩ := commitOne_stands w h
    exact ⟨i1.trans c1, i2.trans c2, i3.trans c3⟩

/-! The warp as it stands at the end of a clause, before joins (R171, R311). -/

/-- The warp w whose instruction ends the clause of its slot: its results are committed, and the slot stands where it goes. -/
def State.endClause (s : State) (x : Site) (w : Warp) (target : Option DWord) : Warp :=
  let st := (s.stamp x).2
  let sl := { (w.slot x.sel) with issued := st.issued, claimed := st.claimed, started := st.started, first := st.first
                                  parkedWait := false, await := none }
  let w := if x.sl.k = 0 then { w with yieldPass := false } else w
  let w := w.setSlot x.sel sl
  let w := if (x.sl.clause.map (·.hdr.yield)).getD false then { w with yieldPass := true } else w
  let w := toClause w x.sel (target.getD x.nextClause)
  w.setSlot x.sel { w.slot x.sel with via := target.map fun _ => x.addr }

/-- Behind the last word of a clause, and behind a transfer, the end of the clause is settled. -/
theorem advanceTo_endClause (s : State) {x : Site} {n : Nat} (w : Warp) {target : Option DWord} (h : x.n < x.k + n ∨ target ≠ none) :
    s.advanceTo x n w target = (s.stamp x).1.settled x.wid x.b (s.endClause x w target) := by
  have hc : ¬(decide (x.k + n ≤ x.n) && target.isNone) = true := by
    simp only [Bool.and_eq_true, decide_eq_true_eq, Option.isNone_iff_eq_none, not_and]
    intro hle
    rcases h with h | h
    · omega
    · exact h
  unfold State.advanceTo
  dsimp only
  rw [if_neg hc]
  rfl

/-- What the end of a clause makes of a slot: it holds its lanes at the start of the next clause. -/
structure Stands (v u : PcSlot) (pc : DWord) : Prop where
  mask : u.mask = v.mask
  pc : u.pc = pc
  k : u.k = 0
  parkedJoin : u.parkedJoin = v.parkedJoin
  parkedWait : u.parkedWait = false

theorem endClause_slot (s : State) (x : Site) (w : Warp) (target : Option DWord) :
    Stands (w.slot x.sel) ((s.endClause x w target).slot x.sel) (target.getD x.nextClause) := by
  unfold State.endClause toClause commitHeld
  dsimp only
  rw [Warp.slot_setSlot_self, Warp.slot_setSlot_self, Warp.slot_setSlot_self, (commits_slot _ _ _).1]
  by_cases hk : x.sl.k = 0 <;> by_cases hy : (x.sl.clause.map (·.hdr.yield)).getD false = true <;>
    simp only [hk, hy, if_true, if_false, Bool.false_eq_true] <;> cases x.sel <;> exact ⟨rfl, rfl, rfl, rfl, rfl⟩

theorem endClause_other (s : State) (x : Site) (w : Warp) (target : Option DWord) :
    (s.endClause x w target).slot x.sel.other = w.slot x.sel.other := by
  unfold State.endClause toClause commitHeld
  dsimp only
  rw [slot_other_setSlot, slot_other_setSlot, slot_other_setSlot, (commits_slot _ _ _).1]
  by_cases hk : x.sl.k = 0 <;> by_cases hy : (x.sl.clause.map (·.hdr.yield)).getD false = true <;>
    simp only [hk, hy, if_true, if_false, Bool.false_eq_true] <;> cases x.sel <;> rfl

theorem endClause_stands (s : State) (x : Site) (w : Warp) (target : Option DWord) :
    (s.endClause x w target).j = w.j ∧ (s.endClause x w target).dsp = w.dsp ∧ (s.endClause x w target).exited = w.exited ∧
      (s.endClause x w target).block = w.block := by
  unfold State.endClause toClause commitHeld
  dsimp only
  simp only [Warp.setSlot_j, Warp.setSlot_dsp, Warp.setSlot_exited, Warp.setSlot_block, (commits_slot _ _ x.sel).2, (commits_stands _ _).1,
    (commits_stands _ _).2]
  by_cases hk : x.sl.k = 0 <;> by_cases hy : (x.sl.clause.map (·.hdr.yield)).getD false = true <;>
    simp only [hk, hy, if_true, if_false, Bool.false_eq_true] <;>
    simp only [Warp.setSlot_j, Warp.setSlot_dsp, Warp.setSlot_exited, Warp.setSlot_block, and_self]

/-! Joins (R177). -/

/-- A slot that holds lanes at a clause boundary, with J next (R177). -/
def atJoin (w : Warp) (x : PcSel) : Bool := (w.slot x).live && decide ((w.slot x).k = 0) && !(w.slot x).parkedWait && decide (w.j = some (w.slot x).pc)

/-- A slot that has reached the join, or reaches it at the end of this clause. -/
def joined (w : Warp) (x : PcSel) : Bool := (w.slot x).parkedJoin || atJoin w x

/-- The warp with each slot that has reached the join parked there. -/
def parked (w : Warp) : Warp := parkAtJoin (parkAtJoin w .a) .b

theorem parkAtJoin_slot (w : Warp) (x y : PcSel) :
    (parkAtJoin w x).slot y = { w.slot y with parkedJoin := (w.slot y).parkedJoin || (decide (x = y) && atJoin w x) } := by
  unfold parkAtJoin
  dsimp only
  split
  · next h =>
    have h : atJoin w x = true := h
    rw [h]
    cases x <;> cases y <;> simp [Warp.setSlot, Warp.slot]
  · next h =>
    have h : atJoin w x = false := by simpa [atJoin] using h
    rw [h, Bool.and_false, Bool.or_false]

theorem parkAtJoin_stands (w : Warp) (x : PcSel) : (parkAtJoin w x).j = w.j ∧ (parkAtJoin w x).dsp = w.dsp := by
  unfold parkAtJoin
  dsimp only
  split
  · exact ⟨by simp, by simp⟩
  · exact ⟨rfl, rfl⟩

theorem parked_slot (w : Warp) (y : PcSel) : (parked w).slot y = { w.slot y with parkedJoin := joined w y } := by
  have hb : atJoin (parkAtJoin w .a) .b = atJoin w .b := by
    unfold atJoin
    rw [parkAtJoin_slot, (parkAtJoin_stands w .a).1]
    rfl
  rw [parked, parkAtJoin_slot, parkAtJoin_slot, hb]
  cases y
  · simp [joined]
  · simp [joined]

theorem parked_stands (w : Warp) : (parked w).j = w.j ∧ (parked w).dsp = w.dsp :=
  ⟨(parkAtJoin_stands _ _).1.trans (parkAtJoin_stands _ _).1, (parkAtJoin_stands _ _).2.trans (parkAtJoin_stands _ _).2⟩

theorem parked_a (w : Warp) : (parked w).a = { w.a with parkedJoin := joined w .a } := parked_slot w .a
theorem parked_b (w : Warp) : (parked w).b = { w.b with parkedJoin := joined w .b } := parked_slot w .b

/-- Slot A has taken J with lanes m, slot B is empty, and J is invalid (R177). -/
structure TookJoin (v : Warp) (m : Mask) (j : DWord) : Prop where
  mask : v.a.mask = m
  pc : v.a.pc = j
  k : v.a.k = 0
  other : v.b.mask = 0
  invalid : v.j = none

section
variable {s : State} {b : Block} {w : Warp} {n : Nat} {j : DWord}

/-- While one of two live slots has not reached the join, both stay. -/
theorem settle_apart (ha : w.a.live = true) (hb : w.b.live = true) (hp : joined w .a = false ∨ joined w .b = false) :
    s.settle b w (n + 1) = parked w := by
  unfold State.settle
  extract_lets late u m e done
  have hl : (u.a.live && u.b.live) = true := by
    rw [show u.a = _ from parked_a w, show u.b = _ from parked_b w]
    exact congrArg₂ and ha hb
  have hpp : (u.a.parkedJoin && u.b.parkedJoin) = false := by
    rw [show u.a = _ from parked_a w, show u.b = _ from parked_b w]
    rcases hp with hp | hp <;> simp [hp]
  split
  · rfl
  · rw [if_pos hl, hpp, if_neg Bool.false_ne_true]
    rfl

/-- Without lanes, and with nothing on the stack, no lane comes back. -/
theorem settle_laneless (ha : w.a.live = false) (hb : w.b.live = false) (hd : w.dsp = 0 ∨ w.j = none) :
    (s.settle b w (n + 1)).a.live = false ∧ (s.settle b w (n + 1)).b.live = false := by
  unfold State.settle
  extract_lets late u m e done
  have hla : u.a.live = false := by rw [show u.a = _ from parked_a w]; exact ha
  have hlb : u.b.live = false := by rw [show u.b = _ from parked_b w]; exact hb
  have hst : u.j = w.j ∧ u.dsp = w.dsp := parked_stands w
  split
  · exact ⟨hla, hlb⟩
  · next j hj =>
    have hdsp : u.dsp = 0 := by
      rcases hd with hd | hd
      · exact hst.2.trans hd
      · rw [hst.1, hd] at hj
        cases hj
    rw [hla, hlb, hdsp]
    exact ⟨hla, hlb⟩

/-- Once every live slot has reached the join, slot A takes J with the lanes of both, and with an empty stack J is invalid. -/
theorem settle_merges (hj : w.j = some j) (hlive : w.a.live = true ∨ w.b.live = true) (ha : w.a.live = true → joined w .a = true)
    (hb : w.b.live = true → joined w .b = true) (hd : w.dsp = 0) :
    TookJoin (s.settle b w (n + 1)) (w.a.mask ||| w.b.mask) j := by
  unfold State.settle
  extract_lets late u m e done
  have hua : u.a = { w.a with parkedJoin := joined w .a } := parked_a w
  have hub : u.b = { w.b with parkedJoin := joined w .b } := parked_b w
  have hst : u.j = w.j ∧ u.dsp = w.dsp := parked_stands w
  have hdone : ∀ k, TookJoin (done k j) k j := by
    intro k
    have hdsp : m.dsp = 0 := hst.2.trans hd
    simp only [done]
    rw [if_pos hdsp]
    exact ⟨rfl, rfl, rfl, rfl, rfl⟩
  have hla : u.a.live = w.a.live := by rw [hua]; rfl
  have hlb : u.b.live = w.b.live := by rw [hub]; rfl
  have hpa : u.a.parkedJoin = joined w .a := by rw [hua]
  have hpb : u.b.parkedJoin = joined w .b := by rw [hub]
  have hma : u.a.mask = w.a.mask := by rw [hua]
  have hmb : u.b.mask = w.b.mask := by rw [hub]
  rw [hst.1, hj]
  dsimp only
  rw [hla, hlb, hpa, hpb, hma, hmb]
  clear_value done
  cases hal : w.a.live
  · have hbl : w.b.live = true := by simpa [hal] using hlive
    have h0 : w.a.mask = 0 := by simpa [PcSlot.live] using hal
    simpa [hbl, hb hbl, h0] using hdone w.b.mask
  · cases hbl : w.b.live
    · have h0 : w.b.mask = 0 := by simpa [PcSlot.live] using hbl
      simpa [ha hal, h0] using hdone w.a.mask
    · simpa [ha hal, hb hbl] using hdone (w.a.mask ||| w.b.mask)

end

/-! The warp behind a clause's end (R177, R179, R191). -/

/-- With a live slot the settled warp is kept. -/
theorem warp?_settled_live {s : State} {wid : WarpId} {b : Block} {w : Warp}
    (hl : ((s.settle b w (w.dsp + 2)).a.live || (s.settle b w (w.dsp + 2)).b.live) = true) :
    (s.settled wid b w).warp? wid = some (s.settle b w (w.dsp + 2)) := by
  unfold State.settled
  dsimp only
  rw [if_pos hl]
  exact warp?_setWarp _ _ _

/-- Without lanes the warp has exited; with the block's last warp the retirement is due. -/
theorem settled_laneless {s : State} {wid : WarpId} {b : Block} {w : Warp}
    (hl : ((s.settle b w (w.dsp + 2)).a.live || (s.settle b w (w.dsp + 2)).b.live) = false) :
    (∃ u, (s.settled wid b w).warp? wid = some u ∧ u.exited = true) ∧
      ((∀ y, y ∈ (s.settled wid b w).warps → y.2.block = w.block → y.2.laneless = true) →
        (.blockRetire, { b := w.block }) ∈ (s.settled wid b w).inflight) := by
  have hblk : (s.settle b w (w.dsp + 2)).block = w.block := (settle_light s b w (w.dsp + 2)).1.block
  unfold State.settled
  extract_lets v t t'
  rw [if_neg (by rw [hl]; exact Bool.false_ne_true)]
  have hwarps : t'.warps = t.warps := by
    simp only [t']
    split
    · exact State.postOnce_warps _ _ _
    · rfl
  have ht : t'.warp? wid = some { v with exited := true, handler := false, trap := none } := by
    rw [State.warp?, hwarps]
    exact warp?_setWarp _ _ _
  have hdue : (∀ y, y ∈ t'.warps → y.2.block = w.block → y.2.laneless = true) → (.blockRetire, { b := w.block }) ∈ t'.inflight := by
    intro hall
    have hany : (t.warps.all fun x => x.2.block != v.block || x.2.laneless) = true := by
      rw [List.all_eq_true]
      intro y hy
      by_cases hyb : y.2.block = w.block
      · rw [hall y (hwarps ▸ hy) hyb, Bool.or_true]
      · simp [hblk, v, hyb]
    simp only [t', if_pos hany]
    rw [← hblk]
    exact State.mem_postOnce _ _ _
  split
  · refine ⟨⟨{ v with exited := true, handler := false, trap := none }, ?_, rfl⟩, fun hall => State.mem_postOnce_of_mem _ _ (hdue ?_)⟩
    · rw [State.warp?, State.postOnce_warps]
      exact ht
    · rwa [State.postOnce_warps] at hall
  · exact ⟨⟨_, ht, rfl⟩, hdue⟩

/-! EXIT and the arrival at the join (R177, R179, R318). -/

/-- The end of a clause whose warp has no lane left (R179). -/
theorem advanceTo_laneless {s : State} {x : Site} {n : Nat} {w : Warp} {target : Option DWord} (h : x.n < x.k + n ∨ target ≠ none)
    (hs : (w.slot x.sel).mask = 0) (ho : (w.slot x.sel.other).mask = 0) (hd : w.dsp = 0 ∨ w.j = none) :
    (∃ u, (s.advanceTo x n w target).warp? x.wid = some u ∧ u.exited = true) ∧
      ((∀ y, y ∈ (s.advanceTo x n w target).warps → y.2.block = w.block → y.2.laneless = true) →
        (.blockRetire, { b := w.block }) ∈ (s.advanceTo x n w target).inflight) := by
  obtain ⟨hj, hdsp, -, hblk⟩ := endClause_stands s x w target
  have hself := (endClause_slot s x w target).mask
  have hother := endClause_other s x w target
  rw [advanceTo_endClause s w h]
  generalize s.endClause x w target = v at *
  have hl1 : (v.slot x.sel).live = false := by simp [PcSlot.live, hself, hs]
  have hl2 : (v.slot x.sel.other).live = false := by simp [PcSlot.live, hother, ho]
  have hab : v.a.live = false ∧ v.b.live = false := by
    cases hx : x.sel <;> rw [hx] at hl1 hl2
    · exact ⟨hl1, hl2⟩
    · exact ⟨hl2, hl1⟩
  have hsl := settle_laneless (s := (s.stamp x).1) (b := x.b) (w := v) (n := v.dsp + 1) hab.1 hab.2 (by rw [hdsp, hj]; exact hd)
  have hend := settled_laneless (s := (s.stamp x).1) (wid := x.wid) (b := x.b) (w := v) (by rw [hsl.1, hsl.2]; rfl)
  rw [hblk] at hend
  exact hend

/-- The end of a clause whose slot keeps lanes and does not stand at the join (R171). -/
theorem advanceTo_stays {s : State} {x : Site} {n : Nat} {w : Warp} {target : Option DWord} (h : x.n < x.k + n ∨ target ≠ none)
    (hl : (w.slot x.sel).mask ≠ 0) (hp : (w.slot x.sel).parkedJoin = false) (hj : w.j ≠ some (target.getD x.nextClause)) :
    ∃ u, (s.advanceTo x n w target).warp? x.wid = some u ∧ (u.slot x.sel).mask = (w.slot x.sel).mask ∧
      (u.slot x.sel).pc = target.getD x.nextClause ∧ u.exited = w.exited := by
  obtain ⟨hvj, hdsp, hexit, hblk⟩ := endClause_stands s x w target
  have hself := endClause_slot s x w target
  rw [advanceTo_endClause s w h]
  generalize s.endClause x w target = v at *
  have hlive : (v.slot x.sel).live = true := by simpa [PcSlot.live, hself.mask] using hl
  have hstay := settle_stays (s.stamp x).1 x.b v x.sel (v.dsp + 2) hlive (hself.parkedJoin.trans hp) (by rw [hvj, hself.pc]; exact hj)
  have hkeep := (settle_light (s.stamp x).1 x.b v (v.dsp + 2)).1
  refine ⟨_, warp?_settled_live ?_, by rw [hstay, hself.mask], by rw [hstay, hself.pc], by rw [hkeep.exited, hexit]⟩
  generalize (s.stamp x).1.settle x.b v (v.dsp + 2) = u at hstay
  rw [← hstay] at hlive
  cases hx : x.sel <;> rw [hx] at hlive
  · simp [show u.a.live = true from hlive]
  · simp [show u.b.live = true from hlive]

/-- What EXIT makes of its warp (R318). -/
def Site.exits (x : Site) (g : Nat) : Warp := x.w.setSlot x.sel { x.sl with mask := x.sl.mask &&& ~~~(x.sl.mask &&& x.w.preg g) }

theorem exec_exit {r : Reg} {s : State} {x : Site} (hx : s.siteOf = some x) :
    exec (.exit r) s = .next (s.advanceTo x 1 (x.exits r.g.toNat) none) := by
  have h0 : exec (.exit r) s = execExit r s := rfl
  rw [h0, execExit, atSite_some hx]
  rfl

theorem andNot_and (m p : Mask) : m &&& ~~~(m &&& p) = m &&& ~~~p := by
  refine BitVec.eq_of_getLsbD_eq fun i hi => ?_
  simp only [BitVec.getLsbD_and, BitVec.getLsbD_not, hi, decide_true, Bool.true_and]
  cases m.getLsbD i <;> simp

/-- A change of what a slot holds besides its results changes no register that it commits. -/
theorem commitHeld_setSlot_light {x : Site} {v : PcSlot} (hs : x.sl = x.w.slot x.sel) (hv : v.held = x.sl.held) :
    Light x.done (commitHeld (x.w.setSlot x.sel v) x.sel) :=
  (Light.setSlot x.w x.sel v).commitHeld x.sel (by rw [Warp.slot_setSlot_self, hv, hs])

theorem dropsLanes {s : State} {x : Site} {r : Reg} (hx : s.siteOf = some x) (hn : x.n = x.k) :
    let rest := x.sl.mask &&& ~~~(x.w.preg r.g.toNat)
    ∃ t w, exec (.exit r) s = .next t ∧ Untouched eraseStamp s t x.wid ∧ t.warp? x.wid = some w ∧
      AgreeBut [] [] [] x.done (commitHeld w x.sel) ∧
      (rest ≠ 0 → x.w.j ≠ some x.nextClause → x.sl.parkedJoin = false →
        (w.slot x.sel).mask = rest ∧ (w.slot x.sel).pc = x.nextClause ∧ w.exited = x.w.exited) ∧
      (rest = 0 → (x.w.slot x.sel.other).mask = 0 → x.w.dsp = 0 ∨ x.w.j = none →
        w.exited = true ∧
        ((∀ y, y ∈ t.warps → y.2.block = x.w.block → y.2.laneless = true) → (.blockRetire, { b := x.w.block }) ∈ t.inflight)) := by
  intro rest
  have hs := (siteOf_spec hx).2.2.1
  have hend : x.n < x.k + 1 ∨ (none : Option DWord) ≠ none := .inl (by omega)
  have hsl : (x.exits r.g.toNat).slot x.sel = { x.sl with mask := rest } := by
    rw [Site.exits, Warp.slot_setSlot_self, andNot_and]
  have hoth : (x.exits r.g.toNat).slot x.sel.other = x.w.slot x.sel.other := slot_other_setSlot _ _ _
  have hj : (x.exits r.g.toNat).j = x.w.j := Warp.setSlot_j _ _ _
  have hdsp : (x.exits r.g.toNat).dsp = x.w.dsp := Warp.setSlot_dsp _ _ _
  have hblk : (x.exits r.g.toNat).block = x.w.block := Warp.setSlot_block _ _ _
  have hexit : (x.exits r.g.toNat).exited = x.w.exited := Warp.setSlot_exited _ _ _
  have hlight : Light x.done (commitHeld (x.exits r.g.toNat) x.sel) := commitHeld_setSlot_light hs rfl
  obtain ⟨u, hu, ht, v, hv, hc⟩ := advanceTo_spec s x 1 (x.exits r.g.toNat) none
  refine ⟨_, u, exec_exit hx, ht, hu, ?_, fun hrest hnj hp => ?_, fun hrest hom hd => ?_⟩
  · rcases hc with hc | hc <;> rw [hc]
    · exact (hlight.trans hv).agree
    · exact (hlight.trans hv).agree.exit
  · obtain ⟨u', hu', hm, hpc, he⟩ := advanceTo_stays (s := s) hend (by rw [hsl]; exact hrest) (by rw [hsl]; exact hp) (by rw [hj]; exact hnj)
    obtain rfl : u = u' := by simpa [hu] using hu'
    exact ⟨by rw [hm, hsl], hpc, he.trans hexit⟩
  · obtain ⟨⟨u', hu', he⟩, hdue⟩ := advanceTo_laneless (s := s) hend (by rw [hsl]; exact hrest) (by rw [hoth]; exact hom)
      (by rw [hdsp, hj]; exact hd)
    obtain rfl : u = u' := by simpa [hu] using hu'
    exact ⟨he, by rwa [hblk] at hdue⟩

/-! The arrival at the join. -/

/-- Behind a transfer to J: the slot parks beside a live slot that has not reached the join, else slot A takes J. -/
theorem reachesJoin {s : State} {x : Site} {n : Nat} {j : DWord} (hs : x.sl = x.w.slot x.sel) (hj : x.w.j = some j) (hl : x.sl.live = true) :
    let y := x.w.slot x.sel.other
    ∃ w, (s.advanceTo x n x.w (some j)).warp? x.wid = some w ∧
      (y.live = true → y.parkedJoin = false → (y.k ≠ 0 ∨ y.pc ≠ j ∨ y.parkedWait = true) →
        (w.slot x.sel).parkedJoin = true ∧ (w.slot x.sel).mask = x.sl.mask ∧ w.slot x.sel.other = y ∧ w.j = some j) ∧
      ((y.live = true → y.parkedJoin = true) → x.w.dsp = 0 → TookJoin w (x.sl.mask ||| y.mask) j) := by
  intro y
  obtain ⟨u, hu, -⟩ := advanceTo_spec s x n x.w (some j)
  refine ⟨u, hu, ?_⟩
  obtain ⟨hvj, hdsp, -⟩ := endClause_stands s x x.w (some j)
  have hself := endClause_slot s x x.w (some j)
  have hother := endClause_other s x x.w (some j)
  rw [advanceTo_endClause s x.w (.inr (by simp))] at hu
  rw [← hs] at hself
  generalize s.endClause x x.w (some j) = v at *
  generalize (s.stamp x).1 = t at *
  have hlive : (v.slot x.sel).live = true := by simpa [PcSlot.live, hself.mask] using hl
  have hat : joined v x.sel = true := by
    have : atJoin v x.sel = true := by simp [atJoin, hlive, hself.k, hself.parkedWait, hself.pc, hvj, hj]
    rw [joined, this, Bool.or_true]
  refine ⟨fun hy hyp hyj => ?_, fun hy hd => ?_⟩
  · have hoff : joined v x.sel.other = false := by
      have : atJoin v x.sel.other = false := by
        unfold atJoin
        rw [hother, hvj, hj]
        rcases hyj with h | h | h
        · simp [show ¬(x.w.slot x.sel.other).k = 0 from h]
        · simp [show ¬j = (x.w.slot x.sel.other).pc from Ne.symm h]
        · simp [show (x.w.slot x.sel.other).parkedWait = true from h]
      rw [joined, this, hother, Bool.or_false]
      exact hyp
    have hol : (v.slot x.sel.other).live = true := by rw [hother]; exact hy
    have hset : t.settle x.b v (v.dsp + 2) = parked v := by
      cases hx : x.sel <;> rw [hx] at hlive hol hoff
      · exact settle_apart hlive hol (.inr hoff)
      · exact settle_apart hol hlive (.inl hoff)
    have hkeep : ∀ z, ((parked v).slot z).live = (v.slot z).live := fun z => by rw [parked_slot]; rfl
    have hup : u = parked v := by
      have := warp?_settled_live (s := t) (wid := x.wid) (b := x.b) (w := v) (by
        rw [hset]
        cases hx : x.sel <;> rw [hx, ← hkeep] at hlive
        · simp [show (parked v).a.live = true from hlive]
        · simp [show (parked v).b.live = true from hlive])
      rw [hset] at this
      exact Option.some.inj (hu.symm.trans this)
    rw [hup, parked_slot, parked_slot, hat, hoff, hother, (parked_stands v).1, hvj]
    refine ⟨rfl, hself.mask, ?_, hj⟩
    change { y with parkedJoin := false } = y
    rw [← hyp]
  · have hoj : (v.slot x.sel.other).live = true → joined v x.sel.other = true := by
      rw [hother]
      intro h
      rw [joined, hother, hy h, Bool.true_or]
    have hmask : (v.slot x.sel).mask ||| (v.slot x.sel.other).mask = x.sl.mask ||| y.mask := by rw [hself.mask, hother]
    have hset : TookJoin (t.settle x.b v (v.dsp + 2)) (x.sl.mask ||| y.mask) j := by
      rw [← hmask]
      cases hx : x.sel <;> rw [hx] at hlive hoj hat
      · exact settle_merges (hvj.trans hj) (.inl hlive) (fun _ => hat) hoj (hdsp.trans hd)
      · rw [BitVec.or_comm]
        exact settle_merges (hvj.trans hj) (.inr hlive) hoj (fun _ => hat) (hdsp.trans hd)
    have hup : u = t.settle x.b v (v.dsp + 2) := by
      refine Option.some.inj (hu.symm.trans (warp?_settled_live ?_))
      have : (t.settle x.b v (v.dsp + 2)).a.live = true := by
        have h0 : x.sl.mask ≠ 0 := by simpa [PcSlot.live] using hl
        simp only [PcSlot.live, hset.mask, bne_iff_ne, ne_eq]
        exact fun h => h0 (BitVec.or_eq_zero_iff.mp h).1
      rw [this, Bool.true_or]
    rw [hup]
    exact hset

/-- Settles O31: EXIT by whether a lane stays, and the arrival at the join by what the other slot does. -/
theorem exitAndJoin : Obligations.ExitAndJoin := by
  refine ⟨fun r s x hx hn => dropsLanes hx hn, fun r s x j hx hj ht hl _ => ?_⟩
  intro y
  have h0 : exec (.bra r) s = s.branch r fun _ => true := rfl
  have he : exec (.bra r) s = .next (s.advanceTo x 1 x.w (some j)) := by
    rw [h0, State.branch, atSite_some hx, ← ht]
    rfl
  obtain ⟨w, hw, hpark, hmerge⟩ := reachesJoin (s := s) (n := 1) (siteOf_spec hx).2.2.1 hj hl
  refine ⟨_, w, he, hw, hpark, fun hy hd => ?_⟩
  obtain ⟨h1, h2, h3, h4, h5⟩ := hmerge hy hd
  exact ⟨h1, h2, h3, h4, h5⟩

/-! BRD (R176, R178, R314). -/

theorem splitSlots_light (x : Site) (w : Warp) (yes no : Mask) (target join : DWord) : Light w (splitSlots x w yes no target join) := by
  unfold splitSlots
  dsimp only
  cases x.sel
  · exact ⟨_, _, _, _, _, _, _, rfl, by simp [Function.comp_def]⟩
  · exact ⟨_, _, _, _, _, _, _, rfl, by simp [Function.comp_def]⟩

theorem pushOrder_light (w : Warp) (y : PcSel) (dsp : Nat) : Light w { pushOrder w y with dsp := dsp } := by
  refine ⟨_, _, _, _, _, _, _, rfl, ?_⟩
  simp only [pushOrder, List.map_map]
  refine List.map_congr_left fun f _ => ?_
  simp only [Function.comp_apply]
  cases y <;> (dsimp only; split <;> rfl)

theorem splitSlots_self (x : Site) (w : Warp) (yes no : Mask) (target join : DWord) :
    (splitSlots x w yes no target join).slot x.sel = { w.slot x.sel with mask := no } := by
  unfold splitSlots
  cases x.sel <;> rfl

theorem splitSlots_other (x : Site) (w : Warp) (yes no : Mask) (target join : DWord) :
    (splitSlots x w yes no target join).slot x.sel.other =
      { PcSlot.empty with mask := yes, pc := target, scLast := (w.slot x.sel).scLast, via := some x.addr } := by
  unfold splitSlots
  cases x.sel <;> rfl

/-- A split takes effect at the clause's end, where neither slot stands at the join. -/
theorem splits_of_advance {i : Instr} {s s' : State} {x : Site} {w : Warp} {yes no : Mask} {target join : DWord}
    (he : exec i s = .next (s'.advance x 2 (splitSlots x w yes no target join))) (hs : x.sl = x.w.slot x.sel) (hn : x.n = x.k + 1)
    (hw : Light x.w w) (hwsl : w.slot x.sel = x.sl) (hyes : yes ≠ 0) (hno : no ≠ 0) (hjt : join ≠ target) :
    ∃ t u, exec i s = .next t ∧ Untouched eraseStamp s' t x.wid ∧ t.warp? x.wid = some u ∧
      (u.slot x.sel).mask = no ∧ (u.slot x.sel).pc = x.nextClause ∧ (u.slot x.sel).k = 0 ∧
      (u.slot x.sel.other).mask = yes ∧ (u.slot x.sel.other).pc = target ∧ (u.slot x.sel.other).k = 0 ∧
      u.j = some join ∧ u.dsp = w.dsp ∧ AgreeBut [] [] [] x.done (commitHeld u x.sel) := by
  have hself := splitSlots_self x w yes no target join
  have hother := splitSlots_other x w yes no target join
  have hwj : (splitSlots x w yes no target join).j = some join := rfl
  have hwd : (splitSlots x w yes no target join).dsp = w.dsp := by unfold splitSlots; cases x.sel <;> rfl
  have hlight : Light x.done (commitHeld (splitSlots x w yes no target join) x.sel) :=
    (hw.trans (splitSlots_light x w yes no target join)).commitHeld x.sel (by rw [hself, hwsl, hs])
  rw [State.advance] at he
  generalize splitSlots x w yes no target join = z at *
  obtain ⟨u, hu, ht, q, hq, hc⟩ := advanceTo_spec s' x 2 z none
  have hend := advanceTo_endClause s' z (x := x) (n := 2) (target := none) (.inl (by omega))
  obtain ⟨hvj, hvd, -⟩ := endClause_stands s' x z none
  have hvs := endClause_slot s' x z none
  have hvo := endClause_other s' x z none
  have hu' := hu
  rw [hend] at hu'
  generalize s'.endClause x z none = v at *
  have hlive : (v.slot x.sel).live = true := by simpa [PcSlot.live, hvs.mask, hself] using hno
  have holive : (v.slot x.sel.other).live = true := by simpa [PcSlot.live, hvo, hother] using hyes
  have hoff : joined v x.sel.other = false := by
    have hne : ¬join = (v.slot x.sel.other).pc := by rw [hvo, hother]; exact hjt
    have hat : atJoin v x.sel.other = false := by simp [atJoin, hvj, hwj, hne]
    rw [joined, hat, hvo, hother]
    rfl
  have hset : (s'.stamp x).1.settle x.b v (v.dsp + 2) = parked v := by
    cases hx : x.sel <;> rw [hx] at hlive holive hoff
    · exact settle_apart hlive holive (.inr hoff)
    · exact settle_apart holive hlive (.inl hoff)
  have hup : u = parked v := by
    have hkept := warp?_settled_live (s := (s'.stamp x).1) (wid := x.wid) (b := x.b) (w := v) (by
      have hkeep : ((parked v).slot x.sel).live = true := by rw [parked_slot]; exact hlive
      rw [hset]
      cases hx : x.sel <;> rw [hx] at hkeep
      · simp [show (parked v).a.live = true from hkeep]
      · simp [show (parked v).b.live = true from hkeep])
    rw [hset] at hkept
    exact Option.some.inj (hu'.symm.trans hkept)
  refine ⟨_, u, he, ht, hu, ?_⟩
  have hagree : AgreeBut [] [] [] x.done (commitHeld u x.sel) := by
    rcases hc with hc | hc <;> rw [hc]
    · exact (hlight.trans hq).agree
    · exact (hlight.trans hq).agree.exit
  rw [hup, parked_slot, parked_slot, (parked_stands v).1, (parked_stands v).2, hvo, hother, hvj, hvd]
  refine ⟨hvs.mask.trans (by rw [hself]), hvs.pc, hvs.k, rfl, rfl, rfl, hwj, hwd, hup ▸ hagree⟩

/-- Of some lanes but not all, some are left. -/
theorem andNot_ne_zero {m yes : Mask} (hsub : m &&& yes = yes) (hne : yes ≠ m) : m &&& ~~~yes ≠ 0 := by
  intro h0
  refine hne (BitVec.eq_of_getLsbD_eq fun i hi => ?_)
  have h1 := congrArg (·.getLsbD i) hsub
  have h2 := congrArg (·.getLsbD i) h0
  simp only [BitVec.getLsbD_and, BitVec.getLsbD_not, hi, decide_true, Bool.true_and] at h1 h2
  cases hm : m.getLsbD i <;> cases hy : yes.getLsbD i <;> simp_all

/-- What BRD answers at its site, by its true lanes, J, and the other slot. -/
theorem exec_brd {r : Br} {xi : Word} {s : State} {x : Site} (hx : s.siteOf = some x) :
    exec (.brd r xi) s =
      let yes := x.sl.mask &&& x.w.preg r.c.toNat
      let target := x.wordAddr + r.off.signExtend 64 * 4
      let join := x.wordAddr + xi.signExtend 64 * 4
      let y := x.w.slot x.sel.other
      let go : State → Warp → Result := fun s' w => .next (s'.advance x 2 (splitSlots x w yes (x.sl.mask &&& ~~~yes) target join))
      if yes = x.sl.mask then .next (s.advanceTo x 2 x.w (some target))
      else if yes = 0 then .next (s.advance x 2 x.w)
      else match x.w.j with
        | none => go s x.w
        | some j =>
          if x.b.stack ≤ x.w.dsp then s.trapWhole x 9 0
          else if y.live && (y.k != 0 && !y.parkedWait || y.blocked.isSome) then s.stall
          else match joinOffset (if y.live then y.pc else j) j with
            | none => s.trapWhole x 9 0
            | some off =>
              go (s.deviceWrite x.core (s.stackPool x.b x.w x.w.dsp)
                  (stackEntry (if y.live then slotForm { y with k := 0 } else instrForm j 0) off (if y.live then y.mask else 0)))
                { pushOrder x.w x.sel.other with dsp := x.w.dsp + 1 } := by
  have h0 : exec (.brd r xi) s = execBrd r xi s := rfl
  rw [h0, execBrd, atSite_some hx]
  rfl

/-- Settles O30: BRD by its true lanes, by J, and by the other slot. -/
theorem divergentBranch : Obligations.DivergentBranch := by
  intro r xi s x hx hn m yes target join y splits
  have hs := (siteOf_spec hx).2.2.1
  have he := exec_brd (r := r) (xi := xi) hx
  dsimp only at he
  refine ⟨fun hall => ?_, fun hnone hm => ?_, fun hall hnone hjt _ => ?_⟩
  · rw [if_pos hall] at he
    exact completes_of_advance_true he hs.symm rfl (AgreeBut.refl _)
  · rw [if_neg (fun h => hm (h.symm.trans hnone)), if_pos hnone] at he
    exact completes_of_advance_true he hs.symm rfl (AgreeBut.refl _)
  · have hno : m &&& ~~~yes ≠ 0 := andNot_ne_zero (by rw [← BitVec.and_assoc, BitVec.and_self]) hall
    rw [if_neg hall, if_neg hnone] at he
    refine ⟨fun hj => ?_, fun j hj => ?_⟩
    · rw [hj] at he
      exact splits_of_advance he hs hn (Light.refl _) hs.symm hnone hno hjt
    · rw [hj] at he
      dsimp only at he
      refine ⟨fun hfull => ?_, fun hroom hbusy => ?_, fun hroom hfree => ?_⟩
      · rw [if_pos hfull] at he
        exact raises_of_trapAt hx he
      · have hstop : (y.live && (y.k != 0 && !y.parkedWait || y.blocked.isSome)) = true := by
          obtain ⟨hl, h⟩ := hbusy
          rw [hl, Bool.true_and, Bool.or_eq_true]
          rcases h with ⟨hk, hp⟩ | h
          · exact .inl (by simp [hk, hp])
          · exact .inr (Option.isSome_iff_ne_none.mpr h)
        rw [if_neg (Nat.not_le.mpr hroom), if_pos hstop] at he
        exact waits_of_stall he
      · intro pc off hoff form
        have hgo : (y.live && (y.k != 0 && !y.parkedWait || y.blocked.isSome)) = false := by
          cases hl : y.live
          · rfl
          · obtain ⟨hk, hb⟩ := hfree hl
            rcases hk with hk | hk <;> simp [hk, hb]
        rw [if_neg (Nat.not_le.mpr hroom), if_neg (by rw [hgo]; exact Bool.false_ne_true), show joinOffset _ j = some off from hoff] at he
        refine splits_of_advance he hs hn (pushOrder_light _ _ _) ?_ hnone hno hjt
        rw [hs]
        cases x.sel <;> rfl

end Sys2Proof.Machine
end

section
/-! PROOFS. A receive beside an instruction in flight that bears the number the next one takes (R252, R406), and the refutation of O29. -/

open Sys2Proof Sys2Proof.Machine

namespace Sys2Proof.Machine

/-- MBXRECV of mailbox 3 into register 5. -/
def recvReg : Reg := { d := 5, a := 0, b := 3, g := 0, fa := false, fb := false }

/-- The placed warp with a message in mailbox 3, and an instruction without a destination in flight under the number that the next
instruction takes. -/
def clashing : State :=
  Tests.onWarp (Tests.placed.updCore placeCore fun k => { k with mbox := tset k.mbox 3 [7] }) fun w =>
    { w with flights := [{ (default : Flight) with id := w.nextId }] }

/-- In that state the hypotheses of the receive hold. -/
theorem clashing_ready : ∃ x, clashing.siteOf = some x ∧ (longReady clashing x [recvReg.d.toNat] = true ∧ x.w.longFlights < 8 ∧
    (clashing.core x.core).recv = [] ∧ tget (clashing.core x.core).mbox recvReg.b.toNat [] = [7] ∧ x.wid = placeWarp ∧ x.w.nextId = 1) :=
  Tests.witness (by decide +kernel)

/-- The flight that bears number 1 behind the receive. -/
def clashingFlight : Option Flight :=
  match exec (.mbxrecv recvReg) clashing with
  | .next t => (t.warp? placeWarp).bind (·.flight? 1)
  | _ => none

/-- The receive completes the earlier instruction, which is found first, and removes every one of its number. -/
theorem clashingFlight_eq_none : clashingFlight = none := by decide +kernel

/-- Refutes O29: where an instruction in flight already bears the number that MBXRECV takes, the message completes the earlier one, and
no flight of that number is left that holds it. -/
theorem not_mail : ¬ Obligations.Mail := by
  intro h
  obtain ⟨x, hx, hready, hroom, hrecv, hbox, hwid, hid⟩ := clashing_ready
  obtain ⟨f, hfid, -, -, -, -, -, -, -, hgives⟩ := (h.1 recvReg clashing x hx).2 hready hroom
  obtain ⟨t, w, he, -, -, hw, -, -, -, g, hg, -⟩ := hgives 7 [] hrecv hbox
  have hfound : clashingFlight = some g := by
    rw [clashingFlight, he]
    dsimp only
    rw [← hwid, hw, Option.bind_some, ← hid, ← hfid]
    exact hg
  rw [clashingFlight_eq_none] at hfound
  cases hfound

end Sys2Proof.Machine
end

section
/-! PROOFS. What the stores of an output walker do to memory (R183, R184, R204-R207), and their obligation (O39). -/

open Sys2Proof Sys2Proof.Machine

namespace Sys2Proof.Machine

namespace State

variable {s t : State}

/-! What a store sets off beside memory. -/

theorem mem_of_stay (h : t.stay = s.stay) : t.mem = s.mem := congrArg Prod.snd h

theorem noteStore_mem (s : State) (wid : WarpId) (pa : Nat) : (s.noteStore wid pa).mem = s.mem := by
  unfold noteStore
  split
  · rfl
  · dsimp only
    split
    · exact updWarp_mem ..
    · rfl

theorem recordRff_mem (s : State) (w : WarpId) (cause peer : Nat) (mcast : Bool) (addr : DWord) :
    (s.recordRff w cause peer mcast addr).mem = s.mem := by
  unfold recordRff
  rw [mem_of_ground (fireSlots_ground ..), updWarp_mem]

theorem raise_mem (s : State) (w : WarpId) (r : TrapRec) : (s.raise w r).mem = s.mem := by
  unfold raise
  rw [mem_of_ground (postOnce_ground ..), updWarp_mem]

theorem writeCached_mem (s : State) (c : CoreId) (b : BlockId) (pa : Nat) (bs : List Byte) : (s.writeCached c b pa bs).mem = s.mem := by
  unfold writeCached
  split <;> rfl

theorem dropClean_mem (s : State) (c : CoreId) (pa : Nat) : (s.dropClean c pa).mem = s.mem := by
  unfold dropClean
  dsimp only
  split <;> rfl

/-! What a direct access that waits sets off (R35, R45, R122). -/

theorem request_mem {c : CoreId} {far : Bool} {q : Packet} {use : TagUse} (h : s.request c far q use = some t) : t.mem = s.mem := by
  unfold request at h
  split at h
  · cases h
  · next e =>
    obtain rfl := Option.some.inj h
    rw [mem_of_ground (send_ground ..), mem_of_ground (holdTag_ground ..), mem_of_ground (takeTag_ground e)]

theorem freeze_mem (s : State) (p : Nat) (e : Endpoint) (violation : Nat) : (s.freeze p e violation).mem = s.mem := by
  refine mem_of_ground ?_
  unfold freeze
  dsimp only
  split
  · simp
  · split <;> simp

theorem stopAt_mem (s : State) (unit : Nat) (c : CoreId) (h : Home) : (s.stopAt unit c h).mem = s.mem := by
  unfold stopAt
  dsimp only
  split
  · rfl
  · exact freeze_mem ..

theorem rowAsk_mem (s : State) (unit : Nat) (c : CoreId) (h : Home) (pa : Nat) : (s.rowAsk unit c h pa).mem = s.mem := by
  unfold rowAsk
  split
  · rfl
  · dsimp only
    cases hr : s.request c true _ _ with
    | none => rfl
    | some t => exact request_mem hr

theorem sense_mem (s : State) (unit : Nat) (c : CoreId) (va n : Nat) : (s.sense unit c va n).mem = s.mem := by
  unfold sense
  dsimp only
  split
  · rfl
  · split
    · exact stopAt_mem ..
    · exact rowAsk_mem ..

/-! The looks of a store (R56, R63, R65). -/

theorem lookStore_stay (s : State) (c : CoreId) (va : Nat) : (s.lookStore c va).2.stay = s.stay := by
  unfold lookStore
  split
  · rfl
  · split
    · rfl
    · rfl
    · next ht =>
      have hstay := translate_stay ht
      split
      · exact hstay
      · split
        · exact hstay
        · exact hstay

theorem walkLooks_stay (x : Site) (ls : List (Nat × Nat)) : ∀ s : State, (s.walkLooks x ls).2.stay = s.stay := by
  induction ls with
  | nil => exact fun _ => rfl
  | cons l ls ih => exact fun s => (ih _).trans (lookStore_stay ..)

/-! One store at its place (R204, R206). -/

theorem sameMemBut_of_mem {ks : List Nat} (h : t.mem = s.mem) : SameMemBut ks s t := fun a _ => by rw [h]

/-- A write at a home changes the run's bytes there and no other. -/
theorem homeWrite_sameMemBut (s : State) (d : DieId) (pa : Nat) (bs : List Byte) (hwf : s.mem.wf = true) :
    SameMemBut (s.places d pa bs.length) s (s.homeWrite d pa bs) := by
  cases hh : s.homeAt d pa with
  | none =>
    refine sameMemBut_of_mem ?_
    rw [homeWrite, hh]
  | some h =>
    intro a ha
    rw [homeWrite_mem s d pa bs h hh]
    exact homePuts_sameMemBut s d pa bs hwf a ha

theorem passTag_die {c : CoreId} {far : Bool} (e : s.passTag c far = some t) (d : DieId) : t.die d = s.die d := by
  unfold passTag at e
  split at e
  · obtain ⟨n, -, rfl⟩ := Option.map_eq_some_iff.mp e
    rfl
  · cases e
    rfl

theorem usePass_die (s : State) (c : CoreId) (h : Home) (d : DieId) : (s.usePass c h).die d = s.die d := by
  unfold usePass
  split <;> rfl

/-- A write through R204 changes the bytes that `storePlaces` names, and no other byte. -/
theorem writePlace_sameMemBut {unit : Nat} {c : CoreId} {b : BlockId} {scope policy pa : Nat} {bs r : List Byte} (hwf : s.mem.wf = true)
    (e : s.writePlace unit c b scope policy pa bs = .ok r t) : SameMemBut (s.storePlaces c pa bs.length) s t := by
  unfold writePlace at e
  dsimp only at e
  split at e
  · cases e
  split at e
  · cases e
    exact sameMemBut_of_mem (writeCached_mem ..)
  next hheld =>
  split at e
  · cases e
  have hpinned : s.pinned c pa = false := by
    unfold pinned
    cases hc : s.cached c pa with
    | none => rfl
    | some l => simpa [hc] using hheld
  split at e
  · cases e
  · cases e
  next h qa u hr =>
  have hmem : u.mem = s.mem := mem_of_stay (reach_stay hr)
  have hplaces : s.storePlaces c pa bs.length = u.places h.dieId qa bs.length := by
    unfold storePlaces
    rw [hpinned, if_neg Bool.false_ne_true, hr]
    rfl
  split at e
  · cases e
  split at e
  · cases e
  split at e
  · cases e
  split at e
  · cases e
  next v hv =>
  have hvmem : v.mem = u.mem := mem_of_stay ((passTag_stay hv).trans (usePass_stay u c h))
  split at e
  · split at e
    · cases e
    · cases e
      refine sameMemBut_of_mem ?_
      rw [writeCached_mem, mem_of_stay (staleFills_stay ..), mem_of_stay (install_stay ..), pinAt_mem, hvmem, hmem]
  · cases e
    intro a ha
    rw [hplaces] at ha
    have hvp : v.places h.dieId qa bs.length = u.places h.dieId qa bs.length := by
      have hcur : (v.die h.dieId).cur = (u.die h.dieId).cur := by rw [passTag_die hv, usePass_die]
      unfold places
      simp only [homeAt_of_cur hcur]
    rw [dropClean_mem, homeWrite_sameMemBut v h.dieId qa bs (by rw [hvmem, hmem]; exact hwf) a (by rw [hvp]; exact ha), hvmem, hmem]

/-! The stores of an instruction, in turn (R184). -/

section
variable (x : Site) (ys : List (Nat × Lanes))

theorem walkPut_cons (s : State) (p : (Nat × Nat) × Nat × Nat) (ps : List ((Nat × Nat) × Nat × Nat)) :
    s.walkPut x ys (p :: ps) = (s.walkPut x ys [p]).walkPut x ys ps := by
  obtain ⟨⟨k, l⟩, pa, policy⟩ := p
  rw [walkPut, walkPut]
  split <;> rfl

/-- One store changes the bytes of its element, and no other byte. -/
theorem walkPut_one (s : State) (p : (Nat × Nat) × Nat × Nat) (hwf : s.mem.wf = true) :
    SameMemBut (s.storePlaces x.core p.2.1 (walkSize (x.w.walker p.1.1).desc)) s (s.walkPut x ys [p]) := by
  obtain ⟨⟨k, l⟩, pa, policy⟩ := p
  rw [walkPut]
  dsimp only
  split
  · next e =>
    intro a ha
    have hw := writePlace_sameMemBut hwf e a (by rw [leBytes_length]; exact ha)
    rw [walkPut, noteStore_mem]
    exact hw
  · exact sameMemBut_of_mem (recordRff_mem ..)
  · exact sameMemBut_of_mem rfl

/-- The stores of a list change the bytes that `storeTargets` names, and no other byte. -/
theorem walkPut_sameMemBut (ps : List ((Nat × Nat) × Nat × Nat)) :
    ∀ s : State, s.mem.wf = true → SameMemBut (s.storeTargets x ys ps) s (s.walkPut x ys ps) := by
  induction ps with
  | nil => exact fun s _ => sameMemBut_of_mem rfl
  | cons p ps ih =>
    intro s hwf a ha
    rw [storeTargets, List.mem_append, not_or] at ha
    rw [walkPut_cons, ih _ (walkPut_canon hwf) a ha.2, walkPut_one x ys s p hwf a ha.1]

theorem walkEnd_sameMemBut {s : State} (act : Mask) (hwf : s.mem.wf = true) : SameMemBut (s.walkTargets x act ys) s (s.walkEnd x act ys) := by
  have hmem := mem_of_stay (walkLooks_stay x (walkLanes act ys) s)
  intro a ha
  unfold walkEnd
  unfold walkTargets at ha
  dsimp only at ha ⊢
  rw [walkPut_sameMemBut x ys _ _ (by rw [hmem]; exact hwf) a ha, hmem]

/-- While a lane's place is shut, the instruction faults or waits, and memory is as before. -/
theorem walkStore_shut {s : State} (act : Mask) (h : s.walkOpen x act ys = false) :
    ∃ r, s.walkStore x act ys = .error r ∧ ∀ t, r = .next t → SameMem s t := by
  unfold walkStore
  dsimp only
  split
  · refine ⟨_, rfl, fun t ht a => ?_⟩
    obtain rfl := Host.Outcome.next.inj ht
    rw [raise_mem]
  · rw [if_neg (by rw [h]; exact Bool.false_ne_true)]
    refine ⟨_, rfl, fun t ht a => ?_⟩
    obtain rfl := Host.Outcome.next.inj ht
    have hmem := foldl_keeps State.mem
      (fun (s : State) (y : Nat × Lanes) => s.sense 0 x.core (walkLane x y.1 0) (32 * walkSize (x.w.walker y.1).desc))
      (fun _ _ => sense_mem ..) ys s
    exact congrArg (fun m => Memory.read m a) hmem

end

end State

/-- Settles O39: by whether every place is open, and by induction on the stores. -/
theorem walkerStores : Obligations.WalkerStores := fun _ x act ys hwf _ =>
  ⟨fun hopen => ⟨walkStore_open hopen, State.walkEnd_sameMemBut x ys act hwf⟩, State.walkStore_shut x ys act⟩

end Sys2Proof.Machine
end

section
/-! PROOFS. PREF, and the hold of a long instruction whose destination the clause has yet to commit (R172, R353), and their
obligation (O20). -/

open Sys2Proof Sys2Proof.Machine

namespace Sys2Proof.Machine

namespace State

variable {s t : State}

/-! Requests and the switch of a die's tables change no launch (R44, R70-R72). -/

@[simp] theorem sendLine_launches (s : State) (l : LinePkt) : (s.sendLine l).launches = s.launches := by
  unfold sendLine arriveLine
  repeat' split
  all_goals simp

theorem takeTag_launches {c : CoreId} {far : Bool} {use : TagUse} {n : Nat} (h : s.takeTag c far use = some (n, t)) :
    t.launches = s.launches := by
  unfold takeTag at h
  split at h
  · split at h
    · cases h
      exact updWarp_launches ..
    · obtain ⟨m, -, e⟩ := Option.map_eq_some_iff.mp h
      cases e
      rfl
  · cases h
    rfl

@[simp] theorem holdTag_launches (s : State) (c : CoreId) (n : Nat) (q : Packet) (l : Option LinePkt) (use : TagUse) :
    (s.holdTag c n q l use).launches = s.launches := by
  unfold holdTag
  split <;> rfl

theorem requestLine_launches {c : CoreId} {far : Bool} {l : LinePkt} {use : TagUse} (h : s.requestLine c far l use = some t) :
    t.launches = s.launches := by
  unfold requestLine at h
  split at h
  · cases h
  · next e =>
    dsimp only at h
    split at h <;> obtain rfl := Option.some.inj h <;> simp [takeTag_launches e]

@[simp] theorem writeBack_launches (s : State) (c : CoreId) (l : CacheLine) : (s.writeBack c l).launches = s.launches := by
  unfold writeBack
  split
  · rfl
  · dsimp only
    split
    · next e =>
      have h := requestLine_launches e
      exact h
    · unfold afterOnce
      split <;> rfl

@[simp] theorem recallLine_launches (s : State) (c : CoreId) (l : CacheLine) : (s.recallLine c l).launches = s.launches := by
  unfold recallLine
  split
  · rfl
  · exact writeBack_launches ..
  · rfl

@[simp] theorem foldl_launches {α : Type} (f : State → α → State) (h : ∀ s x, (f s x).launches = s.launches) (l : List α) (s : State) :
    (l.foldl f s).launches = s.launches := foldl_keeps State.launches f h l s

@[simp] theorem fireWatchesOf_launches (s : State) (p : Nat) (d : DieId) (pa n : Nat) : (s.fireWatchesOf p d pa n).launches = s.launches := by
  unfold fireWatchesOf
  dsimp only
  split
  · rfl
  · exact (foldl_launches _ (fun _ _ => updPkg_launches ..) _ _).trans rfl

@[simp] theorem handWatches_launches (s : State) (d : DieId) (old : Tables) : (s.handWatches d old).launches = s.launches := by
  unfold handWatches
  refine (foldl_launches _ (fun s w => ?_) _ _).trans rfl
  split
  · exact (fireWatchesOf_launches ..).trans rfl
  · rfl

@[simp] theorem switchDie_launches (s : State) (d : DieId) : (s.switchDie d).launches = s.launches := by
  unfold switchDie
  dsimp only
  split
  · rfl
  · refine (foldl_launches _ (fun s x => ?_) _ _).trans ((handWatches_launches ..).trans rfl)
    exact foldl_launches _ (fun _ _ => recallLine_launches ..) _ _

@[simp] theorem meetVersion_launches (s : State) (d : DieId) (v : BitVec 16) : (s.meetVersion d v).launches = s.launches := by
  unfold meetVersion
  split
  · split
    · exact switchDie_launches ..
    · rfl
  · rfl

/-! What an access that only looks leaves alone. -/

/-- The warps, memory, the blocks, the domain and the launches. -/
def seen (s : State) : Tab WarpId Warp × Memory × Tab BlockId Block × Domain × Tab Nat Launch := (s.warps, s.mem, s.blocks, s.dom, s.launches)

theorem seen_of (hstay : t.stay = s.stay) (hctx : t.contexts = s.contexts) (hfix : t.ground.fixed = s.ground.fixed)
    (hl : t.launches = s.launches) : t.seen = s.seen := by
  have hdom : t.dom = s.dom := congrArg Fixed.dom hfix
  have hblocks : t.blocks = s.blocks := congrArg Prod.snd hctx
  rw [seen, seen, warps_of_stay hstay, mem_of_stay hstay, hblocks, hdom, hl]

theorem meetVersion_seen (s : State) (d : DieId) (v : BitVec 16) : (s.meetVersion d v).seen = s.seen :=
  seen_of (meetVersion_stay ..) (meetVersion_contexts ..) (meetVersion_fixed ..) (meetVersion_launches ..)

theorem reach_seen {d : DieId} {pa b : Nat} {h : Home} (e : s.reach d pa = .at_ h b t) : t.seen = s.seen :=
  reach_induction (P := fun u => u.seen = s.seen) rfl (fun _ _ _ hu => (meetVersion_seen ..).trans hu) e

theorem walkLevels_seen {d : DieId} {va : Nat} {ls : List Nat} : ∀ {s : State} {table : Nat} {path : Tab (Nat × Nat) Nat},
    (s.walkLevels d va ls table path).2.2.seen = s.seen := by
  induction ls with
  | nil => exact rfl
  | cons l ls ih =>
    intro s table path
    unfold walkLevels
    dsimp only
    split
    · exact ih
    · split
      · next e =>
        have ht := reach_seen e
        split
        · exact ht
        · split
          · exact ht
          · split
            · exact ht
            · exact ht
            · exact ih.trans ht
      · rfl

theorem walkKeep_seen (s : State) (d : DieId) (va : Nat) : (s.walkKeep d va).seen = s.seen := by
  have h : (s.walkFrom d va).2.2.seen = s.seen := walkLevels_seen
  unfold walkKeep
  split
  · next e =>
    rw [e] at h
    exact h
  · next e =>
    rw [e] at h
    exact h

theorem translate_seen {c : CoreId} {va : Nat} {x : TlbEnt} (e : s.translate c va = .ok x t) : t.seen = s.seen := by
  unfold translate at e
  split at e
  · cases e
    rfl
  · split at e
    · cases e
      rfl
    · split at e
      · cases e
      · split at e
        · cases e
          exact walkKeep_seen ..
        · cases e
        · cases e

/-! A request under a tag that no instruction owns (R44). -/

@[simp] theorem arrive_warps (s : State) (q : Packet) : (s.arrive q).warps = s.warps := by
  unfold arrive arriveSlot
  dsimp only
  repeat' split
  all_goals simp

@[simp] theorem send_warps (s : State) (q : Packet) : (s.send q).warps = s.warps := by
  unfold send
  split <;> simp

theorem send_seen (s : State) (q : Packet) : (s.send q).seen = s.seen :=
  seen_of (stay_of (send_warps ..) (send_ground ..)) (send_contexts ..) (congrArg Ground.fixed (send_ground ..)) (send_launches ..)

theorem request_seen {c : CoreId} {far : Bool} {q : Packet} {use : TagUse} (ho : use.owner = none)
    (e : s.request c far q use = some t) : t.seen = s.seen := by
  have htake : ∀ n u, s.takeTag c far use = some (n, u) → u.seen = s.seen := by
    intro n u h
    unfold takeTag at h
    rw [ho] at h
    split at h
    · split at h
      · next hs => cases hs
      · obtain ⟨m, -, e⟩ := Option.map_eq_some_iff.mp h
        cases e
        rfl
    · cases h
      rfl
  unfold request at e
  split at e
  · cases e
  · next n u h =>
    obtain rfl := Option.some.inj e
    refine (send_seen ..).trans (Eq.trans ?_ (htake _ _ h))
    unfold holdTag
    dsimp only
    split <;> rfl

theorem lineRequest_seen {c : CoreId} {h : Home} {scope pa : Nat} {use : TagUse} (ho : use.owner = none) :
    ((s.lineRequest c h scope pa use).getD s).seen = s.seen := by
  cases e : s.lineRequest c h scope pa use with
  | none => rfl
  | some t => exact request_seen ho e

theorem prefLane_seen (s : State) (wid : WarpId) (l scope va : Nat) : (s.prefLane wid l scope va).seen = s.seen := by
  unfold prefLane
  dsimp only
  split
  · next e u he =>
    have hu : u.seen = s.seen := by
      split at he
      · exact translate_seen he
      · cases he
    split
    · exact hu
    · split
      · exact hu
      · split
        · split
          · exact hu
          · exact (lineRequest_seen rfl).trans hu
        · split
          · split
            · exact hu
            · exact (lineRequest_seen rfl).trans hu
          · exact hu
  · rfl

end State

/-! PREF (R353). -/

/-- The state behind the lanes of a PREF. -/
def State.prefLanes (s : State) (x : Site) (m : Mm) (xm : Option Xm) : State :=
  let addr : Nat → Nat := fun l =>
    let v := (capture x.w (pairOf m.pair m.a.toNat)).getD l 0
    (x.w.spair m.base.toNat + (if m.pair then v else sext64 (loWord v)) + dispOf xm).toNat
  let pages := ((activeLanes (memAct x m xm)).map fun l => pageOf (addr l)).eraseDups
  let missing := pages.filter fun p => (tlbFind (s.core x.core).tlb (p * 2 ^ 16)).isNone
  let dropped := missing.drop (freeSlots x.w)
  (activeLanes (memAct x m xm)).foldl (fun s l =>
    if dropped.contains (pageOf (addr l)) || addr l % 4 != 0 then s
    else s.prefLane x.wid l ((xm.map (·.scope.toNat)).getD 0) (addr l)) s

theorem prefLanes_seen (s : State) (x : Site) (m : Mm) (xm : Option Xm) : (s.prefLanes x m xm).seen = s.seen := by
  unfold State.prefLanes
  extract_lets addr pages missing dropped
  refine foldl_keeps State.seen _ (fun s l => ?_) _ _
  split
  · rfl
  · exact State.prefLane_seen ..

/-- With its offsets ready PREF brings its lanes' lines nearer and goes on. -/
theorem pref_ready {s : State} {x : Site} {i : Instr} {m : Mm} {xm : Option Xm} (hx : s.siteOf = some x)
    (hr : sourcesReady x (memAct x m xm) ((pairOf m.pair m.a.toNat).map (·, m.fa)) [] = true) :
    ∃ l, s.pref i m xm = .next (({ s.prefLanes x m xm with inflight := (s.prefLanes x m xm).inflight ++ l } : State).advanceTo x
      (if xm.isSome then 2 else 1) (x.stepped (pairOf m.pair m.a.toNat)) none) := by
  obtain ⟨l, hl⟩ := stepInputs_spec (s.prefLanes x m xm) x (pairOf m.pair m.a.toNat)
  have hcheck := regCheck_ready s x (memAct x m xm) _ [] [] false hr rfl
  have hpref : s.pref i m xm = match s.regCheck x (memAct x m xm) ((pairOf m.pair m.a.toNat).map (·, m.fa)) [] [] false with
      | some r => r
      | none => match (s.prefLanes x m xm).stepInputs x x.w (pairOf m.pair m.a.toNat) with
        | (u, w) => .next (u.advance x (if xm.isSome then 2 else 1) w) := by
    rw [State.pref, atSite_some hx]
    rfl
  rw [hcheck, hl] at hpref
  exact ⟨l, hpref⟩

/-- PREF completes, and leaves memory, the other warps, the blocks, the domain and the launches as they were. -/
theorem pref_completes {s : State} {x : Site} {i : Instr} {m : Mm} {xm : Option Xm} (hx : s.siteOf = some x)
    (he : exec i s = s.pref i m xm) (hr : sourcesReady x (memAct x m xm) ((pairOf m.pair m.a.toNat).map (·, m.fa)) [] = true) :
    ∃ t w, exec i s = .next t ∧ (∀ a, t.mem.read a = s.mem.read a) ∧ (∀ v, v ≠ x.wid → t.warp? v = s.warp? v) ∧
      t.blocks = s.blocks ∧ t.dom = s.dom ∧ t.launches = s.launches ∧ t.warp? x.wid = some w ∧
      x.Moves (if xm.isSome then 2 else 1) none w ∧ AgreeBut [] [] [] (x.read (pairOf m.pair m.a.toNat)) (commitHeld w x.sel) := by
  obtain ⟨l, hl⟩ := pref_ready (i := i) hx hr
  have hseen := prefLanes_seen s x m xm
  generalize s.prefLanes x m xm = p at hl hseen
  have hsl := stepped_slot x (pairOf m.pair m.a.toNat) (siteOf_spec hx).2.2.1
  have hj : (x.stepped (pairOf m.pair m.a.toNat)).j = x.w.j := (stepWalkers_spec _ _).2.2
  simp only [State.seen, Prod.mk.injEq] at hseen
  obtain ⟨hwarps, hmem, hblocks, hdom, hlaunches⟩ := hseen
  obtain ⟨w, hw, ht, v, hv, hc⟩ := advanceTo_spec { p with inflight := p.inflight ++ l } x (if xm.isSome then 2 else 1)
    (x.stepped (pairOf m.pair m.a.toNat)) none
  obtain ⟨tmem, -, tothers, tblocks, -, -, -, tdom, -, tlaunches, -⟩ := ht
  refine ⟨_, w, he.trans hl, fun a => (tmem a).trans (by rw [← hmem]), fun u hu => (tothers u hu).trans (by rw [State.warp?, State.warp?, ← hwarps]),
    tblocks.trans hblocks, tdom.trans hdom, tlaunches.trans hlaunches, hw,
    advanceTo_moves _ x _ _ none (by rw [hsl]) (by rw [hsl]) (by rw [hsl]) hj w hw, ?_⟩
  rcases hc with hc | hc <;> rw [hc]
  · exact hv.agree
  · exact hv.agree.exit

/-! A destination that the clause has yet to commit (R172). -/

/-- Behind the commit the site is as before, with its results committed. -/
theorem siteOf_setWarp_done {s : State} {x : Site} (hx : s.siteOf = some x) :
    (s.setWarp x.wid x.done).siteOf = some (x.withW x.done) := by
  obtain ⟨-, hblock, -, hsite⟩ := siteOf_spec hx
  have hb : x.done.block = x.w.block := by
    unfold Site.done commitHeld
    rw [Warp.setSlot_block, (commits_stands _ _).2.2]
  unfold State.siteOf
  rw [show (s.setWarp x.wid x.done).site = some (x.wid, x.sel) from hsite]
  dsimp only
  rw [warp?_setWarp]
  dsimp only
  rw [hb, show (s.setWarp x.wid x.done).block? x.w.block = some x.b from hblock]
  rfl

/-- A long instruction whose destination an uncommitted result of the clause writes waits while the clause has a result to come, and then
runs behind the commit. -/
theorem holds_of_holdFor {i : Instr} {ds : List Nat} {f : State → Site → Result} (he : ∀ s, exec i s = s.atSite fun x => s.holdFor x ds f)
    (s : State) (x : Site) (hx : s.siteOf = some x) (hd : ds.any (heldWritesV x.sl) = true) :
    (clausePending x.w x.sel = true → Waits i s) ∧
      (clausePending x.w x.sel = false → exec i s = exec i (s.setWarp x.wid x.done)) := by
  have hs : exec i s = s.holdFor x ds f := (he s).trans (atSite_some hx _)
  refine ⟨fun hp => waits_of_stall ?_, fun hp => ?_⟩
  · rw [hs, State.holdFor, if_pos hd, if_pos hp]
  · have hsite : (s.setWarp x.wid x.done).siteOf = some (x.withW x.done) := siteOf_setWarp_done hx
    have hfree : ds.any (heldWritesV (x.withW x.done).sl) = false := by
      have hheld : (x.done.slot x.sel).held = [] := by
        unfold Site.done commitHeld
        dsimp only
        rw [Warp.slot_setSlot_self]
      rw [List.any_eq_false]
      intro r _
      simp [heldWritesV, Site.withW, hheld]
    rw [hs, he, atSite_some hsite, State.holdFor, State.holdFor, if_pos hd, if_neg (by rw [hp]; exact Bool.false_ne_true),
      if_neg (by rw [hfree]; exact Bool.false_ne_true)]
    rfl

/-- Settles O20: PREF, and the long instructions behind an uncommitted result. -/
theorem prefetchAndHold : Obligations.PrefetchAndHold := by
  refine ⟨fun m e i xm hi s x hx => ?_, ?_⟩
  · intro off hr
    have hoff : off = pairOf m.pair m.a.toNat := rfl
    rw [hoff] at hr ⊢
    rcases hi with ⟨rfl, rfl⟩ | ⟨rfl, rfl⟩
    · exact pref_completes hx rfl hr
    · exact pref_completes hx rfl hr
  · intro holds r e m x
    refine ⟨holds_of_holdFor fun _ => rfl, holds_of_holdFor fun _ => rfl, holds_of_holdFor fun _ => rfl, holds_of_holdFor fun _ => rfl,
      holds_of_holdFor fun _ => rfl, holds_of_holdFor fun _ => rfl, holds_of_holdFor fun _ => rfl, ?_, holds_of_holdFor fun _ => rfl,
      holds_of_holdFor fun _ => rfl, holds_of_holdFor fun _ => rfl, holds_of_holdFor fun _ => rfl, holds_of_holdFor fun _ => rfl⟩
    have hdest : (if x.minor = 1 then [m.d.toNat, m.d.toNat + 1] else [m.d.toNat]) =
        regsFrom m.d.toNat (if MemOp.wide { space := .pool, kind := .load, minor := x.minor.toNat } then 2 else 1) := by
      by_cases h : x.minor = 1
      · rw [if_pos h, h]
        rfl
      · have hne : ¬x.minor.toNat = 1 := fun hn => h (BitVec.eq_of_toNat_eq hn)
        have hw : MemOp.wide { space := .pool, kind := .load, minor := x.minor.toNat } = false := by simp [MemOp.wide, hne]
        rw [if_neg h, hw]
        rfl
    rw [hdest]
    exact holds_of_holdFor fun _ => rfl

end Sys2Proof.Machine
end

section
/-! PROOFS. What decodes encodes to its own words (R276-R296). -/

open Sys2Proof Sys2Proof.Machine

namespace Sys2Proof.Machine

/-! The fields of a word, put together again (R279-R283). -/

theorem packReg_parseReg (w : Word) : packReg (parseReg w) = w.extractLsb' 0 25 := by
  refine BitVec.eq_of_getLsbD_eq fun i hi => ?_
  simp only [packReg, parseReg, BitVec.getLsbD_append, BitVec.getLsbD_extractLsb', BitVec.getLsbD_ofBool]
  interval_cases i <;> simp

theorem packRi_parseRi (w : Word) : packRi (parseRi w) = w.extractLsb' 0 25 := by
  refine BitVec.eq_of_getLsbD_eq fun i hi => ?_
  simp only [packRi, parseRi, BitVec.getLsbD_append, BitVec.getLsbD_extractLsb']
  interval_cases i <;> simp

theorem packBr_parseBr (w : Word) : packBr (parseBr w) = w.extractLsb' 0 25 := by
  refine BitVec.eq_of_getLsbD_eq fun i hi => ?_
  simp only [packBr, parseBr, BitVec.getLsbD_append, BitVec.getLsbD_extractLsb']
  interval_cases i <;> simp

theorem packMm_parseMm (w : Word) : packMm (parseMm w) = w.extractLsb' 0 25 := by
  refine BitVec.eq_of_getLsbD_eq fun i hi => ?_
  simp only [packMm, parseMm, BitVec.getLsbD_append, BitVec.getLsbD_extractLsb', BitVec.getLsbD_ofBool]
  interval_cases i <;> simp

theorem packXr_parseXr (w : Word) : packXr (parseXr w) = w := by
  refine BitVec.eq_of_getLsbD_eq fun i hi => ?_
  simp only [packXr, parseXr, BitVec.getLsbD_append, BitVec.getLsbD_extractLsb', BitVec.getLsbD_ofBool]
  interval_cases i <;> simp

theorem packXm_parseXm (w : Word) : packXm (parseXm w) = w := by
  refine BitVec.eq_of_getLsbD_eq fun i hi => ?_
  simp only [packXm, parseXm, BitVec.getLsbD_append, BitVec.getLsbD_extractLsb', BitVec.getLsbD_ofBool]
  interval_cases i <;> simp

/-- A first word is its long bit, its major and its other 25 bits (R279). -/
theorem first_eq (w : Word) : first (if longBit w then 1 else 0) (majorOf w) (w.extractLsb' 0 25) = w := by
  have hl : (BitVec.ofNat 1 (if longBit w then 1 else 0)) = w.extractLsb' 31 1 := by
    refine BitVec.eq_of_getLsbD_eq fun i hi => ?_
    obtain rfl : i = 0 := by omega
    cases h : longBit w <;> simp [longBit] at h <;> simp [h]
  have hm : BitVec.ofNat 6 (majorOf w) = w.extractLsb' 25 6 := by
    refine BitVec.eq_of_toNat_eq ?_
    simp [majorOf, Nat.shiftRight_eq_div_pow]
  unfold first
  rw [hl, hm]
  refine BitVec.eq_of_getLsbD_eq fun i hi => ?_
  simp only [BitVec.getLsbD_append, BitVec.getLsbD_extractLsb']
  interval_cases i <;> simp

theorem first_short {w : Word} {m : Nat} (hl : longBit w = false) (hm : majorOf w = m) : first 0 m (w.extractLsb' 0 25) = w := by
  have h := first_eq w
  rw [hl, hm] at h
  exact h

theorem first_long {w : Word} {m : Nat} (hl : longBit w = true) (hm : majorOf w = m) : first 1 m (w.extractLsb' 0 25) = w := by
  have h := first_eq w
  rw [hl, hm] at h
  exact h

theorem majorOf_lt (w : Word) : majorOf w < 64 := Nat.mod_lt _ (by decide)

/-! The tables of short forms (R289-R296), row by row: each form encodes to the word that it was read from. -/

section
variable {m : Nat} {w : Word} {i : Instr} (hl : longBit w = false) (hm : majorOf w = m)
include hl hm

theorem encode_shortOf_ctrl (h : shortOf .ctrl m w = some i) : encode i = some (.ctrl, [w]) := by
  have hlt := hm ▸ majorOf_lt w
  interval_cases m <;> cases h <;> change some (_, [_]) = _ <;>
    simp only [packReg_parseReg, packRi_parseRi, packBr_parseBr, first_short hl hm]

theorem encode_shortOf_vec (h : shortOf .vec m w = some i) : encode i = some (.vec, [w]) := by
  have hlt := hm ▸ majorOf_lt w
  interval_cases m <;> cases h <;> change some (_, [_]) = _ <;>
    simp only [packReg_parseReg, packRi_parseRi, first_short hl hm]

theorem encode_shortOf_mem (h : shortOf .mem m w = some i) : encode i = some (.mem, [w]) := by
  have hlt := hm ▸ majorOf_lt w
  interval_cases m <;> cases h <;> change some (_, [_]) = _ <;>
    simp only [packMm_parseMm, first_short hl hm]

theorem encode_shortOf_mtx (h : shortOf .mtx m w = some i) : encode i = some (.mtx, [w]) := by
  have hlt := hm ▸ majorOf_lt w
  interval_cases m <;> cases h <;> change some (_, [_]) = _ <;>
    simp only [packReg_parseReg, packMm_parseMm, first_short hl hm]

theorem encode_shortOf_cpy (h : shortOf .cpy m w = some i) : encode i = some (.cpy, [w]) := by
  have hlt := hm ▸ majorOf_lt w
  interval_cases m <;> cases h <;> change some (_, [_]) = _ <;>
    simp only [packReg_parseReg, first_short hl hm]

theorem encode_shortOf_sync (h : shortOf .sync m w = some i) : encode i = some (.sync, [w]) := by
  have hlt := hm ▸ majorOf_lt w
  interval_cases m <;> cases h <;> change some (_, [_]) = _ <;>
    simp only [packReg_parseReg, packRi_parseRi, first_short hl hm]

theorem encode_shortOf_sys (h : shortOf .sys m w = some i) : encode i = some (.sys, [w]) := by
  have hlt := hm ▸ majorOf_lt w
  interval_cases m <;> cases h <;> change some (_, [_]) = _ <;>
    simp only [packReg_parseReg, packRi_parseRi, first_short hl hm]

end

/-! The tables of long forms (R281-R283), row by row. -/

section
variable {m : Nat} {w x : Word} {i : Instr} (hl : longBit w = true) (hm : majorOf w = m)
include hl hm

theorem encode_longOf_ctrl (h : longOf .ctrl m w x = some i) : encode i = some (.ctrl, [w, x]) := by
  have hlt := hm ▸ majorOf_lt w
  interval_cases m <;> cases h <;> change some (_, [_, _]) = _ <;>
    simp only [packReg_parseReg, packRi_parseRi, packBr_parseBr, packXr_parseXr, first_long hl hm]

theorem encode_longOf_vec (h : longOf .vec m w x = some i) : encode i = some (.vec, [w, x]) := by
  have hlt := hm ▸ majorOf_lt w
  interval_cases m <;> cases h <;> change some (_, [_, _]) = _ <;>
    simp only [packReg_parseReg, packRi_parseRi, packXr_parseXr, first_long hl hm]

theorem encode_longOf_mem (h : longOf .mem m w x = some i) : encode i = some (.mem, [w, x]) := by
  have hlt := hm ▸ majorOf_lt w
  interval_cases m <;> cases h <;> change some (_, [_, _]) = _ <;>
    simp only [packMm_parseMm, packXm_parseXm, first_long hl hm]

theorem encode_longOf_mtx (h : longOf .mtx m w x = some i) : encode i = some (.mtx, [w, x]) := by
  have hlt := hm ▸ majorOf_lt w
  interval_cases m <;> cases h <;> change some (_, [_, _]) = _ <;>
    simp only [packReg_parseReg, packMm_parseMm, packXr_parseXr, packXm_parseXm, first_long hl hm]

theorem encode_longOf_cpy (h : longOf .cpy m w x = some i) : encode i = some (.cpy, [w, x]) := by
  have hlt := hm ▸ majorOf_lt w
  interval_cases m <;> cases h <;> change some (_, [_, _]) = _ <;>
    simp only [packReg_parseReg, packXm_parseXm, first_long hl hm]

theorem encode_longOf_sync (h : longOf .sync m w x = some i) : encode i = some (.sync, [w, x]) := by
  have hlt := hm ▸ majorOf_lt w
  interval_cases m <;> cases h <;> change some (_, [_, _]) = _ <;>
    simp only [packReg_parseReg, packXm_parseXm, first_long hl hm]

theorem encode_longOf_sys (h : longOf .sys m w x = some i) : encode i = some (.sys, [w, x]) := by
  have hlt := hm ▸ majorOf_lt w
  interval_cases m <;> cases h <;> change some (_, [_, _]) = _ <;>
    simp only [packReg_parseReg, packRi_parseRi, packXm_parseXm, first_long hl hm]

end

theorem encode_shortOf {c : Cls} {m : Nat} {w : Word} {i : Instr} (hl : longBit w = false) (hm : majorOf w = m)
    (h : shortOf c m w = some i) : encode i = some (c, [w]) := by
  cases c
  · exact encode_shortOf_ctrl hl hm h
  · exact encode_shortOf_vec hl hm h
  · exact encode_shortOf_mem hl hm h
  · exact encode_shortOf_mtx hl hm h
  · exact encode_shortOf_cpy hl hm h
  · exact encode_shortOf_sync hl hm h
  · exact encode_shortOf_sys hl hm h

theorem encode_longOf {c : Cls} {m : Nat} {w x : Word} {i : Instr} (hl : longBit w = true) (hm : majorOf w = m)
    (h : longOf c m w x = some i) : encode i = some (c, [w, x]) := by
  cases c
  · exact encode_longOf_ctrl hl hm h
  · exact encode_longOf_vec hl hm h
  · exact encode_longOf_mem hl hm h
  · exact encode_longOf_mtx hl hm h
  · exact encode_longOf_cpy hl hm h
  · exact encode_longOf_sync hl hm h
  · exact encode_longOf_sys hl hm h

/-- A word that decodes without its long bit encodes to itself. -/
theorem encode_of_decode_short {c : Cls} {w : Word} {ext : Option Word} {i : Instr} (hl : longBit w = false)
    (h : decode c w ext = .ok i) : encode i = some (c, [w]) := by
  unfold decode at h
  dsimp only at h
  rw [hl, if_neg Bool.false_ne_true] at h
  cases hs : shortOf c (majorOf w) w with
  | none =>
    rw [hs] at h
    cases h
  | some j =>
    rw [hs] at h
    dsimp only at h
    split at h
    · cases h
      exact encode_shortOf hl rfl hs
    · cases h

/-- Two words that decode, the first with its long bit, encode to themselves. -/
theorem encode_of_decode_long {c : Cls} {w x : Word} {i : Instr} (hl : longBit w = true) (h : decode c w (some x) = .ok i) :
    encode i = some (c, [w, x]) := by
  unfold decode at h
  dsimp only at h
  rw [hl, if_pos rfl] at h
  cases hs : longOf c (majorOf w) w x with
  | none =>
    rw [hs] at h
    cases h
  | some j =>
    rw [hs] at h
    dsimp only at h
    split at h
    · cases h
      exact encode_longOf hl rfl hs
    · cases h

/-! The table's bits (R298). -/

/-- The words of a run of bits: the first, and the second where the first is long. -/
def tableWords (v : Nat) : List Word :=
  BitVec.ofNat 32 v :: (if longBit (BitVec.ofNat 32 v) then [BitVec.ofNat 32 (v / 2 ^ 32)] else [])

theorem takeWord_wordBytes (w : Word) (rest : List Byte) : takeWord (wordBytes w ++ rest) = some (w, rest) := by
  have h : w.extractLsb' 24 8 ++ w.extractLsb' 16 8 ++ w.extractLsb' 8 8 ++ w.extractLsb' 0 8 = w := by
    refine BitVec.eq_of_getLsbD_eq fun i hi => ?_
    simp only [BitVec.getLsbD_append, BitVec.getLsbD_extractLsb']
    interval_cases i <;> simp
  simp only [wordBytes, List.cons_append, List.nil_append, takeWord]
  exact congrArg (fun v => some (v, rest)) h

theorem decodeBytes_tableBytes {c : Cls} {v : Nat} {i : Instr} {rest : List Byte} (h : decodeBytes c (tableBytes v) = .ok (i, rest)) :
    encode i = some (c, tableWords v) := by
  unfold decodeBytes tableBytes at h
  rw [takeWord_wordBytes] at h
  dsimp only at h
  unfold tableWords
  cases hl : longBit (BitVec.ofNat 32 v)
  · rw [hl, if_neg Bool.false_ne_true] at h
    rw [if_neg Bool.false_ne_true]
    cases hd : decode c (BitVec.ofNat 32 v) none with
    | error e =>
      rw [hd] at h
      cases h
    | ok j =>
      rw [hd] at h
      cases h
      exact encode_of_decode_short hl hd
  · have ht := takeWord_wordBytes (BitVec.ofNat 32 (v / 2 ^ 32)) []
    rw [List.append_nil] at ht
    rw [hl, if_pos rfl, ht] at h
    rw [if_pos rfl]
    dsimp only at h
    cases hd : decode c (BitVec.ofNat 32 v) (some (BitVec.ofNat 32 (v / 2 ^ 32))) with
    | error e =>
      rw [hd] at h
      cases h
    | ok j =>
      rw [hd] at h
      cases h
      exact encode_of_decode_long hl hd

theorem firstDecode_spec {bs : List Byte} {cs : List Cls} {c : Cls} {i : Instr} (h : firstDecode bs cs = some (c, i)) :
    ∃ rest, decodeBytes c bs = .ok (i, rest) := by
  induction cs with
  | nil => cases h
  | cons d cs ih =>
    unfold firstDecode at h
    split at h
    · next j rest hd =>
      cases h
      exact ⟨rest, hd⟩
    · exact ih h

/-- What the table's bits decode to encodes to their words. -/
theorem encode_of_decodeTable {nbits v : Nat} {c : Cls} {i : Instr} (h : decodeTable nbits v = some (c, i)) :
    encode i = some (c, tableWords (v % 2 ^ nbits)) := by
  obtain ⟨rest, hd⟩ := firstDecode_spec h
  exact decodeBytes_tableBytes hd

/-! Headers (R276, R277). -/

/-- The header of a clause that holds one instruction of one or two words. -/
theorem decodeHeader_encodeHeader (c : Cls) (n : Nat) (hn : n = 1 ∨ n = 2) :
    decodeHeader (encodeHeader { n := n, cls := c, yield := false, hold := 0 }) = some { n := n, cls := c, yield := false, hold := 0 } := by
  rcases hn with rfl | rfl <;> cases c <;> decide

end Sys2Proof.Machine
end

section
/-! PROOFS. A step runs the instruction that it decodes (R167-R169, R298, R299). -/

open Sys2Proof Sys2Proof.Machine

namespace Sys2Proof.Machine

/-! A warp that is stored again. -/

theorem tset_of_tget? {κ α : Type} [DecidableEq κ] {t : Tab κ α} {k : κ} {v : α} (h : tget? t k = some v) : tset t k v = t := by
  induction t with
  | nil => cases h
  | cons x t ih =>
    obtain ⟨k', v'⟩ := x
    unfold tget? at h
    unfold tset
    split
    · next e =>
      rw [if_pos e] at h
      cases h
      rw [e]
    · next e =>
      rw [if_neg e] at h
      rw [ih h]

namespace State

theorem setWarp_of_warp? {s : State} {wid : WarpId} {w : Warp} (h : s.warp? wid = some w) : s.setWarp wid w = s := by
  unfold setWarp
  rw [tset_of_tget? h]

/-! An event whose turn it is (R2, R261). -/

theorem step_event {s : State} {i : Instr} {arg : Arg} (ht : s.turn = some (.event i arg)) (hm : (i, arg) ∈ s.inflight) :
    step s = match exec i { s with turn := none, inflight := s.inflight.erase (i, arg), arg := arg } with
      | .next t => .next (({ t with arg := {}, stalled := false } : State).recordsSince { s with turn := none })
      | r => r := by
  have hbegin : ({ s with turn := none } : State).begin_ i arg = { s with turn := none, inflight := s.inflight.erase (i, arg), arg := arg } := by
    unfold begin_
    rw [if_pos (by simpa using hm)]
  unfold step turnStep nextAct
  rw [ht]
  dsimp only
  unfold perform
  dsimp only
  rw [hbegin]
  generalize exec i _ = r
  cases r <;> rfl

/-! A slot's next word (R168, R278, R298). -/

/-- The word after a slot's next one, where that one is long (R277). -/
def extWord (y : Site) (cl : Clause) : Option Word := if longBit (cl.words.getD (y.k - 1) 0) then cl.words[y.k]? else none

/-- The words of a slot decode to an instruction, and none of the clause's checks speaks against it (R278, R298). -/
structure GoesOn (y : Site) (cl : Clause) (i : Instr) : Prop where
  decodes : decode cl.hdr.cls (cl.words.getD (y.k - 1) 0) (extWord y cl) = .ok i
  notParked : y.sl.parkedWait = false
  extFree : (extWord y cl).isSome = true → cl.hdr.hold.getLsbD y.k = false
  atEnd : isTransfer i = true → y.k + (if (extWord y cl).isSome then 1 else 0) = cl.hdr.n
  notHeld : cl.hdr.hold.getLsbD (y.k - 1) = false ∨ y.k = 1

theorem nextInstr_go {s : State} {y : Site} {cl : Clause} {i : Instr} (hw : s.warp? y.wid = some y.w) (h : GoesOn y cl i) :
    s.nextInstr y cl = .go i { s with site := some (y.wid, y.sel) } := by
  obtain ⟨hdec, hpark, hext, htr, hhold⟩ := h
  have hchecks : ((extWord y cl).isSome && cl.hdr.hold.getLsbD y.k ||
      isTransfer i && y.k + (if (extWord y cl).isSome then 1 else 0) != cl.hdr.n) = false := by
    rw [Bool.or_eq_false_iff]
    constructor
    · cases he : (extWord y cl).isSome
      · rfl
      · rw [hext he]
        rfl
    · cases ht : isTransfer i
      · rfl
      · rw [htr ht]
        simp
  have hheld : (cl.hdr.hold.getLsbD (y.k - 1) && y.k != 1) = false := by
    rcases hhold with hh | hh
    · rw [hh]
      rfl
    · rw [hh]
      simp
  unfold extWord at hdec hchecks
  unfold nextInstr
  simp only [hpark, Bool.false_eq_true, if_false, hdec, hchecks, hheld, Bool.false_and, setWarp_of_warp? hw]

/-- A slot that has fetched its clause has its next instruction ready. -/
theorem ready_fetched {s : State} {x : Site} {cl : Clause} (he : x.w.engine = none) (hc : x.sl.clause = some cl) :
    s.ready x = s.nextInstr x cl := by
  unfold ready
  rw [he, hc]

/-- A slot without a clause fetches it first (R299). -/
theorem ready_fetches {s s1 s2 : State} {x : Site} {hw ws : List Word} {h : Header} (he : x.w.engine = none) (hc : x.sl.clause = none)
    (hal : x.sl.pc.toNat % 4 = 0) (hf1 : s.fetchWords x.core x.sl.pc.toNat 1 = .ok (hw, s1)) (hh : decodeHeader (hw.getD 0 0) = some h)
    (hf2 : s1.fetchWords x.core (x.sl.pc.toNat + 4) h.n = .ok (ws, s2)) (hl : longAtEnd ws = false) :
    let sl := { x.sl with clause := some { hdr := h, words := ws } }
    let w := x.w.setSlot x.sel sl
    s.ready x = (s2.setWarp x.wid w).nextInstr { x with w := w, sl := sl } { hdr := h, words := ws } := by
  intro sl w
  have hal' : (x.sl.pc.toNat % 4 != 0) = false := by simp [hal]
  have hslot : w.slot x.sel = sl := Warp.slot_setSlot_self ..
  have hfetch : s.fetchClause x = .wait (s2.setWarp x.wid w) := by
    unfold fetchClause
    dsimp only
    rw [hal', if_neg Bool.false_ne_true, hf1]
    dsimp only
    rw [hh]
    dsimp only
    rw [hf2]
    dsimp only
    rw [hl, if_neg Bool.false_ne_true]
  unfold ready
  rw [he, hc]
  dsimp only
  rw [hfetch]
  dsimp only
  rw [warp?_setWarp]
  dsimp only
  rw [hslot]

/-! The first slot that can issue (R168, R169). -/

/-- A quadrant whose rivals do not come before it lets its first slot issue. -/
theorem issueQuad_first {s : State} {c : CoreId} {q : Nat} (h : (∀ r, r < 4 → r ≠ q → s.candidates c r = []) ∨ s.refused exec c q = false) :
    s.issueQuad exec c q = issueFirst exec c q (s.issueOrder c q) s := by
  have hno : (([0, 1, 2, 3].any fun r => r != q && !(s.candidates c r).isEmpty) && s.refused exec c q) = false := by
    rcases h with h | h
    · have hr : ([0, 1, 2, 3].any fun r => r != q && !(s.candidates c r).isEmpty) = false := by
        rw [List.any_eq_false]
        intro r hr
        by_cases hq : r = q
        · simp [hq]
        · have hlt : r < 4 := by
            simp only [List.mem_cons, List.not_mem_nil, or_false] at hr
            omega
          simp [h r hlt hq]
      rw [hr, Bool.false_and]
    · rw [h, Bool.and_false]
  unfold issueQuad
  dsimp only
  rw [hno, if_neg Bool.false_ne_true]

/-- The first slot of the order issues what it has ready; when that waits, the next slot is tried. -/
theorem issueFirst_go {s s' : State} {c : CoreId} {q : Nat} {p : WarpId × PcSel} {ps : List (WarpId × PcSel)} {x : Site} {i : Instr}
    (hx : ({ s with site := some p } : State).siteOf = some x) (hr : s.ready x = .go i s') :
    issueFirst exec c q (p :: ps) s =
      match exec i (if s.holdsPass p && x.sl.k != 0 && s.alone exec c q p then s'.endPasses [p.1] else s') with
      | .next t => if t.stalled then issueFirst exec c q ps { t with stalled := false, site := none }
        else .next { (((t.endPasses (if x.sl.k = 0 then s.passedOver exec c q p else [])).dropLatch p.1 i).noteServed c q i) with site := none }
      | r => r := by
  rw [issueFirst, hx]
  dsimp only
  rw [hr]
  dsimp only
  generalize exec i _ = r
  cases r <;> rfl

theorem step_issue {s : State} {c : CoreId} {q : Nat} (ht : s.turn = some (.issue c q)) :
    step s = ({ s with turn := none } : State).issueQuad exec c q := by
  unfold step turnStep nextAct
  rw [ht]
  rfl

/-- A quadrant's first slot whose words go on performs their instruction. -/
theorem step_first {s s1 : State} {c : CoreId} {q : Nat} {p : WarpId × PcSel} {ps : List (WarpId × PcSel)} {x y : Site} {cl : Clause} {i : Instr}
    (ht : s.turn = some (.issue c q)) (ho : ({ s with turn := none } : State).issueOrder c q = p :: ps)
    (hx : ({ ({ s with turn := none } : State) with site := some p } : State).siteOf = some x)
    (hq : (∀ r, r < 4 → r ≠ q → ({ s with turn := none } : State).candidates c r = []) ∨ ({ s with turn := none } : State).refused exec c q = false)
    (hr : ({ s with turn := none } : State).ready x = s1.nextInstr y cl) (hw : s1.warp? y.wid = some y.w) (hy : (y.wid, y.sel) = (x.wid, x.sel))
    (hgo : GoesOn y cl i) :
    let s0 : State := { s with turn := none }
    let s2 : State := { s1 with site := some p }
    step s = match exec i (if s0.holdsPass p && x.sl.k != 0 && s0.alone exec c q p then s2.endPasses [p.1] else s2) with
      | .next t => if t.stalled then issueFirst exec c q ps { t with stalled := false, site := none }
        else .next { (((t.endPasses (if x.sl.k = 0 then s0.passedOver exec c q p else [])).dropLatch p.1 i).noteServed c q i) with site := none }
      | r => r := by
  intro s0 s2
  have hp : p = (x.wid, x.sel) := Option.some.inj (siteOf_spec hx).2.2.2
  have hready : s0.ready x = .go i s2 := by
    rw [show s0.ready x = _ from hr, nextInstr_go hw hgo, hy, ← hp]
  rw [step_issue ht, issueQuad_first hq, ho, issueFirst_go hx hready]

end State

end Sys2Proof.Machine
end

section
/-! PROOFS. The placed clause (R298, R299): its words are fetched from the core's instruction cache, and its slot is the only one that may issue. -/

open Sys2Proof Sys2Proof.Machine

namespace Sys2Proof.Machine

/-- The word of a code line at a byte. -/
def codeWord (data : List Byte) (o : Nat) : Word := BitVec.ofNat 32 (leVal ((data.drop o).take 4))

namespace State

/-- A core's first-level TLB holds one translation and its instruction cache a line, in a die whose tables name no region. -/
structure HoldsCode (s : State) (c : CoreId) (e : TlbEnt) (n : Nat) (data : List Byte) : Prop where
  tlb : (s.core c).tlb = [e]
  line : ∃ l, tget? (s.core c).icache n = some l ∧ l.data = data
  regions : (s.die c.dieId).cur.regions = []

variable {s : State} {c : CoreId} {e : TlbEnt} {n va : Nat} {data : List Byte}

theorem homeAt_of_holdsCode (h : s.HoldsCode c e n data) (pa : Nat) : s.homeAt c.dieId pa = none := by
  simp [homeAt, homeOf, findRegion, h.regions]

/-- With no home anywhere, no line is asked for ahead of a page's own lines. -/
theorem icacheAhead_of_holdsCode (h : s.HoldsCode c e n data) (hp : (va / 128 + 1) * 128 / 2 ^ e.log = va / 2 ^ e.log) :
    s.icacheAhead c e va = s := by
  unfold icacheAhead
  dsimp only
  rw [if_pos hp, homeAt_of_holdsCode h, Option.isNone_none, Bool.or_true, if_pos rfl, ite_self]

theorem holdsCode_icacheHit (h : s.HoldsCode c e n data) {l : CodeLine} (hl : tget? (s.core c).icache n = some l) :
    (s.icacheHit c e n l).HoldsCode c e n data := by
  obtain ⟨ht, ⟨l', hl', hd⟩, hr⟩ := h
  rw [hl] at hl'
  cases hl'
  have hcore : (s.icacheHit c e n l).core c = { s.core c with icache := waysPut 32 4 (s.core c).icache n (CodeLine.seen l e) } :=
    core_updCore_self s c fun k => { k with icache := waysPut 32 4 k.icache n (CodeLine.seen l e) }
  have hseen : (CodeLine.seen l e).data = l.data := by
    unfold CodeLine.seen
    split <;> rfl
  refine ⟨by rw [hcore]; exact ht, ⟨_, by rw [hcore]; exact tget?_waysPut_self .., by rw [hseen, hd]⟩, ?_⟩
  unfold icacheHit
  rw [updDie, setDie_die_self]
  split <;> exact hr

/-- A word of the line that the core holds is fetched from there (R299). -/
theorem fetchWord_of_holdsCode (h : s.HoldsCode c e n data) (hva : va < 2 ^ 57) (hc : e.covers va = true)
    (hx : permitted e false true = true) (hn : lineOf (e.phys va) = n) (hp : (va / 128 + 1) * 128 / 2 ^ e.log = va / 2 ^ e.log) :
    ∃ s', s.fetchWord c va = .ok (codeWord data (e.phys va % 128)) s' ∧ s'.HoldsCode c e n data := by
  obtain ⟨l, hl, hd⟩ := h.line
  have htr : s.translate c va = .ok e (s.updCore c fun k => { k with tlb := tlb1Use k.tlb e }) := by
    simp [translate, h.tlb, tlbFind, hc]
  generalize hu : (s.updCore c fun k => { k with tlb := tlb1Use k.tlb e }) = u at htr
  have hcore : u.core c = { s.core c with tlb := [e] } := by
    rw [← hu, core_updCore_self, h.tlb]
    simp [tlb1Use]
  have hul : tget? (u.core c).icache n = some l := by rw [hcore]; exact hl
  have hhold : u.HoldsCode c e n data := ⟨by rw [hcore], ⟨l, hul, hd⟩, by rw [← hu]; exact h.regions⟩
  have hcw : u.cachedWord c (e.phys va) = some (codeWord data (e.phys va % 128)) := by
    rw [cachedWord, hn, hul, Option.map_some, hd]
    rfl
  have hhit := holdsCode_icacheHit hhold hul
  refine ⟨u.icacheHit c e n l, ?_, hhit⟩
  unfold fetchWord
  rw [if_neg (by omega), htr]
  dsimp only
  rw [hx, Bool.not_true, if_neg Bool.false_ne_true, hcw]
  dsimp only
  rw [hn, hul]
  dsimp only
  rw [icacheAhead_of_holdsCode hhit hp]

end State

/-! The words of the placed clause. -/

/-- A line of code whose first bytes are the words of a list. -/
theorem codeWord_flatMap {ws : List Word} {j : Nat} {x : Word} (rest : List Byte) (h : ws[j]? = some x) :
    codeWord ((ws.flatMap fun y => leBytes 4 y.toNat) ++ rest) (4 * j) = x := by
  induction ws generalizing j with
  | nil => cases h
  | cons w ws ih =>
    have hlen : (leBytes 4 w.toNat).length = 4 := leBytes_length ..
    rw [List.flatMap_cons, List.append_assoc]
    cases j with
    | zero =>
      cases h
      have hval : leVal (leBytes 4 x.toNat) = x.toNat := by
        rw [leVal_leBytes]
        exact Nat.mod_eq_of_lt x.isLt
      rw [codeWord, Nat.mul_zero, List.drop_zero, List.take_left' hlen, hval, BitVec.ofNat_toNat, BitVec.setWidth_eq]
    | succ j =>
      rw [codeWord, show 4 * (j + 1) = 4 + 4 * j by omega, ← List.drop_drop, List.drop_left' hlen]
      exact ih h

/-- The translation of the placed clause's page. -/
def placeEnt : TlbEnt := { va := placeAddr, log := 16, pa := placeAddr, flags := 2 }

/-- A core that holds the words of a clause in its line fetches them one after another. -/
theorem State.fetchWords_of_holdsCode {ws : List Word} {rest : List Byte} (hlen : ws.length ≤ 16) (n : Nat) : ∀ {s : State} {j : Nat},
    s.HoldsCode placeCore placeEnt (lineOf placeAddr) ((ws.flatMap fun y => leBytes 4 y.toNat) ++ rest) → j + n ≤ ws.length →
      ∃ s', s.fetchWords placeCore (placeAddr + 4 * j) n = .ok ((ws.drop j).take n, s') ∧
        s'.HoldsCode placeCore placeEnt (lineOf placeAddr) ((ws.flatMap fun y => leBytes 4 y.toNat) ++ rest) := by
  induction n with
  | zero => exact fun h _ => ⟨_, by rw [fetchWords, List.take_zero], h⟩
  | succ n ih =>
    intro s j h hj
    have hadd : placeAddr = 65536 := rfl
    have hphys : placeEnt.phys (placeAddr + 4 * j) = placeAddr + 4 * j := by
      unfold TlbEnt.phys placeEnt
      dsimp only
      omega
    have hcov : placeEnt.covers (placeAddr + 4 * j) = true := by
      unfold TlbEnt.covers placeEnt
      rw [beq_iff_eq]
      dsimp only
      omega
    obtain ⟨s1, hf, h1⟩ := fetchWord_of_holdsCode h (va := placeAddr + 4 * j) (by omega) hcov (by decide)
      (by rw [hphys, lineOf, lineOf]; omega) (by unfold placeEnt; dsimp only; omega)
    obtain ⟨s2, hfs, h2⟩ := ih h1 (j := j + 1) (by omega)
    refine ⟨s2, ?_, h2⟩
    have hoff : placeEnt.phys (placeAddr + 4 * j) % 128 = 4 * j := by
      rw [hphys]
      omega
    rw [hoff, codeWord_flatMap rest (List.getElem?_eq_getElem (show j < ws.length by omega))] at hf
    rw [fetchWords, hf]
    dsimp only
    rw [show placeAddr + 4 * j + 4 = placeAddr + 4 * (j + 1) by omega, hfs]
    dsimp only
    rw [List.drop_eq_getElem_cons (show j < ws.length by omega), List.take_succ_cons]

/-! The slots of the placed state. -/

def placedBlock : Block := { Block.start placeCore 1 16 8 16 4 256 (List.range 16) [0] with priv := true }

def placedWarp : Warp := Warp.start placeBlock 0 16 8 (BitVec.ofNat 64 placeAddr)

/-- The placed state once its turn is taken. -/
def placed0 (nbits w : Nat) : State := { State.reset.withFetchWord nbits w with turn := none }

variable {nbits w : Nat}

theorem placed0_warps : (placed0 nbits w).warps = [(placeWarp, placedWarp)] := rfl

theorem placed0_blocks : (placed0 nbits w).blocks = [(placeBlock, placedBlock)] := rfl

theorem placed0_block? : (placed0 nbits w).block? placeBlock = some placedBlock := rfl

theorem placed0_core : (placed0 nbits w).core placeCore = { Core.reset with
    icache := [(lineOf placeAddr, { data := placeLine nbits w, pages := [] })], tlb := [placeEnt] } := rfl

theorem placed0_die : (placed0 nbits w).die placeCore.dieId = { Die.reset with released := true } := rfl

theorem placed0_warp?_of_ne {c : CoreId} {n : Nat} (h : n ≠ 0) : (placed0 nbits w).warp? { core := c, slot := n } = none := by
  rw [State.warp?, placed0_warps, tget?, if_neg (fun e => h (congrArg WarpId.slot e).symm), tget?]

theorem placed0_not_stopped : stopped (placed0 nbits w) placeWarp placedWarp = false := by
  have hd : (placed0 nbits w).die placeWarp.core.dieId = { Die.reset with released := true } := placed0_die
  have hc : ((placed0 nbits w).core placeWarp.core).frozen = false := by
    rw [show placeWarp.core = placeCore from rfl, placed0_core]
    rfl
  have hb : (placed0 nbits w).block? placedWarp.block = some placedBlock := placed0_block?
  have hf : (placed0 nbits w).frozen = false := rfl
  unfold stopped
  rw [hd, hc, hb, hf]
  rfl

theorem placedWarp_mayIssue_a : mayIssue placedWarp .a = true := by
  decide

theorem placedWarp_mayIssue_b : mayIssue placedWarp .b = false := by
  decide

/-- The slots of a warp that may issue. -/
def warpCandidates (s : State) (wid : WarpId) : List (WarpId × PcSel) :=
  match s.warp? wid with
  | none => []
  | some w => if stopped s wid w then [] else [.a, .b].filterMap fun x => if mayIssue w x then some (wid, x) else none

theorem candidates_eq_flatMap (s : State) (c : CoreId) (q : Nat) :
    s.candidates c q = (List.range 16).flatMap fun i => warpCandidates s { core := c, slot := 4 * i + q } := rfl

/-- No slot of another warp may issue. -/
theorem warpCandidates_placed0_of_ne {c : CoreId} {n : Nat} (h : n ≠ 0) : warpCandidates (placed0 nbits w) { core := c, slot := n } = [] := by
  rw [warpCandidates, placed0_warp?_of_ne h]

/-- Of the placed warp, slot A may issue. -/
theorem warpCandidates_placed0 : warpCandidates (placed0 nbits w) placeWarp = [(placeWarp, .a)] := by
  have hw : (placed0 nbits w).warp? placeWarp = some placedWarp := rfl
  rw [warpCandidates, hw]
  dsimp only
  rw [placed0_not_stopped, if_neg Bool.false_ne_true]
  simp [placedWarp_mayIssue_a, placedWarp_mayIssue_b]

theorem placed0_candidates_zero : (placed0 nbits w).candidates placeCore 0 = [(placeWarp, .a)] := by
  have hfirst : warpCandidates (placed0 nbits w) { core := placeCore, slot := 4 * 0 + 0 } = [(placeWarp, .a)] := warpCandidates_placed0
  rw [candidates_eq_flatMap, List.range_succ_eq_map, List.flatMap_cons, hfirst, List.append_right_eq_self, List.flatMap_eq_nil_iff]
  intro i hi
  obtain ⟨m, -, rfl⟩ := List.mem_map.mp hi
  exact warpCandidates_placed0_of_ne (by omega)

theorem placed0_candidates_of_ne {q : Nat} (h : q ≠ 0) : (placed0 nbits w).candidates placeCore q = [] := by
  rw [candidates_eq_flatMap, List.flatMap_eq_nil_iff]
  exact fun i _ => warpCandidates_placed0_of_ne (by omega)

theorem placed0_issueOrder : (placed0 nbits w).issueOrder placeCore 0 = [(placeWarp, .a)] := by
  have hw : (placed0 nbits w).warp? placeWarp = some placedWarp := rfl
  have hslot : (placed0 nbits w).slotAt (placeWarp, .a) = placedWarp.a := by
    rw [State.slotAt, hw]
    rfl
  have hpass : (placed0 nbits w).holdsPass (placeWarp, .a) = false := by
    rw [State.holdsPass, hw]
    rfl
  have hk : placedWarp.a.k = 0 := rfl
  have hsearch : (placed0 nbits w).searchOrder placeCore 0 [(placeWarp, .a)] = [(placeWarp, .a)] := by
    have hlast : tget? ((placed0 nbits w).core placeCore).lastStart 0 = none := by rw [placed0_core]; rfl
    unfold State.searchOrder
    dsimp only
    rw [hlast]
    rfl
  unfold State.issueOrder
  dsimp only
  rw [placed0_candidates_zero]
  simp [hslot, hk, hsearch, hpass]

/-- Where the placed instruction issues. -/
def placedSite : Site := { wid := placeWarp, sel := .a, w := placedWarp, sl := placedWarp.a, b := placedBlock }

theorem placed0_siteOf : ({ placed0 nbits w with site := some (placeWarp, .a) } : State).siteOf = some placedSite := rfl

/-! The fetch of the placed clause. -/

theorem placed0_holdsCode : (placed0 nbits w).HoldsCode placeCore placeEnt (lineOf placeAddr) (placeLine nbits w) := by
  refine ⟨by rw [placed0_core], ⟨{ data := placeLine nbits w, pages := [] }, ?_, rfl⟩, by rw [placed0_die]; rfl⟩
  rw [placed0_core]
  exact if_pos rfl

/-- The words of a table's bits and the number of them that the header gives. -/
theorem placeWords_of_decodeTable {c : Cls} {i : Instr} (h : decodeTable nbits w = some (c, i)) :
    placeWords nbits w = encodeHeader { n := (tableWords (w % 2 ^ nbits)).length, cls := c, yield := false, hold := 0 } :: tableWords (w % 2 ^ nbits) := by
  unfold placeWords tableWords
  rw [h]
  dsimp only [Option.map_some, Option.getD_some]
  cases longBit (BitVec.ofNat 32 (w % 2 ^ nbits)) <;> rfl

theorem tableWords_length (v : Nat) : (tableWords v).length = 1 ∨ (tableWords v).length = 2 := by
  unfold tableWords
  cases longBit (BitVec.ofNat 32 v)
  · exact Or.inl rfl
  · exact Or.inr rfl

theorem longAtEnd_tableWords (v : Nat) : longAtEnd (tableWords v) = false := by
  unfold tableWords
  cases hl : longBit (BitVec.ofNat 32 v) <;> simp [longAtEnd, hl]

theorem placed_fetches {c : Cls} {i : Instr} (h : decodeTable nbits w = some (c, i)) :
    let hd : Header := { n := (tableWords (w % 2 ^ nbits)).length, cls := c, yield := false, hold := 0 }
    ∃ s1 s2, (placed0 nbits w).fetchWords placeCore placeAddr 1 = .ok ([encodeHeader hd], s1) ∧
      s1.fetchWords placeCore (placeAddr + 4) hd.n = .ok (tableWords (w % 2 ^ nbits), s2) := by
  intro hd
  have hn := tableWords_length (w % 2 ^ nbits)
  have hhold := placed0_holdsCode (nbits := nbits) (w := w)
  unfold placeLine at hhold
  dsimp only at hhold
  rw [placeWords_of_decodeTable h] at hhold
  have hlen : (encodeHeader hd :: tableWords (w % 2 ^ nbits)).length = hd.n + 1 := rfl
  have hn' : hd.n = 1 ∨ hd.n = 2 := hn
  obtain ⟨s1, hf1, h1⟩ := State.fetchWords_of_holdsCode (by rw [hlen]; omega) 1 (j := 0) hhold (by rw [hlen]; omega)
  obtain ⟨s2, hf2, _⟩ := State.fetchWords_of_holdsCode (by rw [hlen]; omega) hd.n (j := 1) h1 (by rw [hlen]; omega)
  refine ⟨s1, s2, hf1, ?_⟩
  rw [show placeAddr + 4 = placeAddr + 4 * 1 from rfl, hf2, List.drop_succ_cons, List.drop_zero, List.take_length]

/-- Settles O60: by what is due, by what a slot has ready, and by the fetch of the placed clause. -/
theorem stepRunsDecoded : Obligations.StepRunsDecoded := by
  refine ⟨fun s i arg ht hm => State.step_event ht hm, ?_, ?_⟩
  · intro s c q p ps x s0 ht ho hx he hq runs
    have hw : s0.warp? x.wid = some x.w := (siteOf_spec hx).1
    refine ⟨fun cl hcl => ?_, fun ws hw' h s1 s2 hc hal hf1 hh hf2 hl => ?_⟩
    · intro i w0 ext last hdec hpark hext htr hhold
      exact State.step_first ht ho hx hq (State.ready_fetched he hcl) hw rfl ⟨hdec, hpark, hext, htr, hhold⟩
    · intro sl w i w0 ext last hdec hpark hext htr hhold
      exact State.step_first ht ho hx hq (State.ready_fetches he hc hal hf1 hh hf2 hl) (warp?_setWarp _ _ _) rfl
        ⟨hdec, hpark, hext, htr, hhold⟩
  · intro nbits w cls i hdec s s0
    obtain ⟨s1, s2, hf1, hf2⟩ := placed_fetches hdec
    exact ⟨(placeWarp, .a), [], placedSite, rfl, placed0_issueOrder, placed0_siteOf, rfl, rfl, by decide, rfl, rfl,
      fun r _ hr => placed0_candidates_of_ne hr, _, _, _, s1, s2, encode_of_decodeTable hdec, rfl, hf1,
      decodeHeader_encodeHeader cls _ (tableWords_length _), hf2, longAtEnd_tableWords _⟩


end Sys2Proof.Machine
end
